-- ==== Sys2Proof/Word.lean ====
section
/-! DEFINITION. The word types of the machine and their plainest arithmetic. -/

namespace Sys2Proof

/-- A scalar register, an address, a dword (R3, R28). -/
abbrev Dword := BitVec 64
/-- A vector register (R28). -/
abbrev Vec := BitVec 1024
/-- A mask register (R28). -/
abbrev Mask := BitVec 256
/-- A byte of memory. -/
abbrev Byte := BitVec 8

/-- Bits `lo` and up of `w`, `n` of them, as a field. -/
def fieldOf (w lo n : Nat) : BitVec n := BitVec.ofNat n (w / 2 ^ lo)

/-- The number a one-bit Bool stands for. -/
def bitOf (b : Bool) : Nat := if b then 1 else 0

end Sys2Proof
end

