-- ==== Sys2Proof/Config.lean ====
section
/-! DEFINITION. What an implementation fixes, and the values the manual leaves open. Each is opaque: nothing in Lean
can compute it or prove a value of it, so a statement about it holds whatever it is. -/

namespace Sys2Proof.Config

/-- The hardware entropy source of R39: the n-th value drawn from it (log 3). -/
opaque entropy : Nat → BitVec 64

/-- The ordering code of the part (R1): true for EXJ4-M768, false for EXJ4-P (log 7). -/
opaque isModule : Bool

/-- The answer of Markhor to the n-th SPDM request, of this kind, while this is what its measurements cover (R410): the
manual gives its protocol and its signatures, not its bytes (log 8). -/
opaque spdmAnswer : Nat → List Nat → Nat → List (BitVec 8)

/-- Does the host's root port advertise the AtomicOp routing for operands of this many bits (R187, log 60)? -/
opaque rootRoutesAtomics : Nat → Bool

/-- The package power limit in watts (R23). -/
def powerLimit : Nat := if isModule then 3200 else 3000

end Sys2Proof.Config
end

