-- ==== Sys2Proof/Syntax.lean ====
section
/-! DEFINITION. The syntax of Gnoene: one constructor of `Instr` for each row of spec/opcode_table.json.
Instruction rows carry the fields the row names, letter for letter and as wide as the row makes them; event rows
(spec/95_what_each_step_holds.md) carry what the event is about. A constructor's docstring is the row's own summary. -/

namespace Sys2Proof

/-- Who writes a register of the package control block (R24, R186, R371): a hart by its privilege and world, the
host, or Markhor. -/
inductive Agent where
  | user (secure : Bool)
  | supervisor (secure : Bool)
  | machine (secure : Bool)
  | host
  | markhor
deriving DecidableEq, Repr

/-- Who sends a 64-byte record to a work queue from outside the package's own harts (R305): the host through BAR2,
or another package's hart by a LAUNCH message that carries its TID and world (R368). -/
inductive Sender where
  | host
  | fabric (package : Nat) (hartid : BitVec 64) (tid : BitVec 12) (secure : Bool)
deriving DecidableEq, Repr

/-- What Markhor finds of a firmware image (R408, R409): the verdicts of the two signatures, the image's security
version, the fused minimum, and the verdicts of self-test and HBM training. -/
structure BootImage where
  rsaGood : Bool
  slhGood : Bool
  version : Nat
  minimum : Nat
  selfTestGood : Bool
  trainingGood : Bool
deriving DecidableEq, Repr

/-- A text section as placed: its first address and its length in bytes (R85). -/
structure TextSection where
  base : Nat
  size : Nat
deriving DecidableEq, Repr

/-- A kernel of an image as the checker sees it (R82, R85): the section of its range, its entry label as section and
offset, its range, the barrier groups that it declares. -/
structure Kernel where
  sect : Nat
  entrySect : Nat
  entry : Nat
  start : Nat
  size : Nat
  gangBarrier : Bool
  localMask : BitVec 32
  spanMask : BitVec 16
deriving DecidableEq, Repr

/-- The text sections and kernels submitted to the image checker (R83 step 6), with the placed rodata and graph
sections, whose pages are made read-only with the text's (R83 step 7). -/
structure CheckedImage where
  sections : List TextSection
  kernels : List Kernel
  readOnly : List TextSection := []
deriving DecidableEq, Repr

/-- The instructions (rows 0 to 335) and the events (rows 336 to 422) of spec/opcode_table.json. -/
inductive Instr where
  /-- ADD (R109). X[d] = X[a] + X[b] modulo 2^64. -/
  | add (d : BitVec 5) (a : BitVec 5) (b : BitVec 5)
  /-- SUB (R109). X[d] = X[a] − X[b] modulo 2^64. -/
  | sub (d : BitVec 5) (a : BitVec 5) (b : BitVec 5)
  /-- AND (R109). Bitwise AND of X[a] and X[b]. -/
  | and (d : BitVec 5) (a : BitVec 5) (b : BitVec 5)
  /-- OR (R109). Bitwise OR of X[a] and X[b]. -/
  | or (d : BitVec 5) (a : BitVec 5) (b : BitVec 5)
  /-- XOR (R109). Bitwise XOR of X[a] and X[b]. -/
  | xor (d : BitVec 5) (a : BitVec 5) (b : BitVec 5)
  /-- ANDN (R109). X[a] AND NOT X[b]. -/
  | andn (d : BitVec 5) (a : BitVec 5) (b : BitVec 5)
  /-- ORN (R109). X[a] OR NOT X[b]. -/
  | orn (d : BitVec 5) (a : BitVec 5) (b : BitVec 5)
  /-- XNOR (R109). NOT (X[a] XOR X[b]). -/
  | xnor (d : BitVec 5) (a : BitVec 5) (b : BitVec 5)
  /-- SLL (R109). Logical left shift of X[a] by X[b][5:0]. -/
  | sll (d : BitVec 5) (a : BitVec 5) (b : BitVec 5)
  /-- SRL (R109). Logical right shift of X[a] by X[b][5:0]. -/
  | srl (d : BitVec 5) (a : BitVec 5) (b : BitVec 5)
  /-- SRA (R109). Arithmetic right shift of X[a] by X[b][5:0]. -/
  | sra (d : BitVec 5) (a : BitVec 5) (b : BitVec 5)
  /-- ROL (R109). Rotate X[a] left by X[b][5:0]. -/
  | rol (d : BitVec 5) (a : BitVec 5) (b : BitVec 5)
  /-- ROR (R109). Rotate X[a] right by X[b][5:0]. -/
  | ror (d : BitVec 5) (a : BitVec 5) (b : BitVec 5)
  /-- SLT (R109). 1 if X[a] < X[b] signed, else 0. -/
  | slt (d : BitVec 5) (a : BitVec 5) (b : BitVec 5)
  /-- SLTN (R109). 1 if X[a] < X[b] natural, else 0. -/
  | sltn (d : BitVec 5) (a : BitVec 5) (b : BitVec 5)
  /-- SEQ (R109). 1 if X[a] == X[b], else 0. -/
  | seq (d : BitVec 5) (a : BitVec 5) (b : BitVec 5)
  /-- SNE (R109). 1 if X[a] != X[b], else 0. -/
  | sne (d : BitVec 5) (a : BitVec 5) (b : BitVec 5)
  /-- MIN (R109). Signed minimum of X[a] and X[b]. -/
  | min (d : BitVec 5) (a : BitVec 5) (b : BitVec 5)
  /-- MAX (R109). Signed maximum of X[a] and X[b]. -/
  | max (d : BitVec 5) (a : BitVec 5) (b : BitVec 5)
  /-- MINN (R109). Natural minimum of X[a] and X[b]. -/
  | minn (d : BitVec 5) (a : BitVec 5) (b : BitVec 5)
  /-- MAXN (R109). Natural maximum of X[a] and X[b]. -/
  | maxn (d : BitVec 5) (a : BitVec 5) (b : BitVec 5)
  /-- CLZ (R109). Count of leading zero bits of X[a], 64 for zero. -/
  | clz (d : BitVec 5) (a : BitVec 5)
  /-- CTZ (R109). Count of trailing zero bits of X[a], 64 for zero. -/
  | ctz (d : BitVec 5) (a : BitVec 5)
  /-- POPC (R109). Number of 1 bits of X[a]. -/
  | popc (d : BitVec 5) (a : BitVec 5)
  /-- BSWAP (R109). Byte reversal of X[a]. -/
  | bswap (d : BitVec 5) (a : BitVec 5)
  /-- SEXT_B (R109). Sign-extends X[a] from 8 bits. -/
  | sextB (d : BitVec 5) (a : BitVec 5)
  /-- SEXT_H (R109). Sign-extends X[a] from 16 bits. -/
  | sextH (d : BitVec 5) (a : BitVec 5)
  /-- SEXT_W (R109). Sign-extends X[a] from 32 bits. -/
  | sextW (d : BitVec 5) (a : BitVec 5)
  /-- ZEXT_W (R109). Zero-extends X[a] from 32 bits. -/
  | zextW (d : BitVec 5) (a : BitVec 5)
  /-- ADDW (R108). Word-form add, sign-extended to 64 bits. -/
  | addw (d : BitVec 5) (a : BitVec 5) (b : BitVec 5)
  /-- SUBW (R108). Word-form subtract, sign-extended to 64 bits. -/
  | subw (d : BitVec 5) (a : BitVec 5) (b : BitVec 5)
  /-- SLLW (R109). Word-form left shift by X[b][4:0]. -/
  | sllw (d : BitVec 5) (a : BitVec 5) (b : BitVec 5)
  /-- SRLW (R109). Word-form logical right shift by X[b][4:0]. -/
  | srlw (d : BitVec 5) (a : BitVec 5) (b : BitVec 5)
  /-- SRAW (R109). Word-form arithmetic right shift by X[b][4:0]. -/
  | sraw (d : BitVec 5) (a : BitVec 5) (b : BitVec 5)
  /-- ADDI (R110). X[d] = X[a] + sign-extended imm16. -/
  | addi (d : BitVec 5) (a : BitVec 5) (i : BitVec 16)
  /-- ANDI (R110). X[d] = X[a] AND zero-extended imm16. -/
  | andi (d : BitVec 5) (a : BitVec 5) (i : BitVec 16)
  /-- ORI (R110). X[d] = X[a] OR zero-extended imm16. -/
  | ori (d : BitVec 5) (a : BitVec 5) (i : BitVec 16)
  /-- XORI (R110). X[d] = X[a] XOR zero-extended imm16. -/
  | xori (d : BitVec 5) (a : BitVec 5) (i : BitVec 16)
  /-- SLTI (R110). 1 if X[a] < signed imm16, else 0. -/
  | slti (d : BitVec 5) (a : BitVec 5) (i : BitVec 16)
  /-- SLTNI (R110). 1 if X[a] natural < sign-extended imm16 taken modulo 2^64. -/
  | sltni (d : BitVec 5) (a : BitVec 5) (i : BitVec 16)
  /-- LUI (R110). X[d] = imm16 × 2^16. -/
  | lui (d : BitVec 5) (i : BitVec 16)
  /-- SLLI (R110). Left shift by an immediate amount. -/
  | slli (d : BitVec 5) (a : BitVec 5) (n : BitVec 6)
  /-- SRLI (R110). Logical right shift by an immediate amount. -/
  | srli (d : BitVec 5) (a : BitVec 5) (n : BitVec 6)
  /-- SRAI (R110). Arithmetic right shift by an immediate amount. -/
  | srai (d : BitVec 5) (a : BitVec 5) (n : BitVec 6)
  /-- RORI (R110). Rotate right by an immediate amount. -/
  | rori (d : BitVec 5) (a : BitVec 5) (n : BitVec 6)
  /-- SLLIW (R110). Word-form left shift by an immediate amount. -/
  | slliw (d : BitVec 5) (a : BitVec 5) (n : BitVec 5)
  /-- SRLIW (R110). Word-form logical right shift by an immediate amount. -/
  | srliw (d : BitVec 5) (a : BitVec 5) (n : BitVec 5)
  /-- SRAIW (R110). Word-form arithmetic right shift by an immediate amount. -/
  | sraiw (d : BitVec 5) (a : BitVec 5) (n : BitVec 5)
  /-- MUL (R111). Low 64 bits of the signed product. -/
  | mul (d : BitVec 5) (a : BitVec 5) (b : BitVec 5)
  /-- MULH (R111). High 64 bits of the signed × signed product. -/
  | mulh (d : BitVec 5) (a : BitVec 5) (b : BitVec 5)
  /-- MULHN (R111). High 64 bits of the natural × natural product. -/
  | mulhn (d : BitVec 5) (a : BitVec 5) (b : BitVec 5)
  /-- MULHSN (R111). High 64 bits of the signed × natural product. -/
  | mulhsn (d : BitVec 5) (a : BitVec 5) (b : BitVec 5)
  /-- DIV (R111). Signed quotient truncated toward zero, with defined results for zero divisor and overflow. -/
  | div (d : BitVec 5) (a : BitVec 5) (b : BitVec 5)
  /-- DIVN (R111). Natural quotient, all ones for a zero divisor. -/
  | divn (d : BitVec 5) (a : BitVec 5) (b : BitVec 5)
  /-- REM (R111). Signed remainder with the dividend's sign. -/
  | rem (d : BitVec 5) (a : BitVec 5) (b : BitVec 5)
  /-- REMN (R111). Natural remainder. -/
  | remn (d : BitVec 5) (a : BitVec 5) (b : BitVec 5)
  /-- MULW (R111). Word-form multiply. -/
  | mulw (d : BitVec 5) (a : BitVec 5) (b : BitVec 5)
  /-- DIVW (R111). Word-form signed divide. -/
  | divw (d : BitVec 5) (a : BitVec 5) (b : BitVec 5)
  /-- DIVNW (R111). Word-form natural divide. -/
  | divnw (d : BitVec 5) (a : BitVec 5) (b : BitVec 5)
  /-- REMW (R111). Word-form signed remainder. -/
  | remw (d : BitVec 5) (a : BitVec 5) (b : BitVec 5)
  /-- REMNW (R111). Word-form natural remainder. -/
  | remnw (d : BitVec 5) (a : BitVec 5) (b : BitVec 5)
  /-- FADD (R114). Scalar floating add in f32 or f64, rounded in FCSR.RM. -/
  | fadd (d : BitVec 5) (a : BitVec 5) (b : BitVec 5) (t : BitVec 1)
  /-- FSUB (R114). Scalar floating subtract. -/
  | fsub (d : BitVec 5) (a : BitVec 5) (b : BitVec 5) (t : BitVec 1)
  /-- FMUL (R114). Scalar floating multiply. -/
  | fmul (d : BitVec 5) (a : BitVec 5) (b : BitVec 5) (t : BitVec 1)
  /-- FDIV (R114). Scalar floating divide. -/
  | fdiv (d : BitVec 5) (a : BitVec 5) (b : BitVec 5) (t : BitVec 1)
  /-- FSQRT (R114). Scalar floating square root. -/
  | fsqrt (d : BitVec 5) (a : BitVec 5) (t : BitVec 1)
  /-- FMIN (R115). Returns the smaller operand unchanged, −0 below +0, NaN handled by R115. -/
  | fmin (d : BitVec 5) (a : BitVec 5) (b : BitVec 5) (t : BitVec 1)
  /-- FMAX (R115). Returns the larger operand unchanged. -/
  | fmax (d : BitVec 5) (a : BitVec 5) (b : BitVec 5) (t : BitVec 1)
  /-- FMAC (R114). Fused X[d] + X[a] × X[b] with one rounding. -/
  | fmac (d : BitVec 5) (a : BitVec 5) (b : BitVec 5) (t : BitVec 1)
  /-- FMSC (R114). Fused X[d] − X[a] × X[b] with one rounding. -/
  | fmsc (d : BitVec 5) (a : BitVec 5) (b : BitVec 5) (t : BitVec 1)
  /-- FABS (R116). Clears the sign bit, canonical NaN for NaN. -/
  | fabs (d : BitVec 5) (a : BitVec 5) (t : BitVec 1)
  /-- FNEG (R116). Inverts the sign bit, canonical NaN for NaN. -/
  | fneg (d : BitVec 5) (a : BitVec 5) (t : BitVec 1)
  /-- FSGMV (R116). A's exponent and mantissa with B's sign. -/
  | fsgmv (d : BitVec 5) (a : BitVec 5) (b : BitVec 5) (t : BitVec 1)
  /-- FEQ (R117). 1 if A = B, no flag. -/
  | feq (d : BitVec 5) (a : BitVec 5) (b : BitVec 5) (t : BitVec 1)
  /-- FLT (R117). 1 if A < B, NV on NaN. -/
  | flt (d : BitVec 5) (a : BitVec 5) (b : BitVec 5) (t : BitVec 1)
  /-- FLE (R117). 1 if A ≤ B, NV on NaN. -/
  | fle (d : BitVec 5) (a : BitVec 5) (b : BitVec 5) (t : BitVec 1)
  /-- FKIND (R118). Writes the KIND and SIGN of the operand. -/
  | fkind (d : BitVec 5) (a : BitVec 5) (t : BitVec 1)
  /-- FCVT_F64_F32 (R119). Exact widening of f32 to f64. -/
  | fcvtF64F32 (d : BitVec 5) (a : BitVec 5)
  /-- FCVT_F32_F64 (R119). Rounds f64 to f32. -/
  | fcvtF32F64 (d : BitVec 5) (a : BitVec 5)
  /-- FCVT_F32_I64 (R119). Converts a signed 64-bit integer to f32. -/
  | fcvtF32I64 (d : BitVec 5) (a : BitVec 5)
  /-- FCVT_F32_N64 (R119). Converts a natural 64-bit integer to f32. -/
  | fcvtF32N64 (d : BitVec 5) (a : BitVec 5)
  /-- FCVT_F64_I64 (R119). Converts a signed 64-bit integer to f64. -/
  | fcvtF64I64 (d : BitVec 5) (a : BitVec 5)
  /-- FCVT_F64_N64 (R119). Converts a natural 64-bit integer to f64. -/
  | fcvtF64N64 (d : BitVec 5) (a : BitVec 5)
  /-- FCVT_I64_F32 (R119). Converts f32 to a signed 64-bit integer, clamping with NV. -/
  | fcvtI64F32 (d : BitVec 5) (a : BitVec 5)
  /-- FCVT_N64_F32 (R119). Converts f32 to a natural 64-bit integer. -/
  | fcvtN64F32 (d : BitVec 5) (a : BitVec 5)
  /-- FCVT_I64_F64 (R119). Converts f64 to a signed 64-bit integer. -/
  | fcvtI64F64 (d : BitVec 5) (a : BitVec 5)
  /-- FCVT_N64_F64 (R119). Converts f64 to a natural 64-bit integer. -/
  | fcvtN64F64 (d : BitVec 5) (a : BitVec 5)
  /-- FCVT_F32_BF16 (R119). Exact widening of bf16 to f32. -/
  | fcvtF32Bf16 (d : BitVec 5) (a : BitVec 5)
  /-- FCVT_BF16_F32 (R119). Rounds f32 to bf16. -/
  | fcvtBf16F32 (d : BitVec 5) (a : BitVec 5)
  /-- FCVT_F32_F16 (R119). Exact widening of f16 to f32. -/
  | fcvtF32F16 (d : BitVec 5) (a : BitVec 5)
  /-- FCVT_F16_F32 (R119). Rounds f32 to f16. -/
  | fcvtF16F32 (d : BitVec 5) (a : BitVec 5)
  /-- LIM (R120). Long form: X[d] = sign-extended imm32. -/
  | lim (d : BitVec 5) (i : BitVec 32)
  /-- LEA (R120). Long form: X[d] = PC + sign-extended imm32. -/
  | lea (d : BitVec 5) (i : BitVec 32)
  /-- CALL_FAR (R322). Long form: links PC + 8 and jumps PC-relative by imm32. -/
  | callFar (d : BitVec 5) (i : BitVec 32)
  /-- BEQ (R321). Branches when X[a] == X[b]. -/
  | beq (a : BitVec 5) (b : BitVec 5) (i : BitVec 16)
  /-- BNE (R321). Branches when X[a] != X[b]. -/
  | bne (a : BitVec 5) (b : BitVec 5) (i : BitVec 16)
  /-- BLT (R321). Branches when X[a] < X[b] signed. -/
  | blt (a : BitVec 5) (b : BitVec 5) (i : BitVec 16)
  /-- BGE (R321). Branches when X[a] ≥ X[b] signed. -/
  | bge (a : BitVec 5) (b : BitVec 5) (i : BitVec 16)
  /-- BLTN (R321). Branches when X[a] < X[b] natural. -/
  | bltn (a : BitVec 5) (b : BitVec 5) (i : BitVec 16)
  /-- BGEN (R321). Branches when X[a] ≥ X[b] natural. -/
  | bgen (a : BitVec 5) (b : BitVec 5) (i : BitVec 16)
  /-- JAL (R322). Links PC + 4 and jumps by disp21 × 4. -/
  | jal (d : BitVec 5) (i : BitVec 21)
  /-- JALR (R322). Links PC + 4 and jumps to X[a] + imm16, FETCH_MISALIGNED if the target is misaligned. -/
  | jalr (d : BitVec 5) (a : BitVec 5) (i : BitVec 16)
  /-- LD (R216). Scalar load of size sz at X[a] + off11 × n, sign- or zero-extended, faults precise. -/
  | ld (d : BitVec 5) (a : BitVec 5) (o : BitVec 11) (s : BitVec 3) (h : BitVec 2)
  /-- ST (R216). Scalar store of size sz retired into the store buffer. -/
  | st (d : BitVec 5) (a : BitVec 5) (o : BitVec 11) (s : BitVec 2) (h : BitVec 2)
  /-- LDX (R216). Indexed scalar load at X[a] + X[b]. -/
  | ldx (d : BitVec 5) (a : BitVec 5) (b : BitVec 5) (s : BitVec 3)
  /-- STX (R216). Indexed scalar store at X[a] + X[b]. -/
  | stx (d : BitVec 5) (a : BitVec 5) (b : BitVec 5) (s : BitVec 2)
  /-- LD_ACQ (R227). Acquire load at a scope, zero-extended. -/
  | ldAcq (d : BitVec 5) (a : BitVec 5) (s : BitVec 5) (z : BitVec 2)
  /-- ST_REL (R227). Release store at a scope. -/
  | stRel (d : BitVec 5) (a : BitVec 5) (s : BitVec 5) (z : BitVec 2)
  /-- FENCE_ACQ (R236). Acquire fence at a scope; drains the store buffer. -/
  | fenceAcq (s : BitVec 5)
  /-- FENCE_REL (R236). Release fence at a scope; flushes subscription batches. -/
  | fenceRel (s : BitVec 5)
  /-- FENCE_AR (R236). Acquire-release fence at a scope. -/
  | fenceAr (s : BitVec 5)
  /-- FENCE_SC (R236). Sequentially consistent fence at a scope. -/
  | fenceSc (s : BitVec 5)
  /-- SDRAIN (R237). Completes when the store buffer is empty, reporting any store fault at user privilege. -/
  | sdrain
  /-- RFENCE (R238). Waits until earlier reductions are applied and acknowledged, then acts as a release. -/
  | rfence (s : BitVec 5)
  /-- ST_AT (R228). Timed store, invisible until GTIME reaches X[b] at its home. -/
  | stAt (d : BitVec 5) (a : BitVec 5) (b : BitVec 5) (s : BitVec 4) (z : BitVec 2)
  /-- LD_NB (R228). Timed load performed no earlier than X[b]. -/
  | ldNb (d : BitVec 5) (a : BitVec 5) (b : BitVec 5) (z : BitVec 2)
  /-- AMOSWAP (R230). Atomic swap returning the old value. -/
  | amoswap (d : BitVec 5) (a : BitVec 5) (b : BitVec 5) (w : BitVec 1)
  /-- AMOADD (R230). Atomic integer add returning the old value. -/
  | amoadd (d : BitVec 5) (a : BitVec 5) (b : BitVec 5) (w : BitVec 1)
  /-- AMOAND (R230). Atomic AND returning the old value. -/
  | amoand (d : BitVec 5) (a : BitVec 5) (b : BitVec 5) (w : BitVec 1)
  /-- AMOOR (R230). Atomic OR returning the old value. -/
  | amoor (d : BitVec 5) (a : BitVec 5) (b : BitVec 5) (w : BitVec 1)
  /-- AMOXOR (R230). Atomic XOR returning the old value. -/
  | amoxor (d : BitVec 5) (a : BitVec 5) (b : BitVec 5) (w : BitVec 1)
  /-- AMOMIN (R230). Atomic signed minimum. -/
  | amomin (d : BitVec 5) (a : BitVec 5) (b : BitVec 5) (w : BitVec 1)
  /-- AMOMAX (R230). Atomic signed maximum. -/
  | amomax (d : BitVec 5) (a : BitVec 5) (b : BitVec 5) (w : BitVec 1)
  /-- AMOMINN (R230). Atomic natural minimum. -/
  | amominn (d : BitVec 5) (a : BitVec 5) (b : BitVec 5) (w : BitVec 1)
  /-- AMOMAXN (R230). Atomic natural maximum. -/
  | amomaxn (d : BitVec 5) (a : BitVec 5) (b : BitVec 5) (w : BitVec 1)
  /-- AMOCAS (R230). Atomic compare-and-swap with expected value in X[d]. -/
  | amocas (d : BitVec 5) (a : BitVec 5) (b : BitVec 5) (w : BitVec 1)
  /-- AMOFADD (R230). Atomic floating add; sets NDET. -/
  | amofadd (d : BitVec 5) (a : BitVec 5) (b : BitVec 5) (w : BitVec 1)
  /-- AMOFMIN (R230). Atomic floating minimum; sets NDET. -/
  | amofmin (d : BitVec 5) (a : BitVec 5) (b : BitVec 5) (w : BitVec 1)
  /-- AMOFMAX (R230). Atomic floating maximum; sets NDET. -/
  | amofmax (d : BitVec 5) (a : BitVec 5) (b : BitVec 5) (w : BitVec 1)
  /-- REDADD (R231). Return-free atomic add in the posted group. -/
  | redadd (a : BitVec 5) (b : BitVec 5) (w : BitVec 1)
  /-- REDAND (R231). Return-free atomic AND. -/
  | redand (a : BitVec 5) (b : BitVec 5) (w : BitVec 1)
  /-- REDOR (R231). Return-free atomic OR. -/
  | redor (a : BitVec 5) (b : BitVec 5) (w : BitVec 1)
  /-- REDXOR (R231). Return-free atomic XOR. -/
  | redxor (a : BitVec 5) (b : BitVec 5) (w : BitVec 1)
  /-- REDMIN (R231). Return-free signed minimum. -/
  | redmin (a : BitVec 5) (b : BitVec 5) (w : BitVec 1)
  /-- REDMAX (R231). Return-free signed maximum. -/
  | redmax (a : BitVec 5) (b : BitVec 5) (w : BitVec 1)
  /-- REDMINN (R231). Return-free natural minimum. -/
  | redminn (a : BitVec 5) (b : BitVec 5) (w : BitVec 1)
  /-- REDMAXN (R231). Return-free natural maximum. -/
  | redmaxn (a : BitVec 5) (b : BitVec 5) (w : BitVec 1)
  /-- REDFADD (R231). Return-free floating add; sets NDET. -/
  | redfadd (a : BitVec 5) (b : BitVec 5) (w : BitVec 1)
  /-- REDFMIN (R231). Return-free floating minimum; sets NDET. -/
  | redfmin (a : BitVec 5) (b : BitVec 5) (w : BitVec 1)
  /-- REDFMAX (R231). Return-free floating maximum; sets NDET. -/
  | redfmax (a : BitVec 5) (b : BitVec 5) (w : BitVec 1)
  /-- RED_ORD_ADD_F32 (R232). Ordered FP32 add applied at time X[d] in key order. -/
  | redOrdAddF32 (d : BitVec 5) (a : BitVec 5) (b : BitVec 5) (s : BitVec 4)
  /-- RED_ORD_ADD_I32 (R232). Ordered INT32 add applied at its time in key order. -/
  | redOrdAddI32 (d : BitVec 5) (a : BitVec 5) (b : BitVec 5) (s : BitVec 4)
  /-- RED_ORD_MIN_F32 (R232). Ordered FP32 minimum applied at its time. -/
  | redOrdMinF32 (d : BitVec 5) (a : BitVec 5) (b : BitVec 5) (s : BitVec 4)
  /-- RED_ORD_MAX_F32 (R232). Ordered FP32 maximum applied at its time. -/
  | redOrdMaxF32 (d : BitVec 5) (a : BitVec 5) (b : BitVec 5) (s : BitVec 4)
  /-- VLD (R224). Contiguous vector load, fault-first. -/
  | vld (d : BitVec 5) (a : BitVec 5) (o : BitVec 11) (e : BitVec 3) (h : BitVec 2)
  /-- VST (R224). Contiguous vector store, fault-first. -/
  | vst (d : BitVec 5) (a : BitVec 5) (o : BitVec 11) (e : BitVec 3) (h : BitVec 2)
  /-- VLDS (R224). Strided predicated vector load. -/
  | vlds (d : BitVec 5) (a : BitVec 5) (b : BitVec 5) (p : BitVec 3) (e : BitVec 3)
  /-- VSTS (R224). Strided predicated vector store. -/
  | vsts (d : BitVec 5) (a : BitVec 5) (b : BitVec 5) (p : BitVec 3) (e : BitVec 3)
  /-- VLDX (R224). Indexed (gather) vector load. -/
  | vldx (d : BitVec 5) (a : BitVec 5) (b : BitVec 5) (p : BitVec 3) (e : BitVec 3)
  /-- VSTX (R224). Indexed (scatter) vector store. -/
  | vstx (d : BitVec 5) (a : BitVec 5) (b : BitVec 5) (p : BitVec 3) (e : BitVec 3)
  /-- VLDM (R224). Contiguous predicated vector load, e2m1 nibbles for code 4. -/
  | vldm (d : BitVec 5) (a : BitVec 5) (p : BitVec 3) (e : BitVec 3)
  /-- VSTM (R225). Contiguous predicated vector store, nibble merges for e2m1. -/
  | vstm (d : BitVec 5) (a : BitVec 5) (p : BitVec 3) (e : BitVec 3)
  /-- VAPPEND (R226). Atomically advances a scratchpad tail and stores the active elements there. -/
  | vappend (d : BitVec 5) (a : BitVec 5) (p : BitVec 3) (e : BitVec 3)
  /-- VLD_NB (R229). Timed contiguous vector load, one timed access per element. -/
  | vldNb (d : BitVec 5) (a : BitVec 5) (b : BitVec 5) (p : BitVec 3) (e : BitVec 3)
  /-- VST_AT (R229). Timed contiguous vector store at a scope. -/
  | vstAt (d : BitVec 5) (a : BitVec 5) (b : BitVec 5) (p : BitVec 3) (e : BitVec 3) (s : BitVec 4)
  /-- VAMOSWAP (R233). Indexed vector atomic swap returning old values. -/
  | vamoswap (d : BitVec 5) (a : BitVec 5) (b : BitVec 5) (p : BitVec 3) (e : BitVec 3)
  /-- VAMOADD (R233). Indexed vector atomic add returning old values. -/
  | vamoadd (d : BitVec 5) (a : BitVec 5) (b : BitVec 5) (p : BitVec 3) (e : BitVec 3)
  /-- VAMOAND (R233). Indexed vector atomic AND. -/
  | vamoand (d : BitVec 5) (a : BitVec 5) (b : BitVec 5) (p : BitVec 3) (e : BitVec 3)
  /-- VAMOOR (R233). Indexed vector atomic OR. -/
  | vamoor (d : BitVec 5) (a : BitVec 5) (b : BitVec 5) (p : BitVec 3) (e : BitVec 3)
  /-- VAMOXOR (R233). Indexed vector atomic XOR. -/
  | vamoxor (d : BitVec 5) (a : BitVec 5) (b : BitVec 5) (p : BitVec 3) (e : BitVec 3)
  /-- VAMOMIN (R233). Indexed vector atomic minimum. -/
  | vamomin (d : BitVec 5) (a : BitVec 5) (b : BitVec 5) (p : BitVec 3) (e : BitVec 3)
  /-- VAMOMAX (R233). Indexed vector atomic maximum. -/
  | vamomax (d : BitVec 5) (a : BitVec 5) (b : BitVec 5) (p : BitVec 3) (e : BitVec 3)
  /-- VAMOMINN (R233). Indexed vector atomic natural minimum. -/
  | vamominn (d : BitVec 5) (a : BitVec 5) (b : BitVec 5) (p : BitVec 3) (e : BitVec 3)
  /-- VAMOMAXN (R233). Indexed vector atomic natural maximum. -/
  | vamomaxn (d : BitVec 5) (a : BitVec 5) (b : BitVec 5) (p : BitVec 3) (e : BitVec 3)
  /-- VREDADD_IDX (R233). Return-free indexed vector add reduction. -/
  | vredaddIdx (d : BitVec 5) (a : BitVec 5) (b : BitVec 5) (p : BitVec 3) (e : BitVec 3)
  /-- VREDAND_IDX (R233). Return-free indexed vector AND reduction. -/
  | vredandIdx (d : BitVec 5) (a : BitVec 5) (b : BitVec 5) (p : BitVec 3) (e : BitVec 3)
  /-- VREDOR_IDX (R233). Return-free indexed vector OR reduction. -/
  | vredorIdx (d : BitVec 5) (a : BitVec 5) (b : BitVec 5) (p : BitVec 3) (e : BitVec 3)
  /-- VREDXOR_IDX (R233). Return-free indexed vector XOR reduction. -/
  | vredxorIdx (d : BitVec 5) (a : BitVec 5) (b : BitVec 5) (p : BitVec 3) (e : BitVec 3)
  /-- VREDMIN_IDX (R233). Return-free indexed vector minimum reduction. -/
  | vredminIdx (d : BitVec 5) (a : BitVec 5) (b : BitVec 5) (p : BitVec 3) (e : BitVec 3)
  /-- VREDMAX_IDX (R233). Return-free indexed vector maximum reduction. -/
  | vredmaxIdx (d : BitVec 5) (a : BitVec 5) (b : BitVec 5) (p : BitVec 3) (e : BitVec 3)
  /-- VREDMINN_IDX (R233). Return-free indexed vector natural minimum reduction. -/
  | vredminnIdx (d : BitVec 5) (a : BitVec 5) (b : BitVec 5) (p : BitVec 3) (e : BitVec 3)
  /-- VREDMAXN_IDX (R233). Return-free indexed vector natural maximum reduction. -/
  | vredmaxnIdx (d : BitVec 5) (a : BitVec 5) (b : BitVec 5) (p : BitVec 3) (e : BitVec 3)
  /-- VRED_ORD_ADD (R235). Ordered contiguous vector add, one ordered reduction per element; fn = 0x11 + scope. -/
  | vredOrdAdd (d : BitVec 5) (a : BitVec 5) (b : BitVec 5) (p : BitVec 3) (e : BitVec 3) (f : BitVec 5)
  /-- VADD (R127). Element-wise integer add. -/
  | vadd (d : BitVec 5) (a : BitVec 5) (b : BitVec 5) (p : BitVec 3) (e : BitVec 3)
  /-- VSUB (R127). Element-wise integer subtract. -/
  | vsub (d : BitVec 5) (a : BitVec 5) (b : BitVec 5) (p : BitVec 3) (e : BitVec 3)
  /-- VMUL (R127). Element-wise low product. -/
  | vmul (d : BitVec 5) (a : BitVec 5) (b : BitVec 5) (p : BitVec 3) (e : BitVec 3)
  /-- VMULH (R127). Element-wise signed high product. -/
  | vmulh (d : BitVec 5) (a : BitVec 5) (b : BitVec 5) (p : BitVec 3) (e : BitVec 3)
  /-- VMULHN (R127). Element-wise natural high product. -/
  | vmulhn (d : BitVec 5) (a : BitVec 5) (b : BitVec 5) (p : BitVec 3) (e : BitVec 3)
  /-- VAND (R127). Element-wise AND. -/
  | vand (d : BitVec 5) (a : BitVec 5) (b : BitVec 5) (p : BitVec 3) (e : BitVec 3)
  /-- VOR (R127). Element-wise OR. -/
  | vor (d : BitVec 5) (a : BitVec 5) (b : BitVec 5) (p : BitVec 3) (e : BitVec 3)
  /-- VXOR (R127). Element-wise XOR. -/
  | vxor (d : BitVec 5) (a : BitVec 5) (b : BitVec 5) (p : BitVec 3) (e : BitVec 3)
  /-- VSLL (R127). Element-wise left shift. -/
  | vsll (d : BitVec 5) (a : BitVec 5) (b : BitVec 5) (p : BitVec 3) (e : BitVec 3)
  /-- VSRL (R127). Element-wise logical right shift. -/
  | vsrl (d : BitVec 5) (a : BitVec 5) (b : BitVec 5) (p : BitVec 3) (e : BitVec 3)
  /-- VSRA (R127). Element-wise arithmetic right shift. -/
  | vsra (d : BitVec 5) (a : BitVec 5) (b : BitVec 5) (p : BitVec 3) (e : BitVec 3)
  /-- VMIN (R127). Element-wise signed minimum. -/
  | vmin (d : BitVec 5) (a : BitVec 5) (b : BitVec 5) (p : BitVec 3) (e : BitVec 3)
  /-- VMAX (R127). Element-wise signed maximum. -/
  | vmax (d : BitVec 5) (a : BitVec 5) (b : BitVec 5) (p : BitVec 3) (e : BitVec 3)
  /-- VMINN (R127). Element-wise natural minimum. -/
  | vminn (d : BitVec 5) (a : BitVec 5) (b : BitVec 5) (p : BitVec 3) (e : BitVec 3)
  /-- VMAXN (R127). Element-wise natural maximum. -/
  | vmaxn (d : BitVec 5) (a : BitVec 5) (b : BitVec 5) (p : BitVec 3) (e : BitVec 3)
  /-- VADDS (R127). Element-wise signed saturating add. -/
  | vadds (d : BitVec 5) (a : BitVec 5) (b : BitVec 5) (p : BitVec 3) (e : BitVec 3)
  /-- VADDSN (R127). Element-wise natural saturating add. -/
  | vaddsn (d : BitVec 5) (a : BitVec 5) (b : BitVec 5) (p : BitVec 3) (e : BitVec 3)
  /-- VSUBS (R127). Element-wise signed saturating subtract. -/
  | vsubs (d : BitVec 5) (a : BitVec 5) (b : BitVec 5) (p : BitVec 3) (e : BitVec 3)
  /-- VSUBSN (R127). Element-wise natural saturating subtract. -/
  | vsubsn (d : BitVec 5) (a : BitVec 5) (b : BitVec 5) (p : BitVec 3) (e : BitVec 3)
  /-- VABS (R127). Element-wise absolute value. -/
  | vabs (d : BitVec 5) (a : BitVec 5) (p : BitVec 3) (e : BitVec 3)
  /-- VNEG (R127). Element-wise negation. -/
  | vneg (d : BitVec 5) (a : BitVec 5) (p : BitVec 3) (e : BitVec 3)
  /-- VCLZ (R127). Element-wise leading-zero count. -/
  | vclz (d : BitVec 5) (a : BitVec 5) (p : BitVec 3) (e : BitVec 3)
  /-- VPOPC (R127). Element-wise population count. -/
  | vpopc (d : BitVec 5) (a : BitVec 5) (p : BitVec 3) (e : BitVec 3)
  /-- VCEQ (R127). Integer equality compare into a mask register. -/
  | vceq (d : BitVec 5) (a : BitVec 5) (b : BitVec 5) (p : BitVec 3) (e : BitVec 3)
  /-- VCNE (R127). Integer inequality compare into a mask register. -/
  | vcne (d : BitVec 5) (a : BitVec 5) (b : BitVec 5) (p : BitVec 3) (e : BitVec 3)
  /-- VCLT (R127). Signed less-than compare into a mask register. -/
  | vclt (d : BitVec 5) (a : BitVec 5) (b : BitVec 5) (p : BitVec 3) (e : BitVec 3)
  /-- VCLE (R127). Signed less-or-equal compare into a mask register. -/
  | vcle (d : BitVec 5) (a : BitVec 5) (b : BitVec 5) (p : BitVec 3) (e : BitVec 3)
  /-- VCLTN (R127). Natural less-than compare into a mask register. -/
  | vcltn (d : BitVec 5) (a : BitVec 5) (b : BitVec 5) (p : BitVec 3) (e : BitVec 3)
  /-- VCLEN (R127). Natural less-or-equal compare into a mask register. -/
  | vclen (d : BitVec 5) (a : BitVec 5) (b : BitVec 5) (p : BitVec 3) (e : BitVec 3)
  /-- VMERGE (R132). Selects each element from va or vb by mask p. -/
  | vmerge (d : BitVec 5) (a : BitVec 5) (b : BitVec 5) (p : BitVec 3) (e : BitVec 3)
  /-- VFADD (R128). Element-wise floating add. -/
  | vfadd (d : BitVec 5) (a : BitVec 5) (b : BitVec 5) (p : BitVec 3) (e : BitVec 3)
  /-- VFSUB (R128). Element-wise floating subtract. -/
  | vfsub (d : BitVec 5) (a : BitVec 5) (b : BitVec 5) (p : BitVec 3) (e : BitVec 3)
  /-- VFMUL (R128). Element-wise floating multiply. -/
  | vfmul (d : BitVec 5) (a : BitVec 5) (b : BitVec 5) (p : BitVec 3) (e : BitVec 3)
  /-- VFDIV (R128). Element-wise floating divide. -/
  | vfdiv (d : BitVec 5) (a : BitVec 5) (b : BitVec 5) (p : BitVec 3) (e : BitVec 3)
  /-- VFSQRT (R128). Element-wise floating square root. -/
  | vfsqrt (d : BitVec 5) (a : BitVec 5) (p : BitVec 3) (e : BitVec 3)
  /-- VFMIN (R130). Element-wise fmin. -/
  | vfmin (d : BitVec 5) (a : BitVec 5) (b : BitVec 5) (p : BitVec 3) (e : BitVec 3)
  /-- VFMAX (R130). Element-wise fmax. -/
  | vfmax (d : BitVec 5) (a : BitVec 5) (b : BitVec 5) (p : BitVec 3) (e : BitVec 3)
  /-- VFMAC (R128). Element-wise fused multiply-add into vd. -/
  | vfmac (d : BitVec 5) (a : BitVec 5) (b : BitVec 5) (p : BitVec 3) (e : BitVec 3)
  /-- VFMSC (R128). Element-wise fused multiply-subtract from vd. -/
  | vfmsc (d : BitVec 5) (a : BitVec 5) (b : BitVec 5) (p : BitVec 3) (e : BitVec 3)
  /-- VFNMAC (R128). Element-wise fused negated multiply-add. -/
  | vfnmac (d : BitVec 5) (a : BitVec 5) (b : BitVec 5) (p : BitVec 3) (e : BitVec 3)
  /-- VFABS (R130). Element-wise sign clear. -/
  | vfabs (d : BitVec 5) (a : BitVec 5) (p : BitVec 3) (e : BitVec 3)
  /-- VFNEG (R130). Element-wise sign inversion. -/
  | vfneg (d : BitVec 5) (a : BitVec 5) (p : BitVec 3) (e : BitVec 3)
  /-- VFSGMV (R130). Element-wise sign move from vb. -/
  | vfsgmv (d : BitVec 5) (a : BitVec 5) (b : BitVec 5) (p : BitVec 3) (e : BitVec 3)
  /-- VFRECIP (R129). Correctly rounded reciprocal. -/
  | vfrecip (d : BitVec 5) (a : BitVec 5) (p : BitVec 3) (e : BitVec 3)
  /-- VFRSQRT (R129). Correctly rounded reciprocal square root. -/
  | vfrsqrt (d : BitVec 5) (a : BitVec 5) (p : BitVec 3) (e : BitVec 3)
  /-- VFEXP2 (R129). Correctly rounded 2^A. -/
  | vfexp2 (d : BitVec 5) (a : BitVec 5) (p : BitVec 3) (e : BitVec 3)
  /-- VFLOG2 (R129). Correctly rounded log2(A). -/
  | vflog2 (d : BitVec 5) (a : BitVec 5) (p : BitVec 3) (e : BitVec 3)
  /-- VFCEQ (R130). Floating equality compare into a mask. -/
  | vfceq (d : BitVec 5) (a : BitVec 5) (b : BitVec 5) (p : BitVec 3) (e : BitVec 3)
  /-- VFCLT (R130). Floating less-than compare into a mask, NV on NaN. -/
  | vfclt (d : BitVec 5) (a : BitVec 5) (b : BitVec 5) (p : BitVec 3) (e : BitVec 3)
  /-- VFCLE (R130). Floating less-or-equal compare into a mask, NV on NaN. -/
  | vfcle (d : BitVec 5) (a : BitVec 5) (b : BitVec 5) (p : BitVec 3) (e : BitVec 3)
  /-- VFCUN (R130). Unordered compare into a mask. -/
  | vfcun (d : BitVec 5) (a : BitVec 5) (b : BitVec 5) (p : BitVec 3) (e : BitVec 3)
  /-- VFKIND (R130). Element-wise KIND and SIGN classification. -/
  | vfkind (d : BitVec 5) (a : BitVec 5) (p : BitVec 3) (e : BitVec 3)
  /-- VCVT (R133). Converts each active element from et2 to et under R102. -/
  | vcvt (d : BitVec 5) (a : BitVec 5) (p : BitVec 3) (e : BitVec 3) (t : BitVec 3)
  /-- VCVT_SR (R134). Narrowing conversion with stochastic rounding from the generator. -/
  | vcvtSr (d : BitVec 5) (a : BitVec 5) (p : BitVec 3) (e : BitVec 3) (t : BitVec 3)
  /-- VCVTM_WIDEN (R135). Widens packed e5m2, e2m3, e3m2 or e2m1 elements to a float et. -/
  | vcvtmWiden (d : BitVec 5) (a : BitVec 5) (p : BitVec 3) (e : BitVec 3) (c : BitVec 2)
  /-- VCVTM_NARROW (R135). Narrows float et elements to a packed format. -/
  | vcvtmNarrow (d : BitVec 5) (a : BitVec 5) (p : BitVec 3) (e : BitVec 3) (c : BitVec 2)
  /-- VWMUL (R136). Mixed-width element multiply. -/
  | vwmul (d : BitVec 5) (a : BitVec 5) (b : BitVec 5) (p : BitVec 3) (e : BitVec 3) (t : BitVec 3)
  /-- VPERM (R139). Permutes elements by an index vector. -/
  | vperm (d : BitVec 5) (a : BitVec 5) (b : BitVec 5) (p : BitVec 3) (e : BitVec 3)
  /-- VELSH (R140). Shifts elements by a signed amount, filling with zero. -/
  | velsh (d : BitVec 5) (a : BitVec 5) (b : BitVec 5) (p : BitVec 3) (e : BitVec 3)
  /-- VELROT (R140). Rotates elements by a signed amount modulo VL. -/
  | velrot (d : BitVec 5) (a : BitVec 5) (b : BitVec 5) (p : BitVec 3) (e : BitVec 3)
  /-- VREDSUM (R137). Sum reduction over the fixed pairwise tree into element 0. -/
  | vredsum (d : BitVec 5) (a : BitVec 5) (p : BitVec 3) (e : BitVec 3)
  /-- VREDMIN (R137). Minimum reduction into element 0. -/
  | vredmin (d : BitVec 5) (a : BitVec 5) (p : BitVec 3) (e : BitVec 3)
  /-- VREDMAX (R137). Maximum reduction into element 0. -/
  | vredmax (d : BitVec 5) (a : BitVec 5) (p : BitVec 3) (e : BitVec 3)
  /-- VREDMINN (R137). Natural minimum reduction. -/
  | vredminn (d : BitVec 5) (a : BitVec 5) (p : BitVec 3) (e : BitVec 3)
  /-- VREDMAXN (R137). Natural maximum reduction. -/
  | vredmaxn (d : BitVec 5) (a : BitVec 5) (p : BitVec 3) (e : BitVec 3)
  /-- VREDAND (R137). AND reduction. -/
  | vredand (d : BitVec 5) (a : BitVec 5) (p : BitVec 3) (e : BitVec 3)
  /-- VREDOR (R137). OR reduction. -/
  | vredor (d : BitVec 5) (a : BitVec 5) (p : BitVec 3) (e : BitVec 3)
  /-- VSCAN (R138). Sequential prefix sum in ascending element order. -/
  | vscan (d : BitVec 5) (a : BitVec 5) (p : BitVec 3) (e : BitVec 3)
  /-- VSEGSUM (R138). Segmented prefix sum restarting at head bits. -/
  | vsegsum (d : BitVec 5) (a : BitVec 5) (b : BitVec 5) (p : BitVec 3) (e : BitVec 3)
  /-- VRAND (R143). Fills elements with ChaCha8 draws and advances RNGCTR. -/
  | vrand (d : BitVec 5) (p : BitVec 3) (e : BitVec 3)
  /-- VMVX (R142). Moves element X[b] of va to X[d] after waiting for the VDQ. -/
  | vmvx (d : BitVec 5) (a : BitVec 5) (b : BitVec 5) (e : BitVec 3)
  /-- VMVV (R142). Writes X[a] into element X[b] of vd. -/
  | vmvv (d : BitVec 5) (a : BitVec 5) (b : BitVec 5) (e : BitVec 3)
  /-- VBCAST (R141). Broadcasts X[a] to every active element. -/
  | vbcast (d : BitVec 5) (a : BitVec 5) (p : BitVec 3) (e : BitVec 3)
  /-- VSQUEEZE (R141). Compacts the active elements to the front, zero-filling the rest below VL. -/
  | vsqueeze (d : BitVec 5) (a : BitVec 5) (p : BitVec 3) (e : BitVec 3)
  /-- VINDEX (R141). Writes X[a] + e × X[b] to each active element. -/
  | vindex (d : BitVec 5) (a : BitVec 5) (b : BitVec 5) (p : BitVec 3) (e : BitVec 3)
  /-- MAND (R144). Mask AND over 256 bits. -/
  | mand (d : BitVec 5) (a : BitVec 5) (b : BitVec 5)
  /-- MOR (R144). Mask OR. -/
  | mor (d : BitVec 5) (a : BitVec 5) (b : BitVec 5)
  /-- MXOR (R144). Mask XOR. -/
  | mxor (d : BitVec 5) (a : BitVec 5) (b : BitVec 5)
  /-- MANDN (R144). Mask AND NOT. -/
  | mandn (d : BitVec 5) (a : BitVec 5) (b : BitVec 5)
  /-- MNOT (R144). Mask NOT. -/
  | mnot (d : BitVec 5) (a : BitVec 5)
  /-- MSET (R144). Sets every bit of a mask register. -/
  | mset (d : BitVec 5)
  /-- MCLR (R144). Clears every bit of a mask register. -/
  | mclr (d : BitVec 5)
  /-- MCNT (R145). Counts the set mask bits below VL into X[d]. -/
  | mcnt (d : BitVec 5) (a : BitVec 5)
  /-- MANY (R145). 1 if any mask bit below VL is set. -/
  | many (d : BitVec 5) (a : BitVec 5)
  /-- MFIRST (R145). Index of the lowest set mask bit, or all ones. -/
  | mfirst (d : BitVec 5) (a : BitVec 5)
  /-- VADD_VX (R131). Vector-scalar or vector-immediate add. -/
  | vaddVx (d : BitVec 5) (a : BitVec 5) (b : BitVec 5) (p : BitVec 3) (e : BitVec 3) (x : BitVec 1)
  /-- VSUB_VX (R131). Vector-scalar or vector-immediate subtract. -/
  | vsubVx (d : BitVec 5) (a : BitVec 5) (b : BitVec 5) (p : BitVec 3) (e : BitVec 3) (x : BitVec 1)
  /-- VRSUB_VX (R131). Reverse subtract S − a. -/
  | vrsubVx (d : BitVec 5) (a : BitVec 5) (b : BitVec 5) (p : BitVec 3) (e : BitVec 3) (x : BitVec 1)
  /-- VMUL_VX (R131). Vector-scalar multiply. -/
  | vmulVx (d : BitVec 5) (a : BitVec 5) (b : BitVec 5) (p : BitVec 3) (e : BitVec 3) (x : BitVec 1)
  /-- VAND_VX (R131). Vector-scalar AND. -/
  | vandVx (d : BitVec 5) (a : BitVec 5) (b : BitVec 5) (p : BitVec 3) (e : BitVec 3) (x : BitVec 1)
  /-- VOR_VX (R131). Vector-scalar OR. -/
  | vorVx (d : BitVec 5) (a : BitVec 5) (b : BitVec 5) (p : BitVec 3) (e : BitVec 3) (x : BitVec 1)
  /-- VXOR_VX (R131). Vector-scalar XOR. -/
  | vxorVx (d : BitVec 5) (a : BitVec 5) (b : BitVec 5) (p : BitVec 3) (e : BitVec 3) (x : BitVec 1)
  /-- VSLL_VX (R131). Vector-scalar left shift. -/
  | vsllVx (d : BitVec 5) (a : BitVec 5) (b : BitVec 5) (p : BitVec 3) (e : BitVec 3) (x : BitVec 1)
  /-- VSRL_VX (R131). Vector-scalar logical right shift. -/
  | vsrlVx (d : BitVec 5) (a : BitVec 5) (b : BitVec 5) (p : BitVec 3) (e : BitVec 3) (x : BitVec 1)
  /-- VSRA_VX (R131). Vector-scalar arithmetic right shift. -/
  | vsraVx (d : BitVec 5) (a : BitVec 5) (b : BitVec 5) (p : BitVec 3) (e : BitVec 3) (x : BitVec 1)
  /-- VMIN_VX (R131). Vector-scalar signed minimum. -/
  | vminVx (d : BitVec 5) (a : BitVec 5) (b : BitVec 5) (p : BitVec 3) (e : BitVec 3) (x : BitVec 1)
  /-- VMAX_VX (R131). Vector-scalar signed maximum. -/
  | vmaxVx (d : BitVec 5) (a : BitVec 5) (b : BitVec 5) (p : BitVec 3) (e : BitVec 3) (x : BitVec 1)
  /-- VFADD_VX (R131). Vector-scalar floating add. -/
  | vfaddVx (d : BitVec 5) (a : BitVec 5) (b : BitVec 5) (p : BitVec 3) (e : BitVec 3)
  /-- VFMUL_VX (R131). Vector-scalar floating multiply. -/
  | vfmulVx (d : BitVec 5) (a : BitVec 5) (b : BitVec 5) (p : BitVec 3) (e : BitVec 3)
  /-- VFMAC_VX (R131). Vector-scalar fused multiply-add into vd. -/
  | vfmacVx (d : BitVec 5) (a : BitVec 5) (b : BitVec 5) (p : BitVec 3) (e : BitVec 3)
  /-- VCEQ_VX (R131). Vector-scalar equality compare into a mask. -/
  | vceqVx (d : BitVec 5) (a : BitVec 5) (b : BitVec 5) (p : BitVec 3) (e : BitVec 3) (x : BitVec 1)
  /-- MOP (R152). Floating outer product added into a tile in slice order. -/
  | mop (t : BitVec 3) (a : BitVec 5) (b : BitVec 5) (r : BitVec 3) (c : BitVec 3) (f : BitVec 5)
  /-- MOPS (R152). Floating outer product subtracted from a tile. -/
  | mops (t : BitVec 3) (a : BitVec 5) (b : BitVec 5) (r : BitVec 3) (c : BitVec 3) (f : BitVec 5)
  /-- MOPX (R152). Block-scaled floating outer product. -/
  | mopx (t : BitVec 3) (a : BitVec 5) (b : BitVec 5) (r : BitVec 3) (c : BitVec 3) (f : BitVec 5)
  /-- MOPXS (R152). Block-scaled outer product subtracted from a tile. -/
  | mopxs (t : BitVec 3) (a : BitVec 5) (b : BitVec 5) (r : BitVec 3) (c : BitVec 3) (f : BitVec 5)
  /-- MOPSP (R155). 2:4 sparse outer product. -/
  | mopsp (t : BitVec 3) (a : BitVec 5) (b : BitVec 5) (r : BitVec 3) (c : BitVec 3) (f : BitVec 5)
  /-- MOPI (R154). Integer outer product wrapping modulo 2^32. -/
  | mopi (t : BitVec 3) (a : BitVec 5) (b : BitVec 5) (r : BitVec 3) (c : BitVec 3) (f : BitVec 5)
  /-- MOPI_SAT (R154). Integer outer product with clamping. -/
  | mopiSat (t : BitVec 3) (a : BitVec 5) (b : BitVec 5) (r : BitVec 3) (c : BitVec 3) (f : BitVec 5)
  /-- ACCZERO (R159). Makes a tile not live. -/
  | acczero (t : BitVec 3)
  /-- ACCRD (R157). Copies a tile row into a vector register. -/
  | accrd (t : BitVec 3) (d : BitVec 5) (b : BitVec 5)
  /-- ACCWR (R157). Writes a vector register into a tile row. -/
  | accwr (t : BitVec 3) (a : BitVec 5) (b : BitVec 5)
  /-- ACCPRO (R158). Promotes one tile row, scaled, to bf16, e4m3 or e5m2. -/
  | accpro (t : BitVec 3) (y : BitVec 2) (d : BitVec 5) (c : BitVec 5) (s : BitVec 5)
  /-- ACCLD (R160). Loads a whole tile from memory. -/
  | accld (t : BitVec 3) (a : BitVec 5)
  /-- ACCST (R160). Stores a whole tile through the store buffer. -/
  | accst (t : BitVec 3) (a : BitVec 5)
  /-- ACCMOV (R159). Copies one tile into another. -/
  | accmov (t : BitVec 3) (s : BitVec 3)
  /-- ACCADD (R159). Adds one tile into another in slice order. -/
  | accadd (t : BitVec 3) (y : BitVec 2) (s : BitVec 3)
  /-- ACCSAVE (R161). Stores the live tiles and LIVE header to a tile save area. -/
  | accsave (a : BitVec 5)
  /-- ACCREST (R161). Restores the live tiles from a tile save area. -/
  | accrest (a : BitVec 5)
  /-- CPY (R263). Asynchronous linear copy in 4 KiB chunks. -/
  | cpy (a : BitVec 5) (b : BitVec 5) (c : BitVec 5) (n : BitVec 4) (h : BitVec 2) (x : BitVec 2)
  /-- CPY2 (R263). Asynchronous two-dimensional copy, one chunk per row. -/
  | cpy2 (a : BitVec 5) (b : BitVec 5) (c : BitVec 5) (n : BitVec 4) (h : BitVec 2) (x : BitVec 2)
  /-- CPYX_G (R263). Asynchronous gather copy. -/
  | cpyxG (a : BitVec 5) (b : BitVec 5) (c : BitVec 5) (n : BitVec 4) (h : BitVec 2)
  /-- CPYX_S (R263). Asynchronous scatter copy. -/
  | cpyxS (a : BitVec 5) (b : BitVec 5) (c : BitVec 5) (n : BitVec 4) (h : BitVec 2)
  /-- CPY_M (R263). Linear copy that also sets a chunk mask bit per chunk. -/
  | cpyM (a : BitVec 5) (b : BitVec 5) (c : BitVec 5) (n : BitVec 4) (h : BitVec 2) (x : BitVec 2)
  /-- CPY2_M (R263). Two-dimensional copy with a chunk mask. -/
  | cpy2M (a : BitVec 5) (b : BitVec 5) (c : BitVec 5) (n : BitVec 4) (h : BitVec 2) (x : BitVec 2)
  /-- CPYX_G_M (R263). Gather copy with a chunk mask. -/
  | cpyxGM (a : BitVec 5) (b : BitVec 5) (c : BitVec 5) (n : BitVec 4) (h : BitVec 2)
  /-- CCWAIT (R268). Waits until a completion counter reaches X[b] or errors, then acquires. -/
  | ccwait (b : BitVec 5) (n : BitVec 4) (h : BitVec 2)
  /-- CCRD (R268). Reads a completion counter into X[a]. -/
  | ccrd (a : BitVec 5) (n : BitVec 4) (h : BitVec 2)
  /-- CCSET (R268). Sets COUNT and clears ERR and GFLAGS, in the VDQ. -/
  | ccset (b : BitVec 5) (n : BitVec 4) (h : BitVec 2)
  /-- SGBIND (R297). Validates and binds a graph image to a stream id as read, write or rmw. -/
  | sgbind (a : BitVec 5) (s : BitVec 4) (h : BitVec 2) (x : BitVec 2)
  /-- SGUNBIND (R298). Clears a stream binding. -/
  | sgunbind (s : BitVec 4) (h : BitVec 2)
  /-- SUBSCRIBE (R274). Creates a subscribe entry after checks and a snapshot of the published region. -/
  | subscribe (a : BitVec 5) (b : BitVec 5) (c : BitVec 5) (e : BitVec 4) (h : BitVec 2)
  /-- UNSUB (R275). Removes a subscribe entry after its updates are acknowledged. -/
  | unsub (e : BitVec 4) (h : BitVec 2)
  /-- UNSUB_PUB (R275). Removes a publish entry and invalidates its subscribers. -/
  | unsubPub (e : BitVec 4) (h : BitVec 2)
  /-- SUBFLUSH (R277). Sends every open batch and waits for all updates to be acknowledged. -/
  | subflush (h : BitVec 2)
  /-- BARR_ARRIVE (R325). Records an arrival at a local barrier group after draining. -/
  | barrArrive (g : BitVec 5)
  /-- BARR_WAIT (R325). Waits for a local barrier phase, then acquires. -/
  | barrWait (g : BitVec 5)
  /-- BARR_ARRIVE_SPAN (R325). Records an arrival at a spanning group. -/
  | barrArriveSpan (g : BitVec 5)
  /-- BARR_WAIT_SPAN (R330). Waits until a spanning phase releases at T_release. -/
  | barrWaitSpan (g : BitVec 5)
  /-- BARR_ARRIVE_GANG (R325). Records an arrival at the gang barrier. -/
  | barrArriveGang
  /-- BARR_WAIT_GANG (R325). Waits for the gang barrier phase. -/
  | barrWaitGang
  /-- PAUSE (R332). Lowers the hart's arbitration priority for n cycles. -/
  | pause (n : BitVec 15)
  /-- RECV (R333). Waits for a message in a receive ring, returning TAIL. -/
  | recv (d : BitVec 5) (a : BitVec 5)
  /-- LAUNCH (R334). Releases, then enqueues a launch record to a queue of the own die, trapping on refusal. -/
  | launch (a : BitVec 5) (s : BitVec 5)
  /-- LAUNCH_R (R335). Sends a launch record to a queue page of any package. -/
  | launchR (d : BitVec 5) (a : BitVec 5) (s : BitVec 5)
  /-- JOIN (R337). Releases at domain scope and performs a join on a join block. -/
  | join (a : BitVec 5)
  /-- GEXIT (R338). Ends the hart once stores, reductions, copies and subscriptions are finished. -/
  | gexit
  /-- YIELD (R339). Parks the hart's whole gang onto the resume list. -/
  | yield
  /-- RDCTL (R393). Reads a CSR into X[d]. -/
  | rdctl (d : BitVec 5) (c : BitVec 12)
  /-- WRCTL (R393). Writes X[a] into a CSR field by field. -/
  | wrctl (a : BitVec 5) (c : BitVec 12)
  /-- SETCTL (R393). ORs X[a] into a CSR atomically. -/
  | setctl (a : BitVec 5) (c : BitVec 12)
  /-- CLRCTL (R393). Clears the bits of X[a] in a CSR atomically. -/
  | clrctl (a : BitVec 5) (c : BitVec 12)
  /-- SETVL (R126). Sets VL to min(X[a], VLMAX of et) and writes it to X[d]. -/
  | setvl (d : BitVec 5) (a : BitVec 5) (e : BitVec 3)
  /-- SETML (R148). Sets MVL and MVC from X[a]. -/
  | setml (d : BitVec 5) (a : BitVec 5)
  /-- TRAP (R394). Raises TRAP_INSN with EVAL = n. -/
  | trap (n : BitVec 12)
  /-- ERET (R379). Returns from a handler, restoring the trap frame; acts as gexit for a dying hart. -/
  | eret
  /-- FENCE_I (R175). Drains and invalidates the L1 instruction cache. -/
  | fenceI
  /-- PREEMPT (R387). Parks the gang if a pre-emption notice is pending, else nothing. -/
  | preempt
  /-- GKILL (R391). Ends every gang matching TAG, CTX and DIE, resident or parked. -/
  | gkill (a : BitVec 5)
  /-- SFQPOP (R390). Removes the oldest store-fault record into X[d] and EVAL. -/
  | sfqpop (d : BitVec 5)
  /-- TLBINV (R360). Invalidates translations by page, context, tenant or all, package-wide. -/
  | tlbinv (a : BitVec 5)
  /-- HINV (R366). Drops cached handle entries and waits for copies accepted under them. -/
  | hinv (a : BitVec 5)
  /-- EBREAK (R394). Raises BREAKPOINT, or enters a debug halt if halt-on-break is enabled. -/
  | ebreak
  /-- HALT (R394). Drains the store buffer and stops the hart until cold reset or gkill. -/
  | halt
  /-- STORE_BUFFER_DRAIN (R218). The oldest store-buffer entry is translated, checked and sent, or becomes a store-fault record. -/
  | evStoreBufferDrain (core : Nat)
  /-- STORE_FAULT_REPORT (R219). A pending store-fault record is taken at a user instruction boundary with ESTAT.IMP = 1. -/
  | evStoreFaultReport (core : Nat)
  /-- COPY_ERROR_REPORT (R269). A pending COPY_ERROR is taken at a user boundary. -/
  | evCopyErrorReport (core : Nat)
  /-- DEADLINE_REPORT (R251). A pending DEADLINE is taken at a user boundary. -/
  | evDeadlineReport (core : Nat)
  /-- UNCORRECTABLE_REPORT (R396). A poisoned reduction's error is taken as a report at a user boundary. -/
  | evUncorrectableReport (core : Nat)
  /-- READ (R188). A read message is performed at its home and answered. -/
  | evRead (k : Nat)
  /-- WRITE (R188). A write message is performed at its home in its pair's posted order. -/
  | evWrite (k : Nat)
  /-- ATOMIC (R201). An atomic message is performed indivisibly at its home. -/
  | evAtomic (k : Nat)
  /-- REDUCE (R231). A return-free reduction message is applied at its home and acknowledged. -/
  | evReduce (k : Nat)
  /-- RESP (R251). A response reaches the core: data, flags, miss reports into TLATE and possible DEADLINE or FP_ENABLED. -/
  | evResp (k : Nat)
  /-- TIMED_ARRIVAL (R245). A timed access or ordered reduction is stamped at the home boundary, held or waits for an entry, and judged on time or missed. -/
  | evTimedArrival (k : Nat)
  /-- TIMED_ENTRY_GRANT (R248). A waiting timed access obtains a buffer entry, missing as CAPACITY if after its deadline. -/
  | evTimedEntryGrant (k : Nat)
  /-- TIMED_INSTANT (R247). At GTIME = t the home applies held stores and ordered reductions in key order, then timed loads. -/
  | evTimedInstant (home : Nat)
  /-- QUEUE_ENQUEUE (R305). A 64-byte record arrives at a queue page and is checked, stored or refused. -/
  | evQueueEnqueue (q : Nat) (record : BitVec 512) (sender : Sender)
  /-- BADWRITE (R185). Any other host write to a queue page is discarded and sets QSTAT.BADWRITE. -/
  | evBadwrite (q : Nat)
  /-- CONT_RETRY (R305). Every 1 µs the sending die retries held join or CONT enqueues. -/
  | evContRetry (die : Nat)
  /-- JOIN_APPLY (R314). A join decrements COUNT at its home and sends REC on 1 → 0. -/
  | evJoinApply (k : Nat)
  /-- RING_DELIVERY (R316). A ring-mode queue delivers its first message into the target gang's receive ring. -/
  | evRingDelivery (q : Nat)
  /-- CONTRIBUTION (R330). A die's spanning contribution arrives at the root, which sends a release once all are held. -/
  | evContribution (k : Nat)
  /-- SPAN_RELEASE (R330). A release carrying T_release reaches a member die, setting PHASE and LASTREL. -/
  | evSpanRelease (k : Nat)
  /-- SPAN_WAIT_EXIT (R330). At the first edge with GTIME ≥ T_release, waiting members leave. -/
  | evSpanWaitExit (core : Nat)
  /-- PAUSE_EXPIRY (R332). The pause count ends and normal arbitration priority returns. -/
  | evPauseExpiry (core : Nat)
  /-- PREEMPT_STOP (R383). A pre-emption request halts the core at an instruction boundary within 100 ns. -/
  | evPreemptStop (core : Nat)
  /-- PREEMPT_NOTICE (R387). A resident user-privilege hart with NOTICE set takes PREEMPT. -/
  | evPreemptNotice (core : Nat)
  /-- NOTICE_TIMEOUT (R387). A gang not parking 20 µs after a notice is parked by the die. -/
  | evNoticeTimeout (gang : Nat)
  /-- PARK_COMPLETE (R385). When all units have finished parking, STATE becomes parked and the core is freed. -/
  | evParkComplete (core : Nat)
  /-- GANG_RESUME (R386). A resume entry whose responses and write-backs are done resumes all harts at one edge. -/
  | evGangResume (gang : Nat)
  /-- COPY_ACCEPT (R264). The copy engine takes a copy from the VDQ head and checks HANDLE, RIGHTS, SHAPE, BOUNDS, STREAM. -/
  | evCopyAccept (core : Nat)
  /-- PENDING_RESERVE (R296). A graph copy reserves pending-granule entries controller by controller, waiting where none are free. -/
  | evPendingReserve (copy : Nat)
  /-- GRAPH_FRAME (R282). A Gerenuk unit evaluates one 64-byte frame of a stream graph. -/
  | evGraphFrame (copy : Nat)
  /-- CHUNK_COMPLETE (R267). A chunk's accesses have performed: COUNT advances and the mask bit is set. -/
  | evChunkComplete (copy : Nat) (chunk : Nat)
  /-- BATCH_TIMEOUT (R276). A subscription batch open for 32 memory-side cycles is sent. -/
  | evBatchTimeout (core : Nat) (entry : Nat) (subscriber : Nat)
  /-- SUBSCRIPTION_UPDATE (R278). A batch is applied as one write at the subscriber's copy or backing area and acknowledged. -/
  | evSubscriptionUpdate (k : Nat)
  /-- RELOCK_END (R256). 6,000 gt after the start edge the die resumes at the new step. -/
  | evRelockEnd (die : Nat)
  /-- POWER_CONTROL_TICK (R23). Markhor's per-millisecond power decision lowers or raises a die by one step. -/
  | evPowerControlTick (die : Nat) (average1 : Nat) (average10 : Nat)
  /-- TCTL_THROTTLE_TICK (R25). Each millisecond a die above TCTL is lowered one step. -/
  | evTctlThrottleTick (die : Nat) (temperature : Nat)
  /-- DIE_OVER_105C (R25). A die at 105 °C selects 0.9 GHz at once with one relock. -/
  | evDieOver105c (die : Nat)
  /-- THERMAL_TRIP (R25). At 115 °C supplies are removed and the trip output asserted. -/
  | evThermalTrip (sensor : Nat) (temperature : Nat)
  /-- HBM_OVER_85C (R25). The stack's controllers double the refresh rate. -/
  | evHbmOver85c (stack : Nat)
  /-- HBM_OVER_95C (R25). The stack's controllers halve their command rate. -/
  | evHbmOver95c (stack : Nat)
  /-- TELEMETRY_UPDATE (R27). Markhor publishes power and temperature every millisecond. -/
  | evTelemetryUpdate (power : List Nat) (temperature : List Nat)
  /-- PCAP_WRITE (R24). Sets the package power cap, clamped to 1,200 W up to the limit. -/
  | evPcapWrite (by_ : Agent) (value : BitVec 64)
  /-- TCTL_WRITE (R24). Sets the die threshold, clamped to 70 to 100 °C. -/
  | evTctlWrite (by_ : Agent) (value : BitVec 64)
  /-- STEPMAX_WRITE (R23). Sets a die's step ceiling, moving the die down in one frequency step if needed. -/
  | evStepmaxWrite (by_ : Agent) (die : Nat) (value : BitVec 64)
  /-- REGISTER_WRITE (R5). A write to a control-block register with no row of its own, under the access codes. -/
  | evRegisterWrite (by_ : Agent) (off : Nat) (value : BitVec 64)
  /-- PRT_ENTRY_WRITE (R179). A PRT entry write, ignored when setting VALID on an invalid layout. -/
  | evPrtEntryWrite (by_ : Agent) (n : Nat) (dword : Nat) (value : BitVec 64)
  /-- QCFG_WRITE (R304). A queue configuration write, with EN set ignored on reserved codes or a bad QBASE. -/
  | evQcfgWrite (by_ : Agent) (q : Nat) (value : BitVec 64)
  /-- QREL_WRITE (R306). Writing QREL makes records eligible and starts a selection. -/
  | evQrelWrite (by_ : Agent) (q : Nat) (value : BitVec 64)
  /-- QPOP (R303). Removes the first record of a disabled queue without dispatching it. -/
  | evQpop (by_ : Agent) (q : Nat) (value : BitVec 64)
  /-- SCFG_WRITE (R329). Configures a spanning group, ignored as a whole when enabling an invalid set-up. -/
  | evScfgWrite (by_ : Agent) (die : Nat) (group : Nat) (value : BitVec 64)
  /-- PREQ_WRITE (R382). Requests pre-emption of matching gangs, with or without a notice. -/
  | evPreqWrite (by_ : Agent) (die : Nat) (value : BitVec 64)
  /-- MIGRATION_ENTRY_WRITE (R361). Writing STATE = 1 starts pull-on-first-touch migration of a page. -/
  | evMigrationEntryWrite (by_ : Agent) (n : Nat) (dword : Nat) (value : BitVec 64)
  /-- MIGRATION_PULL (R362). A line of NEW is pulled from OLD, decrypted and re-encrypted, setting DONE or FAILED. -/
  | evMigrationPull (n : Nat) (line : Nat)
  /-- KEYCTL_WRITE (R371). Writes a key's control, ignored except V while V = 1. -/
  | evKeyctlWrite (by_ : Agent) (key : Nat) (value : BitVec 64)
  /-- KEYDATA_WRITE (R371). Writes a key's AES data and tweak keys while V = 0. -/
  | evKeydataWrite (by_ : Agent) (key : Nat) (dword : Nat) (value : BitVec 64)
  /-- TRAP_BLOCK_WRITE (R376). Writes a trap block, pool fields ignored while any slot is allocated. -/
  | evTrapBlockWrite (by_ : Agent) (block : Nat) (dword : Nat) (value : BitVec 64)
  /-- OFFREQ_WRITE (R401). Requests a die offline; Markhor parks gangs and evacuates its memory. -/
  | evOffreqWrite (by_ : Agent) (value : BitVec 64) (plan : List (List Nat))
  /-- EVAC_BLOCK_MOVE (R402). One block of a region is moved to its new layout, and the last move sets OFFLINE. -/
  | evEvacBlockMove (region : Nat)
  /-- RLEN_WRITE (R409). In RECOVERY the host writes the recovery image length and Markhor verifies and runs it. -/
  | evRlenWrite (by_ : Agent) (value : BitVec 64) (image : BootImage)
  /-- HOST_BAR4_READ (R186). A host read by physical OFF through BAR4. -/
  | evHostBar4Read (off : Nat) (size : Nat)
  /-- HOST_BAR4_WRITE (R186). A host write by physical OFF through BAR4. -/
  | evHostBar4Write (off : Nat) (bytes : List (BitVec 8))
  /-- PTP_SYNC (R242). An IEEE 1588 Sync measurement updates OFFSET and the timebase state. -/
  | evPtpSync (offset : Int)
  /-- SYNC_TIMEOUT (R242). No Sync for 8 intervals moves the package to HOLDOVER. -/
  | evSyncTimeout
  /-- LANE_REPAIR (R241). A UCIe lane repair recalibrates the link delay. -/
  | evLaneRepair (link : Nat) (lane : Nat)
  /-- PORT_FAILURE (R184). A UALink port fails and routes move after posted messages are acknowledged. -/
  | evPortFailure (port : Nat)
  /-- DEBUG_HALT_END (R253). The debug halt ends and the die's cores resume. -/
  | evDebugHaltEnd (die : Nat)
  /-- RETENTION_ENTER (R397). A scratchpad idle for 1 ms enters retention mode. -/
  | evRetentionEnter (array : Nat)
  /-- RETENTION_LEAVE (R397). A scratchpad finishes leaving retention and waiting accesses proceed. -/
  | evRetentionLeave (array : Nat)
  /-- DRAM_SCRUB (R395). Controllers scrub all DRAM every 24 hours. -/
  | evDramScrub (counts : List (Nat × Nat × Nat)) (bad : List Nat)
  /-- MSC_SCRUB (R395). Memory-side caches scrub their lines every second. -/
  | evMscScrub (counts : List (Nat × Nat × Nat)) (bad : List Nat)
  /-- REMAP_RELOAD (R398). A corrupted base-die remap table is reloaded from the shadow. -/
  | evRemapReload (controller : Nat) (pseudo : Nat) (rows : List Nat) (shadowGood : Bool)
  /-- ROW_SPARING (R398). A row failing in service is spared by the controller. -/
  | evRowSparing (controller : Nat) (pseudo : Nat) (rows : List Nat) (spared : Bool)
  /-- CLUSTER_FAILURE (R399). A cluster failing after reset is marked offline and its gangs killed. -/
  | evClusterFailure (die : Nat) (cluster : Nat) (unreadable : List Nat)
  /-- COLD_RESET (R408). Markhor verifies the firmware and brings the package up. -/
  | evColdReset (image : BootImage) (failed : List (Nat × Nat)) (package : Nat) (domain : List Nat) (gtime : BitVec 64) (master : Bool)
  /-- WARM_RESET (R6). A warm reset sets registers to their warm-reset values. -/
  | evWarmReset
  /-- SPDM_REQUEST (R410). Markhor answers an SPDM request over MCTP. -/
  | evSpdmRequest (code : Nat)
  /-- BLACK_BOX_READ (R406). Markhor returns black-box records on request over MCTP. -/
  | evBlackBoxRead (die : Nat) (first : Nat) (count : Nat)
  /-- IMAGE_CHECK (R85). Markhor's checker passes over placed text and makes the pages executable on OK. -/
  | evImageCheck (ctx : Nat) (image : CheckedImage)
  /-- TENANT_CONFIG_REQUEST (R367). Markhor applies or refuses a die's whole tenant configuration. -/
  | evTenantConfigRequest (die : Nat) (tids : List Nat)
  /-- ILLEGAL_INSN (R71). A fetched word with a reserved opcode or field, such as the padding word 0x0000_0000, raises ILLEGAL_INSN with EVAL = the word. -/
  | evIllegalInsn (word : BitVec 32)
  /-- FETCH_FAULT (R355). An instruction fetch from an unmapped, non-executable or scratchpad address raises FETCH_FAULT at the fetch. -/
  | evFetchFault (va : BitVec 64)
  /-- END_OF_105C_ACTION (R23). The die falls below 105 °C and the 0.9 GHz hold of the 105 °C action is lifted. -/
  | evEndOf105cAction (die : Nat)
  /-- STANDBY_POWER_LOSS (R406). Loss of standby power erases the black-box records of every die. -/
  | evStandbyPowerLoss
  /-- REMAP_REBUILD_END (R398). The rebuild of a base-die remap table from the shadow ends, and waiting accesses to remapped rows proceed. -/
  | evRemapRebuildEnd (controller : Nat) (pseudo : Nat) (shadowGood : Bool)
  /-- RETENTION_ENTERED (R397). A scratchpad array finishes re-encoding into DEC-TED, and any access waiting since entry began starts the leave. -/
  | evRetentionEntered (array : Nat)
  /-- RESUME_ENTRY_MOVE (R311). The device runtime moves a parked gang's resume entry to the resume list of another die of the package. -/
  | evResumeEntryMove (gang : Nat) (die : Nat)
  /-- HALT_ON_BREAK (R394). A debugger enables or disables halt-on-break for a die through Markhor. -/
  | evHaltOnBreak (die : Nat) (on : Bool)
deriving DecidableEq, Repr

end Sys2Proof
end

