-- ==== Sys2Proof/WellFormed.lean ====
section
/-! DEFINITION. The checks of R71 step 2 that depend on an instruction's own fields and not on VL: reserved scope,
type, size, format and stream codes, register fields outside their class, unassigned CSR numbers. -/

namespace Sys2Proof

/-- Why a word is no instruction (R71 step 2); each raises ILLEGAL_INSN. -/
inductive Reject where
  | reservedOp
  | reservedFn
  | unusedField
  | reservedScope
  | reservedSize
  | reservedGroup
  | reservedType
  | reservedFormat
  | reservedStream
  | badRegister
  | badTarget
  | unassignedRegister
  | truncated
deriving DecidableEq, Repr

/-- The first of two checks that fails. -/
def orElse (a b : Option Reject) : Option Reject := a.or b

/-- A check that fails with `r` unless `ok`. -/
def needs (ok : Bool) (r : Reject) : Option Reject := if ok then none else some r

/-- A scope code that names one of the eleven scopes (R57). -/
def scopeOk {n : Nat} (s : BitVec n) : Bool := s.toNat < 11
/-- An element type 0 to 3: integer (R56). -/
def intType (e : BitVec 3) : Bool := e.toNat < 4
/-- An element type 5 to 7: bf16, f16, f32 (R56). -/
def floatType (e : BitVec 3) : Bool := 4 < e.toNat
/-- A field that names a mask register (R55). -/
def maskReg (r : BitVec 5) : Bool := r.toNat < 16
/-- An even register number (R64, R261). -/
def even (r : BitVec 5) : Bool := r.toNat % 2 == 0

/-- The width in bits of an element type code (R56). -/
def typeWidth (e : BitVec 3) : Nat :=
  match e.toNat with
  | 0 => 8
  | 1 => 16
  | 2 => 32
  | 3 => 64
  | 4 => 8
  | 5 => 16
  | 6 => 16
  | _ => 32

/-- The pairs that vcvt.sr accepts (R134): f32 to bf16, f16 or e4m3, and bf16 or f16 to e4m3. -/
def stochasticPair (e t : BitVec 3) : Bool :=
  (t.toNat == 7 && (e.toNat == 5 || e.toNat == 6 || e.toNat == 4)) ||
  ((t.toNat == 5 || t.toNat == 6) && e.toNat == 4)

/-- The pairs that vwmul accepts (R136): both integer, or both floating with the first not e4m3, the second no wider. -/
def mixedPair (e t : BitVec 3) : Bool :=
  ((intType e && intType t) || (floatType e && 4 ≤ t.toNat)) && typeWidth t ≤ typeWidth e

/-- The CSR numbers that R31 assigns. -/
def csrAssigned (n : Nat) : Bool :=
  n == 0x001 || (0x008 ≤ n && n ≤ 0x00C) || (0x010 ≤ n && n ≤ 0x014) || n == 0x018 || n == 0x019 ||
  (0x400 ≤ n && n ≤ 0x403) || (0x408 ≤ n && n ≤ 0x419) || (0x800 ≤ n && n ≤ 0x804) ||
  n == 0x808 || n == 0x809 || (0x840 ≤ n && n ≤ 0x85F)

/-- The static check of an instruction's fields: `none` where every check passes. -/
def Instr.check : Instr → Option Reject
  | .add _ _ _ => none
  | .sub _ _ _ => none
  | .and _ _ _ => none
  | .or _ _ _ => none
  | .xor _ _ _ => none
  | .andn _ _ _ => none
  | .orn _ _ _ => none
  | .xnor _ _ _ => none
  | .sll _ _ _ => none
  | .srl _ _ _ => none
  | .sra _ _ _ => none
  | .rol _ _ _ => none
  | .ror _ _ _ => none
  | .slt _ _ _ => none
  | .sltn _ _ _ => none
  | .seq _ _ _ => none
  | .sne _ _ _ => none
  | .min _ _ _ => none
  | .max _ _ _ => none
  | .minn _ _ _ => none
  | .maxn _ _ _ => none
  | .clz _ _ => none
  | .ctz _ _ => none
  | .popc _ _ => none
  | .bswap _ _ => none
  | .sextB _ _ => none
  | .sextH _ _ => none
  | .sextW _ _ => none
  | .zextW _ _ => none
  | .addw _ _ _ => none
  | .subw _ _ _ => none
  | .sllw _ _ _ => none
  | .srlw _ _ _ => none
  | .sraw _ _ _ => none
  | .addi _ _ _ => none
  | .andi _ _ _ => none
  | .ori _ _ _ => none
  | .xori _ _ _ => none
  | .slti _ _ _ => none
  | .sltni _ _ _ => none
  | .lui _ _ => none
  | .slli _ _ _ => none
  | .srli _ _ _ => none
  | .srai _ _ _ => none
  | .rori _ _ _ => none
  | .slliw _ _ _ => none
  | .srliw _ _ _ => none
  | .sraiw _ _ _ => none
  | .mul _ _ _ => none
  | .mulh _ _ _ => none
  | .mulhn _ _ _ => none
  | .mulhsn _ _ _ => none
  | .div _ _ _ => none
  | .divn _ _ _ => none
  | .rem _ _ _ => none
  | .remn _ _ _ => none
  | .mulw _ _ _ => none
  | .divw _ _ _ => none
  | .divnw _ _ _ => none
  | .remw _ _ _ => none
  | .remnw _ _ _ => none
  | .fadd _ _ _ _ => none
  | .fsub _ _ _ _ => none
  | .fmul _ _ _ _ => none
  | .fdiv _ _ _ _ => none
  | .fsqrt _ _ _ => none
  | .fmin _ _ _ _ => none
  | .fmax _ _ _ _ => none
  | .fmac _ _ _ _ => none
  | .fmsc _ _ _ _ => none
  | .fabs _ _ _ => none
  | .fneg _ _ _ => none
  | .fsgmv _ _ _ _ => none
  | .feq _ _ _ _ => none
  | .flt _ _ _ _ => none
  | .fle _ _ _ _ => none
  | .fkind _ _ _ => none
  | .fcvtF64F32 _ _ => none
  | .fcvtF32F64 _ _ => none
  | .fcvtF32I64 _ _ => none
  | .fcvtF32N64 _ _ => none
  | .fcvtF64I64 _ _ => none
  | .fcvtF64N64 _ _ => none
  | .fcvtI64F32 _ _ => none
  | .fcvtN64F32 _ _ => none
  | .fcvtI64F64 _ _ => none
  | .fcvtN64F64 _ _ => none
  | .fcvtF32Bf16 _ _ => none
  | .fcvtBf16F32 _ _ => none
  | .fcvtF32F16 _ _ => none
  | .fcvtF16F32 _ _ => none
  | .lim _ _ => none
  | .lea _ _ => none
  | .callFar _ i => needs (i.toNat % 4 == 0) .badTarget
  | .beq _ _ _ => none
  | .bne _ _ _ => none
  | .blt _ _ _ => none
  | .bge _ _ _ => none
  | .bltn _ _ _ => none
  | .bgen _ _ _ => none
  | .jal _ _ => none
  | .jalr _ _ _ => none
  | .ld _ _ _ s _ => needs (s.toNat < 7) .reservedSize
  | .st _ _ _ _ _ => none
  | .ldx _ _ _ s => needs (s.toNat < 7) .reservedSize
  | .stx _ _ _ _ => none
  | .ldAcq _ _ s _ => needs (scopeOk s) .reservedScope
  | .stRel _ _ s _ => needs (scopeOk s) .reservedScope
  | .fenceAcq s => needs (scopeOk s) .reservedScope
  | .fenceRel s => needs (scopeOk s) .reservedScope
  | .fenceAr s => needs (scopeOk s) .reservedScope
  | .fenceSc s => needs (scopeOk s) .reservedScope
  | .sdrain => none
  | .rfence s => needs (scopeOk s) .reservedScope
  | .stAt _ _ _ s _ => needs (scopeOk s) .reservedScope
  | .ldNb _ _ _ _ => none
  | .amoswap _ _ _ _ => none
  | .amoadd _ _ _ _ => none
  | .amoand _ _ _ _ => none
  | .amoor _ _ _ _ => none
  | .amoxor _ _ _ _ => none
  | .amomin _ _ _ _ => none
  | .amomax _ _ _ _ => none
  | .amominn _ _ _ _ => none
  | .amomaxn _ _ _ _ => none
  | .amocas _ _ _ _ => none
  | .amofadd _ _ _ _ => none
  | .amofmin _ _ _ _ => none
  | .amofmax _ _ _ _ => none
  | .redadd _ _ _ => none
  | .redand _ _ _ => none
  | .redor _ _ _ => none
  | .redxor _ _ _ => none
  | .redmin _ _ _ => none
  | .redmax _ _ _ => none
  | .redminn _ _ _ => none
  | .redmaxn _ _ _ => none
  | .redfadd _ _ _ => none
  | .redfmin _ _ _ => none
  | .redfmax _ _ _ => none
  | .redOrdAddF32 _ _ _ s => needs (scopeOk s) .reservedScope
  | .redOrdAddI32 _ _ _ s => needs (scopeOk s) .reservedScope
  | .redOrdMinF32 _ _ _ s => needs (scopeOk s) .reservedScope
  | .redOrdMaxF32 _ _ _ s => needs (scopeOk s) .reservedScope
  | .vld _ _ _ _ _ => none
  | .vst _ _ _ _ _ => none
  | .vlds _ _ _ _ _ => none
  | .vsts _ _ _ _ _ => none
  | .vldx _ _ _ _ _ => none
  | .vstx _ _ _ _ _ => none
  | .vldm _ _ _ _ => none
  | .vstm _ _ _ _ => none
  | .vappend _ _ _ _ => none
  | .vldNb _ _ _ _ _ => none
  | .vstAt _ _ _ _ _ s => needs (scopeOk s) .reservedScope
  | .vamoswap _ _ _ _ _ => none
  | .vamoadd _ _ _ _ e => needs (e.toNat != 4) .reservedType
  | .vamoand _ _ _ _ e => needs (intType e) .reservedType
  | .vamoor _ _ _ _ e => needs (intType e) .reservedType
  | .vamoxor _ _ _ _ e => needs (intType e) .reservedType
  | .vamomin _ _ _ _ e => needs (e.toNat != 4) .reservedType
  | .vamomax _ _ _ _ e => needs (e.toNat != 4) .reservedType
  | .vamominn _ _ _ _ e => needs (intType e) .reservedType
  | .vamomaxn _ _ _ _ e => needs (intType e) .reservedType
  | .vredaddIdx _ _ _ _ e => needs (e.toNat != 4) .reservedType
  | .vredandIdx _ _ _ _ e => needs (intType e) .reservedType
  | .vredorIdx _ _ _ _ e => needs (intType e) .reservedType
  | .vredxorIdx _ _ _ _ e => needs (intType e) .reservedType
  | .vredminIdx _ _ _ _ e => needs (e.toNat != 4) .reservedType
  | .vredmaxIdx _ _ _ _ e => needs (e.toNat != 4) .reservedType
  | .vredminnIdx _ _ _ _ e => needs (intType e) .reservedType
  | .vredmaxnIdx _ _ _ _ e => needs (intType e) .reservedType
  | .vredOrdAdd _ _ _ _ e f => orElse (needs (16 < f.toNat && f.toNat < 28) .reservedFn) (needs (e.toNat == 2 || e.toNat == 5 || e.toNat == 7) .reservedType)
  | .vadd _ _ _ _ e => needs (intType e) .reservedType
  | .vsub _ _ _ _ e => needs (intType e) .reservedType
  | .vmul _ _ _ _ e => needs (intType e) .reservedType
  | .vmulh _ _ _ _ e => needs (intType e) .reservedType
  | .vmulhn _ _ _ _ e => needs (intType e) .reservedType
  | .vand _ _ _ _ e => needs (intType e) .reservedType
  | .vor _ _ _ _ e => needs (intType e) .reservedType
  | .vxor _ _ _ _ e => needs (intType e) .reservedType
  | .vsll _ _ _ _ e => needs (intType e) .reservedType
  | .vsrl _ _ _ _ e => needs (intType e) .reservedType
  | .vsra _ _ _ _ e => needs (intType e) .reservedType
  | .vmin _ _ _ _ e => needs (intType e) .reservedType
  | .vmax _ _ _ _ e => needs (intType e) .reservedType
  | .vminn _ _ _ _ e => needs (intType e) .reservedType
  | .vmaxn _ _ _ _ e => needs (intType e) .reservedType
  | .vadds _ _ _ _ e => needs (intType e) .reservedType
  | .vaddsn _ _ _ _ e => needs (intType e) .reservedType
  | .vsubs _ _ _ _ e => needs (intType e) .reservedType
  | .vsubsn _ _ _ _ e => needs (intType e) .reservedType
  | .vabs _ _ _ e => needs (intType e) .reservedType
  | .vneg _ _ _ e => needs (intType e) .reservedType
  | .vclz _ _ _ e => needs (intType e) .reservedType
  | .vpopc _ _ _ e => needs (intType e) .reservedType
  | .vceq d _ _ _ e => orElse (needs (intType e) .reservedType) (needs (maskReg d) .badRegister)
  | .vcne d _ _ _ e => orElse (needs (intType e) .reservedType) (needs (maskReg d) .badRegister)
  | .vclt d _ _ _ e => orElse (needs (intType e) .reservedType) (needs (maskReg d) .badRegister)
  | .vcle d _ _ _ e => orElse (needs (intType e) .reservedType) (needs (maskReg d) .badRegister)
  | .vcltn d _ _ _ e => orElse (needs (intType e) .reservedType) (needs (maskReg d) .badRegister)
  | .vclen d _ _ _ e => orElse (needs (intType e) .reservedType) (needs (maskReg d) .badRegister)
  | .vmerge _ _ _ _ _ => none
  | .vfadd _ _ _ _ e => needs (floatType e) .reservedType
  | .vfsub _ _ _ _ e => needs (floatType e) .reservedType
  | .vfmul _ _ _ _ e => needs (floatType e) .reservedType
  | .vfdiv _ _ _ _ e => needs (floatType e) .reservedType
  | .vfsqrt _ _ _ e => needs (floatType e) .reservedType
  | .vfmin _ _ _ _ e => needs (floatType e) .reservedType
  | .vfmax _ _ _ _ e => needs (floatType e) .reservedType
  | .vfmac _ _ _ _ e => needs (floatType e) .reservedType
  | .vfmsc _ _ _ _ e => needs (floatType e) .reservedType
  | .vfnmac _ _ _ _ e => needs (floatType e) .reservedType
  | .vfabs _ _ _ e => needs (floatType e) .reservedType
  | .vfneg _ _ _ e => needs (floatType e) .reservedType
  | .vfsgmv _ _ _ _ e => needs (floatType e) .reservedType
  | .vfrecip _ _ _ e => needs (floatType e) .reservedType
  | .vfrsqrt _ _ _ e => needs (floatType e) .reservedType
  | .vfexp2 _ _ _ e => needs (floatType e) .reservedType
  | .vflog2 _ _ _ e => needs (floatType e) .reservedType
  | .vfceq d _ _ _ e => orElse (needs (floatType e) .reservedType) (needs (maskReg d) .badRegister)
  | .vfclt d _ _ _ e => orElse (needs (floatType e) .reservedType) (needs (maskReg d) .badRegister)
  | .vfcle d _ _ _ e => orElse (needs (floatType e) .reservedType) (needs (maskReg d) .badRegister)
  | .vfcun d _ _ _ e => orElse (needs (floatType e) .reservedType) (needs (maskReg d) .badRegister)
  | .vfkind _ _ _ e => needs (floatType e) .reservedType
  | .vcvt _ _ _ e t => needs (t != e) .reservedType
  | .vcvtSr _ _ _ e t => needs (stochasticPair e t) .reservedType
  | .vcvtmWiden _ _ _ e _ => needs (3 < e.toNat) .reservedType
  | .vcvtmNarrow _ _ _ e _ => needs (3 < e.toNat) .reservedType
  | .vwmul _ _ _ _ e t => needs (mixedPair e t) .reservedType
  | .vperm _ _ _ _ _ => none
  | .velsh _ _ _ _ _ => none
  | .velrot _ _ _ _ _ => none
  | .vredsum _ _ _ e => needs (e.toNat != 4) .reservedType
  | .vredmin _ _ _ e => needs (e.toNat != 4) .reservedType
  | .vredmax _ _ _ e => needs (e.toNat != 4) .reservedType
  | .vredminn _ _ _ e => needs (intType e) .reservedType
  | .vredmaxn _ _ _ e => needs (intType e) .reservedType
  | .vredand _ _ _ e => needs (intType e) .reservedType
  | .vredor _ _ _ e => needs (intType e) .reservedType
  | .vscan _ _ _ e => needs (e.toNat != 4) .reservedType
  | .vsegsum _ _ b _ e => orElse (needs (e.toNat != 4) .reservedType) (needs (maskReg b) .badRegister)
  | .vrand _ _ e => needs (intType e) .reservedType
  | .vmvx _ _ _ _ => none
  | .vmvv _ _ _ _ => none
  | .vbcast _ _ _ _ => none
  | .vsqueeze _ _ _ _ => none
  | .vindex _ _ _ _ e => needs (intType e) .reservedType
  | .mand d a b => orElse (needs (maskReg d) .badRegister) (orElse (needs (maskReg a) .badRegister) (needs (maskReg b) .badRegister))
  | .mor d a b => orElse (needs (maskReg d) .badRegister) (orElse (needs (maskReg a) .badRegister) (needs (maskReg b) .badRegister))
  | .mxor d a b => orElse (needs (maskReg d) .badRegister) (orElse (needs (maskReg a) .badRegister) (needs (maskReg b) .badRegister))
  | .mandn d a b => orElse (needs (maskReg d) .badRegister) (orElse (needs (maskReg a) .badRegister) (needs (maskReg b) .badRegister))
  | .mnot d a => orElse (needs (maskReg d) .badRegister) (needs (maskReg a) .badRegister)
  | .mset d => needs (maskReg d) .badRegister
  | .mclr d => needs (maskReg d) .badRegister
  | .mcnt _ a => needs (maskReg a) .badRegister
  | .many _ a => needs (maskReg a) .badRegister
  | .mfirst _ a => needs (maskReg a) .badRegister
  | .vaddVx _ _ _ _ e _ => needs (intType e) .reservedType
  | .vsubVx _ _ _ _ e _ => needs (intType e) .reservedType
  | .vrsubVx _ _ _ _ e _ => needs (intType e) .reservedType
  | .vmulVx _ _ _ _ e _ => needs (intType e) .reservedType
  | .vandVx _ _ _ _ e _ => needs (intType e) .reservedType
  | .vorVx _ _ _ _ e _ => needs (intType e) .reservedType
  | .vxorVx _ _ _ _ e _ => needs (intType e) .reservedType
  | .vsllVx _ _ _ _ e _ => needs (intType e) .reservedType
  | .vsrlVx _ _ _ _ e _ => needs (intType e) .reservedType
  | .vsraVx _ _ _ _ e _ => needs (intType e) .reservedType
  | .vminVx _ _ _ _ e _ => needs (intType e) .reservedType
  | .vmaxVx _ _ _ _ e _ => needs (intType e) .reservedType
  | .vfaddVx _ _ _ _ e => needs (floatType e) .reservedType
  | .vfmulVx _ _ _ _ e => needs (floatType e) .reservedType
  | .vfmacVx _ _ _ _ e => needs (floatType e) .reservedType
  | .vceqVx d _ _ _ e _ => orElse (needs (intType e) .reservedType) (needs (maskReg d) .badRegister)
  | .mop _ _ _ _ _ f => needs (f.toNat < 7) .reservedFormat
  | .mops _ _ _ _ _ f => needs (f.toNat < 7) .reservedFormat
  | .mopx _ a b _ _ f => orElse (needs (1 < f.toNat && f.toNat < 7) .reservedFormat) (needs (even a && even b) .badRegister)
  | .mopxs _ a b _ _ f => orElse (needs (1 < f.toNat && f.toNat < 7) .reservedFormat) (needs (even a && even b) .badRegister)
  | .mopsp _ a _ _ _ f => orElse (needs (f.toNat < 6) .reservedFormat) (needs (even a) .badRegister)
  | .mopi _ _ _ _ _ f => needs (7 < f.toNat && f.toNat < 12) .reservedFormat
  | .mopiSat _ _ _ _ _ f => needs (7 < f.toNat && f.toNat < 12) .reservedFormat
  | .acczero _ => none
  | .accrd _ _ _ => none
  | .accwr _ _ _ => none
  | .accpro _ y _ _ _ => needs (y.toNat < 3) .reservedFormat
  | .accld _ _ => none
  | .accst _ _ => none
  | .accmov _ _ => none
  | .accadd _ y _ => needs (y.toNat < 3) .reservedFormat
  | .accsave _ => none
  | .accrest _ => none
  | .cpy _ _ c _ _ x => orElse (needs (even c) .badRegister) (needs (x.toNat < 2) .reservedStream)
  | .cpy2 _ _ c _ _ x => orElse (needs (even c) .badRegister) (needs (x.toNat < 2) .reservedStream)
  | .cpyxG _ _ c _ _ => needs (even c) .badRegister
  | .cpyxS _ _ c _ _ => needs (even c) .badRegister
  | .cpyM _ _ c _ _ x => orElse (needs (even c) .badRegister) (needs (x.toNat < 2) .reservedStream)
  | .cpy2M _ _ c _ _ x => orElse (needs (even c) .badRegister) (needs (x.toNat < 2) .reservedStream)
  | .cpyxGM _ _ c _ _ => needs (even c) .badRegister
  | .ccwait _ _ _ => none
  | .ccrd _ _ _ => none
  | .ccset _ _ _ => none
  | .sgbind _ _ _ x => needs (x.toNat < 3) .reservedStream
  | .sgunbind _ _ => none
  | .subscribe _ _ _ _ _ => none
  | .unsub _ _ => none
  | .unsubPub _ _ => none
  | .subflush _ => none
  | .barrArrive _ => none
  | .barrWait _ => none
  | .barrArriveSpan g => needs (g.toNat < 16) .reservedGroup
  | .barrWaitSpan g => needs (g.toNat < 16) .reservedGroup
  | .barrArriveGang => none
  | .barrWaitGang => none
  | .pause _ => none
  | .recv _ _ => none
  | .launch _ s => needs (scopeOk s) .reservedScope
  | .launchR _ _ s => needs (scopeOk s) .reservedScope
  | .join _ => none
  | .gexit => none
  | .yield => none
  | .rdctl _ c => needs (csrAssigned c.toNat) .unassignedRegister
  | .wrctl _ c => needs (csrAssigned c.toNat) .unassignedRegister
  | .setctl _ c => needs (csrAssigned c.toNat) .unassignedRegister
  | .clrctl _ c => needs (csrAssigned c.toNat) .unassignedRegister
  | .setvl _ _ _ => none
  | .setml _ _ => none
  | .trap _ => none
  | .eret => none
  | .fenceI => none
  | .preempt => none
  | .gkill _ => none
  | .sfqpop _ => none
  | .tlbinv _ => none
  | .hinv _ => none
  | .ebreak => none
  | .halt => none
  | .evStoreBufferDrain _ => none
  | .evStoreFaultReport _ => none
  | .evCopyErrorReport _ => none
  | .evDeadlineReport _ => none
  | .evUncorrectableReport _ => none
  | .evRead _ => none
  | .evWrite _ => none
  | .evAtomic _ => none
  | .evReduce _ => none
  | .evResp _ => none
  | .evTimedArrival _ => none
  | .evTimedEntryGrant _ => none
  | .evTimedInstant _ => none
  | .evQueueEnqueue _ _ _ => none
  | .evBadwrite _ => none
  | .evContRetry _ => none
  | .evJoinApply _ => none
  | .evRingDelivery _ => none
  | .evContribution _ => none
  | .evSpanRelease _ => none
  | .evSpanWaitExit _ => none
  | .evPauseExpiry _ => none
  | .evPreemptStop _ => none
  | .evPreemptNotice _ => none
  | .evNoticeTimeout _ => none
  | .evParkComplete _ => none
  | .evGangResume _ => none
  | .evCopyAccept _ => none
  | .evPendingReserve _ => none
  | .evGraphFrame _ => none
  | .evChunkComplete _ _ => none
  | .evBatchTimeout _ _ _ => none
  | .evSubscriptionUpdate _ => none
  | .evRelockEnd _ => none
  | .evPowerControlTick _ _ _ => none
  | .evTctlThrottleTick _ _ => none
  | .evDieOver105c _ => none
  | .evThermalTrip _ _ => none
  | .evHbmOver85c _ => none
  | .evHbmOver95c _ => none
  | .evTelemetryUpdate _ _ => none
  | .evPcapWrite _ _ => none
  | .evTctlWrite _ _ => none
  | .evStepmaxWrite _ _ _ => none
  | .evRegisterWrite _ _ _ => none
  | .evPrtEntryWrite _ _ _ _ => none
  | .evQcfgWrite _ _ _ => none
  | .evQrelWrite _ _ _ => none
  | .evQpop _ _ _ => none
  | .evScfgWrite _ _ _ _ => none
  | .evPreqWrite _ _ _ => none
  | .evMigrationEntryWrite _ _ _ _ => none
  | .evMigrationPull _ _ => none
  | .evKeyctlWrite _ _ _ => none
  | .evKeydataWrite _ _ _ _ => none
  | .evTrapBlockWrite _ _ _ _ => none
  | .evOffreqWrite _ _ _ => none
  | .evEvacBlockMove _ => none
  | .evRlenWrite _ _ _ => none
  | .evHostBar4Read _ _ => none
  | .evHostBar4Write _ _ => none
  | .evPtpSync _ => none
  | .evSyncTimeout => none
  | .evLaneRepair _ _ => none
  | .evPortFailure _ => none
  | .evDebugHaltEnd _ => none
  | .evRetentionEnter _ => none
  | .evRetentionLeave _ => none
  | .evDramScrub _ _ => none
  | .evMscScrub _ _ => none
  | .evRemapReload _ _ _ _ => none
  | .evRowSparing _ _ _ _ => none
  | .evClusterFailure _ _ _ => none
  | .evColdReset _ _ _ _ _ _ => none
  | .evWarmReset => none
  | .evSpdmRequest _ => none
  | .evBlackBoxRead _ _ _ => none
  | .evImageCheck _ _ => none
  | .evTenantConfigRequest _ _ => none
  | .evIllegalInsn _ => none
  | .evFetchFault _ => none
  | .evEndOf105cAction _ => none
  | .evStandbyPowerLoss => none
  | .evRemapRebuildEnd _ _ _ => none
  | .evRetentionEntered _ => none
  | .evResumeEntryMove _ _ => none
  | .evHaltOnBreak _ _ => none

/-- An instruction whose fields pass every static check. -/
abbrev Instr.WellFormed (i : Instr) : Prop := i.check = none

end Sys2Proof
end

