-- ==== Sys2Proof/Machine/State.lean ====
section
/-! DEFINITION. The state of the package as plain data, and the state after cold reset before boot (R408). -/

namespace Sys2Proof.Machine

/-- Why the machine stops. -/
inductive Fault where
  /-- Raised by a trap entry, a return from a trap or a save of context whose context save area lies at a physical
  address that no valid region decodes: R378 says only that this never happens. Safe. -/
  | csaUnreachable
deriving DecidableEq, Repr

/-- Why the machine gives an instruction no meaning. -/
inductive Refusal where
  /-- Raised by an arm of the dispatch whose instruction has no meaning yet. Safe. -/
  | notModelled (mnemonic : String)
deriving DecidableEq, Repr

/-- The privilege levels of R374. -/
inductive Priv where
  | user
  | supervisor
  | machine
deriving DecidableEq, Repr

/-- What a release left at its bytes for acquires to take up (R198): the releasing hart with its core and TID, its
scope, its point; for a timed write that did not miss (R205, R207), its time. -/
structure Released where
  key : Nat
  size : Nat
  hart : Nat
  core : Nat
  tid : Nat
  scope : Nat
  time : Option Nat
  clock : List (Nat × Nat)
deriving DecidableEq, Repr

/-- What kind of store a store-buffer entry holds (R218, R227, R228). -/
inductive StoreKind where
  | plain
  | release (scope : Nat)
  | timed (scope time guard : Nat)
deriving DecidableEq, Repr

/-- An entry of the store buffer (R218): the store as it retired, with the context, tenant and privilege it retired
and in the world it retired under (R34, R168), its time of issue (R250), its hart's point in happens-before, the first tag of
the accesses after it, and the scopes at which it releases (R198, R199). -/
structure SbEntry where
  va : Dword
  pc : Dword
  size : Nat
  data : Dword
  kind : StoreKind
  ctx : BitVec 16
  tid : BitVec 12
  secure : Bool
  priv : Priv
  instret : Dword
  issued : Nat
  clock : List (Nat × Nat)
  before : Nat
  rels : List Nat
deriving DecidableEq, Repr

/-- A store-fault record (R390). -/
structure SfRecord where
  va : Dword
  pc : Dword
  mask : BitVec 8
  cause : BitVec 8
deriving DecidableEq, Repr

/-- A copy as its VDQ entry captured it (R34, R261): form 0 to 6 as OP 0x30 numbers them (R67), with the context and the
tenant of its hart. -/
structure CopyReq where
  form : Nat
  dst : Dword
  src : Dword
  s0 : Dword
  s1 : Dword
  index : List Nat
  cc : Nat
  stream : Bool
  pc : Dword
  ctxid : Dword
  tid : Dword
deriving DecidableEq, Repr

/-- A vector, mask or matrix instruction in the VDQ (R14): its word and PC, what it captured as it entered (R34, R107):
the x registers, VL, MVL and MVC, INSTRET, privilege, context, tenant and world, and when that was (R250); whether the scalar
pipeline issues nothing past it (R124, R163, R222); how many of its row accesses or elements it has placed or made, with the
rows read (R160), and the trap that a response has brought for it; whether it has come back with a resumed hart (R386). -/
structure VdqInsn where
  word : Nat
  pc : Dword
  x : Vector Dword 32
  vl : Dword
  mvl : Dword
  mvc : Dword
  instret : Dword
  priv : Priv
  ctxid : Dword
  tid : Dword
  secure : Bool
  issued : Nat
  holds : Bool
  done : Nat
  rows : List Vec
  late : Option (Nat × Dword)
  resumed : Bool
deriving DecidableEq, Repr

/-- What the oldest instruction of the VDQ goes on with: how many rows it has done, the rows that it has read (R160), whether the
scalar pipeline issues nothing past it, when it entered the queue (R250) and the world that it captured there (R34). -/
structure Head where
  done : Nat
  rows : List Vec
  holds : Bool
  issued : Nat
  secure : Bool
deriving DecidableEq, Repr

/-- An entry of the VDQ (R14, R265, R268). -/
inductive VdqEntry where
  | copy (req : CopyReq)
  | ccset (cc : Nat) (count : BitVec 32)
  | insn (q : VdqInsn)
deriving DecidableEq, Repr

/-- The open batch that a publish entry holds for one subscriber (R276): bytes by offset in the region, the offsets of
those that are poisoned (R396), and the time at which it was opened. -/
structure Batch where
  granule : Nat
  bytes : List (Nat × Byte)
  bad : List Nat
  since : Nat
deriving DecidableEq, Repr

/-- One subscriber of a publish entry (R273, R276); one that leaves gets no more updates, and counts until those on their
way have been acknowledged (R275). -/
structure Subscriber where
  hart : Nat
  entry : Nat
  batch : Option Batch
  leaving : Bool
deriving DecidableEq, Repr

/-- A valid publish entry (R273, R274). -/
structure PubEntry where
  cluster : Bool
  off : Nat
  len : Nat
  subs : List Subscriber
deriving DecidableEq, Repr

/-- A valid subscribe entry (R274): the copy in the local window and the published region. -/
structure SubEntry where
  cluster : Bool
  off : Nat
  len : Nat
  publisher : Nat
  remoteCluster : Bool
  remoteOff : Nat
deriving DecidableEq, Repr

/-- Where an outstanding load or atomic writes its data (R216, R228 to R230): an x register, zero-extended or
sign-extended from a number of bytes; `n` bytes from byte `lo` of an x register as part of a load of `size` bytes (R215);
`width` bits from bit `lo` of a vector group, the data shifted right by `shift`, for element `elem` (R222, R225); eight
bytes of a row that the oldest instruction of the VDQ reads (R160). -/
inductive Dest where
  | x (d : Nat)
  | sx (d size : Nat)
  | xpart (d lo n size : Nat) (signed : Bool)
  | v (reg lo width shift elem : Nat)
  | tile (row unit : Nat)
deriving DecidableEq, Repr

/-- Whether a hart is on a core, and what it does there (R301, R381, R394); a core whose hart is `resuming` is held
for a hart that is still in its save area (R386). -/
inductive HartStatus where
  | absent
  | resuming
  | running
  | parking
  | halted
  | exited
deriving DecidableEq, Repr

/-- A hart (R50): its context, the queues behind it and the reports it owes; the edge and the key of the miss that it took
last (R251); the chunk bits set in its mask registers at the latest edge: edge, register, bit (R144); whether a vector memory
instruction of it is amid its elements, those below VSTART performed (R191), with the address at which a vappend goes on. -/
structure Hart where
  x : Vector Dword 32
  v : Vector Vec 32
  m : Vector Mask 16
  cc : Vector Dword 16
  pc : Dword
  priv : Priv
  fcsr : Dword
  vl : Dword
  vstart : Dword
  mvl : Dword
  mvc : Dword
  rngkey : Vector Dword 4
  rngctr : Dword
  tguard : Dword
  tlate : Dword
  instret : Dword
  gangid : Dword
  gidx : Dword
  gangsz : Dword
  ctxid : Dword
  tid : Dword
  epc : Dword
  ecause : Dword
  eval : Dword
  eslice : Dword
  estat : Dword
  restart : Option Nat
  sb : List SbEntry
  sfq : List SfRecord
  vdq : List VdqEntry
  bar : Vector (BitVec 8) 64
  subs : Vector (Option SubEntry) 16
  pubs : Vector (Option PubEntry) 16
  copyErrs : List Dword
  deadline : Option Dword
  further : Bool
  uncorrectable : Option Dword
  notice : Bool
  noticeWord : Option Dword
  kill : Option Dword
  preempt : Bool
  pend : List (Nat × Dest)
  launchAt : Option (Dword × Dword)
  launchCode : Option Nat
  ahead : Bool
  amid : Option Dword
  waitAt : Option Dword
  waitTags : List Nat
  waitTrap : Option (Nat × Dword × Option Nat)
  waitFlags : BitVec 5
  head : Option Head
  pauseLeft : Nat
  atWait : Bool
  slot : Nat
  poolDie : Nat
  poolSecure : Bool
  pbmp : Dword
  status : HartStatus
  dying : Bool
  gang : Nat
  clock : List (Nat × Nat)
  observed : List Released
  armed : List Nat
  missAt : Option (Nat × Nat × Nat)
  chunkBits : List (Nat × Nat × Nat)
deriving DecidableEq, Repr

/-- The owner tag of a scratchpad granule (R388): slot, die of the pool, world. -/
structure Tag where
  slot : Nat
  die : Nat
  secure : Bool
deriving DecidableEq, Repr

/-- A cached translation (R356 to R358): the context and tenant it was formed under, the page, and the attributes of
both leaves. -/
structure TlbEntry where
  ctx : Nat
  tid : Nat
  secure : Bool
  vbase : Nat
  size : Nat
  pbase : Nat
  r : Bool
  w : Bool
  x : Bool
  u : Bool
  rc : Bool
  kp : Bool
  hostOk : Bool
  prtMask : Dword
deriving DecidableEq, Repr

/-- A core: what stays with it when a hart leaves (R50), and the time of the last edge at which its hart had a turn. -/
structure Core where
  id : Nat
  tiles : Vector (Vector Vec 32) 8
  acclive : Dword
  accown : Dword
  accen : Dword
  secure : Bool
  tags : List (Nat × Tag)
  icache : List (Nat × BitVec 512)
  tlb : List TlbEntry
  turnAt : Nat
deriving DecidableEq, Repr

/-- The operation of an atomic or a reduction (R230) by its op number, its element type and the rounding it carries. -/
structure AtomicOp where
  op : Nat
  floating : Bool
  width : Nat
  brain : Bool
  rm : Nat
  sat : Bool
deriving DecidableEq, Repr

/-- A byte of a scratchpad as its owner names it: of a hart's private scratchpad, or of a gang's partition. -/
inductive Spot where
  | priv (hart off : Nat)
  | part (gang off : Nat)
deriving DecidableEq, Repr

/-- What a timed access does when its time comes (R228, R229, R232, R235). -/
inductive TimedBody where
  | store (bytes : List Byte)
  | reduce (op : AtomicOp) (value : Nat)
  | load (size : Nat) (dest : Dest) (tag : Nat)
deriving DecidableEq, Repr

/-- A timed access or ordered reduction (R244 to R251): the hart it belongs to, its key (HARTID, INSTRET, element),
the time it asks for and the time at which it is applied (R249), guard, location and spot in a scratchpad, its hart's point
in happens-before; once it has arrived, its stamp,
whether a debug halt came between issue and arrival, and once it has its entry, the class and lateness of its miss. -/
structure Timed where
  owner : Nat
  hart : Nat
  instret : Nat
  elem : Nat
  va : Dword
  asked : Nat
  time : Nat
  guard : Nat
  key : Nat
  spot : Option Spot
  body : TimedBody
  issued : Nat
  stamp : Nat
  debug : Bool
  cls : Nat
  late : Nat
  ordered : Bool
  clock : List (Nat × Nat)
deriving DecidableEq, Repr

/-- One element of a return-free reduction (R231, R233). -/
structure RedElem where
  op : AtomicOp
  key : Nat
  value : Nat
  va : Dword
deriving DecidableEq, Repr

/-- What a message carries (R188). A launch of a continuation has its name at the sending die, and whether it is tried for
the first time (R305). A `nibble` is the store of the low or the high nibble of a byte, merged at its home (R197). A barrier's messages have the phase modulo 4 and the die that they go to (R330). -/
inductive MsgBody where
  | read (key size : Nat) (dest : Dest) (tag : Nat)
  | write (cells : List Host.Cell)
  | nibble (key hi value : Nat)
  | atomic (op : AtomicOp) (key value expected : Nat) (dest : Dest) (tag : Nat)
  | reduce (elems : List RedElem)
  | timed (op : Timed)
  | launch (q : Nat) (record : BitVec 512) (cont : Option (Nat × Bool))
  | join (key tag : Nat)
  | contribution (group phase stamp fromDie toDie : Nat)
  | release (group phase time toDie : Nat)
  | update (subscriber entry : Nat) (bytes : List (Nat × Byte)) (bad : List Nat)
deriving DecidableEq, Repr

/-- A message on its way (R189): the hart that sent it (0 for another package's), its HARTID and core, the destination of its pair (a die of this package below 4,
else 4 + package), the tenant and world it carries (R368), the time it left, the virtual address of its access, the
sender's point in happens-before, whether it is checked for races at its home (R213), the scopes at which it
releases (R198, R199), the spot that it is for where its home is a scratchpad, and the tag of the acknowledgement that its
hart waits for, beside any answer with data (R222). -/
structure Msg where
  owner : Nat
  hartid : Nat
  core : Nat
  dst : Nat
  tid : BitVec 12
  secure : Bool
  sent : Nat
  va : Dword
  body : MsgBody
  clock : List (Nat × Nat)
  race : Bool
  rels : List Nat
  spot : Option Spot
  ack : Option Nat
deriving DecidableEq, Repr

/-- What a response brings back to its hart (R188, R251): of an access of `n` bytes that raced at its home, RACE (R214); of a
posted message that another package refused, the event for the black box of its own die (R369). -/
inductive RespBody where
  | done (tag : Option Nat)
  | load (tag value : Nat) (dest : Dest) (clock : List (Nat × Nat))
  | amo (tag value : Nat) (dest : Dest) (flags : BitVec 5)
  | flags (bits : BitVec 5)
  | launched (code : Nat)
  | enqueued (tag code : Nat)
  | poisoned (va : Dword) (tag : Option Nat)
  | refused (va : Dword) (tag : Option Nat)
  | dropped (tid addr : Nat)
  | raced (va : Dword) (n : Nat) (tag : Option Nat)
deriving DecidableEq, Repr

/-- A response on its way to a hart; with the miss that it reports: address, class, lateness, and the INSTRET and element
of its access, by which misses are taken in order (R251). -/
structure Resp where
  owner : Nat
  body : RespBody
  key : Nat × Nat
  miss : Option (Dword × Nat × Nat)
deriving DecidableEq, Repr

/-- One endpoint of an accepted copy: where it lies, its handle, and its key (R260, R364). -/
structure Endpoint where
  space : Nat
  base : Nat
  len : Nat
  off : Nat
  handle : Option Nat
  keyed : Bool
  key : Nat
  layout : Nat
deriving DecidableEq, Repr

/-- An accepted copy (R264 to R270, R293 to R299): its snapshot has the poison of each byte; `written` are the chunks
that have performed and wait for their updates, with the time at which they did (R208). -/
structure CopyRun where
  id : Nat
  core : Nat
  hart : Nat
  ctx : Nat
  tid : Nat
  secure : Bool
  req : CopyReq
  src : Endpoint
  dst : Endpoint
  statusAt : Option Endpoint
  graph : Option (Nat × BitVec 2048)
  snapshot : Option (List (Byte × Bool))
  reserve : List (Nat × Nat)
  reserved : List (Nat × Nat)
  frames : Nat
  written : List (Nat × Nat)
  done : List Nat
  failed : List Nat
  crc : BitVec 32
  nonzero : Nat
  gflags : BitVec 5
  dataBad : Bool
  stopped : Bool
  clock : List (Nat × Nat)
deriving DecidableEq, Repr

/-- A pending granule of graph copies (R296): the copies with a write pending in it. -/
structure PendGranule where
  key : Nat
  copies : List Nat
deriving DecidableEq, Repr

/-- What a gang does (R311, R385, R386). -/
inductive GangPhase where
  | resident
  | parking
  | parked
  | resuming
deriving DecidableEq, Repr

/-- A gang (R301, R311): what came from its record and queue, where it is, and its barrier; whether it has been killed,
and whether it is discarded while it is parked (R391). -/
structure Gang where
  id : Nat
  tag : BitVec 32
  ctx : BitVec 16
  tid : BitVec 12
  secure : Bool
  die : Nat
  cluster : Nat
  gsize : Nat
  prio : Nat
  stamp : Nat
  queue : Nat
  cq : Nat
  cont : Dword
  join : Dword
  part : Nat
  units : List Nat
  gslot : Option Nat
  poolDie : Nat
  ptbmp : BitVec 1024
  arrived : List (Nat × Nat)
  phases : Nat
  doneAt : List (Nat × Nat)
  clocks : List (Nat × List (Nat × Nat))
  phase : GangPhase
  saved : List Hart
  placed : Nat
  passed : Nat
  guardAt : Option Nat
  parkAt : Option Nat
  noticeAt : Option Nat
  killed : Bool
  discard : Bool
deriving DecidableEq, Repr

/-- A local barrier group of a die (R48, R324, R325): BMASK as written, the membership of the running phase, the
arrivals (phase, HARTID), the completed phases and when the latest of them were completed. -/
structure LocalGroup where
  mask : Dword
  members : Dword
  arrived : List (Nat × Nat)
  phases : Nat
  doneAt : List (Nat × Nat)
  clocks : List (Nat × List (Nat × Nat))
deriving DecidableEq, Repr

/-- A spanning group on a die (R330): arrivals (phase, HARTID), the latest stamp of each phase, contributions held by
a root (phase, die of the domain, stamp), release instants by phase, completed phases, and whether it contributed. -/
structure SpanGroup where
  arrived : List (Nat × Nat)
  stamps : List (Nat × Nat)
  held : List (Nat × Nat × Nat)
  releases : List (Nat × Nat)
  phases : Nat
  sent : Nat
  clocks : List (Nat × List (Nat × Nat))
deriving DecidableEq, Repr

/-- A record of the black box (R406). -/
structure Event where
  gt : Nat
  code : Nat
  src : Nat
  seq : Nat
  data0 : Nat
  data1 : Nat
deriving DecidableEq, Repr

/-- A frequency step as FSTEP holds it (R41). -/
structure FStep where
  word0 : Dword
  word1 : Dword
deriving DecidableEq, Repr

/-- A CONT or join enqueue that its die holds, or that has gone out to another package and is not answered yet (R305):
its target, its record, the tenant and world that it carries (R368). -/
structure HeldCont where
  package : Nat
  q : Nat
  record : BitVec 512
  stamp : Nat
  addr : Nat
  clock : List (Nat × Nat)
  tid : Nat
  secure : Bool
  tag : Nat
  out : Bool
deriving DecidableEq, Repr

/-- An entry of a die's walk cache (R357, R358): a dword that a walk read to go on, of a table of a stage (the context's
where `ctx` is one) or of a descriptor, by its address and whom it was formed under. -/
structure WalkEntry where
  desc : Bool
  ctx : Option Nat
  tid : Nat
  addr : Nat
  value : Nat
deriving DecidableEq, Repr

/-- What is left to do of a gang's end (R313): the CONT and JOIN that are still to be performed, with the point that
its harts reached. -/
structure GangEnd where
  die : Nat
  queue : Nat
  cq : Nat
  ctx : BitVec 16
  tid : BitVec 12
  secure : Bool
  tag : BitVec 32
  cont : Dword
  join : Dword
  clock : List (Nat × Nat)
deriving DecidableEq, Repr

/-- A die: clock with its latest and its next edge, barriers, scheduler with the clusters reserved for candidates (R310) and
the cores kept for them (R312), black box; while it is taken offline, the status that this will end with and its
STATE from before (R401); where its memory is spilled, the spill home die and the host address (R403), and the entries
that have been handed to another spill home (R405). -/
structure Die where
  step : Nat
  cycle : Nat
  ncyc : Nat
  edgeAt : Nat
  nextEdge : Nat
  relockEnd : Option Nat
  fstep : List FStep
  halted : Bool
  haltSince : Nat
  halts : List (Nat × Nat)
  haltOnBreak : Bool
  powerStep : Nat
  tctlStep : Nat
  hot : Bool
  lastPower : Option Nat
  lastTctl : Option Nat
  groups : List (Nat × LocalGroup)
  spans : List (Nat × SpanGroup)
  hslots : List Nat
  hslotsSec : List Nat
  gslots : List Nat
  gslotsSec : List Nat
  conts : List HeldCont
  contAt : Option Nat
  bbox : List Event
  seq : Nat
  offline : List Nat
  calibrations : Nat
  reserved : List (Nat × Nat)
  kept : List (Nat × Nat)
  walks : List WalkEntry
  leaving : Option (Nat × Nat)
  spill : Option (Nat × Nat)
  handed : List (Nat × Nat)
deriving DecidableEq, Repr

/-- What the model keeps of a work queue beside its registers: arrival stamps by index, and the pass-over count and
guard of its first record (R305, R310), and whether its ring was reported bad (R315). -/
structure QueueInfo where
  stamps : List (Nat × Nat)
  passed : Nat
  guardAt : Option Nat
  ringBad : Bool
  clocks : List (Nat × List (Nat × Nat))
deriving DecidableEq, Repr

/-- What a cluster keeps: the tags of its scratchpad granules (R388), the units given to gangs (R309) and its L2 TLB
(R358). -/
structure Cluster where
  tags : List (Nat × Tag)
  units : List Nat
  tlb : List TlbEntry
deriving DecidableEq, Repr

/-- A race record (R213): the hart that is the last plain writer of a 64-byte granule, the agent that wrote for it
(itself or a copy of its), and the agent's point in happens-before. -/
structure RaceRec where
  hart : Nat
  agent : Nat
  point : Nat
deriving DecidableEq, Repr

/-- The states of a scratchpad's retention mode (R397); an array without one is active, and one that `turns` enters
with an access waiting. -/
inductive Retention where
  | entering
  | turning
  | retained
  | leaving
deriving DecidableEq, Repr

/-- What an evacuation does with a region: it re-stripes it (R402), it spills its blocks of the die to the host (R403),
or it hands the spilled blocks of another die to a new spill home (R405). -/
inductive EvacKind where
  | restripe
  | spill
  | hand (from_ home : Nat)
deriving DecidableEq, Repr

/-- A region that an evacuation moves (R401 to R405): the die that leaves, its PRT entry, the layout it gets where it is
re-striped, the blocks moved and when the moving began. -/
structure EvacRegion where
  die : Nat
  entry : Nat
  dies : Nat
  lbase : Nat
  moved : Nat
  since : Nat
  kind : EvacKind
deriving DecidableEq, Repr

/-- An access of the host that waits at the package, in PCIe order (R186, R187): a BAR4 read or write, or a launch record
written to a queue page. -/
inductive HostAccess where
  | read (off n : Nat)
  | write (off : Nat) (bytes : List Byte)
  | launch (q : Nat) (record : BitVec 512)
deriving DecidableEq, Repr

/-- A message of IEEE 1588 between packages (R240): a Sync that carries its origin timestamp, or has it follow; the
origin timestamp of a Sync; a request of a package's; the time at which the grandmaster received that request. -/
inductive PtpMsg where
  | sync (seq : Nat) (origin : Option Nat)
  | followUp (seq origin : Nat)
  | delayReq (package seq : Nat)
  | delayResp (package seq received : Nat)
deriving DecidableEq, Repr

/-- What a package keeps of the exchange that measures its offset (R240): the number of the latest Sync, its origin
timestamp, when it came, when the delay request went out, and the path delay measured last. -/
structure PtpState where
  seq : Nat
  origin : Option Nat
  came : Nat
  asked : Option Nat
  delay : Option Int
deriving DecidableEq, Repr

/-- What is reported of a lane of a UCIe link (R21): whether it runs repaired, its repairs and its errors. -/
structure Lane where
  repaired : Bool
  repairs : Nat
  errors : Nat
deriving DecidableEq, Repr

/-- What the package answers to the world outside (R21, R185, R186, R240, R406, R410, R27, R85, R367). -/
inductive Output where
  | lane (link lane : Nat) (l : Lane)
  | bar2Data (bytes : List Byte)
  | register (value : Dword)
  | bar4Data (bytes : List Byte) (poisoned : Bool)
  | bar4Unsupported
  | spdm (bytes : List Byte)
  | blackBox (events : List Event)
  | telemetry (power temperature steps reasons : List Nat)
  | checked (code sect off word : Nat)
  | tenants (applied : Bool)
  | tripOutput
  | ptp (m : PtpMsg)
  | fabric (m : Msg)
  | answer (hartid core : Nat) (r : RespBody) (miss : Option (Dword × Nat × Nat))
deriving DecidableEq, Repr

/-- What self-test, configuration and fabric give a boot (R408): failing clusters (die, cluster), package number,
domain, global time, and whether the package is the grandmaster. -/
structure BringUp where
  failed : List (Nat × Nat)
  package : Nat
  domain : List Nat
  gtime : Nat
  master : Bool
deriving DecidableEq, Repr

/-- The package outside its cores: time with the latest Sync, control block, homes, queues, gangs, copies, the lanes
of the UCIe links by their numbers (R21), the image that runs (R408, R410); the units of 8 bytes that are uncorrectable in a
core's L1 cache, of instructions or of data (R395): core, whether of instructions, the unit's location; the failed clusters whose scratchpads are still
to be written back, with their unreadable granules, and the tenant configurations that wait for that (R389, R397, R399); whether its supplies are gone (R25) and whether die 0 is lost
with all that it carries (R405). Control-block registers are listed by offset
where they differ from their reset values. -/
structure Pkg where
  number : Nat
  domain : List Nat
  time : Nat
  gtShift : Nat
  goodSyncs : Nat
  lastSync : Option Nat
  ptp : PtpState
  lanes : List (Nat × Lane)
  image : Option BootImage
  regs : List (Nat × Dword)
  dies : Vector Die 4
  clusters : List (Nat × Cluster)
  queues : List (Nat × QueueInfo)
  gangs : List Gang
  nextGang : Nat
  launches : List (Nat × Nat × Nat × Nat)
  ends : List GangEnd
  net : List Msg
  resps : List Resp
  held : List Timed
  waiting : List Timed
  copies : List CopyRun
  nextCopy : Nat
  streams : List (Nat × List (Nat × Nat × Bool × BitVec 2048))
  pending : List PendGranule
  pendMem : List Host.Cell
  poison : List Nat
  l1bad : List (Nat × Bool × Nat)
  races : List (Nat × RaceRec)
  released : List Released
  present : List (Nat × List Nat)
  evac : List EvacRegion
  retention : List (Nat × Retention)
  arraySince : List (Nat × Nat)
  emptying : List (Nat × List Nat)
  configs : List (Nat × List Nat)
  fastRefresh : List Nat
  halfRate : List Nat
  rebuilding : List (Nat × Nat × List Nat × Nat)
  portsDown : List (Nat × Nat)
  hostWork : List HostAccess
  tripped : Bool
  lost : Bool
  bringUp : BringUp
  outputs : List Output
  draws : Nat
  tags : Nat
deriving DecidableEq, Repr

/-- What happens next, when the outside world or the order of the agents is to be named: an event; a turn of one
core's hart, in `ahead` one whose accesses leave it as messages that it does not wait for (R193) and whose vector accesses
perform one by one (R191); the oldest instruction of a core's VDQ, its accesses as in `ahead`; a stretch of time with nothing else; a message that enters on a port or a response from another package;
a message of IEEE 1588; a line that leaves its memory-side cache (R213); an uncorrectable error in the storage unit of a
location, in `cached` in the memory-side cache, or of a unit of a line in a core's L1 cache (R395); a host read of a queue page; an agent's read of a register of the
control block; the refusal of a copy's chunk by the home of another package (R365, R369); errors of a lane of a UCIe link, or a read of what is kept of it (R21); the failure of the rest of die 0
(R405). -/
inductive Act where
  | event (i : Instr)
  | turn (core : Nat)
  | ahead (core : Nat)
  | queue (core : Nat)
  | pass (cycles : Nat)
  | arrive (port : Nat) (m : Msg)
  | respond (r : Resp)
  | ptp (m : PtpMsg)
  | drop (granule : Nat)
  | upset (loc : Nat) (cached : Bool)
  | upsetL1 (core : Nat) (code : Bool) (loc : Nat)
  | readPage (q n : Nat)
  | readRegister (by_ : Agent) (off : Nat)
  | refuseChunk (copy chunk : Nat)
  | laneErrors (link lane n : Nat)
  | readLane (link lane : Nat)
  | dieZeroFails
deriving DecidableEq, Repr

/-- The state: the hart whose turn it is with its core, the other cores that have been used, memory by location, the
package, and the acts that come next. -/
structure State where
  h : Hart
  core : Core
  rest : List (Core × Hart)
  mem : List Host.Cell
  pkg : Pkg
  agenda : List Act
deriving DecidableEq, Repr

/-- A hart as cold reset leaves its registers (R28 to R47), before a gang is dispatched to its core. The RNG keys are
draws `n` to `n + 3` of the entropy source (R39). -/
def Hart.reset (n : Nat) : Hart where
  x := Vector.replicate 32 0
  v := Vector.replicate 32 0
  m := (Vector.replicate 16 0).set 0 (BitVec.allOnes 256)
  cc := Vector.replicate 16 0
  pc := 0
  priv := .user
  fcsr := 0
  vl := 0
  vstart := 0
  mvl := 32
  mvc := 32
  rngkey := #v[Config.entropy n, Config.entropy (n + 1), Config.entropy (n + 2), Config.entropy (n + 3)]
  rngctr := 0
  tguard := 16 + 20 * 2 ^ 16 + 80 * 2 ^ 32
  tlate := 0
  instret := 0
  gangid := 0
  gidx := 0
  gangsz := 1
  ctxid := 0
  tid := 0
  epc := 0
  ecause := 0
  eval := 0
  eslice := 0
  estat := 0
  restart := none
  sb := []
  sfq := []
  vdq := []
  bar := Vector.replicate 64 0
  subs := Vector.replicate 16 none
  pubs := Vector.replicate 16 none
  copyErrs := []
  deadline := none
  further := false
  uncorrectable := none
  notice := false
  noticeWord := none
  kill := none
  preempt := false
  pend := []
  launchAt := none
  launchCode := none
  ahead := false
  amid := none
  waitAt := none
  waitTags := []
  waitTrap := none
  waitFlags := 0
  head := none
  pauseLeft := 0
  atWait := false
  slot := 0
  poolDie := 0
  poolSecure := false
  pbmp := 0
  status := .absent
  dying := false
  gang := 0
  clock := []
  observed := []
  armed := []
  missAt := none
  chunkBits := []

/-- A core as cold reset leaves it (R28, R37). -/
def Core.reset (id : Nat) : Core where
  id := id
  tiles := Vector.replicate 8 (Vector.replicate 32 0)
  acclive := 0
  accown := 0
  accen := 1
  secure := false
  tags := []
  icache := []
  tlb := []
  turnAt := 0

/-- A die as cold reset leaves it (R41, R256, R257): 2.5 GHz, no counts, no records. -/
def Die.reset : Die where
  step := 0
  cycle := 0
  ncyc := 0
  edgeAt := 0
  nextEdge := 1584
  relockEnd := none
  fstep := List.replicate 4 (FStep.mk 0 0)
  halted := false
  haltSince := 0
  halts := []
  haltOnBreak := false
  powerStep := 0
  tctlStep := 0
  hot := false
  lastPower := none
  lastTctl := none
  groups := []
  spans := []
  hslots := []
  hslotsSec := []
  gslots := []
  gslotsSec := []
  conts := []
  contAt := none
  bbox := []
  seq := 0
  offline := []
  calibrations := 0
  reserved := []
  kept := []
  walks := []
  leaving := none
  spill := none
  handed := []

/-- The package as cold reset leaves it: no time passed, every control register at its reset value. -/
def Pkg.reset : Pkg where
  number := 0
  domain := [0]
  time := 0
  gtShift := 0
  goodSyncs := 0
  lastSync := none
  ptp := ⟨0, none, 0, none, none⟩
  lanes := []
  image := none
  regs := []
  dies := Vector.replicate 4 Die.reset
  clusters := []
  queues := []
  gangs := []
  nextGang := 1
  launches := []
  ends := []
  net := []
  resps := []
  held := []
  waiting := []
  copies := []
  nextCopy := 1
  streams := []
  pending := []
  pendMem := []
  poison := []
  l1bad := []
  races := []
  released := []
  present := []
  evac := []
  retention := []
  arraySince := []
  emptying := []
  configs := []
  fastRefresh := []
  halfRate := []
  rebuilding := []
  portsDown := []
  hostWork := []
  tripped := false
  lost := false
  bringUp := ⟨[], 0, [0], 0, false⟩
  outputs := []
  draws := 4
  tags := 0

/-- The machine right after cold reset: only Markhor runs (R408), so no core has a hart, and nothing is in memory. -/
def State.reset : State where
  h := Hart.reset 0
  core := Core.reset 0
  rest := []
  mem := []
  pkg := Pkg.reset
  agenda := []

end Sys2Proof.Machine
end

