-- ==== Sys2Proof/Machine/Bits.lean ====
section
/-! DEFINITION. Bit fields, bytes, sorted tables and memory as a sorted list of bytes, in their plainest form. -/

namespace Sys2Proof.Machine

/-- The number in bits `lo` to `lo + n - 1` of a dword (R4). -/
def bits (v : Dword) (lo n : Nat) : Nat := v.toNat / 2 ^ lo % 2 ^ n

/-- Bit `i` of a dword. -/
def bit (v : Dword) (i : Nat) : Bool := bits v i 1 == 1

/-- A dword with the number `x` in bits `lo` to `lo + n - 1`, the other bits as they were. -/
def setBits (v : Dword) (lo n x : Nat) : Dword :=
  BitVec.ofNat 64 (v.toNat % 2 ^ lo + x % 2 ^ n * 2 ^ lo + v.toNat / 2 ^ (lo + n) * 2 ^ (lo + n))

/-- The integer whose two's-complement `n`-bit pattern is `v` (R9). -/
def signExtend (v n : Nat) : Int := if v % 2 ^ n < 2 ^ (n - 1) then (v % 2 ^ n : Nat) else (v % 2 ^ n : Nat) - (2 ^ n : Nat)

/-- An integer modulo 2^n. -/
def wrap (i : Int) (n : Nat) : Nat := (i % (2 ^ n : Nat)).toNat

/-- An integer clamped to `lo` to `hi`. -/
def clampInt (lo hi i : Int) : Int := if i < lo then lo else if hi < i then hi else i

/-- The `n` low bytes of a number, the lowest first (R4). -/
def bytesOf (n v : Nat) : List Byte := (List.range n).map fun i => BitVec.ofNat 8 (v / 2 ^ (8 * i))

/-- The number whose bytes these are, the lowest first (R4). -/
def natOf : List Byte → Nat
  | [] => 0
  | b :: r => b.toNat + 256 * natOf r

/-- The number of 1 bits among the low `n`. -/
def popcount (v : Nat) : Nat → Nat
  | 0 => 0
  | n + 1 => bitOf (v.testBit n) + popcount v n

/-- The places of the 1 bits among the low `n`, ascending. -/
def onesOf (v n : Nat) : List Nat := (List.range n).filter v.testBit

/-- The entry of a table. -/
def tableGet {α : Type} : List (Nat × α) → Nat → Option α
  | [], _ => none
  | (k, v) :: r, a => if k = a then some v else tableGet r a

/-- A table with the entry of `a` set, its keys rising if they were. -/
def tableSet {α : Type} : List (Nat × α) → Nat → α → List (Nat × α)
  | [], a, v => [(a, v)]
  | (k, w) :: r, a, v =>
    if a < k then (a, v) :: (k, w) :: r else if a = k then (a, v) :: r else (k, w) :: tableSet r a v

/-- A table without the entry of `a`. -/
def tableDrop {α : Type} : List (Nat × α) → Nat → List (Nat × α)
  | [], _ => []
  | (k, v) :: r, a => if k = a then r else (k, v) :: tableDrop r a

/-- A rising list of numbers with `a` in it. -/
def setInsert : List Nat → Nat → List Nat
  | [], a => [a]
  | k :: r, a => if a < k then a :: k :: r else if a = k then k :: r else k :: setInsert r a

/-- The entry at place `i` of a list replaced by what `f` makes of it. -/
def updateAt {α : Type} (f : α → α) : List α → Nat → List α
  | [], _ => []
  | a :: r, 0 => f a :: r
  | a :: r, i + 1 => a :: updateAt f r i

/-- What a location that memory does not list reads as (log 1). -/
def Memory.blank : Byte := 0

/-- The byte at a location. -/
def Memory.get : List Host.Cell → Nat → Byte
  | [], _ => Memory.blank
  | (k, v) :: r, a => if k = a then v else Memory.get r a

/-- Memory with one byte written, in canonical form if it was: a byte that an unlisted location reads as is not
listed. -/
def Memory.set : List Host.Cell → Nat → Byte → List Host.Cell
  | [], a, v => if v = Memory.blank then [] else [(a, v)]
  | (k, w) :: r, a, v =>
    if a < k then (if v = Memory.blank then (k, w) :: r else (a, v) :: (k, w) :: r)
    else if a = k then (if v = Memory.blank then r else (a, v) :: r)
    else (k, w) :: Memory.set r a v

/-- The `n` bytes from a location. -/
def Memory.read (m : List Host.Cell) (a n : Nat) : List Byte := (List.range n).map fun i => Memory.get m (a + i)

/-- Memory with bytes written from a location. -/
def Memory.write (m : List Host.Cell) (a : Nat) : List Byte → List Host.Cell
  | [] => m
  | b :: r => Memory.write (Memory.set m a b) (a + 1) r

/-- Memory with each listed byte written, in the list's order. -/
def Memory.writeCells (m : List Host.Cell) : List Host.Cell → List Host.Cell
  | [] => m
  | (a, b) :: r => Memory.writeCells (Memory.set m a b) r

/-- The canonical form of memory: locations strictly rising from above `lo`, no byte that an unlisted location reads
as. -/
def Memory.wfFrom : Option Nat → List Host.Cell → Bool
  | _, [] => true
  | lo, (k, v) :: r => (match lo with | none => true | some l => decide (l < k)) && v != Memory.blank && Memory.wfFrom (some k) r

/-- Memory is in its canonical form. -/
def Memory.wf (m : List Host.Cell) : Bool := Memory.wfFrom none m

end Sys2Proof.Machine
end

