-- ==== Sys2Proof/Machine/Crypto.lean ====
section
/-! DEFINITION. AES-256 and its XTS mode with data units of 64 bytes (R372), over bytes as numbers; ChaCha8 as the
generator of R103 uses it. -/

namespace Sys2Proof.Machine

/-- A product by x in the field of AES, modulo x^8 + x^4 + x^3 + x + 1. -/
def aesX (a : Nat) : Nat := let d := a * 2 % 512; if 256 ≤ d then d ^^^ 0x11B else d

/-- A product in the field of AES, over the low `n` bits of `b`. -/
def aesMulFrom (a b : Nat) : Nat → Nat
  | 0 => 0
  | n + 1 => (if b % 2 = 1 then a else 0) ^^^ aesMulFrom (aesX a) (b / 2) n

/-- A product in the field of AES. -/
def aesMul (a b : Nat) : Nat := aesMulFrom a b 8

/-- The inverse in the field of AES, 0 for 0: the 254th power. -/
def aesInv (a : Nat) : Nat :=
  let a2 := aesMul a a
  let a3 := aesMul a2 a
  let a6 := aesMul a3 a3
  let a12 := aesMul a6 a6
  let a15 := aesMul a12 a3
  let a30 := aesMul a15 a15
  let a60 := aesMul a30 a30
  let a120 := aesMul a60 a60
  let a126 := aesMul a120 a6
  let a127 := aesMul a126 a
  aesMul a127 a127

/-- A byte rotated left. -/
def rotl8 (a n : Nat) : Nat := (a * 2 ^ n + a / 2 ^ (8 - n)) % 256

/-- The substitution of AES. -/
def aesSub (a : Nat) : Nat :=
  let b := aesInv a
  b ^^^ rotl8 b 1 ^^^ rotl8 b 2 ^^^ rotl8 b 3 ^^^ rotl8 b 4 ^^^ 0x63

/-- The inverse substitution of AES. -/
def aesUnsub (a : Nat) : Nat := aesInv (rotl8 a 1 ^^^ rotl8 a 3 ^^^ rotl8 a 6 ^^^ 0x05)

/-- Bytes of two blocks, exclusive-ored. -/
def xorBytes (a b : List Nat) : List Nat := List.zipWith (· ^^^ ·) a b

/-- A power of x in the field of AES. -/
def aesPow : Nat → Nat
  | 0 => 1
  | n + 1 => aesX (aesPow n)

/-- The words of the AES-256 key schedule, newest first, extended by `n`. -/
def aesExpand (ws : List (List Nat)) : Nat → List (List Nat)
  | 0 => ws
  | n + 1 =>
    let i := ws.length
    let t := ws.headD []
    let t' :=
      if i % 8 = 0 then xorBytes ((t.drop 1 ++ t.take 1).map aesSub) [aesPow (i / 8 - 1), 0, 0, 0]
      else if i % 8 = 4 then t.map aesSub else t
    aesExpand (xorBytes (ws.getD 7 []) t' :: ws) n

/-- Cut a list into pieces of `k`. -/
def chunksOf {α : Type} (k : Nat) (l : List α) : List (List α) :=
  (List.range ((l.length + k - 1) / k)).map fun i => (l.drop (k * i)).take k

/-- The 15 round keys of a 32-byte key. -/
def aesKeys (key : List Nat) : List (List Nat) :=
  let ws := (aesExpand (chunksOf 4 key).reverse 52).reverse
  (chunksOf 4 ws).map List.flatten

/-- ShiftRows with the rows turned by `k` times their number. -/
def aesShift (k : Nat) (s : List Nat) : List Nat :=
  (List.range 16).map fun i => s.getD (i % 4 + 4 * ((i / 4 + k * (i % 4)) % 4)) 0

/-- MixColumns with the given row of coefficients. -/
def aesMix (row : List Nat) (s : List Nat) : List Nat :=
  (List.range 16).map fun i =>
    (List.range 4).foldl (fun x j => x ^^^ aesMul (row.getD ((j + 4 - i % 4) % 4) 0) (s.getD (i / 4 * 4 + j) 0)) 0

/-- One block enciphered. -/
def aesEncrypt (keys : List (List Nat)) (s : List Nat) : List Nat :=
  let s := xorBytes s (keys.getD 0 [])
  let s := (List.range 13).foldl
    (fun s r => xorBytes (aesMix [2, 3, 1, 1] (aesShift 1 (s.map aesSub))) (keys.getD (r + 1) [])) s
  xorBytes (aesShift 1 (s.map aesSub)) (keys.getD 14 [])

/-- One block deciphered. -/
def aesDecrypt (keys : List (List Nat)) (s : List Nat) : List Nat :=
  let s := xorBytes s (keys.getD 14 [])
  let s := (List.range 13).foldl
    (fun s r => aesMix [14, 11, 13, 9] (xorBytes ((aesShift 3 s).map aesUnsub) (keys.getD (13 - r) []))) s
  xorBytes ((aesShift 3 s).map aesUnsub) (keys.getD 0 [])

/-- The number whose bytes these are, the lowest first. -/
def natOfList : List Nat → Nat
  | [] => 0
  | b :: r => b + 256 * natOfList r

/-- The bytes of a number, the lowest first. -/
def listOfNat (n v : Nat) : List Nat := (List.range n).map fun i => v / 2 ^ (8 * i) % 256

/-- A tweak times α. -/
def xtsNext (t : Nat) : Nat := let d := t * 2; if 2 ^ 128 ≤ d then (d - 2 ^ 128) ^^^ 0x87 else d

/-- The tweaks of the four blocks of the unit at a physical address. -/
def xtsTweaks (key2 : List Nat) (addr : Nat) : List (List Nat) :=
  let t0 := natOfList (aesEncrypt (aesKeys key2) (listOfNat 16 addr))
  [t0, xtsNext t0, xtsNext (xtsNext t0), xtsNext (xtsNext (xtsNext t0))].map (listOfNat 16)

/-- A unit of 64 bytes at a physical address enciphered or deciphered under a key of 64 bytes (R371, R372). -/
def xtsUnit (decrypt : Bool) (key : List Byte) (addr : Nat) (data : List Byte) : List Byte :=
  let key := key.map BitVec.toNat
  let keys := aesKeys (key.take 32)
  let one (block tweak : List Nat) : List Nat :=
    let x := xorBytes block tweak
    xorBytes (if decrypt then aesDecrypt keys x else aesEncrypt keys x) tweak
  let blocks := chunksOf 16 (data.map BitVec.toNat)
  (List.zipWith one blocks (xtsTweaks (key.drop 32) addr)).flatten.map (BitVec.ofNat 8)

/-! ### ChaCha8 (R103) -/

/-- A 32-bit word rotated left. -/
def rotl32 (a n : Nat) : Nat := (a * 2 ^ n + a / 2 ^ (32 - n)) % 2 ^ 32

/-- The quarter round on words a, b, c, d of the block. -/
def chachaQuarter (s : List Nat) (a b c d : Nat) : List Nat :=
  let x (i : Nat) (s : List Nat) := s.getD i 0
  let mix (p q r n : Nat) (s : List Nat) : List Nat :=
    let sum := (x p s + x q s) % 2 ^ 32
    let s := s.set p sum
    s.set r (rotl32 (x r s ^^^ sum) n)
  mix c d b 7 (mix a b d 8 (mix c d b 12 (mix a b d 16 s)))

/-- A double round. -/
def chachaDouble (s : List Nat) : List Nat :=
  let s := chachaQuarter s 0 4 8 12
  let s := chachaQuarter s 1 5 9 13
  let s := chachaQuarter s 2 6 10 14
  let s := chachaQuarter s 3 7 11 15
  let s := chachaQuarter s 0 5 10 15
  let s := chachaQuarter s 1 6 11 12
  let s := chachaQuarter s 2 7 8 13
  chachaQuarter s 3 4 9 14

/-- The words of the initial state: constants, key, block number, zeros. -/
def chachaInit (key : List Nat) (block : Nat) : List Nat :=
  [0x61707865, 0x3320646e, 0x79622d32, 0x6b206574] ++
  (List.range 8).map (fun i => key.getD (i / 2) 0 / 2 ^ (32 * (i % 2)) % 2 ^ 32) ++
  [block % 2 ^ 32, block / 2 ^ 32 % 2 ^ 32, 0, 0]

/-- Block `block` of the generator as its 16 words, for a key of four dwords. -/
def chachaBlock (key : List Nat) (block : Nat) : List Nat :=
  let s := chachaInit key block
  let t := chachaDouble (chachaDouble (chachaDouble (chachaDouble s)))
  List.zipWith (fun a b => (a + b) % 2 ^ 32) s t

/-- The 16-bit draw of element position `e` for a generator whose counter is `ctr`. -/
def chachaDraw (key : List Nat) (ctr e : Nat) : Nat :=
  (chachaBlock key ((ctr + e / 32) % 2 ^ 64)).getD (e % 32 / 2) 0 / 2 ^ (16 * (e % 2)) % 2 ^ 16

end Sys2Proof.Machine
end

