-- ==== Sys2Proof/Machine/Float.lean ====
section
/-! DEFINITION. The arithmetic promise (R89 to R104): formats, exact values, RoundToFormat, ExactSum, conversions,
stochastic rounding. Every value a format holds, every product and every sum is held exactly as ± m x 2^e. -/

namespace Sys2Proof.Machine

/-- The flags NV, DZ, OF, UF, NX as bits 0 to 4 (R35). -/
abbrev Flags := BitVec 5

def flagNV : Flags := 1
def flagDZ : Flags := 2
def flagOF : Flags := 4
def flagUF : Flags := 8
def flagNX : Flags := 16

/-- A floating format (R89): exponent and mantissa bits, bias, whether it has infinities, whether NaN is every
all-ones exponent with a mantissa (`ieee`), only the all-ones encoding (`single`) or nothing. -/
inductive NanKind where
  | ieee
  | single
  | nothing
deriving DecidableEq, Repr

structure Fmt where
  e : Nat
  m : Nat
  bias : Nat
  inf : Bool
  nan : NanKind
deriving DecidableEq, Repr

def Fmt.f64 : Fmt := ⟨11, 52, 1023, true, .ieee⟩
def Fmt.f32 : Fmt := ⟨8, 23, 127, true, .ieee⟩
def Fmt.bf16 : Fmt := ⟨8, 7, 127, true, .ieee⟩
def Fmt.f16 : Fmt := ⟨5, 10, 15, true, .ieee⟩
def Fmt.e5m2 : Fmt := ⟨5, 2, 15, true, .ieee⟩
def Fmt.e4m3 : Fmt := ⟨4, 3, 7, false, .single⟩
def Fmt.e3m2 : Fmt := ⟨3, 2, 3, false, .nothing⟩
def Fmt.e2m3 : Fmt := ⟨2, 3, 1, false, .nothing⟩
def Fmt.e2m1 : Fmt := ⟨2, 1, 1, false, .nothing⟩

/-- The width of a format. -/
def Fmt.width (f : Fmt) : Nat := 1 + f.e + f.m

/-- The encoding of the largest finite value, without its sign (R89). -/
def Fmt.maxBits (f : Fmt) : Nat :=
  match f.nan with
  | .ieee => (2 ^ f.e - 1) * 2 ^ f.m - 1
  | .single => 2 ^ (f.e + f.m) - 2
  | .nothing => 2 ^ (f.e + f.m) - 1

/-- The canonical NaN (R89, R90); 0 for a format that has none. -/
def Fmt.canonical (f : Fmt) : Nat :=
  match f.nan with
  | .ieee => (2 ^ f.e - 1) * 2 ^ f.m + 2 ^ (f.m - 1)
  | .single => 2 ^ (f.e + f.m) - 1
  | .nothing => 0

/-- The encoding of +infinity in a format that has it. -/
def Fmt.infBits (f : Fmt) : Nat := (2 ^ f.e - 1) * 2 ^ f.m

/-- The sign bit in its place. -/
def Fmt.signBit (f : Fmt) (neg : Bool) : Nat := if neg then 2 ^ (f.e + f.m) else 0

/-- The exponent of the smallest spacing, that of the subnormals (R89). -/
def Fmt.qmin (f : Fmt) : Int := 1 - (f.bias : Int) - (f.m : Int)

/-- An exact value: NaN, an infinity, or ± m x 2^e, zeros with their sign. -/
inductive Num where
  | nan
  | inf (neg : Bool)
  | fin (neg : Bool) (m : Nat) (e : Int)
deriving DecidableEq, Repr

/-- The value of an encoding (R89). -/
def Fmt.value (f : Fmt) (v : Nat) : Num :=
  let neg := v.testBit (f.e + f.m)
  let mag := v % 2 ^ (f.e + f.m)
  let ex := mag / 2 ^ f.m
  let mant := mag % 2 ^ f.m
  if f.nan == .ieee && ex == 2 ^ f.e - 1 then (if mant == 0 then .inf neg else .nan)
  else if f.nan == .single && mag == 2 ^ (f.e + f.m) - 1 then .nan
  else if ex == 0 then .fin neg mant f.qmin
  else .fin neg (2 ^ f.m + mant) (f.qmin + (ex : Int) - 1)

/-- A value with its sign inverted. -/
def Num.neg : Num → Num
  | .nan => .nan
  | .inf s => .inf !s
  | .fin s m e => .fin (!s) m e

/-- The number of bits of a natural number. -/
def bitLength (m : Nat) : Nat := if m = 0 then 0 else m.log2 + 1

/-- m x 2^k for a signed k that is known to leave an integer, and the floor of it otherwise. -/
def shiftInt (m : Nat) (k : Int) : Nat := if 0 ≤ k then m * 2 ^ k.toNat else m / 2 ^ (-k).toNat

/-- The magnitude of an overflow (R96 step 4), as an encoding without its sign. -/
def Fmt.overflow (f : Fmt) (mode : Nat) (sat neg : Bool) : Nat × Bool :=
  if f.nan == .single && !sat then (f.canonical, true)
  else if sat || !f.inf then (f.maxBits, false)
  else
    let away := match mode with
      | 0 => true
      | 1 => false
      | 2 => !neg
      | _ => neg
    (if away then f.infBits else f.maxBits, false)

/-- Rounding of the finite value ± (m + d) x 2^e, where 0 ≤ d < 1 and `sticky` tells that d is not 0 (R96 steps 3
to 5). With `sticky` the caller gives m more bits than the format holds. -/
def Fmt.roundFin (f : Fmt) (mode : Nat) (sat neg : Bool) (m : Nat) (e : Int) (sticky : Bool) : Nat × Flags :=
  let q := max (e + (bitLength m : Int) - 1 - (f.m : Int)) f.qmin
  let sh := (q - e).toNat
  let kept := shiftInt m (e - q)
  let rem := if e < q then m % 2 ^ sh else 0
  let half := if e < q then 2 ^ (sh - 1) else 1
  let inexact := rem != 0 || sticky
  let up := match mode with
    | 0 => decide (half < rem) || (rem == half && (sticky || kept % 2 == 1))
    | 1 => false
    | 2 => inexact && !neg
    | _ => inexact && neg
  let y := if up then kept + 1 else kept
  let mag := (q - f.qmin).toNat * 2 ^ f.m + y
  if f.maxBits < mag then
    let (o, nan) := f.overflow mode sat neg
    (if nan then o else f.signBit neg + o, flagOF ||| flagNX)
  else
    let tiny := q == f.qmin && y != 0 && decide (y < 2 ^ f.m)
    (f.signBit neg + mag, if inexact then (if tiny then flagUF ||| flagNX else flagNX) else 0)

/-- RoundToFormat (R96) of an exact value: the encoding and the flags raised. -/
def Fmt.round (f : Fmt) (mode : Nat) (sat : Bool) : Num → Nat × Flags
  | .nan => if f.nan == .nothing then (0, flagNV) else (f.canonical, 0)
  | .inf s =>
    if f.inf then (f.signBit s + f.infBits, 0)
    else if f.nan == .single && !sat then (f.canonical, flagNV)
    else (f.signBit s + f.maxBits, flagNV)
  | .fin s m e => if m = 0 then (f.signBit s, 0) else f.roundFin mode sat s m e false

/-- A signed integer times 2^e as an exact value, with the sign of a zero given. -/
def numOfInt (i : Int) (e : Int) (zeroNeg : Bool) : Num :=
  if i = 0 then .fin zeroNeg 0 e else .fin (decide (i < 0)) i.natAbs e

/-- The least exponent among finite terms. -/
def minExp : List Num → Option Int
  | [] => none
  | .fin _ _ e :: r => some (match minExp r with | none => e | some k => min e k)
  | _ :: r => minExp r

/-- A finite term as a multiple of 2^e0. -/
def Num.scaled (e0 : Int) : Num → Int
  | .fin s m e => let k : Int := (m * 2 ^ (e - e0).toNat : Nat); if s then -k else k
  | _ => 0

/-- ExactSum (R9, R97, R98): the exact sum with the sign of an exact zero for the mode, and NV for infinities of both
signs where no term is NaN (R90, R153). -/
def exactSum (mode : Nat) (ts : List Num) : Num × Flags :=
  let pos := ts.any fun t => t == .inf false
  let neg := ts.any fun t => t == .inf true
  if ts.any (fun t => t == .nan) then (.nan, 0)
  else if pos && neg then (.nan, flagNV)
  else if pos then (.inf false, 0)
  else if neg then (.inf true, 0)
  else
    let e0 := (minExp ts).getD 0
    let total := (ts.map (Num.scaled e0)).foldl (· + ·) 0
    let allZero (s : Bool) := ts.all fun t => match t with
      | .fin t m _ => t == s && m == 0
      | _ => false
    let zeroNeg := if allZero false then false else if allZero true then true else mode == 3
    (numOfInt total e0 zeroNeg, 0)

/-- The exact product (R97, R98): infinity times zero is invalid. -/
def Num.mul : Num → Num → Num × Flags
  | .inf s, .fin t m _ => if m = 0 then (.nan, flagNV) else (.inf (s != t), 0)
  | .fin s m _, .inf t => if m = 0 then (.nan, flagNV) else (.inf (s != t), 0)
  | .inf s, .inf t => (.inf (s != t), 0)
  | .fin s m e, .fin t n k => (.fin (s != t) (m * n) (e + k), 0)
  | _, _ => (.nan, 0)

/-- A value times 2^k. -/
def Num.scale (k : Int) : Num → Num
  | .fin s m e => .fin s m (e + k)
  | x => x

/-- A sum rounded once (R99). -/
def Fmt.sum (f : Fmt) (mode : Nat) (sat : Bool) (ts : List Num) : Nat × Flags :=
  let (x, fl) := exactSum mode ts
  let (r, fl') := f.round mode sat x
  (r, fl ||| fl')

/-- A product rounded once. -/
def Fmt.prod (f : Fmt) (mode : Nat) (sat : Bool) (a b : Num) : Nat × Flags :=
  let (x, fl) := a.mul b
  let (r, fl') := f.round mode sat x
  (r, fl ||| fl')

/-- D + A x B rounded once (R99, R114); an invalid product raises NV whatever D is. -/
def Fmt.fused (f : Fmt) (mode : Nat) (sat : Bool) (d a b : Num) (negate : Bool) : Nat × Flags :=
  let (p, fl) := a.mul b
  let (r, fl') := f.sum mode sat [d, if negate then p.neg else p]
  (r, fl ||| fl')

/-- A quotient rounded once (R98): 0 ÷ 0 and ∞ ÷ ∞ are invalid, a finite non-zero value ÷ 0 is a division by zero.
The sign of an exactly zero quotient, of which the rules do not speak, is the exclusive OR of the operands' signs (log 66). -/
def Fmt.quot (f : Fmt) (mode : Nat) (sat : Bool) (a b : Num) : Nat × Flags :=
  match a, b with
  | .inf _, .inf _ => (f.canonical, flagNV)
  | .inf s, .fin t _ _ => f.round mode sat (.inf (s != t))
  | .fin s _ _, .inf t => f.round mode sat (.fin (s != t) 0 0)
  | .fin s m e, .fin t n k =>
    if n = 0 then
      if m = 0 then (f.canonical, flagNV)
      else
        let (r, fl) := f.round mode sat (.inf (s != t))
        (r, fl ||| flagDZ)
    else if m = 0 then f.round mode sat (.fin (s != t) 0 0)
    else
      let j := 128 + bitLength n
      let num := m * 2 ^ j
      f.roundFin mode sat (s != t) (num / n) (e - k - (j : Int)) (num % n != 0)
  | _, _ => f.round mode sat .nan

/-- The integer square root, bit by bit from bit `i`. -/
def isqrtFrom (n : Nat) : Nat → Nat → Nat
  | 0, r => if (r + 1) * (r + 1) ≤ n then r + 1 else r
  | i + 1, r =>
    let r' := r + 2 ^ (i + 1)
    isqrtFrom n i (if r' * r' ≤ n then r' else r)

/-- The integer square root. -/
def isqrt (n : Nat) : Nat := isqrtFrom n (bitLength n / 2 + 1) 0

/-- m x 2^e as m' x 2^(2k) with m' of at least 160 bits: m' and k. -/
def evenScale (m : Nat) (e : Int) : Nat × Int :=
  let j : Nat := 160 + (if (e % 2 == 0) then 0 else 1)
  (m * 2 ^ j, (e - (j : Int)) / 2)

/-- A square root rounded once (R98, R114). -/
def Fmt.root (f : Fmt) (mode : Nat) (sat : Bool) : Num → Nat × Flags
  | .nan => f.round mode sat .nan
  | .inf s => if s then (f.canonical, flagNV) else f.round mode sat (.inf false)
  | .fin s m e =>
    if m = 0 then f.round mode sat (.fin s 0 0)
    else if s then (f.canonical, flagNV)
    else
      let (n, k) := evenScale m e
      let r := isqrt n
      f.roundFin mode sat false r k (r * r != n)

/-- The order of two values that are not NaN: a < b, and a = b. -/
def Num.lt : Num → Num → Bool
  | .inf s, .inf t => s && !t
  | .inf s, .fin _ _ _ => s
  | .fin _ _ _, .inf t => !t
  | .fin s m e, .fin t n k => decide (Num.scaled (min e k) (.fin s m e) < Num.scaled (min e k) (.fin t n k))
  | _, _ => false

/-- Equal values; +0 and −0 are equal. -/
def Num.eq : Num → Num → Bool
  | .inf s, .inf t => s == t
  | .fin s m e, .fin t n k => Num.scaled (min e k) (.fin s m e) == Num.scaled (min e k) (.fin t n k)
  | _, _ => false

/-- Is a value NaN? -/
def Num.isNan (a : Num) : Bool := a == .nan

/-- Is an encoding's sign bit set? -/
def Fmt.sign (f : Fmt) (v : Nat) : Bool := v.testBit (f.e + f.m)

/-- fmin and fmax (R115): one operand unchanged, −0 below +0, a NaN giving way. -/
def Fmt.minMax (f : Fmt) (isMax : Bool) (a b : Nat) : Nat :=
  let x := f.value a
  let y := f.value b
  if x.isNan then (if y.isNan then f.canonical else b)
  else if y.isNan then a
  else
    let aLess := x.lt y || (x.eq y && f.sign a && !f.sign b)
    if isMax then (if aLess then b else a) else (if aLess || x.eq y && a == b then a else b)

/-- fabs, fneg, fsgmv (R116): A's magnitude with a sign; a NaN gives the canonical NaN. -/
def Fmt.withSign (f : Fmt) (a : Nat) (neg : Bool) : Nat :=
  if (f.value a).isNan then f.canonical else f.signBit neg + a % 2 ^ (f.e + f.m)

/-- fkind (R118). -/
def Fmt.kind (f : Fmt) (a : Nat) : Nat :=
  let k := match f.value a with
    | .nan => 4
    | .inf _ => 3
    | .fin _ m _ => if m = 0 then 0 else if m < 2 ^ f.m then 1 else 2
  k + (if f.sign a then 8 else 0)

/-- A value rounded to an integer in a mode, and whether it was none (R102). -/
def roundInt (mode : Nat) (s : Bool) (m : Nat) (e : Int) : Int × Bool :=
  let kept := shiftInt m e
  let sh := (-e).toNat
  let rem := if e < 0 then m % 2 ^ sh else 0
  let half := if e < 0 then 2 ^ (sh - 1) else 1
  let up := match mode with
    | 0 => decide (half < rem) || (rem == half && kept % 2 == 1)
    | 1 => false
    | 2 => rem != 0 && !s
    | _ => rem != 0 && s
  let k : Int := (if up then kept + 1 else kept : Nat)
  (if s then -k else k, rem != 0)

/-- Float to an integer format of range `lo` to `hi` (R102). -/
def Num.toInt (mode : Nat) (lo hi : Int) : Num → Int × Flags
  | .nan => (0, flagNV)
  | .inf s => (if s then lo else hi, flagNV)
  | .fin s m e =>
    let (i, inexact) := roundInt mode s m e
    if i < lo then (lo, flagNV) else if hi < i then (hi, flagNV)
    else (i, if inexact then flagNX else 0)

/-- An integer to a float (R102). The integer 0 gives +0 in every mode, of which the rules do not speak (log 66). -/
def Fmt.ofInt (f : Fmt) (mode : Nat) (sat : Bool) (i : Int) : Nat × Flags := f.round mode sat (numOfInt i 0 false)

/-- The value of an E8M0 scale (R91). -/
def scaleValue (s : Nat) : Num := if s % 256 = 255 then .nan else .fin false 1 ((s % 256 : Nat) - 127)

/-- Every finite value of the first format is one of the second, as the first row of R102 lists the pairs. -/
def Fmt.widens (src dst : Fmt) : Bool :=
  dst == .f64 || (dst == .f32 && src != .f64) ||
  ((dst == .bf16 || dst == .f16) && (src == .e5m2 || src == .e4m3 || src == .e3m2 || src == .e2m3 || src == .e2m1)) ||
  (dst == .e4m3 && (src == .e3m2 || src == .e2m3 || src == .e2m1)) ||
  (dst == .e5m2 && (src == .e3m2 || src == .e2m1)) || (dst == .e3m2 && src == .e2m1) || src == dst

/-- Float to float (R102): a widening keeps the value and raises nothing, every other pair rounds. -/
def Fmt.convert (src dst : Fmt) (mode : Nat) (sat : Bool) (v : Nat) : Nat × Flags :=
  let (r, fl) := dst.round mode sat (src.value v)
  (r, if src.widens dst then 0 else fl)

/-- Stochastic rounding of an exact value with a 16-bit draw (R104). -/
def Fmt.stochastic (f : Fmt) (sat : Bool) (u : Nat) : Num → Nat × Flags
  | .fin s m e =>
    let q := max (e + (bitLength m : Int) - 1 - (f.m : Int)) f.qmin
    let sh := (q - e).toNat
    let kept := shiftInt m (e - q)
    let rem := if e < q then m % 2 ^ sh else 0
    let mag (y : Nat) := (q - f.qmin).toNat * 2 ^ f.m + y
    if f.maxBits < mag kept || (mag kept == f.maxBits && rem != 0) then f.round 0 sat (.fin s m e)
    else if rem = 0 then (f.signBit s + mag kept, 0)
    else
      let g := 2 ^ 16 * rem / 2 ^ sh
      let y := if u < g then kept + 1 else kept
      let tiny := q == f.qmin && y != 0 && decide (y < 2 ^ f.m)
      (f.signBit s + mag y, if tiny then flagUF ||| flagNX else flagNX)
  | x => f.round 0 sat x

end Sys2Proof.Machine
end

