-- ==== Sys2Proof/Machine/Graph.lean ====
section
/-! DEFINITION. Stream graphs (R283 to R293): the image, its validity, and the evaluation of one frame. -/

namespace Sys2Proof.Machine

/-! ### Edges (R285) -/

/-- The width of a graph format code. -/
def edgeWidth (c : Nat) : Nat :=
  match c with
  | 2 => 16
  | 3 => 16
  | 4 => 32
  | 5 => 32
  | 8 => 6
  | 9 => 6
  | 10 => 4
  | 12 => 16
  | 13 => 16
  | 14 => 32
  | _ => 8

/-- An integer format. -/
def isInt (c : Nat) : Bool := decide (c < 6)
/-- A signed integer format. -/
def isSigned (c : Nat) : Bool := c == 1 || c == 3 || c == 5
/-- A class "float" format. -/
def isWide (c : Nat) : Bool := c == 12 || c == 13 || c == 14
/-- A class "fp8" format. -/
def isFp8 (c : Nat) : Bool := c == 6 || c == 7
/-- A class "storage float" format. -/
def isStorage (c : Nat) : Bool := c == 8 || c == 9 || c == 10
/-- An integer or float format, as the arithmetic ops take. -/
def isArith (c : Nat) : Bool := isInt c || isWide c
/-- A float, fp8 or storage float format. -/
def isFloating (c : Nat) : Bool := isWide c || isFp8 c || isStorage c

/-- The floating format of a code. -/
def edgeFmt (c : Nat) : Fmt :=
  match c with
  | 6 => .e4m3
  | 7 => .e5m2
  | 8 => .e2m3
  | 9 => .e3m2
  | 10 => .e2m1
  | 12 => .bf16
  | 13 => .f16
  | _ => .f32

/-- An edge's element count for each frame and its format. -/
structure Edge where
  count : Nat
  fmt : Nat
deriving DecidableEq, Repr

/-! ### The image (R283, R284, R286) -/

/-- A node word. -/
structure Node where
  op : Nat
  sat : Bool
  sr : Bool
  ina : Nat
  inb : Nat
  fo : Nat
  rate : Nat
  k : Nat
  p : Nat
  clean : Bool
deriving DecidableEq, Repr

/-- The fields of a node word. -/
def nodeOf (w : Nat) : Node :=
  ⟨w % 64, w.testBit 6, w.testBit 7, w / 2 ^ 8 % 64, w / 2 ^ 14 % 64, w / 2 ^ 20 % 16, w / 2 ^ 24 % 8, w / 2 ^ 28 % 16,
    w / 2 ^ 32 % 256, !w.testBit 27 && w / 2 ^ 40 % 2 ^ 24 == 0⟩

/-- A graph image: the node words, the constants C0 to C15. -/
structure Graph where
  words : List Nat
  consts : List Nat
deriving DecidableEq, Repr

/-- The image in 2,048 bits. -/
def graphOf (img : BitVec 2048) : Graph :=
  let d (i : Nat) : Nat := img.toNat / 2 ^ (64 * i) % 2 ^ 64
  ⟨(List.range 16).map d, (List.range 16).map fun i => d (16 + i)⟩

/-- The control word. -/
def Graph.control (g : Graph) : Nat := g.consts.getD 0 0
def Graph.infmt (g : Graph) : Nat := g.control % 16
def Graph.out0 (g : Graph) : Nat := g.control / 16 % 16
def Graph.out1 (g : Graph) : Nat := g.control / 256 % 16
def Graph.o1en (g : Graph) : Bool := g.control.testBit 12
def Graph.sten (g : Graph) : Bool := g.control.testBit 13
def Graph.o1off (g : Graph) : Int := signExtend (g.control / 2 ^ 32) 32
def Graph.const (g : Graph) (k : Nat) : Nat := g.consts.getD k 0

/-- The nodes in order. -/
def Graph.nodes (g : Graph) : List Node := g.words.map nodeOf

/-! ### Counts, formats and validity (R286 to R289) -/

/-- The elements of a tagged block of an element format (R94). -/
def blockCount (c : Nat) : Nat := if c < 8 then 62 else if c < 10 then 82 else 124

/-- Input elements to output elements of a RATE. -/
def rateOf (r : Nat) : Nat :=
  match r with
  | 1 => 2
  | 2 => 4
  | 3 => 2
  | 4 => 4
  | _ => 1

/-- An op with two inputs. -/
def twoInputs (op : Nat) : Bool := [3, 4, 5, 6, 7, 8, 12, 19, 20, 21, 22, 23].contains op

/-- The output edge of a used node from its input edges; none where a rule of R287 or R288 is broken. -/
def Node.edge (n : Node) (read : Bool) (a b : Edge) : Option Edge :=
  let w := edgeWidth a.fmt
  let out (ok : Bool) (count : Nat) : Option Edge := if ok then some ⟨count, n.fo⟩ else none
  let like (ok : Bool) : Option Edge := out (ok && n.fo == a.fmt) a.count
  let pair (ok : Bool) : Option Edge := out (ok && b == a && n.fo == a.fmt) a.count
  let r := rateOf n.rate
  match n.op with
  | 1 => like true
  | 2 => out (n.fo != 11) a.count
  | 3 => pair (isArith a.fmt)
  | 4 => pair (isArith a.fmt)
  | 5 => pair (isArith a.fmt)
  | 6 => pair (isWide a.fmt)
  | 7 => pair (isArith a.fmt)
  | 8 => pair (isArith a.fmt)
  | 9 => like (isArith a.fmt)
  | 10 => like (isArith a.fmt)
  | 11 =>
    out (n.fo != 11 && (!n.sr || ((isWide a.fmt || isFp8 a.fmt) && isFloating n.fo && decide (edgeWidth n.fo < w)))) a.count
  | 12 =>
    out (isFloating a.fmt && b.fmt == 11 && decide (n.p ≤ 5) && isFloating n.fo && a.count == 2 ^ n.p * b.count) a.count
  | 13 =>
    if read && n.ina == 16 && a.fmt == 0 && a.count == 64 then
      if n.fo == 11 then
        let e := n.p / 16
        if 6 ≤ e ∧ e ≤ 10 ∧ n.p % 16 ≤ 2 then some ⟨(blockCount e + 2 ^ (n.p % 8) - 1) / 2 ^ (n.p % 8), 11⟩ else none
      else if 6 ≤ n.fo ∧ n.fo ≤ 10 ∧ n.p = 0 then some ⟨blockCount n.fo, n.fo⟩ else none
    else none
  | 14 => out (decide (3 ≤ n.rate) && (w == 4 || w == 8 || w == 16) && edgeWidth n.fo == r * w && a.count % r == 0) (a.count / r)
  | 15 => out ((n.rate == 1 || n.rate == 2) && (w == 8 || w == 16 || w == 32) && r * edgeWidth n.fo == w) (r * a.count)
  | 16 => like (decide (8 ≤ w) && a.count % 16 == 0)
  | 17 => like (decide (8 ≤ w) && a.count % 16 == 0)
  | 18 => like (decide (8 ≤ w) && a.count % 64 == 0)
  | 19 => out (b.count == a.count && n.fo == b.fmt) a.count
  | 20 => out (isArith a.fmt && b == a && decide (n.p ≤ 3) && n.fo == 0) a.count
  | 21 => pair (isInt a.fmt)
  | 22 => pair (isInt a.fmt)
  | 23 => pair (isInt a.fmt)
  | 24 => like (isInt a.fmt && decide (n.p < w))
  | 25 => like (isInt a.fmt && decide (n.p < w))
  | 26 => like true
  | 27 => like true
  | 28 => out (decide (3 ≤ n.rate) && isArith a.fmt && n.fo == a.fmt && a.count % r == 0) (a.count / r)
  | _ => like (a.fmt == 5 || a.fmt == 12 || a.fmt == 14)

/-- The rules of R286 and R289 that concern one used node's own fields. -/
def Node.fieldsOk (n : Node) (sten : Bool) : Bool :=
  let reads := n.op == 2 || n.op == 6 || n.op == 16 || n.op == 19 || (n.op == 11 && n.sr)
  let top := 15 - (if n.sr then 3 else 0) - bitOf sten
  n.clean && decide (n.op < 32) && n.fo != 15 && decide (n.rate < 5) &&
  (n.rate == 0 || n.op == 14 || n.op == 15 || n.op == 28) && (!n.sr || n.op == 11) &&
  (if reads then decide (1 ≤ n.k) && decide (n.k ≤ top) else n.k == 0) &&
  (n.p == 0 || [12, 13, 20, 24, 25].contains n.op)

/-- The edge that an input code names among those of the lower nodes. -/
def inputEdge (prim : Edge) (es : List (Option Edge)) (code : Nat) : Option Edge :=
  if code = 16 then some prim else (es[code]?).join

/-- The edges of the nodes, none for an unused one, for a primary edge; nothing where the image breaks a rule. -/
def edgesOf (read sten : Bool) (prim : Edge) : List Nat → List (Option Edge) → Option (List (Option Edge))
  | [], es => some es
  | w :: ws, es =>
    let n := nodeOf w
    if n.op = 0 then (if w = 0 then edgesOf read sten prim ws (es ++ [none]) else none)
    else if !n.fieldsOk sten then none
    else
      let b := if twoInputs n.op then inputEdge prim es n.inb else if n.inb = 63 then some ⟨0, 0⟩ else none
      match inputEdge prim es n.ina, b with
      | some a, some b =>
        match n.edge read a b with
        | some e => if e.count ≤ 512 then edgesOf read sten prim ws (es ++ [some e]) else none
        | none => none
      | _, _ => none

/-- The count of the primary input with the edges it gives: 512 bits of it for a read graph (direction 0), else the
count for which OUT0 emits 512 bits (R286). -/
def Graph.edges (g : Graph) (dir : Nat) : Option (Nat × List (Option Edge)) :=
  let try_ (p : Nat) : Option (Nat × List (Option Edge)) :=
    (edgesOf (dir == 0) g.sten ⟨p, g.infmt⟩ g.words []).map fun es => (p, es)
  if g.infmt = 15 then none
  else if dir = 0 then (if 512 % edgeWidth g.infmt = 0 then try_ (512 / edgeWidth g.infmt) else none)
  else
    (List.range 10).findSome? fun i => (try_ (2 ^ i)).filter fun r =>
      match (r.2[g.out0]?).join with
      | some e => e.count * edgeWidth e.fmt == 512
      | none => false

/-- Is an op a read-modify-write? -/
def isRmw (op : Nat) : Bool := decide (29 ≤ op)

/-- ValidImage (R286 to R289) for a direction: 0 read, 1 write, 2 read-modify-write. -/
def Graph.valid (g : Graph) (dir : Nat) : Bool :=
  let ops := g.nodes.map (·.op)
  match g.edges dir with
  | none => false
  | some (_, es) =>
    let sink (i : Nat) : Bool := match (es[i]?).join with
      | some e => e.count * edgeWidth e.fmt % 8 == 0
      | none => false
    g.control / 2 ^ 14 % 2 ^ 18 == 0 && (g.o1en || g.out1 == 0) && (!g.o1en || dir == 0) && sink g.out0 &&
    (!g.o1en || sink g.out1) && decide (ops.count 26 ≤ 1) && decide (ops.count 27 ≤ 1) &&
    (if dir = 2 then isRmw (ops.getD g.out0 0) && (ops.filter isRmw).length == 1 else (ops.filter isRmw).isEmpty)

/-- Bits of the requester side for each frame: of the primary input, or of sink 0 for a read graph (R282). -/
def Graph.frameBits (g : Graph) (dir : Nat) : Nat :=
  match g.edges dir with
  | none => 8
  | some (p, es) =>
    if dir = 0 then ((es[g.out0]?).join.map fun e => e.count * edgeWidth e.fmt).getD 8 else p * edgeWidth g.infmt

/-- The bytes of sink 1 for each frame. -/
def Graph.sink1 (g : Graph) : Nat :=
  if g.o1en then
    match g.edges 0 with
    | none => 0
    | some (_, es) => ((es[g.out1]?).join.map fun e => e.count * edgeWidth e.fmt / 8).getD 0
  else 0

/-- Does a graph apply an unordered floating reduction (R292)? -/
def Graph.floatRmw (g : Graph) (dir : Nat) : Bool :=
  dir == 2 && (let n := g.nodes.getD g.out0 (nodeOf 0); n.fo == 12 || n.fo == 14)

/-! ### Evaluation (R287, R288, R290 to R292) -/

/-- An element as an integer. -/
def elemInt (c v : Nat) : Int := if isSigned c then signExtend v (edgeWidth c) else v

/-- An integer result: wrapped, or clamped where SAT = 1. -/
def intResult (c : Nat) (sat : Bool) (i : Int) : Nat :=
  let w := edgeWidth c
  let lo : Int := if isSigned c then -(2 ^ (w - 1) : Nat) else 0
  let hi : Int := if isSigned c then (2 ^ (w - 1) : Nat) - 1 else (2 ^ w : Nat) - 1
  wrap (if sat then clampInt lo hi i else i) w

/-- An element's exact value. -/
def elemNum (c v : Nat) : Num :=
  if isInt c then numOfInt (elemInt c v) 0 false else if c = 11 then scaleValue v else (edgeFmt c).value v

/-- A sum of two elements of one arithmetic format. -/
def edgeAdd (c : Nat) (sat : Bool) (a b : Nat) : Nat × Flags :=
  if isInt c then (intResult c sat (elemInt c a + elemInt c b), 0)
  else (edgeFmt c).sum 0 sat [(edgeFmt c).value a, (edgeFmt c).value b]

/-- Minimum or maximum of two elements. -/
def elemMinMax (c : Nat) (isMax : Bool) (a b : Nat) : Nat :=
  if isInt c then
    let less := decide (elemInt c a < elemInt c b)
    if isMax then (if less then b else a) else (if less then a else b)
  else (edgeFmt c).minMax isMax a b

/-- cvt (R102), with a draw where it rounds stochastically (R290). -/
def elemConvert (src dst : Nat) (sat : Bool) (draw : Option Nat) (v : Nat) : Nat × Flags :=
  let x := elemNum src v
  if isInt dst then
    if isInt src then (intResult dst true (elemInt src v), 0)
    else
      let w := edgeWidth dst
      let lo : Int := if isSigned dst then -(2 ^ (w - 1) : Nat) else 0
      let hi : Int := if isSigned dst then (2 ^ (w - 1) : Nat) - 1 else (2 ^ w : Nat) - 1
      let (i, fl) := x.toInt 0 lo hi
      (wrap i w, fl)
  else if isInt src || src == 11 then (edgeFmt dst).round 0 sat x
  else
    match draw with
    | some u => (edgeFmt dst).stochastic sat u x
    | none => (edgeFmt src).convert (edgeFmt dst) 0 sat v

/-- cmp: the relation P, with NV for lt and le with a NaN. -/
def elemCompare (c p a b : Nat) : Nat × Flags :=
  let x := elemNum c a
  let y := elemNum c b
  let eq := x.eq y
  let lt := x.lt y
  let nan := x.isNan || y.isNan
  match p with
  | 0 => (bitOf eq, 0)
  | 1 => (bitOf !eq, 0)
  | 2 => (bitOf lt, if nan then flagNV else 0)
  | _ => (bitOf (lt || eq), if nan then flagNV else 0)

/-- What a node's evaluation gives: its elements and its flags. -/
abbrev Elems := List Nat × Flags

/-- An element function over the elements of A, with the flags of all. -/
def overA (f : Nat → Nat → Nat × Flags) (as : List Nat) : Elems :=
  let rs := (List.range as.length).map fun i => f i (as.getD i 0)
  (rs.map (·.1), rs.foldl (fun fl r => fl ||| r.2) 0)

/-- An element function over A and B. -/
def overAB (f : Nat → Nat → Nat × Flags) (as bs : List Nat) : Elems := overA (fun i a => f a (bs.getD i 0)) as

/-- An element function without flags. -/
def plainly (f : Nat → Nat) (as : List Nat) : Elems := (as.map f, 0)

/-- A permutation of the elements. -/
def reorder (f : Nat → Nat) (as : List Nat) : Elems := ((List.range as.length).map fun i => as.getD (f i) 0, 0)

/-- untag (R288): the block's byte 0 is the code of the expected format. -/
def untag (n : Node) (as : List Nat) : Elems :=
  let e := if n.fo = 11 then n.p / 16 else n.fo
  let good := as.getD 0 0 + 5 == e
  let fl : Flags := if good then 0 else flagNV
  if n.fo = 11 then
    (List.replicate ((blockCount e + 2 ^ (n.p % 8) - 1) / 2 ^ (n.p % 8)) (as.getD 1 0), fl)
  else
    let field := natOfList (as.drop 2)
    let w := edgeWidth e
    ((List.range (blockCount e)).map fun i => if good then field / 2 ^ (w * i) % 2 ^ w else 0, fl)

/-- The transposition of n x n blocks: output n c + r of a block is input n r + c. -/
def transpose (n i : Nat) : Nat :=
  let g := i / (n * n)
  let j := i % (n * n)
  n * n * g + n * (j % n) + j / n

/-- A used node evaluated over the elements of its inputs (R287): `old` the old elements of a read-modify-write,
`draw` the draw of an element (R290). -/
def Node.eval (n : Node) (kc : Nat) (draw : Nat → Nat) (ca : Nat) (as bs old : List Nat) : Elems :=
  let w := edgeWidth ca
  let f := edgeFmt ca
  let r := rateOf n.rate
  let kf := kc % 2 ^ edgeWidth n.fo
  match n.op with
  | 2 => plainly (fun _ => kf) as
  | 3 => overAB (edgeAdd ca n.sat) as bs
  | 4 => overAB (fun a b => if isInt ca then (intResult ca n.sat (elemInt ca a - elemInt ca b), 0)
      else f.sum 0 n.sat [f.value a, (f.value b).neg]) as bs
  | 5 => overAB (fun a b => if isInt ca then (intResult ca n.sat (elemInt ca a * elemInt ca b), 0)
      else f.prod 0 n.sat (f.value a) (f.value b)) as bs
  | 6 => overAB (fun a b => f.fused 0 n.sat (f.value kf) (f.value a) (f.value b) false) as bs
  | 7 => overAB (fun a b => (elemMinMax ca false a b, 0)) as bs
  | 8 => overAB (fun a b => (elemMinMax ca true a b, 0)) as bs
  | 9 => plainly (fun a => if isInt ca then intResult ca n.sat (elemInt ca a).natAbs else f.withSign a false) as
  | 10 => plainly (fun a => if isInt ca then intResult ca n.sat (-elemInt ca a) else f.withSign a (!f.sign a)) as
  | 11 => overA (fun i a => elemConvert ca n.fo n.sat (if n.sr then some (draw i) else none) a) as
  | 12 => overA (fun i a =>
      match scaleValue (bs.getD (i / 2 ^ n.p) 0) with
      | .fin _ _ e => (edgeFmt n.fo).round 0 n.sat ((f.value a).scale e)
      | _ => (edgeFmt n.fo).round 0 n.sat .nan) as
  | 13 => untag n as
  | 14 => ((List.range (as.length / r)).map fun j =>
      (List.range r).foldl (fun v t => v + as.getD (r * j + t) 0 * 2 ^ (w * t)) 0, 0)
  | 15 => ((List.range (as.length * r)).map fun i => as.getD (i / r) 0 / 2 ^ (w / r * (i % r)) % 2 ^ (w / r), 0)
  | 16 => reorder (fun i => i / 16 * 16 + kc / 2 ^ (4 * (i % 16)) % 16) as
  | 17 => reorder (transpose 4) as
  | 18 => reorder (transpose 8) as
  | 19 => overAB (fun a b => (if a = 0 then kf else b, 0)) as bs
  | 20 => overAB (elemCompare ca n.p) as bs
  | 21 => overAB (fun a b => (a &&& b, 0)) as bs
  | 22 => overAB (fun a b => (a ||| b, 0)) as bs
  | 23 => overAB (fun a b => (a ^^^ b, 0)) as bs
  | 24 => plainly (fun a => a * 2 ^ n.p % 2 ^ w) as
  | 25 => plainly (fun a => wrap (elemInt ca a / (2 ^ n.p : Nat)) w) as
  | 28 =>
    let at_ (j t : Nat) : Nat := as.getD (r * j + t) 0
    overA (fun j _ =>
      let (x, fl) := edgeAdd ca n.sat (at_ j 0) (at_ j 1)
      if r = 2 then (x, fl)
      else
        let (y, fl2) := edgeAdd ca n.sat (at_ j 2) (at_ j 3)
        let (z, fl3) := edgeAdd ca n.sat x y
        (z, fl ||| fl2 ||| fl3)) (List.replicate (as.length / r) 0)
  | 29 => overAB (fun a b => edgeAdd ca n.sat b a) as old
  | 30 => overAB (fun a b => (elemMinMax ca false b a, 0)) as old
  | 31 => overAB (fun a b => (elemMinMax ca true b a, 0)) as old
  | _ => (as, 0)

/-- One bit of a reflected CRC-32C. -/
def crcBit (c : Nat) : Nat := if c % 2 = 1 then c / 2 ^^^ 0x82F63B78 else c / 2

/-- A byte taken into a reflected CRC-32C. -/
def crcByte (c : Nat) (b : Byte) : Nat := crcBit (crcBit (crcBit (crcBit (crcBit (crcBit (crcBit (crcBit (c ^^^ b.toNat))))))))

/-- Elements packed (R93). -/
def packElems (w : Nat) : List Nat → Nat
  | [] => 0
  | v :: r => v % 2 ^ w + 2 ^ w * packElems w r

/-- The elements of a packed string. -/
def unpackElems (w n v : Nat) : List Nat := (List.range n).map fun i => v / 2 ^ (w * i) % 2 ^ w

/-- Elements that nzcnt counts (R291). -/
def nonZero (c v : Nat) : Bool :=
  if isInt c || c == 11 then v != 0
  else match (edgeFmt c).value v with
    | .fin _ m _ => m != 0
    | _ => true

/-- What the evaluation of a frame gives: the elements of each node, the flags, the CRC register and the count. -/
structure FrameOut where
  vals : List (Nat × List Nat)
  flags : Flags
  crc : Nat
  nz : Nat
deriving DecidableEq, Repr

/-- One node of a frame (R282, R291). -/
def Graph.evalNode (g : Graph) (prim old : List Nat) (off : Nat) (acc : FrameOut) (n : Node) : FrameOut :=
  if n.op = 0 then { acc with vals := acc.vals ++ [(0, [])] }
  else
    let input (code : Nat) : Nat × List Nat := if code = 16 then (g.infmt, prim) else acc.vals.getD code (0, [])
    let (ca, as) := input n.ina
    let bs := if twoInputs n.op then (input n.inb).2 else []
    let key := (List.range 4).map fun i => g.const (n.k + i)
    let draw (i : Nat) : Nat := chachaDraw key (16 * (off / 64)) i
    let (vs, fl) := n.eval (g.const n.k) draw ca as bs old
    { vals := acc.vals ++ [(n.fo, vs)]
      flags := acc.flags ||| fl
      crc := if n.op = 26 then
          (bytesOf ((edgeWidth ca * as.length + 7) / 8) (packElems (edgeWidth ca) as)).foldl crcByte acc.crc
        else acc.crc
      nz := if n.op = 27 then acc.nz + (as.filter (nonZero ca)).length else acc.nz }

/-- One frame of a valid graph (R282): `input` the packed primary input, `old` the old 64 bytes of a
read-modify-write, `off` the DRAM-side buffer offset. -/
def Graph.frame (g : Graph) (dir : Nat) (input old off crc nz : Nat) : FrameOut :=
  let p := ((g.edges dir).map (·.1)).getD 0
  let out0 := g.nodes.getD g.out0 (nodeOf 0)
  let ow := edgeWidth out0.fo
  g.nodes.foldl (g.evalNode (unpackElems (edgeWidth g.infmt) p input) (unpackElems ow (512 / ow) old) off) ⟨[], 0, crc, nz⟩

/-- The packed elements of node `i` of an evaluated frame, with their bits. -/
def FrameOut.sink (o : FrameOut) (i : Nat) : Nat × Nat :=
  let (c, vs) := o.vals.getD i (0, [])
  (packElems (edgeWidth c) vs, edgeWidth c * vs.length)

end Sys2Proof.Machine
end

