-- ==== Sys2Proof/Decode.lean ====
section
/-! DEFINITION. Decoding of instruction words, total and rejecting by name, and after it the encoder; both from the
formats of R54 and the rows' own bit patterns. Words are natural numbers below 2^32, bit 0 the least significant. -/

namespace Sys2Proof

/-- Words of major opcode 0x01 (R59). -/
def decodeOp01 (w : Nat) : Except Reject Instr :=
  match w % 256 with
  | 0 => if w / 2 ^ 8 % 8 = 0 then .ok (.add (fieldOf w 21 5) (fieldOf w 16 5) (fieldOf w 11 5)) else .error .unusedField
  | 1 => if w / 2 ^ 8 % 8 = 0 then .ok (.sub (fieldOf w 21 5) (fieldOf w 16 5) (fieldOf w 11 5)) else .error .unusedField
  | 2 => if w / 2 ^ 8 % 8 = 0 then .ok (.and (fieldOf w 21 5) (fieldOf w 16 5) (fieldOf w 11 5)) else .error .unusedField
  | 3 => if w / 2 ^ 8 % 8 = 0 then .ok (.or (fieldOf w 21 5) (fieldOf w 16 5) (fieldOf w 11 5)) else .error .unusedField
  | 4 => if w / 2 ^ 8 % 8 = 0 then .ok (.xor (fieldOf w 21 5) (fieldOf w 16 5) (fieldOf w 11 5)) else .error .unusedField
  | 5 => if w / 2 ^ 8 % 8 = 0 then .ok (.andn (fieldOf w 21 5) (fieldOf w 16 5) (fieldOf w 11 5)) else .error .unusedField
  | 6 => if w / 2 ^ 8 % 8 = 0 then .ok (.orn (fieldOf w 21 5) (fieldOf w 16 5) (fieldOf w 11 5)) else .error .unusedField
  | 7 => if w / 2 ^ 8 % 8 = 0 then .ok (.xnor (fieldOf w 21 5) (fieldOf w 16 5) (fieldOf w 11 5)) else .error .unusedField
  | 8 => if w / 2 ^ 8 % 8 = 0 then .ok (.sll (fieldOf w 21 5) (fieldOf w 16 5) (fieldOf w 11 5)) else .error .unusedField
  | 9 => if w / 2 ^ 8 % 8 = 0 then .ok (.srl (fieldOf w 21 5) (fieldOf w 16 5) (fieldOf w 11 5)) else .error .unusedField
  | 10 => if w / 2 ^ 8 % 8 = 0 then .ok (.sra (fieldOf w 21 5) (fieldOf w 16 5) (fieldOf w 11 5)) else .error .unusedField
  | 11 => if w / 2 ^ 8 % 8 = 0 then .ok (.rol (fieldOf w 21 5) (fieldOf w 16 5) (fieldOf w 11 5)) else .error .unusedField
  | 12 => if w / 2 ^ 8 % 8 = 0 then .ok (.ror (fieldOf w 21 5) (fieldOf w 16 5) (fieldOf w 11 5)) else .error .unusedField
  | 16 => if w / 2 ^ 8 % 8 = 0 then .ok (.slt (fieldOf w 21 5) (fieldOf w 16 5) (fieldOf w 11 5)) else .error .unusedField
  | 17 => if w / 2 ^ 8 % 8 = 0 then .ok (.sltn (fieldOf w 21 5) (fieldOf w 16 5) (fieldOf w 11 5)) else .error .unusedField
  | 18 => if w / 2 ^ 8 % 8 = 0 then .ok (.seq (fieldOf w 21 5) (fieldOf w 16 5) (fieldOf w 11 5)) else .error .unusedField
  | 19 => if w / 2 ^ 8 % 8 = 0 then .ok (.sne (fieldOf w 21 5) (fieldOf w 16 5) (fieldOf w 11 5)) else .error .unusedField
  | 20 => if w / 2 ^ 8 % 8 = 0 then .ok (.min (fieldOf w 21 5) (fieldOf w 16 5) (fieldOf w 11 5)) else .error .unusedField
  | 21 => if w / 2 ^ 8 % 8 = 0 then .ok (.max (fieldOf w 21 5) (fieldOf w 16 5) (fieldOf w 11 5)) else .error .unusedField
  | 22 => if w / 2 ^ 8 % 8 = 0 then .ok (.minn (fieldOf w 21 5) (fieldOf w 16 5) (fieldOf w 11 5)) else .error .unusedField
  | 23 => if w / 2 ^ 8 % 8 = 0 then .ok (.maxn (fieldOf w 21 5) (fieldOf w 16 5) (fieldOf w 11 5)) else .error .unusedField
  | 24 => if w / 2 ^ 8 % 256 = 0 then .ok (.clz (fieldOf w 21 5) (fieldOf w 16 5)) else .error .unusedField
  | 25 => if w / 2 ^ 8 % 256 = 0 then .ok (.ctz (fieldOf w 21 5) (fieldOf w 16 5)) else .error .unusedField
  | 26 => if w / 2 ^ 8 % 256 = 0 then .ok (.popc (fieldOf w 21 5) (fieldOf w 16 5)) else .error .unusedField
  | 27 => if w / 2 ^ 8 % 256 = 0 then .ok (.bswap (fieldOf w 21 5) (fieldOf w 16 5)) else .error .unusedField
  | 28 => if w / 2 ^ 8 % 256 = 0 then .ok (.sextB (fieldOf w 21 5) (fieldOf w 16 5)) else .error .unusedField
  | 29 => if w / 2 ^ 8 % 256 = 0 then .ok (.sextH (fieldOf w 21 5) (fieldOf w 16 5)) else .error .unusedField
  | 30 => if w / 2 ^ 8 % 256 = 0 then .ok (.sextW (fieldOf w 21 5) (fieldOf w 16 5)) else .error .unusedField
  | 31 => if w / 2 ^ 8 % 256 = 0 then .ok (.zextW (fieldOf w 21 5) (fieldOf w 16 5)) else .error .unusedField
  | 32 => if w / 2 ^ 8 % 8 = 0 then .ok (.addw (fieldOf w 21 5) (fieldOf w 16 5) (fieldOf w 11 5)) else .error .unusedField
  | 33 => if w / 2 ^ 8 % 8 = 0 then .ok (.subw (fieldOf w 21 5) (fieldOf w 16 5) (fieldOf w 11 5)) else .error .unusedField
  | 34 => if w / 2 ^ 8 % 8 = 0 then .ok (.sllw (fieldOf w 21 5) (fieldOf w 16 5) (fieldOf w 11 5)) else .error .unusedField
  | 35 => if w / 2 ^ 8 % 8 = 0 then .ok (.srlw (fieldOf w 21 5) (fieldOf w 16 5) (fieldOf w 11 5)) else .error .unusedField
  | 36 => if w / 2 ^ 8 % 8 = 0 then .ok (.sraw (fieldOf w 21 5) (fieldOf w 16 5) (fieldOf w 11 5)) else .error .unusedField
  | _ => .error .reservedFn

/-- Words of major opcode 0x02 (R59). -/
def decodeOp02 (w : Nat) : Except Reject Instr :=
  .ok (.addi (fieldOf w 21 5) (fieldOf w 16 5) (fieldOf w 0 16))

/-- Words of major opcode 0x03 (R59). -/
def decodeOp03 (w : Nat) : Except Reject Instr :=
  .ok (.andi (fieldOf w 21 5) (fieldOf w 16 5) (fieldOf w 0 16))

/-- Words of major opcode 0x04 (R59). -/
def decodeOp04 (w : Nat) : Except Reject Instr :=
  .ok (.ori (fieldOf w 21 5) (fieldOf w 16 5) (fieldOf w 0 16))

/-- Words of major opcode 0x05 (R59). -/
def decodeOp05 (w : Nat) : Except Reject Instr :=
  .ok (.xori (fieldOf w 21 5) (fieldOf w 16 5) (fieldOf w 0 16))

/-- Words of major opcode 0x06 (R59). -/
def decodeOp06 (w : Nat) : Except Reject Instr :=
  .ok (.slti (fieldOf w 21 5) (fieldOf w 16 5) (fieldOf w 0 16))

/-- Words of major opcode 0x07 (R59). -/
def decodeOp07 (w : Nat) : Except Reject Instr :=
  .ok (.sltni (fieldOf w 21 5) (fieldOf w 16 5) (fieldOf w 0 16))

/-- Words of major opcode 0x08 (R59). -/
def decodeOp08 (w : Nat) : Except Reject Instr :=
  if w / 2 ^ 16 % 32 = 0 then .ok (.lui (fieldOf w 21 5) (fieldOf w 0 16))
  else .error .reservedFn

/-- Words of major opcode 0x09 (R59). -/
def decodeOp09 (w : Nat) : Except Reject Instr :=
  if w / 2 ^ 6 % 1024 = 0 then .ok (.slli (fieldOf w 21 5) (fieldOf w 16 5) (fieldOf w 0 6))
  else if w / 2 ^ 6 % 1024 = 4 then .ok (.srli (fieldOf w 21 5) (fieldOf w 16 5) (fieldOf w 0 6))
  else if w / 2 ^ 6 % 1024 = 8 then .ok (.srai (fieldOf w 21 5) (fieldOf w 16 5) (fieldOf w 0 6))
  else if w / 2 ^ 6 % 1024 = 12 then .ok (.rori (fieldOf w 21 5) (fieldOf w 16 5) (fieldOf w 0 6))
  else if w / 2 ^ 5 % 2048 = 32 then .ok (.slliw (fieldOf w 21 5) (fieldOf w 16 5) (fieldOf w 0 5))
  else if w / 2 ^ 5 % 2048 = 40 then .ok (.srliw (fieldOf w 21 5) (fieldOf w 16 5) (fieldOf w 0 5))
  else if w / 2 ^ 5 % 2048 = 48 then .ok (.sraiw (fieldOf w 21 5) (fieldOf w 16 5) (fieldOf w 0 5))
  else .error .reservedFn

/-- Words of major opcode 0x0A (R59). -/
def decodeOp0A (w : Nat) : Except Reject Instr :=
  match w % 256 with
  | 0 => if w / 2 ^ 8 % 8 = 0 then .ok (.mul (fieldOf w 21 5) (fieldOf w 16 5) (fieldOf w 11 5)) else .error .unusedField
  | 1 => if w / 2 ^ 8 % 8 = 0 then .ok (.mulh (fieldOf w 21 5) (fieldOf w 16 5) (fieldOf w 11 5)) else .error .unusedField
  | 2 => if w / 2 ^ 8 % 8 = 0 then .ok (.mulhn (fieldOf w 21 5) (fieldOf w 16 5) (fieldOf w 11 5)) else .error .unusedField
  | 3 => if w / 2 ^ 8 % 8 = 0 then .ok (.mulhsn (fieldOf w 21 5) (fieldOf w 16 5) (fieldOf w 11 5)) else .error .unusedField
  | 4 => if w / 2 ^ 8 % 8 = 0 then .ok (.div (fieldOf w 21 5) (fieldOf w 16 5) (fieldOf w 11 5)) else .error .unusedField
  | 5 => if w / 2 ^ 8 % 8 = 0 then .ok (.divn (fieldOf w 21 5) (fieldOf w 16 5) (fieldOf w 11 5)) else .error .unusedField
  | 6 => if w / 2 ^ 8 % 8 = 0 then .ok (.rem (fieldOf w 21 5) (fieldOf w 16 5) (fieldOf w 11 5)) else .error .unusedField
  | 7 => if w / 2 ^ 8 % 8 = 0 then .ok (.remn (fieldOf w 21 5) (fieldOf w 16 5) (fieldOf w 11 5)) else .error .unusedField
  | 8 => if w / 2 ^ 8 % 8 = 0 then .ok (.mulw (fieldOf w 21 5) (fieldOf w 16 5) (fieldOf w 11 5)) else .error .unusedField
  | 9 => if w / 2 ^ 8 % 8 = 0 then .ok (.divw (fieldOf w 21 5) (fieldOf w 16 5) (fieldOf w 11 5)) else .error .unusedField
  | 10 => if w / 2 ^ 8 % 8 = 0 then .ok (.divnw (fieldOf w 21 5) (fieldOf w 16 5) (fieldOf w 11 5)) else .error .unusedField
  | 11 => if w / 2 ^ 8 % 8 = 0 then .ok (.remw (fieldOf w 21 5) (fieldOf w 16 5) (fieldOf w 11 5)) else .error .unusedField
  | 12 => if w / 2 ^ 8 % 8 = 0 then .ok (.remnw (fieldOf w 21 5) (fieldOf w 16 5) (fieldOf w 11 5)) else .error .unusedField
  | _ => .error .reservedFn

/-- Words of major opcode 0x0B (R59). -/
def decodeOp0B (w : Nat) : Except Reject Instr :=
  match w % 128 with
  | 0 => if w / 2 ^ 8 % 8 = 0 then .ok (.fadd (fieldOf w 21 5) (fieldOf w 16 5) (fieldOf w 11 5) (fieldOf w 7 1)) else .error .unusedField
  | 1 => if w / 2 ^ 8 % 8 = 0 then .ok (.fsub (fieldOf w 21 5) (fieldOf w 16 5) (fieldOf w 11 5) (fieldOf w 7 1)) else .error .unusedField
  | 2 => if w / 2 ^ 8 % 8 = 0 then .ok (.fmul (fieldOf w 21 5) (fieldOf w 16 5) (fieldOf w 11 5) (fieldOf w 7 1)) else .error .unusedField
  | 3 => if w / 2 ^ 8 % 8 = 0 then .ok (.fdiv (fieldOf w 21 5) (fieldOf w 16 5) (fieldOf w 11 5) (fieldOf w 7 1)) else .error .unusedField
  | 4 => if w / 2 ^ 8 % 256 = 0 then .ok (.fsqrt (fieldOf w 21 5) (fieldOf w 16 5) (fieldOf w 7 1)) else .error .unusedField
  | 5 => if w / 2 ^ 8 % 8 = 0 then .ok (.fmin (fieldOf w 21 5) (fieldOf w 16 5) (fieldOf w 11 5) (fieldOf w 7 1)) else .error .unusedField
  | 6 => if w / 2 ^ 8 % 8 = 0 then .ok (.fmax (fieldOf w 21 5) (fieldOf w 16 5) (fieldOf w 11 5) (fieldOf w 7 1)) else .error .unusedField
  | 7 => if w / 2 ^ 8 % 8 = 0 then .ok (.fmac (fieldOf w 21 5) (fieldOf w 16 5) (fieldOf w 11 5) (fieldOf w 7 1)) else .error .unusedField
  | 8 => if w / 2 ^ 8 % 8 = 0 then .ok (.fmsc (fieldOf w 21 5) (fieldOf w 16 5) (fieldOf w 11 5) (fieldOf w 7 1)) else .error .unusedField
  | 9 => if w / 2 ^ 8 % 256 = 0 then .ok (.fabs (fieldOf w 21 5) (fieldOf w 16 5) (fieldOf w 7 1)) else .error .unusedField
  | 10 => if w / 2 ^ 8 % 256 = 0 then .ok (.fneg (fieldOf w 21 5) (fieldOf w 16 5) (fieldOf w 7 1)) else .error .unusedField
  | 11 => if w / 2 ^ 8 % 8 = 0 then .ok (.fsgmv (fieldOf w 21 5) (fieldOf w 16 5) (fieldOf w 11 5) (fieldOf w 7 1)) else .error .unusedField
  | _ => .error .reservedFn

/-- Words of major opcode 0x0C (R59). -/
def decodeOp0C (w : Nat) : Except Reject Instr :=
  if w % 4 = 0 ∧ w / 2 ^ 3 % 256 = 0 then .ok (.feq (fieldOf w 21 5) (fieldOf w 16 5) (fieldOf w 11 5) (fieldOf w 2 1))
  else if w % 4 = 1 ∧ w / 2 ^ 3 % 256 = 0 then .ok (.flt (fieldOf w 21 5) (fieldOf w 16 5) (fieldOf w 11 5) (fieldOf w 2 1))
  else if w % 4 = 2 ∧ w / 2 ^ 3 % 256 = 0 then .ok (.fle (fieldOf w 21 5) (fieldOf w 16 5) (fieldOf w 11 5) (fieldOf w 2 1))
  else if w % 4 = 3 ∧ w / 2 ^ 3 % 8192 = 0 then .ok (.fkind (fieldOf w 21 5) (fieldOf w 16 5) (fieldOf w 2 1))
  else if w % 65536 = 16 then .ok (.fcvtF64F32 (fieldOf w 21 5) (fieldOf w 16 5))
  else if w % 65536 = 17 then .ok (.fcvtF32F64 (fieldOf w 21 5) (fieldOf w 16 5))
  else if w % 65536 = 18 then .ok (.fcvtF32I64 (fieldOf w 21 5) (fieldOf w 16 5))
  else if w % 65536 = 19 then .ok (.fcvtF32N64 (fieldOf w 21 5) (fieldOf w 16 5))
  else if w % 65536 = 20 then .ok (.fcvtF64I64 (fieldOf w 21 5) (fieldOf w 16 5))
  else if w % 65536 = 21 then .ok (.fcvtF64N64 (fieldOf w 21 5) (fieldOf w 16 5))
  else if w % 65536 = 22 then .ok (.fcvtI64F32 (fieldOf w 21 5) (fieldOf w 16 5))
  else if w % 65536 = 23 then .ok (.fcvtN64F32 (fieldOf w 21 5) (fieldOf w 16 5))
  else if w % 65536 = 24 then .ok (.fcvtI64F64 (fieldOf w 21 5) (fieldOf w 16 5))
  else if w % 65536 = 25 then .ok (.fcvtN64F64 (fieldOf w 21 5) (fieldOf w 16 5))
  else if w % 65536 = 26 then .ok (.fcvtF32Bf16 (fieldOf w 21 5) (fieldOf w 16 5))
  else if w % 65536 = 27 then .ok (.fcvtBf16F32 (fieldOf w 21 5) (fieldOf w 16 5))
  else if w % 65536 = 28 then .ok (.fcvtF32F16 (fieldOf w 21 5) (fieldOf w 16 5))
  else if w % 65536 = 29 then .ok (.fcvtF16F32 (fieldOf w 21 5) (fieldOf w 16 5))
  else .error .reservedFn

/-- Words of major opcode 0x10 (R59). -/
def decodeOp10 (w : Nat) : Except Reject Instr :=
  .ok (.ld (fieldOf w 21 5) (fieldOf w 16 5) (fieldOf w 5 11) (fieldOf w 2 3) (fieldOf w 0 2))

/-- Words of major opcode 0x11 (R59). -/
def decodeOp11 (w : Nat) : Except Reject Instr :=
  if w / 2 ^ 4 % 2 = 0 then .ok (.st (fieldOf w 21 5) (fieldOf w 16 5) (fieldOf w 5 11) (fieldOf w 2 2) (fieldOf w 0 2))
  else .error .reservedFn

/-- Words of major opcode 0x12 (R59). -/
def decodeOp12 (w : Nat) : Except Reject Instr :=
  if w / 2 ^ 3 % 256 = 0 then .ok (.ldx (fieldOf w 21 5) (fieldOf w 16 5) (fieldOf w 11 5) (fieldOf w 0 3))
  else if w / 2 ^ 2 % 512 = 2 then .ok (.stx (fieldOf w 21 5) (fieldOf w 16 5) (fieldOf w 11 5) (fieldOf w 0 2))
  else if w / 2 ^ 2 % 512 = 4 then .ok (.ldAcq (fieldOf w 21 5) (fieldOf w 16 5) (fieldOf w 11 5) (fieldOf w 0 2))
  else if w / 2 ^ 2 % 512 = 5 then .ok (.stRel (fieldOf w 21 5) (fieldOf w 16 5) (fieldOf w 11 5) (fieldOf w 0 2))
  else if w % 2048 = 48 ∧ w / 2 ^ 16 % 1024 = 0 then .ok (.fenceAcq (fieldOf w 11 5))
  else if w % 2048 = 49 ∧ w / 2 ^ 16 % 1024 = 0 then .ok (.fenceRel (fieldOf w 11 5))
  else if w % 2048 = 50 ∧ w / 2 ^ 16 % 1024 = 0 then .ok (.fenceAr (fieldOf w 11 5))
  else if w % 2048 = 51 ∧ w / 2 ^ 16 % 1024 = 0 then .ok (.fenceSc (fieldOf w 11 5))
  else if w % 67108864 = 56 then .ok (.sdrain)
  else if w % 2048 = 57 ∧ w / 2 ^ 16 % 1024 = 0 then .ok (.rfence (fieldOf w 11 5))
  else if w / 2 ^ 6 % 32 = 1 then .ok (.stAt (fieldOf w 21 5) (fieldOf w 16 5) (fieldOf w 11 5) (fieldOf w 2 4) (fieldOf w 0 2))
  else if w / 2 ^ 2 % 512 = 32 then .ok (.ldNb (fieldOf w 21 5) (fieldOf w 16 5) (fieldOf w 11 5) (fieldOf w 0 2))
  else .error .reservedFn

/-- Words of major opcode 0x13 (R59). -/
def decodeOp13 (w : Nat) : Except Reject Instr :=
  if w / 2 ^ 1 % 1024 = 0 then .ok (.amoswap (fieldOf w 21 5) (fieldOf w 16 5) (fieldOf w 11 5) (fieldOf w 0 1))
  else if w / 2 ^ 1 % 1024 = 1 then .ok (.amoadd (fieldOf w 21 5) (fieldOf w 16 5) (fieldOf w 11 5) (fieldOf w 0 1))
  else if w / 2 ^ 1 % 1024 = 2 then .ok (.amoand (fieldOf w 21 5) (fieldOf w 16 5) (fieldOf w 11 5) (fieldOf w 0 1))
  else if w / 2 ^ 1 % 1024 = 3 then .ok (.amoor (fieldOf w 21 5) (fieldOf w 16 5) (fieldOf w 11 5) (fieldOf w 0 1))
  else if w / 2 ^ 1 % 1024 = 4 then .ok (.amoxor (fieldOf w 21 5) (fieldOf w 16 5) (fieldOf w 11 5) (fieldOf w 0 1))
  else if w / 2 ^ 1 % 1024 = 5 then .ok (.amomin (fieldOf w 21 5) (fieldOf w 16 5) (fieldOf w 11 5) (fieldOf w 0 1))
  else if w / 2 ^ 1 % 1024 = 6 then .ok (.amomax (fieldOf w 21 5) (fieldOf w 16 5) (fieldOf w 11 5) (fieldOf w 0 1))
  else if w / 2 ^ 1 % 1024 = 7 then .ok (.amominn (fieldOf w 21 5) (fieldOf w 16 5) (fieldOf w 11 5) (fieldOf w 0 1))
  else if w / 2 ^ 1 % 1024 = 8 then .ok (.amomaxn (fieldOf w 21 5) (fieldOf w 16 5) (fieldOf w 11 5) (fieldOf w 0 1))
  else if w / 2 ^ 1 % 1024 = 9 then .ok (.amocas (fieldOf w 21 5) (fieldOf w 16 5) (fieldOf w 11 5) (fieldOf w 0 1))
  else if w / 2 ^ 1 % 1024 = 10 then .ok (.amofadd (fieldOf w 21 5) (fieldOf w 16 5) (fieldOf w 11 5) (fieldOf w 0 1))
  else if w / 2 ^ 1 % 1024 = 11 then .ok (.amofmin (fieldOf w 21 5) (fieldOf w 16 5) (fieldOf w 11 5) (fieldOf w 0 1))
  else if w / 2 ^ 1 % 1024 = 12 then .ok (.amofmax (fieldOf w 21 5) (fieldOf w 16 5) (fieldOf w 11 5) (fieldOf w 0 1))
  else if w / 2 ^ 1 % 1024 = 33 ∧ w / 2 ^ 21 % 32 = 0 then .ok (.redadd (fieldOf w 16 5) (fieldOf w 11 5) (fieldOf w 0 1))
  else if w / 2 ^ 1 % 1024 = 34 ∧ w / 2 ^ 21 % 32 = 0 then .ok (.redand (fieldOf w 16 5) (fieldOf w 11 5) (fieldOf w 0 1))
  else if w / 2 ^ 1 % 1024 = 35 ∧ w / 2 ^ 21 % 32 = 0 then .ok (.redor (fieldOf w 16 5) (fieldOf w 11 5) (fieldOf w 0 1))
  else if w / 2 ^ 1 % 1024 = 36 ∧ w / 2 ^ 21 % 32 = 0 then .ok (.redxor (fieldOf w 16 5) (fieldOf w 11 5) (fieldOf w 0 1))
  else if w / 2 ^ 1 % 1024 = 37 ∧ w / 2 ^ 21 % 32 = 0 then .ok (.redmin (fieldOf w 16 5) (fieldOf w 11 5) (fieldOf w 0 1))
  else if w / 2 ^ 1 % 1024 = 38 ∧ w / 2 ^ 21 % 32 = 0 then .ok (.redmax (fieldOf w 16 5) (fieldOf w 11 5) (fieldOf w 0 1))
  else if w / 2 ^ 1 % 1024 = 39 ∧ w / 2 ^ 21 % 32 = 0 then .ok (.redminn (fieldOf w 16 5) (fieldOf w 11 5) (fieldOf w 0 1))
  else if w / 2 ^ 1 % 1024 = 40 ∧ w / 2 ^ 21 % 32 = 0 then .ok (.redmaxn (fieldOf w 16 5) (fieldOf w 11 5) (fieldOf w 0 1))
  else if w / 2 ^ 1 % 1024 = 42 ∧ w / 2 ^ 21 % 32 = 0 then .ok (.redfadd (fieldOf w 16 5) (fieldOf w 11 5) (fieldOf w 0 1))
  else if w / 2 ^ 1 % 1024 = 43 ∧ w / 2 ^ 21 % 32 = 0 then .ok (.redfmin (fieldOf w 16 5) (fieldOf w 11 5) (fieldOf w 0 1))
  else if w / 2 ^ 1 % 1024 = 44 ∧ w / 2 ^ 21 % 32 = 0 then .ok (.redfmax (fieldOf w 16 5) (fieldOf w 11 5) (fieldOf w 0 1))
  else if w % 4 = 0 ∧ w / 2 ^ 6 % 32 = 3 then .ok (.redOrdAddF32 (fieldOf w 21 5) (fieldOf w 16 5) (fieldOf w 11 5) (fieldOf w 2 4))
  else if w % 4 = 1 ∧ w / 2 ^ 6 % 32 = 3 then .ok (.redOrdAddI32 (fieldOf w 21 5) (fieldOf w 16 5) (fieldOf w 11 5) (fieldOf w 2 4))
  else if w % 4 = 2 ∧ w / 2 ^ 6 % 32 = 3 then .ok (.redOrdMinF32 (fieldOf w 21 5) (fieldOf w 16 5) (fieldOf w 11 5) (fieldOf w 2 4))
  else if w % 4 = 3 ∧ w / 2 ^ 6 % 32 = 3 then .ok (.redOrdMaxF32 (fieldOf w 21 5) (fieldOf w 16 5) (fieldOf w 11 5) (fieldOf w 2 4))
  else .error .reservedFn

/-- Words of major opcode 0x14 (R59). -/
def decodeOp14 (w : Nat) : Except Reject Instr :=
  .ok (.vld (fieldOf w 21 5) (fieldOf w 16 5) (fieldOf w 5 11) (fieldOf w 2 3) (fieldOf w 0 2))

/-- Words of major opcode 0x15 (R59). -/
def decodeOp15 (w : Nat) : Except Reject Instr :=
  .ok (.vst (fieldOf w 21 5) (fieldOf w 16 5) (fieldOf w 5 11) (fieldOf w 2 3) (fieldOf w 0 2))

/-- Words of major opcode 0x16 (R59). -/
def decodeOp16 (w : Nat) : Except Reject Instr :=
  match w % 32 with
  | 0 => .ok (.vlds (fieldOf w 21 5) (fieldOf w 16 5) (fieldOf w 11 5) (fieldOf w 8 3) (fieldOf w 5 3))
  | 1 => .ok (.vsts (fieldOf w 21 5) (fieldOf w 16 5) (fieldOf w 11 5) (fieldOf w 8 3) (fieldOf w 5 3))
  | 2 => .ok (.vldx (fieldOf w 21 5) (fieldOf w 16 5) (fieldOf w 11 5) (fieldOf w 8 3) (fieldOf w 5 3))
  | 3 => .ok (.vstx (fieldOf w 21 5) (fieldOf w 16 5) (fieldOf w 11 5) (fieldOf w 8 3) (fieldOf w 5 3))
  | 4 => if w / 2 ^ 11 % 32 = 0 then .ok (.vldm (fieldOf w 21 5) (fieldOf w 16 5) (fieldOf w 8 3) (fieldOf w 5 3)) else .error .unusedField
  | 5 => if w / 2 ^ 11 % 32 = 0 then .ok (.vstm (fieldOf w 21 5) (fieldOf w 16 5) (fieldOf w 8 3) (fieldOf w 5 3)) else .error .unusedField
  | 6 => if w / 2 ^ 11 % 32 = 0 then .ok (.vappend (fieldOf w 21 5) (fieldOf w 16 5) (fieldOf w 8 3) (fieldOf w 5 3)) else .error .unusedField
  | 7 => .ok (.vldNb (fieldOf w 21 5) (fieldOf w 16 5) (fieldOf w 11 5) (fieldOf w 8 3) (fieldOf w 5 3))
  | 16 | 17 | 18 | 19 | 20 | 21 | 22 | 23 | 24 | 25 | 26 | 27 | 28 | 29 | 30 | 31 => .ok (.vstAt (fieldOf w 21 5) (fieldOf w 16 5) (fieldOf w 11 5) (fieldOf w 8 3) (fieldOf w 5 3) (fieldOf w 0 4))
  | _ => .error .reservedFn

/-- Words of major opcode 0x17 (R59). -/
def decodeOp17 (w : Nat) : Except Reject Instr :=
  match w % 32 with
  | 0 => .ok (.vamoswap (fieldOf w 21 5) (fieldOf w 16 5) (fieldOf w 11 5) (fieldOf w 8 3) (fieldOf w 5 3))
  | 1 => .ok (.vamoadd (fieldOf w 21 5) (fieldOf w 16 5) (fieldOf w 11 5) (fieldOf w 8 3) (fieldOf w 5 3))
  | 2 => .ok (.vamoand (fieldOf w 21 5) (fieldOf w 16 5) (fieldOf w 11 5) (fieldOf w 8 3) (fieldOf w 5 3))
  | 3 => .ok (.vamoor (fieldOf w 21 5) (fieldOf w 16 5) (fieldOf w 11 5) (fieldOf w 8 3) (fieldOf w 5 3))
  | 4 => .ok (.vamoxor (fieldOf w 21 5) (fieldOf w 16 5) (fieldOf w 11 5) (fieldOf w 8 3) (fieldOf w 5 3))
  | 5 => .ok (.vamomin (fieldOf w 21 5) (fieldOf w 16 5) (fieldOf w 11 5) (fieldOf w 8 3) (fieldOf w 5 3))
  | 6 => .ok (.vamomax (fieldOf w 21 5) (fieldOf w 16 5) (fieldOf w 11 5) (fieldOf w 8 3) (fieldOf w 5 3))
  | 7 => .ok (.vamominn (fieldOf w 21 5) (fieldOf w 16 5) (fieldOf w 11 5) (fieldOf w 8 3) (fieldOf w 5 3))
  | 8 => .ok (.vamomaxn (fieldOf w 21 5) (fieldOf w 16 5) (fieldOf w 11 5) (fieldOf w 8 3) (fieldOf w 5 3))
  | 9 => .ok (.vredaddIdx (fieldOf w 21 5) (fieldOf w 16 5) (fieldOf w 11 5) (fieldOf w 8 3) (fieldOf w 5 3))
  | 10 => .ok (.vredandIdx (fieldOf w 21 5) (fieldOf w 16 5) (fieldOf w 11 5) (fieldOf w 8 3) (fieldOf w 5 3))
  | 11 => .ok (.vredorIdx (fieldOf w 21 5) (fieldOf w 16 5) (fieldOf w 11 5) (fieldOf w 8 3) (fieldOf w 5 3))
  | 12 => .ok (.vredxorIdx (fieldOf w 21 5) (fieldOf w 16 5) (fieldOf w 11 5) (fieldOf w 8 3) (fieldOf w 5 3))
  | 13 => .ok (.vredminIdx (fieldOf w 21 5) (fieldOf w 16 5) (fieldOf w 11 5) (fieldOf w 8 3) (fieldOf w 5 3))
  | 14 => .ok (.vredmaxIdx (fieldOf w 21 5) (fieldOf w 16 5) (fieldOf w 11 5) (fieldOf w 8 3) (fieldOf w 5 3))
  | 15 => .ok (.vredminnIdx (fieldOf w 21 5) (fieldOf w 16 5) (fieldOf w 11 5) (fieldOf w 8 3) (fieldOf w 5 3))
  | 16 => .ok (.vredmaxnIdx (fieldOf w 21 5) (fieldOf w 16 5) (fieldOf w 11 5) (fieldOf w 8 3) (fieldOf w 5 3))
  | _ => .ok (.vredOrdAdd (fieldOf w 21 5) (fieldOf w 16 5) (fieldOf w 11 5) (fieldOf w 8 3) (fieldOf w 5 3) (fieldOf w 0 5))

/-- Words of major opcode 0x18 (R59). -/
def decodeOp18 (w : Nat) : Except Reject Instr :=
  .ok (.beq (fieldOf w 21 5) (fieldOf w 16 5) (fieldOf w 0 16))

/-- Words of major opcode 0x19 (R59). -/
def decodeOp19 (w : Nat) : Except Reject Instr :=
  .ok (.bne (fieldOf w 21 5) (fieldOf w 16 5) (fieldOf w 0 16))

/-- Words of major opcode 0x1A (R59). -/
def decodeOp1A (w : Nat) : Except Reject Instr :=
  .ok (.blt (fieldOf w 21 5) (fieldOf w 16 5) (fieldOf w 0 16))

/-- Words of major opcode 0x1B (R59). -/
def decodeOp1B (w : Nat) : Except Reject Instr :=
  .ok (.bge (fieldOf w 21 5) (fieldOf w 16 5) (fieldOf w 0 16))

/-- Words of major opcode 0x1C (R59). -/
def decodeOp1C (w : Nat) : Except Reject Instr :=
  .ok (.bltn (fieldOf w 21 5) (fieldOf w 16 5) (fieldOf w 0 16))

/-- Words of major opcode 0x1D (R59). -/
def decodeOp1D (w : Nat) : Except Reject Instr :=
  .ok (.bgen (fieldOf w 21 5) (fieldOf w 16 5) (fieldOf w 0 16))

/-- Words of major opcode 0x1E (R59). -/
def decodeOp1E (w : Nat) : Except Reject Instr :=
  .ok (.jal (fieldOf w 21 5) (fieldOf w 0 21))

/-- Words of major opcode 0x1F (R59). -/
def decodeOp1F (w : Nat) : Except Reject Instr :=
  .ok (.jalr (fieldOf w 21 5) (fieldOf w 16 5) (fieldOf w 0 16))

/-- Words of major opcode 0x20 (R59). -/
def decodeOp20 (w : Nat) : Except Reject Instr :=
  match w % 32 with
  | 0 => .ok (.vadd (fieldOf w 21 5) (fieldOf w 16 5) (fieldOf w 11 5) (fieldOf w 8 3) (fieldOf w 5 3))
  | 1 => .ok (.vsub (fieldOf w 21 5) (fieldOf w 16 5) (fieldOf w 11 5) (fieldOf w 8 3) (fieldOf w 5 3))
  | 2 => .ok (.vmul (fieldOf w 21 5) (fieldOf w 16 5) (fieldOf w 11 5) (fieldOf w 8 3) (fieldOf w 5 3))
  | 3 => .ok (.vmulh (fieldOf w 21 5) (fieldOf w 16 5) (fieldOf w 11 5) (fieldOf w 8 3) (fieldOf w 5 3))
  | 4 => .ok (.vmulhn (fieldOf w 21 5) (fieldOf w 16 5) (fieldOf w 11 5) (fieldOf w 8 3) (fieldOf w 5 3))
  | 5 => .ok (.vand (fieldOf w 21 5) (fieldOf w 16 5) (fieldOf w 11 5) (fieldOf w 8 3) (fieldOf w 5 3))
  | 6 => .ok (.vor (fieldOf w 21 5) (fieldOf w 16 5) (fieldOf w 11 5) (fieldOf w 8 3) (fieldOf w 5 3))
  | 7 => .ok (.vxor (fieldOf w 21 5) (fieldOf w 16 5) (fieldOf w 11 5) (fieldOf w 8 3) (fieldOf w 5 3))
  | 8 => .ok (.vsll (fieldOf w 21 5) (fieldOf w 16 5) (fieldOf w 11 5) (fieldOf w 8 3) (fieldOf w 5 3))
  | 9 => .ok (.vsrl (fieldOf w 21 5) (fieldOf w 16 5) (fieldOf w 11 5) (fieldOf w 8 3) (fieldOf w 5 3))
  | 10 => .ok (.vsra (fieldOf w 21 5) (fieldOf w 16 5) (fieldOf w 11 5) (fieldOf w 8 3) (fieldOf w 5 3))
  | 11 => .ok (.vmin (fieldOf w 21 5) (fieldOf w 16 5) (fieldOf w 11 5) (fieldOf w 8 3) (fieldOf w 5 3))
  | 12 => .ok (.vmax (fieldOf w 21 5) (fieldOf w 16 5) (fieldOf w 11 5) (fieldOf w 8 3) (fieldOf w 5 3))
  | 13 => .ok (.vminn (fieldOf w 21 5) (fieldOf w 16 5) (fieldOf w 11 5) (fieldOf w 8 3) (fieldOf w 5 3))
  | 14 => .ok (.vmaxn (fieldOf w 21 5) (fieldOf w 16 5) (fieldOf w 11 5) (fieldOf w 8 3) (fieldOf w 5 3))
  | 15 => .ok (.vadds (fieldOf w 21 5) (fieldOf w 16 5) (fieldOf w 11 5) (fieldOf w 8 3) (fieldOf w 5 3))
  | 16 => .ok (.vaddsn (fieldOf w 21 5) (fieldOf w 16 5) (fieldOf w 11 5) (fieldOf w 8 3) (fieldOf w 5 3))
  | 17 => .ok (.vsubs (fieldOf w 21 5) (fieldOf w 16 5) (fieldOf w 11 5) (fieldOf w 8 3) (fieldOf w 5 3))
  | 18 => .ok (.vsubsn (fieldOf w 21 5) (fieldOf w 16 5) (fieldOf w 11 5) (fieldOf w 8 3) (fieldOf w 5 3))
  | 19 => if w / 2 ^ 11 % 32 = 0 then .ok (.vabs (fieldOf w 21 5) (fieldOf w 16 5) (fieldOf w 8 3) (fieldOf w 5 3)) else .error .unusedField
  | 20 => if w / 2 ^ 11 % 32 = 0 then .ok (.vneg (fieldOf w 21 5) (fieldOf w 16 5) (fieldOf w 8 3) (fieldOf w 5 3)) else .error .unusedField
  | 21 => if w / 2 ^ 11 % 32 = 0 then .ok (.vclz (fieldOf w 21 5) (fieldOf w 16 5) (fieldOf w 8 3) (fieldOf w 5 3)) else .error .unusedField
  | 22 => if w / 2 ^ 11 % 32 = 0 then .ok (.vpopc (fieldOf w 21 5) (fieldOf w 16 5) (fieldOf w 8 3) (fieldOf w 5 3)) else .error .unusedField
  | 24 => .ok (.vceq (fieldOf w 21 5) (fieldOf w 16 5) (fieldOf w 11 5) (fieldOf w 8 3) (fieldOf w 5 3))
  | 25 => .ok (.vcne (fieldOf w 21 5) (fieldOf w 16 5) (fieldOf w 11 5) (fieldOf w 8 3) (fieldOf w 5 3))
  | 26 => .ok (.vclt (fieldOf w 21 5) (fieldOf w 16 5) (fieldOf w 11 5) (fieldOf w 8 3) (fieldOf w 5 3))
  | 27 => .ok (.vcle (fieldOf w 21 5) (fieldOf w 16 5) (fieldOf w 11 5) (fieldOf w 8 3) (fieldOf w 5 3))
  | 28 => .ok (.vcltn (fieldOf w 21 5) (fieldOf w 16 5) (fieldOf w 11 5) (fieldOf w 8 3) (fieldOf w 5 3))
  | 29 => .ok (.vclen (fieldOf w 21 5) (fieldOf w 16 5) (fieldOf w 11 5) (fieldOf w 8 3) (fieldOf w 5 3))
  | 30 => .ok (.vmerge (fieldOf w 21 5) (fieldOf w 16 5) (fieldOf w 11 5) (fieldOf w 8 3) (fieldOf w 5 3))
  | _ => .error .reservedFn

/-- Words of major opcode 0x21 (R59). -/
def decodeOp21 (w : Nat) : Except Reject Instr :=
  match w % 32 with
  | 0 => .ok (.vfadd (fieldOf w 21 5) (fieldOf w 16 5) (fieldOf w 11 5) (fieldOf w 8 3) (fieldOf w 5 3))
  | 1 => .ok (.vfsub (fieldOf w 21 5) (fieldOf w 16 5) (fieldOf w 11 5) (fieldOf w 8 3) (fieldOf w 5 3))
  | 2 => .ok (.vfmul (fieldOf w 21 5) (fieldOf w 16 5) (fieldOf w 11 5) (fieldOf w 8 3) (fieldOf w 5 3))
  | 3 => .ok (.vfdiv (fieldOf w 21 5) (fieldOf w 16 5) (fieldOf w 11 5) (fieldOf w 8 3) (fieldOf w 5 3))
  | 4 => if w / 2 ^ 11 % 32 = 0 then .ok (.vfsqrt (fieldOf w 21 5) (fieldOf w 16 5) (fieldOf w 8 3) (fieldOf w 5 3)) else .error .unusedField
  | 5 => .ok (.vfmin (fieldOf w 21 5) (fieldOf w 16 5) (fieldOf w 11 5) (fieldOf w 8 3) (fieldOf w 5 3))
  | 6 => .ok (.vfmax (fieldOf w 21 5) (fieldOf w 16 5) (fieldOf w 11 5) (fieldOf w 8 3) (fieldOf w 5 3))
  | 7 => .ok (.vfmac (fieldOf w 21 5) (fieldOf w 16 5) (fieldOf w 11 5) (fieldOf w 8 3) (fieldOf w 5 3))
  | 8 => .ok (.vfmsc (fieldOf w 21 5) (fieldOf w 16 5) (fieldOf w 11 5) (fieldOf w 8 3) (fieldOf w 5 3))
  | 9 => .ok (.vfnmac (fieldOf w 21 5) (fieldOf w 16 5) (fieldOf w 11 5) (fieldOf w 8 3) (fieldOf w 5 3))
  | 10 => if w / 2 ^ 11 % 32 = 0 then .ok (.vfabs (fieldOf w 21 5) (fieldOf w 16 5) (fieldOf w 8 3) (fieldOf w 5 3)) else .error .unusedField
  | 11 => if w / 2 ^ 11 % 32 = 0 then .ok (.vfneg (fieldOf w 21 5) (fieldOf w 16 5) (fieldOf w 8 3) (fieldOf w 5 3)) else .error .unusedField
  | 12 => .ok (.vfsgmv (fieldOf w 21 5) (fieldOf w 16 5) (fieldOf w 11 5) (fieldOf w 8 3) (fieldOf w 5 3))
  | 13 => if w / 2 ^ 11 % 32 = 0 then .ok (.vfrecip (fieldOf w 21 5) (fieldOf w 16 5) (fieldOf w 8 3) (fieldOf w 5 3)) else .error .unusedField
  | 14 => if w / 2 ^ 11 % 32 = 0 then .ok (.vfrsqrt (fieldOf w 21 5) (fieldOf w 16 5) (fieldOf w 8 3) (fieldOf w 5 3)) else .error .unusedField
  | 15 => if w / 2 ^ 11 % 32 = 0 then .ok (.vfexp2 (fieldOf w 21 5) (fieldOf w 16 5) (fieldOf w 8 3) (fieldOf w 5 3)) else .error .unusedField
  | 16 => if w / 2 ^ 11 % 32 = 0 then .ok (.vflog2 (fieldOf w 21 5) (fieldOf w 16 5) (fieldOf w 8 3) (fieldOf w 5 3)) else .error .unusedField
  | 17 => .ok (.vfceq (fieldOf w 21 5) (fieldOf w 16 5) (fieldOf w 11 5) (fieldOf w 8 3) (fieldOf w 5 3))
  | 18 => .ok (.vfclt (fieldOf w 21 5) (fieldOf w 16 5) (fieldOf w 11 5) (fieldOf w 8 3) (fieldOf w 5 3))
  | 19 => .ok (.vfcle (fieldOf w 21 5) (fieldOf w 16 5) (fieldOf w 11 5) (fieldOf w 8 3) (fieldOf w 5 3))
  | 20 => .ok (.vfcun (fieldOf w 21 5) (fieldOf w 16 5) (fieldOf w 11 5) (fieldOf w 8 3) (fieldOf w 5 3))
  | 21 => if w / 2 ^ 11 % 32 = 0 then .ok (.vfkind (fieldOf w 21 5) (fieldOf w 16 5) (fieldOf w 8 3) (fieldOf w 5 3)) else .error .unusedField
  | _ => .error .reservedFn

/-- Words of major opcode 0x22 (R59). -/
def decodeOp22 (w : Nat) : Except Reject Instr :=
  match w / 2 ^ 3 % 4 with
  | 0 => if w / 2 ^ 11 % 32 = 0 then .ok (.vcvt (fieldOf w 21 5) (fieldOf w 16 5) (fieldOf w 8 3) (fieldOf w 5 3) (fieldOf w 0 3)) else .error .unusedField
  | 1 => if w / 2 ^ 11 % 32 = 0 then .ok (.vcvtSr (fieldOf w 21 5) (fieldOf w 16 5) (fieldOf w 8 3) (fieldOf w 5 3) (fieldOf w 0 3)) else .error .unusedField
  | 2 => if w / 2 ^ 2 % 2 = 0 ∧ w / 2 ^ 11 % 32 = 0 then .ok (.vcvtmWiden (fieldOf w 21 5) (fieldOf w 16 5) (fieldOf w 8 3) (fieldOf w 5 3) (fieldOf w 0 2)) else if w / 2 ^ 2 % 2 = 1 ∧ w / 2 ^ 11 % 32 = 0 then .ok (.vcvtmNarrow (fieldOf w 21 5) (fieldOf w 16 5) (fieldOf w 8 3) (fieldOf w 5 3) (fieldOf w 0 2)) else .error .unusedField
  | 3 => .ok (.vwmul (fieldOf w 21 5) (fieldOf w 16 5) (fieldOf w 11 5) (fieldOf w 8 3) (fieldOf w 5 3) (fieldOf w 0 3))
  | _ => .error .reservedFn

/-- Words of major opcode 0x23 (R59). -/
noncomputable def decodeOp23 (w : Nat) : Except Reject Instr :=
  match w % 32 with
  | 0 => .ok (.vperm (fieldOf w 21 5) (fieldOf w 16 5) (fieldOf w 11 5) (fieldOf w 8 3) (fieldOf w 5 3))
  | 1 => .ok (.velsh (fieldOf w 21 5) (fieldOf w 16 5) (fieldOf w 11 5) (fieldOf w 8 3) (fieldOf w 5 3))
  | 2 => .ok (.velrot (fieldOf w 21 5) (fieldOf w 16 5) (fieldOf w 11 5) (fieldOf w 8 3) (fieldOf w 5 3))
  | 3 => if w / 2 ^ 11 % 32 = 0 then .ok (.vredsum (fieldOf w 21 5) (fieldOf w 16 5) (fieldOf w 8 3) (fieldOf w 5 3)) else .error .unusedField
  | 4 => if w / 2 ^ 11 % 32 = 0 then .ok (.vredmin (fieldOf w 21 5) (fieldOf w 16 5) (fieldOf w 8 3) (fieldOf w 5 3)) else .error .unusedField
  | 5 => if w / 2 ^ 11 % 32 = 0 then .ok (.vredmax (fieldOf w 21 5) (fieldOf w 16 5) (fieldOf w 8 3) (fieldOf w 5 3)) else .error .unusedField
  | 6 => if w / 2 ^ 11 % 32 = 0 then .ok (.vredminn (fieldOf w 21 5) (fieldOf w 16 5) (fieldOf w 8 3) (fieldOf w 5 3)) else .error .unusedField
  | 7 => if w / 2 ^ 11 % 32 = 0 then .ok (.vredmaxn (fieldOf w 21 5) (fieldOf w 16 5) (fieldOf w 8 3) (fieldOf w 5 3)) else .error .unusedField
  | 8 => if w / 2 ^ 11 % 32 = 0 then .ok (.vredand (fieldOf w 21 5) (fieldOf w 16 5) (fieldOf w 8 3) (fieldOf w 5 3)) else .error .unusedField
  | 9 => if w / 2 ^ 11 % 32 = 0 then .ok (.vredor (fieldOf w 21 5) (fieldOf w 16 5) (fieldOf w 8 3) (fieldOf w 5 3)) else .error .unusedField
  | 10 => if w / 2 ^ 11 % 32 = 0 then .ok (.vscan (fieldOf w 21 5) (fieldOf w 16 5) (fieldOf w 8 3) (fieldOf w 5 3)) else .error .unusedField
  | 11 => .ok (.vsegsum (fieldOf w 21 5) (fieldOf w 16 5) (fieldOf w 11 5) (fieldOf w 8 3) (fieldOf w 5 3))
  | 12 => if w / 2 ^ 11 % 1024 = 0 then .ok (.vrand (fieldOf w 21 5) (fieldOf w 8 3) (fieldOf w 5 3)) else .error .unusedField
  | 13 => if w / 2 ^ 8 % 8 = 0 then .ok (.vmvx (fieldOf w 21 5) (fieldOf w 16 5) (fieldOf w 11 5) (fieldOf w 5 3)) else .error .unusedField
  | 14 => if w / 2 ^ 8 % 8 = 0 then .ok (.vmvv (fieldOf w 21 5) (fieldOf w 16 5) (fieldOf w 11 5) (fieldOf w 5 3)) else .error .unusedField
  | 15 => if w / 2 ^ 11 % 32 = 0 then .ok (.vbcast (fieldOf w 21 5) (fieldOf w 16 5) (fieldOf w 8 3) (fieldOf w 5 3)) else .error .unusedField
  | 16 => if w / 2 ^ 11 % 32 = 0 then .ok (.vsqueeze (fieldOf w 21 5) (fieldOf w 16 5) (fieldOf w 8 3) (fieldOf w 5 3)) else .error .unusedField
  | 17 => .ok (.vindex (fieldOf w 21 5) (fieldOf w 16 5) (fieldOf w 11 5) (fieldOf w 8 3) (fieldOf w 5 3))
  | _ => .error .reservedFn

/-- Words of major opcode 0x24 (R59). -/
noncomputable def decodeOp24 (w : Nat) : Except Reject Instr :=
  match w % 32 with
  | 0 => if w / 2 ^ 5 % 64 = 0 then .ok (.mand (fieldOf w 21 5) (fieldOf w 16 5) (fieldOf w 11 5)) else .error .unusedField
  | 1 => if w / 2 ^ 5 % 64 = 0 then .ok (.mor (fieldOf w 21 5) (fieldOf w 16 5) (fieldOf w 11 5)) else .error .unusedField
  | 2 => if w / 2 ^ 5 % 64 = 0 then .ok (.mxor (fieldOf w 21 5) (fieldOf w 16 5) (fieldOf w 11 5)) else .error .unusedField
  | 3 => if w / 2 ^ 5 % 64 = 0 then .ok (.mandn (fieldOf w 21 5) (fieldOf w 16 5) (fieldOf w 11 5)) else .error .unusedField
  | 4 => if w / 2 ^ 5 % 2048 = 0 then .ok (.mnot (fieldOf w 21 5) (fieldOf w 16 5)) else .error .unusedField
  | 5 => if w / 2 ^ 5 % 65536 = 0 then .ok (.mset (fieldOf w 21 5)) else .error .unusedField
  | 6 => if w / 2 ^ 5 % 65536 = 0 then .ok (.mclr (fieldOf w 21 5)) else .error .unusedField
  | 7 => if w / 2 ^ 5 % 2048 = 0 then .ok (.mcnt (fieldOf w 21 5) (fieldOf w 16 5)) else .error .unusedField
  | 8 => if w / 2 ^ 5 % 2048 = 0 then .ok (.many (fieldOf w 21 5) (fieldOf w 16 5)) else .error .unusedField
  | 9 => if w / 2 ^ 5 % 2048 = 0 then .ok (.mfirst (fieldOf w 21 5) (fieldOf w 16 5)) else .error .unusedField
  | _ => .error .reservedFn

/-- Words of major opcode 0x25 (R59). -/
noncomputable def decodeOp25 (w : Nat) : Except Reject Instr :=
  match w % 16 with
  | 0 => .ok (.vaddVx (fieldOf w 21 5) (fieldOf w 16 5) (fieldOf w 11 5) (fieldOf w 8 3) (fieldOf w 5 3) (fieldOf w 4 1))
  | 1 => .ok (.vsubVx (fieldOf w 21 5) (fieldOf w 16 5) (fieldOf w 11 5) (fieldOf w 8 3) (fieldOf w 5 3) (fieldOf w 4 1))
  | 2 => .ok (.vrsubVx (fieldOf w 21 5) (fieldOf w 16 5) (fieldOf w 11 5) (fieldOf w 8 3) (fieldOf w 5 3) (fieldOf w 4 1))
  | 3 => .ok (.vmulVx (fieldOf w 21 5) (fieldOf w 16 5) (fieldOf w 11 5) (fieldOf w 8 3) (fieldOf w 5 3) (fieldOf w 4 1))
  | 4 => .ok (.vandVx (fieldOf w 21 5) (fieldOf w 16 5) (fieldOf w 11 5) (fieldOf w 8 3) (fieldOf w 5 3) (fieldOf w 4 1))
  | 5 => .ok (.vorVx (fieldOf w 21 5) (fieldOf w 16 5) (fieldOf w 11 5) (fieldOf w 8 3) (fieldOf w 5 3) (fieldOf w 4 1))
  | 6 => .ok (.vxorVx (fieldOf w 21 5) (fieldOf w 16 5) (fieldOf w 11 5) (fieldOf w 8 3) (fieldOf w 5 3) (fieldOf w 4 1))
  | 7 => .ok (.vsllVx (fieldOf w 21 5) (fieldOf w 16 5) (fieldOf w 11 5) (fieldOf w 8 3) (fieldOf w 5 3) (fieldOf w 4 1))
  | 8 => .ok (.vsrlVx (fieldOf w 21 5) (fieldOf w 16 5) (fieldOf w 11 5) (fieldOf w 8 3) (fieldOf w 5 3) (fieldOf w 4 1))
  | 9 => .ok (.vsraVx (fieldOf w 21 5) (fieldOf w 16 5) (fieldOf w 11 5) (fieldOf w 8 3) (fieldOf w 5 3) (fieldOf w 4 1))
  | 10 => .ok (.vminVx (fieldOf w 21 5) (fieldOf w 16 5) (fieldOf w 11 5) (fieldOf w 8 3) (fieldOf w 5 3) (fieldOf w 4 1))
  | 11 => .ok (.vmaxVx (fieldOf w 21 5) (fieldOf w 16 5) (fieldOf w 11 5) (fieldOf w 8 3) (fieldOf w 5 3) (fieldOf w 4 1))
  | 12 => if w / 2 ^ 4 % 2 = 0 then .ok (.vfaddVx (fieldOf w 21 5) (fieldOf w 16 5) (fieldOf w 11 5) (fieldOf w 8 3) (fieldOf w 5 3)) else .error .unusedField
  | 13 => if w / 2 ^ 4 % 2 = 0 then .ok (.vfmulVx (fieldOf w 21 5) (fieldOf w 16 5) (fieldOf w 11 5) (fieldOf w 8 3) (fieldOf w 5 3)) else .error .unusedField
  | 14 => if w / 2 ^ 4 % 2 = 0 then .ok (.vfmacVx (fieldOf w 21 5) (fieldOf w 16 5) (fieldOf w 11 5) (fieldOf w 8 3) (fieldOf w 5 3)) else .error .unusedField
  | 15 => .ok (.vceqVx (fieldOf w 21 5) (fieldOf w 16 5) (fieldOf w 11 5) (fieldOf w 8 3) (fieldOf w 5 3) (fieldOf w 4 1))
  | _ => .error .reservedFn

/-- Words of major opcode 0x28 (R59). -/
noncomputable def decodeOp28 (w : Nat) : Except Reject Instr :=
  match w / 2 ^ 21 % 4 with
  | 0 => .ok (.mop (fieldOf w 23 3) (fieldOf w 16 5) (fieldOf w 11 5) (fieldOf w 8 3) (fieldOf w 5 3) (fieldOf w 0 5))
  | 1 => .ok (.mops (fieldOf w 23 3) (fieldOf w 16 5) (fieldOf w 11 5) (fieldOf w 8 3) (fieldOf w 5 3) (fieldOf w 0 5))
  | _ => .error .reservedFn

/-- Words of major opcode 0x29 (R59). -/
noncomputable def decodeOp29 (w : Nat) : Except Reject Instr :=
  match w / 2 ^ 21 % 4 with
  | 0 => .ok (.mopx (fieldOf w 23 3) (fieldOf w 16 5) (fieldOf w 11 5) (fieldOf w 8 3) (fieldOf w 5 3) (fieldOf w 0 5))
  | 1 => .ok (.mopxs (fieldOf w 23 3) (fieldOf w 16 5) (fieldOf w 11 5) (fieldOf w 8 3) (fieldOf w 5 3) (fieldOf w 0 5))
  | _ => .error .reservedFn

/-- Words of major opcode 0x2A (R59). -/
noncomputable def decodeOp2A (w : Nat) : Except Reject Instr :=
  match w / 2 ^ 21 % 4 with
  | 0 => .ok (.mopsp (fieldOf w 23 3) (fieldOf w 16 5) (fieldOf w 11 5) (fieldOf w 8 3) (fieldOf w 5 3) (fieldOf w 0 5))
  | 1 => .ok (.mopi (fieldOf w 23 3) (fieldOf w 16 5) (fieldOf w 11 5) (fieldOf w 8 3) (fieldOf w 5 3) (fieldOf w 0 5))
  | 2 => .ok (.mopiSat (fieldOf w 23 3) (fieldOf w 16 5) (fieldOf w 11 5) (fieldOf w 8 3) (fieldOf w 5 3) (fieldOf w 0 5))
  | _ => .error .reservedFn

/-- Words of major opcode 0x2B (R59). -/
noncomputable def decodeOp2B (w : Nat) : Except Reject Instr :=
  match w % 32 with
  | 0 => if w / 2 ^ 5 % 262144 = 0 then .ok (.acczero (fieldOf w 23 3)) else .error .unusedField
  | 1 => if w / 2 ^ 5 % 64 = 0 ∧ w / 2 ^ 21 % 4 = 0 then .ok (.accrd (fieldOf w 23 3) (fieldOf w 16 5) (fieldOf w 11 5)) else .error .unusedField
  | 2 => if w / 2 ^ 5 % 64 = 0 ∧ w / 2 ^ 21 % 4 = 0 then .ok (.accwr (fieldOf w 23 3) (fieldOf w 16 5) (fieldOf w 11 5)) else .error .unusedField
  | 3 => if w / 2 ^ 5 % 2 = 0 then .ok (.accpro (fieldOf w 23 3) (fieldOf w 21 2) (fieldOf w 16 5) (fieldOf w 11 5) (fieldOf w 6 5)) else .error .unusedField
  | 4 => if w / 2 ^ 5 % 2048 = 0 ∧ w / 2 ^ 21 % 4 = 0 then .ok (.accld (fieldOf w 23 3) (fieldOf w 16 5)) else .error .unusedField
  | 5 => if w / 2 ^ 5 % 2048 = 0 ∧ w / 2 ^ 21 % 4 = 0 then .ok (.accst (fieldOf w 23 3) (fieldOf w 16 5)) else .error .unusedField
  | 6 => if w / 2 ^ 5 % 64 = 0 ∧ w / 2 ^ 14 % 512 = 0 then .ok (.accmov (fieldOf w 23 3) (fieldOf w 11 3)) else .error .unusedField
  | 7 => if w / 2 ^ 5 % 64 = 0 ∧ w / 2 ^ 14 % 128 = 0 then .ok (.accadd (fieldOf w 23 3) (fieldOf w 21 2) (fieldOf w 11 3)) else .error .unusedField
  | 8 => if w / 2 ^ 5 % 2048 = 0 ∧ w / 2 ^ 21 % 32 = 0 then .ok (.accsave (fieldOf w 16 5)) else .error .unusedField
  | 9 => if w / 2 ^ 5 % 2048 = 0 ∧ w / 2 ^ 21 % 32 = 0 then .ok (.accrest (fieldOf w 16 5)) else .error .unusedField
  | _ => .error .reservedFn

/-- Words of major opcode 0x30 (R59). -/
noncomputable def decodeOp30 (w : Nat) : Except Reject Instr :=
  match w / 2 ^ 4 % 8 with
  | 0 => .ok (.cpy (fieldOf w 21 5) (fieldOf w 16 5) (fieldOf w 11 5) (fieldOf w 7 4) (fieldOf w 2 2) (fieldOf w 0 2))
  | 1 => .ok (.cpy2 (fieldOf w 21 5) (fieldOf w 16 5) (fieldOf w 11 5) (fieldOf w 7 4) (fieldOf w 2 2) (fieldOf w 0 2))
  | 2 => if w % 4 = 0 then .ok (.cpyxG (fieldOf w 21 5) (fieldOf w 16 5) (fieldOf w 11 5) (fieldOf w 7 4) (fieldOf w 2 2)) else .error .unusedField
  | 3 => if w % 4 = 0 then .ok (.cpyxS (fieldOf w 21 5) (fieldOf w 16 5) (fieldOf w 11 5) (fieldOf w 7 4) (fieldOf w 2 2)) else .error .unusedField
  | 4 => .ok (.cpyM (fieldOf w 21 5) (fieldOf w 16 5) (fieldOf w 11 5) (fieldOf w 7 4) (fieldOf w 2 2) (fieldOf w 0 2))
  | 5 => .ok (.cpy2M (fieldOf w 21 5) (fieldOf w 16 5) (fieldOf w 11 5) (fieldOf w 7 4) (fieldOf w 2 2) (fieldOf w 0 2))
  | 6 => if w % 4 = 0 then .ok (.cpyxGM (fieldOf w 21 5) (fieldOf w 16 5) (fieldOf w 11 5) (fieldOf w 7 4) (fieldOf w 2 2)) else .error .unusedField
  | _ => .error .reservedFn

/-- Words of major opcode 0x31 (R59). -/
noncomputable def decodeOp31 (w : Nat) : Except Reject Instr :=
  match w / 2 ^ 4 % 8 with
  | 0 => if w % 4 = 0 ∧ w / 2 ^ 11 % 32 = 0 ∧ w / 2 ^ 21 % 32 = 0 then .ok (.ccwait (fieldOf w 16 5) (fieldOf w 7 4) (fieldOf w 2 2)) else .error .unusedField
  | 1 => if w % 4 = 0 ∧ w / 2 ^ 11 % 1024 = 0 then .ok (.ccrd (fieldOf w 21 5) (fieldOf w 7 4) (fieldOf w 2 2)) else .error .unusedField
  | 2 => if w % 4 = 0 ∧ w / 2 ^ 11 % 32 = 0 ∧ w / 2 ^ 21 % 32 = 0 then .ok (.ccset (fieldOf w 16 5) (fieldOf w 7 4) (fieldOf w 2 2)) else .error .unusedField
  | 3 => if w / 2 ^ 11 % 1024 = 0 then .ok (.sgbind (fieldOf w 21 5) (fieldOf w 7 4) (fieldOf w 2 2) (fieldOf w 0 2)) else .error .unusedField
  | 4 => if w % 4 = 0 ∧ w / 2 ^ 11 % 32768 = 0 then .ok (.sgunbind (fieldOf w 7 4) (fieldOf w 2 2)) else .error .unusedField
  | 5 => if w % 4 = 0 then .ok (.subscribe (fieldOf w 21 5) (fieldOf w 16 5) (fieldOf w 11 5) (fieldOf w 7 4) (fieldOf w 2 2)) else .error .unusedField
  | 6 => if w % 4 = 0 ∧ w / 2 ^ 11 % 32768 = 0 then .ok (.unsub (fieldOf w 7 4) (fieldOf w 2 2)) else if w % 4 = 1 ∧ w / 2 ^ 11 % 32768 = 0 then .ok (.unsubPub (fieldOf w 7 4) (fieldOf w 2 2)) else .error .unusedField
  | 7 => if w % 4 = 0 ∧ w / 2 ^ 7 % 524288 = 0 then .ok (.subflush (fieldOf w 2 2)) else .error .unusedField
  | _ => .error .reservedFn

/-- Words of major opcode 0x32 (R59). -/
noncomputable def decodeOp32 (w : Nat) : Except Reject Instr :=
  match w % 256 with
  | 0 => if w / 2 ^ 8 % 256 = 0 ∧ w / 2 ^ 21 % 32 = 0 then .ok (.barrArrive (fieldOf w 16 5)) else .error .unusedField
  | 1 => if w / 2 ^ 8 % 256 = 0 ∧ w / 2 ^ 21 % 32 = 0 then .ok (.barrWait (fieldOf w 16 5)) else .error .unusedField
  | 2 => if w / 2 ^ 8 % 256 = 0 ∧ w / 2 ^ 21 % 32 = 0 then .ok (.barrArriveSpan (fieldOf w 16 5)) else .error .unusedField
  | 3 => if w / 2 ^ 8 % 256 = 0 ∧ w / 2 ^ 21 % 32 = 0 then .ok (.barrWaitSpan (fieldOf w 16 5)) else .error .unusedField
  | 4 => if w / 2 ^ 8 % 262144 = 0 then .ok (.barrArriveGang) else .error .unusedField
  | 5 => if w / 2 ^ 8 % 262144 = 0 then .ok (.barrWaitGang) else .error .unusedField
  | 8 => if w / 2 ^ 8 % 8 = 0 then .ok (.pause (fieldOf w 11 15)) else .error .unusedField
  | 9 => if w / 2 ^ 8 % 256 = 0 then .ok (.recv (fieldOf w 21 5) (fieldOf w 16 5)) else .error .unusedField
  | 16 => if w / 2 ^ 8 % 8 = 0 ∧ w / 2 ^ 21 % 32 = 0 then .ok (.launch (fieldOf w 16 5) (fieldOf w 11 5)) else .error .unusedField
  | 17 => if w / 2 ^ 8 % 8 = 0 then .ok (.launchR (fieldOf w 21 5) (fieldOf w 16 5) (fieldOf w 11 5)) else .error .unusedField
  | 18 => if w / 2 ^ 8 % 256 = 0 ∧ w / 2 ^ 21 % 32 = 0 then .ok (.join (fieldOf w 16 5)) else .error .unusedField
  | 19 => if w / 2 ^ 8 % 262144 = 0 then .ok (.gexit) else .error .unusedField
  | 20 => if w / 2 ^ 8 % 262144 = 0 then .ok (.yield) else .error .unusedField
  | _ => .error .reservedFn

/-- Words of major opcode 0x38 (R59). -/
noncomputable def decodeOp38 (w : Nat) : Except Reject Instr :=
  match w % 16 with
  | 0 => if w / 2 ^ 16 % 32 = 0 then .ok (.rdctl (fieldOf w 21 5) (fieldOf w 4 12)) else .error .unusedField
  | 1 => if w / 2 ^ 21 % 32 = 0 then .ok (.wrctl (fieldOf w 16 5) (fieldOf w 4 12)) else .error .unusedField
  | 2 => if w / 2 ^ 21 % 32 = 0 then .ok (.setctl (fieldOf w 16 5) (fieldOf w 4 12)) else .error .unusedField
  | 3 => if w / 2 ^ 21 % 32 = 0 then .ok (.clrctl (fieldOf w 16 5) (fieldOf w 4 12)) else .error .unusedField
  | 4 => if w / 2 ^ 7 % 512 = 0 then .ok (.setvl (fieldOf w 21 5) (fieldOf w 16 5) (fieldOf w 4 3)) else .error .unusedField
  | 5 => if w / 2 ^ 4 % 4096 = 0 then .ok (.setml (fieldOf w 21 5) (fieldOf w 16 5)) else .error .unusedField
  | 6 => if w / 2 ^ 16 % 1024 = 0 then .ok (.trap (fieldOf w 4 12)) else .error .unusedField
  | 7 => if w / 2 ^ 4 % 4194304 = 0 then .ok (.eret) else .error .unusedField
  | 8 => if w / 2 ^ 4 % 4194304 = 0 then .ok (.fenceI) else .error .unusedField
  | 9 => if w / 2 ^ 4 % 4194304 = 0 then .ok (.preempt) else .error .unusedField
  | 10 => if w / 2 ^ 4 % 4096 = 0 ∧ w / 2 ^ 21 % 32 = 0 then .ok (.gkill (fieldOf w 16 5)) else .error .unusedField
  | 11 => if w / 2 ^ 4 % 131072 = 0 then .ok (.sfqpop (fieldOf w 21 5)) else .error .unusedField
  | 12 => if w / 2 ^ 4 % 4096 = 0 ∧ w / 2 ^ 21 % 32 = 0 then .ok (.tlbinv (fieldOf w 16 5)) else .error .unusedField
  | 13 => if w / 2 ^ 4 % 4096 = 0 ∧ w / 2 ^ 21 % 32 = 0 then .ok (.hinv (fieldOf w 16 5)) else .error .unusedField
  | 14 => if w / 2 ^ 4 % 4194304 = 0 then .ok (.ebreak) else .error .unusedField
  | 15 => if w / 2 ^ 4 % 4194304 = 0 then .ok (.halt) else .error .unusedField
  | _ => .error .reservedFn

/-- The long forms of major opcode 0x3F with their second word `v` (R53, R68). -/
def decodeOp3F (w v : Nat) : Except Reject Instr :=
  match w / 256 % 256 with
  | 0 => if w / 2 ^ 16 % 32 = 0 ∧ w % 256 = 0 then .ok (.lim (fieldOf w 21 5) (fieldOf v 0 32)) else .error .unusedField
  | 1 => if w / 2 ^ 16 % 32 = 0 ∧ w % 256 = 0 then .ok (.lea (fieldOf w 21 5) (fieldOf v 0 32)) else .error .unusedField
  | 2 => if w / 2 ^ 16 % 32 = 0 ∧ w % 256 = 0 then .ok (.callFar (fieldOf w 21 5) (fieldOf v 0 32)) else .error .unusedField
  | _ => .error .reservedFn

/-- The fields of a word by its major opcode, before the static check; `v` is the word after it, which only a long
form reads. -/
noncomputable def decodeFields (w v : Nat) : Except Reject Instr :=
  match w / 2 ^ 26 with
  | 0x01 => decodeOp01 w
  | 0x02 => decodeOp02 w
  | 0x03 => decodeOp03 w
  | 0x04 => decodeOp04 w
  | 0x05 => decodeOp05 w
  | 0x06 => decodeOp06 w
  | 0x07 => decodeOp07 w
  | 0x08 => decodeOp08 w
  | 0x09 => decodeOp09 w
  | 0x0A => decodeOp0A w
  | 0x0B => decodeOp0B w
  | 0x0C => decodeOp0C w
  | 0x10 => decodeOp10 w
  | 0x11 => decodeOp11 w
  | 0x12 => decodeOp12 w
  | 0x13 => decodeOp13 w
  | 0x14 => decodeOp14 w
  | 0x15 => decodeOp15 w
  | 0x16 => decodeOp16 w
  | 0x17 => decodeOp17 w
  | 0x18 => decodeOp18 w
  | 0x19 => decodeOp19 w
  | 0x1A => decodeOp1A w
  | 0x1B => decodeOp1B w
  | 0x1C => decodeOp1C w
  | 0x1D => decodeOp1D w
  | 0x1E => decodeOp1E w
  | 0x1F => decodeOp1F w
  | 0x20 => decodeOp20 w
  | 0x21 => decodeOp21 w
  | 0x22 => decodeOp22 w
  | 0x23 => decodeOp23 w
  | 0x24 => decodeOp24 w
  | 0x25 => decodeOp25 w
  | 0x28 => decodeOp28 w
  | 0x29 => decodeOp29 w
  | 0x2A => decodeOp2A w
  | 0x2B => decodeOp2B w
  | 0x30 => decodeOp30 w
  | 0x31 => decodeOp31 w
  | 0x32 => decodeOp32 w
  | 0x38 => decodeOp38 w
  | 0x3F => decodeOp3F w v
  | _ => .error .reservedOp

/-- An instruction that passes its static check, and by name why it does not. -/
def passChecks (i : Instr) : Except Reject Instr :=
  match i.check with
  | none => .ok i
  | some r => .error r

/-- The instruction of the word `w` (R71 step 2 without the checks that depend on VL). -/
noncomputable def decodeWord (w v : Nat) : Except Reject Instr :=
  match decodeFields w v with
  | .ok i => passChecks i
  | .error r => .error r

/-- A word that begins a long form (R53). -/
def isLong (w : Nat) : Bool := w / 2 ^ 26 == 0x3F

/-- Four bytes as a little-endian word (R4, R52). -/
def wordOfBytes (b0 b1 b2 b3 : Byte) : Nat :=
  b0.toNat + b1.toNat * 2 ^ 8 + b2.toNat * 2 ^ 16 + b3.toNat * 2 ^ 24

/-- Decoding of the bytes at the PC, any bytes at all: too few of them are `truncated`. -/
noncomputable def decode (bs : List Byte) : Except Reject Instr :=
  match bs with
  | b0 :: b1 :: b2 :: b3 :: rest =>
    let w := wordOfBytes b0 b1 b2 b3
    if isLong w then
      match rest with
      | c0 :: c1 :: c2 :: c3 :: _ => decodeWord w (wordOfBytes c0 c1 c2 c3)
      | _ => .error .truncated
    else decodeWord w 0
  | _ => .error .truncated

/-- A field's place in a word. -/
def place {n : Nat} (x : BitVec n) (lo : Nat) : Nat := x.toNat * 2 ^ lo
/-- Words with one to six fields placed over their fixed bits `m` (R54). -/
def enc1 {n1 : Nat} (m : Nat) (x1 : BitVec n1) (l1 : Nat) : Nat := m + place x1 l1
/-- Two fields. -/
def enc2 {n1 n2 : Nat} (m : Nat) (x1 : BitVec n1) (l1 : Nat) (x2 : BitVec n2) (l2 : Nat) : Nat :=
  enc1 m x1 l1 + place x2 l2
/-- Three fields. -/
def enc3 {n1 n2 n3 : Nat} (m : Nat) (x1 : BitVec n1) (l1 : Nat) (x2 : BitVec n2) (l2 : Nat) (x3 : BitVec n3) (l3 : Nat) :
    Nat := enc2 m x1 l1 x2 l2 + place x3 l3
/-- Four fields. -/
def enc4 {n1 n2 n3 n4 : Nat} (m : Nat) (x1 : BitVec n1) (l1 : Nat) (x2 : BitVec n2) (l2 : Nat) (x3 : BitVec n3) (l3 : Nat)
    (x4 : BitVec n4) (l4 : Nat) : Nat := enc3 m x1 l1 x2 l2 x3 l3 + place x4 l4
/-- Five fields. -/
def enc5 {n1 n2 n3 n4 n5 : Nat} (m : Nat) (x1 : BitVec n1) (l1 : Nat) (x2 : BitVec n2) (l2 : Nat) (x3 : BitVec n3) (l3 : Nat)
    (x4 : BitVec n4) (l4 : Nat) (x5 : BitVec n5) (l5 : Nat) : Nat := enc4 m x1 l1 x2 l2 x3 l3 x4 l4 + place x5 l5
/-- Six fields. -/
def enc6 {n1 n2 n3 n4 n5 n6 : Nat} (m : Nat) (x1 : BitVec n1) (l1 : Nat) (x2 : BitVec n2) (l2 : Nat) (x3 : BitVec n3) (l3 : Nat)
    (x4 : BitVec n4) (l4 : Nat) (x5 : BitVec n5) (l5 : Nat) (x6 : BitVec n6) (l6 : Nat) : Nat :=
  enc5 m x1 l1 x2 l2 x3 l3 x4 l4 x5 l5 + place x6 l6

/-- The first word of an instruction from its format and fields (R54); 0 for an event, which has none. -/
def encodeWord : Instr → Nat
  | .add d a b => enc3 0x04000000 d 21 a 16 b 11
  | .sub d a b => enc3 0x04000001 d 21 a 16 b 11
  | .and d a b => enc3 0x04000002 d 21 a 16 b 11
  | .or d a b => enc3 0x04000003 d 21 a 16 b 11
  | .xor d a b => enc3 0x04000004 d 21 a 16 b 11
  | .andn d a b => enc3 0x04000005 d 21 a 16 b 11
  | .orn d a b => enc3 0x04000006 d 21 a 16 b 11
  | .xnor d a b => enc3 0x04000007 d 21 a 16 b 11
  | .sll d a b => enc3 0x04000008 d 21 a 16 b 11
  | .srl d a b => enc3 0x04000009 d 21 a 16 b 11
  | .sra d a b => enc3 0x0400000A d 21 a 16 b 11
  | .rol d a b => enc3 0x0400000B d 21 a 16 b 11
  | .ror d a b => enc3 0x0400000C d 21 a 16 b 11
  | .slt d a b => enc3 0x04000010 d 21 a 16 b 11
  | .sltn d a b => enc3 0x04000011 d 21 a 16 b 11
  | .seq d a b => enc3 0x04000012 d 21 a 16 b 11
  | .sne d a b => enc3 0x04000013 d 21 a 16 b 11
  | .min d a b => enc3 0x04000014 d 21 a 16 b 11
  | .max d a b => enc3 0x04000015 d 21 a 16 b 11
  | .minn d a b => enc3 0x04000016 d 21 a 16 b 11
  | .maxn d a b => enc3 0x04000017 d 21 a 16 b 11
  | .clz d a => enc2 0x04000018 d 21 a 16
  | .ctz d a => enc2 0x04000019 d 21 a 16
  | .popc d a => enc2 0x0400001A d 21 a 16
  | .bswap d a => enc2 0x0400001B d 21 a 16
  | .sextB d a => enc2 0x0400001C d 21 a 16
  | .sextH d a => enc2 0x0400001D d 21 a 16
  | .sextW d a => enc2 0x0400001E d 21 a 16
  | .zextW d a => enc2 0x0400001F d 21 a 16
  | .addw d a b => enc3 0x04000020 d 21 a 16 b 11
  | .subw d a b => enc3 0x04000021 d 21 a 16 b 11
  | .sllw d a b => enc3 0x04000022 d 21 a 16 b 11
  | .srlw d a b => enc3 0x04000023 d 21 a 16 b 11
  | .sraw d a b => enc3 0x04000024 d 21 a 16 b 11
  | .addi d a i => enc3 0x08000000 d 21 a 16 i 0
  | .andi d a i => enc3 0x0C000000 d 21 a 16 i 0
  | .ori d a i => enc3 0x10000000 d 21 a 16 i 0
  | .xori d a i => enc3 0x14000000 d 21 a 16 i 0
  | .slti d a i => enc3 0x18000000 d 21 a 16 i 0
  | .sltni d a i => enc3 0x1C000000 d 21 a 16 i 0
  | .lui d i => enc2 0x20000000 d 21 i 0
  | .slli d a n => enc3 0x24000000 d 21 a 16 n 0
  | .srli d a n => enc3 0x24000100 d 21 a 16 n 0
  | .srai d a n => enc3 0x24000200 d 21 a 16 n 0
  | .rori d a n => enc3 0x24000300 d 21 a 16 n 0
  | .slliw d a n => enc3 0x24000400 d 21 a 16 n 0
  | .srliw d a n => enc3 0x24000500 d 21 a 16 n 0
  | .sraiw d a n => enc3 0x24000600 d 21 a 16 n 0
  | .mul d a b => enc3 0x28000000 d 21 a 16 b 11
  | .mulh d a b => enc3 0x28000001 d 21 a 16 b 11
  | .mulhn d a b => enc3 0x28000002 d 21 a 16 b 11
  | .mulhsn d a b => enc3 0x28000003 d 21 a 16 b 11
  | .div d a b => enc3 0x28000004 d 21 a 16 b 11
  | .divn d a b => enc3 0x28000005 d 21 a 16 b 11
  | .rem d a b => enc3 0x28000006 d 21 a 16 b 11
  | .remn d a b => enc3 0x28000007 d 21 a 16 b 11
  | .mulw d a b => enc3 0x28000008 d 21 a 16 b 11
  | .divw d a b => enc3 0x28000009 d 21 a 16 b 11
  | .divnw d a b => enc3 0x2800000A d 21 a 16 b 11
  | .remw d a b => enc3 0x2800000B d 21 a 16 b 11
  | .remnw d a b => enc3 0x2800000C d 21 a 16 b 11
  | .fadd d a b t => enc4 0x2C000000 d 21 a 16 b 11 t 7
  | .fsub d a b t => enc4 0x2C000001 d 21 a 16 b 11 t 7
  | .fmul d a b t => enc4 0x2C000002 d 21 a 16 b 11 t 7
  | .fdiv d a b t => enc4 0x2C000003 d 21 a 16 b 11 t 7
  | .fsqrt d a t => enc3 0x2C000004 d 21 a 16 t 7
  | .fmin d a b t => enc4 0x2C000005 d 21 a 16 b 11 t 7
  | .fmax d a b t => enc4 0x2C000006 d 21 a 16 b 11 t 7
  | .fmac d a b t => enc4 0x2C000007 d 21 a 16 b 11 t 7
  | .fmsc d a b t => enc4 0x2C000008 d 21 a 16 b 11 t 7
  | .fabs d a t => enc3 0x2C000009 d 21 a 16 t 7
  | .fneg d a t => enc3 0x2C00000A d 21 a 16 t 7
  | .fsgmv d a b t => enc4 0x2C00000B d 21 a 16 b 11 t 7
  | .feq d a b t => enc4 0x30000000 d 21 a 16 b 11 t 2
  | .flt d a b t => enc4 0x30000001 d 21 a 16 b 11 t 2
  | .fle d a b t => enc4 0x30000002 d 21 a 16 b 11 t 2
  | .fkind d a t => enc3 0x30000003 d 21 a 16 t 2
  | .fcvtF64F32 d a => enc2 0x30000010 d 21 a 16
  | .fcvtF32F64 d a => enc2 0x30000011 d 21 a 16
  | .fcvtF32I64 d a => enc2 0x30000012 d 21 a 16
  | .fcvtF32N64 d a => enc2 0x30000013 d 21 a 16
  | .fcvtF64I64 d a => enc2 0x30000014 d 21 a 16
  | .fcvtF64N64 d a => enc2 0x30000015 d 21 a 16
  | .fcvtI64F32 d a => enc2 0x30000016 d 21 a 16
  | .fcvtN64F32 d a => enc2 0x30000017 d 21 a 16
  | .fcvtI64F64 d a => enc2 0x30000018 d 21 a 16
  | .fcvtN64F64 d a => enc2 0x30000019 d 21 a 16
  | .fcvtF32Bf16 d a => enc2 0x3000001A d 21 a 16
  | .fcvtBf16F32 d a => enc2 0x3000001B d 21 a 16
  | .fcvtF32F16 d a => enc2 0x3000001C d 21 a 16
  | .fcvtF16F32 d a => enc2 0x3000001D d 21 a 16
  | .lim d _ => enc1 0xFC000000 d 21
  | .lea d _ => enc1 0xFC000100 d 21
  | .callFar d _ => enc1 0xFC000200 d 21
  | .beq a b i => enc3 0x60000000 a 21 b 16 i 0
  | .bne a b i => enc3 0x64000000 a 21 b 16 i 0
  | .blt a b i => enc3 0x68000000 a 21 b 16 i 0
  | .bge a b i => enc3 0x6C000000 a 21 b 16 i 0
  | .bltn a b i => enc3 0x70000000 a 21 b 16 i 0
  | .bgen a b i => enc3 0x74000000 a 21 b 16 i 0
  | .jal d i => enc2 0x78000000 d 21 i 0
  | .jalr d a i => enc3 0x7C000000 d 21 a 16 i 0
  | .ld d a o s h => enc5 0x40000000 d 21 a 16 o 5 s 2 h 0
  | .st d a o s h => enc5 0x44000000 d 21 a 16 o 5 s 2 h 0
  | .ldx d a b s => enc4 0x48000000 d 21 a 16 b 11 s 0
  | .stx d a b s => enc4 0x48000008 d 21 a 16 b 11 s 0
  | .ldAcq d a s z => enc4 0x48000010 d 21 a 16 s 11 z 0
  | .stRel d a s z => enc4 0x48000014 d 21 a 16 s 11 z 0
  | .fenceAcq s => enc1 0x48000030 s 11
  | .fenceRel s => enc1 0x48000031 s 11
  | .fenceAr s => enc1 0x48000032 s 11
  | .fenceSc s => enc1 0x48000033 s 11
  | .sdrain => 0x48000038
  | .rfence s => enc1 0x48000039 s 11
  | .stAt d a b s z => enc5 0x48000040 d 21 a 16 b 11 s 2 z 0
  | .ldNb d a b z => enc4 0x48000080 d 21 a 16 b 11 z 0
  | .amoswap d a b w => enc4 0x4C000000 d 21 a 16 b 11 w 0
  | .amoadd d a b w => enc4 0x4C000002 d 21 a 16 b 11 w 0
  | .amoand d a b w => enc4 0x4C000004 d 21 a 16 b 11 w 0
  | .amoor d a b w => enc4 0x4C000006 d 21 a 16 b 11 w 0
  | .amoxor d a b w => enc4 0x4C000008 d 21 a 16 b 11 w 0
  | .amomin d a b w => enc4 0x4C00000A d 21 a 16 b 11 w 0
  | .amomax d a b w => enc4 0x4C00000C d 21 a 16 b 11 w 0
  | .amominn d a b w => enc4 0x4C00000E d 21 a 16 b 11 w 0
  | .amomaxn d a b w => enc4 0x4C000010 d 21 a 16 b 11 w 0
  | .amocas d a b w => enc4 0x4C000012 d 21 a 16 b 11 w 0
  | .amofadd d a b w => enc4 0x4C000014 d 21 a 16 b 11 w 0
  | .amofmin d a b w => enc4 0x4C000016 d 21 a 16 b 11 w 0
  | .amofmax d a b w => enc4 0x4C000018 d 21 a 16 b 11 w 0
  | .redadd a b w => enc3 0x4C000042 a 16 b 11 w 0
  | .redand a b w => enc3 0x4C000044 a 16 b 11 w 0
  | .redor a b w => enc3 0x4C000046 a 16 b 11 w 0
  | .redxor a b w => enc3 0x4C000048 a 16 b 11 w 0
  | .redmin a b w => enc3 0x4C00004A a 16 b 11 w 0
  | .redmax a b w => enc3 0x4C00004C a 16 b 11 w 0
  | .redminn a b w => enc3 0x4C00004E a 16 b 11 w 0
  | .redmaxn a b w => enc3 0x4C000050 a 16 b 11 w 0
  | .redfadd a b w => enc3 0x4C000054 a 16 b 11 w 0
  | .redfmin a b w => enc3 0x4C000056 a 16 b 11 w 0
  | .redfmax a b w => enc3 0x4C000058 a 16 b 11 w 0
  | .redOrdAddF32 d a b s => enc4 0x4C0000C0 d 21 a 16 b 11 s 2
  | .redOrdAddI32 d a b s => enc4 0x4C0000C1 d 21 a 16 b 11 s 2
  | .redOrdMinF32 d a b s => enc4 0x4C0000C2 d 21 a 16 b 11 s 2
  | .redOrdMaxF32 d a b s => enc4 0x4C0000C3 d 21 a 16 b 11 s 2
  | .vld d a o e h => enc5 0x50000000 d 21 a 16 o 5 e 2 h 0
  | .vst d a o e h => enc5 0x54000000 d 21 a 16 o 5 e 2 h 0
  | .vlds d a b p e => enc5 0x58000000 d 21 a 16 b 11 p 8 e 5
  | .vsts d a b p e => enc5 0x58000001 d 21 a 16 b 11 p 8 e 5
  | .vldx d a b p e => enc5 0x58000002 d 21 a 16 b 11 p 8 e 5
  | .vstx d a b p e => enc5 0x58000003 d 21 a 16 b 11 p 8 e 5
  | .vldm d a p e => enc4 0x58000004 d 21 a 16 p 8 e 5
  | .vstm d a p e => enc4 0x58000005 d 21 a 16 p 8 e 5
  | .vappend d a p e => enc4 0x58000006 d 21 a 16 p 8 e 5
  | .vldNb d a b p e => enc5 0x58000007 d 21 a 16 b 11 p 8 e 5
  | .vstAt d a b p e s => enc6 0x58000010 d 21 a 16 b 11 p 8 e 5 s 0
  | .vamoswap d a b p e => enc5 0x5C000000 d 21 a 16 b 11 p 8 e 5
  | .vamoadd d a b p e => enc5 0x5C000001 d 21 a 16 b 11 p 8 e 5
  | .vamoand d a b p e => enc5 0x5C000002 d 21 a 16 b 11 p 8 e 5
  | .vamoor d a b p e => enc5 0x5C000003 d 21 a 16 b 11 p 8 e 5
  | .vamoxor d a b p e => enc5 0x5C000004 d 21 a 16 b 11 p 8 e 5
  | .vamomin d a b p e => enc5 0x5C000005 d 21 a 16 b 11 p 8 e 5
  | .vamomax d a b p e => enc5 0x5C000006 d 21 a 16 b 11 p 8 e 5
  | .vamominn d a b p e => enc5 0x5C000007 d 21 a 16 b 11 p 8 e 5
  | .vamomaxn d a b p e => enc5 0x5C000008 d 21 a 16 b 11 p 8 e 5
  | .vredaddIdx d a b p e => enc5 0x5C000009 d 21 a 16 b 11 p 8 e 5
  | .vredandIdx d a b p e => enc5 0x5C00000A d 21 a 16 b 11 p 8 e 5
  | .vredorIdx d a b p e => enc5 0x5C00000B d 21 a 16 b 11 p 8 e 5
  | .vredxorIdx d a b p e => enc5 0x5C00000C d 21 a 16 b 11 p 8 e 5
  | .vredminIdx d a b p e => enc5 0x5C00000D d 21 a 16 b 11 p 8 e 5
  | .vredmaxIdx d a b p e => enc5 0x5C00000E d 21 a 16 b 11 p 8 e 5
  | .vredminnIdx d a b p e => enc5 0x5C00000F d 21 a 16 b 11 p 8 e 5
  | .vredmaxnIdx d a b p e => enc5 0x5C000010 d 21 a 16 b 11 p 8 e 5
  | .vredOrdAdd d a b p e f => enc6 0x5C000000 d 21 a 16 b 11 p 8 e 5 f 0
  | .vadd d a b p e => enc5 0x80000000 d 21 a 16 b 11 p 8 e 5
  | .vsub d a b p e => enc5 0x80000001 d 21 a 16 b 11 p 8 e 5
  | .vmul d a b p e => enc5 0x80000002 d 21 a 16 b 11 p 8 e 5
  | .vmulh d a b p e => enc5 0x80000003 d 21 a 16 b 11 p 8 e 5
  | .vmulhn d a b p e => enc5 0x80000004 d 21 a 16 b 11 p 8 e 5
  | .vand d a b p e => enc5 0x80000005 d 21 a 16 b 11 p 8 e 5
  | .vor d a b p e => enc5 0x80000006 d 21 a 16 b 11 p 8 e 5
  | .vxor d a b p e => enc5 0x80000007 d 21 a 16 b 11 p 8 e 5
  | .vsll d a b p e => enc5 0x80000008 d 21 a 16 b 11 p 8 e 5
  | .vsrl d a b p e => enc5 0x80000009 d 21 a 16 b 11 p 8 e 5
  | .vsra d a b p e => enc5 0x8000000A d 21 a 16 b 11 p 8 e 5
  | .vmin d a b p e => enc5 0x8000000B d 21 a 16 b 11 p 8 e 5
  | .vmax d a b p e => enc5 0x8000000C d 21 a 16 b 11 p 8 e 5
  | .vminn d a b p e => enc5 0x8000000D d 21 a 16 b 11 p 8 e 5
  | .vmaxn d a b p e => enc5 0x8000000E d 21 a 16 b 11 p 8 e 5
  | .vadds d a b p e => enc5 0x8000000F d 21 a 16 b 11 p 8 e 5
  | .vaddsn d a b p e => enc5 0x80000010 d 21 a 16 b 11 p 8 e 5
  | .vsubs d a b p e => enc5 0x80000011 d 21 a 16 b 11 p 8 e 5
  | .vsubsn d a b p e => enc5 0x80000012 d 21 a 16 b 11 p 8 e 5
  | .vabs d a p e => enc4 0x80000013 d 21 a 16 p 8 e 5
  | .vneg d a p e => enc4 0x80000014 d 21 a 16 p 8 e 5
  | .vclz d a p e => enc4 0x80000015 d 21 a 16 p 8 e 5
  | .vpopc d a p e => enc4 0x80000016 d 21 a 16 p 8 e 5
  | .vceq d a b p e => enc5 0x80000018 d 21 a 16 b 11 p 8 e 5
  | .vcne d a b p e => enc5 0x80000019 d 21 a 16 b 11 p 8 e 5
  | .vclt d a b p e => enc5 0x8000001A d 21 a 16 b 11 p 8 e 5
  | .vcle d a b p e => enc5 0x8000001B d 21 a 16 b 11 p 8 e 5
  | .vcltn d a b p e => enc5 0x8000001C d 21 a 16 b 11 p 8 e 5
  | .vclen d a b p e => enc5 0x8000001D d 21 a 16 b 11 p 8 e 5
  | .vmerge d a b p e => enc5 0x8000001E d 21 a 16 b 11 p 8 e 5
  | .vfadd d a b p e => enc5 0x84000000 d 21 a 16 b 11 p 8 e 5
  | .vfsub d a b p e => enc5 0x84000001 d 21 a 16 b 11 p 8 e 5
  | .vfmul d a b p e => enc5 0x84000002 d 21 a 16 b 11 p 8 e 5
  | .vfdiv d a b p e => enc5 0x84000003 d 21 a 16 b 11 p 8 e 5
  | .vfsqrt d a p e => enc4 0x84000004 d 21 a 16 p 8 e 5
  | .vfmin d a b p e => enc5 0x84000005 d 21 a 16 b 11 p 8 e 5
  | .vfmax d a b p e => enc5 0x84000006 d 21 a 16 b 11 p 8 e 5
  | .vfmac d a b p e => enc5 0x84000007 d 21 a 16 b 11 p 8 e 5
  | .vfmsc d a b p e => enc5 0x84000008 d 21 a 16 b 11 p 8 e 5
  | .vfnmac d a b p e => enc5 0x84000009 d 21 a 16 b 11 p 8 e 5
  | .vfabs d a p e => enc4 0x8400000A d 21 a 16 p 8 e 5
  | .vfneg d a p e => enc4 0x8400000B d 21 a 16 p 8 e 5
  | .vfsgmv d a b p e => enc5 0x8400000C d 21 a 16 b 11 p 8 e 5
  | .vfrecip d a p e => enc4 0x8400000D d 21 a 16 p 8 e 5
  | .vfrsqrt d a p e => enc4 0x8400000E d 21 a 16 p 8 e 5
  | .vfexp2 d a p e => enc4 0x8400000F d 21 a 16 p 8 e 5
  | .vflog2 d a p e => enc4 0x84000010 d 21 a 16 p 8 e 5
  | .vfceq d a b p e => enc5 0x84000011 d 21 a 16 b 11 p 8 e 5
  | .vfclt d a b p e => enc5 0x84000012 d 21 a 16 b 11 p 8 e 5
  | .vfcle d a b p e => enc5 0x84000013 d 21 a 16 b 11 p 8 e 5
  | .vfcun d a b p e => enc5 0x84000014 d 21 a 16 b 11 p 8 e 5
  | .vfkind d a p e => enc4 0x84000015 d 21 a 16 p 8 e 5
  | .vcvt d a p e t => enc5 0x88000000 d 21 a 16 p 8 e 5 t 0
  | .vcvtSr d a p e t => enc5 0x88000008 d 21 a 16 p 8 e 5 t 0
  | .vcvtmWiden d a p e c => enc5 0x88000010 d 21 a 16 p 8 e 5 c 0
  | .vcvtmNarrow d a p e c => enc5 0x88000014 d 21 a 16 p 8 e 5 c 0
  | .vwmul d a b p e t => enc6 0x88000018 d 21 a 16 b 11 p 8 e 5 t 0
  | .vperm d a b p e => enc5 0x8C000000 d 21 a 16 b 11 p 8 e 5
  | .velsh d a b p e => enc5 0x8C000001 d 21 a 16 b 11 p 8 e 5
  | .velrot d a b p e => enc5 0x8C000002 d 21 a 16 b 11 p 8 e 5
  | .vredsum d a p e => enc4 0x8C000003 d 21 a 16 p 8 e 5
  | .vredmin d a p e => enc4 0x8C000004 d 21 a 16 p 8 e 5
  | .vredmax d a p e => enc4 0x8C000005 d 21 a 16 p 8 e 5
  | .vredminn d a p e => enc4 0x8C000006 d 21 a 16 p 8 e 5
  | .vredmaxn d a p e => enc4 0x8C000007 d 21 a 16 p 8 e 5
  | .vredand d a p e => enc4 0x8C000008 d 21 a 16 p 8 e 5
  | .vredor d a p e => enc4 0x8C000009 d 21 a 16 p 8 e 5
  | .vscan d a p e => enc4 0x8C00000A d 21 a 16 p 8 e 5
  | .vsegsum d a b p e => enc5 0x8C00000B d 21 a 16 b 11 p 8 e 5
  | .vrand d p e => enc3 0x8C00000C d 21 p 8 e 5
  | .vmvx d a b e => enc4 0x8C00000D d 21 a 16 b 11 e 5
  | .vmvv d a b e => enc4 0x8C00000E d 21 a 16 b 11 e 5
  | .vbcast d a p e => enc4 0x8C00000F d 21 a 16 p 8 e 5
  | .vsqueeze d a p e => enc4 0x8C000010 d 21 a 16 p 8 e 5
  | .vindex d a b p e => enc5 0x8C000011 d 21 a 16 b 11 p 8 e 5
  | .mand d a b => enc3 0x90000000 d 21 a 16 b 11
  | .mor d a b => enc3 0x90000001 d 21 a 16 b 11
  | .mxor d a b => enc3 0x90000002 d 21 a 16 b 11
  | .mandn d a b => enc3 0x90000003 d 21 a 16 b 11
  | .mnot d a => enc2 0x90000004 d 21 a 16
  | .mset d => enc1 0x90000005 d 21
  | .mclr d => enc1 0x90000006 d 21
  | .mcnt d a => enc2 0x90000007 d 21 a 16
  | .many d a => enc2 0x90000008 d 21 a 16
  | .mfirst d a => enc2 0x90000009 d 21 a 16
  | .vaddVx d a b p e x => enc6 0x94000000 d 21 a 16 b 11 p 8 e 5 x 4
  | .vsubVx d a b p e x => enc6 0x94000001 d 21 a 16 b 11 p 8 e 5 x 4
  | .vrsubVx d a b p e x => enc6 0x94000002 d 21 a 16 b 11 p 8 e 5 x 4
  | .vmulVx d a b p e x => enc6 0x94000003 d 21 a 16 b 11 p 8 e 5 x 4
  | .vandVx d a b p e x => enc6 0x94000004 d 21 a 16 b 11 p 8 e 5 x 4
  | .vorVx d a b p e x => enc6 0x94000005 d 21 a 16 b 11 p 8 e 5 x 4
  | .vxorVx d a b p e x => enc6 0x94000006 d 21 a 16 b 11 p 8 e 5 x 4
  | .vsllVx d a b p e x => enc6 0x94000007 d 21 a 16 b 11 p 8 e 5 x 4
  | .vsrlVx d a b p e x => enc6 0x94000008 d 21 a 16 b 11 p 8 e 5 x 4
  | .vsraVx d a b p e x => enc6 0x94000009 d 21 a 16 b 11 p 8 e 5 x 4
  | .vminVx d a b p e x => enc6 0x9400000A d 21 a 16 b 11 p 8 e 5 x 4
  | .vmaxVx d a b p e x => enc6 0x9400000B d 21 a 16 b 11 p 8 e 5 x 4
  | .vfaddVx d a b p e => enc5 0x9400000C d 21 a 16 b 11 p 8 e 5
  | .vfmulVx d a b p e => enc5 0x9400000D d 21 a 16 b 11 p 8 e 5
  | .vfmacVx d a b p e => enc5 0x9400000E d 21 a 16 b 11 p 8 e 5
  | .vceqVx d a b p e x => enc6 0x9400000F d 21 a 16 b 11 p 8 e 5 x 4
  | .mop t a b r c f => enc6 0xA0000000 t 23 a 16 b 11 r 8 c 5 f 0
  | .mops t a b r c f => enc6 0xA0200000 t 23 a 16 b 11 r 8 c 5 f 0
  | .mopx t a b r c f => enc6 0xA4000000 t 23 a 16 b 11 r 8 c 5 f 0
  | .mopxs t a b r c f => enc6 0xA4200000 t 23 a 16 b 11 r 8 c 5 f 0
  | .mopsp t a b r c f => enc6 0xA8000000 t 23 a 16 b 11 r 8 c 5 f 0
  | .mopi t a b r c f => enc6 0xA8200000 t 23 a 16 b 11 r 8 c 5 f 0
  | .mopiSat t a b r c f => enc6 0xA8400000 t 23 a 16 b 11 r 8 c 5 f 0
  | .acczero t => enc1 0xAC000000 t 23
  | .accrd t d b => enc3 0xAC000001 t 23 d 16 b 11
  | .accwr t a b => enc3 0xAC000002 t 23 a 16 b 11
  | .accpro t y d c s => enc5 0xAC000003 t 23 y 21 d 16 c 11 s 6
  | .accld t a => enc2 0xAC000004 t 23 a 16
  | .accst t a => enc2 0xAC000005 t 23 a 16
  | .accmov t s => enc2 0xAC000006 t 23 s 11
  | .accadd t y s => enc3 0xAC000007 t 23 y 21 s 11
  | .accsave a => enc1 0xAC000008 a 16
  | .accrest a => enc1 0xAC000009 a 16
  | .cpy a b c n h x => enc6 0xC0000000 a 21 b 16 c 11 n 7 h 2 x 0
  | .cpy2 a b c n h x => enc6 0xC0000010 a 21 b 16 c 11 n 7 h 2 x 0
  | .cpyxG a b c n h => enc5 0xC0000020 a 21 b 16 c 11 n 7 h 2
  | .cpyxS a b c n h => enc5 0xC0000030 a 21 b 16 c 11 n 7 h 2
  | .cpyM a b c n h x => enc6 0xC0000040 a 21 b 16 c 11 n 7 h 2 x 0
  | .cpy2M a b c n h x => enc6 0xC0000050 a 21 b 16 c 11 n 7 h 2 x 0
  | .cpyxGM a b c n h => enc5 0xC0000060 a 21 b 16 c 11 n 7 h 2
  | .ccwait b n h => enc3 0xC4000000 b 16 n 7 h 2
  | .ccrd a n h => enc3 0xC4000010 a 21 n 7 h 2
  | .ccset b n h => enc3 0xC4000020 b 16 n 7 h 2
  | .sgbind a s h x => enc4 0xC4000030 a 21 s 7 h 2 x 0
  | .sgunbind s h => enc2 0xC4000040 s 7 h 2
  | .subscribe a b c e h => enc5 0xC4000050 a 21 b 16 c 11 e 7 h 2
  | .unsub e h => enc2 0xC4000060 e 7 h 2
  | .unsubPub e h => enc2 0xC4000061 e 7 h 2
  | .subflush h => enc1 0xC4000070 h 2
  | .barrArrive g => enc1 0xC8000000 g 16
  | .barrWait g => enc1 0xC8000001 g 16
  | .barrArriveSpan g => enc1 0xC8000002 g 16
  | .barrWaitSpan g => enc1 0xC8000003 g 16
  | .barrArriveGang => 0xC8000004
  | .barrWaitGang => 0xC8000005
  | .pause n => enc1 0xC8000008 n 11
  | .recv d a => enc2 0xC8000009 d 21 a 16
  | .launch a s => enc2 0xC8000010 a 16 s 11
  | .launchR d a s => enc3 0xC8000011 d 21 a 16 s 11
  | .join a => enc1 0xC8000012 a 16
  | .gexit => 0xC8000013
  | .yield => 0xC8000014
  | .rdctl d c => enc2 0xE0000000 d 21 c 4
  | .wrctl a c => enc2 0xE0000001 a 16 c 4
  | .setctl a c => enc2 0xE0000002 a 16 c 4
  | .clrctl a c => enc2 0xE0000003 a 16 c 4
  | .setvl d a e => enc3 0xE0000004 d 21 a 16 e 4
  | .setml d a => enc2 0xE0000005 d 21 a 16
  | .trap n => enc1 0xE0000006 n 4
  | .eret => 0xE0000007
  | .fenceI => 0xE0000008
  | .preempt => 0xE0000009
  | .gkill a => enc1 0xE000000A a 16
  | .sfqpop d => enc1 0xE000000B d 21
  | .tlbinv a => enc1 0xE000000C a 16
  | .hinv a => enc1 0xE000000D a 16
  | .ebreak => 0xE000000E
  | .halt => 0xE000000F
  | .evStoreBufferDrain _ => 0
  | .evStoreFaultReport _ => 0
  | .evCopyErrorReport _ => 0
  | .evDeadlineReport _ => 0
  | .evUncorrectableReport _ => 0
  | .evRead _ => 0
  | .evWrite _ => 0
  | .evAtomic _ => 0
  | .evReduce _ => 0
  | .evResp _ => 0
  | .evTimedArrival _ => 0
  | .evTimedEntryGrant _ => 0
  | .evTimedInstant _ => 0
  | .evQueueEnqueue _ _ _ => 0
  | .evBadwrite _ => 0
  | .evContRetry _ => 0
  | .evJoinApply _ => 0
  | .evRingDelivery _ => 0
  | .evContribution _ => 0
  | .evSpanRelease _ => 0
  | .evSpanWaitExit _ => 0
  | .evPauseExpiry _ => 0
  | .evPreemptStop _ => 0
  | .evPreemptNotice _ => 0
  | .evNoticeTimeout _ => 0
  | .evParkComplete _ => 0
  | .evGangResume _ => 0
  | .evCopyAccept _ => 0
  | .evPendingReserve _ => 0
  | .evGraphFrame _ => 0
  | .evChunkComplete _ _ => 0
  | .evBatchTimeout _ _ _ => 0
  | .evSubscriptionUpdate _ => 0
  | .evRelockEnd _ => 0
  | .evPowerControlTick _ _ _ => 0
  | .evTctlThrottleTick _ _ => 0
  | .evDieOver105c _ => 0
  | .evThermalTrip _ _ => 0
  | .evHbmOver85c _ => 0
  | .evHbmOver95c _ => 0
  | .evTelemetryUpdate _ _ => 0
  | .evPcapWrite _ _ => 0
  | .evTctlWrite _ _ => 0
  | .evStepmaxWrite _ _ _ => 0
  | .evRegisterWrite _ _ _ => 0
  | .evPrtEntryWrite _ _ _ _ => 0
  | .evQcfgWrite _ _ _ => 0
  | .evQrelWrite _ _ _ => 0
  | .evQpop _ _ _ => 0
  | .evScfgWrite _ _ _ _ => 0
  | .evPreqWrite _ _ _ => 0
  | .evMigrationEntryWrite _ _ _ _ => 0
  | .evMigrationPull _ _ => 0
  | .evKeyctlWrite _ _ _ => 0
  | .evKeydataWrite _ _ _ _ => 0
  | .evTrapBlockWrite _ _ _ _ => 0
  | .evOffreqWrite _ _ _ => 0
  | .evEvacBlockMove _ => 0
  | .evRlenWrite _ _ _ => 0
  | .evHostBar4Read _ _ => 0
  | .evHostBar4Write _ _ => 0
  | .evPtpSync _ => 0
  | .evSyncTimeout => 0
  | .evLaneRepair _ _ => 0
  | .evPortFailure _ => 0
  | .evDebugHaltEnd _ => 0
  | .evRetentionEnter _ => 0
  | .evRetentionLeave _ => 0
  | .evDramScrub _ _ => 0
  | .evMscScrub _ _ => 0
  | .evRemapReload _ _ _ _ => 0
  | .evRowSparing _ _ _ _ => 0
  | .evClusterFailure _ _ _ => 0
  | .evColdReset _ _ _ _ _ _ => 0
  | .evWarmReset => 0
  | .evSpdmRequest _ => 0
  | .evBlackBoxRead _ _ _ => 0
  | .evImageCheck _ _ => 0
  | .evTenantConfigRequest _ _ => 0
  | .evIllegalInsn _ => 0
  | .evFetchFault _ => 0
  | .evEndOf105cAction _ => 0
  | .evStandbyPowerLoss => 0
  | .evRemapRebuildEnd _ _ _ => 0
  | .evRetentionEntered _ => 0
  | .evResumeEntryMove _ _ => 0
  | .evHaltOnBreak _ _ => 0

/-- The second word of a long form (R53). -/
def secondWord : Instr → Option Nat
  | .lim _ i => some i.toNat
  | .lea _ i => some i.toNat
  | .callFar _ i => some i.toNat
  | _ => none

/-- The events of the opcode table, which have no words: every instruction's word has a major opcode above 0. -/
def isEvent (i : Instr) : Bool := encodeWord i == 0

/-- The words of an instruction: one, two for a long form (R53), none for an event. -/
def encode (i : Instr) : List Nat :=
  if isEvent i then []
  else
    match secondWord i with
    | some v => [encodeWord i, v]
    | none => [encodeWord i]


/-- The instruction word as EVAL gives it for ILLEGAL_INSN and PRIV (R71, R375). -/
def wordOf (i : Instr) : BitVec 32 := BitVec.ofNat 32 (encodeWord i)

/-- The bytes of an instruction in memory (R52, R53). -/
def sizeOf? (i : Instr) : Nat := 4 * (encode i).length

/-- A word as its four bytes, the least significant first. -/
def bytesOfWord (w : Nat) : List Byte :=
  [BitVec.ofNat 8 w, BitVec.ofNat 8 (w / 2 ^ 8), BitVec.ofNat 8 (w / 2 ^ 16), BitVec.ofNat 8 (w / 2 ^ 24)]

/-- The instruction whose bits are `w`, its first word in bits 31..0 and a second word above it; bits that `nbits`
leaves out are 0. -/
noncomputable def decodeTableWord (nbits w : Nat) : Option Instr :=
  if nbits = 0 then none
  else
    match decode (bytesOfWord (w % 2 ^ 32) ++ bytesOfWord (w / 2 ^ 32 % 2 ^ 32)) with
    | .ok i => some i
    | .error _ => none

end Sys2Proof
end

