-- ==== Sys2Proof/Machine/Control.lean ====
section
/-! DEFINITION. The package control block (BAR0, R185): the offsets of its registers and their reset values, and the
fields that the rest of the model reads. -/

namespace Sys2Proof.Machine

/-- Dword `d` (0 A, 1 B, 2 C) of PRT entry `n` (R178). -/
def offPrt (n d : Nat) : Nat := 0x10000 + 32 * n + 8 * d
/-- TIMECTL (R243). -/
def offTimectl : Nat := 0x20000
/-- TIMESTAT (R243). -/
def offTimestat : Nat := 0x20008
/-- Register `r` (0 QBASE, 1 QCFG, 2 QHEAD, 3 QTAIL, 4 QREL, 5 QRING, 6 QSTAT, 7 QPOP) of queue `q` = 16 x die + queue
(R303). -/
def offQueue (q r : Nat) : Nat := 0x30000 + 64 * q + 8 * r
/-- Register `r` (0 SCFG, 1 SNUM, 2 SMEM, 3 SREL) of spanning group `n` of die `d` (R329). -/
def offSpan (d n r : Nat) : Nat := 0x40000 + 32 * (16 * d + n) + 8 * r
/-- CTXTBASE (R353). -/
def offCtxtbase : Nat := 0x50000
/-- TENTBASE (R353). -/
def offTentbase : Nat := 0x50008
/-- SECMASK (R353). -/
def offSecmask : Nat := 0x50010
/-- The dword that holds the tenant-map register of cluster `c` of die `d` (R367). -/
def offTenant (d c : Nat) : Nat := 0x50100 + 128 * d + 8 * (c / 4)
/-- Dword `i` of the membership bitmap of UALink port `p` (R368). -/
def offPort (p i : Nat) : Nat := 0x51000 + 512 * p + 8 * i
/-- Dword `d` of migration entry `n` (R361). -/
def offMigration (n d : Nat) : Nat := 0x54000 + 32 * n + 8 * d
/-- KEYCTL of key `k` (R371). -/
def offKeyctl (k : Nat) : Nat := 0x60000 + 8 * k
/-- Dword `d` of KEYDATA of key `k` (R371). -/
def offKeydata (k d : Nat) : Nat := 0x61000 + 64 * k + 8 * d
/-- Register `r` (0 SVEC, 1 MVEC, 2 HBASE, 3 HSLOTS, 4 GBASE, 5 GSLOTS, 6 POOLVA) of the trap block of die `d`, world
`s` (R376). -/
def offTrap (d : Nat) (s : Bool) (r : Nat) : Nat := 0x70000 + 64 * (2 * d + bitOf s) + 8 * r
/-- PREQ of die `d` (R382). -/
def offPreq (d : Nat) : Nat := 0x70200 + 8 * d
/-- BOOTSTAT (R411). -/
def offBootstat : Nat := 0x80000
/-- DIESTAT of die `d` (R400). -/
def offDiestat (d : Nat) : Nat := 0x80040 + 8 * d
/-- The dword that holds DIESTAT.FENCED of die `d`, 32 bits for each die (R400). -/
def offFenced (d : Nat) : Nat := 0x80060 + 8 * (d / 2)
/-- OFFREQ (R401). -/
def offOffreq : Nat := 0x80100
/-- SPILLBASE (R403). -/
def offSpillbase : Nat := 0x80108
/-- PCAP (R24). -/
def offPcap : Nat := 0x90000
/-- TCTL (R24). -/
def offTctl : Nat := 0x90008
/-- STEPMAX of die `d` (R24). -/
def offStepmax (d : Nat) : Nat := 0x90010 + 8 * d
/-- The recovery window of 16 MiB (R409). -/
def offRecovery : Nat := 0x1000000

/-- The reset value of the register at an offset of the control block; 0 where no rule gives another (log 6). -/
def ctlReset (off : Nat) : Dword :=
  if off = offTimectl then 0x30
  else if 0x40000 ≤ off ∧ off < 0x40800 ∧ off % 32 = 0 then 0x8000000
  else if 0x51000 ≤ off ∧ off < 0x53000 then BitVec.allOnes 64
  else if off = offPcap then BitVec.ofNat 64 Config.powerLimit
  else if off = offTctl then 95
  else 0

/-- The value of a register of the control block. -/
def Pkg.ctl (p : Pkg) (off : Nat) : Dword := (tableGet p.regs off).getD (ctlReset off)

/-- The package with a register of the control block set. -/
def Pkg.setCtl (p : Pkg) (off : Nat) (v : Dword) : Pkg := { p with regs := tableSet p.regs off v }

/-- The tenant of cluster `c` of die `d` (R367). -/
def Pkg.tenantOf (p : Pkg) (d c : Nat) : Nat := bits (p.ctl (offTenant d c)) (16 * (c % 4)) 12

/-- GTIME in gt (R40, R239): 990 units of real time to one gt. -/
def Pkg.gtime (p : Pkg) : Nat := (p.time + p.gtShift) / 990

/-- The clock period of each step in units of 1/3,960 ns (R41): 2.5, 2.2, 1.8, 1.5, 1.2, 0.9 GHz. -/
def stepPeriod (s : Nat) : Nat :=
  match s with
  | 0 => 1584
  | 1 => 1800
  | 2 => 2200
  | 3 => 2640
  | 4 => 3300
  | _ => 4400

/-- Ratio(s) of R257 in units of 1/792: nominal 2.5 GHz cycles for each counted edge. -/
def stepRatio (s : Nat) : Nat :=
  match s with
  | 0 => 792
  | 1 => 900
  | 2 => 1100
  | 3 => 1320
  | 4 => 1650
  | _ => 2200

/-- A duration of nanoseconds in units of real time. -/
def nanoseconds (n : Nat) : Nat := 3960 * n

/-- A relock of 6,000 gt (R256) in units of real time. -/
def relockTime : Nat := 990 * 6000

/-- The part's die `d`, and die 0 for a number that names none. -/
def Pkg.die (p : Pkg) (d : Nat) : Die := p.dies.getD d Die.reset

/-- The package with die `d` replaced by what `f` makes of it. -/
def Pkg.onDie (p : Pkg) (d : Nat) (f : Die → Die) : Pkg := { p with dies := p.dies.setIfInBounds d (f (p.die d)) }

/-- A record written to the black box of a die (R406): the 4,096 newest stay. -/
def Pkg.logEvent (p : Pkg) (d code src data0 data1 : Nat) : Pkg :=
  p.onDie d fun die =>
    { die with
      bbox := (die.bbox ++ [Event.mk p.gtime code src (die.seq % 2 ^ 32) data0 data1]).drop (die.bbox.length + 1 - 4096)
      seq := die.seq + 1 }

end Sys2Proof.Machine
end

