-- ==== Sys2Proof/Machine/Address.lean ====
section
/-! DEFINITION. Locations: the keys memory is listed by, the physical region table (R178 to R180) with an evacuation in
progress (R402, R403), physical addresses (R176, R177), and the home of a location (R172, R246). -/

namespace Sys2Proof.Machine

/-- The location of byte `l` of die `d`'s share of DRAM (R180). -/
def dramLoc (d l : Nat) : Nat := d * 2 ^ 40 + l
/-- The location of a byte of a die's share that has been spilled to the host, under its spill home die (R403). -/
def spilledLoc (home d l : Nat) : Nat := dramLoc (16 + 16 * home + d) l
/-- The die whose share a location of DRAM is in. -/
def shareDie (loc : Nat) : Nat := let z := loc / 2 ^ 40; if z < 16 then z else (z - 16) % 16
/-- The die of the memory-side cache that is the home of a location of DRAM: the die's own, or the spill home (R403). -/
def homeDie (loc : Nat) : Nat := let z := loc / 2 ^ 40; if z < 16 then z else (z - 16) / 16
/-- The location of a byte of another package, by its physical address. -/
def remoteLoc (pa : Nat) : Nat := 2 ^ 56 + pa
/-- The location of a byte of host memory, by its bus address. -/
def hostLoc (bus : Nat) : Nat := 2 ^ 63 + bus
/-- The location of a byte of a core's private scratchpad. -/
def privLoc (core off : Nat) : Nat := 2 ^ 64 + core * 2 ^ 18 + off
/-- The location of a byte of a cluster's scratchpad array; clusters are numbered 48 x die + cluster. -/
def clusLoc (clus off : Nat) : Nat := 2 ^ 65 + clus * 2 ^ 22 + off

/-- The die of a core (R46). -/
def dieOfCore (c : Nat) : Nat := c / 384
/-- The cluster of a core, numbered 48 x die + cluster. -/
def clusterOfCore (c : Nat) : Nat := c / 8
/-- The cluster number of a core within its die (R46). -/
def clusOfCore (c : Nat) : Nat := c / 8 % 48

/-- The home of a location (R172, R246): 24 x die + controller for DRAM, 100 + core for a private scratchpad, 2000 +
cluster for a cluster scratchpad, 3000 for host memory, 4000 for another package. -/
def homeOf (loc : Nat) : Nat :=
  if loc < 2 ^ 56 then 24 * homeDie loc + loc % 2 ^ 40 / 1024 % 24
  else if loc < 2 ^ 63 then 4000
  else if loc < 2 ^ 64 then 3000
  else if loc < 2 ^ 65 then 100 + (loc - 2 ^ 64) / 2 ^ 18
  else 2000 + (loc - 2 ^ 65) / 2 ^ 22

/-- The die of a home; die 0 has the host port (R11), and a package's traffic leaves by the sender's die. -/
def dieOfHome (home : Nat) : Nat :=
  if home < 96 then home / 24
  else if home < 2000 then dieOfCore (home - 100)
  else if home < 3000 then (home - 2000) / 48
  else 0

/-- The unit of the storage code that a location lies in (R395, R396): 32 bytes of DRAM, 8 bytes of a scratchpad. -/
def unitOf (loc : Nat) : Nat := if loc < 2 ^ 64 then loc / 32 * 32 else loc / 8 * 8

/-- The name of the unit of 8 bytes of a memory-side cache that holds a location of DRAM. -/
def cacheUnit (loc : Nat) : Nat := 2 ^ 80 + loc / 8 * 8

/-- The first location of a unit. -/
def unitBase (u : Nat) : Nat := u % 2 ^ 80

/-- The size of a unit. -/
def unitSize (u : Nat) : Nat := if u < 2 ^ 64 then 32 else 8

/-- Does a unit touch any of `n` bytes from a location? -/
def unitMeets (u loc n : Nat) : Bool := decide (unitBase u < loc + n) && decide (loc < unitBase u + unitSize u)

/-- Does a unit lie within `n` bytes from a location? -/
def unitWithin (u loc n : Nat) : Bool := decide (loc ≤ unitBase u) && decide (unitBase u + unitSize u ≤ loc + n)

/-- Is PRT entry `n` valid, and does it contain an OFF (R178)? -/
def Pkg.prtHolds (p : Pkg) (off n : Nat) : Bool :=
  let a := p.ctl (offPrt n 0)
  bit a 0 && (let base := bits a 12 30 * 4096
              decide (base ≤ off) && decide (off < base + bits (p.ctl (offPrt n 1)) 12 30 * 4096))

/-- The lowest-numbered valid entry that contains an OFF (R179). -/
def Pkg.prtFind (p : Pkg) (off : Nat) : Option Nat := (List.range 64).find? (p.prtHolds off)

/-- Die and die-local address of block `blk` of a region with die set `dies`, stride `s` and base `lbase` (R180). -/
def stripe (dies s lbase blk rem : Nat) : Nat × Nat :=
  let n := popcount dies 4
  ((onesOf dies 4).getD (blk % n) 0, lbase + blk / n * s + rem)

/-- The spill home of block `k` of entry `n` on die `d` once it has been spilled, where `h` is the one chosen first: the
blocks of an entry are handed to another one after the other (R405). -/
def Pkg.spillTarget (p : Pkg) (d n k h : Nat) : Nat :=
  let handed := p.evac.findSome? fun r => match r.kind with
    | .hand e h' => if e = d ∧ r.entry = n ∧ k < r.moved then some h' else none
    | _ => none
  (handed.or (tableGet (p.die d).handed n)).getD h

/-- The spill home of block `k` of entry `n` on die `d`, none while the block lies in the die's own DRAM: a spill and a
hand-over take the blocks one after the other (R403, R405). -/
def Pkg.spillHome (p : Pkg) (d n k : Nat) : Option Nat :=
  match (p.die d).spill with
  | none => none
  | some (h, _) =>
    if p.evac.any fun r => r.kind == .spill && r.die == d && r.entry == n && decide (r.moved ≤ k) then none
    else some (p.spillTarget d n k h)

/-- The location of byte `l` of die `d`'s share, in block `k` of entry `n`'s: in its DRAM, or spilled (R403). -/
def Pkg.shareLoc (p : Pkg) (d n k l : Nat) : Nat :=
  match p.spillHome d n k with
  | none => dramLoc d l
  | some h => spilledLoc h d l

/-- The location that PRT entry `n` decodes an OFF to: under the new layout once its block has been moved (R402), at the
spill home once it has been spilled (R403). -/
def Pkg.prtLoc (p : Pkg) (off n : Nat) : Nat :=
  let c := p.ctl (offPrt n 2)
  let s := 4096 * 2 ^ bits c 4 5
  let o := off - bits (p.ctl (offPrt n 0)) 12 30 * 4096
  let blk := o / s
  match p.evac.find? (fun r => r.entry == n && r.kind == .restripe && decide (blk < r.moved)) with
    | some r => let e := stripe r.dies s r.lbase blk (o % s); p.shareLoc e.1 n ((e.2 - r.lbase) / s) e.2
    | none =>
      let lbase := bits c 12 28 * 4096
      let e := stripe (bits c 0 4) s lbase blk (o % s)
      p.shareLoc e.1 n ((e.2 - lbase) / s) e.2

/-- The location of a host bus address: where a die's whole share is spilled there, the bytes are the spill's (R403). -/
def Pkg.hostAt (p : Pkg) (bus : Nat) : Nat :=
  ((List.range 4).findSome? fun d => match (p.die d).spill with
    | some (h, base) =>
      if base ≤ bus ∧ bus < base + 192 * 2 ^ 30 ∧ (p.die d).leaving.isNone then some (spilledLoc h d (bus - base)) else none
    | none => none).getD (hostLoc bus)

/-- What a physical address names (R176, R177). -/
inductive Place where
  | dram (loc entry : Nat)
  | host (loc : Nat)
  | remote (loc package : Nat)
  | queue (package q : Nat)
  | nowhere
deriving DecidableEq, Repr

/-- The first OFF of the work-queue window (R177). -/
def queueWindow : Nat := 0x3FF00000000

/-- What a physical address names, as seen from this package (R176, R177). -/
def Pkg.place (p : Pkg) (pa : Nat) : Place :=
  if 2 ^ 63 ≤ pa then .host (p.hostAt (pa - 2 ^ 63))
  else if 2 ^ 52 ≤ pa then .nowhere
  else
    let pkg := pa / 2 ^ 42
    let off := pa % 2 ^ 42
    if pkg ∉ p.domain then .nowhere
    else if queueWindow ≤ off ∧ off < queueWindow + 0x40000 then .queue pkg ((off - queueWindow) / 4096)
    else if 0xC000000000 ≤ off then .nowhere
    else if pkg ≠ p.number then .remote (remoteLoc pa) pkg
    else match p.prtFind off with
      | some n => .dram (p.prtLoc off n) n
      | none => .nowhere

/-- The location of a physical address that must lie in the package's own DRAM (R353). -/
def Pkg.ownDram (p : Pkg) (pa : Nat) : Option Nat :=
  match p.place pa with
  | .dram loc _ => some loc
  | _ => none

end Sys2Proof.Machine
end

