-- ==== Sys2Proof/Machine/Pull.lean ====
section
/-! DEFINITION. Bytes at locations with their poison (R396), the addresses that events give (R407), keys (R371 to R373),
the pulls of migrating pages (R361, R362), and bytes at physical addresses. -/

namespace Sys2Proof.Machine

/-! ### Bytes and poison -/

/-- Is any of `n` bytes from a location in a poisoned unit? -/
def Pkg.poisoned (p : Pkg) (loc n : Nat) : Bool :=
  p.poison.any fun u => unitMeets u loc n

/-- The bytes from a location. -/
def State.getBytes (s : State) (loc n : Nat) : List Byte := Memory.read s.mem loc n

/-- The state with bytes written from a location; a unit that is wholly overwritten is poisoned no more, in an L1 data cache
neither (R396). -/
def State.putBytes (s : State) (loc : Nat) (bs : List Byte) : State :=
  { s with
    mem := Memory.write s.mem loc bs
    pkg := { s.pkg with
      poison := s.pkg.poison.filter fun u => !unitWithin u loc bs.length
      l1bad := s.pkg.l1bad.filter fun e => e.2.1 || !(decide (loc ≤ e.2.2) && decide (e.2.2 + 8 ≤ loc + bs.length)) } }

/-- The state with the units that `n` bytes from a location touch poisoned (R396). -/
def State.poisonBytes (s : State) (loc n : Nat) : State :=
  { s with pkg := { s.pkg with
      poison := (List.range n).foldl (fun l i => setInsert l (unitOf (loc + i))) s.pkg.poison } }

/-- The state with the unit of a location poisoned in its memory-side cache (R395, R396). -/
def State.poisonCached (s : State) (loc : Nat) : State :=
  { s with pkg := { s.pkg with poison := setInsert s.pkg.poison (cacheUnit loc) } }

/-- The state with the 8-byte unit of a location uncorrectable in a core's L1 instruction or data cache (R395). -/
def State.poisonL1 (s : State) (core : Nat) (code : Bool) (loc : Nat) : State :=
  { s with pkg := { s.pkg with l1bad := (core, code, loc / 8 * 8) :: s.pkg.l1bad } }

/-- Is any of `n` bytes from a location uncorrectable in a core's L1 cache (R396)? -/
def Pkg.l1Bad (p : Pkg) (core : Nat) (code : Bool) (loc n : Nat) : Bool :=
  p.l1bad.any fun e => e.1 == core && e.2.1 == code && decide (e.2.2 < loc + n) && decide (loc < e.2.2 + 8)

/-- The package as a core's L1 instruction cache fills or gives up the lines that `f` picks. -/
def Pkg.filledL1 (p : Pkg) (core : Nat) (f : Nat → Bool) : Pkg :=
  { p with l1bad := p.l1bad.filter fun e => !(e.1 == core && e.2.1 && f (e.2.2 / 64)) }

/-! ### Physical addresses of locations -/

/-- The OFF that entry `n` decodes to byte `l` of die `d` under a layout, if its block number lies on that die. -/
def unstripe (dies s lbase d l base : Nat) : Option Nat :=
  let n := popcount dies 4
  match (onesOf dies 4).findIdx? (· == d) with
  | none => none
  | some k => if l < lbase then none else some (base + ((l - lbase) / s * n + k) * s + (l - lbase) % s)

/-- The OFF of a location of DRAM, by the entry that decodes it (R180, R402). -/
def Pkg.offOfLoc (p : Pkg) (loc : Nat) : Option Nat :=
  let d := shareDie loc
  let l := loc % 2 ^ 40
  (List.range 64).findSome? fun n =>
    let c := p.ctl (offPrt n 2)
    let s := 4096 * 2 ^ bits c 4 5
    let base := bits (p.ctl (offPrt n 0)) 12 30 * 4096
    let new := (p.evac.find? fun r => r.entry == n && r.kind == .restripe).bind fun r => unstripe r.dies s r.lbase d l base
    [unstripe (bits c 0 4) s (bits c 12 28 * 4096) d l base, new].findSome? fun o => o.bind fun off =>
      if p.prtHolds off n && p.prtLoc off n == loc then some off else none

/-- The address that the black box gives for a location: a physical address, or the scratchpad form of R407. -/
def Pkg.addressOf (p : Pkg) (loc : Nat) : Nat :=
  if loc < 2 ^ 56 then p.number * 2 ^ 42 + (p.offOfLoc loc).getD 0
  else if loc < 2 ^ 63 then loc - 2 ^ 56
  else if loc < 2 ^ 64 then loc
  else if loc < 2 ^ 65 then 2 ^ 63 + (loc - 2 ^ 64) % 2 ^ 18
  else 2 ^ 63 + 2 ^ 62 + (loc - 2 ^ 65) % 2 ^ 22

/-- SRC of a black-box record about a location (R406). -/
def sourceOf (loc : Nat) : Nat :=
  let home := homeOf loc
  if home < 96 then 0x8000 + home
  else if home < 2000 then home - 100
  else if home < 3000 then 8 * (home - 2000)
  else 0xFFFF

/-- The array code of a UE event: the rows of R395 from 0 (log 9); a unit in a memory-side cache is one of row 0, and
spilled memory is met there. -/
def Pkg.arrayCode (p : Pkg) (loc : Nat) : Nat :=
  if 2 ^ 44 ≤ loc || p.poison.any (fun u => decide (2 ^ 80 ≤ u) && unitMeets u loc 1) then 0 else 2

/-- A UE event about a location (R396). -/
def Pkg.ueEvent (p : Pkg) (loc : Nat) : Pkg :=
  p.logEvent (dieOfHome (homeOf loc)) 0x01 (sourceOf loc) (p.addressOf loc) (p.arrayCode loc)

/-- A UE event about a unit in a core's L1 cache, an array of row 0 (R395, R396, log 9). -/
def Pkg.l1Event (p : Pkg) (core loc : Nat) : Pkg := p.logEvent (dieOfCore core) 0x01 core (p.addressOf loc) 0

/-! ### Keys (R371 to R373) -/

/-- May a key be used for this layout and world (R373)? -/
def Pkg.keyUsable (p : Pkg) (key layout : Nat) (secure : Bool) : Bool :=
  let k := p.ctl (offKeyctl key)
  bit k 0 && bits k 8 16 == layout && (!bit k 1 || secure)

/-- The 64 bytes of KEYDATA of a key. -/
def Pkg.keyBytes (p : Pkg) (key : Nat) : List Byte :=
  (List.range 8).flatMap fun d => bytesOf 8 (p.ctl (offKeydata key d)).toNat

/-! ### Pulls of migrating pages (R361, R362) -/

/-- The size of the page of a migration entry. -/
def migrationSize (sz : Nat) : Nat :=
  match sz with
  | 0 => 4096
  | 1 => 16384
  | 2 => 65536
  | 3 => 262144
  | _ => 2097152

/-- The migration entry that a physical address must be pulled under: STATE = 1, the address in NEW. -/
def Pkg.pulling (p : Pkg) (pa : Nat) : Option Nat :=
  (List.range 64).find? fun n =>
    let d0 := p.ctl (offMigration n 0)
    let new := (p.ctl (offMigration n 1)).toNat
    bits d0 1 2 == 1 && decide (new ≤ pa) && decide (pa < new + migrationSize (bits d0 3 3))

/-- The lines of a migration entry that are present. -/
def Pkg.presentLines (p : Pkg) (n : Nat) : List Nat := (tableGet p.present n).getD []

/-- The location that a physical address names for the package's own home agents, the fabric's and host's memory
included. -/
def Pkg.locOf (p : Pkg) (pa : Nat) : Option Nat :=
  match p.place pa with
  | .dram loc _ => some loc
  | .host loc => some loc
  | .remote loc _ => some loc
  | _ => none

/-- Line `line` of migration entry `n` is present; with the last of them the entry is done (R362). -/
def Pkg.linePresent (p : Pkg) (n line : Nat) : Pkg :=
  let d0 := p.ctl (offMigration n 0)
  let p := { p with present := tableSet p.present n (setInsert (p.presentLines n) line) }
  let count := (p.presentLines n).length
  let p := p.setCtl (offMigration n 3) (BitVec.ofNat 64 count)
  if count = migrationSize (bits d0 3 3) / 64 then p.setCtl (offMigration n 0) (setBits d0 1 2 2) else p

/-- The bytes of a line from `src` that are poisoned, as offsets with lengths; under a key all of each block of 16 bytes
that has one of them (R362, R372, R396). -/
def Pkg.badOf (p : Pkg) (src : Nat) (keyed : Bool) : List (Nat × Nat) :=
  let k := if keyed then 16 else 1
  (p.poison.filter fun u => unitMeets u src 64).map fun u =>
    let lo := (max (unitBase u) src - src) / k * k
    let hi := (min (unitBase u + unitSize u) (src + 64) - src + k - 1) / k * k
    (lo, hi - lo)

/-- The 64 bytes of a line at `dst`, poisoned where those at `src` that they come from are (R362, R396). -/
def State.putLine (s : State) (dst src : Nat) (keyed : Bool) (data : List Byte) : State :=
  match s.pkg.badOf src keyed with
  | [] => s.putBytes dst data
  | bad =>
    let s := bad.foldl (fun s b => s.poisonBytes (dst + b.1) b.2) (s.putBytes dst data)
    { s with pkg := s.pkg.ueEvent src }

/-- Line `line` of migration entry `n` pulled (R362): its 64 bytes brought from OLD, recoded under the key, and marked
present; a refused read of OLD or key fails the entry and poisons the line. -/
def State.pullLine (s : State) (n line : Nat) : State :=
  let p := s.pkg
  let d0 := p.ctl (offMigration n 0)
  let new := (p.ctl (offMigration n 1)).toNat + 64 * line
  let old := (p.ctl (offMigration n 2)).toNat + 64 * line
  match p.ownDram new with
  | none => s
  | some dst =>
    let key := bits d0 7 8
    let keyed := bit d0 6
    match (if keyed && !(bit (p.ctl (offKeyctl key)) 0 && !bit (p.ctl (offKeyctl key)) 1) then none else p.locOf old) with
    | none =>
      let s := s.poisonBytes dst 64
      { s with pkg := s.pkg.setCtl (offMigration n 0) (setBits d0 1 2 3) }
    | some src =>
      let data := s.getBytes src 64
      let data := if keyed then xtsUnit false (p.keyBytes key) new (xtsUnit true (p.keyBytes key) old data) else data
      let s := s.putLine dst src keyed data
      { s with pkg := s.pkg.linePresent n line }

/-- Does a migration entry pull (R361)? -/
def Pkg.migrating (p : Pkg) : Bool :=
  p.regs.any fun r =>
    decide (offMigration 0 0 ≤ r.1) && decide (r.1 < offMigration 64 0) && r.1 % 32 == 0 && bits r.2 1 2 == 1

/-- The line of a migration entry that an access to a location must pull first: the entry and the line (R362). -/
def Pkg.pullOf (p : Pkg) (loc : Nat) : Option (Nat × Nat) :=
  if 2 ^ 56 ≤ loc then none
  else
    match p.offOfLoc loc with
    | none => none
    | some off =>
      let pa := p.number * 2 ^ 42 + off
      match p.pulling pa with
      | none => none
      | some n =>
        let line := (pa - (p.ctl (offMigration n 1)).toNat) / 64
        if line ∈ p.presentLines n then none else some (n, line)

/-- Where line `line` of entry `n` comes from, where that lies in own DRAM. -/
def Pkg.oldLoc (p : Pkg) (n line : Nat) : Option Nat := p.ownDram ((p.ctl (offMigration n 2)).toNat + 64 * line)

/-- The state once the line of a location has been pulled, the bytes it comes from pulled before where they wait for a
pull themselves: along 64 entries at most (R362). -/
def State.pulledBy (s : State) (loc : Nat) : Nat → State
  | 0 => s
  | fuel + 1 =>
    match s.pkg.pullOf loc with
    | none => s
    | some (n, line) =>
      let s := match s.pkg.oldLoc n line with
        | some old => (s.pulledBy old fuel).pulledBy (old + 63) fuel
        | none => s
      s.pullLine n line

/-- The state once the line of a location of own DRAM has been pulled, where a migration entry covers it (R362). -/
def State.pulled (s : State) (loc : Nat) : State := if s.pkg.migrating then s.pulledBy loc 64 else s

/-- Line `line` of entry `n` pulled in the background (R362). -/
def State.pullNow (s : State) (n line : Nat) : State :=
  match s.pkg.ownDram ((s.pkg.ctl (offMigration n 1)).toNat + 64 * line) with
  | some loc => s.pulled loc
  | none => s

/-! ### Bytes at physical addresses -/

/-- The dword at a physical address of the package's own DRAM, as a pull of its line leaves it. -/
def State.physDword (s : State) (pa : Nat) : Option Nat :=
  (s.pkg.ownDram pa).map fun loc => natOf (Memory.read (s.pulled loc).mem loc 8)

/-- The bytes at a physical address of the package's own DRAM, one location a byte. -/
def State.physBytes (s : State) (pa n : Nat) : Option (List Byte) :=
  (List.range n).mapM fun i => (s.pkg.ownDram (pa + i)).map fun l => Memory.get (s.pulled l).mem l

/-- Bytes written to a physical address of the package's own DRAM, in pieces that stay in one aligned 8-byte unit. -/
def State.putPhys (s : State) (pa : Nat) : List (List Byte) → Option State
  | [] => some s
  | bs :: r =>
    match s.pkg.ownDram pa with
    | none => none
    | some l => ((s.pulled l).putBytes l bs).putPhys (pa + bs.length) r

/-- Dwords written to a physical address of the package's own DRAM. -/
def State.putDwords (s : State) (pa : Nat) (ds : List Dword) : Option State :=
  s.putPhys pa (ds.map fun d => bytesOf 8 d.toNat)

/-- What releases left at `n` bytes from a location forgotten: its bytes become another owner's (R198, R212). -/
def Pkg.forget (p : Pkg) (loc n : Nat) : Pkg :=
  { p with released := p.released.filter fun r => !(decide (r.key < loc + n) && decide (loc < r.key + r.size)) }

/-- Dwords read from a physical address of the package's own DRAM. -/
def State.physDwords (s : State) (pa n : Nat) : Option (List Dword) :=
  (List.range n).mapM fun i => (s.physDword (pa + 8 * i)).map (BitVec.ofNat 64)

/-- The state with `n` bytes from a location made zero, and nothing that a release left there. -/
def State.clearBytes (s : State) (loc n : Nat) : State :=
  { s with
    mem := s.mem.filter fun c => decide (c.1 < loc) || decide (loc + n ≤ c.1)
    pkg := { s.pkg with
      poison := s.pkg.poison.filter fun u => !unitWithin u loc n }.forget loc n }

/-- The lines of `n` bytes from a location pulled, each as an access to it does (R362). -/
def State.pulledLines (s : State) (loc n : Nat) : State :=
  if s.pkg.migrating then (List.range (n / 64)).foldl (fun s i => s.pulled (loc + 64 * i)) s else s

/-- A number of 4 KiB pages from a physical address of the package's own DRAM made zero. -/
def State.clearPages (s : State) (pa : Nat) : Nat → Option State
  | 0 => some s
  | n + 1 =>
    match s.pkg.ownDram pa with
    | none => none
    | some l => ((s.pulledLines l 4096).clearBytes l 4096).clearPages (pa + 4096) n

end Sys2Proof.Machine
end

