-- ==== Sys2Proof/Machine/Translate.lean ====
section
/-! DEFINITION. Two-stage translation (R349 to R358): page-table entries, the walks, descriptors, checks and TLBs. -/

namespace Sys2Proof.Machine

/-- What an access wants of a page (R356). -/
inductive Want where
  | fetch
  | load
  | store
  | atomic
deriving DecidableEq, Repr

/-- A leaf that a walk found: the base it maps to, its size, and its attributes (R350). -/
structure Leaf where
  base : Nat
  size : Nat
  r : Bool
  w : Bool
  x : Bool
  u : Bool
  rc : Bool
  kp : Bool
deriving DecidableEq, Repr

/-- The bytes that a leaf of level `l` with size code `sz` maps, 0 for a reserved code (R351). -/
def leafSize (l sz : Nat) : Nat :=
  match l, sz with
  | 1, 0 => 2 ^ 30
  | 1, 1 => 2 ^ 34
  | 2, 0 => 2 ^ 21
  | 2, 1 => 2 ^ 25
  | 3, 0 => 2 ^ 12
  | 3, 1 => 2 ^ 14
  | 3, 2 => 2 ^ 16
  | 3, 3 => 2 ^ 18
  | _, _ => 0

/-- The must-be-0 bits of an entry are 0 (R350). -/
def pteClean (tenant : Bool) (e : Nat) : Bool :=
  !e.testBit 11 && e / 2 ^ 52 % 2 ^ 11 == 0 &&
  (if tenant then !e.testBit 8 && !e.testBit 9 else !e.testBit 10 && !e.testBit 63)

/-- The address in an entry, with bit 63 of the tenant stage (R350). -/
def pteAddr (tenant : Bool) (e : Nat) : Nat :=
  e / 2 ^ 12 % 2 ^ 40 * 2 ^ 12 + (if tenant && e.testBit 63 then 2 ^ 63 else 0)

/-- What one entry of level `l` gives: nothing where it is invalid or malformed (R351), the next table, or a leaf. -/
def pteStep (tenant : Bool) (l e : Nat) : Option (Nat ⊕ Leaf) :=
  if !e.testBit 0 || !pteClean tenant e then none
  else
    let sz := e / 4 % 8
    if e.testBit 1 then
      if l < 3 && sz == 0 then some (.inl (pteAddr tenant e)) else none
    else
      let size := leafSize l sz
      let base := pteAddr tenant e
      if size == 0 || base % 2 ^ 63 % size != 0 then none
      else some (.inr ⟨base, size, e.testBit 5, e.testBit 6, e.testBit 7, e.testBit 8, e.testBit 9, e.testBit 10⟩)

/-- The index of an address at level `l` (R351). -/
def pteIndex (tenant : Bool) (l addr : Nat) : Nat :=
  addr / 2 ^ (39 - 9 * l) % (if tenant && l == 0 then 8192 else 512)

/-- The walk through the levels listed, from the table at `tbl`; `rd` reads a dword at a table address (R351, R355). -/
def walk (rd : Nat → Option Nat) (tenant : Bool) (addr : Nat) : List Nat → Nat → Option Leaf
  | [], _ => none
  | l :: ls, tbl =>
    match rd (tbl + 8 * pteIndex tenant l addr) with
    | none => none
    | some e =>
      match pteStep tenant l e with
      | none => none
      | some (.inl next) => walk rd tenant addr ls next
      | some (.inr leaf) => some leaf

/-- What that walk reads: the table addresses in order, each with its dword. -/
def walkPath (rd : Nat → Option Nat) (tenant : Bool) (addr : Nat) : List Nat → Nat → List (Nat × Nat)
  | [], _ => []
  | l :: ls, tbl =>
    let a := tbl + 8 * pteIndex tenant l addr
    match rd a with
    | none => []
    | some e =>
      (a, e) :: match pteStep tenant l e with
        | some (.inl next) => walkPath rd tenant addr ls next
        | _ => []

/-- A tenant descriptor (R354). -/
structure TenantDesc where
  valid : Bool
  stage : Bool
  root : Nat
  prtMask : Dword
  host : Bool
deriving DecidableEq, Repr

/-- A context descriptor (R354). -/
structure ContextDesc where
  valid : Bool
  root : Nat
  htBase : Nat
  htN : Nat
  tid : Nat
  secure : Bool
  spriv : Nat
  sclus : Nat
deriving DecidableEq, Repr

/-- The address of the tenant descriptor of a TID (R354). -/
def Pkg.tenantAt (p : Pkg) (tid : Nat) : Nat := bits (p.ctl offTentbase) 12 40 * 4096 + 32 * tid

/-- The address of the context descriptor of a CTXID (R354). -/
def Pkg.contextAt (p : Pkg) (ctx : Nat) : Nat := bits (p.ctl offCtxtbase) 12 40 * 4096 + 64 * ctx

/-- The tenant descriptor at an address, its dwords read by `rd`; none where its table lies outside the package's own
DRAM (R353). -/
def tenantDescBy (rd : Nat → Option Nat) (a : Nat) : Option TenantDesc :=
  match rd a, rd (a + 8), rd (a + 16) with
  | some d0, some d1, some d2 =>
    some ⟨d0.testBit 0, d0.testBit 1, d0 / 2 ^ 12 % 2 ^ 40 * 2 ^ 12, BitVec.ofNat 64 d1, d2.testBit 0⟩
  | _, _, _ => none

/-- The context descriptor at an address, its dwords read by `rd`. -/
def contextDescBy (rd : Nat → Option Nat) (a : Nat) : Option ContextDesc :=
  match rd a, rd (a + 8), rd (a + 16), rd (a + 24) with
  | some d0, some d1, some d2, some d3 =>
    some ⟨d0.testBit 0, d0 / 2 ^ 12 % 2 ^ 40 * 2 ^ 12, d1, d2 % 2 ^ 16, d2 / 2 ^ 16 % 2 ^ 12, d2.testBit 28,
      min 64 (d3 % 256), min 64 (d3 / 256 % 256)⟩
  | _, _, _, _ => none

/-- The tenant descriptor of a TID, as memory holds it. -/
def State.tenantDesc (s : State) (tid : Nat) : Option TenantDesc := tenantDescBy s.physDword (s.pkg.tenantAt tid)

/-- The context descriptor of a CTXID, as memory holds it. -/
def State.contextDesc (s : State) (ctx : Nat) : Option ContextDesc := contextDescBy s.physDword (s.pkg.contextAt ctx)

/-- A dword of a descriptor as the package has it: a change of a valid one takes effect only after the tlbinv that drops what
a walk has kept of it (R357). -/
def State.seenDword (s : State) (ctx : Option Nat) (a : Nat) : Option Nat :=
  ((List.range 4).findSome? fun d =>
    ((s.pkg.die d).walks.find? fun e => e.desc && e.ctx == ctx && e.addr == a).map (·.value)).or (s.physDword a)

/-- The tenant descriptor of a TID, as homes, handles and the host's window have it. -/
def State.seenTenant (s : State) (tid : Nat) : Option TenantDesc := tenantDescBy (s.seenDword none) (s.pkg.tenantAt tid)

/-- The context descriptor of a CTXID, as copies and gkill have it. -/
def State.seenContext (s : State) (ctx : Nat) : Option ContextDesc := contextDescBy (s.seenDword (some ctx)) (s.pkg.contextAt ctx)

/-- What an access by a tenant that no hart of the package runs for keeps of its descriptor (R357). -/
def State.keepTenant (s : State) (die tid : Nat) : State :=
  let a := s.pkg.tenantAt tid
  let es : List WalkEntry := (List.range 3).filterMap fun i =>
    (s.seenDword none (a + 8 * i)).map fun v => ⟨true, none, tid, a + 8 * i, v⟩
  if (s.seenTenant tid).any (·.valid) then
    { s with pkg := s.pkg.onDie die fun d => { d with walks := (es.filter fun e => !d.walks.contains e) ++ d.walks } }
  else s

/-- May an access of this tenant and world reach a DRAM location decoded by PRT entry `n` (R368)? -/
def State.homeAdmits (s : State) (tid n : Nat) (secure : Bool) : Bool :=
  match s.seenTenant tid with
  | none => false
  | some td => td.valid && bit td.prtMask n && (!bit (s.pkg.ctl offSecmask) n || secure)

/-- Where walks read: the walk cache of the die, the context and the tenant that they are formed under (R357, R358). -/
structure Walker where
  cache : List WalkEntry
  ctx : Nat
  tid : Nat

/-- A dword that the walk cache holds. -/
def Walker.cached (k : Walker) (desc : Bool) (ctx : Option Nat) (addr : Nat) : Option Nat :=
  (k.cache.find? fun e => e.desc == desc && e.ctx == ctx && e.tid == k.tid && e.addr == addr).map (·.value)

/-- A dword of a tenant-stage table, or of a descriptor: from the walk cache, or memory. -/
def State.tableDword (s : State) (k : Walker) (desc : Bool) (ctx : Option Nat) (pa : Nat) : Option Nat :=
  (k.cached desc ctx pa).or (s.physDword pa)

/-- The tenant stage of an IPA (R354, R355): the identity while S2EN = 0, which is of no page size, so that the page is
that of the context stage (log 27). -/
def State.walkTenant (s : State) (k : Walker) (td : TenantDesc) (ipa : Nat) : Option Leaf :=
  if td.stage then walk (s.tableDword k false none) true ipa [0, 1, 2, 3] td.root
  else some ⟨0, 2 ^ 52, true, true, true, false, false, false⟩

/-- The physical address of an IPA. -/
def State.ipaPhys (s : State) (k : Walker) (td : TenantDesc) (ipa : Nat) : Option Nat :=
  (s.walkTenant k td ipa).map fun l => l.base + ipa % l.size

/-- The dword at an IPA, through the tenant stage: how the context stage reads its tables (R355). -/
def State.ipaDword (s : State) (k : Walker) (td : TenantDesc) (ipa : Nat) : Option Nat :=
  (k.cached false (some k.ctx) ipa).or ((s.ipaPhys k td ipa).bind s.physDword)

/-- The context stage of a VA (R355). -/
def State.walkContext (s : State) (k : Walker) (td : TenantDesc) (cd : ContextDesc) (va : Nat) : Option Leaf :=
  walk (s.ipaDword k td) false va [0, 1, 2, 3] cd.root

/-- The tenant-stage path of an IPA. -/
def State.pathTenant (s : State) (k : Walker) (td : TenantDesc) (ipa : Nat) : List (Nat × Nat) :=
  if td.stage then walkPath (s.tableDword k false none) true ipa [0, 1, 2, 3] td.root else []

/-- The context-stage path of a VA. -/
def State.pathContext (s : State) (k : Walker) (td : TenantDesc) (cd : ContextDesc) (va : Nat) : List (Nat × Nat) :=
  walkPath (s.ipaDword k td) false va [0, 1, 2, 3] cd.root

/-- Why a translation is refused (R355, R356); or a table that it reads is poisoned (R396). -/
inductive Denied where
  | translation
  | tenant
  | key
  | poison (loc : Nat)
deriving DecidableEq, Repr

/-- Who translates (R355): context, tenant, world, privilege. -/
structure Who where
  ctx : Nat
  tid : Nat
  secure : Bool
  priv : Priv
deriving DecidableEq, Repr

/-- The walker of a die for an access. -/
def State.walker (s : State) (die : Nat) (w : Who) : Walker := ⟨(s.pkg.die die).walks, w.ctx, w.tid⟩

/-- The context descriptor that a walk uses. -/
def State.contextFor (s : State) (k : Walker) : Option ContextDesc :=
  contextDescBy (s.tableDword k true (some k.ctx)) (s.pkg.contextAt k.ctx)

/-- The tenant descriptor that a walk uses. -/
def State.tenantFor (s : State) (k : Walker) : Option TenantDesc :=
  tenantDescBy (s.tableDword k true none) (s.pkg.tenantAt k.tid)

/-- The dwords that a full walk reads, as entries of the walk cache, each with the location read, none where it comes
from the cache (R355). -/
def State.walkReads (s : State) (k : Walker) (va : Nat) : List (WalkEntry × Option Nat) :=
  let at_ (hit : Bool) (pa : Option Nat) : Option Nat := if hit then none else pa.bind s.pkg.ownDram
  let desc (ctx : Option Nat) (base n : Nat) : List (WalkEntry × Option Nat) := (List.range n).filterMap fun i =>
    (s.tableDword k true ctx (base + 8 * i)).map fun v =>
      (⟨true, ctx, k.tid, base + 8 * i, v⟩, at_ (k.cached true ctx (base + 8 * i)).isSome (some (base + 8 * i)))
  let tenant (td : TenantDesc) (ipa : Nat) : List (WalkEntry × Option Nat) := (s.pathTenant k td ipa).map fun e =>
    (⟨false, none, k.tid, e.1, e.2⟩, at_ (k.cached false none e.1).isSome (some e.1))
  desc (some k.ctx) (s.pkg.contextAt k.ctx) 4 ++ desc none (s.pkg.tenantAt k.tid) 3 ++
  match s.contextFor k, s.tenantFor k with
  | some cd, some td =>
    (s.pathContext k td cd va).flatMap (fun e =>
      let hit := (k.cached false (some k.ctx) e.1).isSome
      (if hit then [] else tenant td e.1) ++ [(⟨false, some k.ctx, k.tid, e.1, e.2⟩, at_ hit (s.ipaPhys k td e.1))]) ++
    match s.walkContext k td cd va with
    | some leaf => tenant td (leaf.base + va % leaf.size)
    | none => []
  | _, _ => []

/-- What the walk cache keeps of a dword read: descriptors, and entries that name a further table. -/
def WalkEntry.keeps (e : WalkEntry) : Bool := e.desc || (e.value.testBit 0 && e.value.testBit 1)

/-- The translation that a full walk forms, as the TLB keeps it (R355 to R357): the smaller page of the two stages. -/
def State.formTranslation (s : State) (die : Nat) (w : Who) (va : Nat) : Except Denied TlbEntry :=
  let k := s.walker die w
  match (s.walkReads k va).findSome? fun r => r.2.bind fun l => if s.pkg.poisoned l 8 then some l else none with
  | some l => .error (.poison l)
  | none =>
  match s.contextFor k, s.tenantFor k with
  | some cd, some td =>
    if !cd.valid || !td.valid || cd.tid != w.tid || cd.secure != w.secure then .error .tenant
    else
      match s.walkContext k td cd va with
      | none => .error .translation
      | some e1 =>
        let ipa := e1.base + va % e1.size
        match s.walkTenant k td ipa with
        | none => .error .translation
        | some e2 =>
          let size := min e1.size e2.size
          let pa := e2.base + ipa % e2.size
          .ok ⟨w.ctx, w.tid, w.secure, va / size * size, size, pa - va % size, e1.r && e2.r, e1.w && e2.w,
            e1.x && e2.x, e1.u, e1.rc, e2.kp, td.host, td.prtMask⟩
  | _, _ => .error .translation

/-- A cached translation serves this access. -/
def TlbEntry.covers (e : TlbEntry) (w : Who) (va : Nat) : Bool :=
  e.ctx == w.ctx && e.tid == w.tid && e.secure == w.secure && decide (e.vbase ≤ va) && decide (va < e.vbase + e.size)

/-- The checks of R356 after the walk, in its order. -/
def State.checkAccess (s : State) (w : Who) (e : TlbEntry) (want : Want) (pa : Nat) : Except Denied Unit :=
  let user := w.priv == .user
  if (user && !e.u) || (w.priv == .supervisor && want == .fetch && e.u) then .error .translation
  else if !(match want with
    | .fetch => e.x
    | .load => e.r
    | .store => e.w
    | .atomic => e.r && e.w) then .error .translation
  else
    let place := s.pkg.place pa
    if decide (2 ^ 63 ≤ pa) && !e.hostOk then .error .tenant
    else if (match place with
      | .dram _ n => !bit e.prtMask n || (bit (s.pkg.ctl offSecmask) n && !w.secure)
      | _ => false) then .error .tenant
    else if e.kp && (want == .store || want == .atomic) then .error .key
    else .ok ()

/-- The cluster of a number, with nothing in it where it has not been used. -/
def Pkg.cluster (p : Pkg) (c : Nat) : Cluster := (tableGet p.clusters c).getD ⟨[], [], []⟩

/-- The lines that a walk reads pulled first (R362). -/
def State.pullWalk (s : State) (die : Nat) (w : Who) (va : Nat) : State :=
  if s.pkg.migrating then (s.walkReads (s.walker die w) va).foldl (fun s r => (r.2.map s.pulled).getD s) s else s

/-- The dwords of a walk kept in the walk cache of a die (R358). -/
def Pkg.keepWalk (p : Pkg) (die : Nat) (es : List WalkEntry) : Pkg :=
  p.onDie die fun d => { d with walks := (es.filter fun e => e.keeps && !d.walks.contains e).eraseDups ++ d.walks }

/-- The translation of a VA for the core of the state: from its L1 TLB, its cluster's L2 TLB, or a walk, with the TLBs
as they are afterwards (R357, R358). -/
def State.lookup (s : State) (w : Who) (va : Nat) : Except Denied TlbEntry × State :=
  match s.core.tlb.find? (·.covers w va) with
  | some e => (.ok e, s)
  | none =>
    let c := clusterOfCore s.core.id
    let keep (e : TlbEntry) (s : State) : State := { s with core := { s.core with tlb := (e :: s.core.tlb).take 64 } }
    match (s.pkg.cluster c).tlb.find? (·.covers w va) with
    | some e => (.ok e, keep e s)
    | none =>
      let die := dieOfCore s.core.id
      let s := s.pullWalk die w va
      match s.formTranslation die w va with
      | .error (.poison l) => (.error (.poison l), { s with pkg := s.pkg.ueEvent l })
      | .error d => (.error d, s)
      | .ok e =>
        let cl := s.pkg.cluster c
        let cl' := { cl with tlb := (e :: cl.tlb).take 4096 }
        let p := s.pkg.keepWalk die ((s.walkReads (s.walker die w) va).map (·.1))
        (.ok e, keep e { s with pkg := { p with clusters := tableSet p.clusters c cl' } })

/-- A VA translated and checked for the hart of the state (R355, R356): the physical address and the translation. -/
def State.translate (s : State) (w : Who) (want : Want) (va : Nat) : Except Denied (Nat × TlbEntry) × State :=
  if 2 ^ 48 ≤ va then (.error .translation, s)
  else
    let (r, s) := s.lookup w va
    match r with
    | .error d => (.error d, s)
    | .ok e =>
      let pa := e.pbase + (va - e.vbase)
      match s.checkAccess w e want pa with
      | .error d => (.error d, s)
      | .ok _ => (.ok (pa, e), s)

/-- Who the hart of the state is, for translation; an instruction of the VDQ is in the world that it captured (R34). -/
def State.who (s : State) : Who :=
  ⟨bits s.h.ctxid 0 16, bits s.h.tid 0 12, (s.h.head.map Head.secure).getD s.core.secure, s.h.priv⟩

end Sys2Proof.Machine
end

