-- ==== Sys2Proof/Machine/Phys.lean ====
section
/-! DEFINITION. Which core the state looks at, harts wherever they are, and the context save area of a hart (R381). -/

namespace Sys2Proof.Machine

/-! ### Cores and harts -/

/-- The cores beside the one the state looks at, without core `c`. -/
def dropCore (c : Nat) : List (Core × Hart) → List (Core × Hart)
  | [] => []
  | (k, h) :: r => if k.id = c then r else (k, h) :: dropCore c r

/-- A core put among them, in rising order of core number. -/
def putCore (k : Core) (h : Hart) : List (Core × Hart) → List (Core × Hart)
  | [] => [(k, h)]
  | (k', h') :: r =>
    if k.id < k'.id then (k, h) :: (k', h') :: r
    else if k.id = k'.id then (k, h) :: r
    else (k', h') :: putCore k h r

/-- Core `c` with its hart; a core that has not been used is as cold reset left it. -/
def State.coreAt (s : State) (c : Nat) : Core × Hart :=
  if s.core.id = c then (s.core, s.h)
  else (s.rest.find? (fun e => e.1.id == c)).getD (Core.reset c, Hart.reset 0)

/-- The state looking at core `c`. -/
def State.focus (s : State) (c : Nat) : State :=
  if s.core.id = c then s
  else
    let e := s.coreAt c
    { s with h := e.2, core := e.1, rest := putCore s.core s.h (dropCore c s.rest) }

/-- What `f` does to the state when it looks at core `c`, looked at from the core of before. -/
def State.onCore (s : State) (c : Nat) (f : State → State) : State := (f (s.focus c)).focus s.core.id

/-- All cores that have been used, with their harts. -/
def State.cores (s : State) : List (Core × Hart) := putCore s.core s.h s.rest

/-- Is a hart there? -/
def Hart.present (h : Hart) : Bool := h.status != .absent && h.status != .resuming

/-- A hart's name within the model: its gang and its place in it. -/
def Hart.ident (h : Hart) : Nat := h.gang * 8 + bits h.gidx 0 3

/-- HARTID (R44): GIDX in bits [2:0], the gang tag in [34:3]. -/
def Hart.hartid (h : Hart) : Nat := bits h.gidx 0 3 + bits h.gangid 0 32 * 8

/-- The core that a hart is on. -/
def State.coreOf (s : State) (id : Nat) : Option Nat :=
  (s.cores.find? fun e => e.2.present && e.2.ident == id).map (·.1.id)

/-- The gang of a number. -/
def State.gang? (s : State) (g : Nat) : Option Gang := s.pkg.gangs.find? (·.id == g)

/-- The state with gang `g` replaced by what `f` makes of it. -/
def State.onGang (s : State) (g : Nat) (f : Gang → Gang) : State :=
  { s with pkg := { s.pkg with gangs := s.pkg.gangs.map fun x => if x.id = g then f x else x } }

/-- Is a response still owed for a message (R217, R252, R279)? -/
def Msg.answered (m : Msg) : Bool :=
  match m.body with
  | .write _ => m.ack.isSome
  | .nibble _ _ _ => false
  | .contribution _ _ _ _ _ => false
  | .release _ _ _ _ => false
  | _ => true

/-- A launch.r to another package has been sent, and its response has not come (R384). -/
def Hart.launching (h : Hart) : Bool := h.launchAt.isSome && h.launchCode.isNone

/-- Is a hart, on a core or parked, waiting for the response to a launch.r? -/
def State.launchOut (s : State) (id : Nat) : Bool :=
  s.cores.any (fun e => e.2.present && e.2.ident == id && e.2.launching) ||
  s.pkg.gangs.any fun g => g.saved.any fun h => h.ident == id && h.launching

/-- The responses still owed to a hart (R381, OUT). -/
def State.owed (s : State) (id : Nat) : Nat :=
  bitOf (s.launchOut id) +
  (s.pkg.net.filter fun m => m.owner == id && m.answered).length + (s.pkg.resps.filter (·.owner == id)).length +
  (s.pkg.waiting.filter (·.owner == id)).length +
  (s.pkg.held.filter fun t => t.owner == id && (t.ordered || (match t.body with
    | .load _ _ _ => true
    | _ => false))).length

/-! ### The context save area -/

/-- The physical base of hart slot `slot` of the pool of a die and world (R376): the hart's context save area. -/
def Pkg.slotBase (p : Pkg) (die : Nat) (secure : Bool) (slot : Nat) : Nat :=
  bits (p.ctl (offTrap die secure 2)) 16 48 * 2 ^ 16 + 327680 * slot

/-- The physical base of gang slot `slot` (R376). -/
def Pkg.gangBase (p : Pkg) (die : Nat) (secure : Bool) (slot : Nat) : Nat :=
  bits (p.ctl (offTrap die secure 4)) 22 42 * 2 ^ 22 + 2 ^ 22 * slot

/-- The context save area of a hart. -/
def State.csaOf (s : State) (h : Hart) : Nat := s.pkg.slotBase h.poolDie h.poolSecure h.slot

/-- The code of a privilege (R47). -/
def Priv.code : Priv → Nat
  | .user => 0
  | .supervisor => 1
  | .machine => 2

/-- The privilege of a code. -/
def Priv.ofCode (n : Nat) : Priv :=
  match n with
  | 0 => .user
  | 1 => .supervisor
  | _ => .machine

/-- The STATE dword of the save area (R381), with the state number given. -/
def Hart.stateWord (h : Hart) (st : Nat) : Dword :=
  BitVec.ofNat 64 (st + min 40 h.sfq.length * 2 ^ 8 + min 32 h.vdq.length * 2 ^ 16 + bitOf h.deadline.isSome * 2 ^ 24 +
    bitOf h.notice * 2 ^ 25 + bitOf h.uncorrectable.isSome * 2 ^ 26)

/-- Dword 3 of the save area: hart slot, gang slot, die of the pools, world (R381). -/
def Hart.slotWord (h : Hart) (gslot : Option Nat) : Dword :=
  BitVec.ofNat 64 (h.slot + gslot.getD 0xFFFF * 2 ^ 16 + h.poolDie * 2 ^ 32 + bitOf h.poolSecure * 2 ^ 34)

/-- The 32 dwords at 0x0140 of the save area (R381). -/
def Hart.controlWords (h : Hart) : List Dword :=
  [h.pc, h.fcsr, h.vl, h.vstart, h.mvl, h.mvc] ++ h.rngkey.toList ++
  [h.rngctr, h.tguard, h.tlate, h.instret, h.gangid, h.gidx, h.gangsz, h.ctxid, h.tid, h.epc, h.ecause, h.eval,
    h.eslice, h.estat, BitVec.ofNat 64 h.priv.code] ++ List.replicate 7 0

/-- The two dwords of each store-fault record from 0x0800, four dwords a record (R390), 40 records (R381). -/
def Hart.faultWords (h : Hart) : List Dword :=
  let one (r : SfRecord) : List Dword :=
    [r.va, BitVec.ofNat 64 (bits r.pc 0 48 + r.mask.toNat * 2 ^ 48 + r.cause.toNat * 2 ^ 56), 0, 0]
  let ds := (h.sfq.take 40).flatMap one
  ds ++ List.replicate (160 - ds.length) 0

/-- The dwords at 0x1500: a DEADLINE's EVAL, up to 16 COPY_ERROR EVALs, an UNCORRECTABLE's EVAL (R381). -/
def Hart.reportWords (h : Hart) : List Dword :=
  let errs := h.copyErrs.take 16
  [h.deadline.getD 0] ++ errs ++ List.replicate (16 - errs.length) 0 ++ [h.uncorrectable.getD 0] ++
    List.replicate 14 0

/-- The dwords of a register wider than 64 bits. -/
def wideWords (n : Nat) {w : Nat} (v : BitVec w) : List Dword :=
  (List.range n).map fun i => BitVec.ofNat 64 (v.toNat / 2 ^ (64 * i))

/-- The areas of the save area with a format, as (offset, dwords) (R381); `out` is the responses still owed. -/
def Hart.csaAreas (h : Hart) (st out : Nat) (gang : Option Gang) : List (Nat × List Dword) :=
  [(0x0000, [h.stateWord st, BitVec.ofNat 64 out, h.pbmp, h.slotWord (gang.bind (·.gslot))]),
   (0x0040, 0 :: (h.x.toList.drop 1)),
   (0x0140, h.controlWords),
   (0x0540, h.cc.toList),
   (0x05C0, wideWords 8 (BitVec.ofNat 512 (natOf h.bar.toList))),
   (0x0600, h.m.toList.flatMap (wideWords 4)),
   (0x0800, h.faultWords),
   (0x1500, h.reportWords),
   (0x2000, h.v.toList.flatMap (wideWords 16))] ++
  (if bits h.gidx 0 3 = 0 then [(0x1600, wideWords 16 ((gang.map (·.ptbmp)).getD 0))] else [])

/-- Areas written at a physical base. -/
def State.putAreas (s : State) (base : Nat) : List (Nat × List Dword) → Option State
  | [] => some s
  | (off, ds) :: r =>
    match s.putDwords (base + off) ds with
    | none => none
    | some s => s.putAreas base r

/-- The hart's state saved to its save area (R385, R381). -/
def State.saveCsa (s : State) (h : Hart) (st out : Nat) : Option State :=
  s.putAreas (s.csaOf h) (h.csaAreas st out (s.gang? h.gang))

/-- A vector of registers from dwords, `n` dwords each. -/
def widenWords (w n : Nat) (ds : List Dword) (i : Nat) : BitVec w :=
  BitVec.ofNat w (natOf (((ds.drop (n * i)).take n).flatMap fun d => bytesOf 8 d.toNat))

/-- A store-fault record from its dwords. -/
def recordOf (d0 d1 : Dword) : SfRecord :=
  ⟨d0, BitVec.ofNat 64 (bits d1 0 48), BitVec.ofNat 8 (bits d1 48 8), BitVec.ofNat 8 (bits d1 56 8)⟩

/-- The store-fault records that a hart's save area holds: SFQN of them from 0x0800 (R381, R390). -/
def State.savedFaults (s : State) (h : Hart) : Option (List SfRecord) :=
  match s.physDwords (s.csaOf h) 1, s.physDwords (s.csaOf h + 0x800) 160 with
  | some w, some f =>
    some ((List.range (min 40 (bits (w.getD 0 0) 8 8))).map fun i => recordOf (f.getD (4 * i) 0) (f.getD (4 * i + 1) 0))
  | _, _ => none

/-- The records of a hart's save area, 40 at most, oldest first, and SFQN with them (R381, R390). -/
def State.putFaults (s : State) (h : Hart) (rs : List SfRecord) : Option State :=
  match s.physDwords (s.csaOf h) 1 with
  | some [w] =>
    let n := BitVec.ofNat 64 (min 40 rs.length)
    s.putAreas (s.csaOf h) [(0, [setBits w 8 8 n.toNat]), (0x800, ({ h with sfq := rs } : Hart).faultWords)]
  | _ => none

/-- A store-fault record of the hart of the state: into its queue, or into its save area where the queue holds 8 (R390). -/
def State.keepFault (r : SfRecord) (s : State) : Option State :=
  if s.h.sfq.length < 8 then some { s with h := { s.h with sfq := s.h.sfq ++ [r] } }
  else (s.savedFaults s.h).bind fun rs => s.putFaults s.h (rs ++ [r])

/-- The oldest record of the hart of the state removed; the oldest that remains in its save area moves into the queue
(R390). -/
def State.dropFault (s : State) : Option State :=
  (s.savedFaults s.h).bind fun rs =>
    let s' : State := { s with h := { s.h with sfq := s.h.sfq.tail ++ rs.take 1 } }
    if rs.isEmpty then some s' else s'.putFaults s.h rs.tail

/-- The virtual address of a hart's save area in the pool of its die (R378). -/
def State.areaVa (s : State) (h : Hart) : Dword :=
  BitVec.ofNat 64 (bits (s.pkg.ctl (offTrap h.poolDie h.poolSecure 6)) 16 48 * 2 ^ 16 + 327680 * h.slot)

/-- The first poisoned line among those of a save area that its hart is loaded from: its offset and location (R396). -/
def State.areaPoison (s : State) (h : Hart) : Option (Nat × Nat) :=
  if s.pkg.poison.isEmpty then none
  else (List.range 192).findSome? fun i => (s.pkg.ownDram (s.csaOf h + 64 * i)).bind fun l =>
    if s.pkg.poisoned l 64 then some (64 * i, l) else none

/-- The package with the UE event of a save area that is read poisoned. -/
def State.areaRead (s : State) (h : Hart) : State :=
  match s.areaPoison h with
  | some (_, l) => { s with pkg := s.pkg.ueEvent l }
  | none => s

/-- The hart as its save area holds it, over what is opaque there (R381, R386). What it reads poisoned is owed to it as
UNCORRECTABLE (R396, log 83). -/
def State.loadCsa (s : State) (h : Hart) : Option Hart :=
  let base := s.csaOf h
  match s.physDwords base 4, s.physDwords (base + 0x40) 32, s.physDwords (base + 0x140) 32,
    s.physDwords (base + 0x540) 16, s.physDwords (base + 0x5C0) 8, s.physDwords (base + 0x600) 64,
    s.physDwords (base + 0x800) 160, s.physDwords (base + 0x1500) 18, s.physDwords (base + 0x2000) 512 with
  | some w, some x, some c, some cc, some b, some m, some f, some r, some v =>
    let st := w.getD 0 0
    let at_ (i : Nat) : Dword := c.getD i 0
    some { h with
      x := Vector.ofFn fun i : Fin 32 => if i.val = 0 then 0 else x.getD i.val 0
      pc := at_ 0, fcsr := at_ 1, vl := at_ 2, vstart := at_ 3, mvl := at_ 4, mvc := at_ 5
      rngkey := #v[at_ 6, at_ 7, at_ 8, at_ 9]
      rngctr := at_ 10, tguard := at_ 11, tlate := at_ 12, instret := at_ 13, gangid := at_ 14, gidx := at_ 15
      gangsz := at_ 16, ctxid := at_ 17, tid := at_ 18, epc := at_ 19, ecause := at_ 20, eval := at_ 21
      eslice := at_ 22, estat := at_ 23, priv := Priv.ofCode (bits (at_ 24) 0 2)
      cc := Vector.ofFn fun i : Fin 16 => cc.getD i.val 0
      bar := Vector.ofFn fun i : Fin 64 => BitVec.ofNat 8 ((b.getD (i.val / 8) 0).toNat / 2 ^ (8 * (i.val % 8)))
      m := Vector.ofFn fun i : Fin 16 => widenWords 256 4 m i.val
      v := Vector.ofFn fun i : Fin 32 => widenWords 1024 16 v i.val
      sfq := (List.range (bits st 8 8)).map fun i => recordOf (f.getD (4 * i) 0) (f.getD (4 * i + 1) 0)
      deadline := if bit st 24 then some (r.getD 0 0) else none
      uncorrectable := match s.areaPoison h with
        | some (off, _) => some (s.areaVa h + BitVec.ofNat 64 off)
        | none => if bit st 26 then some (r.getD 17 0) else none
      copyErrs := ((r.drop 1).take 16).filter (· != 0)
      notice := bit st 25
      pbmp := w.getD 2 0 }
  | _, _, _, _, _, _, _, _, _ => none

/-- The state with what `f` makes of a parked hart, in its save area and in its gang (R381). -/
def State.onParked (s : State) (g : Gang) (h : Hart) (f : Hart → Hart) : Option State :=
  match s.loadCsa h with
  | none => none
  | some h' =>
    let h' := f h'
    let s := (s.areaRead h).onGang g.id fun g => { g with saved := g.saved.map fun k => if k.ident = h'.ident then h' else k }
    s.saveCsa h' 2 (s.owed h'.ident)

/-- OUT of a parked hart's save area brought up to date (R381). -/
def State.refreshOut (s : State) (id : Nat) : Option State :=
  match s.pkg.gangs.findSome? fun g => g.saved.find? fun h => h.ident == id with
  | none => some s
  | some h => s.putDwords (s.csaOf h + 8) [BitVec.ofNat 64 (s.owed id)]

/-- The parked hart of a name with its gang. -/
def State.parkedHart (s : State) (id : Nat) : Option (Gang × Hart) :=
  s.pkg.gangs.findSome? fun g => (g.saved.find? fun h => h.ident == id).map fun h => (g, h)

/-- The state with what `f` makes of a hart, on a core or parked; as it was where there is none, and nothing where the
save area is unreachable. -/
def State.onHart (s : State) (id : Nat) (f : Hart → Hart) : Option State :=
  match s.coreOf id with
  | some c => some (s.onCore c fun s => { s with h := f s.h })
  | none =>
    match s.parkedHart id with
    | some (g, h) => s.onParked g h f
    | none => some s

/-- A hart, on a core or parked. -/
def State.hart? (s : State) (id : Nat) : Option Hart :=
  match s.cores.find? fun e => e.2.present && e.2.ident == id with
  | some e => some e.2
  | none => (s.parkedHart id).map (·.2)

end Sys2Proof.Machine
end

