-- ==== Sys2Proof/Machine/Outcome.lean ====
section
/-! DEFINITION. How a meaning ends: with a value and a state, with a trap (R375), by waiting, or stopped. Meanings with
several such ends are written in the monad `M`. -/

namespace Sys2Proof.Machine

/-- A trap to be taken (R375): cause, EVAL, EPC where it is not the instruction's own address, ESTAT.IMP, ESTAT.EVV,
and the row of a slice-precise trap. -/
structure Trap where
  cause : Nat
  value : Dword
  epc : Option Dword := none
  imp : Bool := false
  evv : Bool := false
  slice : Option Nat := none
deriving DecidableEq, Repr

/-- An end other than a value: a trap raised in a state; a wait, with nothing done; a wait with what has been done so
far kept, the instruction to be executed again (R384); the instruction passed to the VDQ, which has its effect when it
gets there (R14, R40); a stop. -/
inductive Exit where
  | trap (t : Trap) (s : State)
  | wait
  | again (s : State)
  | queued (s : State)
  | stop (f : Fault)
deriving DecidableEq, Repr

/-- A computation over the state that may end so. -/
abbrev M (α : Type) : Type := StateT State (Except Exit) α

/-- What a step answers. -/
abbrev Out : Type := Host.Outcome State Fault Refusal

/-- Raise a trap. -/
def raise {α : Type} (t : Trap) : M α := fun s => .error (.trap t s)

/-- Raise a precise trap of this cause and value. -/
def trapOf {α : Type} (cause : Nat) (value : Dword) : M α := raise { cause := cause, value := value }

/-- Wait, with nothing done. -/
def hold {α : Type} : M α := fun _ => .error .wait

/-- Wait, with what has been done so far kept. -/
def again {α : Type} : M α := fun s => .error (.again s)

/-- Wait unless the condition holds. -/
def await (b : Bool) : M Unit := if b then pure () else hold

/-- Raise a precise trap when the condition holds. -/
def trapIf (b : Bool) (cause : Nat) (value : Dword) : M Unit := if b then trapOf cause value else pure ()

/-- The state that a partial operation on save areas leaves, or the stop where the save area is unreachable. -/
def orStop (f : State → Option State) : M Unit := fun s =>
  match f s with
  | some s => .ok ((), s)
  | none => .error (.stop .csaUnreachable)

/-- The state of the core with number `c`, worked on by `f`, and back. -/
def onCoreM {α : Type} (c : Nat) (f : M α) : M α := do
  let here := (← get).core.id
  modify (·.focus c)
  let a ← f
  modify (·.focus here)
  pure a

/-- An instruction whose parts must take effect once: where it has to come again, only arrays it woke stay woken. -/
def allOrNothing {α : Type} (m : M α) : M α := fun s =>
  match m s with
  | .error (.again t) => .error (.again { s with pkg := { s.pkg with retention := t.pkg.retention, arraySince := t.pkg.arraySince } })
  | r => r

/-! ### Causes (R375) -/

def causeIllegal : Nat := 0x01
def causePriv : Nat := 0x02
def causeFetchMisaligned : Nat := 0x03
def causeFetchFault : Nat := 0x04
def causeLoadMisaligned : Nat := 0x05
def causeLoadFault : Nat := 0x06
def causeStoreFault : Nat := 0x07
def causeAtomicFault : Nat := 0x08
def causeFp : Nat := 0x09
def causeAcc : Nat := 0x0A
def causeRace : Nat := 0x0B
def causeDeadline : Nat := 0x0C
def causeCopy : Nat := 0x0D
def causeSub : Nat := 0x0E
def causeTrap : Nat := 0x0F
def causeBreak : Nat := 0x10
def causePreempt : Nat := 0x11
def causeKilled : Nat := 0x12
def causeUncorrectable : Nat := 0x13
def causeTenant : Nat := 0x14
def causeKey : Nat := 0x15

/-- The cause of a refused translation; `f` is the access's own fault (R355, R356). -/
def Denied.cause (f : Nat) : Denied → Nat
  | .translation => f
  | .tenant => causeTenant
  | .key => causeKey
  | .poison _ => causeUncorrectable

end Sys2Proof.Machine
end

