-- ==== Sys2Proof/Machine/Homes.lean ====
section
/-! DEFINITION. The homes of locations: what an atomic writes (R230), happens-before and race records (R198, R202,
R213), and the accesses that wait (R247, R258, R296, R397, R398). -/

namespace Sys2Proof.Machine

/-! ### Atomics (R230, R233, R235) -/

/-- The floating format of an atomic. -/
def AtomicOp.fmt (o : AtomicOp) : Fmt :=
  if o.width = 64 then .f64 else if o.width = 32 then .f32 else if o.brain then .bf16 else .f16

/-- The value that an atomic writes, and the flags it raises (R230). -/
def AtomicOp.apply (o : AtomicOp) (old v expected : Nat) : Nat × Flags :=
  let w := o.width
  let less (a b : Nat) : Bool := decide (signExtend a w < signExtend b w)
  match o.op with
  | 0 => (v, 0)
  | 1 => if o.floating then o.fmt.sum o.rm o.sat [o.fmt.value old, o.fmt.value v] else ((old + v) % 2 ^ w, 0)
  | 2 => (old &&& v, 0)
  | 3 => (old ||| v, 0)
  | 4 => (old ^^^ v, 0)
  | 5 => if o.floating then (o.fmt.minMax false old v, 0) else (if less v old then v else old, 0)
  | 6 => if o.floating then (o.fmt.minMax true old v, 0) else (if less old v then v else old, 0)
  | 7 => (min old v, 0)
  | 8 => (max old v, 0)
  | 9 => (if old = expected then v else old, 0)
  | 10 => o.fmt.sum o.rm o.sat [o.fmt.value old, o.fmt.value v]
  | 11 => (o.fmt.minMax false old v, 0)
  | _ => (o.fmt.minMax true old v, 0)

/-! ### Happens-before (R198, R202, R213) -/

/-- Two points in happens-before joined. -/
def clockJoin (a b : List (Nat × Nat)) : List (Nat × Nat) :=
  b.foldl (fun c e => tableSet c e.1 (max e.2 ((tableGet c e.1).getD 0))) a

/-- The point of a hart's next access in its own component. -/
def Hart.point (h : Hart) : Nat := (tableGet h.clock h.ident).getD 0 + 1

/-- A hart after a release: what the release publishes is its clock (R198). -/
def Hart.released (h : Hart) : Hart := { h with clock := tableSet h.clock h.ident h.point }

/-- A hart that has acquired a clock. -/
def Hart.acquired (h : Hart) (c : List (Nat × Nat)) : Hart := { h with clock := clockJoin h.clock c }

/-- The quadrant of a core, package wide (R12). -/
def quadrantOf (core : Nat) : Nat := 4 * dieOfCore core + clusOfCore core % 8 / 4 + 2 * (clusOfCore core / 8 / 3)

/-- The core under which an agent of another package is named (R192): beyond the cores of this one. -/
def foreignCore (core : Nat) : Nat := 2 ^ 40 + core

/-- Do two agents, each named by hart, core and TID, share an instance of this scope (R192)? -/
def sharesScope (scope : Nat) (h1 c1 t1 h2 c2 t2 : Nat) : Bool :=
  match scope with
  | 0 => h1 == h2
  | 1 => h1 == h2
  | 2 => h1 / 8 == h2 / 8
  | 3 => clusterOfCore c1 == clusterOfCore c2
  | 4 => quadrantOf c1 == quadrantOf c2
  | 5 => dieOfCore c1 == dieOfCore c2
  | 6 => c1 / 2 ^ 40 == c2 / 2 ^ 40
  | 7 => c1 / 2 ^ 40 == c2 / 2 ^ 40
  | 8 => t1 == t2
  | _ => decide (scope < 32)

/-- The releases whose bytes a read of `n` bytes from a location reads (R198). -/
def Pkg.releasesAt (p : Pkg) (loc n : Nat) : List Released :=
  p.released.filter fun r => decide (r.key < loc + n) && decide (loc < r.key + r.size) && r.time.isNone

/-- What an acquire at `scope` by an agent, named by hart, core and TID, takes up of these releases (R198). -/
def takenUp (scope me core tid : Nat) (rs : List Released) : List (Nat × Nat) :=
  let ok (r : Released) : Bool :=
    sharesScope scope me core tid r.hart r.core r.tid && sharesScope r.scope me core tid r.hart r.core r.tid
  (rs.filter ok).foldl (fun c r => clockJoin c r.clock) []

/-- The hart of the state after an acquire at `scope` of these releases (R198). -/
def State.acquireOf (s : State) (scope : Nat) (rs : List Released) : State :=
  { s with h := s.h.acquired (takenUp scope s.h.ident s.core.id (bits s.h.tid 0 12) rs) }

/-- A hart that has read these releases, for a later fence (R199). -/
def Hart.noted (rs : List Released) (h : Hart) : Hart :=
  { h with observed := h.observed ++ rs.filter fun r => !h.observed.contains r }

/-- A read by the hart of the state of `n` bytes from a location: an acquire at `scope`, or noted for a later fence
(R198, R199). -/
def State.observe (s : State) (scope : Option Nat) (loc n : Nat) : State :=
  let rs := s.pkg.releasesAt loc n
  match scope with
  | some sc => s.acquireOf sc rs
  | none => { s with h := s.h.noted rs }

/-- What releases have left, without those of whose bytes a write that is no atomic now covers some (R198); what timed writes
have left stays (R205, R207). R198 speaks of the value that a load reads; that a load of some of a release's bytes reads it,
and that a later write of some of them leaves nothing of it, is the model's choice for accesses of mixed sizes (log 91). -/
def Pkg.overwritten (p : Pkg) (loc n : Nat) : Pkg :=
  { p with released := p.released.filter fun r =>
      r.time.isSome || !(decide (r.key < loc + n) && decide (loc < r.key + r.size)) }

/-- What a release leaves at its bytes, beside what they hold. -/
def Pkg.leave (p : Pkg) (r : Released) : Pkg := { p with released := r :: p.released.filter (· != r) }

/-- The points of the releases at a location joined, for writers that carry on what earlier ones released (R204). -/
def Pkg.clockAt (p : Pkg) (loc n : Nat) : List (Nat × Nat) :=
  (p.releasesAt loc n).foldl (fun c r => clockJoin c r.clock) []

/-- Where the counted chunks of a hart's copies are kept for its acquires: those that advanced counter `i`, or those
that set bit `b` of mask register `r` (R209). -/
def counterKey (hart i : Nat) : Nat := 2 ^ 71 + 8192 * hart + i
/-- The place of bit `b` of mask register `r`. -/
def maskKey (hart r b : Nat) : Nat := counterKey hart (256 + 256 * r + b)

/-- The point that the chunks counted at a place give. -/
def Pkg.countedClock (p : Pkg) (key : Nat) : List (Nat × Nat) :=
  ((p.released.find? fun r => r.key == key).map (·.clock)).getD []

/-- A chunk's point put in a place of its own, beside what stands there where it is to be kept. -/
def Pkg.counted (p : Pkg) (key : Nat) (keep : Bool) (clock : List (Nat × Nat)) : Pkg :=
  let clock := if keep then clockJoin (p.countedClock key) clock else clock
  { p with released := ⟨key, 1, 0, 0, 0, 0, none, clock⟩ :: p.released.filter fun r => r.key != key }

/-- A chunk's point noted with the COUNT that it brought a counter to. -/
def Pkg.countedTo (p : Pkg) (key count : Nat) (clock : List (Nat × Nat)) : Pkg :=
  { p with released := ⟨key, 1, count, 0, 0, 0, none, clock⟩ :: p.released }

/-- A counter set to a COUNT: the chunks that it counted before stand under that number. -/
def Pkg.recounted (p : Pkg) (key count : Nat) : Pkg :=
  { p with released := p.released.map fun r => if r.key = key then { r with hart := count } else r }

/-- The hart of the state after it acquired the chunks that a counter counted up to `n` (R209). -/
def State.acquireCounter (s : State) (cc n : Nat) : State :=
  let rs := s.pkg.released.filter fun r =>
    r.key == counterKey s.h.ident cc && decide ((n + 2 ^ 32 - r.hart % 2 ^ 32) % 2 ^ 32 < 2 ^ 31)
  { s with h := rs.foldl (fun h r => h.acquired r.clock) s.h }

/-- The hart of the state after it acquired the chunks whose bits are 1 in mask register `r` (R209). -/
def State.acquireMask (s : State) (r : Nat) : State :=
  let ks := (List.range 256).filter fun b => (s.h.m.getD r 0).getLsbD b
  { s with h := ks.foldl (fun h b => h.acquired (s.pkg.countedClock (maskKey s.h.ident r b))) s.h }

/-- Is the granule's last plain writer another hart whose write does not happen before this access (R213)? -/
def Pkg.racing (p : Pkg) (hart : Nat) (clock : List (Nat × Nat)) (loc : Nat) : Bool :=
  match tableGet p.races (loc / 64) with
  | none => false
  | some r => r.hart != hart && decide ((tableGet clock r.agent).getD 0 < r.point)

/-- A race record made by a plain store or copy write (R213), at a cluster scratchpad or a memory-side cache. -/
def Pkg.raceMark (p : Pkg) (loc hart agent point : Nat) : Pkg :=
  { p with races := tableSet p.races (loc / 64) ⟨hart, agent, point⟩ }

/-- The name under which an agent of another package is recorded (R202, R213, log 84). -/
def foreignAgent (hartid : Nat) : Nat := 2 ^ 72 + hartid

/-- Homes that keep race records (R213): memory-side caches of this package and cluster scratchpads. -/
def raceHome (loc : Nat) : Bool := decide (loc < 2 ^ 56) || decide (2 ^ 65 ≤ loc)

/-! ### Accesses that wait, and bytes that a controller holds -/

/-- The row of a location of DRAM within its pseudo-channel, and the pseudo-channel (log 10): the 1 KiB blocks of the
controller in order, and the four channels of R180. -/
def rowOf (loc : Nat) : Nat × Nat := (loc % 2 ^ 40 / 24576, loc % 2 ^ 40 / 256 % 4)

/-- Is the location in a row of the tables listed (controller, pseudo-channel, rows, end)? -/
def inRows (t : List (Nat × Nat × List Nat × Nat)) (loc : Nat) : Bool :=
  decide (loc < 2 ^ 44) && t.any fun e => e.1 == homeOf loc && e.2.1 == (rowOf loc).2 && e.2.2.1.contains (rowOf loc).1

/-- The scratchpad array of a location: a core's number, or 1536 + cluster. -/
def arrayOf (loc : Nat) : Option Nat :=
  if loc < 2 ^ 64 then none
  else if loc < 2 ^ 65 then some ((loc - 2 ^ 64) / 2 ^ 18)
  else some (1536 + (loc - 2 ^ 65) / 2 ^ 22)

/-- Is the granule of 64 bytes pending under a graph copy (R296)? -/
def Pkg.pendingAt (p : Pkg) (loc : Nat) : Bool := p.pending.any fun g => g.key == loc / 64 && !g.copies.isEmpty

/-- Must an access to this location wait: for its array to leave retention (R397), for a remap table to be rebuilt
(R398), or for a scratchpad's die to finish a relock (R258)? In a package that has tripped nothing is served (R25). -/
def Pkg.stalled (p : Pkg) (loc : Nat) : Bool :=
  p.tripped || match arrayOf loc with
  | some a => (tableGet p.retention a).isSome || (p.die (dieOfHome (homeOf loc))).relockEnd.isSome
  | none => inRows p.rebuilding loc

/-- Does any DRAM wait for a copy or a rebuild (R173, R398)? -/
def Pkg.homesHold (p : Pkg) : Bool := !p.pending.isEmpty || !p.rebuilding.isEmpty

/-- Must an access by physical address, of tables, descriptors, queue slots, save areas and backing areas, wait at its home: a
line of the `n` bytes from `pa` is pending or lies in a row that is rebuilt (R173, R398)? What is due at a home comes before
everything else. -/
def Pkg.physHeld (p : Pkg) (pa n : Nat) : Bool :=
  p.homesHold && (List.range ((n + 63) / 64)).any fun i =>
    (p.ownDram (pa + 64 * i)).any fun l => p.pendingAt l || inRows p.rebuilding l

/-- The same of a hart's save area. -/
def State.areaWaits (s : State) (h : Hart) : Bool := s.pkg.physHeld (s.csaOf h) 65536

/-- An event about a parked hart waits for its save area. -/
def awaitArea (id : Nat) : M Unit := do
  let s ← get
  await (!s.pkg.homesHold || !(s.parkedHart id).any fun e => s.areaWaits e.2)

/-- An access by physical address waits for its lines. -/
def awaitPhys (pa n : Nat) : M Unit := do await (!(← get).pkg.physHeld pa n)

/-- The bytes that a timed access touches. -/
def Timed.size (t : Timed) : Nat :=
  match t.body with
  | .store bs => bs.length
  | .reduce op _ => op.width / 8
  | .load n _ _ => n

/-- A timed load. -/
def Timed.isLoad (t : Timed) : Bool :=
  match t.body with
  | .load _ _ _ => true
  | _ => false

/-- The home of a timed access. -/
def Timed.home (t : Timed) : Nat := homeOf t.key

/-- A timed load of a pending granule waits for it (R296). -/
def Pkg.loadBlocked (p : Pkg) (t : Timed) : Bool := t.isLoad && (p.pendingAt t.key || p.pendingAt (t.key + t.size - 1))

/-- The work of a home that is due: held, of a time reached, and no load that waits for a pending granule. -/
def Pkg.due (p : Pkg) (home : Nat) : List Timed :=
  p.held.filter fun t => t.home == home && decide (t.time ≤ p.gtime) && !p.loadBlocked t

/-- Does the home of a location owe instants, which it processes before it serves any other request (R247)? -/
def Pkg.owes (p : Pkg) (loc : Nat) : Bool := !(p.due (homeOf loc)).isEmpty

/-- Must a plain access to `n` bytes wait at their home (R247, R296, R397, R398)? -/
def Pkg.held? (p : Pkg) (loc n : Nat) : Bool :=
  p.stalled loc || p.owes loc || p.pendingAt loc || p.pendingAt (loc + n - 1)

/-- An array in retention starts to leave it; one that is entering does so once it has entered (R397). -/
def Pkg.startLeave (p : Pkg) (a : Nat) : Pkg :=
  match tableGet p.retention a with
  | some .retained =>
    { p with retention := tableSet p.retention a .leaving, arraySince := tableSet p.arraySince a p.time }
  | some .entering => { p with retention := tableSet p.retention a .turning }
  | _ => p

/-- An access to an array in retention makes it leave (R397). -/
def Pkg.wake (p : Pkg) (loc : Nat) : Pkg :=
  match arrayOf loc with
  | some a => p.startLeave a
  | none => p


/-- The byte at a location as the controller sees it: a pending byte of a graph copy stands over memory (R296). -/
def State.heldByte (s : State) (loc : Nat) : Byte := (tableGet s.pkg.pendMem loc).getD (Memory.get s.mem loc)

/-- The bytes from a location as the controller sees them. -/
def State.heldBytes (s : State) (loc n : Nat) : List Byte := (List.range n).map fun i => s.heldByte (loc + i)

/-- Bytes written by the controller: into the pending granule where there is one, else to memory. -/
def State.putHeld (s : State) (loc : Nat) (bs : List Byte) : State :=
  if s.pkg.pendingAt loc then
    { s with pkg := { s.pkg with
        pendMem := (List.range bs.length).foldl (fun t i => tableSet t (loc + i) (bs.getD i 0)) s.pkg.pendMem } }
  else s.putBytes loc bs

/-- A plain write performed at its home: the pull of its line first, then the bytes; what releases left there is
gone. The write becomes visible to every agent at this one instant, whatever its kind and scope (log 61). -/
def State.writeHome (s : State) (loc : Nat) (bs : List Byte) : State :=
  let s := (s.pulled loc).putBytes loc bs
  { s with pkg := s.pkg.overwritten loc bs.length }

/-- The 64-byte granules that `n` bytes from a location touch. -/
def granulesOf (loc n : Nat) : List Nat :=
  if n = 0 then [] else (List.range ((loc + n - 1) / 64 - loc / 64 + 1)).map (loc / 64 + ·)

/-- What releases left at `n` bytes from `src` moved with the bytes to `dst` (R212). -/
def Pkg.moveReleased (p : Pkg) (src dst n : Nat) : Pkg :=
  let p := p.forget dst n
  { p with released := p.released.map fun r =>
      if src ≤ r.key ∧ r.key < src + n then { r with key := dst + (r.key - src) } else r }

/-- The bytes of `n` from `src` moved to `dst` with their poison and what releases left at them, lines that migrate pulled
first on both sides (R362). -/
def State.moveBytes (s : State) (src dst n : Nat) : State :=
  let s := (s.pulledLines src n).pulledLines dst n
  let bad := s.pkg.poison.filter fun u => unitMeets u src n
  let s := s.putBytes dst (s.getBytes src n)
  let s := { s with pkg := s.pkg.moveReleased src dst n }
  bad.foldl (fun s u =>
    let lo := max (unitBase u) src
    s.poisonBytes (dst + (lo - src)) (min (unitBase u + unitSize u) (src + n) - lo)) s

end Sys2Proof.Machine
end

