-- ==== Sys2Proof/Machine/Scratch.lean ====
section
/-! DEFINITION. Scratchpads: the windows (R49), owner tags, first touch and swapping (R388), how copies, updates and
timed work reach them (R388, R418), and the forwarding of a publisher's writes into batches (R273, R276). -/

namespace Sys2Proof.Machine

/-- The first address of the scratchpad windows' range. -/
def windowBase : Nat := 0x7F0000000000
/-- The base of the cluster window. -/
def partitionBase : Nat := 0x7F0001000000
/-- The size of a private scratchpad. -/
def privateSize : Nat := 262144

/-- What a virtual address names before translation (R49). -/
inductive Window where
  | spot (p : Spot)
  | hole
  | outside
deriving DecidableEq, Repr

/-- The bytes of a gang's partition. -/
def Gang.partSize (g : Gang) : Nat := g.part * 65536

/-- The windows as a hart of gang `g` sees them (R49). -/
def windowOf (h : Hart) (g : Option Gang) (va : Nat) : Window :=
  if va < windowBase ∨ windowBase + 2 ^ 32 ≤ va then .outside
  else if va < windowBase + privateSize then .spot (.priv h.ident (va - windowBase))
  else if partitionBase ≤ va ∧ va < partitionBase + (g.map Gang.partSize).getD 0 then
    .spot (.part h.gang (va - partitionBase))
  else .hole

/-- The location of a byte of a gang's partition in its cluster's array (R309). -/
def Gang.partLoc (g : Gang) (off : Nat) : Nat := clusLoc g.cluster (g.units.getD (off / 65536) 0 * 65536 + off % 65536)

/-- The offset in a gang's partition of a byte of its cluster's array. -/
def Gang.partOff (g : Gang) (arrayOff : Nat) : Option Nat :=
  (g.units.findIdx? (· == arrayOff / 65536)).map fun k => k * 65536 + arrayOff % 65536

/-- The owner tag of a hart's granules. -/
def Hart.tag (h : Hart) : Tag := ⟨h.slot, h.poolDie, h.poolSecure⟩

/-- The owner tag of a gang's granules. -/
def Gang.tagOf (g : Gang) : Tag := ⟨g.gslot.getD 0, g.poolDie, g.secure⟩

/-- The physical address of the backing of a byte of a private scratchpad (R376). -/
def Pkg.privBacking (p : Pkg) (t : Tag) (off : Nat) : Nat := p.slotBase t.die t.secure t.slot + 65536 + off

/-- The physical address of the backing of a byte of a partition (R376). -/
def Pkg.partBacking (p : Pkg) (t : Tag) (off : Nat) : Nat := p.gangBase t.die t.secure t.slot + off

/-- The hart that a tag names, resident or parked. -/
def State.tagHart (s : State) (t : Tag) : Option Hart :=
  match s.cores.find? fun e => e.2.present && e.2.tag == t with
  | some e => some e.2
  | none => s.pkg.gangs.findSome? fun g => g.saved.find? fun h => h.tag == t

/-- The gang that a tag names. -/
def State.tagGang (s : State) (t : Tag) : Option Gang :=
  s.pkg.gangs.find? fun g => g.gslot.isSome && g.tagOf == t

/-- PBMP of a hart with bit `i` set (R381). -/
def Hart.withSaved (i : Nat) (h : Hart) : Hart := { h with pbmp := setBits h.pbmp i 1 1 }

/-- PBMP of hart `id` with bit `i` set, in its save area too (R381, R388). -/
def State.setPbmp (s : State) (id i : Nat) : Option State :=
  (s.onHart id (Hart.withSaved i)).bind fun s =>
    match s.hart? id with
    | none => some s
    | some h => s.putDwords (s.csaOf h + 0x10) [h.pbmp]

/-- A gang's PTBMP with bit `i` set, in the save area of GIDX 0 too (R381, R388). -/
def State.setPtbmp (s : State) (g : Nat) (i : Nat) : Option State :=
  let s := s.onGang g fun g => { g with ptbmp := g.ptbmp ||| (BitVec.ofNat 1024 (2 ^ i)) }
  match s.gang? g, s.hart? (8 * g) with
  | some g, some h => s.putDwords (s.csaOf h + 0x1600) (wideWords 16 g.ptbmp)
  | _, _ => some s

/-- A granule written to the backing area of the owner whose private scratchpad it is (R388 step 1). -/
def State.evictPriv (s : State) (core gran : Nat) (t : Tag) : Option State :=
  match s.tagHart t, s.pkg.ownDram (s.pkg.privBacking t (4096 * gran)) with
  | none, _ => some s
  | some _, none => none
  | some h, some dst => (s.moveBytes (privLoc core (4096 * gran)) dst 4096).setPbmp h.ident gran

/-- A granule of a cluster array written to its owner's backing area. -/
def State.evictPart (s : State) (cluster gran : Nat) (t : Tag) : Option State :=
  match s.tagGang t with
  | none => some s
  | some g =>
    match g.partOff (4096 * gran) with
    | none => some s
    | some off =>
      match s.pkg.ownDram (s.pkg.partBacking t off) with
      | none => none
      | some dst => (s.moveBytes (clusLoc cluster (4096 * gran)) dst 4096).setPtbmp g.id (off / 4096)

/-- The race records of a granule of 4 KiB dropped when it is swapped (R213, R388). -/
def Pkg.dropRaces (p : Pkg) (loc : Nat) : Pkg :=
  { p with races := p.races.filter fun e => !(decide (loc / 64 ≤ e.1) && decide (e.1 < loc / 64 + 64)) }

/-- The first touch of a granule of the core's private scratchpad by its hart (R388). -/
def touchPriv (off : Nat) : M Unit := do
  let s ← get
  let gran := off / 4096
  let t := tableGet s.core.tags gran
  if t == some s.h.tag then pure ()
  else
    match t with
    | some t => do
      awaitPhys (s.pkg.privBacking t (4096 * gran)) 4096
      orStop fun s => s.evictPriv s.core.id gran t
    | none => pure ()
    awaitPhys (s.pkg.privBacking s.h.tag (4096 * gran)) 4096
    let s ← get
    let dst := privLoc s.core.id (4096 * gran)
    if bit s.h.pbmp gran then
      match s.pkg.ownDram (s.pkg.privBacking s.h.tag (4096 * gran)) with
      | none => orStop fun _ => none
      | some src => set (s.moveBytes src dst 4096)
    else set (s.clearBytes dst 4096)
    modify fun s => { s with core := { s.core with tags := tableSet s.core.tags gran s.h.tag } }

/-- The first touch of a granule of a gang's partition (R388). -/
def touchPart (g : Gang) (off : Nat) : M Unit := do
  let s ← get
  let loc := g.partLoc (off / 4096 * 4096)
  let gran := (loc - clusLoc g.cluster 0) / 4096
  let t := tableGet (s.pkg.cluster g.cluster).tags gran
  if t == some g.tagOf then pure ()
  else
    match t with
    | some t => do
      match (s.tagGang t).bind fun g => g.partOff (4096 * gran) with
      | some off => awaitPhys (s.pkg.partBacking t off) 4096
      | none => pure ()
      orStop fun s => s.evictPart g.cluster gran t
    | none => pure ()
    awaitPhys (s.pkg.partBacking g.tagOf (off / 4096 * 4096)) 4096
    let s ← get
    if (((s.gang? g.id).map Gang.ptbmp).getD 0).getLsbD (off / 4096) then
      match s.pkg.ownDram (s.pkg.partBacking g.tagOf (off / 4096 * 4096)) with
      | none => orStop fun _ => none
      | some src => set (s.moveBytes src loc 4096)
    else set (s.clearBytes loc 4096)
    modify fun s =>
      let c := s.pkg.cluster g.cluster
      let p := { s.pkg with clusters := tableSet s.pkg.clusters g.cluster { c with tags := tableSet c.tags gran g.tagOf } }
      { s with pkg := p.dropRaces loc }

/-- The location of a byte of the hart's own scratchpads after its first touch. -/
def touch : Spot → M Nat
  | .priv _ off => do
    touchPriv off
    pure (privLoc (← get).core.id off)
  | .part g off => do
    match (← get).gang? g with
    | none => pure (clusLoc 0 off)
    | some g => do
      touchPart g off
      pure (g.partLoc off)

/-! ### Reaching a scratchpad without a swap (R388, R418) -/

/-- The location of a spot in the array that still holds its granule under the owner's tag, whether its owner is
resident, its backing address, and whether its granule has saved contents. -/
structure Found where
  loc : Option Nat
  resident : Bool
  backing : Nat
  saved : Bool
deriving DecidableEq, Repr

/-- Where a spot lies now. -/
def State.find (s : State) : Spot → Option Found
  | .priv id off =>
    (s.hart? id).map fun h =>
      let at_ := s.cores.find? fun e => tableGet e.1.tags (off / 4096) == some h.tag
      ⟨at_.map fun e => privLoc e.1.id off, (s.coreOf id).isSome && h.status != .parking, s.pkg.privBacking h.tag off, bit h.pbmp (off / 4096)⟩
  | .part g off =>
    (s.gang? g).map fun g =>
      let loc := g.partLoc off
      let tag := tableGet (s.pkg.cluster g.cluster).tags ((loc - clusLoc g.cluster 0) / 4096)
      ⟨if tag == some g.tagOf then some loc else none, g.phase == .resident, s.pkg.partBacking g.tagOf off,
        g.ptbmp.getLsbD (off / 4096)⟩

/-- The owner's saved bit of a spot's granule set. -/
def State.markSaved (s : State) : Spot → Option State
  | .priv id off => s.setPbmp id (off / 4096)
  | .part g off => s.setPtbmp g (off / 4096)

/-- The locations that a write to a spot reaches (R388, R418). -/
def State.spotLocs (s : State) (p : Spot) : List Nat :=
  match s.find p with
  | none => []
  | some f => f.loc.toList ++ (if f.loc.isSome && f.resident then [] else (s.pkg.ownDram f.backing).toList)

/-- The releases whose bytes a read of `n` bytes of a spot reads, where its bytes lie now (R198, R212). -/
def State.spotReleases (s : State) (p : Spot) (n : Nat) : List Released :=
  match s.find p with
  | none => []
  | some f =>
    match f.loc.or (if f.saved then s.pkg.ownDram f.backing else none) with
    | some l => s.pkg.releasesAt l n
    | none => []

/-- The array of a spot waits under retention or a relock: it is woken, and the access comes again (R258, R397). -/
def awaitArray (loc : Option Nat) : M Unit :=
  match loc with
  | none => pure ()
  | some l => do
    if (← get).pkg.stalled l then
      modify fun s => { s with pkg := s.pkg.wake l }
      again
    else pure ()

/-- The bytes of a spot within one granule (R388), and the location of the first of them where one is poisoned; a line of a
backing area that migrates is pulled first (R362). -/
def peekSpot (p : Spot) (n : Nat) : M (List Byte × Option Nat) := do
  match (← get).find p with
  | none => pure (List.replicate n 0, none)
  | some f =>
    awaitArray f.loc
    let found (s : State) (l : Nat) : List Byte × Option Nat := (s.getBytes l n, if s.pkg.poisoned l n then some l else none)
    match f.loc with
    | some l => pure (found (← get) l)
    | none =>
      if f.saved then
        match (← get).pkg.ownDram f.backing with
        | some l =>
          modify (·.pulled l)
          pure (found (← get) l)
        | none => fun _ => .error (.stop .csaUnreachable)
      else pure (List.replicate n 0, none)

/-- Bytes of a spot within one granule, with whether any is poisoned, of which a UE event tells (R388, R396). -/
def readSpot (p : Spot) (n : Nat) : M (List Byte × Bool) := do
  let (bs, bad) ← peekSpot p n
  match bad with
  | some l => modify fun s => { s with pkg := s.pkg.ueEvent l }
  | none => pure ()
  pure (bs, bad.isSome)

/-- A plain access to a spot waits while its home is asleep, relocks or owes instants (R247, R258, R397). -/
def awaitSpot (p : Spot) : M Unit := do
  let s ← get
  match s.find p with
  | some f => awaitPhys (f.backing / 4096 * 4096) 4096
  | none => pure ()
  match (s.find p).bind (·.loc) with
  | none => pure ()
  | some l =>
    if s.pkg.stalled l || s.pkg.owes l then
      modify fun s => { s with pkg := s.pkg.wake l }
      again
    else pure ()

/-- Bytes written to a spot within one granule (R388, R418), poisoned or not; what releases left there is gone. -/
def writeSpot (p : Spot) (bs : List Byte) (poison : Bool) : M Unit := do
  let s ← get
  let put (s : State) (l : Nat) : State :=
    let s := s.putBytes l bs
    let s := { s with pkg := s.pkg.overwritten l bs.length }
    if poison then s.poisonBytes l bs.length else s
  match s.find p with
  | none => pure ()
  | some f =>
    awaitArray f.loc
    match f.loc with
    | some l => modify fun s => put s l
    | none => pure ()
    if f.loc.isSome && f.resident then pure ()
    else
      match s.pkg.ownDram f.backing with
      | none => fun _ => .error (.stop .csaUnreachable)
      | some l =>
        modify (·.pulled l)
        if f.loc.isNone && !f.saved then
          modify fun s => s.clearBytes (l / 4096 * 4096) 4096
          orStop fun s => s.markSaved p
        else pure ()
        modify fun s => put s l

/-! ### Forwarding to subscribers (R273, R276) -/

/-- The message that carries a batch to a subscriber: a WRITE on the pair of publisher and subscriber. -/
def State.updateMsg (s : State) (publisher : Hart) (sub : Subscriber) (b : Batch) : Msg :=
  let die := ((s.coreOf sub.hart).map dieOfCore).getD (((s.gang? (sub.hart / 8)).map (·.die)).getD 0)
  { owner := publisher.ident, hartid := publisher.hartid, core := ((s.coreOf publisher.ident).getD 0), dst := die
    tid := BitVec.ofNat 12 (bits publisher.tid 0 12), secure := publisher.poolSecure, sent := s.pkg.time, va := 0
    body := .update sub.hart sub.entry b.bytes b.bad, clock := [], race := false, rels := []
    spot := none, ack := none }

/-- A batch with bytes that join it, poisoned or not (R276, R396). -/
def Batch.add (b : Batch) (bytes : List (Nat × Byte)) (poison : Bool) : Batch :=
  { b with
    bytes := bytes.foldl (fun t e => tableSet t e.1 e.2) b.bytes
    bad := b.bad.filter (fun o => !bytes.any (·.1 == o)) ++ (if poison then bytes.map (·.1) else []) }

/-- The state after the bytes of one granule (offsets in the region) join a subscriber's batch, which is sent first
when it covers another granule. -/
def batchInto (now : Nat) (gran : Nat) (bytes : List (Nat × Byte)) (poison : Bool) (sub : Subscriber) :
    Subscriber × Option Batch :=
  let fresh : Subscriber := { sub with batch := some (Batch.add ⟨gran, [], [], now⟩ bytes poison) }
  match sub.batch with
  | none => (fresh, none)
  | some b => if b.granule = gran then ({ sub with batch := some (b.add bytes poison) }, none) else (fresh, some b)

/-- The hart `id` with its publish entries replaced. -/
def Hart.withPubs (pubs : Vector (Option PubEntry) 16) (h : Hart) : Hart := { h with pubs := pubs }

/-- The messages a list of subscribers and sent batches gives, appended to the net. -/
def State.sendBatches (s : State) (publisher : Hart) (bs : List (Subscriber × Batch)) : State :=
  { s with pkg := { s.pkg with net := s.pkg.net ++ bs.map fun e => s.updateMsg publisher e.1 e.2 } }

/-- A publish entry after a forwarded write of one granule, with the batches sent. -/
def PubEntry.forward (e : PubEntry) (now gran : Nat) (bytes : List (Nat × Byte)) (poison : Bool) :
    PubEntry × List (Subscriber × Batch) :=
  let rs := e.subs.map fun sub => if sub.leaving then (sub, sub, none) else (sub, batchInto now gran bytes poison sub)
  ({ e with subs := rs.map fun r => r.2.1 }, rs.filterMap fun r => r.2.2.map fun b => (r.1, b))

/-- The bytes of a write that fall in a publish entry's region, by offset there. -/
def PubEntry.bytesIn (e : PubEntry) (cluster : Bool) (off : Nat) (bs : List Byte) : List (Nat × Byte) :=
  if e.cluster != cluster then []
  else (List.range bs.length).filterMap fun i =>
    if e.off ≤ off + i ∧ off + i < e.off + e.len then some (off + i - e.off, bs.getD i 0) else none

/-- A write of hart `id` to its own scratchpads, poisoned or not, forwarded to the subscribers of the regions it falls in
(R273, R396), one granule after the other. -/
def State.forward (s : State) (id : Nat) (cluster : Bool) (off : Nat) (bs : List Byte) (poison : Bool) : Option State :=
  match s.hart? id with
  | none => some s
  | some h =>
    if h.pubs.toList.all Option.isNone then some s
    else
      let step (acc : Vector (Option PubEntry) 16 × List (Subscriber × Batch)) (i : Nat) :=
        match acc.1.getD i none with
        | none => acc
        | some e =>
          let mine := e.bytesIn cluster off bs
          let grans := (mine.map fun b => b.1 / 64).eraseDups
          let r := grans.foldl (fun (r : PubEntry × List (Subscriber × Batch)) g =>
            let q := r.1.forward s.pkg.time g (mine.filter fun b => b.1 / 64 == g) poison
            (q.1, r.2 ++ q.2)) (e, [])
          (acc.1.setIfInBounds i (some r.1), acc.2 ++ r.2)
      let r := (List.range 16).foldl step (h.pubs, [])
      (s.sendBatches h r.2).onHart id (Hart.withPubs r.1)

/-- Forwarding of a write to a spot, by the hart that made it (R273). -/
def State.forwardSpot (s : State) (id : Nat) (p : Spot) (bs : List Byte) (poison : Bool) : Option State :=
  match p with
  | .priv owner off => if owner = id then s.forward id false off bs poison else some s
  | .part g off => if g = id / 8 then s.forward id true off bs poison else some s

/-- All open batches of a hart's publish entries that `f` picks sent (R276). -/
def State.flushBatches (s : State) (id : Nat) (f : Nat → Subscriber → Bool) : Option State :=
  match s.hart? id with
  | none => some s
  | some h =>
    let openOf (i : Nat) (e : PubEntry) := e.subs.filterMap fun sub =>
      if f i sub then sub.batch.map fun b => (sub, b) else none
    let sent := (List.range 16).flatMap fun i => ((h.pubs.getD i none).map (openOf i)).getD []
    if sent.isEmpty then some s
    else
      let close (i : Nat) (e : PubEntry) : PubEntry :=
        { e with subs := e.subs.map fun sub => if f i sub then { sub with batch := none } else sub }
      let pubs := Vector.ofFn fun i : Fin 16 => (h.pubs.getD i.val none).map (close i.val)
      (s.sendBatches h sent).onHart id (Hart.withPubs pubs)

/-- Does a publish entry of the hart hold an open batch (R276)? -/
def Hart.openBatches (h : Hart) : Bool :=
  h.pubs.toList.any fun e => (e.map fun e => e.subs.any fun b => b.batch.isSome).getD false

/-- Updates of a hart that are not acknowledged yet (R211). -/
def State.updatesOut (s : State) (id : Nat) : Bool :=
  s.pkg.net.any fun m => m.owner == id && (match m.body with
    | .update _ _ _ _ => true
    | _ => false)

end Sys2Proof.Machine
end

