-- ==== Sys2Proof/Machine/Access.lean ====
section
/-! DEFINITION. The hart's own accesses: where one goes (R172, R355, R369), loads with forwarding from the store buffer
(R220), stores leaving the buffer (R218), atomics at their homes (R230), messages (R188, R189). -/

namespace Sys2Proof.Machine

/-- A message of the posted group (R189). -/
def Msg.posted (m : Msg) : Bool :=
  match m.body with
  | .write _ => true
  | .nibble _ _ _ => true
  | .atomic _ _ _ _ _ _ => true
  | .reduce _ => true
  | .launch _ _ _ => true
  | .update _ _ _ _ => true
  | _ => false

/-- The UALink ports that may carry a die's traffic to a package, the first that works does: port 4d + package mod 4 and
those after it (R184, log 11). -/
def routePorts (die package : Nat) : List Nat := (List.range 4).map fun k => 4 * die + (package + k) % 4

/-- When a port failed. -/
def Pkg.portDown (p : Pkg) (port : Nat) : Option Nat := tableGet p.portsDown port

/-- Is a posted message that left before the route moved still on the old path, a launch that awaits its response included
(R184)? -/
def Pkg.rerouting (p : Pkg) (die package : Nat) : Bool :=
  let failed := ((routePorts die package).takeWhile fun port => (p.portDown port).isSome).filterMap p.portDown
  (p.net.any fun m => m.posted && m.dst == 4 + package && dieOfCore m.core == die && failed.any fun t => decide (m.sent ≤ t)) ||
  p.launches.any fun l => l.2.1 == die && l.2.2.1 == package && failed.any fun t => decide (l.2.2.2 ≤ t)

/-- The port that carries a die's traffic to a package, none while no port works, and none while the route moves, for new
messages are held until the old path is clear (R184). -/
def Pkg.route (p : Pkg) (die package : Nat) : Option Nat :=
  if p.rerouting die package then none else (routePorts die package).find? fun port => (p.portDown port).isNone

/-- Does a port's membership bitmap admit a TID (R368)? -/
def Pkg.portAdmits (p : Pkg) (port tid : Nat) : Bool := bit (p.ctl (offPort port (tid / 64))) (tid % 64)

/-- The destination of a pair (R189): a die of this package, or 4 + package. -/
def dstOf (loc : Nat) : Nat :=
  if 2 ^ 56 ≤ loc ∧ loc < 2 ^ 63 then 4 + (loc - 2 ^ 56) / 2 ^ 42 else dieOfHome (homeOf loc)

/-- What an access resolves to: a location, whether its page carries the race-check attribute, and the spot when it
lies in a scratchpad. -/
structure Target where
  loc : Nat
  race : Bool
  spot : Option Spot
deriving DecidableEq, Repr

/-- The walk of an access waits for the lines that it reads (R173, R362, R398). -/
def awaitWalk (w : Who) (va : Nat) : M Unit := do
  let s ← get
  if s.pkg.homesHold && !(s.core.tlb.any (·.covers w va)) && !((s.pkg.cluster (clusterOfCore s.core.id)).tlb.any (·.covers w va)) then
    ((s.walkReads (s.walker (dieOfCore s.core.id) w) va).filterMap (·.2)).forM fun l => do
      await (!(s.pkg.pendingAt l || inRows s.pkg.rebuilding l))
  else pure ()

/-- The target of an access by the core of the state as `w`, whose own fault is `f` and whose EVAL is `val`: the
windows (R49), or a translation and its checks (R355, R356), the package map (R176, R177) and the egress check
(R369). -/
def resolve (w : Who) (want : Want) (f : Nat) (val : Dword) (va : Nat) : M Target := do
  let s ← get
  match windowOf s.h (s.gang? s.h.gang) va with
  | .spot p => pure ⟨← touch p, false, some p⟩
  | .hole => trapOf f val
  | .outside =>
    awaitWalk w va
    let (r, s) := s.translate w want va
    set s
    match r with
    | .error d => trapOf (d.cause f) val
    | .ok (pa, e) =>
      match s.pkg.place pa with
      | .nowhere => trapOf f val
      | .queue _ _ => trapOf f val
      | .host loc => pure ⟨loc, e.rc, none⟩
      | .dram loc _ => pure ⟨loc, e.rc, none⟩
      | .remote loc package =>
        match s.pkg.route (dieOfCore s.core.id) package with
        | none => hold
        | some port => if s.pkg.portAdmits port w.tid then pure ⟨loc, e.rc, none⟩ else trapOf causeTenant val

/-- A check of an access before anything of it is done (R222 step 1): its target's faults, without a swap. -/
def precheck (w : Who) (want : Want) (f : Nat) (val : Dword) (va : Nat) : M Unit := do
  let s ← get
  match windowOf s.h (s.gang? s.h.gang) va with
  | .spot _ => pure ()
  | _ => let _ ← resolve w want f val va

/-- The aligned pieces of `n` bytes from `va`: none crosses an aligned 8-byte boundary; addresses are modulo 2^64
(R215). -/
def piecesOf (va n : Nat) : List (Nat × Nat) :=
  let k := min n (8 - va % 8)
  if k < n then [(va, k), ((va + k) % 2 ^ 64, n - k)] else [(va, n)]

/-- The runs of bytes that a message accesses, as (location, length). -/
def Msg.spans (m : Msg) : List (Nat × Nat) :=
  match m.body with
  | .read key n _ _ => [(key, n)]
  | .write cells => cells.map fun c => (c.1, 1)
  | .nibble key _ _ => [(key, 1)]
  | .reduce elems => elems.map fun e => (e.key, e.op.width / 8)
  | .atomic op key _ _ _ _ => [(key, op.width / 8)]
  | _ => []

/-- Does a message leave the die of its hart, so that it has a pair (R188, R189)? -/
def Msg.offDie (m : Msg) : Bool := m.owner == 0 || m.dst != dieOfCore m.core

/-- Does a message meet `n` bytes from `loc`: by their 64-byte granules where it has a pair (R189), else by the bytes
themselves (R193)? -/
def Msg.touches (m : Msg) (loc n : Nat) : Bool :=
  m.spans.any fun a =>
    if m.offDie then (granulesOf a.1 a.2).any (granulesOf loc n).contains
    else decide (a.1 < loc + n) && decide (loc < a.1 + a.2)

/-- Does a message write host memory (R187)? -/
def Msg.touchesHost (m : Msg) : Bool :=
  m.posted && m.spans.any fun a => decide (2 ^ 63 ≤ a.1) && decide (a.1 < 2 ^ 64)

/-- Messages of a hart that are on their way. -/
def State.mine (s : State) (id : Nat) : List Msg := s.pkg.net.filter (·.owner == id)

/-- The messages of a hart among the first `seen` that are on their way: those sent before an instruction that sends
several of its own, which have no order among themselves (R223). -/
def State.mineOf (s : State) (id seen : Nat) : List Msg := (s.pkg.net.take seen).filter (·.owner == id)

/-- How many messages are on their way. -/
def State.seen (s : State) : Nat := s.pkg.net.length

/-- Does a location lie in host memory? -/
def atHost (loc : Nat) : Bool := decide (2 ^ 63 ≤ loc) && decide (loc < 2 ^ 64)

/-- Is a message one of a posted FIFO: posted, and to another die, another package or the host (R187, R189)? A message
that stays on its die has no pair. -/
def Msg.fifo (m : Msg) (dst loc : Nat) : Bool :=
  m.posted && m.dst == dst && (dst != dieOfCore m.core || (atHost loc && m.touchesHost))

/-- Have the earlier messages of the hart that an access must not pass performed: posted ones to its destination, and
those to its granules (R187, R189, R193)? -/
def State.ordered (s : State) (id seen dst loc n : Nat) : Bool :=
  (s.mineOf id seen).all fun m => !m.fifo dst loc && !m.touches loc n

/-- Must a load wait for this earlier message: a read of its bytes, or anything else on its granules (R189, R193)? -/
def Msg.stopsLoad (m : Msg) (loc n : Nat) : Bool :=
  match m.body with
  | .read key k _ _ => decide (key < loc + n) && decide (loc < key + k)
  | _ => m.touches loc n

/-- Earlier messages of the hart to these granules have performed (R189). -/
def State.clearOf (s : State) (id loc n : Nat) : Bool := (s.mine id).all fun m => !m.touches loc n

/-- An access that must wait at its home wakes its array and comes again (R296, R397, R398). -/
def awaitHome (loc n : Nat) : M Unit := do
  if (← get).pkg.held? loc n then
    modify fun s => { s with pkg := s.pkg.wake loc }
    again
  else modify (·.pulled loc)

/-- A poisoned unit met by a reader: a UE event and UNCORRECTABLE (R396). -/
def checkPoison (loc n : Nat) (val : Dword) : M Unit := do
  if (← get).pkg.poisoned loc n then
    modify fun s => { s with pkg := s.pkg.ueEvent loc }
    trapOf causeUncorrectable val
  else pure ()

/-- The same of a unit in an L1 cache of the core of the state (R395, R396). -/
def checkL1 (code : Bool) (loc n : Nat) (val : Dword) : M Unit := do
  let s ← get
  if s.pkg.l1Bad s.core.id code loc n then
    set { s with pkg := s.pkg.l1Event s.core.id loc }
    trapOf causeUncorrectable val
  else pure ()

/-- The race check of a plain access at a point in happens-before (R213, R214). -/
def checkRace (t : Target) (clock : List (Nat × Nat)) (val : Dword) : M Unit := do
  let s ← get
  trapIf (t.race && raceHome t.loc && s.pkg.racing s.h.ident clock t.loc) causeRace val

/-- A store-buffer entry's bytes overlap these (R220). -/
def SbEntry.overlaps (e : SbEntry) (va n : Nat) : Bool := decide (e.va.toNat < va + n) && decide (va < e.va.toNat + e.size)

/-- A timed store in the buffer (R220: never forwarded). -/
def SbEntry.isTimed (e : SbEntry) : Bool :=
  match e.kind with
  | .timed _ _ _ => true
  | _ => false

/-- The entries of the store buffer that are older than an instruction of the hart: all of them, but for one of the VDQ that
the scalar pipeline has gone past (R160, R193). -/
def Hart.older (h : Hart) : List SbEntry := h.sb.filter fun e => decide (e.instret.toNat ≤ h.instret.toNat)

/-- What the store buffer gives a load (R220): the newest entry that overlaps it gives all its bytes, or the load
waits; none where no entry overlaps. -/
def State.forwarded (s : State) (va n : Nat) : Option (Option (List Byte)) :=
  (s.h.older.reverse.find? fun e => !e.isTimed && e.overlaps va n).map fun e =>
    if e.va.toNat ≤ va ∧ va + n ≤ e.va.toNat + e.size then
      some (((bytesOf e.size e.data.toNat).drop (va - e.va.toNat)).take n)
    else none

/-- One aligned piece of a load performed at its home; a load without a scope is plain and race-checked, an acquire at
`scope` takes up the releases it reads (R198). A host page is read after the hart's earlier writes to the host, those in
its buffer included (R187). -/
def loadPiece (scope : Option Nat) (seen : Nat) (val : Dword) (va n : Nat) : M (List Byte) := do
  let s ← get
  let t ← resolve s.who .load causeLoadFault val va
  await (!atHost t.loc || s.h.older.isEmpty)
  awaitHome t.loc n
  await (!(s.mineOf s.h.ident seen).any fun m => m.stopsLoad t.loc n || (atHost t.loc && m.touchesHost))
  checkPoison t.loc n val
  checkL1 false t.loc n val
  if scope.isNone then checkRace t s.h.clock val else pure ()
  modify fun s => s.observe scope t.loc n
  pure ((← get).getBytes t.loc n)

/-- The bytes of a load of `n` bytes (R216, R220, R227); `val` is the EVAL of its faults, `seen` the messages that it
must not pass. -/
def loadBytesOf (scope : Option Nat) (seen : Nat) (val : Dword) (va n : Nat) : M (List Byte) := do
  match (← get).forwarded va n with
  | some (some bs) =>
    (piecesOf va n).forM fun p => do precheck (← get).who .load causeLoadFault val p.1
    pure bs
  | some none => hold
  | none =>
    let ps ← (piecesOf va n).mapM fun p => loadPiece scope seen val p.1 p.2
    pure ps.flatten

/-- The bytes of a scalar load. -/
def loadBytes (scope : Option Nat) (val : Dword) (va n : Nat) : M (List Byte) := do
  loadBytesOf scope (← get).seen val va n

/-! ### Messages of a hart -/

/-- A message of the hart of the state. -/
def State.message (s : State) (tid : BitVec 12) (dst : Nat) (va : Dword) (body : MsgBody) : Msg :=
  { owner := s.h.ident, hartid := s.h.hartid, core := s.core.id, dst := dst, tid := tid, secure := s.who.secure
    sent := s.pkg.time, va := va, body := body, clock := s.h.clock, race := false, rels := [], spot := none, ack := none }

/-- A message appended to what is on its way. -/
def State.send (s : State) (m : Msg) : State := { s with pkg := { s.pkg with net := s.pkg.net ++ [m] } }

/-- Is an access checked for races at its home (R213)? -/
def Target.checked (t : Target) : Bool := t.race && raceHome t.loc

/-- Does the home of package DRAM at a location admit an access of this tenant and world (R368)? -/
def State.admits (s : State) (tid : Nat) (secure : Bool) (loc : Nat) : Bool :=
  if 2 ^ 56 ≤ loc then true
  else
    match s.pkg.offOfLoc loc with
    | none => true
    | some off =>
      match s.pkg.prtFind off with
      | none => true
      | some n => s.homeAdmits tid n secure

/-- Might a response to an access of `n` bytes bring a trap: RACE, UNCORRECTABLE or TENANT (R214, R369, R396)? Then the hart
waits for it, so that the trap is precise. -/
def State.mayTrap (s : State) (t : Target) (n : Nat) : Bool :=
  t.checked || s.pkg.poisoned t.loc n || decide (4 ≤ dstOf t.loc) || !s.admits s.who.tid s.who.secure t.loc

/-- Does a load or atomic of `n` bytes leave the hart as a message: its home lies on another die or in another package
(R188), it must wait at its home (R217), or the agenda sends the hart's accesses ahead, where no trap of its home is to be
expected (R193, log 21)? -/
def State.sendsOff (s : State) (t : Target) (n : Nat) : Bool :=
  !s.pkg.l1Bad s.core.id false t.loc n &&
  ((s.h.ahead && !s.mayTrap t n) || dstOf t.loc != dieOfCore s.core.id || s.pkg.held? t.loc n)

/-- A row's destination: the instruction at the head of the VDQ waits for it, not the hart. -/
def Dest.isTile : Dest → Bool
  | .tile _ _ => true
  | _ => false

/-- A hart whose oldest VDQ instruction no longer awaits the rows that it asked for (R160, R166). -/
def Hart.dropRows (h : Hart) : Hart := { h with pend := h.pend.filter fun p => !p.2.isTile }

/-- The hart after it sent an access whose response brings `dest`: the instruction's own later steps wait for it, but
where it was sent ahead within the package. -/
def Hart.owed (h : Hart) (tag : Nat) (dest : Dest) (waits : Bool) : Hart :=
  let h := { h with pend := h.pend ++ [(tag, dest)] }
  if waits && !dest.isTile then { h with waitAt := some h.pc, waitTags := h.waitTags ++ [tag] } else h

/-- An access of `n` bytes with a response sent to its home: `rels` are the scopes at which it releases, or a read acquires;
the hart waits for the response of one that `waits`, and of one whose response may bring a trap. -/
def sendAccess (t : Target) (n : Nat) (va : Dword) (dest : Dest) (rels : List Nat) (waits : Bool) (body : Nat → MsgBody) :
    M Unit := do
  let s ← get
  let tag := s.pkg.tags
  let m := s.message (BitVec.ofNat 12 s.who.tid) (dstOf t.loc) va (body tag)
  let s := s.send { m with rels := rels, race := t.race, spot := t.spot }
  set { s with
    h := s.h.owed tag dest (waits || !s.h.ahead || s.mayTrap t n)
    pkg := { s.pkg with tags := tag + 1 } }

/-- The targets of a load's pieces, with the place of each among its bytes, where the hart sends it as messages: its
bytes are not in the store buffer, and a piece of it leaves (R188); else none. One of an element that is checked for races
within the package leaves only where the hart is to wait for nothing else, so that elements race in their order (R222,
log 21). A read of host memory waits for the hart's earlier writes to it (R187). -/
def leavingLoad (elem : Bool) (val : Dword) (va n : Nat) : M (List (Target × Nat × Nat)) := do
  let s ← get
  let ps := piecesOf va n
  if (s.forwarded va n).isSome then pure []
  else
    let ts ← ps.mapM fun p => do
      let t ← resolve s.who .load causeLoadFault val p.1
      pure (t, (p.1 + 2 ^ 64 - va) % 2 ^ 64, p.2)
    let s ← get
    if !(ts.any fun t => s.sendsOff t.1 t.2.2) || (elem && ts.any fun t => t.1.checked) then pure []
    else
      await (s.h.older.isEmpty || !ts.any fun t => atHost t.1.loc)
      pure ts

/-- The destination of the `n` bytes from byte `lo` of a load of `size` bytes (R215). -/
def Dest.piece (dest : Dest) (size lo n : Nat) : Dest :=
  match dest with
  | .x d => if n = size then .x d else .xpart d lo n size false
  | .sx d k => if n = size then .sx d k else .xpart d lo n size true
  | .v r b _ sh e => .v r (b + 8 * lo) (8 * n - sh) sh e
  | d => d

/-- A load sent as READ messages, one for each piece; an acquire load waits for them (R188, R215, R227). -/
def sendLoad (scope : Option Nat) (val : Dword) (size : Nat) (dest : Dest) (ts : List (Target × Nat × Nat)) : M Unit :=
  ts.forM fun t =>
    let d := dest.piece size t.2.1 t.2.2
    sendAccess t.1 t.2.2 val d scope.toList scope.isSome fun tag => .read t.1.loc t.2.2 d tag

/-! ### Stores -/

/-- A write performed at a target for the hart of the state, at a point in happens-before: bytes, the race record of a plain
one, forwarding (R213, R273), and what it releases at its bytes (R198, R199). -/
def performWrite (t : Target) (clock : List (Nat × Nat)) (tid : Nat) (rels : List Nat) (plain : Bool) (bs : List Byte) :
    M Unit := do
  modify fun s => s.writeHome t.loc bs
  if t.checked && plain then
    modify fun s =>
      { s with pkg := s.pkg.raceMark t.loc s.h.ident s.h.ident ((tableGet clock s.h.ident).getD 0 + 1) }
  else pure ()
  modify fun s =>
    { s with pkg := rels.foldl (fun p sc => p.leave ⟨t.loc, bs.length, s.h.ident, s.core.id, tid, sc, none, clock⟩) s.pkg }
  match t.spot with
  | some p => orStop fun s => s.forwardSpot s.h.ident p bs false
  | none => pure ()

/-- The cells of bytes from a location. -/
def cellsOf (loc : Nat) (bs : List Byte) : List Host.Cell := (List.range bs.length).map fun i => (loc + i, bs.getD i 0)

/-- The targets of a store with the bytes of each: all its pieces are translated and checked first (R215, R218). -/
def storeTargets (w : Who) (f : Nat) (val : Dword) (va : Nat) (bs : List Byte) : M (List (Target × List Byte)) :=
  (piecesOf va bs.length).mapM fun p => do
    let t ← resolve w .store f val p.1
    let k := (p.1 + 2 ^ 64 - va) % 2 ^ 64
    pure (t, (bs.drop k).take p.2)

/-- Does a store perform at once, and not as a WRITE on its way: in a scratchpad, or on a race-check page, that of a scalar
store where its home is on the hart's die, that of an element anywhere in the package? Where the agenda sends the hart's
accesses ahead, a store in a scratchpad that publishes nothing is on its way too. -/
def State.storesAtOnce (s : State) (t : Target) (elem : Bool) : Bool :=
  (t.spot.isSome && !(s.h.ahead && s.h.pubs.toList.all Option.isNone)) ||
  (t.checked && (elem || dstOf t.loc == dieOfCore s.core.id))

/-- A store sent as a WRITE to its target; the hart waits for the acknowledgement of an element of a page with the
race-check attribute (R222). -/
def sendWrite (m : Msg) (t : Target) (elem : Bool) : M Unit := do
  let m := { m with spot := t.spot }
  let s ← get
  if elem && t.race then
    let tag := s.pkg.tags
    let s := s.send { m with ack := some tag }
    set { s with h := s.h.owed tag (.x 0) true, pkg := { s.pkg with tags := tag + 1 } }
  else set (s.send m)

/-- A store to its targets, `elem` of a vector instruction: those that perform at once are waited for and checked for races
before any of them performs, the others go as WRITE messages. One that is not `plain` is not checked for races (R213). -/
def storeParts (w : Who) (seen : Nat) (val : Dword) (clock : List (Nat × Nat)) (rels : List Nat) (plain elem : Bool)
    (ps : List (Target × List Byte)) : M Unit := do
  let s ← get
  ps.forM fun p => do
    if s.storesAtOnce p.1 elem then
      await (s.ordered s.h.ident seen (dstOf p.1.loc) p.1.loc p.2.length)
      awaitHome p.1.loc p.2.length
      if plain then checkRace p.1 clock val else pure ()
    else pure ()
  ps.forM fun p => do
    if s.storesAtOnce p.1 elem then performWrite p.1 clock w.tid rels plain p.2
    else
      let m := (← get).message (BitVec.ofNat 12 w.tid) (dstOf p.1.loc) val (.write (cellsOf p.1.loc p.2))
      sendWrite { m with clock := clock, secure := w.secure, race := p.1.race && plain, rels := rels } p.1 elem

/-- A write after a fence of kind rel, ar or sc releases at the scopes of the fences since the last store (R199): the scopes
of a write that the hart of the state issues now, and the hart after it. A store is the last of these writes; an atomic or
a reduction is not (`spent` false). -/
def State.armedWrite (s : State) (spent : Bool) : State × List Nat :=
  match s.h.armed with
  | [] => (s, [])
  | scs => ({ s with h := { s.h.released with armed := if spent then [] else scs } }, scs)

/-- Everything that the hart has sent has performed, batches included, as a release waits for it (R198, R227). -/
def awaitSent : M Unit := do
  let s ← get
  await ((s.mine s.h.ident).isEmpty && !s.h.openBatches)

/-- A plain store of vector and matrix instructions (R222). -/
def storeBytes (f : Nat) (seen : Nat) (val : Dword) (va : Nat) (bs : List Byte) : M Unit := do
  let ps ← storeTargets (← get).who f val va bs
  let (s, rels) := (← get).armedWrite true
  if rels.isEmpty then pure () else awaitSent
  set s
  storeParts s.who seen val s.h.clock rels true true ps

/-! ### Atomics (R230, R231, R187) -/

/-- The forms that a host page performs (R187, R231), where the root port routes them. -/
def AtomicOp.hostOk (o : AtomicOp) : Bool :=
  (o.op == 0 || o.op == 1 || o.op == 9) && !o.floating && (o.width == 32 || o.width == 64) &&
  Config.rootRoutesAtomics o.width

/-- An atomic performed at a location: old value and flags, the new value written; nothing is done to a poisoned
unit (R201, R396). -/
def State.atomicAt (s : State) (o : AtomicOp) (loc v expected : Nat) : State × Nat × Flags :=
  let n := o.width / 8
  let s := s.pulled loc
  let old := natOf (s.getBytes loc n)
  let (new, fl) := o.apply old v expected
  (s.putBytes loc (bytesOf n new), old, fl)

/-- The target of an atomic, checked (R215, R231, R356). -/
def resolveAtomic (o : AtomicOp) (val : Dword) (va : Nat) : M Target := do
  trapIf (va % (o.width / 8) != 0) causeAtomicFault val
  let s ← get
  let t ← resolve s.who .atomic causeAtomicFault val va
  trapIf (decide (2 ^ 63 ≤ t.loc) && decide (t.loc < 2 ^ 64) && !o.hostOk) causeAtomicFault val
  pure t

/-- An atomic of the hart of the state performed at its home at once: the old value and the flags. -/
def atomicHere (o : AtomicOp) (seen : Nat) (val : Dword) (t : Target) (va v expected : Nat) : M (Nat × Flags) := do
  let n := o.width / 8
  let s ← get
  await (!(s.h.sb.any (·.overlaps va n)) && (!atHost t.loc || s.h.sb.isEmpty))
  await (s.ordered s.h.ident seen (dstOf t.loc) t.loc n)
  awaitHome t.loc n
  checkPoison t.loc n val
  let (s, rels) := (← get).armedWrite false
  let (s, old, fl) := (s.observe none t.loc n).atomicAt o t.loc v expected
  set { s with pkg := rels.foldl (fun p sc =>
    p.leave ⟨t.loc, n, s.h.ident, s.core.id, bits s.h.tid 0 12, sc, none, s.h.clock⟩) s.pkg }
  match t.spot with
  | some p => orStop fun s => s.forwardSpot s.h.ident p (bytesOf n (o.apply old v expected).1) false
  | none => pure ()
  pure (old, fl)

/-- An atomic resolved, and performed at its home at once. -/
def atomic (o : AtomicOp) (val : Dword) (va v expected : Nat) : M (Nat × Flags) := do
  let t ← resolveAtomic o val va
  atomicHere o (← get).seen val t va v expected

/-- An atomic sent to its home (R188, R217), `dest` its destination; an enabled flag that it may raise is waited for
(R230). -/
def sendAtomic (o : AtomicOp) (val : Dword) (t : Target) (va v expected : Nat) (dest : Dest) (waits : Bool) : M Unit := do
  let s ← get
  await (!(s.h.sb.any (·.overlaps va (o.width / 8))) && (!atHost t.loc || s.h.sb.isEmpty))
  let (s, rels) := s.armedWrite false
  set s
  sendAccess t (o.width / 8) val dest rels waits fun tag => .atomic o t.loc v expected dest tag

/-! ### The store buffer -/

/-- The scope under which the hart's applied reductions are kept for its rfence (R238): none shares it. -/
def reducedScope : Nat := 2 ^ 20

/-- What a reduction that has been applied leaves for its hart's rfence (R238). -/
def Pkg.leaveReduced (p : Pkg) (owner core tid loc n : Nat) : Pkg :=
  if owner = 0 then p else p.leave ⟨loc, n, owner, core, tid, reducedScope, none, []⟩

/-- The scope's guard field of TGUARD (R42, R244). -/
def guardOf (tguard : Dword) (scope : Nat) : Nat :=
  if scope ≤ 5 then bits tguard 0 16 else if scope ≤ 7 then bits tguard 16 16 else bits tguard 32 16

/-- When the instruction that executes issued: one of the VDQ as it entered it (R250). -/
def State.issuedAt (s : State) : Nat := (s.h.head.map Head.issued).getD s.pkg.time

/-- A timed access of the hart of the state, ready to be sent; `issued` is the time at which it issued (R250). -/
def State.timed (s : State) (hartid instret issued : Nat) (t : Target) (va : Dword) (elem time guard : Nat) (body : TimedBody)
    (ordered : Bool) (clock : List (Nat × Nat)) : Timed :=
  { owner := s.h.ident, hart := hartid, instret := instret, elem := elem, va := va, asked := time, time := time, guard := guard
    key := t.loc, spot := t.spot, body := body, issued := issued, stamp := 0, debug := false, cls := 0, late := 0
    ordered := ordered, clock := clock }

/-- A host page takes no timed access (R187, R229). -/
def noHost (t : Target) (f : Nat) (val : Dword) : M Unit := trapIf (atHost t.loc) f val

/-- The oldest entry of the store buffer leaves: every piece of it is translated and checked first (R215, R218); one
that releases leaves after every earlier access of its hart has performed (R198, R199, R227). -/
def drainEntry (e : SbEntry) : M Unit := do
  let w : Who := ⟨e.ctx.toNat, e.tid.toNat, e.secure, e.priv⟩
  let va := e.va.toNat
  let bs := bytesOf e.size e.data.toNat
  match e.kind with
  | .timed _ time guard =>
    let t ← resolve w .store causeStoreFault e.va va
    noHost t causeStoreFault e.va
    await ((← get).clearOf (← get).h.ident t.loc bs.length)
    modify fun s => s.send { s.message e.tid (dstOf t.loc) e.va
      (.timed (s.timed s.h.hartid e.instret.toNat e.issued t e.va 0 time guard (.store bs) false e.clock)) with secure := e.secure }
  | kind =>
    let ps ← storeTargets w causeStoreFault e.va va bs
    if e.rels.isEmpty then pure ()
    else do
      awaitSent
      await ((← get).h.pend.all fun p => decide (e.before ≤ p.1))
    storeParts w (← get).seen e.va e.clock e.rels (kind == .plain) false ps

/-- The byte mask of a store of `n` bytes (R390). -/
def maskOf (n : Nat) : BitVec 8 := BitVec.ofNat 8 (2 ^ n - 1)

/-- A hart that stops for a kill, or that a double trap has ended: its buffer drains into records, those beyond the queue's 8
into its save area (R378, R390, R391, log 64). -/
def Hart.killStop (h : Hart) : Bool := (h.kill.isSome && h.priv == .user) || h.status == .exited

/-- Does the VDQ hold an accld or accrest that reads memory before an instruction of this INSTRET (R160, R193)? -/
def Hart.rowsBefore (h : Hart) (instret : Dword) : Bool := h.vdq.any fun e => match e with
  | .insn q => q.word / 2 ^ 26 == 0x2B && (q.word % 32 == 4 || q.word % 32 == 9) && decide (q.instret.toNat < instret.toNat)
  | _ => false

/-- STORE_BUFFER_DRAIN of the core of the state: the oldest entry leaves and performs or is sent, or becomes a record
of the store-fault queue (R218, R390); a core whose queue is full, or that the order of R221 holds, does nothing. -/
def drainOne : M Unit := do
  let s ← get
  match s.h.sb with
  | [] => pure ()
  | e :: rest =>
    if (8 ≤ s.h.sfq.length ∧ s.h.status ≠ .parking ∧ !s.h.killStop) || s.h.rowsBefore e.instret then pure ()
    else
      let s0 := { s with h := { s.h with sb := rest } }
      match drainEntry e s0 with
      | .ok (_, s) => set s
      | .error (.trap t s) => do
        set s
        orStop (State.keepFault ⟨e.va, e.pc, maskOf e.size, BitVec.ofNat 8 t.cause⟩)
      | .error (.again s) => set { s with h := { s.h with sb := e :: s.h.sb } }
      | .error .wait => pure ()
      | .error (.queued _) => pure ()
      | .error (.stop f) => fun _ => .error (.stop f)

/-- The hart as a store of this kind issues: a release or timed store is a point of its own in happens-before, and so is
the first store after a fence of kind rel, ar or sc that is not timed (R199, R205). -/
def Hart.atStore (h : Hart) (kind : StoreKind) : Hart :=
  match kind with
  | .plain => if h.armed.isEmpty then h else { h.released with armed := [] }
  | .release _ => { h.released with armed := [] }
  | .timed _ _ _ => h.released

/-- The scopes at which a store of this kind releases (R198, R199). -/
def Hart.storeScopes (h : Hart) (kind : StoreKind) : List Nat :=
  match kind with
  | .plain => h.armed
  | .release sc => sc :: h.armed
  | .timed _ _ _ => []

/-- A store entered into the buffer as it retires (R218), with what a fence before it makes of it. -/
def State.pushStore (s : State) (va : Dword) (size : Nat) (data : Dword) (kind : StoreKind) : State :=
  let h := s.h.atStore kind
  let e : SbEntry :=
    { va := va, pc := h.pc, size := size, data := data, kind := kind
      ctx := BitVec.ofNat 16 (bits h.ctxid 0 16), tid := BitVec.ofNat 12 (bits h.tid 0 12), secure := s.who.secure
      priv := h.priv, instret := h.instret, issued := s.pkg.time, clock := h.clock, before := s.pkg.tags
      rels := s.h.storeScopes kind }
  { s with h := { h with sb := h.sb ++ [e] } }

/-- Does the VDQ hold an accst or accsave that has not placed all its entries (R160, R221)? -/
def Hart.placing (h : Hart) : Bool := h.vdq.any fun e => match e with
  | .insn q => q.word / 2 ^ 26 == 0x2B && (q.word % 32 == 5 || q.word % 32 == 8)
  | _ => false

/-- A store of an instruction, which waits while the buffer is full, and for the entries of an older accst or accsave
(R218, R221). -/
def queueStore (va : Dword) (size : Nat) (data : Dword) (kind : StoreKind) : M Unit := do
  let s ← get
  await (decide (s.h.sb.length < 32) && !s.h.placing)
  modify fun s => s.pushStore va size data kind

/-- The store buffer is empty, or the instruction waits (R219, R221). -/
def awaitBuffer : M Unit := do
  let s ← get
  await (s.h.sb.isEmpty && !s.h.placing)

/-- Every earlier access of the hart has performed and been acknowledged, timed stores and ordered reductions up to their
arrival and its report (R198, R236, R252). -/
def awaitPerformed : M Unit := do
  awaitBuffer
  let s ← get
  await ((s.mine s.h.ident).isEmpty && !(s.pkg.waiting.any (·.owner == s.h.ident)) &&
    !(s.pkg.resps.any (·.owner == s.h.ident)))

/-- No timed access of the hart is held at a home either. -/
def awaitApplied : M Unit := do
  awaitPerformed
  let s ← get
  await (!s.pkg.held.any (·.owner == s.h.ident))

end Sys2Proof.Machine
end

