-- ==== Sys2Proof/Machine/Sched.lean ====
section
/-! DEFINITION. Work queues (R303 to R307), the die scheduler (R308 to R312), hart start (R51), slots (R377), the end of
a gang (R313), joins (R314), parking and resuming (R382 to R387), and the ending of gangs by gkill (R391, R392). -/

namespace Sys2Proof.Machine

/-! ### Launch records and queues -/

/-- Bits `lo` and up of a launch record, `n` of them (R302). -/
def recField (r : BitVec 512) (lo n : Nat) : Nat := r.toNat / 2 ^ lo % 2 ^ n

/-- GSIZE of a record. -/
def recGsize (r : BitVec 512) : Nat := recField r 304 4
/-- PRIO of a record. -/
def recPrio (r : BitVec 512) : Nat := recField r 308 2
/-- CTXID of a record. -/
def recCtx (r : BitVec 512) : Nat := recField r 288 16

/-- A malformed record (R302). -/
def malformed (r : BitVec 512) : Bool := recGsize r == 0 || decide (8 < recGsize r) || recField r 314 6 != 0

/-- What the model keeps of queue `q`. -/
def Pkg.queueInfo (p : Pkg) (q : Nat) : QueueInfo := (tableGet p.queues q).getD ⟨[], 0, none, false, []⟩

/-- The package with what the model keeps of a queue replaced. -/
def Pkg.setQueueInfo (p : Pkg) (q : Nat) (i : QueueInfo) : Pkg := { p with queues := tableSet p.queues q i }

/-- QCFG of a queue. -/
def Pkg.qcfg (p : Pkg) (q : Nat) : Dword := p.ctl (offQueue q 1)
/-- HEAD of a queue. -/
def Pkg.qhead (p : Pkg) (q : Nat) : Nat := bits (p.ctl (offQueue q 2)) 0 32
/-- TAIL of a queue. -/
def Pkg.qtail (p : Pkg) (q : Nat) : Nat := bits (p.ctl (offQueue q 3)) 0 32
/-- The slots of a queue's ring. -/
def Pkg.qsize (p : Pkg) (q : Nat) : Nat := 2 ^ bits (p.qcfg q) 4 4
/-- The records in a queue's ring. -/
def Pkg.qcount (p : Pkg) (q : Nat) : Nat := (p.qtail q + 2 ^ 32 - p.qhead q) % 2 ^ 32

/-- The physical address of the slot of index `i`. -/
def Pkg.qslot (p : Pkg) (q i : Nat) : Nat := (p.ctl (offQueue q 0)).toNat + 64 * (i % p.qsize q)

/-- Bits of QSTAT set. -/
def Pkg.qstatSet (p : Pkg) (q bit : Nat) : Pkg := p.setCtl (offQueue q 6) (setBits (p.ctl (offQueue q 6)) bit 1 1)

/-- DROPS increased by one, saturating. -/
def Pkg.qdrop (p : Pkg) (q : Nat) : Pkg :=
  let v := p.ctl (offQueue q 6)
  p.setCtl (offQueue q 6) (setBits v 16 32 (min (2 ^ 32 - 1) (bits v 16 32 + 1)))

/-- A refusal recorded: code 1 DISABLED, 2 FORMAT, 3 CTX, 4 FULL (R303, R305). -/
def Pkg.qrefuse (p : Pkg) (q code : Nat) : Pkg :=
  let b := match code with
    | 1 => 3
    | 2 => 1
    | 3 => 2
    | _ => 0
  (p.qstatSet q b).qdrop q

/-- The code of the first check of R305 that an enqueue fails, 0 for none. -/
def Pkg.qcheck (p : Pkg) (q : Nat) (r : BitVec 512) (cont : Bool) : Nat :=
  let c := p.qcfg q
  let size := p.qsize q
  let room := if cont then size else size - min 16 (size / 4)
  if !bit c 0 then 1
  else if !bit c 2 && malformed r then 2
  else if !bit c 2 && (recCtx r &&& bits c 48 16) != (bits c 32 16 &&& bits c 48 16) then 3
  else if room ≤ p.qcount q then 4 else 0

/-- The bytes of a record. -/
def recBytes (r : BitVec 512) : List Byte := bytesOf 64 r.toNat

/-- The record in the slot of index `i`. -/
def State.queueRecord (s : State) (q i : Nat) : BitVec 512 :=
  match s.physBytes (s.pkg.qslot q i) 64 with
  | some bs => BitVec.ofNat 512 (natOf bs)
  | none => 0

/-- Is the slot of index `i` poisoned (R396)? -/
def Pkg.slotPoisoned (p : Pkg) (q i : Nat) : Bool := (p.ownDram (p.qslot q i)).any fun l => p.poisoned l 64

/-- An accepted record stored (R305): slot, TAIL, arrival stamp; with the point that its senders reached (R204). -/
def State.accept (s : State) (q : Nat) (r : BitVec 512) (clock : List (Nat × Nat)) : State :=
  let p := s.pkg
  let i := p.qtail q
  let s := (s.putPhys (p.qslot q i) (chunksOf 8 (recBytes r))).getD s
  let p := s.pkg.setCtl (offQueue q 3) (BitVec.ofNat 64 ((i + 1) % 2 ^ 32))
  let info := p.queueInfo q
  let info := { info with stamps := tableSet info.stamps i p.gtime, clocks := tableSet info.clocks i clock }
  { s with pkg := p.setQueueInfo q info }

/-! ### Starting harts -/

/-- A hart as a launch record and its placement start it (R51). -/
def Hart.start (r : BitVec 512) (gang gidx slot poolDie : Nat) (secure : Bool) (tid : BitVec 12) (draw : Nat)
    (clock : List (Nat × Nat)) : Hart :=
  let d (i : Nat) : Dword := BitVec.ofNat 64 (recField r (64 * i) 64)
  let h := Hart.reset draw
  { h with
    x := ((((h.x.set 2 (d 1)).set 10 (d 5)).set 11 (d 6)).set 12 (d 7))
    pc := d 0
    gangid := BitVec.ofNat 64 (recField r 256 32)
    gidx := BitVec.ofNat 64 gidx
    gangsz := BitVec.ofNat 64 (recGsize r)
    ctxid := BitVec.ofNat 64 (recCtx r)
    tid := tid.zeroExtend 64
    slot := slot
    poolDie := poolDie
    poolSecure := secure
    status := .running
    gang := gang
    clock := tableSet clock (gang * 8 + gidx) 0 }

/-- The lowest `n` numbers below `limit` that are not in use. -/
def lowestFree (used : List Nat) (limit n : Nat) : Option (List Nat) :=
  let f := ((List.range limit).filter fun i => !used.contains i).take n
  if f.length = n then some f else none

/-- Hart slots of a world's pool in use on a die. -/
def Die.slotsUsed (d : Die) (secure : Bool) : List Nat := if secure then d.hslotsSec else d.hslots

/-- Gang slots of a world's pool in use on a die. -/
def Die.gslotsUsed (d : Die) (secure : Bool) : List Nat := if secure then d.gslotsSec else d.gslots

/-- The slots in use replaced. -/
def Die.setSlots (d : Die) (secure : Bool) (h g : List Nat) : Die :=
  if secure then { d with hslotsSec := h, gslotsSec := g } else { d with hslots := h, gslots := g }

/-- A core of cluster `c` (package-wide) that holds no hart. -/
def State.coreFree (s : State) (core : Nat) : Bool := (s.coreAt core).2.status == .absent

/-- The free cores of a cluster. -/
def State.freeCores (s : State) (c : Nat) : List Nat := ((List.range 8).map (8 * c + ·)).filter s.coreFree

/-- Is a core kept for a candidate of another name (R312)? -/
def Pkg.keptFrom (p : Pkg) (core name : Nat) : Bool :=
  (p.die (dieOfCore core)).kept.any fun r => r.1 == core && r.2 != name

/-- The free units of a cluster's array. -/
def State.freeUnits (s : State) (c : Nat) : List Nat :=
  (List.range 64).filter fun u => !(s.pkg.cluster c).units.contains u

/-- May gangs be placed on a die at all: it is not evacuating, offline, stopped by NO_CAPACITY, or halted (R319, R401,
R404)? -/
def Pkg.placesOn (p : Pkg) (die : Nat) : Bool :=
  let st := bits (p.ctl (offDiestat die)) 0 2
  decide (st < 2) && !bit (p.ctl (offDiestat die)) 4 && !(p.die die).halted && !p.tripped

/-- A candidate of the scheduler (R308): a queue's first record, or a gang of the resume list. -/
structure Cand where
  gang : Option Nat
  q : Nat
  prio : Nat
  stamp : Nat
  gsize : Nat
  part : Nat
  tid : Nat
  secure : Bool
  passed : Nat
  guardAt : Option Nat
deriving DecidableEq, Repr

/-- A candidate's name among reservations: a gang, or 2^32 + queue. -/
def Cand.name (c : Cand) : Nat := c.gang.getD (2 ^ 32 + c.q)

/-- The free cores of a cluster that a candidate may take (R309, R312). -/
def State.coresFor (s : State) (c : Cand) (cluster : Nat) : List Nat :=
  (s.freeCores cluster).filter fun k => !s.pkg.keptFrom k c.name

/-- Is the first record of a queue eligible (R306)? One in a poisoned slot is never (log 62). -/
def Pkg.eligible (p : Pkg) (q : Nat) : Bool :=
  let c := p.qcfg q
  bit c 0 && !bit c 2 && p.qcount q != 0 && !p.slotPoisoned q (p.qhead q) &&
  (bit c 1 || (let k := (bits (p.ctl (offQueue q 4)) 0 32 + 2 ^ 32 - p.qhead q) % 2 ^ 32
               decide (1 ≤ k) && decide (k ≤ 2 ^ 31)))

/-- The candidate of queue `q`, once its slot can be read (R173, R398). -/
def State.queueCand (s : State) (q : Nat) : Option Cand :=
  let p := s.pkg
  if p.eligible q && !p.physHeld (p.qslot q (p.qhead q)) 64 then
    let r := s.queueRecord q (p.qhead q)
    let c := p.qcfg q
    let i := p.queueInfo q
    some ⟨none, q, recPrio r, (tableGet i.stamps (p.qhead q)).getD 0, recGsize r, bits c 8 8, bits c 16 12, bit c 28,
      i.passed, i.guardAt⟩
  else none

/-- The candidate of a parked gang. -/
def Gang.cand (g : Gang) : Cand :=
  ⟨some g.id, g.queue, g.prio, g.stamp, g.gsize, g.part, g.tid.toNat, g.secure, g.passed, g.guardAt⟩

/-- The candidates of a die (R308). -/
def State.candidates (s : State) (die : Nat) : List Cand :=
  ((List.range 16).filterMap fun k => s.queueCand (16 * die + k)) ++
  (s.pkg.gangs.filter fun g => g.die == die && g.phase == .parked && !g.discard).map Gang.cand

/-- The order of R308 among candidates of which none is guarded: PRIO, resume entries, stamp, queue; then the name
(log 13). -/
def Cand.ahead (a b : Cand) : Bool :=
  if a.prio != b.prio then decide (b.prio < a.prio)
  else if a.gang.isSome != b.gang.isSome then a.gang.isSome
  else if a.stamp != b.stamp then decide (a.stamp < b.stamp)
  else if a.q != b.q then decide (a.q < b.q)
  else decide (a.name < b.name)

/-- The order of R308 among candidates: guarded first, by the dispatch that brought the guard. -/
def Cand.before (a b : Cand) : Bool :=
  match a.guardAt, b.guardAt with
  | some x, some y => if x = y then a.ahead b else decide (x < y)
  | some _, none => true
  | none, some _ => false
  | none, none => a.ahead b

/-- A candidate put in its place. -/
def insertCand (c : Cand) : List Cand → List Cand
  | [] => [c]
  | d :: r => if c.before d then c :: d :: r else d :: insertCand c r

/-- The clusters of a die that a candidate may ever use: its tenant's, not offline (R309, R399). -/
def State.allowed (s : State) (die : Nat) (c : Cand) : List Nat :=
  ((List.range 48).filter fun k =>
    s.pkg.tenantOf die k == c.tid && !bit (s.pkg.ctl (offDiestat die)) (16 + k)).map (48 * die + ·)

/-- Is a cluster reserved for another candidate (R310, R312)? -/
def State.reservedFor (s : State) (cluster : Nat) (c : Cand) : Bool :=
  (s.pkg.die (cluster / 48)).reserved.any fun r => r.1 == cluster && r.2 != c.name

/-- Can a candidate be placed in a cluster (R309)? -/
def State.fits (s : State) (c : Cand) (cluster : Nat) : Bool :=
  decide (c.gsize ≤ (s.coresFor c cluster).length) && decide (c.part ≤ (s.freeUnits cluster).length) &&
  !s.reservedFor cluster c

/-- The least element of a list under a measure, the first among equals. -/
def leastBy {α : Type} (f : α → Nat) : List α → Option α
  | [] => none
  | a :: r =>
    match leastBy f r with
    | none => some a
    | some b => if f b < f a then some b else some a

/-- Have the pools of the die slots for a record (R377)? -/
def State.slotsFor (s : State) (die : Nat) (c : Cand) : Bool :=
  let d := s.pkg.die die
  let n (r : Nat) := bits (s.pkg.ctl (offTrap die c.secure r)) 0 16
  c.gang.isSome ||
  ((lowestFree (d.slotsUsed c.secure) (n 3) c.gsize).isSome &&
   (c.part == 0 || (lowestFree (d.gslotsUsed c.secure) (n 5) 1).isSome))

/-- The cluster where a candidate is placed: the fewest free cores, then the lowest number (R309). -/
def State.placeFor (s : State) (die : Nat) (c : Cand) : Option Nat :=
  if s.pkg.placesOn die && s.slotsFor die c then
    leastBy (fun k => (s.coresFor c k).length) ((s.allowed die c).filter (s.fits c))
  else none

/-- The clusters' units given to a gang. -/
def State.takeUnits (s : State) (cluster n : Nat) : State × List Nat :=
  let u := (s.freeUnits cluster).take n
  let c := s.pkg.cluster cluster
  ({ s with pkg := { s.pkg with clusters := tableSet s.pkg.clusters cluster { c with units := u.foldl setInsert c.units } } }, u)

/-- A hart put on a core in a world; its first turn is at the next edge, on whatever core, so that the harts of a gang
start together (R311, R317). -/
def State.putHart (s : State) (core : Nat) (secure : Bool) (h : Hart) : State :=
  s.onCore core fun s => { s with h := h, core := { s.core with secure := secure, turnAt := s.pkg.time } }

/-- The arrays listed that are in retention (R397). -/
def Pkg.retained (p : Pkg) (arrays : List Nat) : List Nat := arrays.filter fun a => (tableGet p.retention a).isSome

/-- The arrays that the placing of a candidate reaches (R397): those of its cores and its cluster, and the array that a
gang's partition is written back from. -/
def State.arraysFor (s : State) (c : Cand) (cluster : Nat) : List Nat :=
  (s.coresFor c cluster).take c.gsize ++ [1536 + cluster] ++
  ((c.gang.bind s.gang?).map fun g => 1536 + g.cluster).toList

/-- The arrays listed woken (R397). -/
def Pkg.wakeArrays (p : Pkg) (as : List Nat) : Pkg :=
  as.foldl Pkg.startLeave p

/-- The hart's save area cleared, its slots named in it (R377, R381). -/
def State.clearCsa (s : State) (h : Hart) (gslot : Option Nat) : Option State :=
  match s.clearPages (s.csaOf h) 16 with
  | none => none
  | some s => s.putDwords (s.csaOf h + 0x18) [h.slotWord gslot]

/-- The harts of a dispatched record started on their cores (R311, R51). -/
def State.startHarts (s : State) (secure : Bool) (gslot : Option Nat) : List (Nat × Hart) → Option State
  | [] => some s
  | (core, h) :: r =>
    match s.clearCsa h gslot with
    | none => none
    | some s => (s.putHart core secure h).startHarts secure gslot r

/-- A record dispatched to a cluster (GANG_DISPATCH, R311). -/
def State.dispatchRecord (s : State) (die cluster : Nat) (c : Cand) : Option State :=
  let p := s.pkg
  let q := c.q
  let i := p.qhead q
  let r := s.queueRecord q i
  let info := p.queueInfo q
  let d := p.die die
  let n (k : Nat) := bits (p.ctl (offTrap die c.secure k)) 0 16
  let slots := (lowestFree (d.slotsUsed c.secure) (n 3) c.gsize).getD []
  let gslot := if c.part = 0 then none else ((lowestFree (d.gslotsUsed c.secure) (n 5) 1).getD []).head?
  let cores := (s.coresFor c cluster).take c.gsize
  let id := p.nextGang
  let (s, units) := s.takeUnits cluster c.part
  let gang : Gang :=
    { id := id, tag := BitVec.ofNat 32 (recField r 256 32), ctx := BitVec.ofNat 16 (recCtx r)
      tid := BitVec.ofNat 12 c.tid, secure := c.secure, die := die, cluster := cluster, gsize := c.gsize, prio := c.prio
      stamp := c.stamp, queue := q, cq := recField r 310 4, cont := BitVec.ofNat 64 (recField r 192 64)
      join := BitVec.ofNat 64 (recField r 128 64), part := c.part, units := units, gslot := gslot, poolDie := die
      ptbmp := 0, arrived := [], phases := 0, doneAt := [], clocks := [], phase := .resident, saved := [], placed := p.nextGang
      passed := 0, guardAt := none, parkAt := none, noticeAt := none, killed := false, discard := false }
  let p := s.pkg.setCtl (offQueue q 2) (BitVec.ofNat 64 ((i + 1) % 2 ^ 32))
  let info' := { info with stamps := tableDrop info.stamps i, passed := 0, guardAt := none
                           clocks := tableDrop info.clocks i }
  let p := p.setQueueInfo q info'
  let p := p.onDie die fun d =>
    d.setSlots c.secure (slots.foldl setInsert (d.slotsUsed c.secure)) (gslot.toList.foldl setInsert (d.gslotsUsed c.secure))
  let p := { p with gangs := p.gangs ++ [gang], nextGang := id + 1, draws := p.draws + 4 * c.gsize }
  let clock := (tableGet info.clocks i).getD []
  let hart (g : Nat) : Hart :=
    Hart.start r id g (slots.getD g 0) die c.secure gang.tid (p.draws - 4 * c.gsize + 4 * g) clock
  ({ s with pkg := p }).startHarts c.secure gslot ((List.range c.gsize).map fun g => (cores.getD g 0, hart g))

/-- The granules of a parked gang's partition written back and given up (GRANULE_WRITE_BACK, R386). -/
def State.evictGang (s : State) (g : Gang) : Option State :=
  let mine := ((s.pkg.cluster g.cluster).tags.filter fun e => g.gslot.isSome && e.2 == g.tagOf).map (·.1)
  let s := mine.foldl (fun (s : Option State) k => s.bind fun s => s.evictPart g.cluster k g.tagOf) (some s)
  s.map fun s =>
    let c := s.pkg.cluster g.cluster
    let c := { c with tags := c.tags.filter fun e => !mine.contains e.1 }
    { s with pkg := { s.pkg with clusters := tableSet s.pkg.clusters g.cluster c } }

/-- A parked gang given cores and a partition (R311); its harts start once R386 allows it. Its partition's granules
are written back first where the partition comes to lie elsewhere. R311 lets the harts resume on any free cores of the
cluster; that they take the lowest ones in the order of their GIDX is the model's choice (log 13). -/
def State.placeResume (s : State) (g : Gang) (cluster : Nat) : Option State :=
  let cores := (s.coresFor g.cand cluster).take g.gsize
  let stays := g.cluster == cluster && ((s.freeUnits cluster).take g.part == g.units)
  (if stays then some s else s.evictGang g).map fun s =>
    let (s, units) := s.takeUnits cluster g.part
    let hold (s : State) (i : Nat) : State :=
      s.putHart (cores.getD i 0) g.secure
        { Hart.reset 0 with status := .resuming, gang := g.id, gidx := BitVec.ofNat 64 i, gangsz := BitVec.ofNat 64 g.gsize }
    let s := (List.range g.gsize).foldl hold s
    let n := s.pkg.nextGang
    let s := { s with pkg := { s.pkg with nextGang := n + 1 } }
    s.onGang g.id fun g =>
      { g with phase := .resuming, cluster := cluster, units := units, placed := n, passed := 0, guardAt := none }

/-- The pass-over counts of the candidates that a dispatch of PRIO `prio` passes over (R310). -/
def State.passOver (s : State) (chosen : Cand) (cs : List Cand) : State :=
  cs.foldl (fun s c =>
    if c.name = chosen.name ∨ c.prio < chosen.prio then s
    else
      let n := c.passed + 1
      let gu := if 256 ≤ n && c.guardAt.isNone then some s.pkg.nextGang else c.guardAt
      match c.gang with
      | some g => s.onGang g fun g => { g with passed := n, guardAt := gu }
      | none =>
        let i := s.pkg.queueInfo c.q
        { s with pkg := s.pkg.setQueueInfo c.q { i with passed := n, guardAt := gu } }) s

/-- A cluster reserved for a candidate (R310). -/
def State.reserve (s : State) (die cluster : Nat) (c : Cand) : State :=
  { s with pkg := s.pkg.onDie die fun d =>
      if d.reserved.any (fun r => r.2 == c.name) then d else { d with reserved := d.reserved ++ [(cluster, c.name)] } }

/-- The reservations of a candidate dropped, the cores kept for it too. -/
def Pkg.unreserve (p : Pkg) (die name : Nat) : Pkg :=
  p.onDie die fun d => { d with reserved := d.reserved.filter (·.2 != name), kept := d.kept.filter (·.2 != name) }

/-- A resident gang asked to park (R382, R383). -/
def State.preemptGang (s : State) (g : Nat) : State :=
  match s.gang? g with
  | none => s
  | some gang =>
    if gang.phase != .resident then s
    else
      let s := s.onGang g fun g => { g with phase := .parking, parkAt := some s.pkg.time, noticeAt := none }
      let cores := (s.cores.filter fun e => e.2.present && e.2.gang == g).map (·.1.id)
      cores.foldl (fun s c => s.onCore c fun s => { s with h := { s.h with preempt := true } }) s

/-- The gangs that parking would take from a cluster for a candidate of PRIO 3, lowest PRIO first, newest first among
equals, until it fits; none where they do not suffice (R312). -/
def victims (need part : Nat) : List Gang → Nat → Nat → List Nat → Option (List Nat)
  | gs, cores, units, acc =>
    if need ≤ cores ∧ part ≤ units then some acc.reverse
    else
      match gs with
      | [] => none
      | g :: r => victims need part r (cores + g.gsize) (units + g.part) (g.id :: acc)

/-- Gangs in the order in which R312 parks them. -/
def insertVictim (g : Gang) : List Gang → List Gang
  | [] => [g]
  | h :: r => if g.prio < h.prio ∨ (g.prio = h.prio ∧ h.placed < g.placed) then g :: h :: r else h :: insertVictim g r

/-- The victims of a cluster for a candidate. -/
def State.victimsIn (s : State) (c : Cand) (cluster : Nat) : Option (List Nat) :=
  let here := s.pkg.gangs.filter fun g =>
    g.phase == .resident && decide (g.prio < 3) && s.cores.any (fun e => e.2.present && e.2.gang == g.id && clusterOfCore e.1.id == cluster)
  victims c.gsize c.part (here.foldl (fun l g => insertVictim g l) []) (s.coresFor c cluster).length
    (s.freeUnits cluster).length []

/-- The cores of a gang's harts. -/
def State.coresOf (s : State) (g : Nat) : List Nat := (s.cores.filter fun e => e.2.present && e.2.gang == g).map (·.1.id)

/-- Does the parking that was started for a candidate still go on? -/
def State.preempting (s : State) (die : Nat) (c : Cand) : Bool :=
  (s.pkg.die die).kept.any fun r => r.2 == c.name && !s.coreFree r.1

/-- SCHEDULER_PREEMPT for a candidate of PRIO 3 that cannot be placed (R312): the cores that the parking frees are kept
for it. -/
def State.schedulerPreempt (s : State) (die : Nat) (c : Cand) : State :=
  if s.preempting die c || !s.pkg.placesOn die || !s.slotsFor die c then s
  else
    let options := (s.allowed die c).filterMap fun k =>
      if s.reservedFor k c then none else (s.victimsIn c k).map fun v => (k, v)
    let harts (v : List Nat) : Nat := (v.map fun g => ((s.gang? g).map (·.gsize)).getD 0).foldl (· + ·) 0
    match leastBy (fun o => harts o.2) options with
    | none => s
    | some (_, v) =>
      let keep := (v.flatMap s.coresOf).map fun k => (k, c.name)
      v.foldl State.preemptGang { s with pkg := s.pkg.onDie die fun d => { d with kept := d.kept ++ keep } }

/-- What one round of a selection finds: a candidate with its cluster. -/
def State.choose (s : State) (die : Nat) (cs : List Cand) : Option (Cand × Nat) :=
  let guarded := cs.filter (·.guardAt.isSome)
  let blocked (c : Cand) : Bool := guarded.any fun g => g.name != c.name && g.guardAt.isSome && decide (c.prio ≤ g.prio) &&
    !(c.guardAt.isSome && c.before g)
  cs.findSome? fun c => if blocked c then none else (s.placeFor die c).map fun k => (c, k)

/-- The reservations of R310 for the guarded candidates that cannot be placed, each in a cluster that is not reserved for
another (log 13). -/
def State.guardReserve (s : State) (die : Nat) (cs : List Cand) : State :=
  (cs.filter (·.guardAt.isSome)).foldl (fun s c =>
    match leastBy (fun k => 8 - (s.freeCores k).length) ((s.allowed die c).filter fun k => !s.reservedFor k c) with
    | none => s
    | some k => s.reserve die k c) s

/-- SCHEDULER_SELECT of a die (R308): candidates placed one after the other until none can be, `fuel` of them at
most. -/
def State.selectFrom (s : State) (die : Nat) : Nat → Option State
  | 0 => some s
  | fuel + 1 =>
    let cs := (s.candidates die).foldl (fun l c => insertCand c l) []
    let s := s.guardReserve die (cs.filter fun c => (s.placeFor die c).isNone)
    match s.choose die cs with
    | none =>
      if cs.any (·.guardAt.isSome) then some s
      else some ((cs.filter fun c => c.prio == 3).foldl (fun s c => s.schedulerPreempt die c) s)
    | some (c, k) =>
      match s.pkg.retained (s.arraysFor c k) with
      | a :: as => some { s with pkg := s.pkg.wakeArrays (a :: as) }
      | [] =>
        let s := s.passOver c cs
        let s := { s with pkg := s.pkg.unreserve die c.name }
        match c.gang with
        | some g => (match s.gang? g with
          | none => some s
          | some gang => (s.placeResume gang k).bind fun s => s.selectFrom die fuel)
        | none =>
          match s.dispatchRecord die k c with
          | none => none
          | some s => s.selectFrom die fuel

/-- A UE event for each first record of a die's queues that a selection finds poisoned (R396). -/
def Pkg.slotEvents (p : Pkg) (die : Nat) : Pkg :=
  ((List.range 16).map (16 * die + ·)).foldl (fun p q =>
    if bit (p.qcfg q) 0 && !bit (p.qcfg q) 2 && p.qcount q != 0 && p.slotPoisoned q (p.qhead q) then
      ((p.ownDram (p.qslot q (p.qhead q))).map p.ueEvent).getD p
    else p) p

/-- A selection of a die's scheduler. A die runs at most 384 harts. -/
def State.select (s : State) (die : Nat) : Option State := { s with pkg := s.pkg.slotEvents die }.selectFrom die 385

/-- A selection of every die's scheduler, once records that could not be read can be. -/
def State.selectAll (s : State) : Option State := (List.range 4).foldl (fun s d => s.bind (·.select d)) (some s)

/-! ### Enqueueing (R305) -/

/-- A record arrives at queue `q` (R305): the code it is refused with, 0 when it is accepted. -/
def State.enqueue (s : State) (q : Nat) (r : BitVec 512) (clock : List (Nat × Nat)) : Option (State × Nat) :=
  match s.pkg.qcheck q r false with
  | 0 => ((s.accept q r clock).select (q / 16)).map fun s => (s, 0)
  | code => some ({ s with pkg := s.pkg.qrefuse q code }, code)

/-- A TENANT_DROP event on a die (R369). -/
def Pkg.tenantDrop (p : Pkg) (die src tid addr : Nat) : Pkg := p.logEvent die 0x0D src tid addr

/-- The physical address of the page of queue `q` of a package (R177). -/
def queuePage (package q : Nat) : Nat := package * 2 ^ 42 + queueWindow + 4096 * q

/-- The records that a die holds and tries again (R305). -/
def Die.holding (d : Die) : Nat := (d.conts.filter fun c => !c.out).length

/-- A continuation that found its ring full is held by its die; lost, with an event, when the buffer of 64 is full too
(R305). -/
def State.holdCont (s : State) (from_ : Nat) (c : HeldCont) : State :=
  let p := s.pkg
  if (p.die from_).holding < 64 then
    { s with pkg := p.onDie from_ fun d =>
        { d with
          conts := d.conts ++ [{ c with out := false }]
          contAt := d.contAt.or (some (p.time + nanoseconds 1000)) } }
  else
    let p := if c.package = p.number then p.qdrop c.q else p
    { s with pkg := p.logEvent from_ 0x0A 0xFFFF c.addr 0 }

/-- A continuation whose TID the page of its queue refuses, at its first delivery or a later one (R368, R369). -/
def State.dropCont (s : State) (from_ : Nat) (c : HeldCont) : State :=
  let drop (p : Pkg) (die : Nat) : Pkg := p.tenantDrop die 0xFFFF c.tid (queuePage c.package c.q)
  let p := drop s.pkg (c.q / 16)
  { s with pkg := if c.q / 16 = from_ then p else drop p from_ }

/-- A continuation on its way to another package (R188, R305). -/
def HeldCont.message (c : HeldCont) (from_ now : Nat) (first : Bool) : Msg :=
  { owner := 0, hartid := 0, core := 384 * from_, dst := 4 + c.package, tid := BitVec.ofNat 12 c.tid, secure := c.secure
    sent := now, va := 0, body := .launch c.q c.record (some (c.tag, first)), clock := c.clock, race := false, rels := []
    spot := none, ack := none }

/-- A continuation sent to another package, where the membership bitmap of its port admits its TID (R368); while no port
of the die works it is held. -/
def State.sendCont (s : State) (from_ : Nat) (c : HeldCont) (first : Bool) : State :=
  let p := s.pkg
  match p.route from_ c.package with
  | none => s.holdCont from_ c
  | some port =>
    if p.portAdmits port c.tid then
      let p := p.onDie from_ fun d => { d with conts := d.conts ++ [{ c with out := true }] }
      { s with pkg := { p with outputs := p.outputs ++ [.fabric (c.message from_ p.time first)] } }
    else { s with pkg := p.tenantDrop from_ 0xFFFF c.tid (queuePage c.package c.q) }

/-- A CONT or join enqueue, sent by die `from_` under a tenant and world (R305, R368): one that finds the ring full is
held; `addr` is the CONT or join address. -/
def State.enqueueCont (s : State) (from_ package q : Nat) (r : BitVec 512) (addr tid : Nat) (secure : Bool)
    (clock : List (Nat × Nat)) : Option State :=
  let p := s.pkg
  let c : HeldCont :=
    { package := package, q := q, record := r, stamp := p.gtime, addr := addr, clock := clock, tid := tid, secure := secure
      tag := p.tags, out := false }
  if package ≠ p.number then some ({ s with pkg := { p with tags := p.tags + 1 } }.sendCont from_ c true)
  else if bits (p.qcfg q) 16 12 ≠ tid then some (s.dropCont from_ c)
  else
    match p.qcheck q r true with
    | 0 =>
      if p.physHeld (p.qslot q (p.qtail q)) 64 then some (s.holdCont from_ c) else (s.accept q r clock).select (q / 16)
    | 4 => some ({ s with pkg := p.qstatSet q 0 }.holdCont from_ c)
    | code => some { s with pkg := p.qrefuse q code }

/-! ### Gang end and joins -/

/-- Does a walk of a die read a line that waits (R173, R398)? -/
def State.walkHeld (s : State) (die : Nat) (w : Who) (va : Nat) : Bool :=
  s.pkg.homesHold && (s.walkReads (s.walker die w) va).any fun r => r.2.any fun l => s.pkg.pendingAt l || inRows s.pkg.rebuilding l

/-- A VA translated without a TLB (R313: the scheduler's accesses at user privilege). -/
def State.walkFor (s : State) (die : Nat) (w : Who) (want : Want) (va : Nat) : Except Denied Nat :=
  if 2 ^ 48 ≤ va ∨ (windowBase ≤ va ∧ va < windowBase + 2 ^ 32) then .error .translation
  else
    match s.formTranslation die w va with
    | .error d => .error d
    | .ok e =>
      let pa := e.pbase + (va - e.vbase)
      match s.checkAccess w e want pa with
      | .error d => .error d
      | .ok _ => .ok pa

/-- The bytes of a join block that a join reads (R314), as (location, length): COUNT, TARGET and REC as COUNT calls for
them. -/
def State.joinReads (s : State) (loc : Nat) : List (Nat × Nat) :=
  let c := signExtend (natOf (s.getBytes loc 8)) 64
  if c = 1 then [(loc, 16), (loc + 64, 64)] else if c ≤ 0 then [(loc, 16)] else [(loc, 8)]

/-- The first poisoned unit that a join reads (R396). -/
def State.joinPoison (s : State) (loc : Nat) : Option Nat :=
  ((s.joinReads loc).find? fun r => s.pkg.poisoned r.1 r.2).map (·.1)

/-- A join on the block at a location (R314), under a tenant and world, by a sender whose releases reach `clock`; what it
enqueues is sent by the home die of COUNT. -/
def State.joinAt (s : State) (tid : Nat) (secure : Bool) (loc : Nat) (clock : List (Nat × Nat)) : Option State :=
  let s := (s.pulled loc).pulled (loc + 64)
  let key := loc + 2 ^ 70
  let before := ((s.pkg.released.find? fun r => r.key == key).map (·.clock)).getD []
  let clock := clockJoin before clock
  let p := { s.pkg with released := s.pkg.released.filter fun r => r.key != key }
  let s := { s with pkg := p.leave ⟨key, 1, 0, 0, 0, 10, none, clock⟩ }
  let home := dieOfHome (homeOf loc)
  let c := signExtend (natOf (s.getBytes loc 8)) 64
  let s := s.putBytes loc (bytesOf 8 (wrap (c - 1) 64))
  let target := natOf (s.getBytes (loc + 8) 8)
  if c = 1 then
    let rec_ := BitVec.ofNat 512 (natOf (s.getBytes (loc + 64) 64))
    let package := target / 64 % 1024
    if target / 2 ^ 17 != 0 || !s.pkg.domain.contains package then
      some { s with pkg := s.pkg.logEvent home 0x0A (sourceOf loc) (s.pkg.addressOf loc) 0 }
    else s.enqueueCont home package (16 * (target / 16 % 4) + target % 16) rec_ (s.pkg.addressOf loc) tid secure clock
  else if c ≤ 0 then
    let s := s.putBytes (loc + 8) (bytesOf 8 (target ||| 2 ^ 16))
    some { s with pkg := s.pkg.logEvent home 0x09 (sourceOf loc) (s.pkg.addressOf loc) 0 }
  else some s

/-- The dword of an event that names a gang (R407). -/
def Gang.eventWord (g : Gang) : Nat := g.ctx.toNat * 2 ^ 32 + g.tag.toNat

/-- The slots of a gang freed, and the owner tags that name them dropped (R377, R388). -/
def State.freeSlots (s : State) (g : Gang) (slots : List Nat) : State :=
  let gone (t : Tag) : Bool := t.die == g.poolDie && t.secure == g.secure && slots.contains t.slot
  let drop (c : Core) : Core := { c with tags := c.tags.filter fun e => !gone e.2 }
  let dropPart (c : Cluster) : Cluster := { c with tags := c.tags.filter fun e => e.2 != g.tagOf || g.gslot.isNone }
  let p := s.pkg.onDie g.poolDie fun d =>
    d.setSlots g.secure ((d.slotsUsed g.secure).filter fun i => !slots.contains i)
      ((d.gslotsUsed g.secure).filter fun i => some i != g.gslot)
  { s with
    core := drop s.core
    rest := s.rest.map fun e => (drop e.1, e.2)
    pkg := { p with clusters := p.clusters.map fun e => (e.1, dropPart e.2) } }

/-- The partition of a gang given back to its cluster (R313 step 1, R385). -/
def State.freePart (s : State) (g : Gang) : State :=
  let c := s.pkg.cluster g.cluster
  { s with pkg := { s.pkg with
      clusters := tableSet s.pkg.clusters g.cluster { c with units := c.units.filter fun u => !g.units.contains u }
      arraySince := tableSet s.pkg.arraySince (1536 + g.cluster) s.pkg.time } }

/-- The core of a hart emptied; its scratchpad is idle from now on (R397). -/
def State.emptyCore (s : State) (core : Nat) : State :=
  s.onCore core fun s =>
    { s with h := Hart.reset 0, pkg := { s.pkg with arraySince := tableSet s.pkg.arraySince core s.pkg.time } }

/-! ### A die that is taken offline (R401 to R404) -/

/-- The die that resume entries move to: the lowest-numbered other die that places gangs (log 13). -/
def Pkg.otherDie (p : Pkg) (die : Nat) : Nat :=
  ((List.range 4).find? fun d => d != die && decide (bits (p.ctl (offDiestat d)) 0 2 < 2) &&
    !bit (p.ctl (offDiestat d)) 4).getD die

/-- The die to whose resume list a gang that has parked comes (R311, R401). -/
def Pkg.resumeDie (p : Pkg) (die : Nat) : Nat := if (p.die die).leaving.isSome then p.otherDie die else die

/-- The spill home die (R405): the lowest-numbered die that is NORMAL or DEGRADED and not `die`. -/
def Pkg.spillDie (p : Pkg) (die : Nat) : Option Nat :=
  (List.range 4).find? fun d => d != die && decide (bits (p.ctl (offDiestat d)) 0 2 < 2)

/-- A die that leaves is no spill home any more: the dies whose blocks it had have the new one (R405). -/
def Pkg.handSpills (p : Pkg) (die : Nat) : Pkg :=
  (List.range 4).foldl (fun p d => match (p.die d).spill with
    | some (h, base) =>
      if h = die then p.onDie d fun x =>
        { x with spill := some ((((x.handed.head?).map (·.2)).or (p.spillDie d)).getD h, base), handed := [] }
      else p
    | none => p) p

/-- A die whose gangs have parked and whose blocks have been moved goes offline, or back to its STATE with its cores
stopped (R401 step 5, R403, R404). -/
def State.settleEvac (s : State) (die : Nat) : State :=
  let p := s.pkg
  match (p.die die).leaving with
  | none => s
  | some (status, prior) =>
    let busy := p.gangs.any fun g => g.die == die && (g.phase == .resident || g.phase == .parking)
    if busy || p.evac.any (·.die == die) then s
    else
      let d := p.ctl (offDiestat die)
      let d := if status = 2 then setBits (setBits d 0 2 prior) 4 1 1 else setBits d 0 2 3
      let d := if status = 1 then setBits d 3 1 1 else d
      let p := (p.setCtl (offDiestat die) d).logEvent die 0x06 0xFFFF status 0
      let p := if status = 2 then p else p.handSpills die
      { s with pkg := p.onDie die fun d => { d with leaving := none } }

/-- What a gang whose harts have reached `clock` leaves to be done at its end. -/
def Gang.ending (g : Gang) (clock : List (Nat × Nat)) : GangEnd :=
  { die := g.die, queue := g.queue, cq := g.cq, ctx := g.ctx, tid := g.tid, secure := g.secure, tag := g.tag
    cont := g.cont, join := g.join, clock := clock }

/-- A fault of a step of a gang's end (R313). -/
def State.endFault (s : State) (e : GangEnd) (addr : Nat) : State :=
  let p := s.pkg.logEvent e.die 0x08 0xFFFF (e.ctx.toNat * 2 ^ 32 + e.tag.toNat) addr
  { s with pkg := p.qstatSet e.queue 5 }

/-- Where an access of a gang's end goes: nowhere, for a fault of its step (R313); to a location; or, in another package,
nowhere yet, because the route to it moves or no port of the die works (R184). -/
inductive EndPlace where
  | fault (loc : Option Nat)
  | at_ (loc : Nat)
  | later
deriving DecidableEq, Repr

/-- The place of an access of a gang's end, checked as one at user privilege; in another package, with the membership
bitmap of the port it leaves by (R313, R368); a poisoned table is a fault of its step that has been read (R396). -/
def State.endLoc (s : State) (e : GangEnd) (want : Want) (va : Nat) : EndPlace :=
  if s.walkHeld e.die ⟨e.ctx.toNat, e.tid.toNat, e.secure, .user⟩ va then .later
  else match s.walkFor e.die ⟨e.ctx.toNat, e.tid.toNat, e.secure, .user⟩ want va with
  | .error (.poison l) => .fault (some l)
  | .error _ => .fault none
  | .ok pa =>
    match s.pkg.place pa with
    | .dram loc _ => .at_ loc
    | .host loc => .at_ loc
    | .remote loc package =>
      match s.pkg.route e.die package with
      | none => .later
      | some port => if s.pkg.portAdmits port e.tid.toNat then .at_ loc else .fault none
    | _ => .fault none

/-- The one place of several accesses of a step: the first that is no location, else their locations. -/
def EndPlace.all : List EndPlace → Except EndPlace (List Nat)
  | [] => .ok []
  | .at_ l :: r => (EndPlace.all r).map (l :: ·)
  | p :: _ => .error p

/-- A fault of a step that read poison (R396, log 62). -/
def State.endPoison (s : State) (e : GangEnd) (addr loc : Nat) : State :=
  { s with pkg := s.pkg.ueEvent loc }.endFault e addr

/-- A step of a gang's end that cannot be performed, with whether it is over: a fault of it, which a poisoned table brings
with a UE event (R313, R396), or a wait. -/
def State.endStop (s : State) (e : GangEnd) (addr : Nat) (p : EndPlace) : Option (State × Bool) :=
  match p with
  | .fault (some l) => some (s.endPoison e addr l, true)
  | .fault none => some (s.endFault e addr, true)
  | _ => some (s, false)

/-- The CONT of a gang's end (R313), and whether it has been performed: it waits while a home holds its bytes. The 64 bytes
are read where they stand, whatever the alignment of their address (log 87). -/
def State.contStep (s : State) (e : GangEnd) : Option (State × Bool) :=
  match EndPlace.all ((List.range 8).map fun i => s.endLoc e .load (e.cont.toNat + 8 * i)) with
  | .error p => s.endStop e e.cont.toNat p
  | .ok locs =>
    match locs.find? fun l => s.pkg.held? l 8 with
    | some l => some ({ s with pkg := s.pkg.wake l }, false)
    | none =>
      let s := locs.foldl State.pulled s
      match locs.find? fun l => s.pkg.poisoned l 8 with
      | some l => some (s.endPoison e e.cont.toNat l, true)
      | none =>
        let r := BitVec.ofNat 512 (natOf (locs.flatMap fun l => s.getBytes l 8))
        (s.enqueueCont e.die s.pkg.number (16 * e.die + e.cq) r e.cont.toNat e.tid.toNat e.secure e.clock).map fun s =>
          (s, true)

/-- The JOIN message of a gang's end to another package, whose home performs it (R188, R314); nothing waits for its answer. -/
def GangEnd.joinMsg (e : GangEnd) (loc now : Nat) : Msg :=
  { owner := 0, hartid := 0, core := 384 * e.die, dst := dstOf loc, tid := e.tid, secure := e.secure, sent := now
    va := e.join, body := .join loc 0, clock := e.clock, race := false, rels := []
    spot := none, ack := none }

/-- The JOIN of a gang's end (R313, R314), and whether it has been performed, or sent to the package that has the block. -/
def State.joinStep (s : State) (e : GangEnd) : Option (State × Bool) :=
  if e.join.toNat % 128 ≠ 0 then s.endStop e e.join.toNat (.fault none)
  else
    match s.endLoc e .atomic e.join.toNat with
    | .at_ loc =>
      if atHost loc then s.endStop e e.join.toNat (.fault none)
      else if 4 ≤ dstOf loc then
        let m := Output.fabric (e.joinMsg loc s.pkg.time)
        some ({ s with pkg := { s.pkg with outputs := s.pkg.outputs ++ [m] } }, true)
      else if s.pkg.held? loc 128 then some ({ s with pkg := s.pkg.wake loc }, false)
      else
        let s := (s.pulled loc).pulled (loc + 64)
        match s.joinPoison loc with
        | some l => some (s.endPoison e e.join.toNat l, true)
        | none => (s.joinAt e.tid.toNat e.secure loc e.clock).map fun s => (s, true)
    | p => s.endStop e e.join.toNat p

/-- The steps of a gang's end beside the freeing, CONT and then JOIN, as far as they go now (R313). -/
def State.endSteps (s : State) (e : GangEnd) : Option (State × Option GangEnd) :=
  match if e.cont = 0 then some (s, true) else s.contStep e with
  | none => none
  | some (s, false) => some (s, some e)
  | some (s, true) =>
    match if e.join = 0 then some (s, true) else s.joinStep e with
    | none => none
    | some (s, done) => some (s, if done then none else some { e with cont := 0 })

/-- The steps that are left of the ends of gangs, tried again. -/
def State.retryEnds (s : State) : Option State :=
  s.pkg.ends.foldl (fun s e => s.bind fun s => (s.endSteps e).map fun r =>
    { r.1 with pkg := { r.1.pkg with ends := r.1.pkg.ends ++ r.2.toList } })
    (some { s with pkg := { s.pkg with ends := [] } })

/-- GANG_END once every hart of a gang has ended (R313, R392): cores, partition and slots freed, CONT and JOIN performed
unless the gang was killed, and a selection made. -/
def State.gangEnd (s : State) (g : Gang) : Option State :=
  let harts := (s.cores.filter fun e => e.2.present && e.2.gang == g.id) ++
    (g.saved.map fun h => (Core.reset 0, h))
  let clock := harts.foldl (fun c e => clockJoin c e.2.released.clock) []
  let cores := (s.cores.filter fun e => e.2.status != .absent && e.2.gang == g.id).map (·.1.id)
  let s := (cores.foldl State.emptyCore s).freeSlots g (harts.map fun e => e.2.slot)
  let s := if g.phase = .parked then s else s.freePart g
  let p := (List.range 4).foldl (fun p d => p.unreserve d g.id) s.pkg
  let s := { s with pkg := { p with gangs := p.gangs.filter (·.id != g.id) } }
  let s' :=
    if g.killed then some s
    else (s.endSteps (g.ending clock)).map fun r =>
      { r.1 with pkg := { r.1.pkg with ends := r.1.pkg.ends ++ r.2.toList } }
  s'.bind fun s => (s.settleEvac g.die).select g.die

/-! ### Subscriptions of an ending hart (R275) -/

/-- A subscriber of a publisher's entries that leaves: nothing more is forwarded to it. -/
def Hart.leaveSubscriber (hart entry : Nat) (h : Hart) : Hart :=
  { h with pubs := h.pubs.map fun e => e.map fun e =>
      { e with subs := e.subs.map fun b => if b.hart == hart && b.entry == entry then { b with leaving := true } else b } }

/-- A subscriber taken out of a publisher's entries; an entry left with none becomes free (R275). -/
def Hart.dropSubscriber (hart entry : Nat) (h : Hart) : Hart :=
  { h with pubs := h.pubs.map fun e => e.bind fun e =>
      let subs := e.subs.filter fun b => !(b.hart == hart && b.entry == entry)
      if subs.isEmpty then none else some { e with subs := subs } }

/-- A subscribe entry made invalid. -/
def Hart.dropSub (entry : Nat) (h : Hart) : Hart := { h with subs := h.subs.setIfInBounds entry none }

/-- A publish entry made free. -/
def Hart.dropPub (entry : Nat) (h : Hart) : Hart := { h with pubs := h.pubs.setIfInBounds entry none }

/-- Updates on their way to an entry of a subscriber. -/
def State.updatesTo (s : State) (hart entry : Nat) : Bool :=
  s.pkg.net.any fun m => match m.body with
    | .update h e _ _ => h == hart && e == entry
    | _ => false

/-- The removal of subscribe entry `e` of hart `id` requested: the publisher sends the open batch and forwards nothing
more to it (R275). -/
def State.unlinkSub (s : State) (id e : Nat) (y : SubEntry) : Option State :=
  (s.flushBatches y.publisher fun _ b => b.hart == id && b.entry == e).bind fun s =>
    s.onHart y.publisher (Hart.leaveSubscriber id e)

/-- The removal of subscribe entry `e` of hart `id` completed. -/
def State.clearSub (s : State) (id e : Nat) (y : SubEntry) : Option State :=
  (s.onHart y.publisher (Hart.dropSubscriber id e)).bind fun s => s.onHart id (Hart.dropSub e)

/-- Is an update of a publish entry still on its way? -/
def State.updatesOf (s : State) (y : PubEntry) : Bool := y.subs.any fun b => s.updatesTo b.hart b.entry

/-- The removal of publish entry `e` of hart `id` completed. -/
def State.clearPub (s : State) (id e : Nat) (y : PubEntry) : Option State :=
  (y.subs.foldl (fun s b => s.bind fun s => s.onHart b.hart (Hart.dropSub b.entry)) (some s)).bind fun s =>
    s.onHart id (Hart.dropPub e)

/-- The subscription entries of a hart that ends removed on both sides, as `unsub` removes them (R275), and whether they
all are: not while an update is on its way. -/
def State.endSubs (s : State) (id : Nat) : Option (State × Bool) :=
  match s.hart? id with
  | none => some (s, true)
  | some h =>
    let subs := (List.range 16).filterMap fun i => (h.subs.getD i none).map fun y => (i, y)
    let pubs := (List.range 16).filterMap fun i => (h.pubs.getD i none).map fun y => (i, y)
    let s := subs.foldl (fun s (e : Nat × SubEntry) => s.bind fun s => s.unlinkSub id e.1 e.2) (some s)
    (s.bind fun s => s.flushBatches id fun _ _ => true).bind fun s =>
      if subs.any (fun e => s.updatesTo id e.1) || pubs.any (fun e => s.updatesOf e.2) then some (s, false)
      else
        let s := subs.foldl (fun s (e : Nat × SubEntry) => s.bind fun s => s.clearSub id e.1 e.2) (some s)
        let s := pubs.foldl (fun s (e : Nat × PubEntry) => s.bind fun s => s.clearPub id e.1 e.2) s
        s.map fun s => (s, true)

/-- Is a subscription entry of a hart valid? -/
def Hart.subscribed (h : Hart) : Bool := h.subs.toList.any Option.isSome || h.pubs.toList.any Option.isSome

/-! ### The end of a gang (R313, R391) -/

/-- A hart that has ended, with nothing of it left to happen: its stores have left and performed, its copies have
ended, its subscriptions are removed (R338, R391). -/
def State.done (s : State) (h : Hart) : Bool :=
  h.status == .exited && h.sb.isEmpty && (s.mine h.ident).isEmpty && s.owed h.ident == 0 &&
  !s.pkg.copies.any (·.hart == h.ident) && !h.subscribed

/-- The subscriptions of harts that end, removed as far as they can be. -/
def State.endSubsOf (s : State) (ids : List Nat) : Option State :=
  ids.foldl (fun s id => s.bind fun s => (s.endSubs id).map (·.1)) (some s)

/-- A gang that is discarded while it is parked: it ends, with a GANG_KILLED event, once the chunks that had begun are
complete and its subscriptions removed (R270, R275, R391). -/
def State.settleDiscard (s : State) (id : Nat) : Option State :=
  match s.gang? id with
  | none => some s
  | some g =>
    (s.endSubsOf (g.saved.map Hart.ident)).bind fun s =>
      match s.gang? id with
      | none => some s
      | some g =>
        if g.saved.any fun h => h.subscribed || s.pkg.copies.any (·.hart == h.ident) then some s
        else { s with pkg := s.pkg.logEvent g.die 0x0F 0xFFFF g.eventWord 0 }.gangEnd g

/-- The end of a gang whose harts have all ended, or that is discarded; else nothing (R313, R391). -/
def State.settleGang (s : State) (id : Nat) : Option State :=
  match s.gang? id with
  | none => some s
  | some g =>
    if g.discard then (if g.phase == .parking then some s else s.settleDiscard id)
    else
      let here := s.cores.filter fun e => e.2.present && e.2.gang == id
      if g.phase == .resuming || (g.saved.any fun h => h.status != .exited) || (here.any fun e => e.2.status != .exited) then
        some s
      else
        (s.endSubsOf ((here.map fun e => e.2.ident) ++ g.saved.map Hart.ident)).bind fun s =>
          match s.gang? id with
          | none => some s
          | some g =>
            let live := s.cores.any fun e => e.2.present && e.2.gang == id && !s.done e.2
            if live || g.saved.any (fun h => h.subscribed) then some s else s.gangEnd g

/-! ### The gang barrier's count (R325, R327) -/

/-- Has a hart of the gang ended, or taken its kill stop: it counts as arrived toward every later phase (R326, R391)? -/
def State.gone (s : State) (g : Gang) (gidx : Nat) : Bool :=
  match s.hart? (g.id * 8 + gidx) with
  | none => true
  | some h => h.status == .exited || h.dying

/-- The gang barrier's phases completed as far as the arrivals allow. -/
def State.settleBarrierFrom (s : State) (id : Nat) : Nat → State
  | 0 => s
  | n + 1 =>
    match s.gang? id with
    | none => s
    | some g =>
      let here := g.arrived.filter fun a => a.1 == g.phases
      let all := (List.range g.gsize).all fun i =>
        here.any (fun a => a.2 % 8 == i) || s.gone g i
      if all && !here.isEmpty then
        (s.onGang id fun g => { g with
          phases := g.phases + 1
          arrived := g.arrived.filter fun a => a.1 != g.phases
          doneAt := tableSet (g.doneAt.filter fun e => decide (g.phases ≤ e.1 + 4)) g.phases s.pkg.time }
          ).settleBarrierFrom id n
      else s

/-- The gang barrier's phases completed as far as the arrivals allow; four at most are open. -/
def State.settleBarrier (s : State) (id : Nat) : State := s.settleBarrierFrom id 4

/-! ### Killing a gang (R391, R392) -/

/-- The copies of a hart stopped at the next chunk boundary (R270). -/
def Pkg.stopCopies (p : Pkg) (hart : Nat) : Pkg :=
  { p with copies := p.copies.map fun c => if c.hart = hart then { c with stopped := true } else c }

/-- A hart that ends at once, as a dying one that has completed gexit (R391, R392). -/
def Hart.ended (h : Hart) : Hart :=
  { h with
    vdq := [], head := none, status := .exited, dying := true, kill := none, launchAt := none, launchCode := none
    waitAt := none, waitTags := [], waitTrap := none, waitFlags := 0 }

/-- A hart ended at once, its copies stopped at a chunk boundary (R270, R391). -/
def State.endHartNow (s : State) (id : Nat) : Option State := { s with pkg := s.pkg.stopCopies id }.onHart id Hart.ended

/-- What a kill does to a resident hart at once (R391): GANG_KILLED is owed to it, which it takes, and stops for, at its
next user boundary (R380, R416); one that has executed `halt`, or with no entry (R378), ends. -/
def State.killHart (s : State) (id : Nat) (entry : Option Dword) : Option State :=
  match s.hart? id with
  | none => some s
  | some h =>
    if h.status == .exited then some s
    else
      match entry, h.status == .halted with
      | some v, false => s.onHart id fun h => { h with kill := some v }
      | _, _ => if h.dying then some s else s.endHartNow id

/-- A parked gang discarded (R391). -/
def State.discardGang (s : State) (g : Gang) : Option State :=
  let here := (s.cores.filter fun e => e.2.present && e.2.gang == g.id).map (·.2)
  let s := { s with pkg := (g.saved ++ here).foldl (fun p (h : Hart) => p.stopCopies h.ident) s.pkg }
  (s.onGang g.id fun g => { g with killed := true, discard := true }).settleGang g.id

/-- A gang ended as `gkill` ends it; `entry` is the EVAL of its harts' GANG_KILLED, none for no entry (R391, R378). A
gang that parks is treated as parked. -/
def State.killGang (s : State) (id : Nat) (entry : Option Dword) : Option State :=
  match s.gang? id with
  | none => some s
  | some g =>
    match g.phase with
    | .resident =>
      if g.killed && entry.isSome then some s
      else
        let ids := (s.cores.filter fun e => e.2.present && e.2.gang == id).map (·.2.ident)
        let s := s.onGang id fun g => { g with killed := true }
        let s := ids.foldl (fun (s : Option State) i => s.bind fun s => s.killHart i entry) (some s)
        s.bind fun s => (s.settleBarrier id).settleGang id
    | _ => s.discardGang g

end Sys2Proof.Machine
end

