-- ==== Sys2Proof/Machine/Ops.lean ====
section
/-! DEFINITION. The named operations that meanings share: registers (R28), the program counter and INSTRET (R51), trap
entry (R378) and return (R379), privilege (R374), how a meaning becomes a step, and the waits of the instructions that
run after the VDQ and the buffers (R219, R268). -/

namespace Sys2Proof.Machine

/-! ### Registers (R28) -/

/-- X[r]; x0 reads zero. -/
def Hart.getX (h : Hart) (r : BitVec 5) : Dword := if r = 0 then 0 else h.x.getD r.toNat 0

/-- X[r] written; a write to x0 is discarded. -/
def Hart.setX (h : Hart) (r : BitVec 5) (v : Dword) : Hart :=
  if r = 0 then h else { h with x := h.x.setIfInBounds r.toNat v }

/-- X[r] of the hart of the state. -/
def State.x (s : State) (r : BitVec 5) : Dword := s.h.getX r

/-- X[r] of the hart of the state written. -/
def State.setX (s : State) (r : BitVec 5) (v : Dword) : State := { s with h := s.h.setX r v }

/-- M[r]; m0 reads all ones. -/
def State.mreg (s : State) (r : Nat) : Mask := if r = 0 then BitVec.allOnes 256 else s.h.m.getD r 0

/-- M[r] written; a write to m0 is discarded. -/
def State.setM (s : State) (r : Nat) (v : Mask) : State :=
  if r = 0 then s else { s with h := { s.h with m := s.h.m.setIfInBounds r v } }

/-- V[r]. -/
def State.vreg (s : State) (r : Nat) : Vec := s.h.v.getD r 0

/-- V[r] written. -/
def State.setV (s : State) (r : Nat) (v : Vec) : State := { s with h := { s.h with v := s.h.v.setIfInBounds r v } }

/-- An instruction of one word retired: PC and INSTRET advance (R40). -/
def State.retire (s : State) : State := { s with h := { s.h with pc := s.h.pc + 4, instret := s.h.instret + 1 } }

/-- An instruction retired with the next PC given. -/
def State.jumpTo (s : State) (pc : Dword) : State := { s with h := { s.h with pc := pc, instret := s.h.instret + 1 } }

/-! ### Trap entry (R378) -/

/-- The trap block register `r` of the die and world in which the hart of the state runs. -/
def State.trapReg (s : State) (r : Nat) : Dword := s.pkg.ctl (offTrap (dieOfCore s.core.id) s.core.secure r)

/-- The 36 dwords of a trap frame: x1 to x31, then EPC, ECAUSE, EVAL, ESLICE, ESTAT. -/
def Hart.frame (h : Hart) : List Dword := h.x.toList.drop 1 ++ [h.epc, h.ecause, h.eval, h.eslice, h.estat]

/-- The physical address of the frame that an entry to machine or supervisor privilege writes. -/
def State.frameAt (s : State) (machine : Bool) : Nat := s.csaOf s.h + (if machine then 0x3C0 else 0x240)

/-- X[1] at a trap entry: the virtual address of the save area in the pool of its die (R378). -/
def State.csaVa (s : State) : Dword := s.areaVa s.h

/-- ESTAT after an entry (R47, R378). -/
def estatOf (pp : Nat) (t : Trap) (slv : Bool) : Dword :=
  BitVec.ofNat 64 (pp + bitOf t.imp * 4 + bitOf slv * 8 + bitOf t.evv * 16)

/-- The hart as a trap entry leaves its registers (R378): `slice` is the row of a slice-precise trap or of a pending
restart (R164). -/
def Hart.enter (h : Hart) (t : Trap) (slice : Option Nat) (x1 pc : Dword) : Hart :=
  { h with
    x := h.x.setIfInBounds 1 x1
    epc := setBits (t.epc.getD h.pc) 0 2 0
    ecause := BitVec.ofNat 64 t.cause
    eval := t.value
    eslice := match slice with
      | some row => BitVec.ofNat 64 row
      | none => h.eslice
    estat := estatOf h.priv.code t slice.isSome
    priv := if h.priv = .user then .supervisor else .machine
    pc := setBits pc 0 2 0
    restart := none
    atWait := false }

/-- A double trap (R378): a DOUBLE_TRAP event, and the hart's gang ended as gkill ends it, with no entries: none for a hart
that has not entered its own yet. -/
def doubleTrap (t : Trap) (s : State) : Out :=
  let epc := t.epc.getD s.h.pc
  let p := s.pkg.logEvent (dieOfCore s.core.id) 0x0E s.core.id (t.cause * 2 ^ 56 + bits epc 0 56) t.value.toNat
  match ({ s with pkg := p }.endHartNow s.h.ident).bind fun s => s.killGang s.h.gang none with
  | some s => .next s
  | none => .fault .csaUnreachable

/-- The x register that a destination is. -/
def Dest.xReg : Dest → Option Nat
  | .x d => some d
  | .sx d _ => some d
  | .xpart d _ _ _ _ => some d
  | .v _ _ _ _ _ => none
  | .tile _ _ => none

/-- No outstanding load or atomic has an x register as its destination (R217, R228). -/
def Hart.xSettled (h : Hart) : Bool := h.pend.all fun p => p.2.xReg.isNone

/-- An entry writes X[1..31] to its frame, so it waits until no load or atomic owes one of them (R217, R228, R378). -/
def State.entryWaits (s : State) : Bool := s.h.priv != .machine && !s.h.xSettled

/-- TRAP_ENTRY (R378). -/
def takeTrap (t : Trap) (s : State) : Out :=
  if s.h.priv = .machine then doubleTrap t s
  else if s.entryWaits then .next s
  else
    let machine := s.h.priv != .user
    match s.putDwords (s.frameAt machine) s.h.frame with
    | none => .fault .csaUnreachable
    | some s' =>
      let slice := t.slice.or s.h.restart
      .next { s' with h := s.h.enter t slice s.csaVa (s.trapReg (if machine then 1 else 0)) }

/-! ### How a meaning becomes a step -/

/-- The step of a meaning that retires one word when it ends with a value. -/
def finish (m : M Unit) (s : State) : Out :=
  match m s with
  | .ok (_, s') => .next s'.retire
  | .error (.trap t s') => if s'.entryWaits then .next s else takeTrap t s'
  | .error .wait => .next s
  | .error (.again s') => .next s'
  | .error (.queued s') => .next s'.retire
  | .error (.stop f) => .fault f

/-- The step of a meaning that sets the PC itself, or of an event. -/
def finishAt (m : M Unit) (s : State) : Out :=
  match m s with
  | .ok (_, s') => .next s'
  | .error (.trap t s') => if s'.entryWaits then .next s else takeTrap t s'
  | .error .wait => .next s
  | .error (.again s') => .next s'
  | .error (.queued s') => .next s'.retire
  | .error (.stop f) => .fault f

/-- The cores of a die stand still: a relock, a debug halt, a tripped package (R25, R253, R256). -/
def Pkg.stopped (p : Pkg) (die : Nat) : Bool := (p.die die).relockEnd.isSome || (p.die die).halted || p.tripped

/-- Does the hart's core owe it a turn at the edge of now? What an instruction writes at that edge it writes before what
the hardware updates in the same cycle (R33, R144). -/
def State.turnDue (s : State) (id : Nat) : Bool :=
  s.cores.any fun e =>
    let d := s.pkg.die (dieOfCore e.1.id)
    e.2.ident == id && e.2.status == .running && !s.pkg.stopped (dieOfCore e.1.id) &&
    decide (e.1.turnAt < d.edgeAt) && d.edgeAt == s.pkg.time

/-- An event of a core that holds a hart; it does not come while the core stands still, nor while the hart's save area waits
(R173, R398). -/
def State.atCore (s : State) (core : Nat) (m : M Unit) : Out :=
  if 1536 ≤ core ∨ s.pkg.stopped (dieOfCore core) ∨ ¬(s.coreAt core).2.present ∨ s.areaWaits (s.coreAt core).2 then .next s
  else
    match finishAt m (s.focus core) with
    | .next t => .next (t.focus s.core.id)
    | o => o

/-- The trap ILLEGAL_INSN of an instruction word (R71). -/
def illegal {α : Type} (word : Nat) : M α := trapOf causeIllegal (BitVec.ofNat 64 word)

/-- PRIV at decode for an instruction below its minimum privilege (R374). -/
def needPriv (min : Priv) (word : Nat) : M Unit := do
  let s ← get
  trapIf (decide (s.h.priv.code < min.code)) causePriv (BitVec.ofNat 64 word)

/-- Every VDQ entry ahead has left the queue (R268, R34). -/
def awaitVdq : M Unit := do await ((← get).h.vdq.isEmpty)

/-- No destination of an outstanding load or atomic stands in the way of reading or writing x register `r` (R217,
R228). -/
def State.xFree (s : State) (r : BitVec 5) : Bool := s.h.pend.all fun p => p.2.xReg != some r.toNat

/-- No outstanding load or atomic has a vector destination (R229). -/
def State.vFree (s : State) : Bool := s.h.pend.all fun p => p.2.xReg.isSome

/-- A state change as a step of `M`. -/
def change (f : State → State) : M Unit := modify f

/-- X[d] written. -/
def writeX (d : BitVec 5) (v : Dword) : M Unit := modify fun s => s.setX d v

/-- Every earlier access has been acknowledged, batches included, and the buffer is empty (R325, R203): the open
batches are sent first. -/
def awaitAcknowledged : M Unit := do
  let s ← get
  await s.h.sb.isEmpty
  if s.h.openBatches then
    orStop fun s => s.flushBatches s.h.ident fun _ _ => true
    again
  else awaitPerformed

/-- Are the accumulators of the core of the state those of a context (R38)? -/
def State.accMine (s : State) (ctx : Nat) : Bool :=
  bit s.core.accen 0 && bit s.core.accown 16 && bits s.core.accown 0 16 == ctx

/-- The hart of the state's accumulators are its own (R38); else ACC_UNAVAILABLE. -/
def needAcc : M Unit := do
  let s ← get
  trapIf (!s.accMine (bits s.h.ctxid 0 16)) causeAcc (BitVec.ofNat 64 (bits s.core.accown 0 17))

/-! ### Misses (R43, R251) -/

/-- Does the handler of a DEADLINE run? -/
def Hart.inDeadline (h : Hart) : Bool := h.priv != .user && h.ecause.toNat == causeDeadline

/-- A hart after the report of a miss; `quiet` where a DEBUG miss raises no DEADLINE (R254). A report that comes while one
is pending makes one further pending; one that comes while the handler runs is that further one (R251). -/
def Hart.missed (va : Dword) (cls late : Nat) (quiet : Bool) (h : Hart) : Hart :=
  let t := setBits h.tlate 0 32 (min (2 ^ 32 - 1) (bits h.tlate 0 32 + 1))
  let t := setBits (setBits t 32 4 cls) 40 24 (if cls = 2 then 0 else min (2 ^ 24 - 1) late)
  if bit t 36 && !(cls == 3 && quiet) then
    { h with tlate := t, deadline := some va, further := h.further || (h.deadline.isSome && !h.inDeadline) }
  else { h with tlate := t }

/-- A miss reported to hart `id`, whose die is `die` (R251, R254). The record of a DEBUG miss has SRC 0xFFFF and stands in
the black box of that die (log 63). -/
def State.reportMiss (s : State) (id die : Nat) (va : Dword) (cls late : Nat) : Option State :=
  let quiet := bit (s.pkg.ctl offTimectl) 1
  let s := if cls = 3 ∧ quiet then { s with pkg := s.pkg.logEvent die 0x12 0xFFFF va.toNat cls } else s
  s.onHart id (Hart.missed va cls late quiet)

/-- Was a debug halt in effect on a die at any instant from `lo` to `hi` (real time)? -/
def Die.haltedIn (d : Die) (lo hi : Nat) : Bool :=
  (d.halted && decide (d.haltSince ≤ hi)) || d.halts.any fun h => decide (h.1 ≤ hi) && decide (lo ≤ h.2)

/-! ### Leaving a handler, and the end of a hart -/

/-- The waits of gexit (R338): stores, accesses, ordered reductions, copies, subscriptions. -/
def awaitEnd : M Unit := do
  let s ← get
  awaitBuffer
  if s.h.subscribed then
    orStop fun s => (s.endSubs s.h.ident).map (·.1)
    again
  else
    await ((s.mine s.h.ident).isEmpty && s.owed s.h.ident == 0 && s.h.vdq.isEmpty &&
      !s.pkg.copies.any (·.hart == s.h.ident))

/-- The hart of the state ends, and with it its gang when it is the last (R313, R338). -/
def endHart : M Unit := do
  awaitEnd
  modify fun s => { s with h := { s.h with status := .exited, instret := s.h.instret + 1 } }
  orStop fun s => (s.settleBarrier s.h.gang).settleGang s.h.gang

/-- ESTAT as a frame or a write gives it: reserved bits 0, PPRIV kept at the reserved code 3 (R47). -/
def estatWrite (old v : Dword) : Dword :=
  BitVec.ofNat 64 ((if bits v 0 2 = 3 then bits old 0 2 else bits v 0 2) + bits v 2 3 * 4)

/-- The hart as `eret` restores it from the dwords of a frame (R379). -/
def Hart.leave (h : Hart) (ds : List Dword) : Hart :=
  let slv := bit h.estat 3
  let row := bits h.eslice 0 5
  let estat := estatWrite h.estat (ds.getD 35 0)
  { h with
    x := Vector.ofFn fun i : Fin 32 => if i.val = 0 then 0 else ds.getD (i.val - 1) 0
    epc := setBits (ds.getD 31 0) 0 2 0
    ecause := BitVec.ofNat 64 (bits (ds.getD 32 0) 0 8)
    eval := ds.getD 33 0
    eslice := if slv then BitVec.ofNat 64 row else BitVec.ofNat 64 (bits (ds.getD 34 0) 0 5)
    estat := if slv then setBits estat 3 1 1 else estat
    priv := Priv.ofCode (bits h.estat 0 2)
    pc := setBits h.epc 0 2 0
    instret := h.instret + 1
    restart := if slv then some row else none }

/-- A frame that is read poisoned is not taken: UNCORRECTABLE, with the address of the first dword that is (R396, log 83). -/
def framePoison : M Unit := do
  let s ← get
  let off := if s.h.priv = .machine then 0x3C0 else 0x240
  let bad (i : Nat) : Option (Nat × Nat) := (s.pkg.ownDram (s.csaOf s.h + off + 8 * i)).bind fun l =>
    if s.pkg.poisoned l 8 then some (i, l) else none
  match if s.pkg.poison.isEmpty then none else (List.range 36).findSome? bad with
  | some (i, l) =>
    set { s with pkg := s.pkg.ueEvent l }
    trapOf causeUncorrectable (s.csaVa + BitVec.ofNat 64 (off + 8 * i))
  | none => pure ()

/-- ERET (R379), its privilege checked first; before a slice restart the handler's own vector work is done. -/
def eretBody : M Unit := do
  needPriv .supervisor 0xE0000007
  let s ← get
  trapIf (decide (s.h.priv.code < bits s.h.estat 0 2)) causePriv 0xE0000007
  await s.h.xSettled
  awaitApplied
  await (!bit s.h.estat 3 || s.h.vdq.isEmpty)
  if s.h.dying then endHart
  else
    framePoison
    match s.physDwords (s.frameAt (s.h.priv = .machine)) 36 with
    | none => fun _ => .error (.stop .csaUnreachable)
    | some ds => modify fun s => { s with h := s.h.leave ds }

end Sys2Proof.Machine
end

