-- ==== Sys2Proof/Machine/Flags.lean ====
section
/-! DEFINITION. FCSR (R35): the rounding mode and saturation that an instruction reads, SetFlag (R105), enabled flags
(R113), NDET and DET (R106). -/

namespace Sys2Proof.Machine

/-- FCSR.RM. -/
def State.rm (s : State) : Nat := bits s.h.fcsr 0 3

/-- FCSR.SAT. -/
def State.sat (s : State) : Bool := bit s.h.fcsr 3

/-- FCSR.FTE, in the order of the flags. -/
def State.fte (s : State) : Flags := BitVec.ofNat 5 (bits s.h.fcsr 10 5)

/-- FCSR.MXTE, in the order of the flags. -/
def State.mxte (s : State) : Flags := BitVec.ofNat 5 (bits s.h.fcsr 15 5)

/-- FCSR with flags set (SetFlag). -/
def fcsrFlags (fcsr : Dword) (fl : Flags) : Dword := fcsr ||| (fl.zeroExtend 64 <<< 4)

/-- SetFlag for the flags NV to NX (R105). -/
def State.setFlags (s : State) (fl : Flags) : State := { s with h := { s.h with fcsr := fcsrFlags s.h.fcsr fl } }

/-- The code of the lowest flag of a set (R35). -/
def lowestFlag (fl : Flags) : Nat := ((List.range 5).find? fun i => fl.getLsbD i).getD 0

/-- FP_ENABLED for the lowest of these enabled flags. -/
def fpEnabled {α : Type} (fl : Flags) : M α := trapOf causeFp (BitVec.ofNat 64 (lowestFlag fl))

/-- The flags of one operation set together, then the trap of an enabled one (R113). -/
def raiseFlags (fl : Flags) : M Unit := do
  modify fun s => s.setFlags fl
  let en := fl &&& (← get).fte
  if en = 0 then pure () else fpEnabled en

/-- FP_ENABLED with EVAL 5 before any effect while DET = 1 (R106). -/
def detCheck : M Unit := do trapIf (bit (← get).h.fcsr 20) causeFp 5

/-- NDET set (R106). -/
def setNdet : M Unit := modify fun s => { s with h := { s.h with fcsr := setBits s.h.fcsr 9 1 1 } }

/-- The end of an instruction whose effects stand whatever flags it raised: it retires, the flags are set, and an
enabled one traps at the next instruction (R230, R233). -/
def retireWithFlags (fl : Flags) : M Unit := do
  modify fun s => (s.setFlags fl).retire
  let s ← get
  let en := fl &&& s.fte
  if en = 0 then pure () else raise { cause := causeFp, value := BitVec.ofNat 64 (lowestFlag en), epc := some s.h.pc }

end Sys2Proof.Machine
end

