-- ==== Sys2Proof/Machine/Operands.lean ====
section
/-! DEFINITION. Operand forms: the width forms of scalar values (R108, R112), vector register groups (R69, R70),
elements (R121), and which elements are active (R122). -/

namespace Sys2Proof.Machine

/-! ### Scalar operands -/

/-- The signed reading of the low `n` bits of a register (R9). -/
def sread (v : Dword) (n : Nat) : Int := signExtend v.toNat n

/-- The natural reading of the low `n` bits of a register (R9). -/
def nread (v : Dword) (n : Nat) : Nat := v.toNat % 2 ^ n

/-- An integer written to a register modulo 2^64. -/
def dwordOf (i : Int) : Dword := BitVec.ofInt 64 i

/-- The result of a word form: the low 32 bits, sign-extended (R108). -/
def wordResult (i : Int) : Dword := dwordOf (signExtend (wrap i 32) 32)

/-- The format of the scalar type codes of OP 0x0B and 0x0C: 0 f32, 1 f64. -/
def scalarFmt (t : Nat) : Fmt := if t = 0 then .f32 else .f64

/-- FpRead (R112): the encoding of a register read in a format. -/
def fpRead (v : Dword) (f : Fmt) : Nat := v.toNat % 2 ^ f.width

/-! ### Vector operands -/

/-- The floating format of a type code e4m3, bf16, f16, f32 (R56). -/
def fmtOf (et : Nat) : Fmt :=
  match et with
  | 4 => .e4m3
  | 5 => .bf16
  | 6 => .f16
  | _ => .f32

/-- The width of a type code as a number (R56). -/
def widthOf (et : BitVec 3) : Nat := typeWidth et

/-- Is a type code floating? -/
def isFloat (et : BitVec 3) : Bool := decide (4 ≤ et.toNat)

/-- VL as a number. -/
def State.vlen (s : State) : Nat := bits s.h.vl 0 9

/-- VSTART as a number. -/
def State.vstartN (s : State) : Nat := bits s.h.vstart 0 8

/-- G of an operand of width `w` (R69); none where VL x w exceeds 8,192. -/
def groupSize (vl w : Nat) : Option Nat :=
  let n := vl * w
  if 8192 < n then none
  else if n ≤ 1024 then some 1
  else if n ≤ 2048 then some 2
  else if n ≤ 4096 then some 4
  else some 8

/-- An operand's register with its group size; none where R69 forbids it. -/
def groupAt (vl : Nat) (o : BitVec 5 × Nat) : Option (Nat × Nat) :=
  match groupSize vl o.2 with
  | none => none
  | some g => if o.1.toNat % g = 0 then some (o.1.toNat, g) else none

/-- Two groups overlap partly (R70). -/
def partly (a b : Nat × Nat) : Bool :=
  decide (a.1 < b.1 + b.2) && decide (b.1 < a.1 + a.2) && !(a == b)

/-- Are the operands, each a register with its width, such that R69 and R70 hold, `dst` the destination? -/
def groupsOk (vl : Nat) (dst : Option (BitVec 5 × Nat)) (src : List (BitVec 5 × Nat)) : Bool :=
  match src.mapM (groupAt vl) with
  | none => false
  | some gs =>
    match dst with
    | none => true
    | some d =>
      match groupAt vl d with
      | none => false
      | some g => gs.all fun k => !partly g k

/-- A one-register destination beside groups (R137). -/
def oneOk (vl : Nat) (d : BitVec 5) (src : List (BitVec 5 × Nat)) : Bool :=
  match src.mapM (groupAt vl) with
  | none => false
  | some gs => gs.all fun k => !partly (d.toNat, 1) k

/-- ILLEGAL_INSN of a group that breaks R69 or R70. -/
def needGroups (word : Nat) (ok : Nat → Bool) : M Unit := do
  trapIf (!ok (← get).vlen) causeIllegal (BitVec.ofNat 64 word)

/-- Element `e` of width `w` of the group that begins at register `r` (R121). -/
def State.elem (s : State) (r w e : Nat) : Nat :=
  let lo := w * e
  ((s.vreg (r + lo / 1024)).toNat + (s.vreg (r + lo / 1024 + 1)).toNat * 2 ^ 1024) / 2 ^ (lo % 1024) % 2 ^ w

/-- A number with the `w` bits from `lo` replaced. -/
def putField (old lo w v : Nat) : Nat := old % 2 ^ lo + v % 2 ^ w * 2 ^ lo + old / 2 ^ (lo + w) * 2 ^ (lo + w)

/-- Element `e` of width `w` of the group at register `r` written: only its own bits change (R121). -/
def State.putElem (s : State) (r w e v : Nat) : State :=
  let lo := w * e
  let k := r + lo / 1024
  if lo % 1024 + w ≤ 1024 then s.setV k (BitVec.ofNat 1024 (putField (s.vreg k).toNat (lo % 1024) w v))
  else
    let both := putField ((s.vreg k).toNat + (s.vreg (k + 1)).toNat * 2 ^ 1024) (lo % 1024) w v
    (s.setV k (BitVec.ofNat 1024 both)).setV (k + 1) (BitVec.ofNat 1024 (both / 2 ^ 1024))

/-- Elements written one after the other, as (element, value). -/
def State.putElems (s : State) (r w : Nat) (vs : List (Nat × Nat)) : State :=
  vs.foldl (fun s v => s.putElem r w v.1 v.2) s

/-- A mask register with single bits written, as (bit, value). -/
def State.putMaskBits (s : State) (r : Nat) (bs : List (Nat × Bool)) : State :=
  s.setM r (BitVec.ofNat 256 (bs.foldl (fun m b => putField m b.1 1 (bitOf b.2)) (s.mreg r).toNat))

/-- The active elements from `from_` on: those below VL that the predicate selects (R122). -/
def State.activeFrom (s : State) (from_ : Nat) (p : BitVec 3) : List Nat :=
  (List.range s.vlen).filter fun e => decide (from_ ≤ e) && (s.mreg p.toNat).getLsbD e

/-- The active elements (R122). -/
def State.active (s : State) (p : BitVec 3) : List Nat := s.activeFrom s.vstartN p

/-- VSTART cleared, as every vector instruction that completes leaves it (R36, R122). -/
def State.clearVstart (s : State) : State := { s with h := { s.h with vstart := 0 } }

/-! ### The VDQ (R14, R125) -/

/-- Does the scalar pipeline issue nothing past this instruction in the VDQ: vector memory instructions (R222), vector
instructions while FTE has a bit set (R124) or a draw may trap (R106), and matrix instructions while MXTE has one
(R163)? -/
def State.holdsIssue (s : State) (word : Nat) : Bool :=
  let op := word / 2 ^ 26
  (decide (0x14 ≤ op) && decide (op ≤ 0x17)) ||
  (decide (0x20 ≤ op) && decide (op ≤ 0x25) && (s.fte != 0 || bit s.h.fcsr 20)) ||
  (decide (0x28 ≤ op) && decide (op ≤ 0x2B) && s.mxte != 0)

/-- An instruction as its VDQ entry captures it (R34, R107). -/
def State.captured (s : State) (word : Nat) : VdqInsn :=
  let h := s.h
  { word := word, pc := h.pc, x := h.x, vl := h.vl, mvl := h.mvl, mvc := h.mvc, instret := h.instret, priv := h.priv
    ctxid := h.ctxid, tid := h.tid, secure := s.who.secure, issued := s.pkg.time, holds := s.holdsIssue word, done := 0
    rows := [], late := none, resumed := false }

/-- An instruction passes into the VDQ behind other entries, when there is room; nothing issues past one that is `held`. -/
def enterVdq (word : Nat) (held : Bool) : M Unit := do
  await (decide ((← get).h.vdq.length < 32))
  fun s =>
    let q := s.captured word
    .error (.queued { s with h := { s.h with vdq := s.h.vdq ++ [.insn { q with holds := q.holds || held }] } })

/-- An instruction that traps in the VDQ has been counted as it entered (R40). -/
def entered (m : M Unit) : M Unit := fun s =>
  match m s with
  | .error (.trap t u) =>
    .error (.trap t (if u.h.instret = s.h.instret then { u with h := { u.h with instret := u.h.instret + 1 } } else u))
  | r => r

/-- A vector, mask or matrix instruction: its groups stand; with the VDQ empty, it enters and takes effect; behind other
entries or an outstanding vector load it enters, and takes effect in its turn (R14, R125). -/
def vecRun (word : Nat) (ok : Nat → Bool) (body : M Unit) : M Unit := do
  needGroups word ok
  let s ← get
  if s.h.head.isSome then do
    await s.vFree
    body
  else if s.h.vdq.isEmpty && s.vFree then entered body
  else enterVdq word false

/-- The instruction at the head of the queue has come further, and is not done. -/
def further (done : Nat) (rows : List Vec) : M Unit := do
  modify fun s => { s with h := { s.h with head := s.h.head.map fun e => { e with done := done, rows := rows } } }
  again

/-- A scalar read of vector-side state, which waits until every VDQ entry ahead has completed (R125). -/
def vecIssue (word : Nat) (ok : Nat → Bool) : M Unit := do
  needGroups word ok
  awaitVdq
  await ((← get).vFree)

end Sys2Proof.Machine
end

