-- ==== Sys2Proof/Machine/CopyOps.lean ====
section
/-! DEFINITION. The copy engine: endpoints and handles (R260, R364, R365), chunks (R263), acceptance (R264, R294),
where the bytes of an endpoint lie, chunks performed and counted (R267, R269, R273), pending granules (R296) and
frames (R282, R294, R295). -/

namespace Sys2Proof.Machine

/-! ### Fields of a copy (R261, R262) -/

def CopyReq.bytes (r : CopyReq) : Nat := bits r.s0 0 32
def CopyReq.sid (r : CopyReq) : Nat := bits r.s0 52 4
def CopyReq.vidx (r : CopyReq) : Nat := bits r.s0 56 5
/-- A cpyx form. -/
def CopyReq.indexed (r : CopyReq) : Bool := r.form == 2 || r.form == 3 || r.form == 6
/-- A cpy2 form. -/
def CopyReq.twoD (r : CopyReq) : Bool := r.form == 1 || r.form == 5
/-- The rows of a cpy2, the elements of a cpyx; 1 for a cpy. -/
def CopyReq.rows (r : CopyReq) : Nat := if r.indexed || r.twoD then bits r.s0 32 16 else 1
/-- The mask register of a `.m` form; 0 for none. -/
def CopyReq.mreg (r : CopyReq) : Nat := if 4 ≤ r.form then bits r.s0 48 4 else 0
/-- The row stride of the source. -/
def CopyReq.sstride (r : CopyReq) : Nat := if r.twoD then bits r.s1 0 32 else 0
/-- The row stride of the destination. -/
def CopyReq.dstride (r : CopyReq) : Nat := if r.twoD then bits r.s1 32 32 else 0
/-- OFF of the destination. -/
def CopyReq.d (r : CopyReq) : Nat := bits r.dst 0 48
/-- OFF of the source. -/
def CopyReq.s (r : CopyReq) : Nat := bits r.src 0 48

/-- The number of chunks (R261, R263). -/
def CopyReq.chunks (r : CopyReq) : Nat :=
  if r.bytes = 0 ∨ r.rows = 0 then 0
  else if r.twoD then r.rows
  else if r.indexed then (r.rows - 1) * r.bytes / 4096 + 1
  else (r.bytes + 4095) / 4096

/-- A run of bytes of a chunk: destination and source offsets, length, and its place in the copy's bytes in order. -/
structure Seg where
  dst : Nat
  src : Nat
  len : Nat
  lin : Nat
deriving DecidableEq, Repr

/-- The run of element `e` of a cpyx. -/
def CopyReq.elemSeg (r : CopyReq) (e : Nat) : Seg :=
  let i := r.index.getD e 0
  if r.form = 3 then ⟨r.d + i, r.s + e * r.bytes, r.bytes, e * r.bytes⟩
  else ⟨r.d + e * r.bytes, r.s + i, r.bytes, e * r.bytes⟩

/-- The runs of chunk `k` (R263). -/
def CopyReq.segs (r : CopyReq) (k : Nat) : List Seg :=
  if r.twoD then [⟨r.d + k * r.dstride, r.s + k * r.sstride, r.bytes, k * r.bytes⟩]
  else if r.indexed then ((List.range r.rows).filter fun e => e * r.bytes / 4096 == k).map r.elemSeg
  else [⟨r.d + 4096 * k, r.s + 4096 * k, min 4096 (r.bytes - 4096 * k), 4096 * k⟩]

/-! ### Endpoints (R260, R364, R365) -/

/-- A valid range of a handle (R365): inside host memory for a tenant that may reach it, inside another package, or
inside one PRT entry of this package that the tenant and the world may reach; no range leaves the DRAM
of a package (R177). -/
def Pkg.rangeOk (p : Pkg) (td : TenantDesc) (secure keyed : Bool) (base len : Nat) : Bool :=
  let last := base + len - 1
  let off := base % 2 ^ 42
  if 2 ^ 63 ≤ base then decide (last < 2 ^ 64) && !keyed && td.host
  else if 2 ^ 52 ≤ base then false
  else
    base / 2 ^ 42 == last / 2 ^ 42 &&
    decide (off + len ≤ 0xC000000000) &&
    (base / 2 ^ 42 != p.number ||
      match p.prtFind off with
      | none => false
      | some n =>
        let hits (k : Nat) : Bool :=
          let b := bits (p.ctl (offPrt k 0)) 12 30 * 4096
          bit (p.ctl (offPrt k 0)) 0 && decide (b < off + len) && decide (off < b + bits (p.ctl (offPrt k 1)) 12 30 * 4096)
        p.prtHolds (last % 2 ^ 42) n && !(List.range n).any hits && bit td.prtMask n &&
        (!bit (p.ctl offSecmask) n || secure))

/-- The entry of a handle of a context, with its read and write rights; none where it counts as invalid (R365). -/
def State.handle (s : State) (cd : ContextDesc) (td : TenantDesc) (hnd off : Nat) : Option (Endpoint × Bool × Bool) :=
  match s.physDwords (cd.htBase + 32 * hnd) 4 with
  | none => none
  | some ds =>
    let d0 := ds.getD 0 0
    let base := (ds.getD 1 0).toNat
    let len := bits (ds.getD 2 0) 0 48
    let clean := bits d0 13 19 == 0 && bits d0 48 16 == 0 && bits (ds.getD 2 0) 48 16 == 0 && ds.getD 3 0 == 0
    if decide (hnd < cd.htN) && bit d0 0 && clean && len != 0 && base % 64 == 0 && (!bit d0 12 || cd.secure) &&
        s.pkg.rangeOk td cd.secure (bit d0 3) base len then
      some (⟨2, base, len, off, some hnd, bit d0 3, bits d0 4 8, bits d0 32 16⟩, bit d0 1, bit d0 2)
    else none

/-- The end of a copy that an endpoint dword names, for the hart of the state, with its rights (R260). -/
def State.endpoint (s : State) (v : Dword) : Option (Endpoint × Bool × Bool) :=
  let hnd := bits v 48 16
  let off := bits v 0 48
  let own (space base len : Nat) : Endpoint := ⟨space, base, len, off, none, false, 0, 0⟩
  if 0xFFF8 ≤ hnd ∧ hnd ≤ 0xFFFD then none
  else if hnd = 0xFFFF then some (own 1 s.h.gang (((s.gang? s.h.gang).map Gang.partSize).getD 0), true, true)
  else if hnd = 0xFFFE then some (own 0 s.h.ident privateSize, true, true)
  else if 0xFFF0 ≤ hnd then
    if hnd - 0xFFF0 < s.h.gangsz.toNat then some (own 0 (s.h.gang * 8 + (hnd - 0xFFF0)) privateSize, true, true) else none
  else
    match s.seenContext (bits s.h.ctxid 0 16), s.seenTenant (bits s.h.tid 0 12) with
    | some cd, some td => if cd.valid && td.valid then s.handle cd td hnd off else none
    | _, _ => none

/-- The binding of a stream of a context (R297, R299), where it was made in this world (R370). -/
def Pkg.binding (p : Pkg) (ctx sid : Nat) (secure : Bool) : Option (Nat × BitVec 2048) :=
  (((tableGet p.streams ctx).getD []).find? fun e => e.1 == sid && e.2.2.1 == secure).map fun e => (e.2.1, e.2.2.2)

/-- The world of the context of the hart of the state, as copies and bindings take it (R370). -/
def State.contextWorld (s : State) : Bool :=
  match s.seenContext (bits s.h.ctxid 0 16) with
  | some cd => if cd.valid then cd.secure else s.core.secure
  | none => s.core.secure

/-! ### Acceptance (R264, R271, R293, R294) -/

/-- The last byte of `rows` rows of `n` bytes with a stride lies in the buffer. -/
def rowsFit (e : Endpoint) (stride rows n : Nat) : Bool := decide (e.off + (rows - 1) * stride + n ≤ e.len)

/-- The frames of a row of a copy through a graph, the last one counted whole. -/
def CopyReq.rowFrames (r : CopyReq) (fb : Nat) : Nat := (r.bytes * 8 + fb - 1) / fb

/-- BOUNDS of a copy that names no stream. -/
def CopyReq.plainFits (r : CopyReq) (dst src : Endpoint) : Bool :=
  if r.indexed then
    (List.range r.rows).all fun e =>
      let g := r.elemSeg e
      decide (g.dst + g.len ≤ dst.len) && decide (g.src + g.len ≤ src.len)
  else rowsFit dst r.dstride r.rows r.bytes && rowsFit src r.sstride r.rows r.bytes

/-- BOUNDS of a copy through a bound graph: both extents, sink 1 and the status record (R271, R293, R294). -/
def CopyReq.graphFits (r : CopyReq) (dir : Nat) (g : Graph) (dst src : Endpoint) (status : Option Endpoint) : Bool :=
  let n := r.rowFrames (g.frameBits dir)
  let counted := if dir = 0 then rowsFit dst r.dstride r.rows r.bytes else rowsFit src r.sstride r.rows r.bytes
  let far := if dir = 0 then rowsFit src r.sstride r.rows (64 * n) else rowsFit dst r.dstride r.rows (64 * n)
  let lo : Int := dst.off + g.o1off
  let one := !g.o1en || (decide (0 ≤ lo) && decide (lo + (r.rows * n * g.sink1 : Nat) ≤ dst.len))
  counted && far && one && status.all fun e => decide (e.off + 16 ≤ e.len)

/-- STREAM of a copy through a bound graph (R271, R294). What the DRAM-side extent of a cpy2 counts against 1 MiB is the
model's reading: its rows' frames, 64 bytes each, whatever the stride (log 69). -/
def CopyReq.streamOk (r : CopyReq) (dir : Nat) (g : Graph) (dst src : Endpoint) : Bool :=
  let far := if dir = 0 then src else dst
  let stride := if dir = 0 then r.sstride else r.dstride
  let fb := g.frameBits dir
  far.space == 2 && decide (far.base < 2 ^ 63) && r.bytes * 8 % fb == 0 && far.off % 64 == 0 && stride % 64 == 0 &&
  (dir == 0 || decide (r.rows * r.rowFrames fb * 64 ≤ 2 ^ 20))

/-- What the checks of R264 give: the code of the first that fails, nothing to do for a copy without chunks, or the
ends of the copy with its graph. -/
def State.judge (s : State) (r : CopyReq) :
    Except Nat (Option (Endpoint × Endpoint × Option Endpoint × Option (Nat × BitVec 2048))) :=
  let g := if r.stream then s.pkg.binding (bits s.h.ctxid 0 16) r.sid s.contextWorld else none
  let wants := g.bind fun b => let g := graphOf b.2; if g.sten then some (s.endpoint (BitVec.ofNat 64 (g.const 15))) else none
  match s.endpoint r.dst, s.endpoint r.src with
  | some (dst, _, dw), some (src, sr, _) =>
    if wants.any Option.isNone then .error 1
    else
      let st := wants.join
      if !sr || !dw || st.any (fun e => !e.2.2) then .error 2
      else if bits r.s0 61 3 != 0 || (r.indexed && (decide (4096 < r.bytes) || decide (256 < r.rows) ||
          (groupAt r.rows (BitVec.ofNat 5 r.vidx, 32)).isNone)) then .error 3
      else
        let status := st.map (·.1)
        let none_ := r.chunks == 0
        match r.stream, g with
        | false, _ => if none_ || r.plainFits dst src then .ok (if none_ then none else some (dst, src, none, none)) else .error 4
        | true, none => if none_ || rowsFit dst r.dstride r.rows r.bytes then .error 5 else .error 4
        | true, some (dir, img) =>
          if !(none_ || r.graphFits dir (graphOf img) dst src status) then .error 4
          else if !r.streamOk dir (graphOf img) dst src then .error 5
          else .ok (if none_ then none else some (dst, src, status, some (dir, img)))
  | _, _ => .error 1

/-! ### Where the bytes of an endpoint lie -/

/-- Where a byte of an endpoint lies: at a location with its physical address, in a scratchpad, or refused there
(R368, R369); or held back while the route to its package moves (R184). -/
inductive Site where
  | mem (loc pa : Nat)
  | spot (p : Spot)
  | refused
  | held
deriving DecidableEq, Repr

/-- May a copy of this tenant reach a scratchpad, by the cluster map of where its owner is resident (R368)? -/
def State.spotAdmits (s : State) (tid : Nat) (p : Spot) : Bool :=
  let cluster := match p with
    | .priv id _ => (s.coreOf id).map clusterOfCore
    | .part g _ => (s.gang? g).bind fun g => if g.phase = GangPhase.resident then some g.cluster else none
  cluster.all fun c => s.pkg.tenantOf (c / 48) (c % 48) == tid

/-- A scratchpad as the site of a copy. -/
def State.spotSite (s : State) (c : CopyRun) (p : Spot) : Site := if s.spotAdmits c.tid p then .spot p else .refused

/-- Where byte `pos` of an endpoint of a copy lies; a key that may not be used refuses it (R373). -/
def State.site (s : State) (c : CopyRun) (e : Endpoint) (pos : Nat) : Site :=
  match e.space with
  | 0 => s.spotSite c (.priv e.base pos)
  | 1 => s.spotSite c (.part e.base pos)
  | _ =>
    if e.keyed && !s.pkg.keyUsable e.key e.layout c.secure then .refused
    else
      let pa := e.base + pos
      match s.pkg.place pa with
      | .dram loc n => if s.homeAdmits c.tid n c.secure then .mem loc pa else .refused
      | .host loc => .mem loc pa
      | .remote loc package =>
        match s.pkg.route (dieOfCore c.core) package with
        | none => .held
        | some port => if s.pkg.portAdmits port c.tid then .mem loc pa else .refused
      | _ => .refused

/-- The runs of `n` bytes from `pos` that stay in one 64-byte unit; `fuel` bounds their number. -/
def unitRuns (pos n : Nat) : Nat → List (Nat × Nat)
  | 0 => []
  | fuel + 1 => if n = 0 then [] else let k := min n (64 - pos % 64); (pos, k) :: unitRuns (pos + k) (n - k) fuel

/-- The runs of a range in 64-byte units. -/
def runsOf (pos n : Nat) : List (Nat × Nat) := unitRuns pos n (n / 64 + 2)

/-- Is the granule of a location pending under a copy other than `id` (R296)? -/
def Pkg.pendingUnder (p : Pkg) (id loc : Nat) : Bool :=
  p.pending.any fun g => g.key == loc / 64 && g.copies.any (· != id)

/-- Must an access of copy `id` to a site wait at its home: for instants owed, a granule that another copy holds pending,
a remap rebuild, an array that sleeps (R247, R296, R397, R398); `graph` accesses join a pending granule? The location
that waits. -/
def State.siteWaits (s : State) (id : Nat) (site : Site) (n : Nat) (graph : Bool) : Option Nat :=
  let busy (l : Nat) : Bool := s.pkg.stalled l || s.pkg.owes l
  match site with
  | .mem loc _ =>
    if busy loc || (!graph && (s.pkg.pendingUnder id loc || s.pkg.pendingUnder id (loc + n - 1))) then some loc else none
  | .spot p => ((s.find p).bind (·.loc)).filter busy
  | _ => none

/-- Must an access of a copy stay behind messages that its hart has sent before it: a read behind what they access, a write
behind every posted one, to the same destination off the die (R189)? -/
def State.siteBehind (s : State) (c : CopyRun) (site : Site) (n : Nat) (write : Bool) : Bool :=
  let loc? := match site with
    | .mem loc _ => some loc
    | .spot p => (s.find p).bind (·.loc)
    | _ => none
  loc?.any fun loc => (s.mine c.hart).any fun m =>
    m.offDie && m.dst == dstOf loc && ((write && m.posted) || m.touches loc n)

/-- The sites of a range of an endpoint. -/
def State.sites (s : State) (c : CopyRun) (e : Endpoint) (pos n : Nat) : List (Site × Nat) :=
  (runsOf pos n).map fun r => (s.site c e r.1, r.2)

/-- The bytes of a copy's range, which it reads or writes, wait: arrays are woken, and nothing else happens. -/
def awaitSites (c : CopyRun) (l : List (Site × Nat)) (write graph : Bool) : M Unit := do
  let s ← get
  await (l.all fun e => e.1 != .held && !s.siteBehind c e.1 e.2 write)
  let waits := l.filterMap fun e => s.siteWaits c.id e.1 e.2 graph
  if waits.isEmpty then pure ()
  else
    modify fun s => { s with pkg := waits.foldl Pkg.wake s.pkg }
    again

/-- Bytes of one run read, with whether they are uncorrectable (R372, R388, R396). -/
def readRun (c : CopyRun) (e : Endpoint) (pos n : Nat) : M (List Byte × Bool) := do
  match (← get).site c e pos with
  | .refused => pure (List.replicate n 0, false)
  | .held => hold
  | .spot p => readSpot p n
  | .mem loc pa =>
    modify (·.pulled loc)
    let s ← get
    let bad := s.pkg.poisoned loc n
    if bad then modify fun s => { s with pkg := s.pkg.ueEvent loc } else pure ()
    if e.keyed then
      let unit := xtsUnit true (s.pkg.keyBytes e.key) (pa / 64 * 64) (s.heldBytes (loc / 64 * 64) 64)
      pure ((unit.drop (pa % 64)).take n, bad)
    else pure (s.heldBytes loc n, bad)

/-- Bytes of a range read. -/
def readRange (c : CopyRun) (e : Endpoint) (pos n : Nat) : M (List Byte × Bool) := do
  let ps ← (runsOf pos n).mapM fun r => readRun c e r.1 r.2
  pure (ps.flatMap (·.1), ps.any (·.2))

/-- The agent that the writes of chunk `k` of a copy are recorded under: each chunk is a point of its own in happens-before
(R209). -/
def CopyRun.agent (c : CopyRun) (k : Nat) : Nat := (2 ^ 20 + c.id) * 2 ^ 20 + k

/-- A granule made pending under a graph copy, its bytes held over memory until the copy ends (R296). -/
def State.holdWrite (s : State) (id loc : Nat) (bs : List Byte) (poison : Bool) : State :=
  let key := loc / 64
  let mark (g : PendGranule) : PendGranule := if g.key = key then { g with copies := setInsert g.copies id } else g
  let p := s.pkg
  let pending := if p.pending.any (·.key == key) then p.pending.map mark else p.pending ++ [⟨key, [id]⟩]
  let p := { p with
    pending := pending
    pendMem := (List.range bs.length).foldl (fun t i => tableSet t (loc + i) (bs.getD i 0)) p.pendMem
    poison := p.poison.filter fun u => !unitWithin u loc bs.length }
  let s := { s with pkg := p }
  if poison then s.poisonBytes loc bs.length else s

/-- The units of `old` that a write of `n` bytes from `loc` does not replace are poisoned still, although its encryption
rewrote them (R372, R396). -/
def State.stillPoisoned (s : State) (old : List Nat) (loc n : Nat) : State :=
  let kept := old.filter fun u =>
    !s.pkg.poison.contains u && !unitWithin u loc n
  { s with pkg := { s.pkg with poison := s.pkg.poison ++ kept } }

/-- Bytes of one run of chunk `k` written; `graph` writes stay pending (R213, R273, R296, R372, R388). -/
def writeRun (c : CopyRun) (k : Nat) (e : Endpoint) (pos : Nat) (bs : List Byte) (poison graph : Bool) : M Unit := do
  match (← get).site c e pos with
  | .refused => pure ()
  | .held => hold
  | .spot p =>
    writeSpot p bs poison
    match (← get).find p with
    | some ⟨some loc, _, _, _⟩ =>
      if raceHome loc then modify fun s => { s with pkg := s.pkg.raceMark loc c.hart (c.agent k) 1 } else pure ()
    | _ => pure ()
    orStop fun s => s.forwardSpot c.hart p bs poison
  | .mem loc pa =>
    modify (·.pulled loc)
    let s ← get
    let base := loc / 64 * 64
    let whole :=
      if e.keyed then
        let key := s.pkg.keyBytes e.key
        let old := xtsUnit true key (pa / 64 * 64) (s.heldBytes base 64)
        let k := pa % 64
        some (xtsUnit false key (pa / 64 * 64) (old.take k ++ bs ++ old.drop (k + bs.length)))
      else none
    let (at_, out) := match whole with
      | some w => (base, w)
      | none => (loc, bs)
    if graph then modify fun s => s.holdWrite c.id at_ out false
    else modify fun s => s.writeHome at_ out
    modify fun t => t.stillPoisoned s.pkg.poison loc bs.length
    if poison then modify fun s => s.poisonBytes loc bs.length else pure ()
    if graph then pure ()
    else
      if raceHome loc then modify fun s => { s with pkg := s.pkg.raceMark loc c.hart (c.agent k) 1 } else pure ()

/-- Bytes of a range of chunk `k` written. -/
def writeRange (c : CopyRun) (k : Nat) (e : Endpoint) (pos : Nat) (bs : List Byte) (poison graph : Bool) : M Unit :=
  (runsOf pos bs.length).forM fun r => writeRun c k e r.1 ((bs.drop (r.1 - pos)).take r.2) poison graph

/-! ### Counters, errors and the end of a copy -/

/-- The copies with one replaced. -/
def Pkg.setCopy (p : Pkg) (c : CopyRun) : Pkg := { p with copies := p.copies.map fun k => if k.id = c.id then c else k }

/-- A copy's record replaced. -/
def keepCopy (c : CopyRun) : M Unit := modify fun s => { s with pkg := s.pkg.setCopy c }

/-- A hart with counter `n` changed. -/
def Hart.onCc (n : Nat) (f : Dword → Dword) (h : Hart) : Hart := { h with cc := h.cc.setIfInBounds n (f (h.cc.getD n 0)) }

/-- COUNT advanced by one (R29, R267). -/
def ccAdvance (v : Dword) : Dword := setBits v 0 32 (bits v 0 32 + 1)

/-- GFLAGS raised (R29, R272). -/
def ccFlags (fl : Flags) (v : Dword) : Dword := v ||| (fl.zeroExtend 64 <<< 33)

/-- The COPY_ERROR EVAL of R269. -/
def copyEval (r : CopyReq) (code : Nat) : Dword := BitVec.ofNat 64 (bits r.pc 0 48 + r.cc * 2 ^ 48 + code * 2 ^ 52)

/-- ERR set in the counter, and a COPY_ERROR pending (R269). -/
def Hart.copyError (r : CopyReq) (code : Nat) (h : Hart) : Hart :=
  let h := h.onCc r.cc fun v => setBits v 32 1 1
  { h with copyErrs := h.copyErrs ++ [copyEval r code] }

/-- A hart with bit `k` of mask register `r` set (R267). -/
def Hart.withChunkBit (h : Hart) (r k : Nat) : Hart :=
  { h with m := h.m.setIfInBounds r (h.m.getD r 0 ||| BitVec.ofNat 256 (2 ^ k)) }

/-- The chunk bits set in the cycle of `edge` ORed into the mask registers again, after what an instruction of the VDQ wrote in
that cycle (R144). -/
def Hart.orChunks (h : Hart) (edge : Nat) : Hart :=
  (h.chunkBits.filter (·.1 == edge)).foldl (fun h b => h.withChunkBit b.2.1 b.2.2) h

/-- A chunk counted: COUNT advances, its mask bit is set, and its writes can be acquired through the COUNT reached and
through the bit (R209, R267); a bit that was 0 stands for this chunk alone. The bit is kept with the edge of its cycle, for a
VDQ instruction that writes the register in the same one (R144). -/
def countChunk (c : CopyRun) (k : Nat) : M Unit := do
  let s ← get
  let before := s.hart? c.hart
  let edge := ((s.coreOf c.hart).map fun core => (s.pkg.die (dieOfCore core)).edgeAt).getD 0
  orStop fun s => s.onHart c.hart fun h =>
    let h := h.onCc c.req.cc ccAdvance
    if k < 256 ∧ c.req.mreg ≠ 0 then
      { h.withChunkBit c.req.mreg k with
        chunkBits := (edge, c.req.mreg, k) :: h.chunkBits.filter fun b => b.1 == edge && b.2 != (c.req.mreg, k) }
    else h
  let clock := tableSet c.clock (c.agent k) 1
  let count := bits (ccAdvance ((before.map fun h => h.cc.getD c.req.cc 0).getD 0)) 0 32
  let wasSet := (before.map fun h => (h.m.getD c.req.mreg 0).getLsbD k).getD false
  modify fun s => { s with pkg := s.pkg.countedTo (counterKey c.hart c.req.cc) count clock }
  if c.req.mreg ≠ 0 ∧ k < 256 then
    modify fun s => { s with pkg := s.pkg.counted (maskKey c.hart c.req.mreg k) wasSet clock }
  else pure ()

/-- A chunk that fails: it is not counted, and the copy's first failure is reported (R269). -/
def failChunk (c : CopyRun) (k code : Nat) : M CopyRun := do
  if c.failed.isEmpty then orStop fun s => s.onHart c.hart (Hart.copyError c.req code) else pure ()
  pure (if c.failed.contains k then c else { c with failed := c.failed ++ [k] })

/-- The pending granules of a copy that ends: what no other copy holds becomes memory (R296). -/
def State.releasePending (s : State) (id : Nat) : State :=
  let gs := s.pkg.pending.map fun g => { g with copies := g.copies.filter (· != id) }
  let gone := (gs.filter (·.copies.isEmpty)).map (·.key)
  let cells := s.pkg.pendMem.filter fun c => gone.contains (c.1 / 64)
  let p := gone.foldl (fun (p : Pkg) k => p.overwritten (64 * k) 64) s.pkg
  { s with
    mem := Memory.writeCells s.mem cells
    pkg := { p with
      pending := gs.filter fun g => !g.copies.isEmpty
      pendMem := p.pendMem.filter fun c => !gone.contains (c.1 / 64) } }

/-- COPY_END: the copy leaves the engine, and its hart's gang may end (R270, R296, R313). -/
def endCopy (c : CopyRun) : M Unit := do
  let held := (← get).pkg.homesHold
  modify fun s =>
    let s := s.releasePending c.id
    { s with pkg := { s.pkg with copies := s.pkg.copies.filter (·.id != c.id) } }
  orStop fun s => s.settleGang (c.hart / 8)
  if held then orStop State.selectAll else pure ()

/-- The copy ends once every chunk has been counted or has failed. -/
def settleCopy (c : CopyRun) : M Unit :=
  if c.req.chunks ≤ c.done.length + c.failed.length then endCopy c else keepCopy c

/-! ### Plain chunks (R263, R266, R267) -/

/-- Two runs write a common byte. -/
def Seg.meets (a b : Seg) : Bool := decide (a.dst < b.dst + b.len) && decide (b.dst < a.dst + a.len)

/-- May chunk `k` of a copy start: for a scatter, every lower chunk that writes one of its bytes has performed
(R263)? -/
def CopyRun.mayStart (c : CopyRun) (k : Nat) : Bool :=
  c.req.form != 3 ||
  (List.range k).all fun j => c.done.contains j || c.failed.contains j || c.written.any (·.1 == j) ||
    !(c.req.segs j).any fun a => (c.req.segs k).any a.meets

/-- Does the write of a copy fall in a region that its hart publishes (R273)? -/
def State.publishes (s : State) (c : CopyRun) (e : Endpoint) (pos n : Nat) : Bool :=
  let mine := match e.space with
    | 0 => e.base == c.hart
    | 1 => e.base == c.hart / 8
    | _ => false
  mine && ((s.hart? c.hart).map fun h => h.pubs.toList.any fun p => (p.map fun p =>
    p.cluster == (e.space == 1) && decide (p.off < pos + n) && decide (pos < p.off + p.len)).getD false).getD false

/-- The byte of its publisher's window that byte `off` of a subscription's region is, where it is one of the bytes of a
window listed. -/
def SubEntry.covers (y : SubEntry) (runs : List (Bool × Nat × Nat)) (off : Nat) : Bool :=
  runs.any fun r => r.1 == y.remoteCluster && decide (r.2.1 ≤ y.remoteOff + off) && decide (y.remoteOff + off < r.2.1 + r.2.2)

/-- Has every batch that carries bytes of these runs of the hart's windows, written at time `at_`, been acknowledged
(R208)? One opened by then has been sent 20 ns later (R276). -/
def State.updatesDone (s : State) (hart : Nat) (runs : List (Bool × Nat × Nat)) (at_ : Nat) : Bool :=
  let entry (sub e : Nat) : Option SubEntry := ((s.hart? sub).bind fun h => h.subs.getD e none)
  let carries (sub e : Nat) (bs : List (Nat × Byte)) : Bool := (entry sub e).any fun y => bs.any fun b => y.covers runs b.1
  (s.pkg.net.all fun m => match m.body with
    | .update sub e bs _ => m.owner != hart || decide (at_ + nanoseconds 20 < m.sent) || !carries sub e bs
    | _ => true) &&
  ((s.hart? hart).all fun h => h.pubs.toList.all fun p => p.all fun p => p.subs.all fun b => b.batch.all fun o =>
    decide (at_ < o.since) || !carries b.hart b.entry o.bytes)

/-- The runs of its hart's windows that chunk `k` of a copy writes, as R273 forwards them. -/
def CopyRun.runs (c : CopyRun) (k : Nat) : List (Bool × Nat × Nat) :=
  (c.req.segs k).map fun g => (c.dst.space == 1, g.dst, g.len)

/-- The bytes that a run moves, with whether its source is uncorrectable; the snapshot stands for the source where the
copy has one (R266). -/
def segBytes (c : CopyRun) (g : Seg) : M (List Byte × Bool) := do
  match c.snapshot with
  | some all =>
    let bs := (all.drop g.lin).take g.len
    pure (bs.map (·.1), bs.any (·.2))
  | none => readRange c c.src g.src g.len

/-- A chunk of a plain copy performed at its homes: the code of its failure, if it fails. -/
def performChunk (c : CopyRun) (k : Nat) : M (Option Nat) := do
  let gs := c.req.segs k
  let s ← get
  let from_ := gs.flatMap fun g => s.sites c c.src g.src g.len
  let to_ := gs.flatMap fun g => s.sites c c.dst g.dst g.len
  if (from_ ++ to_).any (·.1 == .refused) then pure (some 7)
  else
    awaitSites c from_ false false
    awaitSites c to_ true false
    let rs ← gs.mapM (segBytes c)
    let bad := rs.any (·.2)
    (gs.zip rs).forM fun e => writeRange c k c.dst e.1.dst e.2.1 bad false
    pure (if bad then some 6 else none)

/-- CHUNK_COMPLETE of a copy that passes no graph. -/
def plainChunk (c : CopyRun) (k : Nat) : M Unit := do
  match c.written.find? (·.1 == k) with
  | some w =>
    if (← get).updatesDone c.hart (c.runs k) w.2 then
      countChunk c k
      settleCopy { c with written := c.written.filter (·.1 != k), done := c.done ++ [k] }
    else pure ()
  | none =>
  if c.stopped then (if c.written.isEmpty then endCopy c else pure ())
  else if c.req.chunks ≤ k || c.done.contains k || c.failed.contains k || !c.mayStart k then pure ()
  else
    match ← performChunk c k with
    | some code => do settleCopy (← failChunk c k code)
    | none => do
      let s ← get
      if (c.req.segs k).any fun g => s.publishes c c.dst g.dst g.len then keepCopy { c with written := c.written ++ [(k, s.pkg.time)] }
      else
        countChunk c k
        settleCopy { c with done := c.done ++ [k] }

/-! ### Frames (R282, R291, R294, R295) -/

/-- The frames of a row. -/
def CopyRun.perRow (c : CopyRun) (fb : Nat) : Nat := c.req.bytes * 8 / fb

/-- All frames of a copy. -/
def CopyRun.frameCount (c : CopyRun) (fb : Nat) : Nat := c.req.rows * c.perRow fb

/-- The chunks that frame `f` contributes to. -/
def CopyRun.frameChunks (c : CopyRun) (fb f : Nat) : List Nat :=
  if c.req.twoD then [f / c.perRow fb]
  else
    let lo := f * fb / 8 / 4096
    let hi := ((f + 1) * fb - 1) / 8 / 4096
    (List.range (hi + 1 - lo)).map (lo + ·)

/-- The status record of R293, its flags those of the copy. -/
def CopyRun.status (c : CopyRun) (g : Graph) : List Byte :=
  let ops := g.nodes.map (·.op)
  let crc := if ops.contains 26 && !c.dataBad then (c.crc ^^^ BitVec.allOnes 32).toNat else 0
  let nz := if ops.contains 27 && !c.dataBad then c.nonzero else 0
  bytesOf 8 (crc + c.gflags.toNat * 2 ^ 32 + bitOf c.dataBad * 2 ^ 37) ++ bytesOf 8 nz

/-- The chunks listed fail. -/
def failChunks (c : CopyRun) (code : Nat) : List Nat → M CopyRun
  | [] => pure c
  | k :: ks => do failChunks (← failChunk c k code) code ks

/-- One frame of a copy through a graph: read, evaluated, written (R282, R294). A frame that is refused has no part in
CRC, COUNT and FLAGS of the status record, of which the rules do not speak (log 68). -/
def runFrame (c : CopyRun) (dir : Nat) (g : Graph) : M CopyRun := do
  let fb := g.frameBits dir
  let f := c.frames
  let row := f / c.perRow fb
  let k := f % c.perRow fb
  let lo := k * fb / 8
  let n := (k * fb % 8 + fb + 7) / 8
  let far := if dir = 0 then c.req.s + row * c.req.sstride + 64 * k else c.req.d + row * c.req.dstride + 64 * k
  let near := if dir = 0 then c.req.d + row * c.req.dstride + lo else c.req.s + row * c.req.sstride + lo
  let (fe, ne) := if dir = 0 then (c.src, c.dst) else (c.dst, c.src)
  let one := ((c.req.d : Int) + g.o1off + (f * g.sink1 : Nat)).toNat
  let s ← get
  let nearSites := s.sites c ne near n ++ (if g.o1en then s.sites c ne one g.sink1 else [])
  let farSites := s.sites c fe far 64
  if (nearSites ++ farSites).any (·.1 == .refused) then failChunks { c with frames := f + 1 } 7 (c.frameChunks fb f)
  else
    awaitSites c nearSites (dir == 0) false
    awaitSites c farSites (dir != 0) (dir != 0)
    let chunk := ((c.frameChunks fb f).getLast?).getD 0
    let (input, bad) ← if dir = 0 then readRange c fe far 64 else readRange c ne near n
    let (old, bad') ← if dir = 2 then readRange c fe far 64 else pure ([], false)
    let bad := bad || bad'
    let v := if dir = 0 then natOf input else natOf input / 2 ^ (k * fb % 8) % 2 ^ fb
    let o := g.frame dir v (natOf old) far c.crc.toNat c.nonzero
    let (v0, b0) := o.sink g.out0
    let c := { c with
      frames := f + 1, crc := BitVec.ofNat 32 o.crc, nonzero := o.nz, gflags := c.gflags ||| o.flags
      dataBad := c.dataBad || bad }
    orStop fun s => s.onHart c.hart (Hart.onCc c.req.cc (ccFlags o.flags))
    if dir = 0 then
      writeRange c chunk ne near (bytesOf (b0 / 8) v0) bad false
      if g.o1en then writeRange c chunk ne one (bytesOf g.sink1 (o.sink g.out1).1) bad false else pure ()
    else writeRange c chunk fe far (bytesOf 64 v0) bad true
    if bad then failChunks c 6 (c.frameChunks fb f) else pure c

/-- The chunks of a copy whose frames have all been processed and which have not failed. -/
def CopyRun.ready (c : CopyRun) (fb k : Nat) : Bool :=
  let past := c.frames
  let need := if c.req.twoD then (k + 1) * c.perRow fb else (min (4096 * (k + 1)) c.req.bytes * 8 + fb - 1) / fb
  decide (need ≤ past) && !c.done.contains k && !c.failed.contains k

/-- Are the frames of a copy at a chunk boundary? -/
def CopyRun.atBoundary (c : CopyRun) (fb : Nat) : Bool :=
  c.frames == 0 || c.frames == c.frameCount fb ||
  (if c.req.twoD then c.frames % c.perRow fb == 0 else c.frames * fb / 8 % 4096 == 0)

/-- The status record of a copy written (R293), pending where the copy's writes are (R210); one that its home refuses is
dropped without a report, of which the rules do not speak (log 67). -/
def writeStatus (c : CopyRun) (dir : Nat) (g : Graph) : M Unit :=
  match c.statusAt with
  | some e => writeRange c (c.req.chunks - 1) e e.off (c.status g) false (dir != 0)
  | none => pure ()

/-- The sites of a copy's status record waited for. -/
def awaitStatus (c : CopyRun) : M Unit := do
  let s ← get
  awaitSites c ((c.statusAt.map fun e => s.sites c e e.off 16).getD []) true false

/-- The next frame of a copy; after the last one of a read graph its status record. -/
def nextFrame (c : CopyRun) (dir : Nat) (img : BitVec 2048) : M Unit := do
  let g := graphOf img
  let last := c.frameCount (g.frameBits dir)
  if !c.reserve.isEmpty || decide (last ≤ c.frames) || (c.stopped && c.atBoundary (g.frameBits dir)) then pure ()
  else
    if c.frames + 1 = last && dir == 0 then awaitStatus c else pure ()
    let c ← runFrame c dir g
    if c.frames == last && dir == 0 then writeStatus c dir g else pure ()
    keepCopy c

/-- All chunks of a graph copy that have not failed counted at one instant (R210). -/
def countAll (c : CopyRun) : List Nat → M CopyRun
  | [] => pure c
  | k :: ks => do
    if c.failed.contains k then countAll c ks
    else
      countChunk c k
      countAll { c with done := c.done ++ [k] } ks

/-- The race records of a writing graph's copy, made as its writes become visible (R210, R213): each granule under the
point of the chunk that its frame belongs to. -/
def State.markFrames (s : State) (c : CopyRun) (fb : Nat) : State :=
  (List.range (c.frameCount fb)).foldl (fun s f =>
    let at_ := c.req.d + f / c.perRow fb * c.req.dstride + 64 * (f % c.perRow fb)
    let chunk := ((c.frameChunks fb f).getLast?).getD 0
    match s.site c c.dst at_ with
    | .mem loc _ => if raceHome loc then { s with pkg := s.pkg.raceMark loc c.hart (c.agent chunk) 1 } else s
    | _ => s) s

/-- CHUNK_COMPLETE of a copy through a graph: a read graph's chunk, or the whole of a writing one (R210, R294). A read graph's
copy that stops ends once the chunks whose frames have all been processed are counted (R270). -/
def graphChunk (c : CopyRun) (dir : Nat) (img : BitVec 2048) (k : Nat) : M Unit := do
  let fb := (graphOf img).frameBits dir
  let total := c.frameCount fb
  let stops := c.stopped && c.atBoundary fb && decide (c.frames < total)
  if dir = 0 then
    let s ← get
    if decide (c.req.chunks ≤ k) || !c.ready fb k then
      if c.frames = total then settleCopy c
      else if stops && !(List.range c.req.chunks).any (c.ready fb) then endCopy c
      else pure ()
    else
      let shared := (c.req.segs k).any fun g => s.publishes c c.dst g.dst g.len
      match c.written.find? (·.1 == k) with
      | none =>
        if shared then keepCopy { c with written := c.written ++ [(k, s.pkg.time)] }
        else
          countChunk c k
          let c := { c with done := c.done ++ [k] }
          if c.frames = total then settleCopy c else keepCopy c
      | some w =>
        if s.updatesDone c.hart (c.runs k) w.2 then
          countChunk c k
          let c := { c with done := c.done ++ [k], written := c.written.filter (·.1 != k) }
          if c.frames = total then settleCopy c else keepCopy c
        else pure ()
  else if stops then endCopy c
  else if c.frames = total then
    awaitStatus c
    writeStatus c dir (graphOf img)
    let c ← countAll c (List.range c.req.chunks)
    modify fun s => s.markFrames c fb
    endCopy c
  else pure ()

/-- CHUNK_COMPLETE (R267), after what the hart's instruction writes in the same cycle (R33, R144). -/
def chunkComplete (id k : Nat) : M Unit := do
  match (← get).pkg.copies.find? (·.id == id) with
  | none => pure ()
  | some c =>
    awaitArea c.hart
    if (← get).turnDue c.hart then pure ()
    else
    match c.graph with
    | none => plainChunk c k
    | some (dir, img) => graphChunk c dir img k

/-- The home of another package refuses chunk `k` of a copy that reaches it, and answers so: the chunk fails with REFUSED (R365,
R369). -/
def refuseChunk (id k : Nat) : M Unit := do
  let s ← get
  match s.pkg.copies.find? (·.id == id) with
  | none => pure ()
  | some c =>
    let far (e : Endpoint) : Bool := e.space == 2 && match s.pkg.place e.base with
      | .remote _ _ => true
      | _ => false
    if !(far c.src || far c.dst) || c.stopped || c.req.chunks ≤ k || c.done.contains k || c.failed.contains k ||
        c.written.any (·.1 == k) || !c.mayStart k || s.turnDue c.hart then pure ()
    else settleCopy (← failChunk c k 7)

/-- GRAPH_FRAME (R282), after what the hart's instruction writes in the same cycle (R33). -/
def graphFrame (id : Nat) : M Unit := do
  match (← get).pkg.copies.find? (·.id == id) with
  | some c =>
    match c.graph with
    | some (dir, img) =>
      awaitArea c.hart
      if (← get).turnDue c.hart then pure () else nextFrame c dir img
    | none => pure ()
  | none => pure ()

/-! ### Acceptance in the engine (R264, R265, R296) -/

/-- The controllers of the granules that a writing graph's copy writes, with their counts, ascending (R296). -/
def State.granulesNeeded (s : State) (c : CopyRun) (fb : Nat) : List (Nat × Nat) :=
  let n := c.perRow fb
  let pos := ((List.range c.req.rows).flatMap fun r => (List.range n).map fun k => c.req.d + r * c.req.dstride + 64 * k).eraseDups
  pos.foldl (fun t q => match s.site c c.dst q with
    | .mem loc _ => if loc < 2 ^ 56 then tableSet t (homeOf loc) ((tableGet t (homeOf loc)).getD 0 + 1) else t
    | _ => t) []

/-- The whole source of a copy within one scratchpad, read at its start (R266). -/
def takeSnapshot (c : CopyRun) : M (Option (List (Byte × Bool))) := do
  if c.src.space ≠ 2 ∧ c.src.space = c.dst.space ∧ c.src.base = c.dst.base then
    let gs := (List.range c.req.chunks).flatMap c.req.segs
    let s ← get
    awaitSites c (gs.flatMap fun g => s.sites c c.src g.src g.len) false false
    let bs ← gs.mapM fun g => (runsOf g.src g.len).mapM fun r => do
      let x ← readRun c c.src r.1 r.2
      pure (x.1.map fun b => (b, x.2))
    pure (some bs.flatten.flatten)
  else pure none

/-- The state with the context and the tenant that a copy was issued under (R34). -/
def State.issuedUnder (s : State) (r : CopyReq) : State := { s with h := { s.h with ctxid := r.ctxid, tid := r.tid } }

/-- Must the acceptance of a copy wait for the descriptors and the handle entries that it reads (R173)? -/
def State.entriesHeld (s : State) (r : CopyReq) : Bool :=
  let ctx := bits r.ctxid 0 16
  let entry (v : Dword) : Bool :=
    (s.seenContext ctx).any fun cd => s.pkg.physHeld ((cd.htBase + 32 * bits v 48 16) / 64 * 64) 64
  s.pkg.homesHold && (s.pkg.physHeld (s.pkg.contextAt ctx) 64 || s.pkg.physHeld (s.pkg.tenantAt (bits r.tid 0 12)) 32 ||
    entry r.dst || entry r.src)

/-- The copy of a VDQ entry taken by the engine (R264, R272, R294). -/
def acceptCopy (r : CopyReq) : M Unit := do
  await (!(← get).entriesHeld r)
  match (← get).issuedUnder r |>.judge r with
  | .error code => modify fun s => { s with h := s.h.copyError r code }
  | .ok none => pure ()
  | .ok (some (dst, src, status, graph)) =>
    let rmw := match graph with
      | some (dir, img) => (graphOf img).floatRmw dir
      | none => false
    if rmw then
      detCheck
      setNdet
    else pure ()
    modify fun s => { s with h := s.h.released }
    let s ← get
    let c : CopyRun :=
      { id := s.pkg.nextCopy, core := s.core.id, hart := s.h.ident, ctx := bits r.ctxid 0 16, tid := bits r.tid 0 12
        secure := (s.issuedUnder r).contextWorld, req := r, src := src, dst := dst, statusAt := status, graph := graph, snapshot := none
        reserve := [], reserved := [], frames := 0, written := [], done := [], failed := [], crc := BitVec.allOnes 32
        nonzero := 0, gflags := 0, dataBad := false, stopped := false, clock := s.h.clock }
    let snap ← takeSnapshot c
    modify fun s =>
      let need := match c.graph with
        | some (dir, img) => if dir = 0 then [] else s.granulesNeeded c ((graphOf img).frameBits dir)
        | none => []
      { s with pkg := { s.pkg with
          copies := s.pkg.copies ++ [{ c with snapshot := snap, reserve := need }], nextCopy := s.pkg.nextCopy + 1 } }

/-- Can the engine of the state's core take a copy now: fewer than 16 held, fewer than 16 errors pending or possible
(R265, R269), and the hart's earlier accesses performed, those held at a home included? -/
def State.engineFree (s : State) : Bool :=
  decide ((s.pkg.copies.filter (·.core == s.core.id)).length < 16) &&
  decide (s.h.copyErrs.length + (s.pkg.copies.filter fun c => c.hart == s.h.ident && c.failed.isEmpty).length < 16) &&
  s.h.sb.isEmpty && (s.mine s.h.ident).isEmpty && !s.pkg.waiting.any (·.owner == s.h.ident) && s.h.pend.isEmpty &&
  !s.pkg.held.any (·.owner == s.h.ident)

/-- Does the VDQ of a hart go on: while the hart runs, or has executed `halt`; at parking what has not started is saved
(R385)? -/
def Hart.feeds (h : Hart) : Bool := h.status == .running || h.status == .halted

/-- The head of the VDQ of the state's core taken by the engine or, for a `ccset`, performed (R264, R268). -/
def vdqHead : M Unit := do
  let s ← get
  match if s.h.feeds then s.h.vdq else [] with
  | [] => pure ()
  | .ccset cc n :: rest =>
    modify fun s => { s with
      h := (({ s.h with vdq := rest } : Hart).onCc cc fun _ => n.zeroExtend 64)
      pkg := s.pkg.recounted (counterKey s.h.ident cc) n.toNat }
  | .copy r :: rest =>
    if s.engineFree then
      modify fun s => { s with h := { s.h with vdq := rest } }
      acceptCopy r
    else pure ()
  | .insn _ :: _ => pure ()

/-- PENDING_RESERVE: the next controller's entries for a copy, where it has them free (R296). -/
def reserveNext (id : Nat) : M Unit := do
  let s ← get
  match s.pkg.copies.find? (·.id == id) with
  | none => pure ()
  | some c =>
    match c.reserve with
    | [] => pure ()
    | (home, n) :: rest =>
      let used := (s.pkg.copies.map fun k => (tableGet k.reserved home).getD 0).foldl (· + ·) 0
      if used + n ≤ 16384 then keepCopy { c with reserve := rest, reserved := c.reserved ++ [(home, n)] } else pure ()

end Sys2Proof.Machine
end

