-- ==== Sys2Proof/Machine/Scalar.lean ====
section
/-! DEFINITION. Scalar integer instructions: OP 0x01 (R109), the immediate forms (R110), multiply and divide (R111),
long constants and addresses (R120). -/

namespace Sys2Proof.Machine

/-- An instruction of one word whose whole effect is X[d] = v (R107). -/
def State.result (s : State) (d : BitVec 5) (v : Dword) : Out := .next (s.setX d v).retire

/-- A long form whose whole effect is X[d] = v: it has two words (R53). -/
def State.resultLong (s : State) (d : BitVec 5) (v : Dword) : Out := .next ((s.setX d v).jumpTo (s.h.pc + 8))

/-- The number 1 or 0 that a comparison writes. -/
def flagWord (b : Bool) : Dword := if b then 1 else 0

/-- A shift amount of the 64-bit forms (R109). -/
def shamt (v : Dword) : Nat := v.toNat % 64

/-- A shift amount of the word forms (R109). -/
def shamtW (v : Dword) : Nat := v.toNat % 32

/-- The least `n` bits counted from the top that are zero, of a number of `w` bits. -/
def leadingZeros (v w : Nat) : Nat := w - bitLength (v % 2 ^ w)

/-- The zero bits below the lowest 1 bit among `w`. -/
def trailingZeros (v w : Nat) : Nat := ((List.range w).find? v.testBit).getD w

/-- The bytes of a dword in reverse order. -/
def byteSwap (v : Dword) : Dword := BitVec.ofNat 64 (natOf (bytesOf 8 v.toNat).reverse)

/-- A 16-bit immediate sign-extended (R110). -/
def simm (i : BitVec 16) : Dword := i.signExtend 64

/-- A 16-bit immediate zero-extended (R110). -/
def zimm (i : BitVec 16) : Dword := i.zeroExtend 64

/-- A signed quotient truncated toward zero, at width `n` (R111). -/
def sdiv (n : Nat) (a b : Int) : Int :=
  if b = 0 then -1 else if a = -(2 ^ (n - 1) : Nat) ∧ b = -1 then a else a.tdiv b

/-- The remainder that goes with it, with the sign of the dividend (R111). -/
def srem (n : Nat) (a b : Int) : Int :=
  if b = 0 then a else if a = -(2 ^ (n - 1) : Nat) ∧ b = -1 then 0 else a.tmod b

/-- A natural quotient at width `n` (R111). -/
def ndiv (n a b : Nat) : Nat := if b = 0 then 2 ^ n - 1 else a / b

/-- A natural remainder (R111). -/
def nrem (a b : Nat) : Nat := if b = 0 then a else a % b

/-- Bits 127 to 64 of a product in two's complement (R111). -/
def highHalf (i : Int) : Dword := dwordOf (i / (2 ^ 64 : Nat))

/-! ### OP 0x01 -/

/-- ADD: sum modulo 2^64 (R109). -/
def execAdd (d : BitVec 5) (a : BitVec 5) (b : BitVec 5) (s : State) : Out := s.result d (s.x a + s.x b)

/-- SUB: difference modulo 2^64 (R109). -/
def execSub (d : BitVec 5) (a : BitVec 5) (b : BitVec 5) (s : State) : Out := s.result d (s.x a - s.x b)

/-- AND: bitwise AND (R109). -/
def execAnd (d : BitVec 5) (a : BitVec 5) (b : BitVec 5) (s : State) : Out := s.result d (s.x a &&& s.x b)

/-- OR: bitwise OR (R109). -/
def execOr (d : BitVec 5) (a : BitVec 5) (b : BitVec 5) (s : State) : Out := s.result d (s.x a ||| s.x b)

/-- XOR: bitwise exclusive OR (R109). -/
def execXor (d : BitVec 5) (a : BitVec 5) (b : BitVec 5) (s : State) : Out := s.result d (s.x a ^^^ s.x b)

/-- ANDN: X[a] AND NOT X[b] (R109). -/
def execAndn (d : BitVec 5) (a : BitVec 5) (b : BitVec 5) (s : State) : Out := s.result d (s.x a &&& ~~~(s.x b))

/-- ORN: X[a] OR NOT X[b] (R109). -/
def execOrn (d : BitVec 5) (a : BitVec 5) (b : BitVec 5) (s : State) : Out := s.result d (s.x a ||| ~~~(s.x b))

/-- XNOR: NOT of the exclusive OR (R109). -/
def execXnor (d : BitVec 5) (a : BitVec 5) (b : BitVec 5) (s : State) : Out := s.result d (~~~(s.x a ^^^ s.x b))

/-- SLL: shift left, zeros shifted in (R109). -/
def execSll (d : BitVec 5) (a : BitVec 5) (b : BitVec 5) (s : State) : Out := s.result d (s.x a <<< shamt (s.x b))

/-- SRL: shift right of the natural reading (R109). -/
def execSrl (d : BitVec 5) (a : BitVec 5) (b : BitVec 5) (s : State) : Out := s.result d (s.x a >>> shamt (s.x b))

/-- SRA: shift right of the signed reading, toward minus infinity (R109). -/
def execSra (d : BitVec 5) (a : BitVec 5) (b : BitVec 5) (s : State) : Out :=
  s.result d ((s.x a).sshiftRight (shamt (s.x b)))

/-- ROL: rotate left (R109). -/
def execRol (d : BitVec 5) (a : BitVec 5) (b : BitVec 5) (s : State) : Out :=
  s.result d ((s.x a).rotateLeft (shamt (s.x b)))

/-- ROR: rotate right (R109). -/
def execRor (d : BitVec 5) (a : BitVec 5) (b : BitVec 5) (s : State) : Out :=
  s.result d ((s.x a).rotateRight (shamt (s.x b)))

/-- SLT: signed less than (R109). -/
def execSlt (d : BitVec 5) (a : BitVec 5) (b : BitVec 5) (s : State) : Out :=
  s.result d (flagWord ((s.x a).slt (s.x b)))

/-- SLTN: natural less than (R109). -/
def execSltn (d : BitVec 5) (a : BitVec 5) (b : BitVec 5) (s : State) : Out :=
  s.result d (flagWord ((s.x a).ult (s.x b)))

/-- SEQ: equal (R109). -/
def execSeq (d : BitVec 5) (a : BitVec 5) (b : BitVec 5) (s : State) : Out := s.result d (flagWord (s.x a == s.x b))

/-- SNE: not equal (R109). -/
def execSne (d : BitVec 5) (a : BitVec 5) (b : BitVec 5) (s : State) : Out := s.result d (flagWord (s.x a != s.x b))

/-- MIN: signed minimum (R109). -/
def execMin (d : BitVec 5) (a : BitVec 5) (b : BitVec 5) (s : State) : Out :=
  s.result d (if (s.x a).slt (s.x b) then s.x a else s.x b)

/-- MAX: signed maximum (R109). -/
def execMax (d : BitVec 5) (a : BitVec 5) (b : BitVec 5) (s : State) : Out :=
  s.result d (if (s.x a).slt (s.x b) then s.x b else s.x a)

/-- MINN: natural minimum (R109). -/
def execMinn (d : BitVec 5) (a : BitVec 5) (b : BitVec 5) (s : State) : Out :=
  s.result d (if (s.x a).ult (s.x b) then s.x a else s.x b)

/-- MAXN: natural maximum (R109). -/
def execMaxn (d : BitVec 5) (a : BitVec 5) (b : BitVec 5) (s : State) : Out :=
  s.result d (if (s.x a).ult (s.x b) then s.x b else s.x a)

/-- CLZ: leading zero bits, 64 for zero (R109). -/
def execClz (d : BitVec 5) (a : BitVec 5) (s : State) : Out :=
  s.result d (BitVec.ofNat 64 (leadingZeros (s.x a).toNat 64))

/-- CTZ: trailing zero bits, 64 for zero (R109). -/
def execCtz (d : BitVec 5) (a : BitVec 5) (s : State) : Out :=
  s.result d (BitVec.ofNat 64 (trailingZeros (s.x a).toNat 64))

/-- POPC: the number of 1 bits (R109). -/
def execPopc (d : BitVec 5) (a : BitVec 5) (s : State) : Out :=
  s.result d (BitVec.ofNat 64 (popcount (s.x a).toNat 64))

/-- BSWAP: byte i moved to byte 7 - i (R109). -/
def execBswap (d : BitVec 5) (a : BitVec 5) (s : State) : Out := s.result d (byteSwap (s.x a))

/-- SEXT_B: sign extension of 8 bits (R109). -/
def execSextB (d : BitVec 5) (a : BitVec 5) (s : State) : Out := s.result d (((s.x a).truncate 8).signExtend 64)

/-- SEXT_H: sign extension of 16 bits (R109). -/
def execSextH (d : BitVec 5) (a : BitVec 5) (s : State) : Out := s.result d (((s.x a).truncate 16).signExtend 64)

/-- SEXT_W: sign extension of 32 bits (R109). -/
def execSextW (d : BitVec 5) (a : BitVec 5) (s : State) : Out := s.result d (((s.x a).truncate 32).signExtend 64)

/-- ZEXT_W: zero extension of 32 bits (R109). -/
def execZextW (d : BitVec 5) (a : BitVec 5) (s : State) : Out := s.result d (((s.x a).truncate 32).zeroExtend 64)

/-- ADDW: word form of add (R108, R109). -/
def execAddw (d : BitVec 5) (a : BitVec 5) (b : BitVec 5) (s : State) : Out :=
  s.result d (wordResult (sread (s.x a) 32 + sread (s.x b) 32))

/-- SUBW: word form of sub (R108, R109). -/
def execSubw (d : BitVec 5) (a : BitVec 5) (b : BitVec 5) (s : State) : Out :=
  s.result d (wordResult (sread (s.x a) 32 - sread (s.x b) 32))

/-- SLLW: word form of sll (R108, R109). -/
def execSllw (d : BitVec 5) (a : BitVec 5) (b : BitVec 5) (s : State) : Out :=
  s.result d (wordResult (nread (s.x a) 32 * 2 ^ shamtW (s.x b) : Nat))

/-- SRLW: word form of srl (R108, R109). -/
def execSrlw (d : BitVec 5) (a : BitVec 5) (b : BitVec 5) (s : State) : Out :=
  s.result d (wordResult (nread (s.x a) 32 / 2 ^ shamtW (s.x b) : Nat))

/-- SRAW: word form of sra (R108, R109). -/
def execSraw (d : BitVec 5) (a : BitVec 5) (b : BitVec 5) (s : State) : Out :=
  s.result d (wordResult (sread (s.x a) 32 / (2 ^ shamtW (s.x b) : Nat)))

/-! ### Immediate forms -/

/-- ADDI: X[a] plus the signed immediate (R110). -/
def execAddi (d : BitVec 5) (a : BitVec 5) (i : BitVec 16) (s : State) : Out := s.result d (s.x a + simm i)

/-- ANDI: X[a] AND the natural immediate (R110). -/
def execAndi (d : BitVec 5) (a : BitVec 5) (i : BitVec 16) (s : State) : Out := s.result d (s.x a &&& zimm i)

/-- ORI: X[a] OR the natural immediate (R110). -/
def execOri (d : BitVec 5) (a : BitVec 5) (i : BitVec 16) (s : State) : Out := s.result d (s.x a ||| zimm i)

/-- XORI: X[a] XOR the natural immediate (R110). -/
def execXori (d : BitVec 5) (a : BitVec 5) (i : BitVec 16) (s : State) : Out := s.result d (s.x a ^^^ zimm i)

/-- SLTI: signed comparison with the signed immediate (R110). -/
def execSlti (d : BitVec 5) (a : BitVec 5) (i : BitVec 16) (s : State) : Out :=
  s.result d (flagWord ((s.x a).slt (simm i)))

/-- SLTNI: natural comparison with the signed immediate modulo 2^64 (R110). -/
def execSltni (d : BitVec 5) (a : BitVec 5) (i : BitVec 16) (s : State) : Out :=
  s.result d (flagWord ((s.x a).ult (simm i)))

/-- LUI: the immediate times 2^16 (R110). -/
def execLui (d : BitVec 5) (i : BitVec 16) (s : State) : Out := s.result d (zimm i <<< 16)

/-- SLLI: as sll with s = n (R110). -/
def execSlli (d : BitVec 5) (a : BitVec 5) (n : BitVec 6) (s : State) : Out := s.result d (s.x a <<< n.toNat)

/-- SRLI: as srl with s = n (R110). -/
def execSrli (d : BitVec 5) (a : BitVec 5) (n : BitVec 6) (s : State) : Out := s.result d (s.x a >>> n.toNat)

/-- SRAI: as sra with s = n (R110). -/
def execSrai (d : BitVec 5) (a : BitVec 5) (n : BitVec 6) (s : State) : Out :=
  s.result d ((s.x a).sshiftRight n.toNat)

/-- RORI: as ror with s = n (R110). -/
def execRori (d : BitVec 5) (a : BitVec 5) (n : BitVec 6) (s : State) : Out :=
  s.result d ((s.x a).rotateRight n.toNat)

/-- SLLIW: as sllw with s = n (R110). -/
def execSlliw (d : BitVec 5) (a : BitVec 5) (n : BitVec 5) (s : State) : Out :=
  s.result d (wordResult (nread (s.x a) 32 * 2 ^ n.toNat : Nat))

/-- SRLIW: as srlw with s = n (R110). -/
def execSrliw (d : BitVec 5) (a : BitVec 5) (n : BitVec 5) (s : State) : Out :=
  s.result d (wordResult (nread (s.x a) 32 / 2 ^ n.toNat : Nat))

/-- SRAIW: as sraw with s = n (R110). -/
def execSraiw (d : BitVec 5) (a : BitVec 5) (n : BitVec 5) (s : State) : Out :=
  s.result d (wordResult (sread (s.x a) 32 / (2 ^ n.toNat : Nat)))

/-! ### Multiply and divide -/

/-- MUL: the low 64 bits of the product (R111). -/
def execMul (d : BitVec 5) (a : BitVec 5) (b : BitVec 5) (s : State) : Out := s.result d (s.x a * s.x b)

/-- MULH: the high 64 bits, signed by signed (R111). -/
def execMulh (d : BitVec 5) (a : BitVec 5) (b : BitVec 5) (s : State) : Out :=
  s.result d (highHalf ((s.x a).toInt * (s.x b).toInt))

/-- MULHN: the high 64 bits, natural by natural (R111). -/
def execMulhn (d : BitVec 5) (a : BitVec 5) (b : BitVec 5) (s : State) : Out :=
  s.result d (highHalf ((s.x a).toNat * (s.x b).toNat))

/-- MULHSN: the high 64 bits, signed by natural (R111). -/
def execMulhsn (d : BitVec 5) (a : BitVec 5) (b : BitVec 5) (s : State) : Out :=
  s.result d (highHalf ((s.x a).toInt * (s.x b).toNat))

/-- DIV: signed quotient (R111). -/
def execDiv (d : BitVec 5) (a : BitVec 5) (b : BitVec 5) (s : State) : Out :=
  s.result d (dwordOf (sdiv 64 (s.x a).toInt (s.x b).toInt))

/-- DIVN: natural quotient (R111). -/
def execDivn (d : BitVec 5) (a : BitVec 5) (b : BitVec 5) (s : State) : Out :=
  s.result d (BitVec.ofNat 64 (ndiv 64 (s.x a).toNat (s.x b).toNat))

/-- REM: signed remainder (R111). -/
def execRem (d : BitVec 5) (a : BitVec 5) (b : BitVec 5) (s : State) : Out :=
  s.result d (dwordOf (srem 64 (s.x a).toInt (s.x b).toInt))

/-- REMN: natural remainder (R111). -/
def execRemn (d : BitVec 5) (a : BitVec 5) (b : BitVec 5) (s : State) : Out :=
  s.result d (BitVec.ofNat 64 (nrem (s.x a).toNat (s.x b).toNat))

/-- MULW: word form of mul (R111). -/
def execMulw (d : BitVec 5) (a : BitVec 5) (b : BitVec 5) (s : State) : Out :=
  s.result d (wordResult (sread (s.x a) 32 * sread (s.x b) 32))

/-- DIVW: word form of div (R111). -/
def execDivw (d : BitVec 5) (a : BitVec 5) (b : BitVec 5) (s : State) : Out :=
  s.result d (wordResult (sdiv 32 (sread (s.x a) 32) (sread (s.x b) 32)))

/-- DIVNW: word form of divn (R111). -/
def execDivnw (d : BitVec 5) (a : BitVec 5) (b : BitVec 5) (s : State) : Out :=
  s.result d (wordResult (ndiv 32 (nread (s.x a) 32) (nread (s.x b) 32) : Nat))

/-- REMW: word form of rem (R111). -/
def execRemw (d : BitVec 5) (a : BitVec 5) (b : BitVec 5) (s : State) : Out :=
  s.result d (wordResult (srem 32 (sread (s.x a) 32) (sread (s.x b) 32)))

/-- REMNW: word form of remn (R111). -/
def execRemnw (d : BitVec 5) (a : BitVec 5) (b : BitVec 5) (s : State) : Out :=
  s.result d (wordResult (nrem (nread (s.x a) 32) (nread (s.x b) 32) : Nat))

/-! ### Long constants and addresses -/

/-- LIM: the 32-bit immediate sign-extended (R120). -/
def execLim (d : BitVec 5) (i : BitVec 32) (s : State) : Out := s.resultLong d (i.signExtend 64)

/-- LEA: PC plus the 32-bit immediate sign-extended (R120). -/
def execLea (d : BitVec 5) (i : BitVec 32) (s : State) : Out := s.resultLong d (s.h.pc + i.signExtend 64)

end Sys2Proof.Machine
end

