-- ==== Sys2Proof/Machine/ScalarMem.lean ====
section
/-! DEFINITION. Scalar loads and stores (R216), acquire and release (R227), fences and drains (R236 to R238), timed
scalar forms (R228). -/

namespace Sys2Proof.Machine

/-- The bytes of a load's size code (R62). -/
def loadSize (s : Nat) : Nat := if s < 4 then 2 ^ s else 2 ^ (s - 4)

/-- What a load writes: sign-extended for .b .h .w, else zero-extended (R216). -/
def loadValue (s : Nat) (bs : List Byte) : Dword :=
  if s < 4 then dwordOf (signExtend (natOf bs) (8 * loadSize s)) else BitVec.ofNat 64 (natOf bs)

/-- The address of format M: base plus the scaled offset (R55, R216). -/
def addrM (base : Dword) (o : BitVec 11) (n : Nat) : Dword := base + o.signExtend 64 * BitVec.ofNat 64 n

/-- No accst or accsave older than a scalar load or amo is left in the VDQ (R221). -/
def awaitPlaced : M Unit := do await (!(← get).h.placing)

/-- No accld or accrest older than an atomic or a reduction is left in the VDQ: what these write it does not read (R193). -/
def awaitRead : M Unit := do
  let s ← get
  await (!s.h.rowsBefore (s.h.instret + 1))

/-- A scalar load of size code `s` (R216), an acquire where `scope` is one (R227): performed at once, or sent to its
home, which the hart waits for (R188, R217). -/
def loadScalar (scope : Option Nat) (d : BitVec 5) (s : Nat) (va : Dword) : M Unit := do
  awaitPlaced
  let n := loadSize s
  match ← leavingLoad false va va.toNat n with
  | [] =>
    let bs ← loadBytes scope va va.toNat n
    writeX d (loadValue s bs)
  | ts => sendLoad scope va n (if s < 4 then .sx d.toNat n else .x d.toNat) ts

/-- A plain scalar load (R216). -/
def loadPlain (d : BitVec 5) (s : Nat) (va : Dword) : M Unit := loadScalar none d s va

/-- A plain scalar store, into the store buffer (R216, R218). -/
def storePlain (va : Dword) (n : Nat) (v : Dword) : M Unit := queueStore va n v .plain

/-- LD: a plain load; the hint has no effect (R216, R74). -/
def execLd (d : BitVec 5) (a : BitVec 5) (o : BitVec 11) (s' : BitVec 3) (_h : BitVec 2) (s : State) : Out :=
  finish (loadPlain d s'.toNat (addrM (s.x a) o (loadSize s'.toNat))) s

/-- ST: a plain store (R216). -/
def execSt (d : BitVec 5) (a : BitVec 5) (o : BitVec 11) (s' : BitVec 2) (_h : BitVec 2) (s : State) : Out :=
  finish (storePlain (addrM (s.x a) o (2 ^ s'.toNat)) (2 ^ s'.toNat) (s.x d)) s

/-- LDX: a plain load at X[a] + X[b] (R216). -/
def execLdx (d : BitVec 5) (a : BitVec 5) (b : BitVec 5) (s' : BitVec 3) (s : State) : Out :=
  finish (loadPlain d s'.toNat (s.x a + s.x b)) s

/-- STX: a plain store at X[a] + X[b] (R216). -/
def execStx (d : BitVec 5) (a : BitVec 5) (b : BitVec 5) (s' : BitVec 2) (s : State) : Out :=
  finish (storePlain (s.x a + s.x b) (2 ^ s'.toNat) (s.x d)) s

/-- An acquire load of 2^z bytes (R227): aligned, and zero-extended. -/
def loadAcquire (d : BitVec 5) (scope z : Nat) (va : Dword) : M Unit := do
  trapIf (va.toNat % 2 ^ z != 0) causeLoadMisaligned va
  loadScalar (some scope) d (z + 4) va

/-- A release store (R227): a misaligned one faults at once (R215). -/
def storeRelease (scope n : Nat) (va v : Dword) : M Unit := do
  trapIf (va.toNat % n != 0) causeStoreFault va
  queueStore va n v (.release scope)

/-- LD_ACQ: an acquire load (R227). -/
def execLdAcq (d : BitVec 5) (a : BitVec 5) (s' : BitVec 5) (z : BitVec 2) (s : State) : Out :=
  finish (loadAcquire d s'.toNat z.toNat (s.x a)) s

/-- ST_REL: a release store (R227). -/
def execStRel (d : BitVec 5) (a : BitVec 5) (s' : BitVec 5) (z : BitVec 2) (s : State) : Out :=
  finish (storeRelease s'.toNat (2 ^ z.toNat) (s.x a) (s.x d)) s

/-! ### Fences and drains -/

/-- Loads before the fence that read a release synchronise at its scope (R199). -/
def fenceAcquire (scope : Nat) : M Unit := modify fun s => s.acquireOf scope s.h.observed

/-- What a fence of kind rel, ar or sc waits for: everything earlier has performed, batches are acknowledged (R199,
R236). -/
def awaitFence : M Unit := do
  await ((← get).h.pend.isEmpty)
  awaitAcknowledged

/-- The next store after a fence of kind rel, ar or sc releases at its scope, beside those of the fences before it since the
last store (R199). -/
def fenceRelease (scope : Nat) : M Unit := modify fun s => { s with h := { s.h with armed := setInsert s.h.armed scope } }

/-- What a fence of kind acq does: the buffer is empty, earlier loads, atomics and reductions have performed, and the misses
of earlier timed stores, which have arrived, are in TLATE (R199, R236, R252). -/
def fenceLoads (scope : Nat) : M Unit := do
  awaitBuffer
  let s ← get
  let id := s.h.ident
  let timed (m : Msg) : Bool := match m.body with
    | .timed _ => true
    | .reduce _ => true
    | _ => false
  await (s.h.pend.isEmpty && !(s.mine id).any timed && !s.pkg.waiting.any (·.owner == id) &&
    !s.pkg.resps.any (·.owner == id))
  fenceAcquire scope

/-- Every earlier return-free and ordered reduction of the hart has been applied and acknowledged (R238). -/
def awaitReductions : M Unit := do
  let s ← get
  let id := s.h.ident
  let red (b : MsgBody) : Bool := match b with
    | .reduce _ => true
    | .timed t => t.ordered
    | _ => false
  await (!((s.mine id).any fun m => red m.body) && !(s.pkg.waiting.any fun t => t.owner == id && t.ordered) &&
    !(s.pkg.held.any fun t => t.owner == id && t.ordered) && !(s.pkg.resps.any (·.owner == id)))

/-- FENCE_ACQ: a fence of kind acq (R199, R236). -/
def execFenceAcq (s' : BitVec 5) (s : State) : Out := finish (fenceLoads s'.toNat) s

/-- FENCE_REL: a fence of kind rel (R199, R236). -/
def execFenceRel (s' : BitVec 5) (s : State) : Out := finish (do awaitFence; fenceRelease s'.toNat) s

/-- FENCE_AR: a fence of kind ar (R199, R236). -/
def execFenceAr (s' : BitVec 5) (s : State) : Out :=
  finish (do awaitFence; fenceAcquire s'.toNat; fenceRelease s'.toNat) s

/-- FENCE_SC: a fence of kind sc (R199, R236). -/
def execFenceSc (s' : BitVec 5) (s : State) : Out :=
  finish (do awaitFence; fenceAcquire s'.toNat; fenceRelease s'.toNat) s

/-- SDRAIN: the store buffer is empty (R237). -/
def execSdrain (s : State) : Out := finish awaitBuffer s

/-- A release at a scope for the hart's reductions (R238): at the bytes of each of them that has been applied, what the
hart has done is left for acquires at that scope. -/
def State.releaseReductions (s : State) (scope : Nat) : State :=
  let h := s.h.released
  let mine (r : Released) : Bool := r.hart == h.ident && r.scope == reducedScope
  let p := s.pkg
  let p := { p with released := p.released.map fun r => if mine r then { r with scope := scope, clock := h.clock } else r }
  { s with h := h, pkg := p }

/-- RFENCE: every earlier reduction has been applied; then a release for them at its scope (R238). -/
def execRfence (s' : BitVec 5) (s : State) : Out :=
  finish (do awaitReductions; modify (·.releaseReductions s'.toNat)) s

/-! ### Timed forms -/

/-- A timed store (R228): into the store buffer with its time, scope and guard. -/
def storeTimed (scope n : Nat) (va time v : Dword) : M Unit := do
  trapIf (va.toNat % n != 0) causeStoreFault va
  let s ← get
  queueStore va n v (.timed scope time.toNat (guardOf s.h.tguard scope))

/-- The guard of a timed load, by where its home lies (R244). -/
def State.loadGuard (s : State) (loc : Nat) : Nat :=
  let dst := dstOf loc
  if 4 ≤ dst then bits s.h.tguard 32 16 else if dst = dieOfCore s.core.id then bits s.h.tguard 0 16 else bits s.h.tguard 16 16

/-- A timed load sent to its home (R228): its destination is held until the response. -/
def sendTimedLoad (f : Nat) (val va : Dword) (elem n time : Nat) (dest : Dest) : M Unit := do
  awaitPlaced
  let s ← get
  await (!(s.h.sb.any fun e => !e.isTimed && e.overlaps va.toNat n))
  let t ← resolve s.who .load f val va.toNat
  noHost t f val
  let s ← get
  await (s.clearOf s.h.ident t.loc n)
  let tag := s.pkg.tags
  let op := s.timed s.h.hartid s.h.instret.toNat s.issuedAt t va elem time (s.loadGuard t.loc) (.load n dest tag) false []
  let s := s.send (s.message (BitVec.ofNat 12 s.who.tid) (dstOf t.loc) va (.timed op))
  set { s with h := { s.h with pend := s.h.pend ++ [(tag, dest)] }, pkg := { s.pkg with tags := tag + 1 } }

/-- A timed scalar load (R228). -/
def loadTimed (d : BitVec 5) (n : Nat) (va time : Dword) : M Unit := do
  trapIf (va.toNat % n != 0) causeLoadMisaligned va
  sendTimedLoad causeLoadFault va va 0 n time.toNat (.x d.toNat)

/-- ST_AT: a timed store (R228). -/
def execStAt (d : BitVec 5) (a : BitVec 5) (b : BitVec 5) (s' : BitVec 4) (z : BitVec 2) (s : State) : Out :=
  finish (storeTimed s'.toNat (2 ^ z.toNat) (s.x a) (s.x b) (s.x d)) s

/-- LD_NB: a timed load (R228). -/
def execLdNb (d : BitVec 5) (a : BitVec 5) (b : BitVec 5) (z : BitVec 2) (s : State) : Out :=
  finish (loadTimed d (2 ^ z.toNat) (s.x a) (s.x b)) s

end Sys2Proof.Machine
end

