-- ==== Sys2Proof/Machine/Copies.lean ====
section
/-! DEFINITION. Copies (R262), counter control (R268), the binding of stream graphs (R297, R298), and the events of the
copy engine (R264 to R269, R282, R296). -/

namespace Sys2Proof.Machine

/-- A copy enters the VDQ with its registers and its index vector, which no vector instruction ahead still writes (R261,
R107). While DET = 1 a copy that names a
stream is taken by the engine at once, so that the trap of R272 is precise. -/
def copy (form : Nat) (a b c : BitVec 5) (n : BitVec 4) (stream : Bool) : M Unit := do
  let s ← get
  await (decide (s.h.vdq.length < 32))
  let s0 := s.x c
  let indexed := form == 2 || form == 3 || form == 6
  let noInsn := s.h.vdq.all fun e => match e with
    | .insn _ => false
    | _ => true
  await (!indexed || (s.vFree && noInsn))
  let index := if indexed then (List.range (min 256 (bits s0 32 16))).map (s.elem (bits s0 56 5) 32) else []
  let r : CopyReq := ⟨form, s.x a, s.x b, s0, s.x (c + 1), index, n.toNat, stream, s.h.pc, s.h.ctxid, s.h.tid⟩
  if stream && bit s.h.fcsr 20 then
    awaitVdq
    await s.engineFree
    acceptCopy r
  else modify fun s => { s with h := { s.h with vdq := s.h.vdq ++ [.copy r] } }

/-- CPY: a copy of BYTES bytes (R262). -/
def execCpy (a : BitVec 5) (b : BitVec 5) (c : BitVec 5) (n : BitVec 4) (_h : BitVec 2) (x : BitVec 2) (s : State) : Out :=
  finish (allOrNothing (copy 0 a b c n (x == 1))) s

/-- CPY2: a copy of ROWS rows (R262). -/
def execCpy2 (a : BitVec 5) (b : BitVec 5) (c : BitVec 5) (n : BitVec 4) (_h : BitVec 2) (x : BitVec 2) (s : State) : Out :=
  finish (allOrNothing (copy 1 a b c n (x == 1))) s

/-- CPYX_G: a gather by an index vector (R262). -/
def execCpyxG (a : BitVec 5) (b : BitVec 5) (c : BitVec 5) (n : BitVec 4) (_h : BitVec 2) (s : State) : Out :=
  finish (copy 2 a b c n false) s

/-- CPYX_S: a scatter by an index vector (R262). -/
def execCpyxS (a : BitVec 5) (b : BitVec 5) (c : BitVec 5) (n : BitVec 4) (_h : BitVec 2) (s : State) : Out :=
  finish (copy 3 a b c n false) s

/-- CPY_M: cpy with a chunk mask (R262). -/
def execCpyM (a : BitVec 5) (b : BitVec 5) (c : BitVec 5) (n : BitVec 4) (_h : BitVec 2) (x : BitVec 2) (s : State) : Out :=
  finish (allOrNothing (copy 4 a b c n (x == 1))) s

/-- CPY2_M: cpy2 with a chunk mask (R262). -/
def execCpy2M (a : BitVec 5) (b : BitVec 5) (c : BitVec 5) (n : BitVec 4) (_h : BitVec 2) (x : BitVec 2) (s : State) : Out :=
  finish (allOrNothing (copy 5 a b c n (x == 1))) s

/-- CPYX_G_M: a gather with a chunk mask (R262). -/
def execCpyxGM (a : BitVec 5) (b : BitVec 5) (c : BitVec 5) (n : BitVec 4) (_h : BitVec 2) (s : State) : Out :=
  finish (copy 6 a b c n false) s

/-! ### Counters (R268) -/

/-- COUNT has reached `n`, or the counter's copies have ended with an error (R268). -/
def State.ccReached (s : State) (cc : Nat) (n : Nat) : Bool :=
  let v := s.h.cc.getD cc 0
  decide ((bits v 0 32 + 2 ^ 32 - n) % 2 ^ 32 < 2 ^ 31) ||
  (bit v 32 && !s.pkg.copies.any fun c => c.hart == s.h.ident && c.req.cc == cc)

/-- CCWAIT (R209, R268). -/
def waitCounter (cc n : Nat) : M Unit := do
  awaitVdq
  await ((← get).ccReached cc n)
  modify fun s => s.acquireCounter cc n

/-- CCRD (R29, R268). -/
def readCounter (a : BitVec 5) (cc : Nat) : M Unit := do
  awaitVdq
  modify fun s => s.setX a (s.h.cc.getD cc 0)

/-- CCSET enters the VDQ (R268). -/
def setCounter (cc : Nat) (v : Dword) : M Unit := do
  await (decide ((← get).h.vdq.length < 32))
  modify fun s => { s with h := { s.h with vdq := s.h.vdq ++ [.ccset cc (BitVec.ofNat 32 v.toNat)] } }

/-- CCWAIT: a wait for the count (R268). -/
def execCcwait (b : BitVec 5) (n : BitVec 4) (_h : BitVec 2) (s : State) : Out :=
  finish (waitCounter n.toNat (bits (s.x b) 0 32)) s

/-- CCRD: the counter read (R268). -/
def execCcrd (a : BitVec 5) (n : BitVec 4) (_h : BitVec 2) (s : State) : Out := finish (readCounter a n.toNat) s

/-- CCSET: the counter set, in the VDQ (R268). -/
def execCcset (b : BitVec 5) (n : BitVec 4) (_h : BitVec 2) (s : State) : Out := finish (setCounter n.toNat (s.x b)) s

/-! ### Binding (R297, R298) -/

/-- The stream table of a context without stream `sid`. -/
def Pkg.unbound (p : Pkg) (ctx sid : Nat) : List (Nat × Nat × Bool × BitVec 2048) :=
  ((tableGet p.streams ctx).getD []).filter fun e => e.1 != sid

/-- SGBIND (R297). -/
def bindStream (sid dir : Nat) (va : Dword) : M Unit := do
  awaitVdq
  trapIf (va.toNat % 256 != 0) causeLoadMisaligned va
  let bs ← (List.range 32).mapM fun i =>
    let a := va + BitVec.ofNat 64 (8 * i)
    loadBytes none a a.toNat 8
  let img := BitVec.ofNat 2048 (natOf bs.flatten)
  let s ← get
  trapIf (!(graphOf img).valid dir) causeCopy (BitVec.ofNat 64 (bits s.h.pc 0 48 + sid * 2 ^ 48 + 5 * 2 ^ 52))
  modify fun s =>
    let ctx := bits s.h.ctxid 0 16
    { s with pkg := { s.pkg with streams := tableSet s.pkg.streams ctx ((sid, dir, s.contextWorld, img) :: s.pkg.unbound ctx sid) } }

/-- SGUNBIND (R298). -/
def unbindStream (sid : Nat) : M Unit := do
  awaitVdq
  modify fun s =>
    let ctx := bits s.h.ctxid 0 16
    { s with pkg := { s.pkg with streams := tableSet s.pkg.streams ctx (s.pkg.unbound ctx sid) } }

/-- SGBIND: an image bound to a stream (R297). -/
def execSgbind (a : BitVec 5) (s' : BitVec 4) (_h : BitVec 2) (x : BitVec 2) (s : State) : Out :=
  finish (allOrNothing (bindStream s'.toNat x.toNat (s.x a))) s

/-- SGUNBIND: a stream unbound (R298). -/
def execSgunbind (s' : BitVec 4) (_h : BitVec 2) (s : State) : Out := finish (unbindStream s'.toNat) s

/-! ### Events -/

/-- COPY_ACCEPT: the engine of a core takes the head of its VDQ (R264, R265); while the die's clock stands still it does not. -/
def execEvCopyAccept (core : Nat) (s : State) : Out := s.atCore core (allOrNothing vdqHead)

/-- PENDING_RESERVE: the next controller's pending entries reserved (R296). -/
def execEvPendingReserve (copy : Nat) (s : State) : Out := finishAt (reserveNext copy) s

/-- GRAPH_FRAME: a frame evaluated (R282). -/
def execEvGraphFrame (copy : Nat) (s : State) : Out := finishAt (allOrNothing (graphFrame copy)) s

/-- CHUNK_COMPLETE: a chunk performed and counted (R267). -/
def execEvChunkComplete (copy : Nat) (chunk : Nat) (s : State) : Out :=
  finishAt (allOrNothing (chunkComplete copy chunk)) s

end Sys2Proof.Machine
end

