-- ==== Sys2Proof/Machine/Subs.lean ====
section
/-! DEFINITION. Subscriptions (R273 to R279): sub, unsub, subflush, and a batch that has been open long enough. -/

namespace Sys2Proof.Machine

/-- The bytes of a hart's window: its private scratchpad, or its gang's partition (R49). -/
def State.windowSize (s : State) (h : Hart) (cluster : Bool) : Nat :=
  if cluster then ((s.gang? h.gang).map Gang.partSize).getD 0 else privateSize

/-- The window and offset of a local base, where `len` bytes from it lie in one window (R49, R274). -/
def State.localRegion (s : State) (va : Dword) (len : Nat) : Option (Bool × Nat) :=
  match windowOf s.h (s.gang? s.h.gang) va.toNat with
  | .spot (.priv _ off) => if off + len ≤ privateSize then some (false, off) else none
  | .spot (.part _ off) => if off + len ≤ s.windowSize s.h true then some (true, off) else none
  | _ => none

/-- The harts of the package, resident and parked, that have not ended. -/
def State.harts (s : State) : List Hart :=
  (s.cores.map (·.2)).filter (fun h => h.present && h.status != .exited) ++
  s.pkg.gangs.flatMap fun g => g.saved.filter fun h => h.status != .exited

/-- The subscriber's own checks (R274): BUSY and the parts of RANGE that concern its operands. -/
def State.subOwn (s : State) (e : Nat) (a b c : Dword) : Nat :=
  let len := c.toNat
  let clear (cluster : Bool) (off : Nat) : Bool := s.h.subs.toList.all fun x => match x with
    | some y => y.cluster != cluster || decide (y.off + y.len ≤ off) || decide (off + len ≤ y.off)
    | none => true
  if (s.h.subs.getD e none).isSome then 1
  else if a.toNat % 64 != 0 || len % 64 != 0 || decide (len < 64) || decide (65536 < len) then 2
  else match s.localRegion a len with
    | none => 2
    | some (cluster, off) => if !clear cluster off || bits b 0 22 % 64 != 0 || bit b 23 || bits b 59 5 != 0 then 2 else 0

/-- The publish entry of a publisher that a subscription of this region joins or takes; none when it is full (R274). -/
def Hart.pubFor (h : Hart) (cluster : Bool) (off len : Nat) : Option Nat :=
  let same (e : Option PubEntry) : Bool := (e.map fun e => e.cluster == cluster && e.off == off && e.len == len).getD false
  match h.pubs.toList.findIdx? same with
  | some i => if 8 ≤ (((h.pubs.getD i none).map (·.subs.length)).getD 0) then none else some i
  | none => h.pubs.toList.findIdx? Option.isNone

/-- A subscriber added to a publish entry. -/
def Hart.addSubscriber (i : Nat) (cluster : Bool) (off len : Nat) (sub : Subscriber) (h : Hart) : Hart :=
  let e := match h.pubs.getD i none with
    | some e => { e with subs := e.subs ++ [sub] }
    | none => ⟨cluster, off, len, [sub]⟩
  { h with pubs := h.pubs.setIfInBounds i (some e) }

/-- A byte of a hart's window. -/
def Hart.spot (h : Hart) (cluster : Bool) (off : Nat) : Spot := if cluster then .part h.gang off else .priv h.ident off

/-- The published region read for a snapshot (R274), in units of 8 bytes with the poison of each (R396); its homes owe nothing
that is due. -/
def readRegion (pub : Hart) (cluster : Bool) (off n : Nat) : M (List (List Byte × Bool)) :=
  (List.range n).mapM fun i => do
    awaitSpot (pub.spot cluster (off + 8 * i))
    readSpot (pub.spot cluster (off + 8 * i)) 8

/-- The snapshot of `n` units of 8 bytes (R274): all of the published region is read, as one instant's contents,
before any of it is written into the copy. -/
def snapshot (pub me : Hart) (cluster : Bool) (off : Nat) (mine : Bool) (at_ n : Nat) : M Unit := do
  let gs ← readRegion pub cluster off n
  (List.range n).forM fun i => do
    awaitSpot (me.spot mine (at_ + 8 * i))
    let g := gs.getD i ([], false)
    writeSpot (me.spot mine (at_ + 8 * i)) g.1 g.2

/-- SUB (R274). -/
def subscribe (e : Nat) (a b c : Dword) : M Unit := do
  awaitVdq
  let s ← get
  let own := s.subOwn e a b c
  trapIf (own != 0) causeSub (BitVec.ofNat 64 own)
  let id := bits b 24 35
  let cluster := bit b 22
  let off := bits b 0 22
  let len := c.toNat
  match s.harts.find? (fun h => h.hartid == id), s.localRegion a len with
  | some pub, some (mine, at_) =>
    trapIf (pub.hartid == s.h.hartid) causeSub 3
    trapIf (bits pub.tid 0 12 != bits s.h.tid 0 12 || pub.poolSecure != s.h.poolSecure) causeSub 5
    trapIf (decide (s.windowSize pub cluster < off + len)) causeSub 2
    match pub.pubFor cluster off len with
    | none => trapOf causeSub 4
    | some i =>
      snapshot pub s.h cluster off mine at_ (len / 8)
      orStop fun s => s.onHart pub.ident (Hart.addSubscriber i cluster off len ⟨s.h.ident, e, none, false⟩)
      modify fun s => { s with h := { s.h with
        subs := s.h.subs.setIfInBounds e (some ⟨mine, at_, len, pub.ident, cluster, off⟩) } }
  | _, _ => trapOf causeSub 3

/-- UNSUB of subscribe entry `e` (R275): the publisher sends the open batch and forwards nothing more to it; both entries
end once no update is on its way. -/
def unsubscribe (e : Nat) : M Unit := do
  match (← get).h.subs.getD e none with
  | none => pure ()
  | some y =>
    let me := (← get).h.ident
    orStop fun s => s.unlinkSub me e y
    if (← get).updatesTo me e then again
    else orStop fun s => s.clearSub me e y

/-- UNSUB.PUB of publish entry `e` (R275). -/
def unpublish (e : Nat) : M Unit := do
  match (← get).h.pubs.getD e none with
  | none => pure ()
  | some y =>
    let me := (← get).h.ident
    orStop fun s => s.flushBatches me fun i _ => i == e
    if (← get).updatesOf y then again
    else orStop fun s => s.clearPub me e y

/-- SUBFLUSH (R277). -/
def flushUpdates : M Unit := do
  awaitVdq
  awaitBuffer
  let s ← get
  if s.h.openBatches then
    orStop fun s => s.flushBatches s.h.ident fun _ _ => true
    again
  else await (!s.updatesOut s.h.ident)

/-- A batch that has been open for 32 memory-side cycles is sent (R276). -/
def batchTimeout (entry subscriber : Nat) : M Unit := do
  let s ← get
  match (s.h.pubs.getD entry none).bind fun e => e.subs[subscriber]? with
  | some sub =>
    match sub.batch with
    | some b =>
      if b.since + nanoseconds 20 ≤ s.pkg.time then
        orStop fun s => s.flushBatches s.h.ident fun i x => i == entry && x.hart == sub.hart && x.entry == sub.entry
      else pure ()
    | none => pure ()
  | none => pure ()

/-- SUBSCRIBE: a subscription (R274). -/
def execSubscribe (a : BitVec 5) (b : BitVec 5) (c : BitVec 5) (e : BitVec 4) (_h : BitVec 2) (s : State) : Out :=
  finish (allOrNothing (subscribe e.toNat (s.x a) (s.x b) (s.x c))) s

/-- UNSUB: a subscription of the hart removed (R275). -/
def execUnsub (e : BitVec 4) (_h : BitVec 2) (s : State) : Out := finish (unsubscribe e.toNat) s

/-- UNSUB_PUB: a published region of the hart withdrawn (R275). -/
def execUnsubPub (e : BitVec 4) (_h : BitVec 2) (s : State) : Out := finish (unpublish e.toNat) s

/-- SUBFLUSH: every open batch sent and acknowledged (R277). -/
def execSubflush (_h : BitVec 2) (s : State) : Out := finish flushUpdates s

/-- BATCH_TIMEOUT: a batch open for 20 ns is sent (R276); the subscription agent runs on the memory side's clock. -/
def execEvBatchTimeout (core : Nat) (entry : Nat) (subscriber : Nat) (s : State) : Out :=
  (if 1536 ≤ core then .next s else match finishAt (batchTimeout entry subscriber) (s.focus core) with | .next t => .next (t.focus s.core.id) | o => o)

end Sys2Proof.Machine
end

