-- ==== Sys2Proof/Machine/Barrier.lean ====
section
/-! DEFINITION. Barriers: gang, local and spanning groups (R324 to R331). -/

namespace Sys2Proof.Machine

/-! ### A hart's counters (R325) -/

/-- ARR of a group: 0 to 31 local, 32 to 47 spanning, 48 the gang's. -/
def Hart.arr (h : Hart) (i : Nat) : Nat := (h.bar.getD i 0).toNat % 4
/-- WT of a group. -/
def Hart.wt (h : Hart) (i : Nat) : Nat := (h.bar.getD i 0).toNat / 4 % 4
/-- A hart with ARR advanced. -/
def Hart.arrived (i : Nat) (h : Hart) : Hart :=
  { h with bar := h.bar.setIfInBounds i (BitVec.ofNat 8 ((h.arr i + 1) % 4 + 4 * h.wt i)) }
/-- A hart with WT advanced. -/
def Hart.waited (i : Nat) (h : Hart) : Hart :=
  { h with bar := h.bar.setIfInBounds i (BitVec.ofNat 8 (h.arr i + 4 * ((h.wt i + 1) % 4))) }

/-- The phase that an arrival is toward, counted from the group's completed phases. -/
def phaseOf (phases arr : Nat) : Nat := phases + (arr + 4 - phases % 4) % 4

/-- Is phase WT complete (R325)? -/
def phaseDone (phases wt : Nat) : Bool := (phases + 4 - wt) % 4 != 0

/-- The completed phase that WT names. -/
def phaseBack (phases wt : Nat) : Nat := phases - (phases + 4 - wt) % 4

/-- What the arrivals of a phase have released, joined with one more. -/
def joinPhase (t : List (Nat × List (Nat × Nat))) (q : Nat) (c : List (Nat × Nat)) : List (Nat × List (Nat × Nat)) :=
  tableSet t q (clockJoin ((tableGet t q).getD []) c)

/-- The clocks of the phases that a hart may still wait for. -/
def recentClocks (t : List (Nat × List (Nat × Nat))) (phases : Nat) : List (Nat × List (Nat × Nat)) :=
  t.filter fun e => decide (phases ≤ e.1 + 4)

/-- Does the port of its cluster admit the barrier input of the hart of the state (R368)? -/
def State.portOpen (s : State) : Bool :=
  let c := clusterOfCore s.core.id
  s.pkg.tenantOf (c / 48) (c % 48) == bits s.h.tid 0 12

/-- A barrier input that the port of the cluster refuses: a TENANT_DROP event, and no arrival is recorded (R369). ARR of the
hart advances all the same, and the event's address is the number of the group (log 89). -/
def State.inputDrop (s : State) (i : Nat) : State :=
  { s with pkg := s.pkg.tenantDrop (dieOfCore s.core.id) (8 * clusterOfCore s.core.id) (bits s.h.tid 0 12) i }

/-- The waits of an instruction whose checks are made once: a hart that has to wait stands at it. -/
def standing (m : M Unit) : M Unit := fun s =>
  let stand (t : State) : State := { t with h := { t.h with atWait := true } }
  match m s with
  | .error .wait => if s.h.atWait then .error .wait else .error (.again (stand s))
  | .error (.again t) => .error (.again (stand t))
  | r => r

/-- The waits of an arrive (R325): the VDQ empty, and every earlier access acknowledged. -/
def arriveWaits : M Unit := do
  awaitVdq
  awaitAcknowledged
  let s ← get
  await (s.h.pend.isEmpty && !s.pkg.resps.any (·.owner == s.h.ident))

/-- The checks of an arrive (R325, R326), made once, before it waits: the member, the lead; then its waits and its
release. -/
def arriveReady (word i : Nat) (member : Bool) : M Unit := do
  let s ← get
  if (!member && !s.h.atWait) || (s.h.arr i + 4 - s.h.wt i) % 4 == 3 then illegal word else pure ()
  standing arriveWaits
  modify fun s => { s with h := { s.h.released with atWait := false } }

/-- The checks of a wait (R325, R326), made once, before the hart waits. -/
def waitReady (word i : Nat) (member : Bool) : M Unit := do
  let s ← get
  if (!member && !s.h.atWait) || s.h.arr i == s.h.wt i then illegal word else pure ()

/-- A hart waits at a barrier until the condition holds; a wait has no timeout (R318, R325). -/
def waitUntil (b : Bool) : M Unit := do
  if b then modify fun s => { s with h := { s.h with atWait := false } }
  else if (← get).h.atWait then hold
  else
    modify fun s => { s with h := { s.h with atWait := true } }
    again

/-- Has the edge of a completed phase passed, at which the members leave together (R324, R327)? -/
def edgeDone (doneAt : List (Nat × Nat)) (q now : Nat) : Bool := (tableGet doneAt q).all (· < now)

/-! ### The gang barrier -/

/-- BARR.ARRIVE.GANG (R325, R327). -/
def arriveGang (word : Nat) : M Unit := do
  arriveReady word 48 true
  modify fun s =>
    let arrive (g : Gang) : Gang :=
      let q := phaseOf g.phases (s.h.arr 48)
      { g with arrived := g.arrived ++ [(q, s.h.ident)], clocks := joinPhase (recentClocks g.clocks g.phases) q s.h.clock }
    let s := if s.portOpen then s.onGang s.h.gang arrive else s.inputDrop 48
    ({ s with h := s.h.arrived 48 }).settleBarrier s.h.gang

/-- BARR.WAIT.GANG (R325, R327). -/
def waitGang (word : Nat) : M Unit := do
  waitReady word 48 true
  let s ← get
  match s.gang? s.h.gang with
  | none => hold
  | some g =>
    let q := phaseBack g.phases (s.h.wt 48)
    waitUntil (phaseDone g.phases (s.h.wt 48) && edgeDone g.doneAt q s.pkg.time)
    modify fun s => { s with h := (s.h.waited 48).acquired ((tableGet g.clocks q).getD []) }

/-! ### Local groups -/

/-- A local group of a die. -/
def Die.group (d : Die) (n : Nat) : LocalGroup := (tableGet d.groups n).getD ⟨0, 0, [], 0, [], []⟩

/-- Is a core (its cluster in the die, its place in the cluster) selected by a mask of clusters and cores? -/
def maskHas (mask : Dword) (core : Nat) : Bool := bit mask (clusOfCore core) && bit mask (48 + core % 8)

/-- The cores that a mask selects. -/
def maskCount (mask : Dword) : Nat := popcount (bits mask 0 48) 48 * popcount (bits mask 48 8) 8

/-- A local group with its phases completed as far as the arrivals allow; a completed phase brings the membership that
BMASK holds (R48, R327). `now` is the time of the completion. -/
def LocalGroup.settle (now : Nat) (g : LocalGroup) : Nat → LocalGroup
  | 0 => g
  | n + 1 =>
    let here := (g.arrived.filter fun a => a.1 == g.phases).length
    if maskCount g.members ≤ here ∧ 0 < here then
      ({ g with
        arrived := g.arrived.filter fun a => a.1 != g.phases
        phases := g.phases + 1
        doneAt := tableSet (g.doneAt.filter fun e => decide (g.phases ≤ e.1 + 4)) g.phases now
        members := g.mask } : LocalGroup).settle now n
    else g

/-- The state with local group `n` of the hart's die replaced. -/
def State.onGroup (s : State) (n : Nat) (f : LocalGroup → LocalGroup) : State :=
  { s with pkg := s.pkg.onDie (dieOfCore s.core.id) fun d => { d with groups := tableSet d.groups n (f (d.group n)) } }

/-- The local group of the hart's die. -/
def State.group (s : State) (n : Nat) : LocalGroup := (s.pkg.die (dieOfCore s.core.id)).group n

/-- BARR.ARRIVE (R325). -/
def arriveLocal (word n : Nat) : M Unit := do
  let s ← get
  arriveReady word n (maskHas (s.group n).members s.core.id)
  modify fun s =>
    let arrive (g : LocalGroup) : LocalGroup :=
      let q := phaseOf g.phases (s.h.arr n)
      let seen := g.arrived.contains (q, s.h.hartid)
      { g with
        arrived := if seen then g.arrived else g.arrived ++ [(q, s.h.hartid)]
        clocks := joinPhase (recentClocks g.clocks g.phases) q s.h.clock }
    let t := if s.portOpen then s.onGroup n fun g => (arrive g).settle s.pkg.time 4 else s.inputDrop n
    { t with h := s.h.arrived n }

/-- BARR.WAIT (R325, R327). -/
def waitLocal (word n : Nat) : M Unit := do
  let s ← get
  let g := s.group n
  waitReady word n (maskHas g.members s.core.id)
  let q := phaseBack g.phases (s.h.wt n)
  waitUntil (phaseDone g.phases (s.h.wt n) && edgeDone g.doneAt q s.pkg.time)
  modify fun s => { s with h := (s.h.waited n).acquired ((tableGet g.clocks q).getD []) }

/-! ### Spanning groups (R329 to R331) -/

/-- A spanning group of a die. -/
def Die.span (d : Die) (n : Nat) : SpanGroup := (tableGet d.spans n).getD ⟨[], [], [], [], 0, 0, []⟩

/-- The package with spanning group `n` of die `d` replaced, and PHASE of its SCFG with it. -/
def Pkg.setSpan (p : Pkg) (d n : Nat) (g : SpanGroup) : Pkg :=
  let p := p.onDie d fun x => { x with spans := tableSet x.spans n g }
  p.setCtl (offSpan d n 0) (setBits (p.ctl (offSpan d n 0)) 2 2 g.phases)

/-- The local count of a die's spanning group. -/
def Pkg.spanCount (p : Pkg) (d n : Nat) : Nat := maskCount (p.ctl (offSpan d n 2))

/-- May a hart on this core use spanning group `n` of its die? -/
def Pkg.spanMember (p : Pkg) (core n : Nat) : Bool :=
  let d := dieOfCore core
  bit (p.ctl (offSpan d n 0)) 0 && maskHas (p.ctl (offSpan d n 2)) core

/-- A BARRIER message between dies, under the tenant and world of the hart `by_` that it goes out for: to a die of this
package, or to the package of another. -/
def Pkg.barrierMsg (p : Pkg) (by_ from_ package die : Nat) (tid : BitVec 12) (secure : Bool) (body : MsgBody)
    (clock : List (Nat × Nat)) : Msg :=
  { owner := 0, hartid := by_, core := 384 * from_, dst := if package = p.number then die else 4 + package, tid := tid
    secure := secure, sent := p.time, va := 0, body := body, clock := clock, race := false, rels := []
    spot := none, ack := none }

/-- BARRIER messages sent; one to another package leaves by a port whose membership bitmap admits its TID (R368, R369). -/
def State.sendBarrier (s : State) (m : Msg) : State :=
  if m.dst < 4 then s.send m
  else
    let from_ := dieOfCore m.core
    if (s.pkg.route from_ (m.dst - 4)).all fun port => s.pkg.portAdmits port m.tid.toNat then s.send m
    else { s with pkg := s.pkg.tenantDrop from_ 0xFFFF m.tid.toNat 0 }

/-- Does a contribution that went out for a hart stand before its next one (R189)? -/
def Pkg.contributes (p : Pkg) (id : Nat) : Bool := p.net.any fun m => match m.body with
  | .contribution _ _ _ _ _ => m.owner == 0 && m.hartid == id
  | _ => false

/-- The die's contribution may go: the hart's last one has been performed at its root (R189), and the route to the root's
package does not move (R184). -/
def contributionReady (n : Nat) : M Unit := do
  let s ← get
  let d := dieOfCore s.core.id
  let package := bits (s.pkg.ctl (offSpan d n 0)) 32 10
  await (!s.pkg.contributes s.h.ident && (package == s.pkg.number || (s.pkg.route d package).isSome))

/-- BARR.ARRIVE.SPAN (R325, R330): the die's contribution is sent with the last arrival of its count. -/
def arriveSpan (word n : Nat) : M Unit := do
  let s ← get
  arriveReady word (32 + n) (s.pkg.spanMember s.core.id n)
  contributionReady n
  modify fun s =>
    let d := dieOfCore s.core.id
    let g := (s.pkg.die d).span n
    let q := phaseOf g.phases (s.h.arr (32 + n))
    let seen := g.arrived.contains (q, s.h.hartid)
    let stamp := max s.pkg.gtime ((tableGet g.stamps q).getD 0)
    let g := { g with
      arrived := if seen then g.arrived else g.arrived ++ [(q, s.h.hartid)]
      stamps := tableSet g.stamps q stamp
      clocks := joinPhase (recentClocks g.clocks g.phases) q s.h.clock }
    let full := !seen && (g.arrived.filter fun a => a.1 == q).length == s.pkg.spanCount d n
    let cfg := s.pkg.ctl (offSpan d n 0)
    let body : MsgBody := .contribution n (q % 4) stamp (4 * s.pkg.number + d) (bits cfg 42 2)
    let tid := BitVec.ofNat 12 (bits s.h.tid 0 12)
    let m := s.pkg.barrierMsg s.h.ident d (bits cfg 32 10) (bits cfg 42 2) tid s.core.secure body ((tableGet g.clocks q).getD [])
    let g := if full then { g with sent := g.sent + 1 } else g
    if s.portOpen then
      let s := { s with pkg := s.pkg.setSpan d n g, h := s.h.arrived (32 + n) }
      if full then s.sendBarrier m else s
    else { s.inputDrop (32 + n) with h := s.h.arrived (32 + n) }

/-- BARR.WAIT.SPAN (R325, R330, R331): left at the first edge with GTIME at or after T_release, or late with a miss. -/
def waitSpan (word n : Nat) : M Unit := do
  let s ← get
  waitReady word (32 + n) (s.pkg.spanMember s.core.id n)
  let d := dieOfCore s.core.id
  let g := (s.pkg.die d).span n
  let wt := s.h.wt (32 + n)
  let q := phaseBack g.phases wt
  let t := (tableGet g.releases q).getD 0
  waitUntil (phaseDone g.phases wt && decide (t ≤ s.pkg.gtime))
  modify fun s => { s with h := (s.h.waited (32 + n)).acquired ((tableGet g.clocks q).getD []) }
  let at_ := 990 * t - s.pkg.gtShift
  if at_ + stepPeriod (s.pkg.die d).step ≤ s.pkg.time then
    let cls := if (s.pkg.die d).haltedIn at_ at_ then 3 else 1
    orStop fun s => s.reportMiss s.h.ident d (BitVec.ofNat 64 n) cls (s.pkg.gtime - t)
  else pure ()

/-- BARR_ARRIVE: an arrival at a local group (R325, R326). -/
def execBarrArrive (g : BitVec 5) (s : State) : Out := finish (arriveLocal (enc1 0xC8000000 g 16) g.toNat) s

/-- BARR_WAIT: a wait at a local group (R325, R326). -/
def execBarrWait (g : BitVec 5) (s : State) : Out := finish (waitLocal (enc1 0xC8000001 g 16) g.toNat) s

/-- BARR_ARRIVE_SPAN: an arrival at a spanning group (R325, R330). -/
def execBarrArriveSpan (g : BitVec 5) (s : State) : Out := finish (arriveSpan (enc1 0xC8000002 g 16) g.toNat) s

/-- BARR_WAIT_SPAN: a wait at a spanning group (R325, R330, R331). -/
def execBarrWaitSpan (g : BitVec 5) (s : State) : Out := finish (waitSpan (enc1 0xC8000003 g 16) g.toNat) s

/-- BARR_ARRIVE_GANG: an arrival at the gang barrier (R325, R327). -/
def execBarrArriveGang (s : State) : Out := finish (arriveGang (0xC8000004)) s

/-- BARR_WAIT_GANG: a wait at the gang barrier (R325, R327). -/
def execBarrWaitGang (s : State) : Out := finish (waitGang (0xC8000005)) s

end Sys2Proof.Machine
end

