-- ==== Sys2Proof/Machine/Work.lean ====
section
/-! DEFINITION. Waiting and work: pause (R332), recv (R333), launch (R334 to R336), join (R337), gexit (R338), yield
(R339). -/

namespace Sys2Proof.Machine

/-- RECV (R333): TAIL is read with an acquire at cluster scope, and the hart waits while it equals HEAD, for as long as
it takes (R318). -/
def receive (d : BitVec 5) (p : Dword) : M Unit := do
  trapIf (p.toNat % 64 != 0) causeLoadMisaligned p
  let s ← get
  match windowOf s.h (s.gang? s.h.gang) p.toNat with
  | .spot (.part _ _) =>
    let t ← loadBytes (some 3) p p.toNat 8
    let h ← loadBytes none (p + 8) (p.toNat + 8) 8
    let tail := natOf t % 2 ^ 32
    await (tail != natOf h % 2 ^ 32)
    writeX d (BitVec.ofNat 64 tail)
  | _ => trapOf causeLoadFault p

/-- The record at an address, read as loads (R334). -/
def readRecord (r : Dword) : M (BitVec 512) := do
  let bs ← (List.range 8).mapM fun i =>
    let a := r + BitVec.ofNat 64 (8 * i)
    loadBytes none a a.toNat 8
  pure (BitVec.ofNat 512 (natOf bs.flatten))

/-- The EVAL of a refused enqueue (R336). -/
def launchStatus (addr code : Nat) : Dword := BitVec.ofNat 64 (addr % 2 ^ 48 + code * 2 ^ 48)

/-- The release of a launch or join: every earlier access has been acknowledged (R204, R335). -/
def releaseWork : M Unit := do
  await ((← get).h.pend.isEmpty)
  awaitPerformed
  modify fun s => { s with h := s.h.released }

/-- A record offered to queue `q` of this package by the hart of the state; `addr` is ADDR of R336. -/
def offer (q addr : Nat) (r : BitVec 512) : M Unit := do
  let s ← get
  trapIf (bits (s.pkg.qcfg q) 16 12 != bits s.h.tid 0 12) causeTenant (launchStatus addr 0)
  awaitPhys (s.pkg.qslot q (s.pkg.qtail q)) 64
  match s.enqueue q r s.h.clock with
  | none => fun _ => .error (.stop .csaUnreachable)
  | some (s, code) =>
    set s
    trapIf (code != 0) causeStoreFault (launchStatus addr code)

/-- LAUNCH (R334, R336). -/
def launch (a : Dword) : M Unit := do
  trapIf (bits a 4 2 != 0) causeLoadMisaligned a
  let rec_ ← readRecord (setBits a 0 6 0)
  releaseWork
  let s ← get
  let q := 16 * dieOfCore s.core.id + bits a 0 4
  offer q (s.pkg.number * 2 ^ 42 + queueWindow + 4096 * q) rec_

/-- LAUNCH.R (R335, R336, R384): to a queue of this package at once; to another package as a message, whose response
the hart awaits. -/
def launchRemote (d a : Dword) : M Unit := do
  trapIf (a.toNat % 64 != 0) causeLoadMisaligned a
  let rec_ ← readRecord a
  let s ← get
  let bad : Dword := launchStatus d.toNat 0
  trapIf (d.toNat % 4096 != 0) causeStoreFault bad
  match windowOf s.h (s.gang? s.h.gang) d.toNat with
  | .outside =>
    awaitWalk s.who d.toNat
    let (r, s) := s.translate s.who .store d.toNat
    set s
    match r with
    | .error e => trapOf (e.cause causeStoreFault) (if e = .translation then bad else d)
    | .ok (pa, _) =>
      match s.pkg.place pa with
      | .queue package q =>
        releaseWork
        if package = s.pkg.number then offer q d.toNat rec_
        else
          let s ← get
          match s.pkg.route (dieOfCore s.core.id) package with
          | none => hold
          | some port =>
            trapIf (!s.pkg.portAdmits port (bits s.h.tid 0 12)) causeTenant bad
            let m := s.message (BitVec.ofNat 12 (bits s.h.tid 0 12)) (4 + package) d (.launch q rec_ none)
            set { s with
              h := { s.h with launchAt := some (s.h.pc, d), launchCode := none }
              pkg := { s.pkg with
                launches := s.pkg.launches ++ [(s.h.ident, dieOfCore s.core.id, package, s.pkg.time)]
                outputs := s.pkg.outputs ++ [Output.fabric m] } }
      | _ => trapOf causeStoreFault bad
  | _ => trapOf causeStoreFault bad

/-- JOIN (R314, R337): performed at the home of COUNT; to a block of another package as a message, whose response the
hart awaits. -/
def joinBlock (a : Dword) : M Unit := do
  trapIf (a.toNat % 128 != 0) causeAtomicFault a
  let s ← get
  match windowOf s.h (s.gang? s.h.gang) a.toNat with
  | .outside =>
    let t ← resolve s.who .atomic causeAtomicFault a a.toNat
    noHost t causeAtomicFault a
    releaseWork
    let s ← get
    if 4 ≤ dstOf t.loc then
      let tag := s.pkg.tags
      let m := s.message (BitVec.ofNat 12 s.who.tid) (dstOf t.loc) a (.join t.loc tag)
      set { s with
        h := s.h.owed tag (.x 0) true
        pkg := { s.pkg with tags := tag + 1, outputs := s.pkg.outputs ++ [Output.fabric m] } }
    else
      awaitHome t.loc 16
      awaitHome (t.loc + 64) 64
      match (← get).joinPoison t.loc with
      | some l => checkPoison l 1 a
      | none => pure ()
      orStop fun s => s.joinAt s.who.tid s.core.secure t.loc s.h.clock
  | _ => trapOf causeAtomicFault a

/-- PAUSE: the hart's requests take the lowest priority for n cycles (R332); 0 does nothing. -/
def execPause (n : BitVec 15) (s : State) : Out :=
  .next { s.retire with h := { s.retire.h with pauseLeft := if n = 0 then s.h.pauseLeft else n.toNat + 1 } }

/-- RECV: a message awaited (R333). -/
def execRecv (d : BitVec 5) (a : BitVec 5) (s : State) : Out := finish (receive d (s.x a)) s

/-- LAUNCH: a record enqueued on the own die (R334). -/
def execLaunch (a : BitVec 5) (_s' : BitVec 5) (s : State) : Out := finish (allOrNothing (launch (s.x a))) s

/-- LAUNCH_R: a record enqueued by its queue page (R335). -/
def execLaunchR (d : BitVec 5) (a : BitVec 5) (_s' : BitVec 5) (s : State) : Out :=
  finish (allOrNothing (launchRemote (s.x d) (s.x a))) s

/-- JOIN: a join (R337). -/
def execJoin (a : BitVec 5) (s : State) : Out := finish (allOrNothing (joinBlock (s.x a))) s

/-- GEXIT: the hart ends (R338). -/
def execGexit (s : State) : Out := finishAt endHart s

/-- YIELD: the gang is parked (R339), once where harts of it yield together. -/
def execYield (s : State) : Out := .next (s.retire.preemptGang s.h.gang)

end Sys2Proof.Machine
end

