-- ==== Sys2Proof/Machine/Csr.lean ====
section
/-! DEFINITION. Control and status registers (R31 to R48), the instructions that read and write them (R393), setvl
(R126) and setml (R148). -/

namespace Sys2Proof.Machine

/-! ### The map (R31, R32) -/

/-- Who may read a register, and who may write it. -/
structure CsrAccess where
  read : Priv
  write : Option Priv
deriving DecidableEq, Repr

/-- The access of a CSR number; none for a number that R31 does not list. -/
def csrAccess (n : Nat) : Option CsrAccess :=
  if n = 0x001 ∨ (0x008 ≤ n ∧ n ≤ 0x00C) ∨ (0x010 ≤ n ∧ n ≤ 0x014) ∨ n = 0x018 ∨ n = 0x019 then
    some ⟨.user, some .user⟩
  else if (0x400 ≤ n ∧ n ≤ 0x403) ∨ (0x408 ≤ n ∧ n ≤ 0x413) ∨ (0x417 ≤ n ∧ n ≤ 0x419) then some ⟨.user, none⟩
  else if n = 0x414 ∨ (0x840 ≤ n ∧ n ≤ 0x85F) then some ⟨.user, some .supervisor⟩
  else if n = 0x415 ∨ n = 0x416 then some ⟨.user, some .machine⟩
  else if (0x800 ≤ n ∧ n ≤ 0x804) ∨ n = 0x808 ∨ n = 0x809 then some ⟨.supervisor, some .supervisor⟩
  else none

/-- The cause with which an access is refused (R32); none where it is permitted. -/
def csrRefusal (n : Nat) (write : Bool) (p : Priv) : Option Nat :=
  match csrAccess n with
  | none => some causeIllegal
  | some a =>
    if p.code < a.read.code then some causePriv
    else if write then
      match a.write with
      | none => some causeIllegal
      | some w => if p.code < w.code then some causePriv else none
    else none

/-! ### Reads -/

/-- ORIENT of a die (R19): DIE and ROT. -/
def orientOf (die : Nat) : Nat := die + die * 4

/-- COREID of a core (R46). -/
def coreidOf (core package : Nat) : Nat := core % 8 + clusOfCore core * 8 + dieOfCore core * 2 ^ 9 + package * 2 ^ 11

/-- Word `w` of FSTEPn of a die (R41). -/
def Die.fstepWord (d : Die) (n w : Nat) : Dword :=
  let r := d.fstep.getD n (FStep.mk 0 0)
  if w = 0 then r.word0 else r.word1

/-- A CSR read by the hart of the state, reserved fields zero (R393); 0 for a number that R31 does not list. -/
def State.csr (s : State) (n : Nat) : Dword :=
  let h := s.h
  let d := s.pkg.die (dieOfCore s.core.id)
  if 0x408 ≤ n ∧ n ≤ 0x40F then d.fstepWord ((n - 0x408) / 2) ((n - 0x408) % 2)
  else if 0x840 ≤ n ∧ n ≤ 0x85F then (d.group (n - 0x840)).mask
  else if 0x010 ≤ n ∧ n ≤ 0x013 then h.rngkey.getD (n - 0x010) 0
  else
    match n with
    | 0x001 => h.fcsr
    | 0x008 => h.vl
    | 0x009 => h.vstart
    | 0x00A => h.mvl
    | 0x00B => h.mvc
    | 0x00C => s.core.acclive
    | 0x014 => h.rngctr
    | 0x018 => h.tguard
    | 0x019 => h.tlate
    | 0x400 => BitVec.ofNat 64 s.pkg.gtime
    | 0x401 => BitVec.ofNat 64 d.cycle
    | 0x402 => BitVec.ofNat 64 (d.ncyc / 792)
    | 0x403 => h.instret
    | 0x410 => BitVec.ofNat 64 h.hartid
    | 0x411 => h.gangid
    | 0x412 => h.gidx
    | 0x413 => h.gangsz
    | 0x414 => h.ctxid
    | 0x415 => h.tid
    | 0x416 => BitVec.ofNat 64 (bitOf s.core.secure)
    | 0x417 => BitVec.ofNat 64 (orientOf (dieOfCore s.core.id))
    | 0x418 => BitVec.ofNat 64 (coreidOf s.core.id s.pkg.number)
    | 0x419 => BitVec.ofNat 64 (min 8 h.sfq.length)
    | 0x800 => h.epc
    | 0x801 => h.ecause
    | 0x802 => h.eval
    | 0x803 => h.eslice
    | 0x804 => h.estat
    | 0x808 => s.core.accown
    | 0x809 => s.core.accen
    | _ => 0

/-! ### Writes, field by field (R5, R33) -/

/-- FCSR written (R35): a reserved rounding code leaves RM unchanged. -/
def fcsrWrite (old v : Dword) : Dword :=
  BitVec.ofNat 64 ((if bits v 0 3 < 4 then bits v 0 3 else bits old 0 3) + bits v 3 19 * 8)

/-- TGUARD written (R42): a field below its floor takes the floor. -/
def tguardWrite (v : Dword) : Dword :=
  BitVec.ofNat 64 (bits v 0 16 + max 4 (bits v 16 16) * 2 ^ 16 + max 64 (bits v 32 16) * 2 ^ 32)

/-- TLATE written (R43): COUNT and DLE. -/
def tlateWrite (old v : Dword) : Dword := setBits (setBits old 0 32 (bits v 0 32)) 36 1 (bits v 36 1)

/-- A length of MVL or MVC (R36). -/
def clampLen (v : Nat) : Nat := min (max v 1) 32

/-- ACCLIVE written (R30): a tile whose bit comes up becomes live with zero cells. -/
def Core.writeLive (c : Core) (live : Nat) : Core :=
  { c with
    tiles := Vector.ofFn fun t : Fin 8 =>
      if live.testBit t.val && !bit c.acclive t.val then Vector.replicate 32 0 else c.tiles.getD t.val (Vector.replicate 32 0)
    acclive := BitVec.ofNat 64 live }

/-- BMASK of a group written (R48): in force at once while the group has never had an arrival or no core is a member,
else from its next phase boundary. -/
def LocalGroup.writeMask (g : LocalGroup) (v : Dword) : LocalGroup :=
  let m := BitVec.ofNat 64 (bits v 0 56)
  let fresh := (g.arrived.isEmpty && g.phases == 0) || maskCount g.members == 0
  { g with mask := m, members := if fresh then m else g.members }

/-- A write of a CSR by the hart of the state; a number that R31 does not list, or that nobody may write, is left. -/
def State.writeCsr (s : State) (n : Nat) (v : Dword) : State :=
  let h := s.h
  let hart (h : Hart) : State := { s with h := h }
  if 0x840 ≤ n ∧ n ≤ 0x85F then s.onGroup (n - 0x840) fun g => g.writeMask v
  else if 0x010 ≤ n ∧ n ≤ 0x013 then
    hart { h with rngkey := h.rngkey.setIfInBounds (n - 0x010) v, rngctr := setBits h.rngctr 63 1 1 }
  else
    match n with
    | 0x001 => hart { h with fcsr := fcsrWrite h.fcsr v }
    | 0x008 => hart { h with vl := BitVec.ofNat 64 (min v.toNat 256) }
    | 0x009 => hart { h with vstart := BitVec.ofNat 64 (bits v 0 8) }
    | 0x00A => hart { h with mvl := BitVec.ofNat 64 (clampLen v.toNat) }
    | 0x00B => hart { h with mvc := BitVec.ofNat 64 (clampLen v.toNat) }
    | 0x00C => { s with core := s.core.writeLive (bits v 0 8) }
    | 0x014 => hart { h with rngctr := setBits v 63 1 (bits h.rngctr 63 1) }
    | 0x018 => hart { h with tguard := tguardWrite v }
    | 0x019 => hart { h with tlate := tlateWrite h.tlate v }
    | 0x414 => hart { h with ctxid := BitVec.ofNat 64 (bits v 0 16) }
    | 0x415 => hart { h with tid := BitVec.ofNat 64 (bits v 0 12) }
    | 0x416 => { s with core := { s.core with secure := bit v 0 } }
    | 0x800 => hart { h with epc := setBits v 0 2 0 }
    | 0x801 => hart { h with ecause := BitVec.ofNat 64 (bits v 0 8) }
    | 0x802 => hart { h with eval := v }
    | 0x803 => hart { h with eslice := BitVec.ofNat 64 (bits v 0 5) }
    | 0x804 => hart { h with estat := estatWrite h.estat v }
    | 0x808 => { s with core := { s.core with accown := BitVec.ofNat 64 (bits v 0 17) } }
    | 0x809 => { s with core := { s.core with accen := BitVec.ofNat 64 (bits v 0 1) } }
    | _ => s

/-! ### The instructions (R393) -/

/-- What comes before an access: the check of R32, the check of an accumulator access (R38), the wait for the VDQ
(R34). -/
def csrReady (word n : Nat) (write : Bool) : M Unit := do
  match csrRefusal n write (← get).h.priv with
  | some c => trapOf c (BitVec.ofNat 64 word)
  | none => pure ()
  if n = 0x00C then needAcc else pure ()
  if n = 0x001 ∨ n = 0x009 ∨ n = 0x00C then awaitVdq else pure ()

/-- RDCTL. -/
def readCsr (word : Nat) (d : BitVec 5) (n : Nat) : M Unit := do
  csrReady word n false
  modify fun s => s.setX d (s.csr n)

/-- WRCTL. -/
def putCsr (word n : Nat) (v : Dword) : M Unit := do
  csrReady word n true
  modify fun s => s.writeCsr n v

/-- SETCTL and CLRCTL: `f` of the register and X[a] written; with x0 only the check of a read. -/
def changeCsr (word n : Nat) (a : BitVec 5) (f : Dword → Dword → Dword) : M Unit := do
  csrReady word n (a != 0)
  if a = 0 then pure () else modify fun s => s.writeCsr n (f (s.csr n) (s.x a))

/-- RDCTL: a control register read (R393). -/
def execRdctl (d : BitVec 5) (c : BitVec 12) (s : State) : Out :=
  finish (readCsr (enc2 0xE0000000 d 21 c 4) d c.toNat) s

/-- WRCTL: a control register written (R393). -/
def execWrctl (a : BitVec 5) (c : BitVec 12) (s : State) : Out :=
  finish (putCsr (enc2 0xE0000001 a 16 c 4) c.toNat (s.x a)) s

/-- SETCTL: bits of a control register set (R393). -/
def execSetctl (a : BitVec 5) (c : BitVec 12) (s : State) : Out :=
  finish (changeCsr (enc2 0xE0000002 a 16 c 4) c.toNat a fun r v => r ||| v) s

/-- CLRCTL: bits of a control register cleared (R393). -/
def execClrctl (a : BitVec 5) (c : BitVec 12) (s : State) : Out :=
  finish (changeCsr (enc2 0xE0000003 a 16 c 4) c.toNat a fun r v => r &&& ~~~v) s

/-- SETVL (R126). -/
def setVl (d a : BitVec 5) (e : BitVec 3) (s : State) : State :=
  let n := min (s.x a).toNat (if widthOf e = 64 then 128 else 256)
  let s := s.setX d (BitVec.ofNat 64 n)
  { s with h := { s.h with vl := BitVec.ofNat 64 n } }

/-- SETVL: the vector length set (R126). -/
def execSetvl (d : BitVec 5) (a : BitVec 5) (e : BitVec 3) (s : State) : Out := .next (setVl d a e s).retire

/-- SETML (R148). -/
def setMl (d a : BitVec 5) (s : State) : State :=
  let r := clampLen (bits (s.x a) 0 32)
  let c := clampLen (bits (s.x a) 32 32)
  let s := s.setX d (BitVec.ofNat 64 (r + c * 2 ^ 32))
  { s with h := { s.h with mvl := BitVec.ofNat 64 r, mvc := BitVec.ofNat 64 c } }

/-- SETML: the matrix lengths set (R148). -/
def execSetml (d : BitVec 5) (a : BitVec 5) (s : State) : Out := .next (setMl d a s).retire

end Sys2Proof.Machine
end

