-- ==== Sys2Proof/Machine/System.lean ====
section
/-! DEFINITION. The remaining instructions of OP 0x38: trap, eret, ebreak and halt (R379, R394), fence.i (R175), preempt
(R387), gkill (R391), sfqpop (R390), tlbinv (R360), hinv (R366). -/

namespace Sys2Proof.Machine

/-! ### Traps, halts and fetch coherence -/

/-- A debug halt of a die (R253, R319). -/
def Pkg.debugHalt (p : Pkg) (die : Nat) : Pkg :=
  p.onDie die fun d => if d.halted then d else { d with halted := true, haltSince := p.time }

/-- EBREAK (R394): BREAKPOINT, or a debug halt of the die with the PC at the ebreak. -/
def breakpoint (s : State) : Out :=
  let die := dieOfCore s.core.id
  if (s.pkg.die die).haltOnBreak then .next { s with pkg := s.pkg.debugHalt die }
  else takeTrap { cause := causeBreak, value := 0 } s

/-- HALT (R394): the buffer drains, then the hart issues nothing more. -/
def haltHart (word : Nat) : M Unit := do
  needPriv .machine word
  awaitBuffer
  modify fun s =>
    { s with
      h := { s.h with status := .halted }
      pkg := s.pkg.logEvent (dieOfCore s.core.id) 0x10 s.core.id s.h.pc.toNat 0 }

/-- FENCE.I (R175). -/
def fenceFetch : M Unit := do
  awaitVdq
  awaitPerformed
  modify fun s => { s with core := { s.core with icache := [] }, pkg := s.pkg.filledL1 s.core.id fun _ => true }

/-! ### Parking by preempt (R387) -/

/-- The STATE dword of a hart's save area: STATE and NOTICE written, the rest kept (R381). -/
def State.markState (s : State) (h : Hart) (st : Nat) : Option State :=
  match s.physDwords (s.csaOf h) 1 with
  | some [d] => s.putDwords (s.csaOf h) [setBits (setBits d 0 2 st) 25 1 (bitOf h.notice)]
  | _ => none

/-- A hart without its notice. -/
def Hart.forgetNotice (h : Hart) : Hart := { h with notice := false, noticeWord := none }

/-- NOTICE cleared in every hart of a resident gang, in their save areas too. -/
def State.clearNotice (s : State) (g : Nat) : Option State :=
  let mine := s.cores.filter fun e => e.2.present && e.2.gang == g
  let s := s.onGang g fun g => { g with noticeAt := none }
  mine.foldl (fun s e => s.bind fun s =>
    let s := s.onCore e.1.id fun s => { s with h := s.h.forgetNotice }
    s.markState e.2.forgetNotice (if e.2.dying then 3 else 0)) (some s)

/-- PREEMPT (R387). -/
def preemptSelf (word : Nat) : M Unit := do
  needPriv .supervisor word
  let s ← get
  let g := s.h.gang
  let noticed := s.cores.any fun e => e.2.present && e.2.gang == g && e.2.notice
  modify State.retire
  if noticed then
    orStop fun s => s.clearNotice g
    modify fun s => s.preemptGang g
  else pure ()

/-! ### Ending gangs (R391) -/

/-- The gangs that a gkill operand names. -/
def State.named (s : State) (a : Dword) : List Gang :=
  s.pkg.gangs.filter fun g => g.die == bits a 48 2 && g.tag.toNat == bits a 0 32 && g.ctx.toNat == bits a 32 16

/-- Does a hart of a gang, not the own one of the hart of the state, still have its kill stop before it (R391, R416, log 88)? -/
def State.issuing (s : State) (g : Gang) : Bool :=
  g.id != s.h.gang && s.cores.any fun e =>
    e.2.present && e.2.gang == g.id && e.2.kill.isSome && !e.2.dying && e.2.status != .exited

/-- GKILL: it completes when each gang named has stopped issue or has been discarded. -/
def killGangs (word : Nat) (a : Dword) : M Unit := do
  needPriv .supervisor word
  trapIf (bits a 50 14 != 0) causeIllegal a
  let s ← get
  if s.h.priv = .supervisor then
    trapIf ((s.seenContext (bits a 32 16)).any fun c => c.tid != bits s.h.tid 0 12) causeTenant a
  else pure ()
  (s.named a).forM fun g => orStop fun s => s.killGang g.id (some a)
  let s ← get
  if (s.named a).any fun g => g.discard || g.phase == .parking || s.issuing g then again else pure ()

/-! ### Store-fault records (R390) -/

/-- Dword 1 of a record. -/
def SfRecord.word1 (r : SfRecord) : Dword := BitVec.ofNat 64 (bits r.pc 0 48 + r.mask.toNat * 2 ^ 48 + r.cause.toNat * 2 ^ 56)

/-- SFQPOP. -/
def popFault (word : Nat) (d : BitVec 5) : M Unit := do
  needPriv .supervisor word
  match (← get).h.sfq with
  | [] => writeX d 0
  | r :: _ =>
    orStop State.dropFault
    modify fun s => { s with h := { s.h with eval := r.va } }
    writeX d r.word1

/-! ### Invalidation (R360, R366) -/

/-- What a tlbinv descriptor names. -/
inductive Inval where
  | page (ctx vpn : Nat)
  | context (ctx : Nat)
  | tenant (tid : Nat)
  | all
deriving DecidableEq, Repr

/-- The descriptor of a tlbinv; none where R360 calls it illegal. -/
def invalOf (a : Dword) : Option Inval :=
  let id := bits a 4 16
  let vpn := bits a 20 36
  if bit a 3 || bits a 56 8 != 0 then none
  else
    match bits a 0 3 with
    | 0 => some (.page id vpn)
    | 1 => if vpn = 0 then some (.context id) else none
    | 2 => if vpn = 0 ∧ id < 4096 then some (.tenant id) else none
    | 3 => if vpn = 0 ∧ id = 0 then some .all else none
    | _ => none

/-- Does the descriptor need machine privilege? -/
def Inval.machine : Inval → Bool
  | .page _ _ => false
  | .context _ => false
  | .tenant _ => true
  | .all => true

/-- Is a translation dropped? -/
def Inval.drops (k : Inval) (e : TlbEntry) : Bool :=
  match k with
  | .page ctx vpn => e.ctx == ctx && decide (e.vbase < (vpn + 1) * 4096) && decide (vpn * 4096 < e.vbase + e.size)
  | .context ctx => e.ctx == ctx
  | .tenant tid => e.tid == tid
  | .all => true

/-- Is an entry of a walk cache dropped? A page's drops none: the cache holds no leaf (R357). -/
def Inval.dropsWalk (k : Inval) (e : WalkEntry) : Bool :=
  match k with
  | .page _ _ => false
  | .context ctx => e.ctx == some ctx
  | .tenant tid => e.tid == tid
  | .all => true

/-- Every TLB and walk cache of the package without the translations named. -/
def State.dropTranslations (s : State) (k : Inval) : State :=
  let keep (l : List TlbEntry) : List TlbEntry := l.filter fun e => !k.drops e
  let core (c : Core) : Core := { c with tlb := keep c.tlb }
  { s with
    core := core s.core
    rest := s.rest.map fun e => (core e.1, e.2)
    pkg := { s.pkg with
      clusters := s.pkg.clusters.map fun c => (c.1, { c.2 with tlb := keep c.2.tlb })
      dies := s.pkg.dies.map fun d => { d with walks := d.walks.filter fun e => !k.dropsWalk e } } }

/-- May an access of a hart, with this tenant, have been translated by a dropped entry? -/
def State.mayUse (s : State) (k : Inval) (owner tid : Nat) : Bool :=
  let ctx := ((s.hart? owner).map fun h => bits h.ctxid 0 16)
  match k with
  | .page c _ => ctx == some c
  | .context c => ctx == some c
  | .tenant t => t == tid
  | .all => true

/-- No access that a dropped entry translated is still on its way or waits at its home (R360). -/
def State.noneUses (s : State) (k : Inval) : Bool :=
  let tidOf (owner : Nat) : Nat := ((s.hart? owner).map fun h => bits h.tid 0 12).getD 0
  !(s.pkg.net.any fun m => m.owner != 0 && s.mayUse k m.owner m.tid.toNat) &&
  !((s.pkg.waiting ++ s.pkg.held).any fun t => s.mayUse k t.owner (tidOf t.owner))

/-- TLBINV (R360). -/
def invalidate (word : Nat) (a : Dword) : M Unit := do
  needPriv .supervisor word
  match invalOf a with
  | none => trapOf causeIllegal a
  | some k =>
    let s ← get
    trapIf (k.machine && s.h.priv != .machine) causePriv (BitVec.ofNat 64 word)
    await s.h.pend.isEmpty
    awaitApplied
    modify fun s => s.dropTranslations k
    if (← get).noneUses k then pure () else again

/-- Does a copy use a handle of this number, or any at all? -/
def CopyRun.uses (c : CopyRun) (h : Option Nat) : Bool :=
  let ends := [c.src.handle, c.dst.handle, c.statusAt.bind (·.handle)]
  match h with
  | some n => ends.contains (some n)
  | none => ends.any Option.isSome

/-- HINV (R366). Handle tables are read at each acceptance, so there is nothing cached to drop. -/
def invalidateHandles (word : Nat) (a : Dword) : M Unit := do
  needPriv .supervisor word
  let all := bit a 16
  let hnd := bits a 0 16
  trapIf (bits a 17 15 != 0 || bits a 48 16 != 0 || (if all then hnd != 0 else decide (0xFFF0 ≤ hnd))) causeIllegal a
  awaitApplied
  let ctx := bits a 32 16
  await (!(← get).pkg.copies.any fun c => c.ctx == ctx && c.uses (if all then none else some hnd))

/-! ### The instructions -/

/-- TRAP: TRAP_INSN with its number (R394). -/
def execTrap (n : BitVec 12) (s : State) : Out := takeTrap { cause := causeTrap, value := n.zeroExtend 64 } s

/-- ERET: the return from a handler (R379). -/
def execEret (s : State) : Out := finishAt eretBody s

/-- FENCE_I: the fetch fence (R175). -/
def execFenceI (s : State) : Out := finish fenceFetch s

/-- PREEMPT: the gang parked where a notice stands (R387). -/
def execPreempt (s : State) : Out := finishAt (preemptSelf (0xE0000009)) s

/-- GKILL: gangs ended (R391). -/
def execGkill (a : BitVec 5) (s : State) : Out := finish (killGangs (enc1 0xE000000A a 16) (s.x a)) s

/-- SFQPOP: the oldest store-fault record taken (R390). -/
def execSfqpop (d : BitVec 5) (s : State) : Out := finish (popFault (enc1 0xE000000B d 21) d) s

/-- TLBINV: translations invalidated (R360). -/
def execTlbinv (a : BitVec 5) (s : State) : Out := finish (invalidate (enc1 0xE000000C a 16) (s.x a)) s

/-- HINV: handles invalidated (R366). -/
def execHinv (a : BitVec 5) (s : State) : Out := finish (invalidateHandles (enc1 0xE000000D a 16) (s.x a)) s

/-- EBREAK: a breakpoint (R394). -/
def execEbreak (s : State) : Out := breakpoint s

/-- HALT: the hart stops (R394). -/
def execHalt (s : State) : Out := finishAt (haltHart (0xE000000F)) s

end Sys2Proof.Machine
end

