-- ==== Sys2Proof/Machine/Messages.lean ====
section
/-! DEFINITION. Messages performed at their homes and the responses that come back (R188, R189, R201, R231, R251,
R278, R330, R368, R369). -/

namespace Sys2Proof.Machine

/-! ### The order of messages and the checks of their delivery -/

/-- Are two messages batches of one publisher to subscribers on one die: batches are of their pair's posted group (R211,
R276)? -/
def Msg.sameUpdate (a b : Msg) : Bool :=
  match a.body, b.body with
  | .update _ _ _ _, .update _ _ _ _ => a.dst == b.dst
  | _, _ => false

/-- A READ message. -/
def Msg.isRead (m : Msg) : Bool :=
  match m.body with
  | .read _ _ _ _ => true
  | _ => false

/-- Does a message share bytes with another (R193)? -/
def Msg.sharesBytes (a b : Msg) : Bool :=
  a.spans.any fun x => b.spans.any fun y => decide (x.1 < y.1 + y.2) && decide (y.1 < x.1 + x.2)

/-- Does a message stay behind another because of their bytes: those that they share (R193), the granules of a read and a
posted message of a pair (R189); and a read of host memory passes no posted write to it (R187)? -/
def Msg.blockedBy (later earlier : Msg) : Bool :=
  later.sharesBytes earlier ||
  (later.isRead != earlier.isRead && earlier.offDie && later.spans.any fun a => earlier.touches a.1 a.2) ||
  (later.isRead && earlier.touchesHost && later.spans.any fun a => atHost a.1)

/-- Are two posted messages in one FIFO (R187, R189): another package's, or to one destination off their die, or both to
the host? -/
def Msg.oneFifo (later earlier : Msg) : Bool :=
  later.posted && earlier.posted &&
  (later.owner == 0 || (later.dst == earlier.dst &&
    (later.dst != dieOfCore later.core || (later.touchesHost && earlier.touchesHost))))

/-- Must a message wait for an earlier one of the same hart (R189, R211)? -/
def Msg.behind (later earlier : Msg) : Bool :=
  later.owner == earlier.owner && later.hartid == earlier.hartid &&
  (later.oneFifo earlier || later.sameUpdate earlier || later.blockedBy earlier)

/-- May message `k` be performed now? -/
def State.inOrder (s : State) (k : Nat) (m : Msg) : Bool := !(s.pkg.net.take k).any m.behind

/-- Message `k` taken off the way. -/
def State.unsend (s : State) (k : Nat) : State := { s with pkg := { s.pkg with net := s.pkg.net.eraseIdx k } }

/-- A response sent back: to a hart of this package, or out to another; with a miss, the INSTRET and element of the access
that missed. -/
def Pkg.reply (p : Pkg) (owner hartid core : Nat) (body : RespBody) (miss : Option (Dword × Nat × Nat))
    (key : Nat × Nat := (0, 0)) : Pkg :=
  if owner = 0 then { p with outputs := p.outputs ++ [.answer hartid core body miss] }
  else { p with resps := p.resps ++ [⟨owner, body, key, miss⟩] }

/-- A response to a message. -/
def Pkg.replyTo (p : Pkg) (m : Msg) (body : RespBody) : Pkg := p.reply m.owner m.hartid m.core body none

/-- What a hart still waits for has changed: OUT of a parked hart, and the end of its gang. -/
def settleOwner (id : Nat) : M Unit :=
  if id = 0 then pure ()
  else do
    awaitArea id
    orStop fun s => s.refreshOut id
    orStop fun s => s.settleGang (id / 8)

/-- The tag of the response that a message asks for. -/
def Msg.tag? (m : Msg) : Option Nat :=
  match m.body with
  | .read _ _ _ tag => some tag
  | .atomic _ _ _ _ _ tag => some tag
  | .join _ tag => some tag
  | .timed t => (match t.body with
    | .load _ _ tag => some tag
    | _ => none)
  | _ => none

/-- Is a refusal of this message told to nobody but the black boxes: a posted one, or a timed write (R369)? -/
def Msg.untold (m : Msg) : Bool :=
  match m.body with
  | .launch _ _ _ => false
  | _ => m.tag?.isNone

/-- What the agent of a message is named by among releases (R192): hart, core, TID. -/
def Msg.agent (m : Msg) : Nat × Nat × Nat :=
  if m.owner = 0 then (foreignAgent m.hartid, foreignCore m.core, m.tid.toNat) else (m.owner, m.core, m.tid.toNat)

/-- The acknowledgement that the hart of a message waits for, beside any answer with data (R222). -/
def Pkg.acknowledge (p : Pkg) (m : Msg) : Pkg :=
  match m.ack with
  | some tag => p.replyTo m (.done (some tag))
  | none => p

/-- A message refused at its home (R369): an untold one leaves events on both dies, others are answered with the
refusal. -/
def refuse (k : Nat) (m : Msg) (loc : Nat) : M Unit := do
  modify fun s =>
    let s := s.unsend k
    let p := s.pkg
    let addr := p.addressOf loc
    let home := dieOfHome (homeOf loc)
    let drop (p : Pkg) (die : Nat) : Pkg := p.tenantDrop die (sourceOf loc) m.tid.toNat addr
    let p := if m.untold then
        (if m.owner ≠ 0 ∧ dieOfCore m.core ≠ home then drop (drop p home) (dieOfCore m.core) else drop p home)
      else p
    let p := if m.answered then p.replyTo m (.refused m.va m.tag?) else p
    { s with pkg := p.acknowledge m }
  settleOwner m.owner

/-- Message `k` performed at `n` bytes from `loc` once its order, its delivery and its home allow it. -/
def performAt (k : Nat) (m : Msg) (loc n : Nat) (act : M Unit) : M Unit := do
  let s ← get
  if !s.inOrder k m then pure ()
  else if !s.admits m.tid.toNat m.secure loc then refuse k m loc
  else
    awaitHome loc n
    modify fun s => s.unsend k
    if m.owner = 0 ∧ loc < 2 ^ 56 then modify (·.keepTenant (dieOfHome (homeOf loc)) m.tid.toNat) else pure ()
    act
    modify fun s => { s with pkg := s.pkg.acknowledge m }
    settleOwner m.owner

/-- Message `k` performed at a spot of a scratchpad once its order and its array allow it. -/
def performSpot (k : Nat) (m : Msg) (p : Spot) (act : M Unit) : M Unit := do
  if !(← get).inOrder k m then pure ()
  else
    awaitSpot p
    modify fun s => s.unsend k
    act
    modify fun s => { s with pkg := s.pkg.acknowledge m }
    settleOwner m.owner

/-! ### READ, WRITE, ATOMIC, REDUCE, JOIN -/

/-- The scopes of a message left as releases at the bytes it wrote (R198, R199). -/
def Pkg.leaveFor (p : Pkg) (m : Msg) (loc n : Nat) : Pkg :=
  let a := m.agent
  m.rels.foldl (fun p sc => p.leave ⟨loc, n, a.1, a.2.1, a.2.2, sc, none, m.clock⟩) p

/-- Is an access of a message checked for races (R213): not that of an acquire or a release? Of its own package's stores the
message says itself whether they are plain. -/
def Msg.checked (m : Msg) (loc : Nat) : Bool :=
  m.race && raceHome loc && (m.rels.isEmpty || (m.owner != 0 && !m.isRead))

/-- Does a plain access of a message race with the last plain writer of its granule (R213)? -/
def Pkg.racesFor (p : Pkg) (m : Msg) (loc : Nat) : Bool := m.checked loc && p.racing m.agent.1 m.clock loc

/-- The race record of a plain write of a message (R213). -/
def Pkg.markFor (p : Pkg) (m : Msg) (loc : Nat) : Pkg :=
  let a := m.agent.1
  if m.checked loc then p.raceMark loc a a ((tableGet m.clock a).getD 0 + 1) else p

/-- A poisoned unit met at the home: its event, and the report of it to the sender (R396). -/
def Pkg.poisonReply (p : Pkg) (m : Msg) (loc : Nat) : Pkg := (p.ueEvent loc).replyTo m (.poisoned m.va m.tag?)

/-- READ: the value, the poison or the race goes back; with what an acquire takes up, or with the releases that a plain
load has read noted for its hart's fences (R198, R199). -/
def readMsg (k : Nat) : M Unit := do
  match (← get).pkg.net[k]? with
  | some m =>
    match m.body with
    | .read key n dest tag =>
      match m.spot with
      | some p =>
        performSpot k m p do
          let rs := (← get).spotReleases p n
          let (bs, bad) ← readSpot p n
          if bad then modify fun s => { s with pkg := s.pkg.replyTo m (.poisoned m.va (some tag)) }
          else
            let clock := m.rels.foldl (fun c sc => clockJoin c (takenUp sc m.agent.1 m.agent.2.1 m.agent.2.2 rs)) []
            modify fun s => { s with pkg := s.pkg.replyTo m (.load tag (natOf bs) dest clock) }
            if m.rels.isEmpty then orStop fun s => s.onHart m.owner (Hart.noted rs) else pure ()
      | none =>
      performAt k m key n do
        let s ← get
        let rs := s.pkg.releasesAt key n
        let a := m.agent
        if s.pkg.poisoned key n then set { s with pkg := s.pkg.poisonReply m key }
        else if s.pkg.racesFor m key then set { s with pkg := s.pkg.replyTo m (.raced m.va n (some tag)) }
        else
          let clock := m.rels.foldl (fun c sc => clockJoin c (takenUp sc a.1 a.2.1 a.2.2 rs)) []
          set { s with pkg := s.pkg.replyTo m (.load tag (natOf (s.getBytes key n)) dest clock) }
          if m.rels.isEmpty then orStop fun s => s.onHart m.owner (Hart.noted rs) else pure ()
    | _ => pure ()
  | none => pure ()

/-- Cells written at their homes: as one run of bytes where they are one. -/
def State.writeCells (s : State) (cells : List Host.Cell) : State :=
  let loc := (cells.head?.map (·.1)).getD 0
  let bs := cells.map (·.2)
  if cells = cellsOf loc bs then s.writeHome loc bs else cells.foldl (fun s c => s.writeHome c.1 [c.2]) s

/-- The byte with its low or high nibble replaced (R197, R225). -/
def mergeNibble (old : List Byte) (hi v : Nat) : List Byte := [BitVec.ofNat 8 (putField (natOf old) (4 * hi) 4 v)]

/-- WRITE: to memory, or to the scratchpad that it was sent to; one that races is not performed, and that is told
(R214). -/
def writeMsg (k : Nat) : M Unit := do
  match (← get).pkg.net[k]? with
  | some m =>
    match m.body with
    | .nibble key hi v =>
      performAt k m key 1 <| modify fun s =>
        if s.pkg.racesFor m key then { s with pkg := s.pkg.replyTo m (.raced m.va 1 none) }
        else
          let s := s.writeHome key (mergeNibble (s.getBytes key 1) hi v)
          { s with pkg := (s.pkg.markFor m key).leaveFor m key 1 }
    | .write cells =>
      let loc := (cells.head?.map (·.1)).getD 0
      match m.spot with
      | some p =>
        performSpot k m p do
          writeSpot p (cells.map (·.2)) false
          modify fun s => { s with pkg := (s.spotLocs p).foldl (fun t l => t.leaveFor m l cells.length) s.pkg }
          orStop fun s => s.forwardSpot m.owner p (cells.map (·.2)) false
      | none =>
        performAt k m loc cells.length <| modify fun s =>
          if s.pkg.racesFor m loc then { s with pkg := s.pkg.replyTo m (.raced m.va cells.length none) }
          else
            let s := s.writeCells cells
            { s with pkg := (s.pkg.markFor m loc).leaveFor m loc cells.length }
    | _ => pure ()
  | none => pure ()

/-- An atomic of a message at a spot of a scratchpad, wherever its bytes lie by then (R217, R388). -/
def atomicSpot (m : Msg) (p : Spot) (op : AtomicOp) (v expected : Nat) (dest : Dest) (tag : Nat) : M Unit := do
  let n := op.width / 8
  let rs := (← get).spotReleases p n
  let (bs, bad) ← readSpot p n
  if bad then modify fun s => { s with pkg := s.pkg.replyTo m (.poisoned m.va (some tag)) }
  else
    let (new, fl) := op.apply (natOf bs) v expected
    writeSpot p (bytesOf n new) false
    orStop fun s => s.forwardSpot m.owner p (bytesOf n new) false
    modify fun s =>
      let q := (s.spotLocs p).foldl (fun t l => t.leaveFor m l n) (rs.foldl Pkg.leave s.pkg)
      { s with pkg := q.replyTo m (.amo tag (natOf bs) dest fl) }
    orStop fun s => s.onHart m.owner (Hart.noted rs)

/-- ATOMIC: nothing is done to a poisoned unit; else the old value and the flags go back. -/
def atomicMsg (k : Nat) : M Unit := do
  match (← get).pkg.net[k]? with
  | some m =>
    match m.body with
    | .atomic op key v expected dest tag =>
      let n := op.width / 8
      let act : M Unit := do
        let s ← get
        if s.pkg.poisoned key n then set { s with pkg := s.pkg.poisonReply m key }
        else
          let rs := s.pkg.releasesAt key n
          let (s, old, fl) := s.atomicAt op key v expected
          set { s with pkg := (s.pkg.leaveFor m key n).replyTo m (.amo tag old dest fl) }
          orStop fun s => s.onHart m.owner (Hart.noted rs)
      match m.spot with
      | some p => performSpot k m p (atomicSpot m p op v expected dest tag)
      | none => performAt k m key n act
    | _ => pure ()
  | none => pure ()

/-- One element of a REDUCE applied: its flags, or a report of poison (R231, R396). What releases left at its bytes stays
(R198), and its hart's next rfence is a release for it (R238). -/
def State.reduceElem (m : Msg) (acc : State × Flags) (e : RedElem) : State × Flags :=
  let s := acc.1
  let n := e.op.width / 8
  if s.pkg.poisoned e.key n then
    ({ s with pkg := (s.pkg.ueEvent e.key).replyTo m (.poisoned e.va none) }, acc.2)
  else
    let (s, _, fl) := s.atomicAt e.op e.key e.value 0
    let p := (s.pkg.leaveFor m e.key n).leaveReduced m.owner m.core m.tid.toNat e.key n
    ({ s with pkg := p }, acc.2 ||| fl)

/-- REDUCE. -/
def reduceMsg (k : Nat) : M Unit := do
  match (← get).pkg.net[k]? with
  | some m =>
    match m.body with
    | .reduce elems =>
      match elems with
      | [] => modify fun s => s.unsend k
      | e :: _ =>
        performAt k m e.key (e.op.width / 8) do
          elems.forM fun e => awaitHome e.key (e.op.width / 8)
          modify fun s =>
            let r := elems.foldl (State.reduceElem m) (s, 0)
            { r.1 with pkg := r.1.pkg.replyTo m (.flags r.2) }
    | _ => pure ()
  | none => pure ()

/-- JOIN_APPLY: a join of another package's hart at its home (R314); nothing is done where it would read poison (R396). -/
def joinMsg (k : Nat) : M Unit := do
  match (← get).pkg.net[k]? with
  | some m =>
    match m.body with
    | .join loc tag =>
      performAt k m loc 16 do
        awaitHome (loc + 64) 64
        match (← get).joinPoison loc with
        | some l => modify fun s => { s with pkg := s.pkg.poisonReply m l }
        | none =>
          orStop fun s => s.joinAt m.tid.toNat m.secure loc m.clock
          modify fun s => { s with pkg := s.pkg.replyTo m (.done (some tag)) }
    | _ => pure ()
  | none => pure ()

/-! ### Subscription updates (R278, R368) -/

/-- Bytes by rising offset as runs of bytes that follow one another and are all poisoned or none, with the offset of
each. -/
def updateRuns (bad : List Nat) : List (Nat × Byte) → List (Nat × Bool × List Byte)
  | [] => []
  | (o, b) :: r =>
    match updateRuns bad r with
    | (o', p, bs) :: rs =>
      if o' = o + 1 ∧ p = bad.contains o then (o, p, b :: bs) :: rs else (o, bad.contains o, [b]) :: (o', p, bs) :: rs
    | [] => [(o, bad.contains o, [b])]

/-- SUBSCRIPTION_UPDATE: a batch written into the subscriber's copy or its backing area as one write, with its poison. -/
def updateMsg (k : Nat) : M Unit := do
  let s ← get
  match s.pkg.net[k]? with
  | some m =>
    match m.body with
    | .update id entry bytes bad =>
      if !s.inOrder k m then pure ()
      else
        let cluster := (s.coreOf id).map clusterOfCore
        let foreign := cluster.any fun c => s.pkg.tenantOf (c / 48) (c % 48) != m.tid.toNat
        modify fun s => s.unsend k
        match (s.hart? id).bind fun h => (h.subs.getD entry none).map fun e => (h, e) with
        | some (h, e) =>
          if foreign then
            let c := cluster.getD 0
            let at_ := 2 ^ 63 + bitOf e.cluster * 2 ^ 62 + e.off
            modify fun s => { s with pkg := s.pkg.tenantDrop (c / 48) (8 * c) m.tid.toNat at_ }
          else
            (updateRuns bad bytes).forM fun r => do
              awaitSpot (h.spot e.cluster (e.off + r.1))
              writeSpot (h.spot e.cluster (e.off + r.1)) r.2.2 r.2.1
        | none => pure ()
        settleOwner m.owner
        settleOwner id
    | _ => pure ()
  | none => pure ()

/-! ### Responses (R188, R217, R230, R251, R384) -/

/-- An x register with `n` bytes from byte `lo` of a load of `size` bytes in it; the last of them brings the extension. -/
def xPart (old : Dword) (lo n size : Nat) (signed : Bool) (v : Nat) : Dword :=
  if lo + n = size then
    let top : Int := if signed then signExtend v (8 * n) else (v : Int)
    BitVec.ofNat 64 (old.toNat % 2 ^ (8 * lo) + wrap top 64 * 2 ^ (8 * lo))
  else BitVec.ofNat 64 (putField old.toNat (8 * lo) (8 * n) v)

/-- A hart with the oldest instruction of its VDQ replaced. -/
def Hart.onHeadInsn (f : VdqInsn → VdqInsn) (h : Hart) : Hart :=
  match h.vdq with
  | .insn q :: r => { h with vdq := .insn (f q) :: r }
  | _ => h

/-- An instruction with eight bytes of a row that it reads. -/
def VdqInsn.putRow (row unit v : Nat) (q : VdqInsn) : VdqInsn :=
  { q with rows := updateAt (fun r => BitVec.ofNat 1024 (putField r.toNat (64 * unit) 64 v)) q.rows row }

/-- A hart with the destination of an outstanding load or atomic written (R216, R217, R228 to R230). -/
def Hart.writeDest (d : Dest) (v : Nat) (h : Hart) : Hart :=
  match d with
  | .x d => h.setX (BitVec.ofNat 5 d) (BitVec.ofNat 64 v)
  | .sx d size => h.setX (BitVec.ofNat 5 d) (dwordOf (signExtend v (8 * size)))
  | .xpart d lo n size signed =>
    h.setX (BitVec.ofNat 5 d) (xPart (h.getX (BitVec.ofNat 5 d)) lo n size signed v)
  | .v reg lo width shift _ =>
    let k := reg + lo / 1024
    { h with v := h.v.setIfInBounds k (BitVec.ofNat 1024 (putField (h.v.getD k 0).toNat (lo % 1024) width (v / 2 ^ shift))) }
  | .tile row unit => h.onHeadInsn (VdqInsn.putRow row unit v)

/-- A hart that no longer waits for a response. -/
def Hart.unpend (tag : Nat) (h : Hart) : Hart :=
  { h with pend := h.pend.filter (·.1 != tag), waitTags := h.waitTags.filter (· != tag) }

/-- The destination of an outstanding access. -/
def Hart.destOf (h : Hart) (tag : Nat) : Option Dest := (h.pend.find? (·.1 == tag)).map (·.2)

/-- The element of a vector instruction that a destination belongs to. -/
def Dest.elem? : Dest → Option Nat
  | .v _ _ _ _ e => some e
  | _ => none

/-- A trap that a response brings for the instruction that the hart waits at: of several, the one of the lowest element is
taken (R222, R234). -/
def Hart.failAt (cause : Nat) (va : Dword) (elem : Option Nat) (h : Hart) : Hart :=
  let t := (cause, (elem.map (BitVec.ofNat 64)).getD va, elem)
  match h.waitTrap with
  | some u => if elem.getD 0 < u.2.2.getD 0 then { h with waitTrap := some t } else h
  | none => { h with waitTrap := some t }

/-- A response that brings no value: a trap for the instruction that waits for it, or for the oldest of the VDQ; one that
nothing waits for leaves its destination as it was (log 79). -/
def Hart.failTag (cause : Nat) (va : Dword) (tag : Nat) (h : Hart) : Hart :=
  match h.destOf tag with
  | some (.tile _ _) => (h.unpend tag).onHeadInsn fun q => { q with late := q.late.or (some (cause, va)) }
  | some d => if h.waitTags.contains tag then (h.unpend tag).failAt cause va d.elem? else h.unpend tag
  | none => h

/-- A hart that has taken up what an acquire load read, with the stores after that load (R198, R227). -/
def Hart.acquiredAt (tag : Nat) (c : List (Nat × Nat)) (h : Hart) : Hart :=
  let later (e : SbEntry) : SbEntry := if tag < e.before then { e with clock := clockJoin e.clock c } else e
  if c.isEmpty then h else { h.acquired c with sb := h.sb.map later }

/-- The record of a store of `n` bytes of which a response reports a race (log 76). -/
def Hart.raceRecord (h : Hart) (va : Dword) (n : Nat) : SfRecord := ⟨va, h.pc, maskOf n, BitVec.ofNat 8 causeRace⟩

/-- What a response does to its hart. A refusal without a tag answers a launch.r (R336, R369); a store that raced becomes
a store-fault record (R214, log 76). -/
def RespBody.apply (b : RespBody) (h : Hart) : Hart :=
  match b with
  | .done tag => (tag.map fun t => h.unpend t).getD h
  | .load tag v dest clock =>
    if (h.destOf tag).isSome then ((h.unpend tag).writeDest dest v).acquiredAt tag clock else h
  | .amo tag v dest fl =>
    if (h.destOf tag).isSome then
      let g := (h.unpend tag).writeDest dest v
      { g with
        fcsr := g.fcsr ||| (fl.zeroExtend 64 <<< 4)
        waitFlags := if h.waitTags.contains tag then g.waitFlags ||| fl else g.waitFlags }
    else h
  | .flags fl => { h with fcsr := h.fcsr ||| (fl.zeroExtend 64 <<< 4) }
  | .launched code => { h with launchCode := some code }
  | .enqueued _ _ => h
  | .poisoned va (some tag) =>
    match h.destOf tag with
    | some (.tile _ _) => h.failTag causeUncorrectable va tag
    | _ => if h.waitTags.contains tag then h.failTag causeUncorrectable va tag else { h.unpend tag with uncorrectable := some va }
  | .poisoned va none => { h with uncorrectable := some va }
  | .refused va (some tag) => h.failTag causeTenant va tag
  | .refused _ none => if h.launchAt.isSome then { h with launchCode := some 16 } else h
  | .dropped _ _ => h
  | .raced va _ (some tag) => h.failTag causeRace va tag
  | .raced va n none => { h with sfq := h.sfq ++ [h.raceRecord va n] }

/-- The order of the keys of a hart's misses: INSTRET, then element. -/
def keyBefore (a b : Nat × Nat) : Bool := decide (a.1 < b.1) || (a.1 == b.1 && decide (a.2 < b.2))

/-- Has the hart of a response taken, in the cycle of now, a miss of a later key (R251)? -/
def State.missPassed (s : State) (r : Resp) : Bool :=
  r.miss.isSome && match s.coreOf r.owner, s.hart? r.owner with
  | some c, some h => h.missAt.any fun m => m.1 == (s.pkg.die (dieOfCore c)).edgeAt && keyBefore r.key m.2
  | _, _ => false

/-- A hart that has taken a miss in a cycle. -/
def Hart.missTaken (edge : Nat) (key : Nat × Nat) (h : Hart) : Hart := { h with missAt := some (edge, key) }

/-- The responses as they are delivered where nothing names another order: those that report misses in key order (R251). -/
def Pkg.respOrder (p : Pkg) : List Nat :=
  let misses := (List.range p.resps.length).filter fun k => (p.resps[k]?).any (·.miss.isSome)
  let key (k : Nat) : Nat × Nat := ((p.resps[k]?).map (·.key)).getD (0, 0)
  let insert (k : Nat) (l : List Nat) : List Nat := l.takeWhile (fun j => !keyBefore (key k) (key j)) ++ k :: l.dropWhile fun j => !keyBefore (key k) (key j)
  (List.range p.resps.length).filter (fun k => !misses.contains k) ++ misses.foldl (fun l k => insert k l) []

/-- The answer to a continuation that went out to another package (R305): done with, or held by its die; one that is lost
there is counted there (log 77). -/
def State.contAnswer (s : State) (tag code : Nat) : State :=
  (List.range 4).foldl (fun s d =>
    match (s.pkg.die d).conts.find? fun c => c.out && c.tag == tag with
    | none => s
    | some c =>
      let s := { s with pkg := s.pkg.onDie d fun x => { x with conts := x.conts.filter fun c => !(c.out && c.tag == tag) } }
      if code = 4 then s.holdCont d c else s) s

/-- A response given to its hart, on a core or parked; a record that finds a hart's queue full goes to its save area
(R390). -/
def State.deliver (s : State) (r : Resp) : Option State :=
  match r.body, s.coreOf r.owner with
  | .raced va n none, some c =>
    let t := s.focus c
    (t.keepFault (t.h.raceRecord va n)).map (·.focus s.core.id)
  | b, _ => s.onHart r.owner b.apply

/-- The die of a hart, or of its gang while it is parked. -/
def State.dieOf (s : State) (id : Nat) : Nat :=
  ((s.coreOf id).map dieOfCore).getD (((s.gang? (id / 8)).map (·.die)).getD 0)

/-- Does a response answer a launch.r of its hart? -/
def RespBody.answersLaunch : RespBody → Bool
  | .launched _ => true
  | .refused _ none => true
  | _ => false

/-- The package with the launch.r that a response answers no longer on its way (R184). -/
def Pkg.launchAnswered (p : Pkg) (r : Resp) : Pkg :=
  if r.body.answersLaunch then { p with launches := p.launches.filter (·.1 != r.owner) } else p

/-- RESP: response `k` reaches its hart; a core that stands still takes none. -/
def respond (k : Nat) : M Unit := do
  let s ← get
  match s.pkg.resps[k]? with
  | none => pure ()
  | some r =>
    if (s.coreOf r.owner).any (fun c => s.pkg.stopped (dieOfCore c)) || s.turnDue r.owner || s.missPassed r then
      pure ()
    else
      awaitArea r.owner
      modify fun s => { s with pkg := { s.pkg.launchAnswered r with resps := s.pkg.resps.eraseIdx k } }
      match r.owner, r.body with
      | 0, .enqueued tag code => modify fun s => s.contAnswer tag code
      | 0, .refused _ (some tag) => modify fun s => s.contAnswer tag 1
      | _, .dropped tid addr =>
        modify fun s => { s with pkg := s.pkg.tenantDrop (s.dieOf r.owner) ((s.coreOf r.owner).getD 0xFFFF) tid addr }
      | _, _ => pure ()
      match r.miss with
      | some (va, cls, late) =>
        orStop fun s => s.reportMiss r.owner (s.dieOf r.owner) va cls late
        let edge (c : Nat) : Nat := (s.pkg.die (dieOfCore c)).edgeAt
        orStop fun s => s.onHart r.owner (Hart.missTaken (((s.coreOf r.owner).map edge).getD 0) r.key)
      | none => pure ()
      orStop fun s => s.deliver r
      settleOwner r.owner

/-! ### Spanning barriers (R330) -/

/-- What a root holds for a phase: each contributing die once, a root without local members counted with stamp 0. -/
def SpanGroup.heldFor (g : SpanGroup) (q : Nat) (self : Option Nat) : List (Nat × Nat) :=
  let mine := (g.held.filter fun e => e.1 == q).map (·.2)
  match self with
  | some d => (d, 0) :: mine
  | none => mine

/-- Are messages of a spanning group's root held back, while the route to a member moves (R184)? -/
def Pkg.releaseHeld (p : Pkg) (d n : Nat) : Bool :=
  ((p.die d).span n).held.any fun e => e.2.1 / 4 != p.number && (p.route d (e.2.1 / 4)).isNone

/-- CONTRIBUTION: it is held at the root; with the last one the release is sent. The phase travels modulo 4, and each
die counts it from its own completed phases. -/
def contribution (k : Nat) : M Unit := do
  match (← get).pkg.net[k]? with
  | some m =>
    match m.body with
    | .contribution n q4 stamp fromDie d =>
      let held := (← get).pkg.releaseHeld d n || (fromDie / 4 != (← get).pkg.number && ((← get).pkg.route d (fromDie / 4)).isNone)
      if m.dst < 4 && held then pure ()
      else modify fun s =>
        let s := s.unsend k
        let p := s.pkg
        if 4 ≤ m.dst then { s with pkg := { p with outputs := p.outputs ++ [Output.fabric m] } }
        else
          let cfg := p.ctl (offSpan d n 0)
          if !bit cfg 0 || !bit cfg 1 then { s with pkg := p.logEvent d 0x0C 0xFFFF n fromDie }
          else
            let g := (p.die d).span n
            let q := phaseOf g.phases q4
            let g := { g with
              held := g.held ++ [(q, fromDie, stamp)]
              clocks := joinPhase (recentClocks g.clocks g.phases) q m.clock }
            let self := if p.spanCount d n = 0 then some (4 * p.number + d) else none
            let all := g.heldFor q self
            if all.length ≠ bits (p.ctl (offSpan d n 1)) 0 13 then { s with pkg := p.setSpan d n g }
            else
              let time := all.foldl (fun t e => max t e.2) 0 + bits cfg 16 16
              let clock := (tableGet g.clocks q).getD []
              let p := p.setSpan d n { g with held := g.held.filter fun e => e.1 != q }
              let release (e : Nat × Nat) : Msg :=
                p.barrierMsg 0 d (e.1 / 4) (e.1 % 4) m.tid m.secure (.release n q4 time (e.1 % 4)) clock
              (all.map release).foldl State.sendBarrier { s with pkg := p }
    | _ => pure ()
  | none => pure ()

/-- The phases of a spanning group whose releases have come counted, at most `fuel` of them. -/
def SpanGroup.advance (g : SpanGroup) : Nat → SpanGroup
  | 0 => g
  | n + 1 =>
    if g.releases.any fun r => r.1 == g.phases then
      ({ g with phases := g.phases + 1, arrived := g.arrived.filter fun a => a.1 != g.phases
                stamps := g.stamps.filter fun a => a.1 != g.phases } : SpanGroup).advance n
    else g

/-- SPAN_RELEASE: T_release reaches a member die; LASTREL is that of the newest phase completed (R329), for releases may come
out of order. -/
def spanRelease (k : Nat) : M Unit := do
  match (← get).pkg.net[k]? with
  | some m =>
    match m.body with
    | .release n q4 time d =>
      modify fun s =>
        let s := s.unsend k
        let p := s.pkg
        if 4 ≤ m.dst then { s with pkg := { p with outputs := p.outputs ++ [Output.fabric m] } }
        else
          let g := (p.die d).span n
          let q := phaseOf g.phases q4
          let g := { g with
            releases := tableSet (g.releases.filter fun r => decide (g.phases ≤ r.1 + 4)) q time
            clocks := joinPhase g.clocks q m.clock }
          let g' := g.advance 4
          let p := p.setSpan d n g'
          { s with pkg := if g'.phases = g.phases then p else
              p.setCtl (offSpan d n 3) (BitVec.ofNat 64 ((tableGet g'.releases (g'.phases - 1)).getD 0)) }
    | _ => pure ()
  | none => pure ()

/-! ### The events -/

/-- READ: a read performed at its home (R188). -/
def execEvRead (k : Nat) (s : State) : Out := finishAt (allOrNothing (readMsg k)) s

/-- WRITE: a write performed at its home in its pair's order (R188, R189). -/
def execEvWrite (k : Nat) (s : State) : Out := finishAt (allOrNothing (writeMsg k)) s

/-- ATOMIC: an atomic performed at its home (R201). -/
def execEvAtomic (k : Nat) (s : State) : Out := finishAt (allOrNothing (atomicMsg k)) s

/-- REDUCE: a return-free reduction applied and acknowledged (R231). -/
def execEvReduce (k : Nat) (s : State) : Out := finishAt (allOrNothing (reduceMsg k)) s

/-- RESP: a response reaches its core (R251). -/
def execEvResp (k : Nat) (s : State) : Out := finishAt (allOrNothing (respond k)) s

/-- JOIN_APPLY: a join at its home (R314). -/
def execEvJoinApply (k : Nat) (s : State) : Out := finishAt (allOrNothing (joinMsg k)) s

/-- SUBSCRIPTION_UPDATE: a batch applied at the subscriber's copy (R278). -/
def execEvSubscriptionUpdate (k : Nat) (s : State) : Out := finishAt (allOrNothing (updateMsg k)) s

/-- CONTRIBUTION: a contribution at the root (R330). -/
def execEvContribution (k : Nat) (s : State) : Out := finishAt (contribution k) s

/-- SPAN_RELEASE: a release at a member die (R330). -/
def execEvSpanRelease (k : Nat) (s : State) : Out := finishAt (spanRelease k) s

end Sys2Proof.Machine
end

