-- ==== Sys2Proof/Machine/Timed.lean ====
section
/-! DEFINITION. Timed accesses and ordered reductions at their homes: arrival and deadline (R245), the buffers (R246,
R248), misses (R249, R250), and the processing of instants (R247, R255). -/

namespace Sys2Proof.Machine

/-- A timed store. -/
def Timed.isStore (t : Timed) : Bool :=
  match t.body with
  | .store _ => true
  | _ => false

/-- Are two timed accesses held in one buffer or one wait list (R246)? -/
def Timed.rival (a b : Timed) : Bool := a.home == b.home && a.isLoad == b.isLoad

/-- The entries of a home's buffer, or of its list of timed loads (R246). -/
def timedEntries (home : Nat) (load : Bool) : Nat :=
  if 100 ≤ home ∧ home < 3000 then (if load then 32 else 64) else (if load then 256 else 512)

/-- Is an entry free for a timed access? -/
def Pkg.roomFor (p : Pkg) (t : Timed) : Bool := decide ((p.held.filter t.rival).length < timedEntries t.home t.isLoad)

/-- Has the home begun the instant `time` (R249)? While its die relocks, up to the instant at which the relock began;
otherwise every instant up to now, unless held work of that instant or an earlier one is still owed. -/
def Pkg.begun (p : Pkg) (t : Timed) : Bool :=
  match (p.die (dieOfHome t.home)).relockEnd, arrayOf t.key with
  | some e, some _ => decide (t.time ≤ (e - relockTime + p.gtShift) / 990)
  | _, _ => decide (t.time ≤ p.gtime) && !p.held.any fun h => h.home == t.home && decide (h.time ≤ t.time)

/-- The class and lateness of a timed access that obtains its entry now, 0 for none (R245, R248, R250). -/
def Timed.judge (t : Timed) (waited : Bool) (now : Nat) : Nat × Nat :=
  let deadline : Int := (t.time : Int) - t.guard
  let capacity := waited && decide (deadline < now)
  let missed := capacity || decide (deadline < t.stamp)
  if !missed then (0, 0)
  else (if t.debug then 3 else if capacity then 2 else 1, ((t.stamp : Int) - deadline).toNat)

/-- The miss that a response reports. -/
def Timed.miss (t : Timed) : Option (Dword × Nat × Nat) := if t.cls = 0 then none else some (t.va, t.cls, t.late)

/-- The INSTRET and element of an access, by which reports of misses are taken in order (R251). -/
def Timed.key2 (t : Timed) : Nat × Nat := (t.instret, t.elem)

/-- A timed access obtains its entry: it is judged, given the instant at which it is applied (R249), and a store is
acknowledged (R236, R252). -/
def Pkg.obtain (p : Pkg) (t : Timed) (waited : Bool) : Pkg :=
  let (cls, late) := t.judge waited p.gtime
  let t := { t with cls := cls, late := late, time := if p.begun t then max t.time p.gtime else t.time }
  let p := { p with held := p.held ++ [t] }
  if t.isStore && (cls != 0 || t.owner == 0) then p.reply t.owner t.hart 0 (.done none) t.miss t.key2 else p

/-- TIMED_ARRIVAL: message `k` is stamped at its home's boundary, and obtains an entry or waits for one. -/
def timedArrival (k : Nat) : M Unit := do
  let s ← get
  match s.pkg.net[k]? with
  | some m =>
    match m.body with
    | .timed t =>
      if !s.admits m.tid.toNat m.secure t.key then refuse k m t.key
      else
        let p := s.pkg
        let halted (d : Nat) : Bool := (p.die d).haltedIn t.issued p.time
        let t := { t with
          stamp := p.gtime
          debug := (if m.owner = 0 then t.debug else halted (dieOfCore m.core)) || (dstOf t.key < 4 && halted (dieOfHome t.home)) }
        modify fun s =>
          let s := s.unsend k
          let p := s.pkg
          { s with pkg :=
              if p.roomFor t && !p.waiting.any t.rival then p.obtain t false else { p with waiting := p.waiting ++ [t] } }
        settleOwner m.owner
    | _ => pure ()
  | none => pure ()

/-- TIMED_ENTRY_GRANT: access `k` of those that wait obtains an entry, the first of its buffer (R246, R248). -/
def entryGrant (k : Nat) : M Unit := do
  let s ← get
  match s.pkg.waiting[k]? with
  | none => pure ()
  | some t =>
    if !s.pkg.roomFor t || (s.pkg.waiting.take k).any t.rival then pure ()
    else
      modify fun s => { s with pkg := { s.pkg with waiting := s.pkg.waiting.eraseIdx k }.obtain t true }
      settleOwner t.owner

/-! ### Instants (R247) -/

/-- The key of R247 compared. -/
def Timed.before (a b : Timed) : Bool :=
  if a.hart != b.hart then decide (a.hart < b.hart)
  else if a.instret != b.instret then decide (a.instret < b.instret)
  else decide (a.elem < b.elem)

/-- A timed access put in key order, after those of its own key. -/
def insertTimed (t : Timed) : List Timed → List Timed
  | [] => [t]
  | u :: r => if t.before u then t :: u :: r else u :: insertTimed t r

/-- Accesses in key order, those of equal keys as they were obtained. -/
def sortTimed (l : List Timed) : List Timed := l.foldl (fun r t => insertTimed t r) []

/-- Equal keys. -/
def Timed.sameKey (a b : Timed) : Bool := a.hart == b.hart && a.instret == b.instret && a.elem == b.elem

/-- What timed writes of these bytes have left for timed loads (R205, R207), of times up to `time`. -/
def Pkg.timedClock (p : Pkg) (loc n time : Nat) : List (Nat × Nat) :=
  (p.released.filter fun r => decide (r.key < loc + n) && decide (loc < r.key + r.size) && r.time.any (· ≤ time)).foldl
    (fun c r => clockJoin c r.clock) []

/-- A timed write that did not miss leaves its point at the location of its bytes for the timed loads of them, whatever is
written there later. -/
def Pkg.leaveTimed (p : Pkg) (t : Timed) (loc : Nat) (before : List (Nat × Nat)) : Pkg :=
  if t.cls != 0 then p
  else p.leave ⟨loc, t.size, t.owner, 0, 0, 0, some t.time, clockJoin before t.clock⟩

/-- The locations where the bytes of a timed access lie now: those of its spot, wherever its granule is (R212, R388), or its
home's. -/
def State.timedPlaces (s : State) (t : Timed) : List Nat :=
  match t.spot with
  | some p => s.spotLocs p
  | none => [t.key]

/-- Bytes written by a timed write: to its spot in a scratchpad, with forwarding (R273, R388), or at its home over what
is pending there (R296). -/
def timedWrite (t : Timed) (bs : List Byte) : M Unit := do
  let s ← get
  let before := (s.timedPlaces t).foldl (fun c l => clockJoin c (s.pkg.timedClock l bs.length t.time)) []
  match t.spot with
  | some p =>
    writeSpot p bs false
    orStop fun s => s.forwardSpot t.owner p bs false
  | none => modify fun s => (s.pulled t.key).putHeld t.key bs
  modify fun s => { s with
    pkg := (s.timedPlaces t).foldl (fun p l => (p.overwritten l bs.length).leaveTimed t l before) s.pkg }

/-- The bytes that a timed access finds, with whether they are poisoned, of which a UE event tells (R396). -/
def timedRead (t : Timed) : M (List Byte × Bool) := do
  match t.spot with
  | some p => readSpot p t.size
  | none =>
    modify (·.pulled t.key)
    let s ← get
    let bad := s.pkg.poisoned t.key t.size
    if bad then set { s with pkg := s.pkg.ueEvent t.key } else pure ()
    pure (s.heldBytes t.key t.size, bad)

/-- One timed access applied or performed, with its response. -/
def applyTimed (t : Timed) : M Unit := do
  match t.body with
  | .store bs => timedWrite t bs
  | .reduce op v =>
    let (bs, bad) ← timedRead t
    if bad then
      modify fun s => { s with pkg := s.pkg.reply t.owner t.hart 0 (.poisoned t.va none) t.miss t.key2 }
    else
      let (new, fl) := op.apply (natOf bs) v 0
      timedWrite t (bytesOf t.size new)
      modify fun s =>
        let tid := ((s.hart? t.owner).map fun h => bits h.tid 0 12).getD 0
        let p := (s.timedPlaces t).foldl (fun p l => p.leaveReduced t.owner ((s.coreOf t.owner).getD 0) tid l t.size) s.pkg
        { s with pkg := p.reply t.owner t.hart 0 (.flags fl) t.miss t.key2 }
  | .load n dest tag =>
    let (bs, bad) ← timedRead t
    let s ← get
    let rs := match t.spot with
      | some p => s.spotReleases p n
      | none => s.pkg.releasesAt t.key n
    let clock := if t.cls = 0 then (s.timedPlaces t).foldl (fun c l => clockJoin c (s.pkg.timedClock l n t.time)) [] else []
    let body : RespBody := if bad then .poisoned t.va (some tag) else .load tag (natOf bs) dest clock
    set { s with pkg := s.pkg.reply t.owner t.hart 0 body t.miss t.key2 }
    if bad then pure () else orStop fun s => s.onHart t.owner (Hart.noted rs)

/-- A KEYDUP event for each pair of equal keys that meet, with the time that the access asked for (R255); it names the
location of the one that is applied later, of which the rules do not speak (log 73). -/
def Pkg.keyDups (p : Pkg) : List Timed → Pkg
  | [] => p
  | t :: r =>
    match r with
    | [] => p
    | u :: _ =>
      let p := if t.sameKey u then p.logEvent (dieOfHome u.home) 0x07 (sourceOf u.key) (p.addressOf u.key) u.asked else p
      p.keyDups r

/-- TIMED_INSTANT: the earliest instant that a home owes (R247): its stores and reductions in key order, then its loads. -/
def timedInstant (home : Nat) : M Unit := do
  let s ← get
  let due := s.pkg.due home
  match leastBy (·.time) due with
  | none => pure ()
  | some first =>
    let now := due.filter fun t => t.time == first.time
    let asleep := now.filter fun t => s.pkg.stalled t.key
    if !asleep.isEmpty then
      modify fun s => { s with pkg := asleep.foldl (fun p t => p.wake t.key) s.pkg }
      again
    else
      let writes := sortTimed (now.filter fun t => !t.isLoad)
      modify fun s =>
        let p := { s.pkg with held := s.pkg.held.filter fun t => !now.contains t }
        { s with pkg := p.keyDups writes }
      (writes ++ now.filter Timed.isLoad).forM applyTimed
      (now.map (·.owner)).eraseDups.forM settleOwner

/-- TIMED_ARRIVAL: a timed access at its home's boundary (R245). -/
def execEvTimedArrival (k : Nat) (s : State) : Out := finishAt (allOrNothing (timedArrival k)) s

/-- TIMED_ENTRY_GRANT: an entry for a timed access that waits (R248). -/
def execEvTimedEntryGrant (k : Nat) (s : State) : Out := finishAt (entryGrant k) s

/-- TIMED_INSTANT: an instant of a home (R247). -/
def execEvTimedInstant (home : Nat) (s : State) : Out := finishAt (allOrNothing (timedInstant home)) s

end Sys2Proof.Machine
end

