-- ==== Sys2Proof/Machine/Fetch.lean ====
section
/-! DEFINITION. Instruction fetch (R49, R52, R53, R175, R355): through translation and the L1 instruction cache. -/

namespace Sys2Proof.Machine

/-- Lines that the L1 instruction cache holds: 64 KiB of 64 bytes (R14). -/
def icacheLines : Nat := 1024

/-- The instruction word at an offset of a cached line. -/
def lineWord (line : BitVec 512) (off : Nat) : Nat := line.toNat / 2 ^ (8 * off) % 2 ^ 32

/-- The instruction word at a virtual address, for the hart of the state: a line that the cache holds is read as it was
when it was filled (R175). -/
def fetchWord (va : Dword) : M Nat := do
  let a := va.toNat
  trapIf (decide (windowBase ≤ a) && decide (a < windowBase + 2 ^ 32)) causeFetchFault va
  let s ← get
  let t ← resolve s.who .fetch causeFetchFault va a
  let base := t.loc / 64 * 64
  match tableGet (← get).core.icache (t.loc / 64) with
  | some line =>
    checkL1 true t.loc 4 va
    pure (lineWord line (t.loc % 64))
  | none =>
    awaitHome t.loc 4
    checkPoison t.loc 4 va
    let s ← get
    let line := BitVec.ofNat 512 (natOf (s.getBytes base 64))
    if s.pkg.poisoned base 64 then pure ()
    else set { s with
      core := { s.core with icache := ((t.loc / 64, line) :: s.core.icache).take icacheLines }
      pkg := s.pkg.filledL1 s.core.id (· == t.loc / 64) }
    pure (lineWord line (t.loc % 64))

/-- The instruction at the PC: its first word, and its second where it is a long form (R53). -/
def fetchPair : M (Nat × Nat) := do
  let pc := (← get).h.pc
  if bits pc 0 2 ≠ 0 then trapOf causeFetchMisaligned pc else pure ()
  let w ← fetchWord pc
  if w / 2 ^ 26 = 0x3F then pure (w, ← fetchWord (pc + 4)) else pure (w, 0)

end Sys2Proof.Machine
end

