-- ==== Sys2Proof/Machine/Reports.lean ====
section
/-! DEFINITION. What a hart takes at an instruction boundary (R219, R380), pre-emption and resuming (R383 to R387), the
store buffer's own step (R218), and the ends of waits (R330, R332). -/

namespace Sys2Proof.Machine

/-! ### Reports (R380) -/

/-- What is taken at a boundary, in the order of R380. -/
inductive Report where
  | kill (v : Dword)
  | park
  | notice (v : Dword)
  | fault (r : SfRecord)
  | copy (v : Dword)
  | uncorrectable (v : Dword)
  | deadline (v : Dword)
deriving DecidableEq, Repr

/-- The reports that a hart at user privilege owes, first the one it takes. -/
def Hart.owes (h : Hart) : List Report :=
  (h.kill.map Report.kill).toList ++ (if h.preempt then [.park] else []) ++ (h.noticeWord.map Report.notice).toList ++
  (h.sfq.head?.map Report.fault).toList ++ (h.copyErrs.head?.map Report.copy).toList ++
  (h.uncorrectable.map Report.uncorrectable).toList ++ (h.deadline.map Report.deadline).toList

/-- What a running hart takes at the boundary it is at, none while a vector memory instruction is amid its elements: at higher privilege, and while the response to a launch or an
access that it waits for is on its way, only the pre-emption stop. -/
def Hart.report (h : Hart) : Option Report :=
  if h.status != .running || h.amid.isSome then none
  else if h.launchAt.isSome || h.waitAt.isSome || h.priv != .user then (if h.preempt then some .park else none)
  else h.owes.head?

/-- The oldest instruction of the VDQ abandoned (R166, R385): its memory accesses are made again, from its first, when the
queue is back on a core. -/
def Hart.abandon (h : Hart) : Hart :=
  { h.dropRows.onHeadInsn (fun q => { q with done := 0, rows := [], late := none }) with head := none }

/-- PREEMPT_STOP (R383, R385): issue stops, STATE becomes 1. -/
def stopHart : M Unit := do
  orStop fun s => s.markState s.h 1
  modify fun s => { s with h := { s.h.abandon with status := .parking, preempt := false, atWait := false } }

/-- A kill stop (R391): the VDQ is discarded, copies end at a chunk boundary, subscriptions are removed; once the store
buffer has drained into records, the hart counts as arrived at the gang barrier and enters its handler. -/
def takeKill (v : Dword) : M Unit := do
  modify fun s =>
    { s with h := { s.h.dropRows with vdq := [], head := none, atWait := false }, pkg := s.pkg.stopCopies s.h.ident }
  let id := (← get).h.ident
  orStop fun s => (s.endSubs id).map (·.1)
  let s ← get
  if !s.h.sb.isEmpty || s.h.subscribed then again
  else
    orStop fun s => s.markState s.h 3
    modify fun s => { s with h := { s.h with kill := none, dying := true } }
    modify fun s => s.settleBarrier s.h.gang
    trapOf causeKilled v

/-- A report taken by the hart of the state (R219, R269, R251, R387, R391, R396). -/
def takeReport (r : Report) : M Unit := do
  let s ← get
  let set_ (h : Hart) : M Unit := set { s with h := h }
  match r with
  | .kill v => takeKill v
  | .park => stopHart
  | .notice v =>
    set_ { s.h with noticeWord := none }
    trapOf causePreempt v
  | .fault f => raise { cause := f.cause.toNat, value := f.va, imp := true }
  | .copy v =>
    set_ { s.h with copyErrs := s.h.copyErrs.tail }
    trapOf causeCopy v
  | .uncorrectable v =>
    set_ { s.h with uncorrectable := none }
    trapOf causeUncorrectable v
  | .deadline v =>
    set_ { s.h with deadline := if s.h.further then s.h.deadline else none, further := false }
    trapOf causeDeadline v

/-- The hart of a core takes its report where it is one that `f` picks. -/
def reportIf (f : Report → Bool) : M Unit := do
  match (← get).h.report with
  | some r => if f r then takeReport r else pure ()
  | none => pure ()

/-- STORE_FAULT_REPORT: a store-fault record reported (R219). -/
def execEvStoreFaultReport (core : Nat) (s : State) : Out :=
  s.atCore core (reportIf fun r => match r with | .fault _ => true | _ => false)

/-- COPY_ERROR_REPORT: a copy error reported (R269). -/
def execEvCopyErrorReport (core : Nat) (s : State) : Out :=
  s.atCore core (reportIf fun r => match r with | .copy _ => true | _ => false)

/-- DEADLINE_REPORT: a missed deadline reported (R251). -/
def execEvDeadlineReport (core : Nat) (s : State) : Out :=
  s.atCore core (reportIf fun r => match r with | .deadline _ => true | _ => false)

/-- UNCORRECTABLE_REPORT: a poisoned reduction reported (R396). -/
def execEvUncorrectableReport (core : Nat) (s : State) : Out :=
  s.atCore core (reportIf fun r => match r with | .uncorrectable _ => true | _ => false)

/-- PREEMPT_NOTICE: a pre-emption notice taken (R387). -/
def execEvPreemptNotice (core : Nat) (s : State) : Out :=
  s.atCore core (reportIf fun r => match r with | .notice _ => true | _ => false)

/-! ### The store buffer (R218) -/

/-- STORE_BUFFER_DRAIN of the core of the state; with the last entry of a hart that has ended, its gang may end. -/
def drainStep : M Unit := do
  drainOne
  let s ← get
  if s.h.status == .exited then orStop fun s => s.settleGang s.h.gang else pure ()

/-- STORE_BUFFER_DRAIN: the oldest entry leaves (R218). -/
def execEvStoreBufferDrain (core : Nat) (s : State) : Out := s.atCore core drainStep

/-! ### Parking (R383, R385, R387) -/

/-- PREEMPT_STOP: a relock or a halt of the die does not delay it (R259); a hart whose turn at the edge of now is still to
come stops in it. -/
def preemptStop : M Unit := do
  let s ← get
  if s.h.preempt && s.h.report == some .park && !s.turnDue s.h.ident then stopHart else pure ()

/-- The gang has parked: its partition is free, and it is on the resume list, or discarded where a gkill reached it while it
parked (R385, R391). -/
def gangParked (id : Nat) : M Unit := do
  orStop fun s =>
    match s.gang? id with
    | none => some s
    | some g =>
      let die := s.pkg.resumeDie g.die
      let s := s.onGang id fun g => { g with phase := .parked, die := die }
      let s := (s.freePart g).settleEvac g.die
      if g.discard then s.settleGang id else s.select die

/-- PARK_COMPLETE of the core of the state: with the buffer empty its open batches are sent (R276), then its hart's state
is saved, and the core is free. -/
def parkComplete : M Unit := do
  let s ← get
  match s.gang? s.h.gang with
  | none => pure ()
  | some g =>
    let stopped := s.h.status == .parking || s.h.status == .halted || s.h.status == .exited
    if g.phase != .parking || !stopped || !s.h.sb.isEmpty then pure ()
    else
      orStop fun s => s.flushBatches s.h.ident fun _ _ => true
      let s ← get
      let mut h := { s.h with preempt := false }
      match s.savedFaults h with
      | some rs => h := { h with sfq := h.sfq ++ rs }
      | none => orStop fun _ => none
      orStop fun s => s.saveCsa h 2 (s.owed h.ident)
      modify fun s =>
        let s := s.onGang g.id fun g => { g with saved := g.saved ++ [h] }
        s.emptyCore s.core.id
      if (← get).cores.any fun e => e.2.present && e.2.gang == g.id then pure () else gangParked g.id

/-- NOTICE_TIMEOUT: a gang that has not begun to park 20 microseconds after its notice (R387). -/
def noticeTimeout (id : Nat) : M Unit := do
  let s ← get
  match s.gang? id with
  | none => pure ()
  | some g =>
    if g.phase == .resident && g.noticeAt.any (fun t => t + nanoseconds 20000 ≤ s.pkg.time) then
      orStop fun s => s.clearNotice id
      modify fun s => s.preemptGang id
    else pure ()

/-- PREEMPT_STOP: a pre-emption request stops the core (R383). -/
def execEvPreemptStop (core : Nat) (s : State) : Out :=
  if 1536 ≤ core then .next s else match finishAt preemptStop (s.focus core) with | .next t => .next (t.focus s.core.id) | o => o

/-- PARK_COMPLETE: the hart is saved and its core free (R385). -/
def execEvParkComplete (core : Nat) (s : State) : Out := s.atCore core parkComplete

/-- NOTICE_TIMEOUT: a notice not heeded (R387). -/
def execEvNoticeTimeout (gang : Nat) (s : State) : Out := finishAt (noticeTimeout gang) s

/-! ### Resuming (R386) -/

/-- The granules of a hart's private scratchpad that other cores still hold written back and given up (R386). -/
def State.recallGranules (s : State) (h : Hart) (core : Nat) : Option State :=
  let owned := s.cores.flatMap fun e =>
    if e.1.id = core then [] else (e.1.tags.filter fun t => t.2 == h.tag).map fun t => (e.1.id, t.1)
  owned.foldl (fun s o => s.bind fun s =>
    (s.evictPriv o.1 o.2 h.tag).map fun s =>
      s.onCore o.1 fun s => { s with core := { s.core with tags := tableDrop s.core.tags o.2 } }) (some s)

/-- PTBMP as the save area of GIDX 0 holds it, kept with the gang (R381). -/
def State.loadPtbmp (s : State) (g : Gang) (h : Hart) : Option State :=
  if bits h.gidx 0 3 ≠ 0 then some s
  else (s.physDwords (s.csaOf h + 0x1600) 16).map fun ds => s.onGang g.id fun g => { g with ptbmp := widenWords 1024 16 ds 0 }

/-- The arrays that the harts of a gang reach as they resume: those of their cores and cluster, and those that still hold
their granules (R386, R397). -/
def State.arraysAt (s : State) (g : Gang) (cores : List Nat) : List Nat :=
  let tags := g.saved.map Hart.tag
  cores ++ [1536 + g.cluster] ++ (s.cores.filter fun e => e.1.tags.any fun t => tags.contains t.2).map (·.1.id)

/-- An entry of a saved VDQ image as it re-enters the queue: whose tiles they are is looked at again (R38, R386, log 92). -/
def VdqEntry.onResume : VdqEntry → VdqEntry
  | .insn q => .insn { q with resumed := true }
  | e => e

/-- A parked hart loaded on a core: with what its save area holds, as it was when it parked; store-fault records beyond
the first 8 stay in the save area (R386, R390). -/
def State.resumeHart (s : State) (g : Gang) (core : Nat) (h : Hart) : Option State :=
  (s.recallGranules h core).bind fun s =>
    match (s.parkedHart h.ident).bind fun p => s.loadCsa p.2 with
    | none => none
    | some h' =>
      let k : Hart := { h' with
        status := if h.status == .parking then .running else h.status
        preempt := false
        vdq := h'.vdq.map VdqEntry.onResume
        sfq := h'.sfq.take 8 }
      (((s.areaRead h).loadPtbmp g h).bind fun s => (s.putHart core g.secure k).markState k (if h.dying then 3 else 0)).bind fun s =>
        s.putFaults k (h'.sfq.drop 8)

/-- The core that is held for a parked hart. -/
def State.heldCore (s : State) (g gidx : Nat) : Option Nat :=
  (s.cores.find? fun e => e.2.status == .resuming && e.2.gang == g && e.2.gidx.toNat == gidx).map (·.1.id)

/-- GANG_RESUME: every response has come; granules are written back, and all harts resume at once. -/
def gangResume (id : Nat) : M Unit := do
  let s ← get
  match s.gang? id with
  | none => pure ()
  | some g =>
    let slots := g.saved.map fun h => (s.heldCore g.id (bits h.gidx 0 3), h)
    let asleep := s.pkg.retained (s.arraysAt g (slots.filterMap (·.1)))
    if g.phase != .resuming || g.discard || g.saved.any s.areaWaits || s.pkg.stopped (g.cluster / 48) || g.saved.any (fun h => s.owed h.ident != 0) then
      pure ()
    else if !asleep.isEmpty then modify fun s => { s with pkg := s.pkg.wakeArrays asleep }
    else
      orStop fun s => slots.foldl (fun s e => s.bind fun s =>
        match e.1 with
        | some c => s.resumeHart g c e.2
        | none => some s) (some s)
      modify fun s => s.onGang id fun g => { g with phase := .resident, saved := [] }

/-- GANG_RESUME: a gang's harts resume at one edge (R386). -/
def execEvGangResume (gang : Nat) (s : State) : Out := finishAt (gangResume gang) s

/-! ### The ends of waits (R330, R332) -/

/-- SPAN_WAIT_EXIT: the hart waits at a spanning barrier whose release instant has come, and leaves. -/
def spanWaitExit : M Unit := do
  let s ← get
  if s.h.status != .running || s.h.report.isSome || s.h.launchAt.isSome || s.h.waitAt.isSome then pure ()
  else
    match fetchPair s with
    | .ok ((w, _), _) =>
      if w / 2 ^ 20 = 0xC80 ∧ w % 2 ^ 16 = 3 then
        waitSpan w (w / 2 ^ 16 % 16)
        modify State.retire
      else pure ()
    | .error _ => pure ()

/-- PAUSE_EXPIRY: the count of a pause has run down. -/
def pauseExpiry : M Unit :=
  modify fun s => if s.h.pauseLeft = 1 then { s with h := { s.h with pauseLeft := 0 } } else s

/-- SPAN_WAIT_EXIT: a member leaves a spanning wait (R330). -/
def execEvSpanWaitExit (core : Nat) (s : State) : Out := s.atCore core spanWaitExit

/-- PAUSE_EXPIRY: normal priority returns (R332). -/
def execEvPauseExpiry (core : Nat) (s : State) : Out := s.atCore core pauseExpiry

end Sys2Proof.Machine
end

