-- ==== Sys2Proof/Machine/Gangs.lean ====
section
/-! DEFINITION. Work that reaches the queues from outside the harts (R185, R305, R307), held continuations (R305),
receive rings (R315, R316), and the moving of resume entries (R311). -/

namespace Sys2Proof.Machine

/-- A record arrives at queue `q` with the point that its sender reached. -/
def enqueueAt (q : Nat) (r : BitVec 512) (clock : List (Nat × Nat)) : M Nat := fun s =>
  if s.pkg.physHeld (s.pkg.qslot q (s.pkg.qtail q)) 64 then .error .wait else
  match s.enqueue q r clock with
  | some (s, code) => .ok (code, s)
  | none => .error (.stop .csaUnreachable)

/-- Are a package's ingress port and a queue's page open to a TID (R368)? -/
def Pkg.pageAdmits (p : Pkg) (q package : Nat) (tid : Nat) : Bool :=
  ((p.route (q / 16) package).all fun port => p.portAdmits port tid) && bits (p.qcfg q) 16 12 == tid

/-- QUEUE_ENQUEUE: a host's record, after what the host wrote before it (R187), or another package's LAUNCH as the last of
its pair's posted group (R307), its tenant checked at the ingress port and at the page (R368). -/
def queueArrival (q : Nat) (r : BitVec 512) (sender : Sender) : M Unit := do
  if 64 ≤ q then pure ()
  else
    match sender with
    | .host =>
      let p := (← get).pkg
      if p.hostWork.isEmpty && !p.physHeld (p.qslot q (p.qtail q)) 64 then do
        let _ ← enqueueAt q r []
      else modify fun s => { s with pkg := { s.pkg with hostWork := s.pkg.hostWork ++ [.launch q r] } }
    | .fabric package hartid tid _ =>
      let s ← get
      if s.pkg.net.any fun m => m.owner == 0 && m.hartid == hartid.toNat && m.posted then pure ()
      else if !s.pkg.pageAdmits q package tid.toNat then
        modify fun s => { s with pkg := s.pkg.reply 0 hartid.toNat 0 (.refused 0 none) none }
      else
        let code ← enqueueAt q r []
        modify fun s => { s with pkg := s.pkg.reply 0 hartid.toNat 0 (.launched code) none }

/-- A continuation of another package at queue `q` (R305): the code that goes back. Only its first refusal sets FULL. -/
def contArrival (q : Nat) (r : BitVec 512) (first : Bool) (clock : List (Nat × Nat)) : M Nat := do
  awaitPhys ((← get).pkg.qslot q ((← get).pkg.qtail q)) 64
  let code := (← get).pkg.qcheck q r true
  if code = 0 then orStop fun s => (s.accept q r clock).select (q / 16)
  else if code = 4 then (if first then modify fun s => { s with pkg := s.pkg.qstatSet q 0 } else pure ())
  else modify fun s => { s with pkg := s.pkg.qrefuse q code }
  pure code

/-- A LAUNCH of another package that has reached its queue's die: the last of its pair's posted group (R307), its tenant
checked at the page (R368). -/
def launchMsg (k : Nat) : M Unit := do
  let s ← get
  match s.pkg.net[k]? with
  | some m =>
    match m.body with
    | .launch q r cont =>
      if !s.inOrder k m then pure ()
      else
        modify fun s => s.unsend k
        if 64 ≤ q ∨ bits (s.pkg.qcfg q) 16 12 ≠ m.tid.toNat then
          let p := (← get).pkg
          let p := if cont.isSome then p.tenantDrop (q / 16 % 4) 0xFFFF m.tid.toNat (queuePage p.number q) else p
          modify fun s => { s with pkg := p.replyTo m (.refused m.va (cont.map (·.1))) }
        else
          match cont with
          | some (tag, first) =>
            let code ← contArrival q r first m.clock
            modify fun s => { s with pkg := s.pkg.replyTo m (.enqueued tag code) }
          | none =>
            let code ← enqueueAt q r m.clock
            modify fun s => { s with pkg := s.pkg.replyTo m (.launched code) }
    | _ => pure ()
  | none => pure ()

/-- BADWRITE (R185, R303). -/
def badWrite (q : Nat) (s : State) : State := if q < 64 then { s with pkg := s.pkg.qstatSet q 4 } else s

/-- A held record tried again: accepted, sent again to its package, refused at the page for its TID (R368), or kept. -/
def State.retryCont (s : State) (die : Nat) (c : HeldCont) : Option State :=
  if c.package ≠ s.pkg.number then some (s.sendCont die c false)
  else if bits (s.pkg.qcfg c.q) 16 12 ≠ c.tid then some (s.dropCont die c)
  else if s.pkg.qcheck c.q c.record true = 0 ∧ !s.pkg.physHeld (s.pkg.qslot c.q (s.pkg.qtail c.q)) 64 then (s.accept c.q c.record c.clock).select (c.q / 16)
  else some (s.holdCont die c)

/-- A held record put in its place by its stamp. -/
def insertHeld (c : HeldCont) : List HeldCont → List HeldCont
  | [] => [c]
  | d :: r => if c.stamp < d.stamp then c :: d :: r else d :: insertHeld c r

/-- CONT_RETRY: the held records of a die tried again in the order of their stamps, once every microsecond; a retry
sets nothing and counts nothing (R305). -/
def contRetry (die : Nat) : M Unit := do
  let s ← get
  if (s.pkg.die die).contAt.any fun t => t ≤ s.pkg.time then
    let (out, held) := (s.pkg.die die).conts.partition (·.out)
    orStop fun s =>
      (held.foldl (fun l c => insertHeld c l) []).foldl (fun s c => s.bind fun s => s.retryCont die c)
        (some { s with pkg := s.pkg.onDie die fun d => { d with conts := out, contAt := none } })
  else pure ()

/-! ### Receive rings (R315, R316) -/

/-- A ring's slots, where its SLOTS field is valid. -/
def slotsOf (v : Nat) : Option Nat := if v ∈ [1, 2, 4, 8, 16, 32, 64, 128, 256] then some v else none

/-- A ring that cannot be used makes deliveries wait, and is reported once (R315); a poisoned header with its UE event
(R396). -/
def ringBad (q die tag off : Nat) (bad : Option Nat) : M Unit := modify fun s =>
  let info := s.pkg.queueInfo q
  if info.ringBad then s
  else
    let p := s.pkg.setQueueInfo q { info with ringBad := true }
    let p := (bad.map p.ueEvent).getD p
    { s with pkg := p.logEvent die 0x0B 0xFFFF tag off }

/-- TAIL of a ring moved on, as a release at cluster scope that carries on what the earlier messages released (R204,
R316). -/
def advanceTail (g : Gang) (off tail : Nat) (clock : List (Nat × Nat)) : M Unit := do
  let s ← get
  let clock := (s.spotLocs (.part g.id off)).foldl (fun c l => clockJoin c (s.pkg.clockAt l 8)) clock
  writeSpot (.part g.id off) (bytesOf 8 tail) false
  modify fun s => { s with pkg := (s.spotLocs (.part g.id off)).foldl (fun p l =>
    p.leave ⟨l, 8, 0, 8 * g.cluster, g.tid.toNat, 3, none, clock⟩) s.pkg }

/-- RING_DELIVERY: the first message of a ring-mode queue written into the ring of the gang that it names. The MAIL write
and TAIL come at this one instant, for the queue delivers one message at a time (log 80). Of several gangs with that tag it
is the one dispatched first, and the ring lies at OFF as the register gives it (log 87). -/
def ringDelivery (q : Nat) : M Unit := do
  let s ← get
  let p := s.pkg
  let ring := p.ctl (offQueue q 5)
  let tag := bits ring 22 32
  let off := bits ring 0 22
  if 64 ≤ q || !bit (p.qcfg q) 0 || !bit (p.qcfg q) 2 || p.qcount q == 0 then pure ()
  else
    match p.gangs.find? fun g => g.tag.toNat == tag with
    | none => pure ()
    | some g =>
      awaitSpot (.part g.id off)
      let (header, bad) ← peekSpot (.part g.id off) 24
      let word (i : Nat) : Nat := natOf ((header.drop (8 * i)).take 8) % 2 ^ 32
      let die := q / 16
      match (if bad.isSome then none else slotsOf (word 2 % 512)) with
      | some n =>
        if g.partSize < off + 64 + 64 * n then ringBad q die tag off bad
        else if n ≤ (word 0 + 2 ^ 32 - word 1) % 2 ^ 32 then pure ()
        else
          let i := p.qhead q
          let info := p.queueInfo q
          let clock := (tableGet info.clocks i).getD []
          let drop (s : State) : State :=
            let info := { s.pkg.queueInfo q with stamps := tableDrop info.stamps i, clocks := tableDrop info.clocks i }
            let p := s.pkg.setCtl (offQueue q 2) (BitVec.ofNat 64 ((i + 1) % 2 ^ 32))
            { s with pkg := p.setQueueInfo q info }
          if g.phase = .resident ∧ p.tenantOf (g.cluster / 48) (g.cluster % 48) ≠ bits (p.qcfg q) 16 12 then
            modify fun s =>
              let s := drop s
              let tid := bits (p.qcfg q) 16 12
              { s with pkg := s.pkg.tenantDrop (g.cluster / 48) (8 * g.cluster) tid (2 ^ 63 + 2 ^ 62 + off) }
          else
            let slot : Spot := .part g.id (off + 64 + 64 * (word 0 % n))
            awaitSpot slot
            awaitPhys (p.qslot q i) 64
            writeSpot slot (recBytes (s.queueRecord q i)) (p.slotPoisoned q i)
            advanceTail g off ((word 0 + 1) % 2 ^ 32) clock
            modify drop
      | none => ringBad q die tag off bad

/-- RESUME_ENTRY_MOVE: the resume entry of a parked gang comes to another die's list (R311). -/
def resumeMove (id die : Nat) : M Unit := do
  let s ← get
  match s.gang? id with
  | none => pure ()
  | some g =>
    if g.phase != .parked || decide (4 ≤ die) then pure ()
    else orStop fun s =>
      let s := { s with pkg := s.pkg.unreserve g.die id }
      (s.onGang id fun g => { g with die := die }).select die

/-- QUEUE_ENQUEUE: a record arrives at a queue page (R305). -/
def execEvQueueEnqueue (q : Nat) (record : BitVec 512) (sender : Sender) (s : State) : Out :=
  finishAt (queueArrival q record sender) s

/-- BADWRITE: a bad write to a queue page (R185). -/
def execEvBadwrite (q : Nat) (s : State) : Out := .next (badWrite q s)

/-- CONT_RETRY: held continuations tried again (R305). -/
def execEvContRetry (die : Nat) (s : State) : Out := finishAt (contRetry die) s

/-- RING_DELIVERY: a message delivered into a receive ring (R316). -/
def execEvRingDelivery (q : Nat) (s : State) : Out := finishAt (allOrNothing (ringDelivery q)) s

/-- RESUME_ENTRY_MOVE: a resume entry moved to another die (R311). -/
def execEvResumeEntryMove (gang : Nat) (die : Nat) (s : State) : Out := finishAt (resumeMove gang die) s

end Sys2Proof.Machine
end

