-- ==== Sys2Proof/Machine/Clock.lean ====
section
/-! DEFINITION. Clocks and power: frequency steps and relocks (R256, R257), power and thermal control (R23 to R27), the
timebase (R239 to R243), debug halts (R253). -/

namespace Sys2Proof.Machine

/-! ### Edges (R256, R257) -/

/-- A die with every core-clock edge up to the time `t` counted; none while its clock relocks. -/
def Die.catchUp (t : Nat) (d : Die) : Die :=
  if d.relockEnd.isSome ∨ t < d.nextEdge then d
  else
    let n := (t - d.nextEdge) / stepPeriod d.step + 1
    { d with
      cycle := (d.cycle + n) % 2 ^ 64
      ncyc := (d.ncyc + n * stepRatio d.step) % (792 * 2 ^ 64)
      edgeAt := d.nextEdge + (n - 1) * stepPeriod d.step
      nextEdge := d.nextEdge + n * stepPeriod d.step }

/-- The package at a later time. -/
def Pkg.advance (p : Pkg) (t : Nat) : Pkg :=
  let t := max p.time t
  { p with time := t, dies := p.dies.map (Die.catchUp t) }

/-- STEPMAX of a die (R24). -/
def Pkg.stepmax (p : Pkg) (die : Nat) : Nat := bits (p.ctl (offStepmax die)) 0 3

/-- The steps that limit a die beside the power control (R24). -/
def Pkg.ceiling (p : Pkg) (die : Nat) : Nat :=
  let d := p.die die
  max (max (p.stepmax die) d.tctlStep) (if d.hot then 5 else 0)

/-- The throttle reasons of a die (R27): power, TCTL, 105 °C, supervisor cap, from bit 0. That the last one stands for a
step ceiling in STEPMAX, and not for a package cap in PCAP, is the model's choice (log 70). -/
def Pkg.reasons (p : Pkg) (die : Nat) : Nat :=
  let d := p.die die
  bitOf (d.powerStep != 0) + bitOf (d.tctlStep != 0) * 2 + bitOf d.hot * 4 + bitOf (p.stepmax die != 0) * 8

/-- Telemetry published (R27): powers in milliwatts, temperatures in 0.125 °C, steps and reasons of the dies. -/
def Pkg.publish (p : Pkg) (power temperature : List Nat) : Pkg :=
  let dies := List.range 4
  { p with outputs := p.outputs ++
      [.telemetry power temperature (dies.map fun d => (p.die d).step) (dies.map p.reasons)] }

/-- What telemetry shows of the dies: steps and reasons. -/
def Pkg.shown (p : Pkg) : List (Nat × Nat) := (List.range 4).map fun d => ((p.die d).step, p.reasons d)

/-- Telemetry published again where a step or a throttle reason is not what it was before (R27). -/
def State.tell (s before : State) : State :=
  if s.pkg.shown = before.pkg.shown then s else { s with pkg := s.pkg.publish [] [] }

/-- FREQUENCY_STEP (R41, R256): the die's next edge is the start edge of a relock of 6,000 gt. -/
def Pkg.freqStep (p : Pkg) (die new : Nat) : Pkg :=
  let d := p.die die
  if 4 ≤ die ∨ d.relockEnd.isSome ∨ new = d.step then p
  else
    let cycle := (d.cycle + 1) % 2 ^ 64
    let w1 := cycle % 2 ^ 56 + d.step * 2 ^ 56 + new * 2 ^ 59 + 2 ^ 62
    let w0 := (d.nextEdge + p.gtShift) / 990
    let p := p.onDie die fun d =>
      { d with
        cycle := cycle
        ncyc := (d.ncyc + stepRatio d.step) % (792 * 2 ^ 64)
        fstep := (FStep.mk (BitVec.ofNat 64 w0) (BitVec.ofNat 64 w1) :: d.fstep).take 4
        step := new
        relockEnd := some (d.nextEdge + relockTime) }
    p.logEvent die 0x13 0xFFFF w1 0

/-- A die brought down to a ceiling that it exceeds, in one step (R23). -/
def Pkg.lowerTo (p : Pkg) (die : Nat) : Pkg :=
  if (p.die die).step < p.ceiling die then p.freqStep die (p.ceiling die) else p

/-- RELOCK_END (R256): the end edge is not counted, and issue resumes at the edge after it; a ceiling that fell
meanwhile is met by another step. -/
def relockEnds (die : Nat) (s : State) : State :=
  let p := s.pkg
  match (p.die die).relockEnd with
  | none => s
  | some e =>
    if p.time < e then s
    else
      let p := p.onDie die fun d =>
        { d with
          relockEnd := none
          ncyc := (d.ncyc + 3750 * 792) % (792 * 2 ^ 64)
          nextEdge := e + stepPeriod d.step }
      let p := p.lowerTo die
      ({ s with pkg := p.onDie die (Die.catchUp p.time) } : State).tell s

/-! ### Power and temperature (R23 to R27) -/

/-- A die that no ceiling holds at its step any more stays at it: that step is now the one that the power control allows,
until it raises the die (R23, R24). -/
def Pkg.holdStep (p : Pkg) (die : Nat) : Pkg :=
  if p.ceiling die < (p.die die).step then p.onDie die fun d => { d with powerStep := d.step } else p

/-- POWER_CONTROL_TICK (R23): with the 1 ms and 10 ms averages in watts, the die goes down a step where the limit is
passed, up one where there is room, at most once a millisecond. -/
def powerTick (die average1 average10 : Nat) (s : State) : State :=
  let p := s.pkg
  let d := p.die die
  let cap := bits (p.ctl offPcap) 0 16
  let above := decide (cap < average10) || decide (cap * 12 < average1 * 10)
  let room := decide (average10 * 100 ≤ cap * 95)
  let early := d.lastPower.any fun t => p.time < t + nanoseconds 1000000
  let move (new : Nat) : State :=
    let p := p.onDie die fun d => { d with powerStep := new, lastPower := some p.time }
    ({ s with pkg := p.freqStep die new } : State).tell s
  if 4 ≤ die ∨ early ∨ d.relockEnd.isSome then s
  else if above then (if d.step < 5 then move (d.step + 1) else s)
  else if room && decide (p.ceiling die < d.step) then move (d.step - 1)
  else s

/-- TCTL_THROTTLE_TICK (R25): a die above TCTL goes down a step, once a millisecond; at TCTL or below it the action ends,
and the die stays at its step. Temperatures are in 0.125 °C. -/
def tctlTick (die temperature : Nat) (s : State) : State :=
  let p := s.pkg
  let d := p.die die
  if 4 ≤ die then s
  else if 8 * bits (p.ctl offTctl) 0 7 < temperature then
    if d.relockEnd.isSome || d.lastTctl.any (fun t => p.time < t + nanoseconds 1000000) then s
    else
      let p := p.onDie die fun d => { d with tctlStep := min 5 (d.step + 1), lastTctl := some p.time }
      ({ s with pkg := p.lowerTo die } : State).tell s
  else
    ({ s with pkg := (p.onDie die fun d => { d with tctlStep := 0 }).holdStep die } : State).tell s

/-- DIE_OVER_105C (R25): 0.9 GHz at once. -/
def over105 (die : Nat) (s : State) : State :=
  ({ s with pkg := (s.pkg.onDie die fun d => { d with hot := true }).lowerTo die } : State).tell s

/-- END_OF_105C_ACTION (R23): the die stays at its step until the power control raises it. -/
def end105 (die : Nat) (s : State) : State :=
  ({ s with pkg := (s.pkg.onDie die fun d => { d with hot := false }).holdStep die } : State).tell s

/-- The die that a temperature sensor belongs to: sensors 0 to 3 are the dies', 4 to 15 those of the stacks by their package
numbers. No rule numbers the sensors (log 71). -/
def sensorDie (sensor : Nat) : Nat := if sensor < 4 then sensor else (sensor - 4) / 3 % 4

/-- What stops the rest of die 0 stops the package (R405): the host port, Markhor and time are lost until a cold reset (log
86). -/
def packageLost (s : State) : State := { s with pkg := { s.pkg with tripped := true, lost := true } }

/-- THERMAL_TRIP (R25): at 115 °C the supplies go, and only a cold reset recovers the package. -/
def thermalTrip (sensor temperature : Nat) (s : State) : State :=
  if temperature < 920 ∨ s.pkg.tripped then s
  else
    let p := s.pkg.logEvent (sensorDie sensor) 0x14 0xFFFF sensor temperature
    { s with pkg := { p with tripped := true, outputs := p.outputs ++ [.tripOutput] } }

/-- Does an agent have the rights of supervisor software or the host (R24, R186)? -/
def supervises : Agent → Bool
  | .user _ => false
  | .supervisor _ => true
  | .machine _ => true
  | .host => true
  | .markhor => true

/-- A value held to a range. -/
def clampNat (lo hi v : Nat) : Nat := max lo (min hi v)

/-- PCAP_WRITE (R23, R24). -/
def pcapWrite (a : Agent) (v : Dword) (s : State) : State :=
  if supervises a then
    { s with pkg := s.pkg.setCtl offPcap (BitVec.ofNat 64 (clampNat 1200 Config.powerLimit (bits v 0 16))) }
  else s

/-- TCTL_WRITE (R24). -/
def tctlWrite (a : Agent) (v : Dword) (s : State) : State :=
  if supervises a then { s with pkg := s.pkg.setCtl offTctl (BitVec.ofNat 64 (clampNat 70 100 (bits v 0 7))) } else s

/-- STEPMAX_WRITE (R23, R24): a lowered ceiling brings the die down at once, a raised one moves no die. -/
def stepmaxWrite (a : Agent) (die : Nat) (v : Dword) (s : State) : State :=
  if !(supervises a) || decide (4 ≤ die) || decide (5 < bits v 0 3) then s
  else
    let p := s.pkg.setCtl (offStepmax die) (BitVec.ofNat 64 (bits v 0 3))
    ({ s with pkg := (p.lowerTo die).holdStep die } : State).tell s

/-- RELOCK_END: the die resumes at its new step (R256). -/
def execEvRelockEnd (die : Nat) (s : State) : Out := .next (relockEnds die s)

/-- POWER_CONTROL_TICK: a decision of the power control (R23). -/
def execEvPowerControlTick (die : Nat) (average1 : Nat) (average10 : Nat) (s : State) : Out :=
  .next (powerTick die average1 average10 s)

/-- TCTL_THROTTLE_TICK: the TCTL action (R25). -/
def execEvTctlThrottleTick (die : Nat) (temperature : Nat) (s : State) : Out := .next (tctlTick die temperature s)

/-- DIE_OVER_105C: the 105 °C action (R25). -/
def execEvDieOver105c (die : Nat) (s : State) : Out := .next (over105 die s)

/-- END_OF_105C_ACTION: the end of the 105 °C action (R23). -/
def execEvEndOf105cAction (die : Nat) (s : State) : Out := .next (end105 die s)

/-- THERMAL_TRIP: the thermal trip (R25). -/
def execEvThermalTrip (sensor : Nat) (temperature : Nat) (s : State) : Out := .next (thermalTrip sensor temperature s)

/-- HBM_OVER_85C: refresh at twice the rate (R25). -/
def execEvHbmOver85c (stack : Nat) (s : State) : Out :=
  .next { s with pkg := { s.pkg with fastRefresh := setInsert s.pkg.fastRefresh stack } }

/-- HBM_OVER_95C: commands at half the rate (R25). -/
def execEvHbmOver95c (stack : Nat) (s : State) : Out :=
  .next { s with pkg := { s.pkg with halfRate := setInsert s.pkg.halfRate stack } }

/-- TELEMETRY_UPDATE: telemetry published (R27). -/
def execEvTelemetryUpdate (power : List Nat) (temperature : List Nat) (s : State) : Out :=
  .next { s with pkg := s.pkg.publish power temperature }

/-- PCAP_WRITE: the power cap written (R24). -/
def execEvPcapWrite (by_ : Agent) (value : BitVec 64) (s : State) : Out := .next (pcapWrite by_ value s)

/-- TCTL_WRITE: the die threshold written (R24). -/
def execEvTctlWrite (by_ : Agent) (value : BitVec 64) (s : State) : Out := .next (tctlWrite by_ value s)

/-- STEPMAX_WRITE: a step ceiling written (R24). -/
def execEvStepmaxWrite (by_ : Agent) (die : Nat) (value : BitVec 64) (s : State) : Out :=
  .next (stepmaxWrite by_ die value s)

/-! ### The timebase (R239 to R243) -/

/-- TIMESTAT.STATE. -/
def Pkg.timeState (p : Pkg) : Nat := bits (p.ctl offTimestat) 0 2

/-- The timebase in a state, a change written to the black box of die 0 (R242); an entry into HOLDOVER counted. -/
def Pkg.toTimeState (p : Pkg) (new : Nat) : Pkg :=
  let old := p.timeState
  let v := setBits (p.ctl offTimestat) 0 2 new
  let v := if new = 3 ∧ old ≠ 3 then setBits v 32 32 (min (2 ^ 32 - 1) (bits v 32 32 + 1)) else v
  let p := { p.setCtl offTimestat v with goodSyncs := if new = old then p.goodSyncs else 0 }
  if new = old then p else p.logEvent 0 0x11 0xFFFF (old * 256 + new) 0

/-- The Sync interval (R243). -/
def Pkg.syncInterval (p : Pkg) : Nat := nanoseconds (125000 * 2 ^ bits (p.ctl offTimectl) 4 4)

/-- Is the package the grandmaster of its domain (R243)? -/
def Pkg.master (p : Pkg) : Bool := bit (p.ctl offTimectl) 0

/-- A measurement of the offset to the grandmaster, and the change of state that it brings (R242). -/
def offsetMeasured (offset : Int) (s : State) : State :=
  let p := s.pkg
  let p := p.setCtl offTimestat (setBits (p.ctl offTimestat) 16 16 (wrap (clampInt (-32767) 32767 offset) 16))
  let size := offset.natAbs
  let good := if size ≤ 16 then p.goodSyncs + 1 else 0
  let p :=
    if p.master then p
    else
      match p.timeState with
      | 1 => if 8 ≤ good then p.toTimeState 2 else { p with goodSyncs := good }
      | 2 => if 24 < size then p.toTimeState 1 else p
      | 3 => p.toTimeState (if size ≤ 16 then 2 else 1)
      | _ => p
  { s with pkg := p }

/-- PTP_SYNC (R242): a Sync has come, and with it a measurement of the offset to the grandmaster. -/
def ptpSync (offset : Int) (s : State) : State :=
  offsetMeasured offset { s with pkg := { s.pkg with lastSync := some s.pkg.time } }

/-- When the loss of Sync will be noticed: 8 intervals after the latest Sync of a package that follows one (R242). -/
def Pkg.syncEnd (p : Pkg) : Option Nat :=
  if p.master || (p.timeState != 1 && p.timeState != 2) then none else p.lastSync.map (· + 8 * p.syncInterval)

/-- SYNC_TIMEOUT (R242): no Sync for 8 intervals. -/
def syncTimeout (s : State) : State :=
  if s.pkg.syncEnd.any (· ≤ s.pkg.time) then { s with pkg := s.pkg.toTimeState 3 } else s

/-- The number of a lane of a UCIe link (R21): p = 64 x module + lane, on link `link`. -/
def laneName (link p : Nat) : Nat := 1024 * link + p

/-- What is kept of a lane; one that nothing has happened to works, without a repair or an error. -/
def Pkg.lane (p : Pkg) (link k : Nat) : Lane := (tableGet p.lanes (laneName link k)).getD ⟨false, 0, 0⟩

/-- `n` more errors of a lane counted (R21, log 85). -/
def laneErrors (link k n : Nat) (s : State) : State :=
  if 4 ≤ link ∨ 1024 ≤ k then s
  else
    let l := s.pkg.lane link k
    { s with pkg := { s.pkg with lanes := tableSet s.pkg.lanes (laneName link k) { l with errors := l.errors + n } } }

/-- The status, the repairs and the errors of a lane reported under its number (R21, log 85). -/
def laneRead (link k : Nat) (s : State) : State :=
  if 4 ≤ link ∨ 1024 ≤ k then s
  else { s with pkg := { s.pkg with outputs := s.pkg.outputs ++ [.lane link k (s.pkg.lane link k)] } }

/-- LANE_REPAIR (R21, R241): lane `p` of UCIe link `link`, from die `link` to the next, has been repaired once more, and
the delays at both ends of the link are calibrated again. -/
def laneRepair (link p : Nat) (s : State) : State :=
  let again (d : Die) : Die := { d with calibrations := d.calibrations + 1 }
  if 4 ≤ link ∨ 1024 ≤ p then s
  else
    let q := (s.pkg.onDie link again).onDie ((link + 1) % 4) again
    let l := q.lane link p
    { s with pkg := { q with lanes := tableSet q.lanes (laneName link p) { l with repaired := true, repairs := l.repairs + 1 } } }

/-! ### The messages of IEEE 1588 (R240) -/

/-- A message of IEEE 1588 sent. -/
def Pkg.sendPtp (p : Pkg) (m : PtpMsg) : Pkg := { p with outputs := p.outputs ++ [.ptp m] }

/-- When the grandmaster sends its next Sync. -/
def Pkg.nextSync (p : Pkg) : Option Nat :=
  if p.master && p.timeState == 2 then some ((p.lastSync.map (· + p.syncInterval)).getD 0) else none

/-- The grandmaster's Sync, once an interval, with its origin timestamp (one-step). -/
def masterSync (s : State) : State :=
  if s.pkg.nextSync.any (· ≤ s.pkg.time) then
    let p := { s.pkg with lastSync := some s.pkg.time, ptp := { s.pkg.ptp with seq := s.pkg.ptp.seq + 1 } }
    { s with pkg := p.sendPtp (.sync p.ptp.seq (some p.gtime)) }
  else s

/-- The offset from an exchange with a path delay: when the Sync came, by this package's time, less its origin and the
delay. -/
def PtpState.offset (x : PtpState) (origin : Nat) (delay : Int) : Int := (x.came : Int) - origin - delay

/-- The origin timestamp of the latest Sync is known: the offset is measured with the path delay measured last, and the
delay is asked for again. -/
def originKnown (origin : Nat) (s : State) : State :=
  let x := s.pkg.ptp
  let s := match x.delay with
    | some d => offsetMeasured (x.offset origin d) s
    | none => s
  let p := { s.pkg with ptp := { x with origin := some origin, asked := some s.pkg.gtime } }
  { s with pkg := p.sendPtp (.delayReq p.number x.seq) }

/-- A message of IEEE 1588 reaches die 0's timebase unit, which alone takes part (R240, R241). The mean path delay is
half the sum of the two measured ways, rounded down; the first offset is measured once a delay is known (log 82). -/
def ptpArrives (m : PtpMsg) (s : State) : State :=
  let p := s.pkg
  match m with
  | .sync seq origin =>
    if p.master then s
    else
      let x : PtpState := { p.ptp with seq := seq, origin := none, came := p.gtime, asked := none }
      let s := { s with pkg := { p with ptp := x, lastSync := some p.time } }
      match origin with
      | some t => originKnown t s
      | none => s
  | .followUp seq t => if p.master ∨ p.ptp.seq ≠ seq ∨ p.ptp.origin.isSome then s else originKnown t s
  | .delayReq package seq => if p.master then { s with pkg := p.sendPtp (.delayResp package seq p.gtime) } else s
  | .delayResp package seq t4 =>
    match p.ptp.origin, p.ptp.asked with
    | some t1, some t3 =>
      if p.master ∨ package ≠ p.number ∨ p.ptp.seq ≠ seq then s
      else
        let d := (((p.ptp.came : Int) - t1) + ((t4 : Int) - t3)) / 2
        let first := p.ptp.delay.isNone
        let s := { s with pkg := { p with ptp := { p.ptp with delay := some d, asked := none } } }
        if first then offsetMeasured (p.ptp.offset t1 d) s else s
    | _, _ => s

/-- DEBUG_HALT_END (R253, R319): the cores resume, and the scheduler places gangs again. -/
def haltEnds (die : Nat) : M Unit := do
  let s ← get
  if (s.pkg.die die).halted then
    orStop fun s =>
      ({ s with pkg := s.pkg.onDie die fun d =>
          { d with halted := false, halts := d.halts ++ [(d.haltSince, s.pkg.time)] } } : State).select die
  else pure ()

/-- PTP_SYNC: a measured offset (R242). -/
def execEvPtpSync (offset : Int) (s : State) : Out := .next (ptpSync offset s)

/-- SYNC_TIMEOUT: the loss of Sync (R242). -/
def execEvSyncTimeout (s : State) : Out := .next (syncTimeout s)

/-- LANE_REPAIR: a repaired lane (R21, R241). -/
def execEvLaneRepair (link : Nat) (lane : Nat) (s : State) : Out := .next (laneRepair link lane s)

/-- DEBUG_HALT_END: the end of a debug halt (R253). -/
def execEvDebugHaltEnd (die : Nat) (s : State) : Out := finishAt (haltEnds die) s

/-- HALT_ON_BREAK: halt-on-break set for a die (R394). -/
def execEvHaltOnBreak (die : Nat) (on : Bool) (s : State) : Out :=
  .next { s with pkg := s.pkg.onDie die fun d => { d with haltOnBreak := on } }

end Sys2Proof.Machine
end

