-- ==== Sys2Proof/Machine/Registers.lean ====
section
/-! DEFINITION. Writes to the registers of the package control block (R5, R178, R303, R329, R353, R361, R367, R368, R371,
R376, R382), and the host's window onto DRAM (R186). -/

namespace Sys2Proof.Machine

/-- Does an agent have machine privilege, or is it Markhor, which acts for it (R186)? -/
def commands : Agent → Bool
  | .machine _ => true
  | .markhor => true
  | _ => false

/-- Does an agent reach the key table: a secure core above user privilege (R371)? -/
def holdsKeys : Agent → Bool
  | .supervisor true => true
  | .machine true => true
  | _ => false

/-- A register of the control block set. -/
def State.setReg (s : State) (off : Nat) (v : Dword) : State := { s with pkg := s.pkg.setCtl off v }

/-- The bits `lo` to `lo + n - 1` of a written value, at their place: the other bits are reserved (R5). -/
def onlyBits (v : Dword) (lo n : Nat) : Dword := setBits 0 lo n (bits v lo n)

/-- A write to one register by an agent that may make it; any other is discarded. -/
def State.guarded (s : State) (ok : Bool) (t : State) : State := if ok then t else s

/-! ### The physical region table (R178, R179) -/

/-- The range of die-local bytes, in pages of 4 KiB, that a share of `size` pages over the dies `dies` takes. -/
def shareOf (dies size lbase : Nat) : Nat × Nat := (lbase, lbase + size / popcount dies 4)

/-- Do two shares have a die and a page in common? -/
def sharesMeet (dies1 : Nat) (a : Nat × Nat) (dies2 : Nat) (b : Nat × Nat) : Bool :=
  dies1 &&& dies2 != 0 && decide (a.1 < b.2) && decide (b.1 < a.2)

/-- The die set and share of PRT entry `n`. -/
def Pkg.prtShare (p : Pkg) (n : Nat) : Nat × (Nat × Nat) :=
  let c := p.ctl (offPrt n 2)
  let dies := bits c 0 4
  (dies, shareOf dies (bits (p.ctl (offPrt n 1)) 12 30) (bits c 12 28))

/-- A layout is one that R179 allows: dies, stride, a whole number of blocks, and a share within 192 GiB of die-local
space (2^18 pages to 1 GiB). -/
def layoutOk (dies stride size lbase : Nat) : Bool :=
  dies != 0 && decide (stride ≤ 18) && size != 0 && size % (popcount dies 4 * 2 ^ stride) == 0 &&
  decide ((shareOf dies size lbase).2 ≤ 192 * 2 ^ 18)

/-- May entry `n` become valid (R179)? Its first dword is given. -/
def Pkg.prtOk (p : Pkg) (n : Nat) (a : Dword) : Bool :=
  let size := bits (p.ctl (offPrt n 1)) 12 30
  let c := p.ctl (offPrt n 2)
  let dies := bits c 0 4
  layoutOk dies (bits c 4 5) size (bits c 12 28) && decide (bits a 12 30 + size ≤ 768 * 2 ^ 18) &&
  (List.range 64).all fun k =>
    k == n || !bit (p.ctl (offPrt k 0)) 0 ||
      !sharesMeet dies (shareOf dies size (bits c 12 28)) (p.prtShare k).1 (p.prtShare k).2

/-- PRT_ENTRY_WRITE (R178, R179). -/
def prtWrite (a : Agent) (n d : Nat) (v : Dword) (s : State) : State :=
  if !commands a || decide (64 ≤ n) then s
  else
    let old := s.pkg.ctl (offPrt n 0)
    if bit old 0 then (if d = 0 then s.setReg (offPrt n 0) (setBits old 0 1 (bits v 0 1)) else s)
    else
      match d with
      | 0 =>
        let new := onlyBits v 12 30
        if !bit v 0 then s.setReg (offPrt n 0) new
        else if s.pkg.prtOk n new then s.setReg (offPrt n 0) (setBits new 0 1 1)
        else s
      | 1 => s.setReg (offPrt n 1) (onlyBits v 12 30)
      | 2 => s.setReg (offPrt n 2) (onlyBits v 0 9 ||| onlyBits v 12 28)
      | _ => s

/-! ### Work queues (R303, R304) -/

/-- QBASE names this package's DRAM and is aligned to the ring (R303). -/
def Pkg.qbaseOk (p : Pkg) (base log2 : Nat) : Bool :=
  base / 2 ^ 42 == p.number && decide (base % 2 ^ 42 < 0xC000000000) && base % (64 * 2 ^ log2) == 0

/-- QCFG as a write leaves it while EN = 0: every field, WORLD only at machine privilege (R303). -/
def qcfgNew (machine : Bool) (old v : Dword) : Dword :=
  setBits (onlyBits v 0 3 ||| onlyBits v 4 24 ||| onlyBits v 32 32) 28 1 (if machine then bits v 28 1 else bits old 28 1)

/-- The package after a write to a queue's registers: where the write has made the first record a candidate, its pass-over
count starts at 0, unless it is guarded (R306, R310, log 31). -/
def Pkg.candidateAnew (p before : Pkg) (q : Nat) : Pkg :=
  let i := p.queueInfo q
  if before.eligible q || !p.eligible q || i.guardAt.isSome then p else p.setQueueInfo q { i with passed := 0 }

/-- QCFG_WRITE (R304). -/
def qcfgWrite (a : Agent) (q : Nat) (v : Dword) (s : State) : Option State :=
  if !(supervises a) || decide (64 ≤ q) then some s
  else
    let old := s.pkg.qcfg q
    let put (t : State) (v : Dword) : Option State :=
      let t := t.setReg (offQueue q 1) v
      ({ t with pkg := t.pkg.candidateAnew s.pkg q } : State).select (q / 16)
    if bit old 0 then put s (setBits old 0 2 (bits v 0 2))
    else
      let new := qcfgNew (commands a) old v
      if !bit v 0 then put s new
      else if bits new 4 4 < 4 ∨ 64 < bits new 8 8 ∨ !s.pkg.qbaseOk (s.pkg.ctl (offQueue q 0)).toNat (bits new 4 4) then some s
      else
        let stat := setBits (s.pkg.ctl (offQueue q 6)) 16 32 0
        put { s with pkg := s.pkg.setCtl (offQueue q 6) stat } new

/-- QREL_WRITE (R306). -/
def qrelWrite (a : Agent) (q : Nat) (v : Dword) (s : State) : Option State :=
  if !(supervises a) || decide (64 ≤ q) then some s
  else
    let t := s.setReg (offQueue q 4) (onlyBits v 0 32)
    ({ t with pkg := t.pkg.candidateAnew s.pkg q } : State).select (q / 16)

/-- QPOP (R303): the first record of a disabled queue removed, and with it what was reserved for it (R310). -/
def qpop (a : Agent) (q : Nat) (v : Dword) (s : State) : State :=
  if !(supervises a) || decide (64 ≤ q) || !bit v 0 || bit (s.pkg.qcfg q) 0 || s.pkg.qcount q == 0 then s
  else
    let i := s.pkg.qhead q
    let info := s.pkg.queueInfo q
    let info := { info with stamps := tableDrop info.stamps i, clocks := tableDrop info.clocks i, passed := 0, guardAt := none }
    let p := s.pkg.setCtl (offQueue q 2) (BitVec.ofNat 64 ((i + 1) % 2 ^ 32))
    { s with pkg := (p.setQueueInfo q info).unreserve (q / 16) (2 ^ 32 + q) }

/-- The other registers of a queue: QBASE while EN = 0, QRING, QSTAT's bits cleared by ones (R303). A ring named anew
may be reported anew (R315). -/
def queueReg (q r : Nat) (v : Dword) (s : State) : State :=
  match r with
  | 0 => if bit (s.pkg.qcfg q) 0 then s else s.setReg (offQueue q 0) v
  | 5 =>
    let s := s.setReg (offQueue q 5) (onlyBits v 0 54)
    { s with pkg := s.pkg.setQueueInfo q { s.pkg.queueInfo q with ringBad := false } }
  | 6 => s.setReg (offQueue q 6) (s.pkg.ctl (offQueue q 6) &&& ~~~ (onlyBits v 0 6))
  | _ => s

/-! ### Spanning groups (R329) -/

/-- May a group be enabled with this SCFG on die `d` (R329)? -/
def Pkg.spanOk (p : Pkg) (d n : Nat) (v : Dword) : Bool :=
  let num := bits (p.ctl (offSpan d n 1)) 0 13
  let here := bits v 32 10 == p.number && bits v 42 2 == d
  if bit v 1 then num != 0 && decide (num ≤ 4096) && here
  else !here && p.spanCount d n != 0

/-- A root that is the one die of its group and has no local member completes a phase as it is enabled: it contributes at
once, with stamp 0 (R330); the phases after it are not counted (log 74). -/
def Pkg.rootAlone (p : Pkg) (d n : Nat) : Pkg :=
  let cfg := p.ctl (offSpan d n 0)
  if bit cfg 0 && bit cfg 1 && bits (p.ctl (offSpan d n 1)) 0 13 == 1 && p.spanCount d n == 0 then
    let g := (p.die d).span n
    let time := bits cfg 16 16
    let p := p.setSpan d n { g with phases := g.phases + 1, releases := tableSet g.releases g.phases time }
    p.setCtl (offSpan d n 3) (BitVec.ofNat 64 time)
  else p

/-- SCFG_WRITE (R329). -/
def scfgWrite (a : Agent) (d n : Nat) (v : Dword) (s : State) : State :=
  if !(supervises a) || decide (4 ≤ d) || decide (16 ≤ n) then s
  else
    let old := s.pkg.ctl (offSpan d n 0)
    let new := setBits (onlyBits v 0 2 ||| onlyBits v 16 28) 2 2 (bits old 2 2)
    if bit old 0 then s.setReg (offSpan d n 0) (setBits old 0 1 (bits v 0 1))
    else if bit v 0 && !s.pkg.spanOk d n new then s
    else
      let s := s.setReg (offSpan d n 0) new
      { s with pkg := s.pkg.rootAlone d n }

/-- SNUM and SMEM, while EN = 0 (R329). -/
def spanReg (d n r : Nat) (v : Dword) (s : State) : State :=
  if bit (s.pkg.ctl (offSpan d n 0)) 0 then s
  else
    match r with
    | 1 => s.setReg (offSpan d n 1) (onlyBits v 0 13)
    | 2 => s.setReg (offSpan d n 2) (onlyBits v 0 56)
    | _ => s

/-! ### Pre-emption requests (R382, R387) -/

/-- A notice given to a resident gang: NOTICE in each hart's save area, and 20 microseconds from now on. -/
def State.giveNotice (s : State) (g : Gang) (word : Dword) : Option State :=
  let mine := s.cores.filter fun e => e.2.present && e.2.gang == g.id
  let s := s.onGang g.id fun g => { g with noticeAt := g.noticeAt.or (some s.pkg.time) }
  mine.foldl (fun s e => s.bind fun s =>
    let noticed (h : Hart) : Hart := { h with notice := true, noticeWord := some word }
    let s := s.onCore e.1.id fun s => { s with h := noticed s.h }
    s.markState (noticed e.2) (if e.2.dying then 3 else 0)) (some s)

/-- PREQ_WRITE (R382). -/
def preqWrite (a : Agent) (die : Nat) (v : Dword) (s : State) : Option State :=
  if !(supervises a) || decide (4 ≤ die) then some s
  else
    let named := s.pkg.gangs.filter fun g =>
      g.phase == .resident && g.die == die && g.tag.toNat == bits v 0 32 && g.ctx.toNat == bits v 32 16
    if bit v 48 then
      named.foldl (fun (s : Option State) g => s.bind fun s => s.giveNotice g (onlyBits v 0 49)) (some s)
    else some (named.foldl (fun s g => s.preemptGang g.id) s)

/-! ### The migration table (R361, R362) -/

/-- May entry `n` start to pull (R361)? Its first dword is given. -/
def Pkg.migrationOk (p : Pkg) (n : Nat) (d0 : Dword) : Bool :=
  let sz := bits d0 3 3
  let size := migrationSize sz
  let new := (p.ctl (offMigration n 1)).toNat
  decide (sz < 5) && new % size == 0 && (p.ctl (offMigration n 2)).toNat % 64 == 0 &&
  (List.range 64).all fun k =>
    let d := p.ctl (offMigration k 0)
    let other := (p.ctl (offMigration k 1)).toNat
    k == n || bits d 1 2 != 1 || !(decide (new < other + migrationSize (bits d 3 3)) && decide (other < new + size))

/-- MIGRATION_ENTRY_WRITE (R361): nothing of NEW is present when the pull starts. -/
def migrationWrite (a : Agent) (n d : Nat) (v : Dword) (s : State) : State :=
  if !(supervises a) || decide (64 ≤ n) || bits (s.pkg.ctl (offMigration n 0)) 1 2 == 1 then s
  else
    match d with
    | 0 =>
      let new := onlyBits v 0 15
      if bits v 1 2 ≠ 1 then s.setReg (offMigration n 0) new
      else if s.pkg.migrationOk n new then
        let p := (s.pkg.setCtl (offMigration n 0) new).setCtl (offMigration n 3) 0
        { s with pkg := { p with present := tableSet p.present n [] } }
      else s
    | 1 => s.setReg (offMigration n 1) v
    | 2 => s.setReg (offMigration n 2) v
    | _ => s

/-- MIGRATION_PULL (R362): a line that is not present yet; one whose controller is busy waits. -/
def migrationPull (n line : Nat) (s : State) : State :=
  let p := s.pkg
  let d0 := p.ctl (offMigration n 0)
  if 64 ≤ n ∨ bits d0 1 2 ≠ 1 ∨ migrationSize (bits d0 3 3) / 64 ≤ line ∨ line ∈ p.presentLines n then s
  else
    match p.ownDram ((p.ctl (offMigration n 1)).toNat + 64 * line) with
    | some loc => if p.held? loc 64 then s else s.pullNow n line
    | none => s

/-! ### Keys (R371) and trap blocks (R376) -/

/-- KEYCTL_WRITE: while V = 1 only V changes. -/
def keyctlWrite (a : Agent) (k : Nat) (v : Dword) (s : State) : State :=
  if !holdsKeys a || decide (256 ≤ k) then s
  else
    let old := s.pkg.ctl (offKeyctl k)
    if bit old 0 then s.setReg (offKeyctl k) (setBits old 0 1 (bits v 0 1))
    else s.setReg (offKeyctl k) (onlyBits v 0 2 ||| onlyBits v 8 16)

/-- KEYDATA_WRITE: while V = 0. -/
def keydataWrite (a : Agent) (k d : Nat) (v : Dword) (s : State) : State :=
  if !holdsKeys a || decide (256 ≤ k) || decide (8 ≤ d) || bit (s.pkg.ctl (offKeyctl k)) 0 then s
  else s.setReg (offKeydata k d) v

/-- TRAP_BLOCK_WRITE of block 2 x die + world: the pools stand while any slot of theirs is allocated. -/
def trapBlockWrite (a : Agent) (block d : Nat) (v : Dword) (s : State) : State :=
  let die := s.pkg.die (block / 2)
  let secure := block % 2 == 1
  let inUse := !(die.slotsUsed secure).isEmpty || !(die.gslotsUsed secure).isEmpty
  let put (v : Dword) : State := s.setReg (offTrap (block / 2) secure d) v
  if !commands a || decide (8 ≤ block) then s
  else
    match d with
    | 0 => put (onlyBits v 2 62)
    | 1 => put (onlyBits v 2 62)
    | 2 => if inUse then s else put (onlyBits v 16 48)
    | 3 => if inUse then s else put (onlyBits v 0 16)
    | 4 => if inUse then s else put (onlyBits v 22 42)
    | 5 => if inUse then s else put (onlyBits v 0 16)
    | 6 => if inUse then s else put (onlyBits v 16 48)
    | _ => s

/-! ### The registers without a row of their own (R5) -/

/-- TIMECTL: a reserved SYNC code leaves SYNC as it is (R243). -/
def timectlNew (old v : Dword) : Dword :=
  setBits (onlyBits v 0 2) 4 4 (if 7 < bits v 4 4 then bits old 4 4 else bits v 4 4)

/-- A TID register of the tenant map, 16 bits at `off` (R367): cluster number `c` of die `d`. -/
def tenantReg (d c : Nat) (v : Dword) (s : State) : State :=
  let off := offTenant d c
  s.setReg off (setBits (s.pkg.ctl off) (16 * (c % 4)) 16 (bits v 0 12))

/-- REGISTER_WRITE (R5, R186): the register at an offset that has no row of its own; a read-only register, an offset
that reaches no register and an agent without the right change nothing. -/
def registerWrite (a : Agent) (off : Nat) (v : Dword) (s : State) : State :=
  if 0x50100 ≤ off ∧ off < 0x50300 then
    let d := (off - 0x50100) / 128
    let c := (off - 0x50100) % 128 / 2
    s.guarded (commands a && off % 2 == 0 && decide (c < 48)) (tenantReg d c v s)
  else if off % 8 ≠ 0 then s
  else if off = offTimectl then s.guarded (commands a) (s.setReg off (timectlNew (s.pkg.ctl off) v))
  else if 0x30000 ≤ off ∧ off < 0x31000 then
    s.guarded (supervises a) (queueReg ((off - 0x30000) / 64) (off % 64 / 8) v s)
  else if 0x40000 ≤ off ∧ off < 0x40800 then
    let g := (off - 0x40000) / 32
    s.guarded (supervises a) (spanReg (g / 16) (g % 16) (off % 32 / 8) v s)
  else if off = offCtxtbase ∨ off = offTentbase then s.guarded (commands a) (s.setReg off (onlyBits v 12 40))
  else if off = offSecmask ∨ off = offSpillbase then s.guarded (commands a) (s.setReg off v)
  else if 0x51000 ≤ off ∧ off < 0x53000 then s.guarded (commands a) (s.setReg off v)
  else if offRecovery ≤ off ∧ off < 2 * offRecovery then
    s.guarded (a == .host && bits (s.pkg.ctl offBootstat) 0 3 == 4) (s.setReg off v)
  else s

/-- A partial change of the state as a step of `M`. -/
def attempt (f : State → Option State) : M Unit := orStop f

/-- REGISTER_WRITE: a register without a row of its own (R5). -/
def execEvRegisterWrite (by_ : Agent) (off : Nat) (value : BitVec 64) (s : State) : Out :=
  .next (registerWrite by_ off value s)

/-- PRT_ENTRY_WRITE: a dword of a PRT entry (R179). -/
def execEvPrtEntryWrite (by_ : Agent) (n : Nat) (dword : Nat) (value : BitVec 64) (s : State) : Out :=
  .next (prtWrite by_ n dword value s)

/-- QCFG_WRITE: a queue's configuration (R304). -/
def execEvQcfgWrite (by_ : Agent) (q : Nat) (value : BitVec 64) (s : State) : Out :=
  finishAt (attempt (qcfgWrite by_ q value)) s

/-- QREL_WRITE: a queue's QREL (R306). -/
def execEvQrelWrite (by_ : Agent) (q : Nat) (value : BitVec 64) (s : State) : Out :=
  finishAt (attempt (qrelWrite by_ q value)) s

/-- QPOP: the first record of a disabled queue removed (R303). -/
def execEvQpop (by_ : Agent) (q : Nat) (value : BitVec 64) (s : State) : Out := .next (qpop by_ q value s)

/-- SCFG_WRITE: a spanning group's configuration (R329). -/
def execEvScfgWrite (by_ : Agent) (die : Nat) (group : Nat) (value : BitVec 64) (s : State) : Out :=
  .next (scfgWrite by_ die group value s)

/-- PREQ_WRITE: a pre-emption request (R382). -/
def execEvPreqWrite (by_ : Agent) (die : Nat) (value : BitVec 64) (s : State) : Out :=
  finishAt (attempt (preqWrite by_ die value)) s

/-- MIGRATION_ENTRY_WRITE: a dword of a migration entry (R361). -/
def execEvMigrationEntryWrite (by_ : Agent) (n : Nat) (dword : Nat) (value : BitVec 64) (s : State) : Out :=
  .next (migrationWrite by_ n dword value s)

/-- MIGRATION_PULL: a line pulled (R362). -/
def execEvMigrationPull (n : Nat) (line : Nat) (s : State) : Out := .next (migrationPull n line s)

/-- KEYCTL_WRITE: a key's control (R371). -/
def execEvKeyctlWrite (by_ : Agent) (key : Nat) (value : BitVec 64) (s : State) : Out :=
  .next (keyctlWrite by_ key value s)

/-- KEYDATA_WRITE: a dword of a key (R371). -/
def execEvKeydataWrite (by_ : Agent) (key : Nat) (dword : Nat) (value : BitVec 64) (s : State) : Out :=
  .next (keydataWrite by_ key dword value s)

/-- TRAP_BLOCK_WRITE: a register of a trap block (R376). -/
def execEvTrapBlockWrite (by_ : Agent) (block : Nat) (dword : Nat) (value : BitVec 64) (s : State) : Out :=
  .next (trapBlockWrite by_ block dword value s)

/-! ### The host's window BAR4 (R186) -/

/-- The PRT entry that lets TID 0 reach an OFF, non-secure (R186, R368). -/
def State.hostAdmits (s : State) (off : Nat) : Bool :=
  match (if off < 0xC000000000 then s.pkg.prtFind off else none), s.seenTenant 0 with
  | some n, some td => td.valid && bit td.prtMask n && !bit (s.pkg.ctl offSecmask) n
  | _, _ => false

/-- The locations of `n` bytes from an OFF, each by its entry. -/
def Pkg.offLocs (p : Pkg) (off n : Nat) : List Nat :=
  (List.range n).filterMap fun i => (p.prtFind (off + i)).map (p.prtLoc (off + i))

/-- A BAR4 access turned away (R186). -/
def Pkg.hostDrop (p : Pkg) (off : Nat) : Pkg := p.tenantDrop 0 0xFFFF 0 off

/-- A BAR4 read performed, or nothing where it must wait (R186). -/
def bar4Read (off n : Nat) (s : State) : Option State :=
  if !(List.range n).all fun i => s.hostAdmits (off + i) then
    let p := s.pkg.hostDrop off
    some { s with pkg := { p with outputs := p.outputs ++ [.bar4Unsupported] } }
  else
    let locs := s.pkg.offLocs off n
    if locs.any fun l => s.pkg.held? l 1 then none
    else
      let s := locs.foldl State.pulled s
      let p := match locs.find? fun l => s.pkg.poisoned l 1 with
        | some l => s.pkg.ueEvent l
        | none => s.pkg
      let bad := locs.any fun l => s.pkg.poisoned l 1
      some { s with pkg := { p with outputs := p.outputs ++ [.bar4Data (locs.flatMap fun l => s.getBytes l 1) bad] } }

/-- Bytes at locations gathered into runs of neighbours, so that a unit written whole is written at once. -/
def runsFrom : List (Nat × Byte) → List (Nat × List Byte)
  | [] => []
  | (l, b) :: r =>
    match runsFrom r with
    | (m, bs) :: t => if m = l + 1 then (l, b :: bs) :: t else (l, [b]) :: (m, bs) :: t
    | [] => [(l, [b])]

/-- A BAR4 write performed, or nothing where it must wait (R186). -/
def bar4Write (off : Nat) (bytes : List Byte) (s : State) : Option State :=
  if !(List.range bytes.length).all fun i => s.hostAdmits (off + i) then some { s with pkg := s.pkg.hostDrop off }
  else
    let locs := s.pkg.offLocs off bytes.length
    if locs.any fun l => s.pkg.held? l 1 then none
    else
      let s := locs.foldl State.pulled s
      some ((runsFrom (locs.zip bytes)).foldl (fun s r => s.writeHome r.1 r.2) s)

/-- The first access of the host performed, in the order in which they came, if it need not wait: none is served in a
package that has tripped, whose stacks have no supply (R25, R186, R187). -/
def hostStep : M Unit := do
  let s ← get
  match s.pkg.hostWork with
  | [] => pure ()
  | a :: rest =>
    let s0 := { s with pkg := { s.pkg with hostWork := rest } }
    if s.pkg.tripped then pure ()
    else
      match a with
      | .read off n => set ((bar4Read off n s0).getD s)
      | .write off bytes => set ((bar4Write off bytes s0).getD s)
      | .launch q r =>
        set s0
        let _ ← enqueueAt q r []

/-- An access of the host arrives: it is performed at once, or once those before it have been. -/
def hostArrives (a : HostAccess) : M Unit := do
  let first := (← get).pkg.hostWork.isEmpty
  modify fun s => { s with pkg := { s.pkg with hostWork := s.pkg.hostWork ++ [a] } }
  if first then hostStep else pure ()

/-- HOST_BAR4_READ: a host read through BAR4 (R186). -/
def execEvHostBar4Read (off : Nat) (size : Nat) (s : State) : Out := finishAt (hostArrives (.read off size)) s

/-- HOST_BAR4_WRITE: a host write through BAR4 (R186). -/
def execEvHostBar4Write (off : Nat) (bytes : List (BitVec 8)) (s : State) : Out := finishAt (hostArrives (.write off bytes)) s

/-! ### Reads of the control block and of queue pages (R24, R185, R186, R371) -/

/-- May an agent read the register at an offset: the power controls (R24) and what a die's status tells (R400) at every
privilege, the key table from a secure core (R371), the UALink bitmaps, OFFREQ and SPILLBASE at machine privilege (R368, R401, R403), the rest as supervisor
software (R186, log 81)? -/
def readable (a : Agent) (off : Nat) : Bool :=
  if 0x60000 ≤ off ∧ off < 0x65000 then holdsKeys a
  else if (0x51000 ≤ off ∧ off < 0x53000) ∨ off = offOffreq ∨ off = offSpillbase then commands a
  else if (0x90000 ≤ off ∧ off < 0x90030) ∨ (offDiestat 0 ≤ off ∧ off < offFenced 4) then true
  else supervises a

/-- The value that a read of the control block gives; KEYDATA, an offset that reaches no register and a register that the
agent may not read read zero (R186, R371). A register of a tenant map has 16 bits (R367), FENCED of a die 32 (R400). -/
def Pkg.readReg (p : Pkg) (a : Agent) (off : Nat) : Dword :=
  if 2 ^ 26 ≤ off ∨ (0x61000 ≤ off ∧ off < 0x65000) ∨ readable a off = false then 0
  else if 0x50100 ≤ off ∧ off < 0x50300 ∧ off % 2 = 0 then BitVec.ofNat 64 (bits (p.ctl (off / 8 * 8)) (8 * (off % 8)) 16)
  else if offFenced 0 ≤ off ∧ off < offFenced 4 ∧ off % 4 = 0 then BitVec.ofNat 64 (bits (p.ctl (off / 8 * 8)) (8 * (off % 8)) 32)
  else if off % 8 = 0 then p.ctl off
  else 0

/-- A read of the control block answered. -/
def registerRead (a : Agent) (off : Nat) (s : State) : State :=
  { s with pkg := { s.pkg with outputs := s.pkg.outputs ++ [.register (s.pkg.readReg a off)] } }

/-- A host read of `n` bytes of a queue page (R185): zeros. -/
def pageRead (n : Nat) (s : State) : State :=
  { s with pkg := { s.pkg with outputs := s.pkg.outputs ++ [.bar2Data (List.replicate n 0)] } }

end Sys2Proof.Machine
end

