-- ==== Sys2Proof/Machine/Reliability.lean ====
section
/-! DEFINITION. Hidden failures: scrubs (R395), retention (R397), row sparing (R398), cluster failure (R399), die
evacuation and spilling (R401 to R405), and the failure of a UALink port (R184). -/

namespace Sys2Proof.Machine

/-! ### Retention (R397) -/

/-- The time that an array takes to enter or to leave retention: 2 microseconds for each 256 KiB. -/
def retentionTime (a : Nat) : Nat := nanoseconds (if a < 1536 then 2000 else 32000)

/-- When the array's present state began: in use or idle, entering, retained or leaving. -/
def Pkg.arraySinceOf (p : Pkg) (a : Nat) : Nat := (tableGet p.arraySince a).getD 0

/-- Is no hart on the core, or on any core of the cluster, that an array belongs to? -/
def State.arrayIdle (s : State) (a : Nat) : Bool :=
  if a < 1536 then s.coreFree a else (s.freeCores (a - 1536)).length == 8

/-- The array's state of retention set, as of now. -/
def Pkg.setRetention (p : Pkg) (a : Nat) (r : Option Retention) : Pkg :=
  { p with
    retention := match r with
      | some r => tableSet p.retention a r
      | none => tableDrop p.retention a
    arraySince := tableSet p.arraySince a p.time }

/-- May an array that is not in retention mode enter it: idle for 1 ms? -/
def State.mayRetain (s : State) (a : Nat) : Bool :=
  decide (s.pkg.arraySinceOf a + nanoseconds 1000000 ≤ s.pkg.time) && s.arrayIdle a

/-- RETENTION_ENTER: an array idle for 1 ms starts to re-encode. -/
def retentionEnter (a : Nat) (s : State) : State :=
  if a < 1728 && (tableGet s.pkg.retention a).isNone && s.mayRetain a then
    { s with pkg := s.pkg.setRetention a (some .entering) }
  else s

/-- The `n` numbers from `a` that a table with rising keys does not list. -/
def unlisted : Nat → Nat → List (Nat × Retention) → List Nat
  | _, 0, _ => []
  | a, n + 1, [] => a :: unlisted (a + 1) n []
  | a, n + 1, (k, x) :: r => if k = a then unlisted (a + 1) n r else a :: unlisted (a + 1) n ((k, x) :: r)

/-- Every array that has been idle for 1 ms enters retention. -/
def State.enterIdle (s : State) : State :=
  ((unlisted 0 1728 s.pkg.retention).filter s.mayRetain).foldl
    (fun s a => { s with pkg := s.pkg.setRetention a (some .entering) }) s

/-- Has the array been in the state `r` for as long as that takes? -/
def Pkg.retentionDue (p : Pkg) (a : Nat) (r : Retention) : Bool :=
  tableGet p.retention a == some r && decide (p.arraySinceOf a + retentionTime a ≤ p.time)

/-- RETENTION_ENTERED: the array is re-encoded; where an access waits for it, it starts to leave at once. -/
def retentionEntered (a : Nat) (s : State) : State :=
  if s.pkg.retentionDue a .entering then { s with pkg := s.pkg.setRetention a (some .retained) }
  else if s.pkg.retentionDue a .turning then { s with pkg := s.pkg.setRetention a (some .leaving) }
  else s

/-- Every array that has been re-encoded, in retention or leaving it. -/
def State.enteredAll (s : State) : State := s.pkg.retention.foldl (fun s r => retentionEntered r.1 s) s

/-- RETENTION_LEAVE: the array is active again, and a dispatch that waited for it is made. -/
def retentionLeave (a : Nat) : M Unit := do
  let s ← get
  if s.pkg.retentionDue a .leaving then
    let die := if a < 1536 then dieOfCore a else (a - 1536) / 48
    orStop fun s => ({ s with pkg := s.pkg.setRetention a none } : State).select die
  else pure ()

/-- RETENTION_ENTER: an idle array enters retention (R397). -/
def execEvRetentionEnter (array : Nat) (s : State) : Out := .next (retentionEnter array s)

/-- RETENTION_ENTERED: an array is in retention (R397). -/
def execEvRetentionEntered (array : Nat) (s : State) : Out := .next (retentionEntered array s)

/-- RETENTION_LEAVE: an array has left retention (R397). -/
def execEvRetentionLeave (array : Nat) (s : State) : Out := finishAt (retentionLeave array) s

/-! ### Scrubs and rows (R395, R398) -/

/-- The locations of the 256 bytes of a row of a pseudo-channel of a controller (log 10). -/
def rowLoc (controller pseudo row : Nat) : Nat :=
  dramLoc (controller / 24) (row * 24576 + controller % 24 * 1024 + pseudo * 256)

/-- A pseudo-channel fenced (R398): the event, the controller's bit, and its remapped rows poisoned. -/
def fencePseudo (controller pseudo : Nat) (rows : List Nat) (s : State) : State :=
  let die := controller / 24
  let p := s.pkg
  let p := p.setCtl (offFenced die) (setBits (p.ctl (offFenced die)) (32 * (die % 2) + controller % 24) 1 1)
  let s := { s with pkg := p.logEvent die 0x03 0xFFFF controller pseudo }
  rows.foldl (fun s r => s.poisonBytes (rowLoc controller pseudo r) 256) s

/-- REMAP_RELOAD (R398): reloaded from the shadow, for at most 20 microseconds; where that has failed too, the
pseudo-channel is fenced. -/
def remapReload (controller pseudo : Nat) (rows : List Nat) (shadowGood : Bool) (s : State) : State :=
  if 96 ≤ controller ∨ 4 ≤ pseudo then s
  else if shadowGood then
    let p := s.pkg.logEvent (controller / 24) 0x02 (0x8000 + controller) controller pseudo
    { s with pkg := { p with rebuilding := p.rebuilding ++ [(controller, pseudo, rows, p.time + nanoseconds 20000)] } }
  else fencePseudo controller pseudo rows s

/-- REMAP_REBUILD_END (R398): accesses go on; where the shadow has failed meanwhile, the rows are fenced (log 59). -/
def rebuildEnd (controller pseudo : Nat) (shadowGood : Bool) (s : State) : State :=
  let mine (e : Nat × Nat × List Nat × Nat) : Bool := e.1 == controller && e.2.1 == pseudo
  let rows := (s.pkg.rebuilding.filter mine).flatMap (·.2.2.1)
  let t := { s with pkg := { s.pkg with rebuilding := s.pkg.rebuilding.filter fun e => !mine e } }
  if shadowGood || !s.pkg.rebuilding.any mine then t else fencePseudo controller pseudo rows t

/-- ROW_SPARING (R398): spared with no effect that a program sees; with no spare or no sound table left, the
pseudo-channel is fenced, `rows` its remapped rows (log 59). -/
def rowSparing (controller pseudo : Nat) (rows : List Nat) (spared : Bool) (s : State) : State :=
  if spared || decide (96 ≤ controller) || decide (4 ≤ pseudo) then s else fencePseudo controller pseudo rows s

/-- A scrub's counts of corrected errors (R407): die, array code and count; one above 1,000 is recorded. -/
def Pkg.scrubCounts (p : Pkg) (counts : List (Nat × Nat × Nat)) : Pkg :=
  counts.foldl (fun p e => if 1000 < e.2.2 then p.logEvent e.1 0x16 0xFFFF e.2.1 e.2.2 else p) p

/-- The storage unit of a location of an array of R395 takes an error that its code cannot correct: it is poisoned, and
nothing has detected it yet (R395, R396); of registers, tiles and L1 caches no rule says what their readers do (log 83). -/
def State.upset (s : State) (loc : Nat) (cached : Bool) : State :=
  if cached then s.poisonCached loc else s.poisonBytes loc 1

/-- What a scrub finds (R395, R396): corrected errors, and the units of its array that cannot be corrected, each poisoned
and recorded: 32 bytes of DRAM, or in `cached` 8 bytes of a memory-side cache. -/
def scrub (cached : Bool) (counts : List (Nat × Nat × Nat)) (bad : List Nat) (s : State) : State :=
  let reach := if cached then 68 * 2 ^ 40 else 4 * 2 ^ 40
  (bad.filter fun l => decide (l < reach)).foldl (fun s l =>
    let s := s.upset l cached
    { s with pkg := s.pkg.ueEvent l }) { s with pkg := s.pkg.scrubCounts counts }

/-- DRAM_SCRUB: all DRAM read and corrected (R395). -/
def execEvDramScrub (counts : List (Nat × Nat × Nat)) (bad : List Nat) (s : State) : Out := .next (scrub false counts bad s)

/-- MSC_SCRUB: the lines of the memory-side caches read and corrected (R395). -/
def execEvMscScrub (counts : List (Nat × Nat × Nat)) (bad : List Nat) (s : State) : Out := .next (scrub true counts bad s)

/-- REMAP_RELOAD: a remap table lost (R398). -/
def execEvRemapReload (controller : Nat) (pseudo : Nat) (rows : List Nat) (shadowGood : Bool) (s : State) : Out :=
  .next (remapReload controller pseudo rows shadowGood s)

/-- REMAP_REBUILD_END: the rebuild of a remap table ends (R398). -/
def execEvRemapRebuildEnd (controller : Nat) (pseudo : Nat) (shadowGood : Bool) (s : State) : Out :=
  finishAt (orStop fun s => (rebuildEnd controller pseudo shadowGood s).selectAll) s

/-- ROW_SPARING: a failing row replaced (R398). -/
def execEvRowSparing (controller : Nat) (pseudo : Nat) (rows : List Nat) (spared : Bool) (s : State) : Out :=
  .next (rowSparing controller pseudo rows spared s)

/-! ### A cluster that fails (R399) -/

/-- A resume entry whose cores were held goes back to the list: its cores and its partition are free again. -/
def State.unplace (s : State) (g : Gang) : State :=
  let cores := (s.cores.filter fun e => e.2.status == .resuming && e.2.gang == g.id).map (·.1.id)
  let s := cores.foldl State.emptyCore s
  (s.freePart g).onGang g.id fun g => { g with phase := .parked, die := s.pkg.resumeDie g.die }

/-- The operand of `gkill` that names a gang (R391): the EVAL of a kill that no instruction asked for. -/
def Gang.killWord (g : Gang) : Dword := BitVec.ofNat 64 (g.tag.toNat + g.ctx.toNat * 2 ^ 32 + g.die * 2 ^ 48)

/-- A granule of a failed array: brought to its owner's backing area, poisoned there where it cannot be read. -/
def State.rescue (s : State) (bad : Bool) (loc : Nat) (evict : State → Option State) : Option State :=
  evict (if bad then s.poisonBytes loc 4096 else s)

/-- The owned granules of a cluster's scratchpads written back, without their tags; the granules of `unreadable`
(0 to 1,023 of the cluster's array, then 64 for each core) come back poisoned (R399). -/
def State.emptyArrays (s : State) (cluster : Nat) (unreadable : List Nat) : Option State :=
  let parts := (s.pkg.cluster cluster).tags
  let s1 := parts.foldl (fun (s : Option State) e => s.bind fun s =>
    s.rescue (unreadable.contains e.1) (clusLoc cluster (4096 * e.1)) fun s => s.evictPart cluster e.1 e.2) (some s)
  let s2 := (List.range 8).foldl (fun (s : Option State) k => s.bind fun s =>
    let core := 8 * cluster + k
    (s.coreAt core).1.tags.foldl (fun (s : Option State) e => s.bind fun s =>
      s.rescue (unreadable.contains (1024 + 64 * k + e.1)) (privLoc core (4096 * e.1)) fun s =>
        s.evictPriv core e.1 e.2) (some s)) s1
  s2.map fun s =>
    let s := (List.range 8).foldl (fun s k => s.onCore (8 * cluster + k) fun s => { s with core := { s.core with tags := [] } }) s
    let c := s.pkg.cluster cluster
    { s with pkg := { s.pkg with clusters := tableSet s.pkg.clusters cluster { c with tags := [] } } }

/-- The arrays of a cluster in which granules are owned. -/
def State.ownedArrays (s : State) (cluster : Nat) : List Nat :=
  (if (s.pkg.cluster cluster).tags.isEmpty then [] else [1536 + cluster]) ++
    ((List.range 8).map (8 * cluster + ·)).filter fun c => !(s.coreAt c).1.tags.isEmpty

/-- The failed cluster at place `k` of those whose scratchpads are to be written back: its arrays are woken, and once none
is in retention mode it is done (R397, R399). -/
def emptyNext (k : Nat) : M Unit := do
  let s ← get
  match s.pkg.emptying[k]? with
  | none => pure ()
  | some (cluster, unreadable) =>
    let asleep := s.pkg.retained (s.ownedArrays cluster)
    if !asleep.isEmpty then modify fun s => { s with pkg := s.pkg.wakeArrays asleep }
    else orStop fun s => { s with pkg := { s.pkg with emptying := s.pkg.emptying.eraseIdx k } }.emptyArrays cluster unreadable

/-- DIESTAT of a die with cluster `c` offline: DEGRADED once two of its clusters have failed, the one that the spare
replaced among them (R13, R400). -/
def markOffline (d : Dword) (c : Nat) : Dword :=
  let d := setBits d (16 + c) 1 1
  let failed := popcount (bits d 16 48) 48 + bits d 2 1
  if bits d 0 2 = 0 ∧ 2 ≤ failed then setBits d 0 2 1 else d

/-- CLUSTER_FAILURE (R399). -/
def clusterFailure (die c : Nat) (unreadable : List Nat) : M Unit := do
  if 4 ≤ die ∨ 48 ≤ c then pure ()
  else
    let cluster := 48 * die + c
    modify fun s =>
      let d := s.pkg.ctl (offDiestat die)
      { s with pkg := (s.pkg.setCtl (offDiestat die) (markOffline d c)).logEvent die 0x05 0xFFFF c 0 }
    let here := (← get).pkg.gangs.filter fun g => g.cluster == cluster
    orStop fun s => here.foldl (fun (s : Option State) g => s.bind fun s =>
      match g.phase with
      | .parked => some s
      | .resuming => some (s.unplace g)
      | _ => s.killGang g.id (some g.killWord)) (some s)
    let k := (← get).pkg.emptying.length
    modify fun s => { s with pkg := { s.pkg with emptying := s.pkg.emptying ++ [(cluster, unreadable)] } }
    emptyNext k
    orStop fun s => s.select die

/-- CLUSTER_FAILURE: a cluster that fails in service (R399). -/
def execEvClusterFailure (die : Nat) (cluster : Nat) (unreadable : List Nat) (s : State) : Out :=
  finishAt (clusterFailure die cluster unreadable) s

/-! ### Evacuation of a die (R401 to R405) -/

/-- A layout that an evacuation gives an entry: entry, die set, LBASE in pages. -/
structure NewLayout where
  entry : Nat
  dies : Nat
  lbase : Nat
deriving DecidableEq, Repr

/-- The layouts that evacuations in progress give. -/
def Pkg.planned (p : Pkg) : List NewLayout :=
  (p.evac.filter fun r => r.kind == .restripe).map fun r => ⟨r.entry, r.dies, r.lbase / 4096⟩

/-- The dies that entry `n` will lie on once the evacuations in progress have ended. -/
def Pkg.diesOf (p : Pkg) (n : Nat) : Nat :=
  match p.planned.reverse.find? fun l => l.entry == n with
  | some l => l.dies
  | none => bits (p.ctl (offPrt n 2)) 0 4

/-- The valid PRT entries whose region lies on a die. -/
def Pkg.entriesOn (p : Pkg) (die : Nat) : List Nat :=
  (List.range 64).filter fun n => bit (p.ctl (offPrt n 0)) 0 && (p.diesOf n).testBit die

/-- The pages that entry `n` takes on each die of a set. -/
def Pkg.newShare (p : Pkg) (l : NewLayout) : Nat × Nat := shareOf l.dies (bits (p.ctl (offPrt l.entry 1)) 12 30) l.lbase

/-- Is a new layout one that R179 and R401 step 3 allow beside the current shares and those already chosen? -/
def Pkg.layoutFree (p : Pkg) (chosen : List NewLayout) (l : NewLayout) : Bool :=
  layoutOk l.dies (bits (p.ctl (offPrt l.entry 2)) 4 5) (bits (p.ctl (offPrt l.entry 1)) 12 30) l.lbase &&
  ((List.range 64).all fun k =>
    !bit (p.ctl (offPrt k 0)) 0 || !sharesMeet l.dies (p.newShare l) (p.prtShare k).1 (p.prtShare k).2) &&
  chosen.all fun c => !sharesMeet l.dies (p.newShare l) c.dies (p.newShare c)

/-- The layout without the die, for entry `n` at `lbase`. -/
def Pkg.without (p : Pkg) (die n lbase : Nat) : NewLayout := ⟨n, p.diesOf n - 2 ^ die, lbase⟩

/-- The places that may be the lowest free one: 0, and the end of every share. -/
def Pkg.shareEnds (p : Pkg) (chosen : List NewLayout) : List Nat :=
  0 :: ((List.range 64).filter fun k => bit (p.ctl (offPrt k 0)) 0).map (fun k => (p.prtShare k).2.2) ++
    chosen.map fun c => (p.newShare c).2

/-- Layouts for the entries one after the other, behind those chosen: the place that the plan names where it will do, else
the first that does (log 14). -/
def Pkg.chooseLayouts (p : Pkg) (die : Nat) (plan : List (List Nat)) : List Nat → List NewLayout → Option (List NewLayout)
  | [], chosen => some chosen
  | n :: r, chosen =>
    let wanted := (plan.filter fun e => e.head? == some n).filterMap fun e => e[1]?
    match ((wanted ++ p.shareEnds chosen).map (p.without die n)).find? (p.layoutFree chosen) with
    | some l => p.chooseLayouts die plan r (chosen ++ [l])
    | none => none

/-- The dies whose spilled blocks a die is the home of (R405). -/
def Pkg.spilledTo (p : Pkg) (die : Nat) : List Nat :=
  (List.range 4).filter fun d => (p.die d).spill.any fun e => e.1 == die

/-- The hand-over of those blocks: each entry of each such die, to its next spill home; none where there is no such die. -/
def Pkg.handOvers (p : Pkg) (die : Nat) : Option (List EvacRegion) :=
  ((p.spilledTo die).mapM fun d => (p.spillDie d).map fun h =>
    (p.entriesOn d).map fun n => (⟨die, n, 0, 0, 0, p.time, .hand d h⟩ : EvacRegion)).map List.flatten

/-- The regions of a die that moves its own memory, and the status that this ends with: new layouts, or the host where
they do not fit and a spill home is there (R401 step 3, R403). -/
def Pkg.movePlan (p : Pkg) (die : Nat) (plan : List (List Nat)) : Option (List EvacRegion × Nat) :=
  let es := p.entriesOn die
  let before := p.planned
  match p.chooseLayouts die plan es before with
  | some ls => some ((ls.drop before.length).map fun l => ⟨die, l.entry, l.dies, l.lbase * 4096, 0, p.time, .restripe⟩, 0)
  | none =>
    if p.ctl offSpillbase ≠ 0 ∧ (p.spillDie die).isSome then
      some (es.map fun n => ⟨die, n, 0, 0, 0, p.time, .spill⟩, 1)
    else none

/-- The regions that taking a die offline moves, its own and those spilled to it, and the status it will end with; status 2
is NO_CAPACITY (R401 step 3, R403 to R405). -/
def Pkg.evacPlan (p : Pkg) (die : Nat) (plan : List (List Nat)) : List EvacRegion × Nat :=
  match p.movePlan die plan, p.handOvers die with
  | some (rs, status), some hs => (rs ++ hs, status)
  | _, _ => ([], 2)

/-- Has a hart of the gang arrived at a local or spanning group that it has not waited for (R328)? -/
def Hart.amidBarrier (h : Hart) : Bool :=
  (List.range 48).any fun g =>
    let b := (h.bar.getD g 0).toNat
    b % 4 != b / 4 % 4

/-- The die of OFFREQ may go: it is NORMAL or DEGRADED, and three others are not OFFLINE (R401, log 15). -/
def Pkg.mayLeave (p : Pkg) (die : Nat) : Bool :=
  let st (d : Nat) : Nat := bits (p.ctl (offDiestat d)) 0 2
  decide (st die < 2) && decide (3 ≤ ((List.range 4).filter fun d => d != die && st d != 3).length)

/-- A die EVACUATING, with what it moves; where it spills, its spill home is chosen now (R401, R403, R405). -/
def Pkg.startEvac (p : Pkg) (die : Nat) (plan : List (List Nat)) : Pkg :=
  let d := p.ctl (offDiestat die)
  let p := p.setCtl (offDiestat die) (setBits (setBits d 0 2 2) 4 1 0)
  let (regions, status) := p.evacPlan die plan
  let spill := if status = 1 then (p.spillDie die).map fun h => (h, (p.ctl offSpillbase).toNat) else none
  let p := p.onDie die fun x => { x with leaving := some (status, bits d 0 2), spill := spill, handed := [] }
  { p with evac := p.evac ++ regions }

/-- OFFREQ_WRITE (R401): EVACUATING; the die's gangs parked, those that park or resume included, or killed amid a barrier of
the die (R328); the layouts chosen. -/
def offreqWrite (a : Agent) (v : Dword) (plan : List (List Nat)) : M Unit := do
  let die := bits v 0 2
  let s ← get
  if !commands a || !bit v 2 || !s.pkg.mayLeave die then pure ()
  else
    modify fun s => { s with pkg := s.pkg.startEvac die plan }
    orStop fun s => (s.pkg.gangs.filter fun g => g.die == die).foldl (fun (s : Option State) g => s.bind fun s =>
      match g.phase with
      | .parked => some s
      | phase =>
        let mine := (s.cores.filter fun e => e.2.present && e.2.gang == g.id).map (·.2) ++ g.saved
        if mine.any Hart.amidBarrier then s.killGang g.id (some g.killWord)
        else some (if phase == .resuming then s.unplace g else s.preemptGang g.id)) (some s)
    orStop fun s => (s.settleEvac die).select (s.pkg.otherDie die)

/-- The bytes of a block of a PRT entry. -/
def Pkg.strideOf (p : Pkg) (n : Nat) : Nat := 4096 * 2 ^ bits (p.ctl (offPrt n 2)) 4 5

/-- The blocks that a region of an evacuation moves: all of the entry's where it is re-striped, those of one die where they
are spilled or handed over. -/
def Pkg.blocksOf (p : Pkg) (r : EvacRegion) : Nat :=
  let all := bits (p.ctl (offPrt r.entry 1)) 12 30 * 4096 / p.strideOf r.entry
  if r.kind == .restripe then all else all / popcount (bits (p.ctl (offPrt r.entry 2)) 0 4) 4

/-- The bytes from `src` brought to `dst` with their poison, whatever their number. -/
def State.relocate (s : State) (src dst n : Nat) : State :=
  let inside (a : Nat) : Bool := decide (src ≤ a) && decide (a < src + n)
  let cells := (s.mem.filter fun c => inside c.1).map fun c => (dst + (c.1 - src), c.2)
  let bad := (s.pkg.poison.filter fun u => inside (unitBase u)).map fun u => u - src + dst
  let s := s.clearBytes dst n
  { s with
    mem := Memory.writeCells s.mem cells
    pkg := { s.pkg with poison := bad.foldl setInsert s.pkg.poison } }

/-- A message whose locations follow a move. -/
def Msg.moved (f : Nat → Nat) (m : Msg) : Msg :=
  { m with body := match m.body with
      | .read key size dest tag => .read (f key) size dest tag
      | .write cells => .write (cells.map fun c => (f c.1, c.2))
      | .nibble key hi v => .nibble (f key) hi v
      | .atomic op key v e dest tag => .atomic op (f key) v e dest tag
      | .reduce es => .reduce (es.map fun e => { e with key := f e.key })
      | .timed t => .timed { t with key := f t.key }
      | .join key pa => .join (f key) pa
      | b => b }

/-- What is kept by location follows a move: accesses on their way or held, race records, what releases left, and
instruction lines (R402). -/
def State.rekey (s : State) (f : Nat → Nat) : State :=
  let line (a : Nat) : Nat := f (64 * a) / 64
  let lines (c : Core) : Core := { c with icache := c.icache.map fun e => (line e.1, e.2) }
  let p := s.pkg
  { s with
    core := lines s.core
    rest := s.rest.map fun e => (lines e.1, e.2)
    pkg := { p with
      net := p.net.map (Msg.moved f)
      held := p.held.map fun t => { t with key := f t.key }
      waiting := p.waiting.map fun t => { t with key := f t.key }
      races := p.races.foldl (fun t e => tableSet t (line e.1) e.2) []
      released := p.released.map fun r => { r with key := f r.key } } }

/-- A block of `n` bytes moved: its bytes, and all that is kept by location (R402). -/
def State.shiftBlock (s : State) (src dst n : Nat) : State :=
  let one (a : Nat) : Nat := if src ≤ a ∧ a < src + n then dst + (a - src) else a
  let follow (a : Nat) : Nat := if 2 ^ 70 ≤ a ∧ a < 2 ^ 71 then 2 ^ 70 + one (a - 2 ^ 70) else one a
  (s.relocate src dst n).rekey follow

/-- The location of block `k` of entry `n` under a layout. -/
def Pkg.blockLoc (p : Pkg) (n dies lbase k : Nat) : Nat :=
  let (d, l) := stripe dies (p.strideOf n) lbase k 0
  p.shareLoc d n (k / popcount dies 4) l

/-- Where the block of a region that moves next lies, and where it comes to lie. -/
def Pkg.blockMove (p : Pkg) (r : EvacRegion) : Nat × Nat :=
  let c := p.ctl (offPrt r.entry 2)
  let lbase := bits c 12 28 * 4096
  let l := lbase + r.moved * p.strideOf r.entry
  match r.kind with
  | .restripe => (p.blockLoc r.entry (bits c 0 4) lbase r.moved, p.blockLoc r.entry r.dies r.lbase r.moved)
  | .spill => (dramLoc r.die l, spilledLoc (((p.die r.die).spill.map (·.1)).getD r.die) r.die l)
  | .hand d h => (p.shareLoc d r.entry r.moved l, spilledLoc h d l)

/-- May the next block of the region at place `k` move: no earlier region has its entry, the die's gangs have gone, no
granule of it is pending under a graph copy, none of its rows waits for a remap table? -/
def State.blockFree (s : State) (k : Nat) (r : EvacRegion) : Bool :=
  let loc := (s.pkg.blockMove r).1
  let n := s.pkg.strideOf r.entry
  (s.pkg.evac.take k).all (fun q => q.entry != r.entry) &&
  !(s.pkg.gangs.any fun g => g.die == r.die && (g.phase == .resident || g.phase == .parking)) &&
  !(s.pkg.pending.any fun g => decide (loc / 64 ≤ g.key) && decide (64 * g.key < loc + n)) &&
  !(s.pkg.rebuilding.any fun e => e.1 / 24 == loc / 2 ^ 40)

/-- What the end of a region's move leaves: a new layout in its PRT entry, or an entry handed over (R401 step 4, R405). -/
def Pkg.settleRegion (p : Pkg) (r : EvacRegion) : Pkg :=
  match r.kind with
  | .restripe =>
    if bit (p.ctl (offPrt r.entry 0)) 0 then
      p.setCtl (offPrt r.entry 2) (setBits (setBits (p.ctl (offPrt r.entry 2)) 0 4 r.dies) 12 28 (r.lbase / 4096))
    else p
  | .spill => p
  | .hand d h => p.onDie d fun x => { x with handed := tableSet x.handed r.entry h }

/-- The region at place `k` taken off the list, and the move recorded (R407). -/
def State.endRegion (s : State) (k : Nat) (r : EvacRegion) : State :=
  let p := ({ s.pkg with evac := s.pkg.evac.eraseIdx k } : Pkg).settleRegion r
  ({ s with pkg := p.logEvent r.die 0x17 0xFFFF r.entry r.moved } : State).settleEvac r.die

/-- EVAC_BLOCK_MOVE of the region at place `k` of those that move (R402, R403, R405). -/
def evacMove (k : Nat) (s : State) : State :=
  match s.pkg.evac[k]? with
  | none => s
  | some r =>
    if !bit (s.pkg.ctl (offPrt r.entry 0)) 0 || decide (s.pkg.blocksOf r ≤ r.moved) then s.endRegion k r
    else if !s.blockFree k r then s
    else
      let (src, dst) := s.pkg.blockMove r
      let s := s.shiftBlock src dst (s.pkg.strideOf r.entry)
      let r := { r with moved := r.moved + 1 }
      let s := { s with pkg := { s.pkg with evac := s.pkg.evac.set k r } }
      if s.pkg.blocksOf r ≤ r.moved then s.endRegion k r else s

/-- OFFREQ_WRITE: a die asked to go offline (R401). -/
def execEvOffreqWrite (by_ : Agent) (value : BitVec 64) (plan : List (List Nat)) (s : State) : Out :=
  finishAt (offreqWrite by_ value plan) s

/-- EVAC_BLOCK_MOVE: a block moved (R402). -/
def execEvEvacBlockMove (region : Nat) (s : State) : Out := .next (evacMove region s)

/-! ### UALink ports (R184) -/

/-- PORT_FAILURE: the routes of its packages move; the posted messages of a pair keep their order (R184, R187). -/
def execEvPortFailure (port : Nat) (s : State) : Out :=
  .next { s with pkg := { s.pkg with portsDown := tableSet s.pkg.portsDown port s.pkg.time } }

end Sys2Proof.Machine
end

