-- ==== Sys2Proof/Machine/Static.lean ====
section
/-! DEFINITION. The static check of a word (R71 step 2, R73) as a test that builds no instruction: true of exactly the
words that Decode.lean gives an instruction (Laws/Words.lean). The image checker and the fetch use it. -/

namespace Sys2Proof.Machine

/-- Words of major opcode 0x01 that are instructions (R59). -/
def okOp01 (w : Nat) : Bool :=
  match w % 256 with
  | 0 => decide (w / 2 ^ 8 % 8 = 0)
  | 1 => decide (w / 2 ^ 8 % 8 = 0)
  | 2 => decide (w / 2 ^ 8 % 8 = 0)
  | 3 => decide (w / 2 ^ 8 % 8 = 0)
  | 4 => decide (w / 2 ^ 8 % 8 = 0)
  | 5 => decide (w / 2 ^ 8 % 8 = 0)
  | 6 => decide (w / 2 ^ 8 % 8 = 0)
  | 7 => decide (w / 2 ^ 8 % 8 = 0)
  | 8 => decide (w / 2 ^ 8 % 8 = 0)
  | 9 => decide (w / 2 ^ 8 % 8 = 0)
  | 10 => decide (w / 2 ^ 8 % 8 = 0)
  | 11 => decide (w / 2 ^ 8 % 8 = 0)
  | 12 => decide (w / 2 ^ 8 % 8 = 0)
  | 16 => decide (w / 2 ^ 8 % 8 = 0)
  | 17 => decide (w / 2 ^ 8 % 8 = 0)
  | 18 => decide (w / 2 ^ 8 % 8 = 0)
  | 19 => decide (w / 2 ^ 8 % 8 = 0)
  | 20 => decide (w / 2 ^ 8 % 8 = 0)
  | 21 => decide (w / 2 ^ 8 % 8 = 0)
  | 22 => decide (w / 2 ^ 8 % 8 = 0)
  | 23 => decide (w / 2 ^ 8 % 8 = 0)
  | 24 => decide (w / 2 ^ 8 % 256 = 0)
  | 25 => decide (w / 2 ^ 8 % 256 = 0)
  | 26 => decide (w / 2 ^ 8 % 256 = 0)
  | 27 => decide (w / 2 ^ 8 % 256 = 0)
  | 28 => decide (w / 2 ^ 8 % 256 = 0)
  | 29 => decide (w / 2 ^ 8 % 256 = 0)
  | 30 => decide (w / 2 ^ 8 % 256 = 0)
  | 31 => decide (w / 2 ^ 8 % 256 = 0)
  | 32 => decide (w / 2 ^ 8 % 8 = 0)
  | 33 => decide (w / 2 ^ 8 % 8 = 0)
  | 34 => decide (w / 2 ^ 8 % 8 = 0)
  | 35 => decide (w / 2 ^ 8 % 8 = 0)
  | 36 => decide (w / 2 ^ 8 % 8 = 0)
  | _ => false

/-- Words of major opcode 0x08 that are instructions (R59). -/
def okOp08 (w : Nat) : Bool :=
  if w / 2 ^ 16 % 32 = 0 then true
  else false

/-- Words of major opcode 0x09 that are instructions (R59). -/
def okOp09 (w : Nat) : Bool :=
  if w / 2 ^ 6 % 1024 = 0 then true
  else if w / 2 ^ 6 % 1024 = 4 then true
  else if w / 2 ^ 6 % 1024 = 8 then true
  else if w / 2 ^ 6 % 1024 = 12 then true
  else if w / 2 ^ 5 % 2048 = 32 then true
  else if w / 2 ^ 5 % 2048 = 40 then true
  else if w / 2 ^ 5 % 2048 = 48 then true
  else false

/-- Words of major opcode 0x0A that are instructions (R59). -/
def okOp0A (w : Nat) : Bool :=
  match w % 256 with
  | 0 => decide (w / 2 ^ 8 % 8 = 0)
  | 1 => decide (w / 2 ^ 8 % 8 = 0)
  | 2 => decide (w / 2 ^ 8 % 8 = 0)
  | 3 => decide (w / 2 ^ 8 % 8 = 0)
  | 4 => decide (w / 2 ^ 8 % 8 = 0)
  | 5 => decide (w / 2 ^ 8 % 8 = 0)
  | 6 => decide (w / 2 ^ 8 % 8 = 0)
  | 7 => decide (w / 2 ^ 8 % 8 = 0)
  | 8 => decide (w / 2 ^ 8 % 8 = 0)
  | 9 => decide (w / 2 ^ 8 % 8 = 0)
  | 10 => decide (w / 2 ^ 8 % 8 = 0)
  | 11 => decide (w / 2 ^ 8 % 8 = 0)
  | 12 => decide (w / 2 ^ 8 % 8 = 0)
  | _ => false

/-- Words of major opcode 0x0B that are instructions (R59). -/
def okOp0B (w : Nat) : Bool :=
  match w % 128 with
  | 0 => decide (w / 2 ^ 8 % 8 = 0)
  | 1 => decide (w / 2 ^ 8 % 8 = 0)
  | 2 => decide (w / 2 ^ 8 % 8 = 0)
  | 3 => decide (w / 2 ^ 8 % 8 = 0)
  | 4 => decide (w / 2 ^ 8 % 256 = 0)
  | 5 => decide (w / 2 ^ 8 % 8 = 0)
  | 6 => decide (w / 2 ^ 8 % 8 = 0)
  | 7 => decide (w / 2 ^ 8 % 8 = 0)
  | 8 => decide (w / 2 ^ 8 % 8 = 0)
  | 9 => decide (w / 2 ^ 8 % 256 = 0)
  | 10 => decide (w / 2 ^ 8 % 256 = 0)
  | 11 => decide (w / 2 ^ 8 % 8 = 0)
  | _ => false

/-- Words of major opcode 0x0C that are instructions (R59). -/
def okOp0C (w : Nat) : Bool :=
  if w % 4 = 0 ∧ w / 2 ^ 3 % 256 = 0 then true
  else if w % 4 = 1 ∧ w / 2 ^ 3 % 256 = 0 then true
  else if w % 4 = 2 ∧ w / 2 ^ 3 % 256 = 0 then true
  else if w % 4 = 3 ∧ w / 2 ^ 3 % 8192 = 0 then true
  else if w % 65536 = 16 then true
  else if w % 65536 = 17 then true
  else if w % 65536 = 18 then true
  else if w % 65536 = 19 then true
  else if w % 65536 = 20 then true
  else if w % 65536 = 21 then true
  else if w % 65536 = 22 then true
  else if w % 65536 = 23 then true
  else if w % 65536 = 24 then true
  else if w % 65536 = 25 then true
  else if w % 65536 = 26 then true
  else if w % 65536 = 27 then true
  else if w % 65536 = 28 then true
  else if w % 65536 = 29 then true
  else false

/-- Words of major opcode 0x10 that are instructions (R59). -/
def okOp10 (w : Nat) : Bool :=
  (decide ((fieldOf w 2 3 : BitVec 3).toNat < 7))

/-- Words of major opcode 0x11 that are instructions (R59). -/
def okOp11 (w : Nat) : Bool :=
  if w / 2 ^ 4 % 2 = 0 then true
  else false

/-- Words of major opcode 0x12 that are instructions (R59). -/
def okOp12 (w : Nat) : Bool :=
  if w / 2 ^ 3 % 256 = 0 then (decide ((fieldOf w 0 3 : BitVec 3).toNat < 7))
  else if w / 2 ^ 2 % 512 = 2 then true
  else if w / 2 ^ 2 % 512 = 4 then ((scopeOk (fieldOf w 11 5 : BitVec 5)))
  else if w / 2 ^ 2 % 512 = 5 then ((scopeOk (fieldOf w 11 5 : BitVec 5)))
  else if w % 2048 = 48 ∧ w / 2 ^ 16 % 1024 = 0 then ((scopeOk (fieldOf w 11 5 : BitVec 5)))
  else if w % 2048 = 49 ∧ w / 2 ^ 16 % 1024 = 0 then ((scopeOk (fieldOf w 11 5 : BitVec 5)))
  else if w % 2048 = 50 ∧ w / 2 ^ 16 % 1024 = 0 then ((scopeOk (fieldOf w 11 5 : BitVec 5)))
  else if w % 2048 = 51 ∧ w / 2 ^ 16 % 1024 = 0 then ((scopeOk (fieldOf w 11 5 : BitVec 5)))
  else if w % 67108864 = 56 then true
  else if w % 2048 = 57 ∧ w / 2 ^ 16 % 1024 = 0 then ((scopeOk (fieldOf w 11 5 : BitVec 5)))
  else if w / 2 ^ 6 % 32 = 1 then ((scopeOk (fieldOf w 2 4 : BitVec 4)))
  else if w / 2 ^ 2 % 512 = 32 then true
  else false

/-- Words of major opcode 0x13 that are instructions (R59). -/
def okOp13 (w : Nat) : Bool :=
  if w / 2 ^ 1 % 1024 = 0 then true
  else if w / 2 ^ 1 % 1024 = 1 then true
  else if w / 2 ^ 1 % 1024 = 2 then true
  else if w / 2 ^ 1 % 1024 = 3 then true
  else if w / 2 ^ 1 % 1024 = 4 then true
  else if w / 2 ^ 1 % 1024 = 5 then true
  else if w / 2 ^ 1 % 1024 = 6 then true
  else if w / 2 ^ 1 % 1024 = 7 then true
  else if w / 2 ^ 1 % 1024 = 8 then true
  else if w / 2 ^ 1 % 1024 = 9 then true
  else if w / 2 ^ 1 % 1024 = 10 then true
  else if w / 2 ^ 1 % 1024 = 11 then true
  else if w / 2 ^ 1 % 1024 = 12 then true
  else if w / 2 ^ 1 % 1024 = 33 ∧ w / 2 ^ 21 % 32 = 0 then true
  else if w / 2 ^ 1 % 1024 = 34 ∧ w / 2 ^ 21 % 32 = 0 then true
  else if w / 2 ^ 1 % 1024 = 35 ∧ w / 2 ^ 21 % 32 = 0 then true
  else if w / 2 ^ 1 % 1024 = 36 ∧ w / 2 ^ 21 % 32 = 0 then true
  else if w / 2 ^ 1 % 1024 = 37 ∧ w / 2 ^ 21 % 32 = 0 then true
  else if w / 2 ^ 1 % 1024 = 38 ∧ w / 2 ^ 21 % 32 = 0 then true
  else if w / 2 ^ 1 % 1024 = 39 ∧ w / 2 ^ 21 % 32 = 0 then true
  else if w / 2 ^ 1 % 1024 = 40 ∧ w / 2 ^ 21 % 32 = 0 then true
  else if w / 2 ^ 1 % 1024 = 42 ∧ w / 2 ^ 21 % 32 = 0 then true
  else if w / 2 ^ 1 % 1024 = 43 ∧ w / 2 ^ 21 % 32 = 0 then true
  else if w / 2 ^ 1 % 1024 = 44 ∧ w / 2 ^ 21 % 32 = 0 then true
  else if w % 4 = 0 ∧ w / 2 ^ 6 % 32 = 3 then ((scopeOk (fieldOf w 2 4 : BitVec 4)))
  else if w % 4 = 1 ∧ w / 2 ^ 6 % 32 = 3 then ((scopeOk (fieldOf w 2 4 : BitVec 4)))
  else if w % 4 = 2 ∧ w / 2 ^ 6 % 32 = 3 then ((scopeOk (fieldOf w 2 4 : BitVec 4)))
  else if w % 4 = 3 ∧ w / 2 ^ 6 % 32 = 3 then ((scopeOk (fieldOf w 2 4 : BitVec 4)))
  else false

/-- Words of major opcode 0x16 that are instructions (R59). -/
def okOp16 (w : Nat) : Bool :=
  match w % 32 with
  | 0 => true
  | 1 => true
  | 2 => true
  | 3 => true
  | 4 => decide (w / 2 ^ 11 % 32 = 0)
  | 5 => decide (w / 2 ^ 11 % 32 = 0)
  | 6 => decide (w / 2 ^ 11 % 32 = 0)
  | 7 => true
  | 16 | 17 | 18 | 19 | 20 | 21 | 22 | 23 | 24 | 25 | 26 | 27 | 28 | 29 | 30 | 31 => ((scopeOk (fieldOf w 0 4 : BitVec 4)))
  | _ => false

/-- Words of major opcode 0x17 that are instructions (R59). -/
def okOp17 (w : Nat) : Bool :=
  match w % 32 with
  | 0 => true
  | 1 => (((fieldOf w 5 3 : BitVec 3).toNat != 4))
  | 2 => ((intType (fieldOf w 5 3 : BitVec 3)))
  | 3 => ((intType (fieldOf w 5 3 : BitVec 3)))
  | 4 => ((intType (fieldOf w 5 3 : BitVec 3)))
  | 5 => (((fieldOf w 5 3 : BitVec 3).toNat != 4))
  | 6 => (((fieldOf w 5 3 : BitVec 3).toNat != 4))
  | 7 => ((intType (fieldOf w 5 3 : BitVec 3)))
  | 8 => ((intType (fieldOf w 5 3 : BitVec 3)))
  | 9 => (((fieldOf w 5 3 : BitVec 3).toNat != 4))
  | 10 => ((intType (fieldOf w 5 3 : BitVec 3)))
  | 11 => ((intType (fieldOf w 5 3 : BitVec 3)))
  | 12 => ((intType (fieldOf w 5 3 : BitVec 3)))
  | 13 => (((fieldOf w 5 3 : BitVec 3).toNat != 4))
  | 14 => (((fieldOf w 5 3 : BitVec 3).toNat != 4))
  | 15 => ((intType (fieldOf w 5 3 : BitVec 3)))
  | 16 => ((intType (fieldOf w 5 3 : BitVec 3)))
  | _ => ((16 < (fieldOf w 0 5 : BitVec 5).toNat && (fieldOf w 0 5 : BitVec 5).toNat < 28) && ((fieldOf w 5 3 : BitVec 3).toNat == 2 || (fieldOf w 5 3 : BitVec 3).toNat == 5 || (fieldOf w 5 3 : BitVec 3).toNat == 7))

/-- Words of major opcode 0x20 that are instructions (R59). -/
def okOp20 (w : Nat) : Bool :=
  match w % 32 with
  | 0 => ((intType (fieldOf w 5 3 : BitVec 3)))
  | 1 => ((intType (fieldOf w 5 3 : BitVec 3)))
  | 2 => ((intType (fieldOf w 5 3 : BitVec 3)))
  | 3 => ((intType (fieldOf w 5 3 : BitVec 3)))
  | 4 => ((intType (fieldOf w 5 3 : BitVec 3)))
  | 5 => ((intType (fieldOf w 5 3 : BitVec 3)))
  | 6 => ((intType (fieldOf w 5 3 : BitVec 3)))
  | 7 => ((intType (fieldOf w 5 3 : BitVec 3)))
  | 8 => ((intType (fieldOf w 5 3 : BitVec 3)))
  | 9 => ((intType (fieldOf w 5 3 : BitVec 3)))
  | 10 => ((intType (fieldOf w 5 3 : BitVec 3)))
  | 11 => ((intType (fieldOf w 5 3 : BitVec 3)))
  | 12 => ((intType (fieldOf w 5 3 : BitVec 3)))
  | 13 => ((intType (fieldOf w 5 3 : BitVec 3)))
  | 14 => ((intType (fieldOf w 5 3 : BitVec 3)))
  | 15 => ((intType (fieldOf w 5 3 : BitVec 3)))
  | 16 => ((intType (fieldOf w 5 3 : BitVec 3)))
  | 17 => ((intType (fieldOf w 5 3 : BitVec 3)))
  | 18 => ((intType (fieldOf w 5 3 : BitVec 3)))
  | 19 => decide (w / 2 ^ 11 % 32 = 0) && ((intType (fieldOf w 5 3 : BitVec 3)))
  | 20 => decide (w / 2 ^ 11 % 32 = 0) && ((intType (fieldOf w 5 3 : BitVec 3)))
  | 21 => decide (w / 2 ^ 11 % 32 = 0) && ((intType (fieldOf w 5 3 : BitVec 3)))
  | 22 => decide (w / 2 ^ 11 % 32 = 0) && ((intType (fieldOf w 5 3 : BitVec 3)))
  | 24 => ((intType (fieldOf w 5 3 : BitVec 3)) && (maskReg (fieldOf w 21 5 : BitVec 5)))
  | 25 => ((intType (fieldOf w 5 3 : BitVec 3)) && (maskReg (fieldOf w 21 5 : BitVec 5)))
  | 26 => ((intType (fieldOf w 5 3 : BitVec 3)) && (maskReg (fieldOf w 21 5 : BitVec 5)))
  | 27 => ((intType (fieldOf w 5 3 : BitVec 3)) && (maskReg (fieldOf w 21 5 : BitVec 5)))
  | 28 => ((intType (fieldOf w 5 3 : BitVec 3)) && (maskReg (fieldOf w 21 5 : BitVec 5)))
  | 29 => ((intType (fieldOf w 5 3 : BitVec 3)) && (maskReg (fieldOf w 21 5 : BitVec 5)))
  | 30 => true
  | _ => false

/-- Words of major opcode 0x21 that are instructions (R59). -/
def okOp21 (w : Nat) : Bool :=
  match w % 32 with
  | 0 => ((floatType (fieldOf w 5 3 : BitVec 3)))
  | 1 => ((floatType (fieldOf w 5 3 : BitVec 3)))
  | 2 => ((floatType (fieldOf w 5 3 : BitVec 3)))
  | 3 => ((floatType (fieldOf w 5 3 : BitVec 3)))
  | 4 => decide (w / 2 ^ 11 % 32 = 0) && ((floatType (fieldOf w 5 3 : BitVec 3)))
  | 5 => ((floatType (fieldOf w 5 3 : BitVec 3)))
  | 6 => ((floatType (fieldOf w 5 3 : BitVec 3)))
  | 7 => ((floatType (fieldOf w 5 3 : BitVec 3)))
  | 8 => ((floatType (fieldOf w 5 3 : BitVec 3)))
  | 9 => ((floatType (fieldOf w 5 3 : BitVec 3)))
  | 10 => decide (w / 2 ^ 11 % 32 = 0) && ((floatType (fieldOf w 5 3 : BitVec 3)))
  | 11 => decide (w / 2 ^ 11 % 32 = 0) && ((floatType (fieldOf w 5 3 : BitVec 3)))
  | 12 => ((floatType (fieldOf w 5 3 : BitVec 3)))
  | 13 => decide (w / 2 ^ 11 % 32 = 0) && ((floatType (fieldOf w 5 3 : BitVec 3)))
  | 14 => decide (w / 2 ^ 11 % 32 = 0) && ((floatType (fieldOf w 5 3 : BitVec 3)))
  | 15 => decide (w / 2 ^ 11 % 32 = 0) && ((floatType (fieldOf w 5 3 : BitVec 3)))
  | 16 => decide (w / 2 ^ 11 % 32 = 0) && ((floatType (fieldOf w 5 3 : BitVec 3)))
  | 17 => ((floatType (fieldOf w 5 3 : BitVec 3)) && (maskReg (fieldOf w 21 5 : BitVec 5)))
  | 18 => ((floatType (fieldOf w 5 3 : BitVec 3)) && (maskReg (fieldOf w 21 5 : BitVec 5)))
  | 19 => ((floatType (fieldOf w 5 3 : BitVec 3)) && (maskReg (fieldOf w 21 5 : BitVec 5)))
  | 20 => ((floatType (fieldOf w 5 3 : BitVec 3)) && (maskReg (fieldOf w 21 5 : BitVec 5)))
  | 21 => decide (w / 2 ^ 11 % 32 = 0) && ((floatType (fieldOf w 5 3 : BitVec 3)))
  | _ => false

/-- Words of major opcode 0x22 that are instructions (R59). -/
def okOp22 (w : Nat) : Bool :=
  match w / 2 ^ 3 % 4 with
  | 0 => decide (w / 2 ^ 11 % 32 = 0) && (((fieldOf w 0 3 : BitVec 3) != (fieldOf w 5 3 : BitVec 3)))
  | 1 => decide (w / 2 ^ 11 % 32 = 0) && ((stochasticPair (fieldOf w 5 3 : BitVec 3) (fieldOf w 0 3 : BitVec 3)))
  | 2 => if w / 2 ^ 2 % 2 = 0 ∧ w / 2 ^ 11 % 32 = 0 then (decide (3 < (fieldOf w 5 3 : BitVec 3).toNat)) else if w / 2 ^ 2 % 2 = 1 ∧ w / 2 ^ 11 % 32 = 0 then (decide (3 < (fieldOf w 5 3 : BitVec 3).toNat)) else false
  | 3 => ((mixedPair (fieldOf w 5 3 : BitVec 3) (fieldOf w 0 3 : BitVec 3)))
  | _ => false

/-- Words of major opcode 0x23 that are instructions (R59). -/
def okOp23 (w : Nat) : Bool :=
  match w % 32 with
  | 0 => true
  | 1 => true
  | 2 => true
  | 3 => decide (w / 2 ^ 11 % 32 = 0) && (((fieldOf w 5 3 : BitVec 3).toNat != 4))
  | 4 => decide (w / 2 ^ 11 % 32 = 0) && (((fieldOf w 5 3 : BitVec 3).toNat != 4))
  | 5 => decide (w / 2 ^ 11 % 32 = 0) && (((fieldOf w 5 3 : BitVec 3).toNat != 4))
  | 6 => decide (w / 2 ^ 11 % 32 = 0) && ((intType (fieldOf w 5 3 : BitVec 3)))
  | 7 => decide (w / 2 ^ 11 % 32 = 0) && ((intType (fieldOf w 5 3 : BitVec 3)))
  | 8 => decide (w / 2 ^ 11 % 32 = 0) && ((intType (fieldOf w 5 3 : BitVec 3)))
  | 9 => decide (w / 2 ^ 11 % 32 = 0) && ((intType (fieldOf w 5 3 : BitVec 3)))
  | 10 => decide (w / 2 ^ 11 % 32 = 0) && (((fieldOf w 5 3 : BitVec 3).toNat != 4))
  | 11 => (((fieldOf w 5 3 : BitVec 3).toNat != 4) && (maskReg (fieldOf w 11 5 : BitVec 5)))
  | 12 => decide (w / 2 ^ 11 % 1024 = 0) && ((intType (fieldOf w 5 3 : BitVec 3)))
  | 13 => decide (w / 2 ^ 8 % 8 = 0)
  | 14 => decide (w / 2 ^ 8 % 8 = 0)
  | 15 => decide (w / 2 ^ 11 % 32 = 0)
  | 16 => decide (w / 2 ^ 11 % 32 = 0)
  | 17 => ((intType (fieldOf w 5 3 : BitVec 3)))
  | _ => false

/-- Words of major opcode 0x24 that are instructions (R59). -/
def okOp24 (w : Nat) : Bool :=
  match w % 32 with
  | 0 => decide (w / 2 ^ 5 % 64 = 0) && ((maskReg (fieldOf w 21 5 : BitVec 5)) && (maskReg (fieldOf w 16 5 : BitVec 5)) && (maskReg (fieldOf w 11 5 : BitVec 5)))
  | 1 => decide (w / 2 ^ 5 % 64 = 0) && ((maskReg (fieldOf w 21 5 : BitVec 5)) && (maskReg (fieldOf w 16 5 : BitVec 5)) && (maskReg (fieldOf w 11 5 : BitVec 5)))
  | 2 => decide (w / 2 ^ 5 % 64 = 0) && ((maskReg (fieldOf w 21 5 : BitVec 5)) && (maskReg (fieldOf w 16 5 : BitVec 5)) && (maskReg (fieldOf w 11 5 : BitVec 5)))
  | 3 => decide (w / 2 ^ 5 % 64 = 0) && ((maskReg (fieldOf w 21 5 : BitVec 5)) && (maskReg (fieldOf w 16 5 : BitVec 5)) && (maskReg (fieldOf w 11 5 : BitVec 5)))
  | 4 => decide (w / 2 ^ 5 % 2048 = 0) && ((maskReg (fieldOf w 21 5 : BitVec 5)) && (maskReg (fieldOf w 16 5 : BitVec 5)))
  | 5 => decide (w / 2 ^ 5 % 65536 = 0) && ((maskReg (fieldOf w 21 5 : BitVec 5)))
  | 6 => decide (w / 2 ^ 5 % 65536 = 0) && ((maskReg (fieldOf w 21 5 : BitVec 5)))
  | 7 => decide (w / 2 ^ 5 % 2048 = 0) && ((maskReg (fieldOf w 16 5 : BitVec 5)))
  | 8 => decide (w / 2 ^ 5 % 2048 = 0) && ((maskReg (fieldOf w 16 5 : BitVec 5)))
  | 9 => decide (w / 2 ^ 5 % 2048 = 0) && ((maskReg (fieldOf w 16 5 : BitVec 5)))
  | _ => false

/-- Words of major opcode 0x25 that are instructions (R59). -/
def okOp25 (w : Nat) : Bool :=
  match w % 16 with
  | 0 => ((intType (fieldOf w 5 3 : BitVec 3)))
  | 1 => ((intType (fieldOf w 5 3 : BitVec 3)))
  | 2 => ((intType (fieldOf w 5 3 : BitVec 3)))
  | 3 => ((intType (fieldOf w 5 3 : BitVec 3)))
  | 4 => ((intType (fieldOf w 5 3 : BitVec 3)))
  | 5 => ((intType (fieldOf w 5 3 : BitVec 3)))
  | 6 => ((intType (fieldOf w 5 3 : BitVec 3)))
  | 7 => ((intType (fieldOf w 5 3 : BitVec 3)))
  | 8 => ((intType (fieldOf w 5 3 : BitVec 3)))
  | 9 => ((intType (fieldOf w 5 3 : BitVec 3)))
  | 10 => ((intType (fieldOf w 5 3 : BitVec 3)))
  | 11 => ((intType (fieldOf w 5 3 : BitVec 3)))
  | 12 => decide (w / 2 ^ 4 % 2 = 0) && ((floatType (fieldOf w 5 3 : BitVec 3)))
  | 13 => decide (w / 2 ^ 4 % 2 = 0) && ((floatType (fieldOf w 5 3 : BitVec 3)))
  | 14 => decide (w / 2 ^ 4 % 2 = 0) && ((floatType (fieldOf w 5 3 : BitVec 3)))
  | 15 => ((intType (fieldOf w 5 3 : BitVec 3)) && (maskReg (fieldOf w 21 5 : BitVec 5)))
  | _ => false

/-- Words of major opcode 0x28 that are instructions (R59). -/
def okOp28 (w : Nat) : Bool :=
  match w / 2 ^ 21 % 4 with
  | 0 => (decide ((fieldOf w 0 5 : BitVec 5).toNat < 7))
  | 1 => (decide ((fieldOf w 0 5 : BitVec 5).toNat < 7))
  | _ => false

/-- Words of major opcode 0x29 that are instructions (R59). -/
def okOp29 (w : Nat) : Bool :=
  match w / 2 ^ 21 % 4 with
  | 0 => ((1 < (fieldOf w 0 5 : BitVec 5).toNat && (fieldOf w 0 5 : BitVec 5).toNat < 7) && (even (fieldOf w 16 5 : BitVec 5) && even (fieldOf w 11 5 : BitVec 5)))
  | 1 => ((1 < (fieldOf w 0 5 : BitVec 5).toNat && (fieldOf w 0 5 : BitVec 5).toNat < 7) && (even (fieldOf w 16 5 : BitVec 5) && even (fieldOf w 11 5 : BitVec 5)))
  | _ => false

/-- Words of major opcode 0x2A that are instructions (R59). -/
def okOp2A (w : Nat) : Bool :=
  match w / 2 ^ 21 % 4 with
  | 0 => (decide ((fieldOf w 0 5 : BitVec 5).toNat < 6) && (even (fieldOf w 16 5 : BitVec 5)))
  | 1 => ((7 < (fieldOf w 0 5 : BitVec 5).toNat && (fieldOf w 0 5 : BitVec 5).toNat < 12))
  | 2 => ((7 < (fieldOf w 0 5 : BitVec 5).toNat && (fieldOf w 0 5 : BitVec 5).toNat < 12))
  | _ => false

/-- Words of major opcode 0x2B that are instructions (R59). -/
def okOp2B (w : Nat) : Bool :=
  match w % 32 with
  | 0 => decide (w / 2 ^ 5 % 262144 = 0)
  | 1 => decide (w / 2 ^ 5 % 64 = 0 ∧ w / 2 ^ 21 % 4 = 0)
  | 2 => decide (w / 2 ^ 5 % 64 = 0 ∧ w / 2 ^ 21 % 4 = 0)
  | 3 => decide (w / 2 ^ 5 % 2 = 0) && (decide ((fieldOf w 21 2 : BitVec 2).toNat < 3))
  | 4 => decide (w / 2 ^ 5 % 2048 = 0 ∧ w / 2 ^ 21 % 4 = 0)
  | 5 => decide (w / 2 ^ 5 % 2048 = 0 ∧ w / 2 ^ 21 % 4 = 0)
  | 6 => decide (w / 2 ^ 5 % 64 = 0 ∧ w / 2 ^ 14 % 512 = 0)
  | 7 => decide (w / 2 ^ 5 % 64 = 0 ∧ w / 2 ^ 14 % 128 = 0) && (decide ((fieldOf w 21 2 : BitVec 2).toNat < 3))
  | 8 => decide (w / 2 ^ 5 % 2048 = 0 ∧ w / 2 ^ 21 % 32 = 0)
  | 9 => decide (w / 2 ^ 5 % 2048 = 0 ∧ w / 2 ^ 21 % 32 = 0)
  | _ => false

/-- Words of major opcode 0x30 that are instructions (R59). -/
def okOp30 (w : Nat) : Bool :=
  match w / 2 ^ 4 % 8 with
  | 0 => ((even (fieldOf w 11 5 : BitVec 5)) && decide ((fieldOf w 0 2 : BitVec 2).toNat < 2))
  | 1 => ((even (fieldOf w 11 5 : BitVec 5)) && decide ((fieldOf w 0 2 : BitVec 2).toNat < 2))
  | 2 => decide (w % 4 = 0) && ((even (fieldOf w 11 5 : BitVec 5)))
  | 3 => decide (w % 4 = 0) && ((even (fieldOf w 11 5 : BitVec 5)))
  | 4 => ((even (fieldOf w 11 5 : BitVec 5)) && decide ((fieldOf w 0 2 : BitVec 2).toNat < 2))
  | 5 => ((even (fieldOf w 11 5 : BitVec 5)) && decide ((fieldOf w 0 2 : BitVec 2).toNat < 2))
  | 6 => decide (w % 4 = 0) && ((even (fieldOf w 11 5 : BitVec 5)))
  | _ => false

/-- Words of major opcode 0x31 that are instructions (R59). -/
def okOp31 (w : Nat) : Bool :=
  match w / 2 ^ 4 % 8 with
  | 0 => decide (w % 4 = 0 ∧ w / 2 ^ 11 % 32 = 0 ∧ w / 2 ^ 21 % 32 = 0)
  | 1 => decide (w % 4 = 0 ∧ w / 2 ^ 11 % 1024 = 0)
  | 2 => decide (w % 4 = 0 ∧ w / 2 ^ 11 % 32 = 0 ∧ w / 2 ^ 21 % 32 = 0)
  | 3 => decide (w / 2 ^ 11 % 1024 = 0) && (decide ((fieldOf w 0 2 : BitVec 2).toNat < 3))
  | 4 => decide (w % 4 = 0 ∧ w / 2 ^ 11 % 32768 = 0)
  | 5 => decide (w % 4 = 0)
  | 6 => if w % 4 = 0 ∧ w / 2 ^ 11 % 32768 = 0 then true else if w % 4 = 1 ∧ w / 2 ^ 11 % 32768 = 0 then true else false
  | 7 => decide (w % 4 = 0 ∧ w / 2 ^ 7 % 524288 = 0)
  | _ => false

/-- Words of major opcode 0x32 that are instructions (R59). -/
def okOp32 (w : Nat) : Bool :=
  match w % 256 with
  | 0 => decide (w / 2 ^ 8 % 256 = 0 ∧ w / 2 ^ 21 % 32 = 0)
  | 1 => decide (w / 2 ^ 8 % 256 = 0 ∧ w / 2 ^ 21 % 32 = 0)
  | 2 => decide (w / 2 ^ 8 % 256 = 0 ∧ w / 2 ^ 21 % 32 = 0) && (decide ((fieldOf w 16 5 : BitVec 5).toNat < 16))
  | 3 => decide (w / 2 ^ 8 % 256 = 0 ∧ w / 2 ^ 21 % 32 = 0) && (decide ((fieldOf w 16 5 : BitVec 5).toNat < 16))
  | 4 => decide (w / 2 ^ 8 % 262144 = 0)
  | 5 => decide (w / 2 ^ 8 % 262144 = 0)
  | 8 => decide (w / 2 ^ 8 % 8 = 0)
  | 9 => decide (w / 2 ^ 8 % 256 = 0)
  | 16 => decide (w / 2 ^ 8 % 8 = 0 ∧ w / 2 ^ 21 % 32 = 0) && ((scopeOk (fieldOf w 11 5 : BitVec 5)))
  | 17 => decide (w / 2 ^ 8 % 8 = 0) && ((scopeOk (fieldOf w 11 5 : BitVec 5)))
  | 18 => decide (w / 2 ^ 8 % 256 = 0 ∧ w / 2 ^ 21 % 32 = 0)
  | 19 => decide (w / 2 ^ 8 % 262144 = 0)
  | 20 => decide (w / 2 ^ 8 % 262144 = 0)
  | _ => false

/-- Words of major opcode 0x38 that are instructions (R59). -/
def okOp38 (w : Nat) : Bool :=
  match w % 16 with
  | 0 => decide (w / 2 ^ 16 % 32 = 0) && ((csrAssigned (fieldOf w 4 12 : BitVec 12).toNat))
  | 1 => decide (w / 2 ^ 21 % 32 = 0) && ((csrAssigned (fieldOf w 4 12 : BitVec 12).toNat))
  | 2 => decide (w / 2 ^ 21 % 32 = 0) && ((csrAssigned (fieldOf w 4 12 : BitVec 12).toNat))
  | 3 => decide (w / 2 ^ 21 % 32 = 0) && ((csrAssigned (fieldOf w 4 12 : BitVec 12).toNat))
  | 4 => decide (w / 2 ^ 7 % 512 = 0)
  | 5 => decide (w / 2 ^ 4 % 4096 = 0)
  | 6 => decide (w / 2 ^ 16 % 1024 = 0)
  | 7 => decide (w / 2 ^ 4 % 4194304 = 0)
  | 8 => decide (w / 2 ^ 4 % 4194304 = 0)
  | 9 => decide (w / 2 ^ 4 % 4194304 = 0)
  | 10 => decide (w / 2 ^ 4 % 4096 = 0 ∧ w / 2 ^ 21 % 32 = 0)
  | 11 => decide (w / 2 ^ 4 % 131072 = 0)
  | 12 => decide (w / 2 ^ 4 % 4096 = 0 ∧ w / 2 ^ 21 % 32 = 0)
  | 13 => decide (w / 2 ^ 4 % 4096 = 0 ∧ w / 2 ^ 21 % 32 = 0)
  | 14 => decide (w / 2 ^ 4 % 4194304 = 0)
  | 15 => decide (w / 2 ^ 4 % 4194304 = 0)
  | _ => false

/-- Words of major opcode 0x3F that are instructions (R59). -/
def okOp3F (w v : Nat) : Bool :=
  match w / 256 % 256 with
  | 0 => decide (w / 2 ^ 16 % 32 = 0 ∧ w % 256 = 0)
  | 1 => decide (w / 2 ^ 16 % 32 = 0 ∧ w % 256 = 0)
  | 2 => decide (w / 2 ^ 16 % 32 = 0 ∧ w % 256 = 0) && (((fieldOf v 0 32 : BitVec 32).toNat % 4 == 0))
  | _ => false

/-- A word that is an instruction, with the word after it for a long form (R71 step 2 without the checks that depend
on VL). -/
def okWord (w v : Nat) : Bool :=
  match w / 2 ^ 26 with
  | 0x01 => okOp01 w
  | 0x02 => true
  | 0x03 => true
  | 0x04 => true
  | 0x05 => true
  | 0x06 => true
  | 0x07 => true
  | 0x08 => okOp08 w
  | 0x09 => okOp09 w
  | 0x0A => okOp0A w
  | 0x0B => okOp0B w
  | 0x0C => okOp0C w
  | 0x10 => okOp10 w
  | 0x11 => okOp11 w
  | 0x12 => okOp12 w
  | 0x13 => okOp13 w
  | 0x14 => true
  | 0x15 => true
  | 0x16 => okOp16 w
  | 0x17 => okOp17 w
  | 0x18 => true
  | 0x19 => true
  | 0x1A => true
  | 0x1B => true
  | 0x1C => true
  | 0x1D => true
  | 0x1E => true
  | 0x1F => true
  | 0x20 => okOp20 w
  | 0x21 => okOp21 w
  | 0x22 => okOp22 w
  | 0x23 => okOp23 w
  | 0x24 => okOp24 w
  | 0x25 => okOp25 w
  | 0x28 => okOp28 w
  | 0x29 => okOp29 w
  | 0x2A => okOp2A w
  | 0x2B => okOp2B w
  | 0x30 => okOp30 w
  | 0x31 => okOp31 w
  | 0x32 => okOp32 w
  | 0x38 => okOp38 w
  | 0x3F => okOp3F w v
  | _ => false

end Sys2Proof.Machine
end

