-- ==== Sys2Proof/Machine/Boot.lean ====
section
/-! DEFINITION. Markhor: resets and boot (R6, R28, R408, R409, R411), tenants (R367, R389), the image checker (R84, R85),
SPDM and the black box (R406, R410); and the traps of words that are no instruction (R71, R355). -/

namespace Sys2Proof.Machine

/-! ### Boot (R408, R409, R411) -/

/-- The ERR code of what is wrong with an image, 0 for nothing: the signatures, then the version (R408, R411). -/
def imageFault (i : BootImage) : Nat :=
  if !i.rsaGood then 1 else if !i.slhGood then 2 else if i.version < i.minimum then 3 else 0

/-- BOOTSTAT with PHASE, ERR and SVN. -/
def bootstat (old : Dword) (phase err svn : Nat) : Dword := setBits (setBits (setBits old 0 3 phase) 3 5 err) 16 16 svn

/-- DIESTAT of a die and its black box after the self-test (R13, R399, R400): one failing cluster is replaced by the
spare; of two or more none is, and the die is degraded (log 16). -/
def Pkg.selfTest (p : Pkg) (failed : List (Nat × Nat)) (die : Nat) : Pkg :=
  let bad := (List.range 48).filter fun c => failed.contains (die, c)
  match bad with
  | [] => p
  | [c] => (p.setCtl (offDiestat die) (setBits 0 2 1 1)).logEvent die 0x04 0xFFFF c 0
  | _ =>
    let d := bad.foldl (fun d c => setBits d (16 + c) 1 1) (setBits 0 0 2 1)
    bad.foldl (fun p c => p.logEvent die 0x05 0xFFFF c 0) (p.setCtl (offDiestat die) d)

/-- The descriptor of tenant 0 (R367): valid, no stage, every region, the host. -/
def tenantZero : List Dword := [1, BitVec.allOnes 64, 1, 0]

/-- PRT entry 0 as Markhor loads it before the first hart runs (R178): the whole of the package's DRAM. -/
def Pkg.loadPrt (p : Pkg) : Pkg :=
  ((p.setCtl (offPrt 0 0) 1).setCtl (offPrt 0 1) (BitVec.ofNat 64 (768 * 2 ^ 30))).setCtl (offPrt 0 2) 0xF

/-- Tenant 0 set up at reset (R367): its table at OFF 0 of this package (log 17), its descriptor in it. -/
def State.loadTenant (s : State) : State :=
  let at_ := s.pkg.number * 2 ^ 42
  let s := { s with pkg := s.pkg.setCtl offTentbase (BitVec.ofNat 64 at_) }
  (s.putDwords at_ tenantZero).getD s

/-- What a verified image does: self-test and spares, HBM training, PRT entry 0, time and fabric, tenant 0; then READY, and a BOOT event (R408). -/
def State.runImage (s : State) (i : BootImage) : State :=
  let up := s.pkg.bringUp
  let stat (p : Pkg) (phase err : Nat) : Pkg :=
    p.setCtl offBootstat (bootstat (p.ctl offBootstat) phase err (i.version % 2 ^ 16))
  if !i.selfTestGood then { s with pkg := stat s.pkg 2 4 }
  else
    let p := (List.range 4).foldl (fun p d => p.selfTest up.failed d) s.pkg
    if !i.trainingGood then { s with pkg := stat p 2 5 }
    else
      let p := { p.loadPrt with number := up.package, domain := setInsert up.domain up.package, gtShift := 990 * up.gtime - p.time }
      let p := p.setCtl offTimectl (setBits (p.ctl offTimectl) 0 1 (bitOf up.master))
      let p := p.toTimeState (if up.master then 2 else 1)
      let p := stat p 3 0
      let p := p.logEvent 0 0x15 0xFFFF (p.ctl offBootstat).toNat i.version
      let s := { s with pkg := { p with image := some i, lastSync := some p.time } }
      s.loadTenant

/-- An image verified and run, or RECOVERY with the reason (R408 steps 2 and 3, R409). -/
def State.tryImage (s : State) (i : BootImage) : State :=
  match imageFault i with
  | 0 => s.runImage i
  | err => { s with pkg := s.pkg.setCtl offBootstat (bootstat (s.pkg.ctl offBootstat) 4 err 0) }

/-- COLD_RESET (R408): everything at its reset value but the black box, which has standby power (R406); then the boot.
The entropy source goes on, and so does what the world has been told. -/
def coldReset (i : BootImage) (up : BringUp) (s : State) : State :=
  let n := s.pkg.draws
  let kept (d : Nat) : Die := { Die.reset with bbox := (s.pkg.die d).bbox, seq := (s.pkg.die d).seq }
  let p : Pkg := { Pkg.reset with
    dies := Vector.ofFn fun d : Fin 4 => kept d.val
    outputs := s.pkg.outputs
    draws := n + 4
    bringUp := up }
  ({ State.reset with h := Hart.reset n, pkg := p, agenda := s.agenda } : State).tryImage i

/-- RLEN_WRITE (R409): in RECOVERY, by the host, and Markhor verifies the image in the window. -/
def rlenWrite (a : Agent) (v : Dword) (i : BootImage) (s : State) : State :=
  let old := s.pkg.ctl offBootstat
  if a != .host || bits old 0 3 != 4 then s
  else (s.setReg offBootstat (setBits old 32 24 (bits v 32 24))).tryImage i

/-- A core as a warm reset leaves it (R28). -/
def Core.warm (c : Core) : Core := { Core.reset c.id with turnAt := c.turnAt }

/-- A die as a warm reset leaves it: at its cold-reset values but for its cycle counts with the clock that they follow
(R257) and a relock in progress, its black box (R406), a debug halt, and what stays of an evacuation (R401, log 18). -/
def Die.warm (d : Die) : Die :=
  { Die.reset with
    cycle := d.cycle, ncyc := d.ncyc, edgeAt := d.edgeAt, nextEdge := d.nextEdge, relockEnd := d.relockEnd
    halted := d.halted, haltSince := d.haltSince, halts := d.halts, haltOnBreak := d.haltOnBreak
    bbox := d.bbox, seq := d.seq, offline := d.offline, calibrations := d.calibrations
    leaving := d.leaving, spill := d.spill, handed := d.handed }

/-- Has a die left service or begun to, so that memory lies where the region table of now says (R401 to R405)? -/
def Pkg.relaid (p : Pkg) : Bool :=
  !p.evac.isEmpty || (List.range 4).any fun d => decide (2 ≤ bits (p.ctl (offDiestat d)) 0 2)

/-- What a register of the control block holds after a warm reset, where the package's condition outlasts it: the phase of
the boot, the state of the timebase, a die's STATE with its clusters and its spill, and the layout of the memory of a die
that leaves or has left; every other field has its cold-reset value (R6, log 18). -/
def Pkg.warmValue (p : Pkg) (off : Nat) (v : Dword) : Dword :=
  if off = offBootstat then setBits v 32 24 0
  else if off = offTimestat then BitVec.ofNat 64 (bits v 0 2)
  else if offDiestat 0 ≤ off ∧ off < offDiestat 4 then setBits v 4 1 0
  else if p.relaid && (decide (offPrt 0 0 ≤ off ∧ off < offPrt 64 0) || off == offSpillbase) then v
  else ctlReset off

/-- The package as a warm reset leaves it (R6): every field of every register at its cold-reset value, with what Markhor
loads before a hart runs; no gang, no queue's record, no copy, no scratchpad's owner. Time, memory, what is on its way or
held at a home, and what the fabric and the host wait for stay (R239, log 18). -/
def Pkg.warm (p : Pkg) : Pkg :=
  let q : Pkg := { p with
    regs := (p.regs.map fun r => (r.1, p.warmValue r.1 r.2)).filter fun r => r.2 != ctlReset r.1
    dies := p.dies.map Die.warm
    clusters := []
    queues := []
    gangs := []
    ends := []
    resps := p.resps.filter fun r => r.owner == 0
    copies := []
    streams := []
    pending := []
    pendMem := []
    races := []
    released := []
    present := []
    arraySince := (List.range 1728).map fun a => (a, p.time)
    emptying := []
    configs := []
    draws := p.draws + 4
    outputs := p.outputs ++ p.configs.map fun _ => .tenants false }
  let q := if p.relaid then q else q.loadPrt
  q.setCtl offTimectl (setBits (q.ctl offTimectl) 0 1 (bitOf p.bringUp.master))

/-- WARM_RESET (R6, R28): the cores, the harts and the package's registers take their cold-reset values (log 18). -/
def warmReset : M Unit := do
  modify fun s =>
    let t : State := { s with
      core := s.core.warm
      h := Hart.reset s.pkg.draws
      rest := s.rest.map fun e => (e.1.warm, Hart.reset s.pkg.draws)
      pkg := s.pkg.warm }
    t.loadTenant.tell s
  modify fun s => (List.range 4).foldl State.settleEvac s

/-- COLD_RESET: the reset of the package and its boot (R408). -/
def execEvColdReset (image : BootImage) (failed : List (Nat × Nat)) (package : Nat) (domain : List Nat) (gtime : BitVec 64) (master : Bool) (s : State) : Out :=
  .next (coldReset image ⟨failed, package, domain, gtime.toNat, master⟩ s)

/-- RLEN_WRITE: a recovery image (R409). -/
def execEvRlenWrite (by_ : Agent) (value : BitVec 64) (image : BootImage) (s : State) : Out :=
  .next (rlenWrite by_ value image s)

/-- WARM_RESET: the reset of the cores (R6, R28). -/
def execEvWarmReset (s : State) : Out := finishAt warmReset s

/-! ### Tenants (R367, R389) -/

/-- Are the clusters of a TID, numbers in x + 8 y, a rectangle? -/
def rectangle (cs : List Nat) : Bool :=
  let xs := cs.map (· % 8)
  let ys := cs.map (· / 8)
  let span (l : List Nat) : Nat := l.foldl max 0 + 1 - l.foldl min 47
  cs.length == span xs * span ys

/-- The clusters that a configuration gives a TID. -/
def clustersOf (tids : List Nat) (t : Nat) : List Nat := (List.range 48).filter fun c => tids.getD c 0 == t

/-- Does a configuration leave every TID a rectangle? -/
def tenantsOk (tids : List Nat) : Bool :=
  tids.length == 48 && tids.all fun t => decide (t < 4096) && rectangle (clustersOf tids t)

/-- May a cluster change its TID: it runs no gang, and none of its tiles is owned (R367, R389)? -/
def State.mayChange (s : State) (cluster : Nat) : Bool :=
  (s.freeCores cluster).length == 8 &&
  (List.range 8).all fun k => !bit (s.coreAt (8 * cluster + k)).1.accown 16

/-- The clusters of a die whose TID a configuration changes. -/
def Pkg.changedBy (p : Pkg) (die : Nat) (tids : List Nat) : List Nat :=
  (List.range 48).filter fun c => p.tenantOf die c != tids.getD c 0

/-- A configuration applied whole, with the granules of the clusters that change written back (R389), or refused whole. -/
def configure (die : Nat) (tids : List Nat) : M Unit := do
  let s ← get
  let changed := s.pkg.changedBy die tids
  let ok := decide (die < 4) && tenantsOk tids && changed.all fun c => s.mayChange (48 * die + c)
  if ok then
    orStop fun s => changed.foldl (fun (s : Option State) c => s.bind fun s => s.emptyArrays (48 * die + c) []) (some s)
    modify fun s => changed.foldl (fun s c => tenantReg die c (BitVec.ofNat 64 (tids.getD c 0)) s) s
  else pure ()
  modify fun s => { s with pkg := { s.pkg with outputs := s.pkg.outputs ++ [.tenants ok] } }

/-- The first configuration asked for: the arrays that its change writes back are woken, and once none is in retention
mode it is decided (R397). -/
def configNext : M Unit := do
  let s ← get
  match s.pkg.configs with
  | [] => pure ()
  | (die, tids) :: rest =>
    let asleep := if die < 4 then
        s.pkg.retained ((s.pkg.changedBy die tids).flatMap fun c => s.ownedArrays (48 * die + c))
      else []
    if !asleep.isEmpty then modify fun s => { s with pkg := s.pkg.wakeArrays asleep }
    else
      modify fun s => { s with pkg := { s.pkg with configs := rest } }
      configure die tids

/-- TENANT_CONFIG_REQUEST (R367): decided at once, or once those before it and the arrays that it needs allow. -/
def tenantConfig (die : Nat) (tids : List Nat) : M Unit := do
  let first := (← get).pkg.configs.isEmpty
  modify fun s => { s with pkg := { s.pkg with configs := s.pkg.configs ++ [(die, tids)] } }
  if first then configNext else pure ()

/-- TENANT_CONFIG_REQUEST: a die's tenant configuration (R367). -/
def execEvTenantConfigRequest (die : Nat) (tids : List Nat) (s : State) : Out := finishAt (tenantConfig die tids) s

/-! ### The image checker (R84, R85) -/

/-- How Markhor walks a context's tables: without a walk cache. -/
def ContextDesc.walker (cd : ContextDesc) (ctx : Nat) : Walker := ⟨[], ctx, cd.tid⟩

/-- The location of a byte of a context's text, whatever the permissions of its page. -/
def State.textLoc (s : State) (ctx va : Nat) : Option Nat :=
  match s.contextDesc ctx with
  | none => none
  | some cd =>
    match s.tenantDesc cd.tid with
    | none => none
    | some td =>
      let k := cd.walker ctx
      (s.walkContext k td cd va).bind fun e1 =>
        (s.ipaPhys k td (e1.base + va % e1.size)).bind s.pkg.locOf

/-- Is a section placed: is every page of it mapped (R83 step 3)? -/
def State.placed (s : State) (ctx : Nat) (t : TextSection) : Bool :=
  (List.range (t.size / 4096 + 1)).all fun k =>
    (s.textLoc ctx (t.base + min (4096 * k) (t.size - 1))).isSome

/-- The word of a section at an offset; 0 where nothing is mapped. -/
def State.textWord (s : State) (ctx : Nat) (t : TextSection) (off : Nat) : Nat :=
  match s.textLoc ctx (t.base + off) with
  | some l => natOf ((s.pulled l).getBytes l 4)
  | none => 0

/-- A poisoned unit of a section's text, where it has one. -/
def State.textPoison (s : State) (ctx : Nat) (t : TextSection) : Option Nat :=
  if s.pkg.poison.isEmpty then none
  else (List.range (t.size / 4 + 1)).findSome? fun k =>
    (s.textLoc ctx (t.base + 4 * k)).bind fun l => if s.pkg.poisoned l 4 then some l else none

/-- The offsets of a section's first words, and of the second words of its long forms (R53). A section whose size is no
multiple of 4 ends with a word that is checked whole, with bytes from beyond the section's end (log 72). -/
def firstWords (size : Nat) (word : Nat → Nat) : Nat → Nat → List Nat × List Nat
  | 0, _ => ([], [])
  | fuel + 1, off =>
    if size ≤ off then ([], [])
    else if isLong (word off) then
      let (a, b) := firstWords size word fuel (off + 8)
      (off :: a, (off + 4) :: b)
    else
      let (a, b) := firstWords size word fuel (off + 4)
      (off :: a, b)

/-- The displacement of a branch, `jal` or `call.far`, whose target the checker follows (R321, R322). -/
def staticJump (w v : Nat) : Option Int :=
  let op := w / 2 ^ 26
  if 0x18 ≤ op ∧ op ≤ 0x1D then some (4 * signExtend (w % 2 ^ 16) 16)
  else if op = 0x1E then some (4 * signExtend (w % 2 ^ 21) 21)
  else if op = 0x3F ∧ w / 256 % 256 = 2 then some (signExtend v 32)
  else none

/-- The barrier instruction of a word: its form (0 arrive, 1 wait) and its group: 0 to 31 local, 32 to 47 spanning, 48
the gang's (R67). -/
def barrierOf (w : Nat) : Option (Nat × Nat) :=
  let fn := w % 256
  if w / 2 ^ 26 ≠ 0x32 ∨ 5 < fn then none
  else some (fn % 2, if fn < 2 then w / 2 ^ 16 % 32 else if fn < 4 then 32 + w / 2 ^ 16 % 16 else 48)

/-- Does a kernel declare a barrier group? -/
def declares (k : Kernel) (g : Nat) : Bool :=
  if g < 32 then k.localMask.toNat.testBit g else if g < 48 then k.spanMask.toNat.testBit (g - 32) else k.gangBarrier

/-- Is an offset in a kernel's range? -/
def inRange (k : Kernel) (off : Nat) : Bool := decide (k.start ≤ off) && decide (off < k.start + k.size)

/-- The failures of the word at an offset: offset and code. The second word of a long form is present where any of it lies
in the section (log 72). -/
def wordFailures (t : TextSection) (ks : List Kernel) (word : Nat → Nat) (second : List Nat) (off : Nat) : List (Nat × Nat) :=
  let w := word off
  let cut := isLong w && decide (t.size ≤ off + 4)
  let v := if isLong w && !cut then word (off + 4) else 0
  let target := (staticJump w v).map fun d => (off : Int) + d
  let badTarget := target.any fun x => decide (x < 0) || decide ((t.size : Int) ≤ x) || second.contains x.toNat
  let undeclared := (barrierOf w).any fun b => !ks.any fun k => inRange k off && declares k b.2
  (if w ≠ 0 ∧ !okWord w v then [(off, 1)] else []) ++ (if w ≠ 0 ∧ badTarget then [(off, 2)] else []) ++
    (if undeclared then [(off, 4)] else []) ++ (if cut then [(off, 6)] else [])

/-- The section that holds a kernel's entry label, or its range where the label is in no text section (log 72). -/
def entryAt (k : Kernel) (sections : Nat) : Nat := if k.entrySect < sections then k.entrySect else k.sect

/-- The failure of a kernel's entry label. -/
def entryFailure (second : List Nat) (k : Kernel) : List (Nat × Nat) :=
  if k.entry % 4 ≠ 0 ∨ k.entrySect ≠ k.sect ∨ !inRange k k.entry ∨ second.contains k.entry then [(k.entry, 3)] else []

/-- The failure of a kernel that declares a group without both its forms, among the words that are instructions. -/
def pairFailure (word : Nat → Nat) (first : List Nat) (k : Kernel) : List (Nat × Nat) :=
  let used := (first.filter (inRange k)).filterMap fun o => if okWord (word o) 0 then barrierOf (word o) else none
  if (List.range 49).any fun g => declares k g && !(used.contains (0, g) && used.contains (1, g)) then [(k.start, 5)] else []

/-- The first of two failures: the lower offset, then the lower code (R85). -/
def firstFailure : List (Nat × Nat) → Option (Nat × Nat)
  | [] => none
  | a :: r =>
    match firstFailure r with
    | none => some a
    | some b => if b.1 < a.1 ∨ (b.1 = a.1 ∧ b.2 < a.2) then some b else some a

/-- The first failure of section `n` of an image. -/
def State.checkSection (s : State) (ctx : Nat) (i : CheckedImage) (n : Nat) (t : TextSection) : Option (Nat × Nat) :=
  let ks := i.kernels.filter (·.sect == n)
  let word (o : Nat) : Nat := s.textWord ctx t o
  let (first, second) := firstWords t.size word (t.size / 4 + 1) 0
  firstFailure (first.flatMap (wordFailures t ks word second) ++ ks.flatMap (pairFailure word first) ++
    (i.kernels.filter fun k => entryAt k i.sections.length == n).flatMap (entryFailure second))

/-- The first failure of an image: code, section, offset, word (R85). -/
def State.checkImage (s : State) (ctx : Nat) (i : CheckedImage) : Option (Nat × Nat × Nat × Nat) :=
  (List.range i.sections.length).findSome? fun n =>
    (i.sections[n]?).bind fun t => (s.checkSection ctx i n t).map fun f =>
      (f.2, n, f.1, s.textWord ctx t (f.1 / 4 * 4))

/-- The IPAs of the entries that map the page of an address, with the page's base and size. -/
def leafEntries (rd : Nat → Option Nat) (va : Nat) : List Nat → Nat → Option (List Nat × Nat)
  | [], _ => none
  | l :: ls, tbl =>
    let i := pteIndex false l va
    match (rd (tbl + 8 * i)).bind (pteStep false l) with
    | none => none
    | some (.inl next) => leafEntries rd va ls next
    | some (.inr leaf) =>
      let n := leaf.size / 2 ^ (39 - 9 * l)
      some ((List.range n).map (fun k => tbl + 8 * (i / n * n + k)), leaf.size)

/-- What R, W and X of the pages of a section become (R83 step 7): execute-only for text, read-only for rodata and graphs. -/
def pageRights (text : Bool) : Nat := if text then 4 else 1

/-- The entries at these IPAs given the rights. -/
def State.openEntries (s : State) (k : Walker) (td : TenantDesc) (text : Bool) (ipas : List Nat) : State :=
  ipas.foldl (fun s ipa =>
    match (s.ipaPhys k td ipa).bind s.pkg.ownDram with
    | some loc =>
      let s := s.pulled loc
      s.putBytes loc (bytesOf 8 (setBits (BitVec.ofNat 64 (natOf (s.getBytes loc 8))) 5 3 (pageRights text)).toNat)
    | none => s) s

/-- The pages of `va` up to `hi` given the rights of text, or of rodata and graphs (R83 step 7). -/
def State.openPages (s : State) (k : Walker) (td : TenantDesc) (cd : ContextDesc) (text : Bool) (hi : Nat) : Nat → Nat → State
  | 0, _ => s
  | fuel + 1, va =>
    if hi ≤ va then s
    else
      match leafEntries (s.ipaDword k td) va [0, 1, 2, 3] cd.root with
      | none => s.openPages k td cd text hi fuel (va / 4096 * 4096 + 4096)
      | some (es, size) => (s.openEntries k td text es).openPages k td cd text hi fuel (va / size * size + size)

/-- The pages of sections given the rights. -/
def State.openSections (s : State) (k : Walker) (td : TenantDesc) (cd : ContextDesc) (text : Bool) (ts : List TextSection) : State :=
  ts.foldl (fun s t => s.openPages k td cd text (t.base + t.size) (t.size / 4096 + 2) t.base) s

/-- The text pages of an image made executable, together, once every die's fetches see the text, and the rodata and graph
pages read-only (R83, R84): the context's translations and every instruction cache dropped. -/
def State.openImage (s : State) (ctx : Nat) (i : CheckedImage) : State :=
  match s.contextDesc ctx with
  | none => s
  | some cd =>
    match s.tenantDesc cd.tid with
    | none => s
    | some td =>
      let k := cd.walker ctx
      let s := (s.openSections k td cd true i.sections).openSections k td cd false i.readOnly
      let s := s.dropTranslations (.context ctx)
      { s with
        core := { s.core with icache := [] }
        rest := s.rest.map fun e => ({ e.1 with icache := [] }, e.2) }

/-- IMAGE_CHECK (R84, R85). Text that is poisoned is not checked: a UE event is written, and the image stays closed (R396,
log 83). -/
def imageCheck (ctx : Nat) (i : CheckedImage) (s : State) : State :=
  let say (code sect off word : Nat) (s : State) : State :=
    { s with pkg := { s.pkg with outputs := s.pkg.outputs ++ [.checked code sect off word] } }
  if !(i.sections.all fun t => t.base % 4 == 0) || !(i.sections ++ i.readOnly).all (s.placed ctx) then s
  else match i.sections.findSome? (s.textPoison ctx) with
  | some l => { s with pkg := s.pkg.ueEvent l }
  | none =>
    match s.checkImage ctx i with
    | some (code, sect, off, word) => say code sect off word s
    | none => say 0 0 0 0 (s.openImage ctx i)

/-- IMAGE_CHECK: the image checker's pass (R85). -/
def execEvImageCheck (ctx : Nat) (image : CheckedImage) (s : State) : Out := .next (imageCheck ctx image s)

/-! ### SPDM and the black box (R406, R410) -/

/-- An answer of Markhor's management interfaces. -/
def State.say (s : State) (o : Output) : State := { s with pkg := { s.pkg with outputs := s.pkg.outputs ++ [o] } }

/-- The requests that Markhor supports, in the order of R410 from 1, and SLH-DSA's vendor-defined one (8), by the request
codes of DMTF's SPDM 1.3 (log 8); 0 for any other. -/
def spdmKind (code : Nat) : Nat := ([0x84, 0xE1, 0xE3, 0x81, 0x82, 0x83, 0xE0, 0xFE].findIdx? (· == code)).elim 0 (· + 1)

/-- What measurements cover beside the ROM (R410): the image that runs, the version that the fuses ask for, and the key
table. -/
def Pkg.measured (p : Pkg) : List Nat :=
  (p.image.toList.flatMap fun i => [i.version, i.minimum]) ++
    (p.regs.filter fun r => decide (offKeyctl 0 ≤ r.1 ∧ r.1 < offKeydata 256 0)).flatMap fun r => [r.1, r.2.toNat]

/-- SPDM_REQUEST: Markhor's answer, whose bytes the manual leaves open (R410). -/
def execEvSpdmRequest (code : Nat) (s : State) : Out :=
  .next (s.say (.spdm (Config.spdmAnswer (spdmKind code) s.pkg.measured s.pkg.outputs.length)))

/-- BLACK_BOX_READ: the records asked for, oldest first (R406). -/
def execEvBlackBoxRead (die : Nat) (first : Nat) (count : Nat) (s : State) : Out :=
  .next (s.say (.blackBox (((s.pkg.die die).bbox.drop first).take count)))

/-- STANDBY_POWER_LOSS: the records are lost (R406). -/
def execEvStandbyPowerLoss (s : State) : Out :=
  .next { s with pkg := { s.pkg with dies := s.pkg.dies.map fun d => { d with bbox := [] } } }

/-! ### Words that are no instruction (R71, R355) -/

/-- ILLEGAL_INSN: the trap of a fetched word that is no instruction (R71). -/
def execEvIllegalInsn (word : BitVec 32) (s : State) : Out :=
  if s.h.present then takeTrap { cause := causeIllegal, value := word.zeroExtend 64 } s else .next s

/-- FETCH_FAULT: the trap of a fetch that is refused (R355). -/
def execEvFetchFault (va : BitVec 64) (s : State) : Out :=
  if s.h.present then takeTrap { cause := causeFetchFault, value := va } s else .next s

end Sys2Proof.Machine
end

