-- ==== Sys2Proof/Machine/Atomics.lean ====
section
/-! DEFINITION. Scalar atomics (R230), return-free reductions (R231) and ordered reductions (R232). -/

namespace Sys2Proof.Machine

/-- The operation number `op` of R230 on words or dwords, with the rounding of the state. -/
def State.atomicOp (s : State) (op : Nat) (w : BitVec 1) : AtomicOp :=
  { op := op, floating := decide (10 ≤ op), width := if w = 0 then 32 else 64, brain := false, rm := s.rm, sat := s.sat }

/-- What an amo writes to X[d] of the old value (R230). -/
def AtomicOp.result (o : AtomicOp) (old : Nat) : Dword :=
  if o.floating then BitVec.ofNat 64 old else dwordOf (signExtend old o.width)

/-- A floating atomic or reduction issues: FP_ENABLED while DET = 1, else NDET, whatever becomes of it (R106, R230). -/
def issueFloat (floating : Bool) : M Unit :=
  if floating then do
    detCheck
    setNdet
  else pure ()

/-- The destination of a scalar atomic's old value. -/
def AtomicOp.destX (o : AtomicOp) (d : BitVec 5) : Dest :=
  if o.floating then .x d.toNat else .sx d.toNat (o.width / 8)

/-- A scalar amo (R230): old value to X[d], flags with its response; performed at once, or sent to its home, which the
hart waits for (R188, R217, R231). -/
def amo (op : Nat) (d a b : BitVec 5) (w : BitVec 1) : M Unit := do
  awaitPlaced
  awaitRead
  let s ← get
  let o := s.atomicOp op w
  issueFloat o.floating
  let va := s.x a
  let v := nread (s.x b) o.width
  let expected := nread (s.x d) o.width
  let t ← resolveAtomic o va va.toNat
  if (← get).sendsOff t (o.width / 8) then
    sendAtomic o va t va.toNat v expected (o.destX d) true
    modify State.retire
  else
    let (old, fl) ← atomicHere o (← get).seen va t va.toNat v expected
    writeX d (o.result old)
    retireWithFlags fl

/-- A reduction sent to its home, or performed at once in the hart's own scratchpads (R231): its flags there. `seen` are
the messages that one performed at once must not pass; the hart waits for that of an element (`elem`) of a page with the
race-check attribute (R222). -/
def reduce (o : AtomicOp) (elem : Bool) (seen : Nat) (va : Dword) (v : Nat) : M Flags := do
  let t ← resolveAtomic o va va.toNat
  noHost t causeAtomicFault va
  if t.spot.isSome then
    let (_, fl) ← atomicHere o seen va t va.toNat v 0
    modify fun s => { s with pkg := s.pkg.leaveReduced s.h.ident s.core.id (bits s.h.tid 0 12) t.loc (o.width / 8) }
    pure fl
  else
    let s ← get
    await (!(s.h.sb.any (·.overlaps va.toNat (o.width / 8))))
    let (s, rels) := s.armedWrite false
    let m := { s.message (BitVec.ofNat 12 s.who.tid) (dstOf t.loc) va (.reduce [⟨o, t.loc, v, va⟩]) with rels := rels }
    set s
    sendWrite { m with race := t.race } t elem
    pure 0

/-- A scalar return-free reduction (R231). -/
def red (op : Nat) (a b : BitVec 5) (w : BitVec 1) : M Unit := do
  awaitRead
  let s ← get
  let o := s.atomicOp op w
  issueFloat o.floating
  let fl ← reduce o false s.seen (s.x a) (nread (s.x b) o.width)
  modify fun s => s.setFlags fl

/-- An ordered reduction of one location sent to its home (R232, R235); `val` is the EVAL of its faults. -/
def reduceOrdered (o : AtomicOp) (scope : Nat) (val va : Dword) (elem time v : Nat) : M Unit := do
  trapIf (va.toNat % (o.width / 8) != 0) causeAtomicFault val
  let s ← get
  let t ← resolve s.who .atomic causeAtomicFault val va.toNat
  noHost t causeAtomicFault val
  let s ← get
  await (!(s.h.sb.any (·.overlaps va.toNat (o.width / 8))))
  await (s.clearOf s.h.ident t.loc (o.width / 8))
  let s := { s with h := s.h.released }
  let op := s.timed s.h.hartid s.h.instret.toNat s.issuedAt t va elem time (guardOf s.h.tguard scope) (.reduce o v) true s.h.clock
  set (s.send (s.message (BitVec.ofNat 12 s.who.tid) (dstOf t.loc) va (.timed op)))

/-- A scalar ordered reduction (R232). -/
def redOrd (op : Nat) (floating : Bool) (d a b : BitVec 5) (scope : BitVec 4) : M Unit := do
  awaitRead
  let s ← get
  let o : AtomicOp := ⟨op, floating, 32, false, s.rm, s.sat⟩
  reduceOrdered o scope.toNat (s.x a) (s.x a) 0 (s.x d).toNat (nread (s.x b) 32)

/-- AMOSWAP: exchange (R230). -/
def execAmoswap (d : BitVec 5) (a : BitVec 5) (b : BitVec 5) (w : BitVec 1) (s : State) : Out :=
  finishAt (amo 0 d a b w) s

/-- AMOADD: sum (R230). -/
def execAmoadd (d : BitVec 5) (a : BitVec 5) (b : BitVec 5) (w : BitVec 1) (s : State) : Out :=
  finishAt (amo 1 d a b w) s

/-- AMOAND: bitwise AND (R230). -/
def execAmoand (d : BitVec 5) (a : BitVec 5) (b : BitVec 5) (w : BitVec 1) (s : State) : Out :=
  finishAt (amo 2 d a b w) s

/-- AMOOR: bitwise OR (R230). -/
def execAmoor (d : BitVec 5) (a : BitVec 5) (b : BitVec 5) (w : BitVec 1) (s : State) : Out :=
  finishAt (amo 3 d a b w) s

/-- AMOXOR: bitwise exclusive OR (R230). -/
def execAmoxor (d : BitVec 5) (a : BitVec 5) (b : BitVec 5) (w : BitVec 1) (s : State) : Out :=
  finishAt (amo 4 d a b w) s

/-- AMOMIN: signed minimum (R230). -/
def execAmomin (d : BitVec 5) (a : BitVec 5) (b : BitVec 5) (w : BitVec 1) (s : State) : Out :=
  finishAt (amo 5 d a b w) s

/-- AMOMAX: signed maximum (R230). -/
def execAmomax (d : BitVec 5) (a : BitVec 5) (b : BitVec 5) (w : BitVec 1) (s : State) : Out :=
  finishAt (amo 6 d a b w) s

/-- AMOMINN: natural minimum (R230). -/
def execAmominn (d : BitVec 5) (a : BitVec 5) (b : BitVec 5) (w : BitVec 1) (s : State) : Out :=
  finishAt (amo 7 d a b w) s

/-- AMOMAXN: natural maximum (R230). -/
def execAmomaxn (d : BitVec 5) (a : BitVec 5) (b : BitVec 5) (w : BitVec 1) (s : State) : Out :=
  finishAt (amo 8 d a b w) s

/-- AMOCAS: compare and swap (R230). -/
def execAmocas (d : BitVec 5) (a : BitVec 5) (b : BitVec 5) (w : BitVec 1) (s : State) : Out :=
  finishAt (amo 9 d a b w) s

/-- AMOFADD: floating sum (R230). -/
def execAmofadd (d : BitVec 5) (a : BitVec 5) (b : BitVec 5) (w : BitVec 1) (s : State) : Out :=
  finishAt (amo 10 d a b w) s

/-- AMOFMIN: floating minimum (R230). -/
def execAmofmin (d : BitVec 5) (a : BitVec 5) (b : BitVec 5) (w : BitVec 1) (s : State) : Out :=
  finishAt (amo 11 d a b w) s

/-- AMOFMAX: floating maximum (R230). -/
def execAmofmax (d : BitVec 5) (a : BitVec 5) (b : BitVec 5) (w : BitVec 1) (s : State) : Out :=
  finishAt (amo 12 d a b w) s

/-- REDADD: sum, return-free (R231). -/
def execRedadd (a : BitVec 5) (b : BitVec 5) (w : BitVec 1) (s : State) : Out := finish (red 1 a b w) s

/-- REDAND: bitwise AND, return-free (R231). -/
def execRedand (a : BitVec 5) (b : BitVec 5) (w : BitVec 1) (s : State) : Out := finish (red 2 a b w) s

/-- REDOR: bitwise OR, return-free (R231). -/
def execRedor (a : BitVec 5) (b : BitVec 5) (w : BitVec 1) (s : State) : Out := finish (red 3 a b w) s

/-- REDXOR: bitwise exclusive OR, return-free (R231). -/
def execRedxor (a : BitVec 5) (b : BitVec 5) (w : BitVec 1) (s : State) : Out := finish (red 4 a b w) s

/-- REDMIN: signed minimum, return-free (R231). -/
def execRedmin (a : BitVec 5) (b : BitVec 5) (w : BitVec 1) (s : State) : Out := finish (red 5 a b w) s

/-- REDMAX: signed maximum, return-free (R231). -/
def execRedmax (a : BitVec 5) (b : BitVec 5) (w : BitVec 1) (s : State) : Out := finish (red 6 a b w) s

/-- REDMINN: natural minimum, return-free (R231). -/
def execRedminn (a : BitVec 5) (b : BitVec 5) (w : BitVec 1) (s : State) : Out := finish (red 7 a b w) s

/-- REDMAXN: natural maximum, return-free (R231). -/
def execRedmaxn (a : BitVec 5) (b : BitVec 5) (w : BitVec 1) (s : State) : Out := finish (red 8 a b w) s

/-- REDFADD: floating sum, return-free (R231). -/
def execRedfadd (a : BitVec 5) (b : BitVec 5) (w : BitVec 1) (s : State) : Out := finish (red 10 a b w) s

/-- REDFMIN: floating minimum, return-free (R231). -/
def execRedfmin (a : BitVec 5) (b : BitVec 5) (w : BitVec 1) (s : State) : Out := finish (red 11 a b w) s

/-- REDFMAX: floating maximum, return-free (R231). -/
def execRedfmax (a : BitVec 5) (b : BitVec 5) (w : BitVec 1) (s : State) : Out := finish (red 12 a b w) s

/-- RED_ORD_ADD_F32: ordered sum (R232). -/
def execRedOrdAddF32 (d : BitVec 5) (a : BitVec 5) (b : BitVec 5) (s' : BitVec 4) (s : State) : Out :=
  finish (redOrd 10 true d a b s') s

/-- RED_ORD_ADD_I32: ordered sum (R232). -/
def execRedOrdAddI32 (d : BitVec 5) (a : BitVec 5) (b : BitVec 5) (s' : BitVec 4) (s : State) : Out :=
  finish (redOrd 1 false d a b s') s

/-- RED_ORD_MIN_F32: ordered minimum (R232). -/
def execRedOrdMinF32 (d : BitVec 5) (a : BitVec 5) (b : BitVec 5) (s' : BitVec 4) (s : State) : Out :=
  finish (redOrd 11 true d a b s') s

/-- RED_ORD_MAX_F32: ordered maximum (R232). -/
def execRedOrdMaxF32 (d : BitVec 5) (a : BitVec 5) (b : BitVec 5) (s' : BitVec 4) (s : State) : Out :=
  finish (redOrd 12 true d a b s') s

end Sys2Proof.Machine
end

