-- ==== Sys2Proof/Machine/Branch.lean ====
section
/-! DEFINITION. Branches (R321), jumps and calls (R322, R323). -/

namespace Sys2Proof.Machine

/-- A conditional branch: the target where the condition holds, else the next word (R321). -/
def State.branch (s : State) (taken : Bool) (disp : BitVec 16) : Out :=
  .next (s.jumpTo (if taken then s.h.pc + (disp.signExtend 64 <<< 2) else s.h.pc + 4))

/-- BEQ: taken when equal (R321). -/
def execBeq (a : BitVec 5) (b : BitVec 5) (i : BitVec 16) (s : State) : Out := s.branch (s.x a == s.x b) i

/-- BNE: taken when not equal (R321). -/
def execBne (a : BitVec 5) (b : BitVec 5) (i : BitVec 16) (s : State) : Out := s.branch (s.x a != s.x b) i

/-- BLT: taken when less, signed (R321). -/
def execBlt (a : BitVec 5) (b : BitVec 5) (i : BitVec 16) (s : State) : Out := s.branch ((s.x a).slt (s.x b)) i

/-- BGE: taken when not less, signed (R321). -/
def execBge (a : BitVec 5) (b : BitVec 5) (i : BitVec 16) (s : State) : Out := s.branch (!(s.x a).slt (s.x b)) i

/-- BLTN: taken when less, natural (R321). -/
def execBltn (a : BitVec 5) (b : BitVec 5) (i : BitVec 16) (s : State) : Out := s.branch ((s.x a).ult (s.x b)) i

/-- BGEN: taken when not less, natural (R321). -/
def execBgen (a : BitVec 5) (b : BitVec 5) (i : BitVec 16) (s : State) : Out := s.branch (!(s.x a).ult (s.x b)) i

/-- JAL: link and jump (R322). -/
def execJal (d : BitVec 5) (i : BitVec 21) (s : State) : Out :=
  .next ((s.setX d (s.h.pc + 4)).jumpTo (s.h.pc + (i.signExtend 64 <<< 2)))

/-- CALL_FAR: the long form of jal (R322). -/
def execCallFar (d : BitVec 5) (i : BitVec 32) (s : State) : Out :=
  .next ((s.setX d (s.h.pc + 8)).jumpTo (s.h.pc + i.signExtend 64))

/-- The target of a jalr (R322). -/
def State.jalrTarget (s : State) (a : BitVec 5) (i : BitVec 16) : Dword := s.x a + simm i

/-- A jump to a register with a link; a target off a word boundary traps at the jalr itself (R322, R323). -/
def jumpRegister (d a : BitVec 5) (i : BitVec 16) (s : State) : Out :=
  let t := s.jalrTarget a i
  if bits t 0 2 = 0 then .next ((s.setX d (s.h.pc + 4)).jumpTo t)
  else takeTrap { cause := causeFetchMisaligned, value := t } s

/-- JALR: a jump to a register with a link (R322, R323). -/
def execJalr (d : BitVec 5) (a : BitVec 5) (i : BitVec 16) (s : State) : Out := jumpRegister d a i s

end Sys2Proof.Machine
end

