-- ==== Sys2Proof/Machine/FloatScalar.lean ====
section
/-! DEFINITION. Scalar floating-point instructions: OP 0x0B (R114 to R116) and OP 0x0C (R117 to R119), with the flags
and the trap of R113. -/

namespace Sys2Proof.Machine

/-- A scalar floating-point instruction whose result and flags are given (R113): the flags are set, an enabled one
traps, else X[d] is written under R112. -/
def floatResult (d : BitVec 5) (r : Nat × Flags) : M Unit := do
  raiseFlags r.2
  writeX d (BitVec.ofNat 64 r.1)

/-- A rounding instruction of OP 0x0B: `f` gets the format, the mode, SAT and the values D, A and B (R114). -/
def floatOp (d a b : BitVec 5) (t : BitVec 1) (f : Fmt → Nat → Bool → Num → Num → Num → Nat × Flags) (s : State) : Out :=
  let fmt := scalarFmt t.toNat
  let v (r : BitVec 5) : Num := fmt.value (fpRead (s.x r) fmt)
  finish (floatResult d (f fmt s.rm s.sat (v d) (v a) (v b))) s

/-- An instruction of OP 0x0B that does not round, on the encodings of A and B (R115, R116). -/
def floatBits (d a b : BitVec 5) (t : BitVec 1) (f : Fmt → Nat → Nat → Nat) (s : State) : Out :=
  let fmt := scalarFmt t.toNat
  s.result d (BitVec.ofNat 64 (f fmt (fpRead (s.x a) fmt) (fpRead (s.x b) fmt)))

/-- A compare (R117): `nv` tells that a NaN operand raises NV. -/
def floatCompare (d a b : BitVec 5) (t : BitVec 1) (nv : Bool) (f : Num → Num → Bool) (s : State) : Out :=
  let fmt := scalarFmt t.toNat
  let x := fmt.value (fpRead (s.x a) fmt)
  let y := fmt.value (fpRead (s.x b) fmt)
  let nan := x.isNan || y.isNan
  finish (floatResult d (bitOf (!nan && f x y), if nan && nv then flagNV else 0)) s

/-- A conversion whose result and flags `f` gives from the mode, SAT and the source register (R119). -/
def floatConvert (d a : BitVec 5) (f : Nat → Bool → Dword → Nat × Flags) (s : State) : Out :=
  finish (floatResult d (f s.rm s.sat (s.x a))) s

/-- A float format to another (R102). -/
def toFloat (src dst : Fmt) (rm : Nat) (sat : Bool) (v : Dword) : Nat × Flags := src.convert dst rm sat (fpRead v src)

/-- A float format to a 64-bit integer, signed or natural (R102). -/
def toInt64 (src : Fmt) (natural : Bool) (rm : Nat) (v : Dword) : Nat × Flags :=
  let lo : Int := if natural then 0 else -(2 ^ 63 : Nat)
  let hi : Int := if natural then (2 ^ 64 - 1 : Nat) else (2 ^ 63 - 1 : Nat)
  let r := (src.value (fpRead v src)).toInt rm lo hi
  (wrap r.1 64, r.2)

/-! ### OP 0x0B -/

/-- FADD: A + B rounded once (R114). -/
def execFadd (d : BitVec 5) (a : BitVec 5) (b : BitVec 5) (t : BitVec 1) (s : State) : Out :=
  floatOp d a b t (fun f m sat _ x y => f.sum m sat [x, y]) s

/-- FSUB: A - B rounded once (R114). -/
def execFsub (d : BitVec 5) (a : BitVec 5) (b : BitVec 5) (t : BitVec 1) (s : State) : Out :=
  floatOp d a b t (fun f m sat _ x y => f.sum m sat [x, y.neg]) s

/-- FMUL: A x B rounded once (R114). -/
def execFmul (d : BitVec 5) (a : BitVec 5) (b : BitVec 5) (t : BitVec 1) (s : State) : Out :=
  floatOp d a b t (fun f m sat _ x y => f.prod m sat x y) s

/-- FDIV: A / B rounded once (R114). -/
def execFdiv (d : BitVec 5) (a : BitVec 5) (b : BitVec 5) (t : BitVec 1) (s : State) : Out :=
  floatOp d a b t (fun f m sat _ x y => f.quot m sat x y) s

/-- FSQRT: the square root of A rounded once (R114). -/
def execFsqrt (d : BitVec 5) (a : BitVec 5) (t : BitVec 1) (s : State) : Out :=
  floatOp d a 0 t (fun f m sat _ x _ => f.root m sat x) s

/-- FMIN: the minimum, one operand unchanged (R115). -/
def execFmin (d : BitVec 5) (a : BitVec 5) (b : BitVec 5) (t : BitVec 1) (s : State) : Out :=
  floatBits d a b t (fun f x y => f.minMax false x y) s

/-- FMAX: the maximum, one operand unchanged (R115). -/
def execFmax (d : BitVec 5) (a : BitVec 5) (b : BitVec 5) (t : BitVec 1) (s : State) : Out :=
  floatBits d a b t (fun f x y => f.minMax true x y) s

/-- FMAC: D + A x B rounded once (R114). -/
def execFmac (d : BitVec 5) (a : BitVec 5) (b : BitVec 5) (t : BitVec 1) (s : State) : Out :=
  floatOp d a b t (fun f m sat z x y => f.fused m sat z x y false) s

/-- FMSC: D - A x B rounded once (R114). -/
def execFmsc (d : BitVec 5) (a : BitVec 5) (b : BitVec 5) (t : BitVec 1) (s : State) : Out :=
  floatOp d a b t (fun f m sat z x y => f.fused m sat z x y true) s

/-- FABS: A with sign 0 (R116). -/
def execFabs (d : BitVec 5) (a : BitVec 5) (t : BitVec 1) (s : State) : Out :=
  floatBits d a 0 t (fun f x _ => f.withSign x false) s

/-- FNEG: A with its sign inverted (R116). -/
def execFneg (d : BitVec 5) (a : BitVec 5) (t : BitVec 1) (s : State) : Out :=
  floatBits d a 0 t (fun f x _ => f.withSign x !(f.sign x)) s

/-- FSGMV: A with the sign of B (R116). -/
def execFsgmv (d : BitVec 5) (a : BitVec 5) (b : BitVec 5) (t : BitVec 1) (s : State) : Out :=
  floatBits d a b t (fun f x y => f.withSign x (f.sign y)) s

/-! ### OP 0x0C -/

/-- FEQ: 1 if A = B (R117). -/
def execFeq (d : BitVec 5) (a : BitVec 5) (b : BitVec 5) (t : BitVec 1) (s : State) : Out :=
  floatCompare d a b t false Num.eq s

/-- FLT: 1 if A < B; NaN raises NV (R117). -/
def execFlt (d : BitVec 5) (a : BitVec 5) (b : BitVec 5) (t : BitVec 1) (s : State) : Out :=
  floatCompare d a b t true Num.lt s

/-- FLE: 1 if A is at most B; NaN raises NV (R117). -/
def execFle (d : BitVec 5) (a : BitVec 5) (b : BitVec 5) (t : BitVec 1) (s : State) : Out :=
  floatCompare d a b t true (fun x y => x.lt y || x.eq y) s

/-- FKIND: kind and sign (R118). -/
def execFkind (d : BitVec 5) (a : BitVec 5) (t : BitVec 1) (s : State) : Out :=
  floatBits d a 0 t (fun f x _ => f.kind x) s

/-- FCVT_F64_F32: exact (R119). -/
def execFcvtF64F32 (d : BitVec 5) (a : BitVec 5) (s : State) : Out :=
  floatConvert d a (fun m sat v => toFloat .f32 .f64 m sat v) s

/-- FCVT_F32_F64: rounded (R119). -/
def execFcvtF32F64 (d : BitVec 5) (a : BitVec 5) (s : State) : Out :=
  floatConvert d a (fun m sat v => toFloat .f64 .f32 m sat v) s

/-- FCVT_F32_I64: a signed integer rounded (R119). -/
def execFcvtF32I64 (d : BitVec 5) (a : BitVec 5) (s : State) : Out :=
  floatConvert d a (fun m sat v => Fmt.f32.ofInt m sat v.toInt) s

/-- FCVT_F32_N64: a natural integer rounded (R119). -/
def execFcvtF32N64 (d : BitVec 5) (a : BitVec 5) (s : State) : Out :=
  floatConvert d a (fun m sat v => Fmt.f32.ofInt m sat v.toNat) s

/-- FCVT_F64_I64: a signed integer rounded (R119). -/
def execFcvtF64I64 (d : BitVec 5) (a : BitVec 5) (s : State) : Out :=
  floatConvert d a (fun m sat v => Fmt.f64.ofInt m sat v.toInt) s

/-- FCVT_F64_N64: a natural integer rounded (R119). -/
def execFcvtF64N64 (d : BitVec 5) (a : BitVec 5) (s : State) : Out :=
  floatConvert d a (fun m sat v => Fmt.f64.ofInt m sat v.toNat) s

/-- FCVT_I64_F32: to a signed integer (R119). -/
def execFcvtI64F32 (d : BitVec 5) (a : BitVec 5) (s : State) : Out :=
  floatConvert d a (fun m _ v => toInt64 .f32 false m v) s

/-- FCVT_N64_F32: to a natural integer (R119). -/
def execFcvtN64F32 (d : BitVec 5) (a : BitVec 5) (s : State) : Out :=
  floatConvert d a (fun m _ v => toInt64 .f32 true m v) s

/-- FCVT_I64_F64: to a signed integer (R119). -/
def execFcvtI64F64 (d : BitVec 5) (a : BitVec 5) (s : State) : Out :=
  floatConvert d a (fun m _ v => toInt64 .f64 false m v) s

/-- FCVT_N64_F64: to a natural integer (R119). -/
def execFcvtN64F64 (d : BitVec 5) (a : BitVec 5) (s : State) : Out :=
  floatConvert d a (fun m _ v => toInt64 .f64 true m v) s

/-- FCVT_F32_BF16: exact (R119). -/
def execFcvtF32Bf16 (d : BitVec 5) (a : BitVec 5) (s : State) : Out :=
  floatConvert d a (fun m sat v => toFloat .bf16 .f32 m sat v) s

/-- FCVT_BF16_F32: rounded (R119). -/
def execFcvtBf16F32 (d : BitVec 5) (a : BitVec 5) (s : State) : Out :=
  floatConvert d a (fun m sat v => toFloat .f32 .bf16 m sat v) s

/-- FCVT_F32_F16: exact (R119). -/
def execFcvtF32F16 (d : BitVec 5) (a : BitVec 5) (s : State) : Out :=
  floatConvert d a (fun m sat v => toFloat .f16 .f32 m sat v) s

/-- FCVT_F16_F32: rounded (R119). -/
def execFcvtF16F32 (d : BitVec 5) (a : BitVec 5) (s : State) : Out :=
  floatConvert d a (fun m sat v => toFloat .f32 .f16 m sat v) s

end Sys2Proof.Machine
end

