-- ==== Sys2Proof/Machine/Mask.lean ====
section
/-! DEFINITION. Mask instructions (R144, R145). -/

namespace Sys2Proof.Machine

/-- A logic operation on whole mask registers, in the VDQ (R144). -/
def maskLogic (word : Nat) (d : BitVec 5) (f : State → Mask) : M Unit := do
  vecRun word (fun _ => true) do
    modify fun s => s.setM d.toNat (f s)

/-- The bits of a mask register below VL. -/
def State.maskBits (s : State) (a : BitVec 5) : Nat := (s.mreg a.toNat).toNat % 2 ^ s.vlen

/-- A read-out of a mask register, after every VDQ entry ahead (R125, R145). -/
def maskRead (word : Nat) (d a : BitVec 5) (f : Nat → Dword) : M Unit := do
  vecIssue word fun _ => true
  modify fun s => s.setX d (f (s.maskBits a))

/-- MAND: AND (R144). -/
def execMand (d : BitVec 5) (a : BitVec 5) (b : BitVec 5) (s : State) : Out :=
  finish (maskLogic (enc3 0x90000000 d 21 a 16 b 11) d (fun s => s.mreg a.toNat &&& s.mreg b.toNat)) s

/-- MOR: OR (R144). -/
def execMor (d : BitVec 5) (a : BitVec 5) (b : BitVec 5) (s : State) : Out :=
  finish (maskLogic (enc3 0x90000001 d 21 a 16 b 11) d (fun s => s.mreg a.toNat ||| s.mreg b.toNat)) s

/-- MXOR: exclusive OR (R144). -/
def execMxor (d : BitVec 5) (a : BitVec 5) (b : BitVec 5) (s : State) : Out :=
  finish (maskLogic (enc3 0x90000002 d 21 a 16 b 11) d (fun s => s.mreg a.toNat ^^^ s.mreg b.toNat)) s

/-- MANDN: AND NOT (R144). -/
def execMandn (d : BitVec 5) (a : BitVec 5) (b : BitVec 5) (s : State) : Out :=
  finish (maskLogic (enc3 0x90000003 d 21 a 16 b 11) d (fun s => s.mreg a.toNat &&& ~~~(s.mreg b.toNat))) s

/-- MNOT: NOT (R144). -/
def execMnot (d : BitVec 5) (a : BitVec 5) (s : State) : Out :=
  finish (maskLogic (enc2 0x90000004 d 21 a 16) d (fun s => ~~~(s.mreg a.toNat))) s

/-- MSET: all ones (R144). -/
def execMset (d : BitVec 5) (s : State) : Out :=
  finish (maskLogic (enc1 0x90000005 d 21) d (fun _ => BitVec.allOnes 256)) s

/-- MCLR: all zeros (R144). -/
def execMclr (d : BitVec 5) (s : State) : Out := finish (maskLogic (enc1 0x90000006 d 21) d (fun _ => 0)) s

/-- MCNT: the number of set bits below VL (R145). -/
def execMcnt (d : BitVec 5) (a : BitVec 5) (s : State) : Out :=
  finish (maskRead (enc2 0x90000007 d 21 a 16) d a (fun v => BitVec.ofNat 64 (popcount v 256))) s

/-- MANY: whether any bit below VL is set (R145). -/
def execMany (d : BitVec 5) (a : BitVec 5) (s : State) : Out :=
  finish (maskRead (enc2 0x90000008 d 21 a 16) d a (fun v => if v = 0 then 0 else 1)) s

/-- MFIRST: the lowest set bit below VL, or all ones (R145). -/
def execMfirst (d : BitVec 5) (a : BitVec 5) (s : State) : Out :=
  finish (maskRead (enc2 0x90000009 d 21 a 16) d a (fun v => match (onesOf v 256).head? with | some i => BitVec.ofNat 64 i | none => BitVec.allOnes 64)) s

end Sys2Proof.Machine
end

