-- ==== Sys2Proof/Machine/VecMem.lean ====
section
/-! DEFINITION. Vector memory instructions (R222 to R226), the timed vector forms (R229), vector atomics and reductions
(R233, R234) and the ordered form (R235). -/

namespace Sys2Proof.Machine

/-! ### Elements, fault-first (R222) -/

/-- Elements in ascending order up to the first that traps, which is answered with its trap. -/
def faultFirst (f : Nat → M Unit) : List Nat → M (Option (Nat × Trap))
  | [] => pure none
  | e :: r => fun s =>
    match f e s with
    | .ok (_, s) => faultFirst f r s
    | .error (.trap t s) => .ok (some (e, t), s)
    | .error x => .error x

/-- Is the trap that a response has brought one of an element up to `e`? -/
def Hart.trapsBelow (h : Hart) (e : Nat) : Bool := h.waitTrap.any fun t => t.2.2.any fun k => decide (k ≤ e)

/-- A fault of element `e`: VSTART = e and EVAL = e with EVV = 1, taken once the elements below have performed; that of a lower
element, which a response has brought, comes before it. -/
def vecFault (e : Nat) (t : Trap) : M Unit := do
  modify fun s => { s with h := { s.h with amid := none } }
  let s ← get
  if s.h.trapsBelow e then pure ()
  else if s.h.waitTags.isEmpty then
    modify fun s => { s with h := { s.h with vstart := BitVec.ofNat 64 e, waitTrap := none } }
    raise { t with value := BitVec.ofNat 64 e, evv := true }
  else modify fun s => { s with h := { s.h with waitTrap := some (t.cause, BitVec.ofNat 64 e, some e) } }

/-- The instruction goes on with the element after `e`, at `next` where it is a vappend: what comes between them is the
agenda's (R191). -/
def goOn (e : Nat) (next : Dword) : M Unit := do
  modify fun s => { s with h := { s.h with vstart := BitVec.ofNat 64 (e + 1), amid := some next } }
  again

/-- The elements of an instruction: all are checked first (`chk`), those below the first fault perform (`f`), then the
fault is taken (R222). They perform together, or one by one where the agenda has it so (R191). -/
def vecElems (chk f : Nat → M Unit) (es : List Nat) : M (Option (Nat × Trap)) := do
  let bad ← faultFirst chk es
  let es := match bad with
    | some b => es.filter fun e => decide (e < b.1)
    | none => es
  match (← get).h.ahead, es with
  | true, e :: _ :: _ =>
    match ← allOrNothing (faultFirst f [e]) with
    | some late => pure (some late)
    | none => do
      goOn e 0
      pure none
  | _, es => do
    let late ← allOrNothing (faultFirst f es)
    pure (late.or bad)

/-- All elements have been performed or sent. -/
def State.endElems (s : State) : State := { s.clearVstart with h := { s.clearVstart.h with amid := none } }

/-- The end of a vector memory instruction: VSTART is 0, or the fault is taken (R222). -/
def vecEnd (r : Option (Nat × Trap)) : M Unit :=
  match r with
  | none => modify State.endElems
  | some b => vecFault b.1 b.2

/-- A vector memory instruction, at whose turn every older store has left the buffer (R221). -/
def vecMemRun (word : Nat) (ok : Nat → Bool) (body : M Unit) : M Unit :=
  vecRun word ok do
    awaitBuffer
    if (← get).h.ahead then body else allOrNothing body

/-- The elements of a vector memory instruction, and its end (R222, R122); `f` gets how many messages are on their way as
it begins. -/
def vecMem (word : Nat) (ok : Nat → Bool) (p : BitVec 3) (chk : Nat → M Unit) (f : Nat → Nat → M Unit) : M Unit :=
  vecMemRun word ok do
    let s ← get
    let r ← vecElems chk (f s.seen) (s.active p)
    vecEnd r

/-- A vector load: it acquires the chunks that its mask register shows (R209). -/
def vecGather (word : Nat) (ok : Nat → Bool) (p : BitVec 3) (chk : Nat → M Unit) (f : Nat → Nat → M Unit) : M Unit :=
  vecMemRun word ok do
    modify fun s => if p = 0 then s else s.acquireMask p.toNat
    let s ← get
    let r ← vecElems chk (f s.seen) (s.active p)
    vecEnd r

/-- The check of an element's plain load or store of `n` bytes (R222 step 1). -/
def checkElem (want : Want) (f : Nat) (addr : Nat → Dword) (n : Nat) (e : Nat) : M Unit := do
  let w := (← get).who
  (piecesOf (addr e).toNat n).forM fun p => precheck w want f (addr e) p.1

/-- The check of a target that is made without a swap: none is made of the scratchpads. -/
def checkOutside (va : Dword) (m : M Unit) : M Unit := do
  let s ← get
  match windowOf s.h (s.gang? s.h.gang) va.toNat with
  | .spot _ => pure ()
  | _ => m

/-- The check of an element's timed access (R229). -/
def checkTimed (want : Want) (f : Nat) (w : Nat) (va : Dword) : M Unit := do
  trapIf (va.toNat % (w / 8) != 0) f va
  checkOutside va do
    let t ← resolve (← get).who want f va va.toNat
    noHost t f va

/-- The check of an element's atomic or reduction (R215, R231). -/
def checkAtomic (o : AtomicOp) (free : Bool) (va : Dword) : M Unit := do
  trapIf (va.toNat % (o.width / 8) != 0) causeAtomicFault va
  checkOutside va do
    let t ← resolveAtomic o va va.toNat
    if free then noHost t causeAtomicFault va else pure ()

/-- Bytes loaded for an element, written by `put`; or, where they come as messages, to `dest` (R188, R224). -/
def loadTo (seen : Nat) (va : Dword) (n : Nat) (dest : Dest) (put : Nat → State → State) : M Unit := do
  match ← leavingLoad true va va.toNat n with
  | [] =>
    let bs ← loadBytesOf none seen va va.toNat n
    modify (put (natOf bs))
  | ts => sendLoad none va n dest ts

/-- Element `e` of width `w` loaded (R224). -/
def loadElem (d w : Nat) (addr : Nat → Dword) (seen e : Nat) : M Unit :=
  loadTo seen (addr e) (w / 8) (.v d (w * e) w 0 e) fun v s => s.putElem d w e v

/-- Element `e` of width `w` stored (R224). -/
def storeElem (d w : Nat) (addr : Nat → Dword) (seen e : Nat) : M Unit := do
  storeBytes causeStoreFault seen (addr e) (addr e).toNat (bytesOf (w / 8) ((← get).elem d w e))

/-- The address of the byte that holds nibble `e` (R225). -/
def nibbleAddr (base : Dword) (e : Nat) : Dword := base + BitVec.ofNat 64 (e / 2)

/-- The nibble `e` mod 2 of the byte at an address loaded (R225). -/
def loadNibble (d : Nat) (base : Dword) (seen e : Nat) : M Unit :=
  loadTo seen (nibbleAddr base e) 1 (.v d (4 * e) 4 (4 * (e % 2)) e) fun v s => s.putElem d 4 e (v / 16 ^ (e % 2))

/-- The nibble `e` mod 2 of the byte at an address stored, as one merge at its home (R197, R225): the home of another die gets
it as a WRITE (R188). -/
def storeNibble (d : Nat) (base : Dword) (seen e : Nat) : M Unit := do
  let va := nibbleAddr base e
  let v := (← get).elem d 4 e
  let t ← resolve (← get).who .store causeStoreFault va va.toNat
  let (s, rels) := (← get).armedWrite true
  if rels.isEmpty then pure () else awaitSent
  set s
  if dstOf t.loc != dieOfCore s.core.id && !t.checked then
    let m := s.message (BitVec.ofNat 12 s.who.tid) (dstOf t.loc) va (.nibble t.loc (e % 2) v)
    sendWrite { m with race := t.race, rels := rels } t true
  else
    await (s.ordered s.h.ident seen (dstOf t.loc) t.loc 1)
    awaitHome t.loc 1
    checkRace t s.h.clock va
    let old := natOf ((← get).getBytes t.loc 1)
    performWrite t s.h.clock (bits s.h.tid 0 12) rels true [BitVec.ofNat 8 (putField old (4 * (e % 2)) 4 v)]

/-- Addresses of the contiguous forms: `n` bytes apart (R224). -/
def contiguous (base : Dword) (n : Nat) (e : Nat) : Dword := base + BitVec.ofNat 64 (n * e)

/-- Addresses of the strided forms (R224). -/
def strided (base step : Dword) (e : Nat) : Dword := base + BitVec.ofNat 64 e * step

/-- Addresses of the indexed forms, every index read before any element moves (R70, R224). -/
def State.indexed (s : State) (base : Dword) (b : BitVec 5) : Nat → Dword :=
  let idx := ((List.range s.vlen).map fun e => s.elem b.toNat 32 e).toArray
  fun e => base + BitVec.ofNat 64 (idx.getD e 0)

/-- A vector load with addresses `addr`, and `vb` an index group where there is one. -/
def vecLoad (word : Nat) (d : BitVec 5) (e : BitVec 3) (p : BitVec 3) (src : List (BitVec 5 × Nat)) (addr : Nat → Dword) : M Unit :=
  vecGather word (fun vl => groupsOk vl (some (d, widthOf e)) src) p (checkElem .load causeLoadFault addr (widthOf e / 8))
    (loadElem d.toNat (widthOf e) addr)

/-- A vector store. -/
def vecStore (word : Nat) (d : BitVec 5) (e : BitVec 3) (p : BitVec 3) (src : List (BitVec 5 × Nat)) (addr : Nat → Dword) : M Unit :=
  vecMem word (fun vl => groupsOk vl none ((d, widthOf e) :: src)) p (checkElem .store causeStoreFault addr (widthOf e / 8))
    (storeElem d.toNat (widthOf e) addr)

/-- vldm and vstm with code 4 move E2M1 elements of four bits (R225). -/
def vecLoadMasked (word : Nat) (d : BitVec 5) (e : BitVec 3) (p : BitVec 3) (base : Dword) : M Unit :=
  if e = 4 then vecGather word (fun vl => groupsOk vl (some (d, 4)) []) p
      (checkElem .load causeLoadFault (nibbleAddr base) 1) (loadNibble d.toNat base)
  else vecLoad word d e p [] (contiguous base (widthOf e / 8))

/-- The store of that pair. -/
def vecStoreMasked (word : Nat) (d : BitVec 5) (e : BitVec 3) (p : BitVec 3) (base : Dword) : M Unit :=
  if e = 4 then vecMem word (fun vl => groupsOk vl none [(d, 4)]) p
      (checkElem .store causeStoreFault (nibbleAddr base) 1) (storeNibble d.toNat base)
  else vecStore word d e p [] (contiguous base (widthOf e / 8))

/-- VLD: contiguous load (R224). -/
def execVld (d : BitVec 5) (a : BitVec 5) (o : BitVec 11) (e : BitVec 3) (h : BitVec 2) (s : State) : Out :=
  finish (vecLoad (enc5 0x50000000 d 21 a 16 o 5 e 2 h 0) d e 0 [] (contiguous (addrM (s.x a) o (widthOf e / 8)) (widthOf e / 8))) s

/-- VST: contiguous store (R224). -/
def execVst (d : BitVec 5) (a : BitVec 5) (o : BitVec 11) (e : BitVec 3) (h : BitVec 2) (s : State) : Out :=
  finish (vecStore (enc5 0x54000000 d 21 a 16 o 5 e 2 h 0) d e 0 [] (contiguous (addrM (s.x a) o (widthOf e / 8)) (widthOf e / 8))) s

/-- VLDS: strided load (R224). -/
def execVlds (d : BitVec 5) (a : BitVec 5) (b : BitVec 5) (p : BitVec 3) (e : BitVec 3) (s : State) : Out :=
  finish (vecLoad (enc5 0x58000000 d 21 a 16 b 11 p 8 e 5) d e p [] (strided (s.x a) (s.x b))) s

/-- VSTS: strided store (R224). -/
def execVsts (d : BitVec 5) (a : BitVec 5) (b : BitVec 5) (p : BitVec 3) (e : BitVec 3) (s : State) : Out :=
  finish (vecStore (enc5 0x58000001 d 21 a 16 b 11 p 8 e 5) d e p [] (strided (s.x a) (s.x b))) s

/-- VLDX: indexed load (R224). -/
def execVldx (d : BitVec 5) (a : BitVec 5) (b : BitVec 5) (p : BitVec 3) (e : BitVec 3) (s : State) : Out :=
  finish (vecLoad (enc5 0x58000002 d 21 a 16 b 11 p 8 e 5) d e p [(b, 32)] (s.indexed (s.x a) b)) s

/-- VSTX: indexed store (R224). -/
def execVstx (d : BitVec 5) (a : BitVec 5) (b : BitVec 5) (p : BitVec 3) (e : BitVec 3) (s : State) : Out :=
  finish (vecStore (enc5 0x58000003 d 21 a 16 b 11 p 8 e 5) d e p [(b, 32)] (s.indexed (s.x a) b)) s

/-- VLDM: masked load (R224, R225). -/
def execVldm (d : BitVec 5) (a : BitVec 5) (p : BitVec 3) (e : BitVec 3) (s : State) : Out :=
  finish (vecLoadMasked (enc4 0x58000004 d 21 a 16 p 8 e 5) d e p (s.x a)) s

/-- VSTM: masked store (R224, R225). -/
def execVstm (d : BitVec 5) (a : BitVec 5) (p : BitVec 3) (e : BitVec 3) (s : State) : Out :=
  finish (vecStoreMasked (enc4 0x58000005 d 21 a 16 p 8 e 5) d e p (s.x a)) s

/-! ### vappend (R226) -/

/-- The end of the scratchpad window that holds an address. -/
def windowEnd (h : Hart) (g : Option Gang) (va : Nat) : Option (Nat × Nat) :=
  match windowOf h g va with
  | .spot (.priv _ _) => some (windowBase, windowBase + privateSize)
  | .spot (.part _ _) => some (partitionBase, partitionBase + (g.map Gang.partSize).getD 0)
  | _ => none

/-- The active elements stored one after the other from `base`; one by one where the agenda has it so (R191). -/
def appendElems (d w seen : Nat) (base : Dword) : Nat → List Nat → M Unit
  | _, [] => pure ()
  | i, e :: r => do
    allOrNothing (storeElem d w (fun _ => contiguous base (w / 8) i) seen e)
    if (← get).h.ahead && !r.isEmpty then goOn e (contiguous base (w / 8) (i + 1)) else pure ()
    appendElems d w seen base (i + 1) r

/-- vappend (R226). -/
def vecAppend (word : Nat) (d : BitVec 5) (e : BitVec 3) (p : BitVec 3) (ptr : Dword) : M Unit :=
  let w := widthOf e
  vecMemRun word (fun vl => groupsOk vl none [(d, w)]) do
  let s ← get
  let es := s.active p
  let bad (t : Trap) : M Unit := do
    modify State.clearVstart
    raise t
  match es.isEmpty, s.h.amid with
  | true, _ => modify State.clearVstart
  | false, some at_ =>
    appendElems d.toNat w s.seen at_ 0 es
    modify State.endElems
  | false, none =>
    match (if ptr.toNat % 8 != 0 then none else windowEnd s.h (s.gang? s.h.gang) ptr.toNat) with
    | none => bad { cause := causeAtomicFault, value := 0, evv := true }
    | some (lo, hi) =>
      let bytes := es.length * (w / 8)
      let (old, _) ← atomic ⟨1, false, 64, false, 0, false⟩ ptr ptr.toNat bytes 0
      if old % (w / 8) != 0 || decide (old < lo) || decide (hi < old + bytes) then
        set s
        bad { cause := causeStoreFault, value := BitVec.ofNat 64 old }
      else
        appendElems d.toNat w s.seen (BitVec.ofNat 64 old) 0 es
        modify State.endElems

/-- VAPPEND: the active elements appended to a buffer (R226). -/
def execVappend (d : BitVec 5) (a : BitVec 5) (p : BitVec 3) (e : BitVec 3) (s : State) : Out :=
  finish (vecAppend (enc4 0x58000006 d 21 a 16 p 8 e 5) d e p (s.x a)) s

/-! ### Timed vector forms (R229) -/

/-- Element `e` of a timed vector load sent. -/
def sendLoadElem (d w : Nat) (base time : Dword) (_seen e : Nat) : M Unit := do
  let va := contiguous base (w / 8) e
  trapIf (va.toNat % (w / 8) != 0) causeLoadFault va
  sendTimedLoad causeLoadFault va va e (w / 8) time.toNat (.v d (w * e) w 0 e)

/-- Element `e` of a timed vector store sent. -/
def sendStoreElem (d w : Nat) (scope : Nat) (base time : Dword) (_seen e : Nat) : M Unit := do
  let va := contiguous base (w / 8) e
  trapIf (va.toNat % (w / 8) != 0) causeStoreFault va
  let s ← get
  let t ← resolve s.who .store causeStoreFault va va.toNat
  noHost t causeStoreFault va
  let s ← get
  await (s.clearOf s.h.ident t.loc (w / 8))
  let s := { s with h := s.h.released }
  let op := s.timed s.h.hartid s.h.instret.toNat s.issuedAt t va e time.toNat (guardOf s.h.tguard scope)
    (.store (bytesOf (w / 8) (s.elem d w e))) false s.h.clock
  set (s.send (s.message (BitVec.ofNat 12 s.who.tid) (dstOf t.loc) va (.timed op)))

/-- VLD_NB: timed loads of contiguous elements (R229). -/
def execVldNb (d : BitVec 5) (a : BitVec 5) (b : BitVec 5) (p : BitVec 3) (e : BitVec 3) (s : State) : Out :=
  finish (vecGather (enc5 0x58000007 d 21 a 16 b 11 p 8 e 5) (fun vl => groupsOk vl (some (d, widthOf e)) []) p (fun i => checkTimed .load causeLoadFault (widthOf e) (contiguous (s.x a) (widthOf e / 8) i)) (sendLoadElem d.toNat (widthOf e) (s.x a) (s.x b))) s

/-- VST_AT: timed stores of contiguous elements (R229). -/
def execVstAt (d : BitVec 5) (a : BitVec 5) (b : BitVec 5) (p : BitVec 3) (e : BitVec 3) (s' : BitVec 4) (s : State) : Out :=
  finish (vecMem (enc6 0x58000010 d 21 a 16 b 11 p 8 e 5 s' 0) (fun vl => groupsOk vl none [(d, widthOf e)]) p (fun i => checkTimed .store causeStoreFault (widthOf e) (contiguous (s.x a) (widthOf e / 8) i)) (sendStoreElem d.toNat (widthOf e) s'.toNat (s.x a) (s.x b))) s

/-! ### Vector atomics (R233) -/

/-- The operation of a vector atomic in an element type. -/
def State.vecAtomicOp (s : State) (op : Nat) (e : BitVec 3) : AtomicOp :=
  ⟨op, isFloat e, widthOf e, e == 5, s.rm, s.sat⟩

/-- NDET of a floating vector atomic with an active element (R106). -/
def vecNdet (e : BitVec 3) (es : List Nat) : M Unit := issueFloat (isFloat e && !es.isEmpty)

/-- The atomic of element `e` (R230): performed at once with its old value written, or sent to its home. -/
def amoElem (o : AtomicOp) (d : Nat) (addr : Nat → Dword) (seen e : Nat) : M Flags := do
  let va := addr e
  let v := (← get).elem d o.width e
  let t ← resolveAtomic o va va.toNat
  if (← get).sendsOff t (o.width / 8) then
    sendAtomic o va t va.toNat v 0 (.v d (o.width * e) o.width 0 e) true
    pure 0
  else
    let (old, fl) ← atomicHere o seen va t va.toNat v 0
    modify fun s => s.putElem d o.width e old
    pure fl

/-- The reduction of element `e` (R231). -/
def redElem (o : AtomicOp) (d : Nat) (addr : Nat → Dword) (seen e : Nat) : M Flags := do
  reduce o true seen (addr e) ((← get).elem d o.width e)

/-- The flags of an element's atomic noted, for the instruction's end. -/
def noteFlags (m : M Flags) : M Unit := do
  let fl ← m
  modify fun s => { s with h := { s.h with waitFlags := s.h.waitFlags ||| fl } }

/-- The elements of a vector atomic or reduction (R233), with the flags of those that performed at once. -/
def atomicElems (o : AtomicOp) (free : Bool) (addr : Nat → Dword) (f : Nat → Nat → M Flags) (es : List Nat) :
    M (Flags × Option (Nat × Trap)) := do
  let s ← get
  let r ← vecElems (fun e => checkAtomic o free (addr e)) (fun e => noteFlags (f s.seen e)) es
  let fl := (← get).h.waitFlags
  modify fun s => { s.setFlags fl with h := { (s.setFlags fl).h with waitFlags := 0 } }
  pure (fl, r)

/-- A vector atomic (R233): it retires when every sub-operation has reported, and an enabled flag is taken once every
element has performed (R234). -/
def vecAmo (word op : Nat) (d b : BitVec 5) (e p : BitVec 3) (base : Dword) : M Unit :=
  vecMemRun word (fun vl => groupsOk vl (some (d, widthOf e)) [(b, 32)]) do
    let s ← get
    let es := s.active p
    vecNdet e es
    let o := s.vecAtomicOp op e
    let addr := s.indexed base b
    let (fl, r) ← atomicElems o false addr (amoElem o d.toNat addr) es
    vecEnd r
    let s ← get
    if s.h.waitTags.isEmpty && s.h.waitTrap.isNone then retireWithFlags fl
    else set { s.retire with h := { s.retire.h with waitFlags := if r.isNone then fl else 0 } }

/-- A vector return-free reduction (R233). It retires once its elements have been sent, as every return-free reduction
does (R231); that R234's wait for the reports is meant for the forms with results is the model's reading (log 65). -/
def vecRed (word op : Nat) (d b : BitVec 5) (e p : BitVec 3) (base : Dword) : M Unit :=
  vecMemRun word (fun vl => groupsOk vl none [(d, widthOf e), (b, 32)]) do
    let s ← get
    let es := s.active p
    vecNdet e es
    let o := s.vecAtomicOp op e
    let addr := s.indexed base b
    let (_, r) ← atomicElems o true addr (redElem o d.toNat addr) es
    vecEnd r

/-- Element `e` of a vector ordered reduction sent (R235). -/
def sendReduceElem (o : AtomicOp) (scope d : Nat) (base time : Dword) (_seen e : Nat) : M Unit := do
  let va := contiguous base (o.width / 8) e
  reduceOrdered o scope va va e time.toNat ((← get).elem d o.width e)

/-- VAMOSWAP: atomics of indexed elements (R233). -/
def execVamoswap (d : BitVec 5) (a : BitVec 5) (b : BitVec 5) (p : BitVec 3) (e : BitVec 3) (s : State) : Out :=
  finishAt (vecAmo (enc5 0x5C000000 d 21 a 16 b 11 p 8 e 5) 0 d b e p (s.x a)) s

/-- VAMOADD: atomics of indexed elements (R233). -/
def execVamoadd (d : BitVec 5) (a : BitVec 5) (b : BitVec 5) (p : BitVec 3) (e : BitVec 3) (s : State) : Out :=
  finishAt (vecAmo (enc5 0x5C000001 d 21 a 16 b 11 p 8 e 5) 1 d b e p (s.x a)) s

/-- VAMOAND: atomics of indexed elements (R233). -/
def execVamoand (d : BitVec 5) (a : BitVec 5) (b : BitVec 5) (p : BitVec 3) (e : BitVec 3) (s : State) : Out :=
  finishAt (vecAmo (enc5 0x5C000002 d 21 a 16 b 11 p 8 e 5) 2 d b e p (s.x a)) s

/-- VAMOOR: atomics of indexed elements (R233). -/
def execVamoor (d : BitVec 5) (a : BitVec 5) (b : BitVec 5) (p : BitVec 3) (e : BitVec 3) (s : State) : Out :=
  finishAt (vecAmo (enc5 0x5C000003 d 21 a 16 b 11 p 8 e 5) 3 d b e p (s.x a)) s

/-- VAMOXOR: atomics of indexed elements (R233). -/
def execVamoxor (d : BitVec 5) (a : BitVec 5) (b : BitVec 5) (p : BitVec 3) (e : BitVec 3) (s : State) : Out :=
  finishAt (vecAmo (enc5 0x5C000004 d 21 a 16 b 11 p 8 e 5) 4 d b e p (s.x a)) s

/-- VAMOMIN: atomics of indexed elements (R233). -/
def execVamomin (d : BitVec 5) (a : BitVec 5) (b : BitVec 5) (p : BitVec 3) (e : BitVec 3) (s : State) : Out :=
  finishAt (vecAmo (enc5 0x5C000005 d 21 a 16 b 11 p 8 e 5) 5 d b e p (s.x a)) s

/-- VAMOMAX: atomics of indexed elements (R233). -/
def execVamomax (d : BitVec 5) (a : BitVec 5) (b : BitVec 5) (p : BitVec 3) (e : BitVec 3) (s : State) : Out :=
  finishAt (vecAmo (enc5 0x5C000006 d 21 a 16 b 11 p 8 e 5) 6 d b e p (s.x a)) s

/-- VAMOMINN: atomics of indexed elements (R233). -/
def execVamominn (d : BitVec 5) (a : BitVec 5) (b : BitVec 5) (p : BitVec 3) (e : BitVec 3) (s : State) : Out :=
  finishAt (vecAmo (enc5 0x5C000007 d 21 a 16 b 11 p 8 e 5) 7 d b e p (s.x a)) s

/-- VAMOMAXN: atomics of indexed elements (R233). -/
def execVamomaxn (d : BitVec 5) (a : BitVec 5) (b : BitVec 5) (p : BitVec 3) (e : BitVec 3) (s : State) : Out :=
  finishAt (vecAmo (enc5 0x5C000008 d 21 a 16 b 11 p 8 e 5) 8 d b e p (s.x a)) s

/-- VREDADD_IDX: return-free reductions of indexed elements (R233). -/
def execVredaddIdx (d : BitVec 5) (a : BitVec 5) (b : BitVec 5) (p : BitVec 3) (e : BitVec 3) (s : State) : Out :=
  finish (vecRed (enc5 0x5C000009 d 21 a 16 b 11 p 8 e 5) 1 d b e p (s.x a)) s

/-- VREDAND_IDX: return-free reductions of indexed elements (R233). -/
def execVredandIdx (d : BitVec 5) (a : BitVec 5) (b : BitVec 5) (p : BitVec 3) (e : BitVec 3) (s : State) : Out :=
  finish (vecRed (enc5 0x5C00000A d 21 a 16 b 11 p 8 e 5) 2 d b e p (s.x a)) s

/-- VREDOR_IDX: return-free reductions of indexed elements (R233). -/
def execVredorIdx (d : BitVec 5) (a : BitVec 5) (b : BitVec 5) (p : BitVec 3) (e : BitVec 3) (s : State) : Out :=
  finish (vecRed (enc5 0x5C00000B d 21 a 16 b 11 p 8 e 5) 3 d b e p (s.x a)) s

/-- VREDXOR_IDX: return-free reductions of indexed elements (R233). -/
def execVredxorIdx (d : BitVec 5) (a : BitVec 5) (b : BitVec 5) (p : BitVec 3) (e : BitVec 3) (s : State) : Out :=
  finish (vecRed (enc5 0x5C00000C d 21 a 16 b 11 p 8 e 5) 4 d b e p (s.x a)) s

/-- VREDMIN_IDX: return-free reductions of indexed elements (R233). -/
def execVredminIdx (d : BitVec 5) (a : BitVec 5) (b : BitVec 5) (p : BitVec 3) (e : BitVec 3) (s : State) : Out :=
  finish (vecRed (enc5 0x5C00000D d 21 a 16 b 11 p 8 e 5) 5 d b e p (s.x a)) s

/-- VREDMAX_IDX: return-free reductions of indexed elements (R233). -/
def execVredmaxIdx (d : BitVec 5) (a : BitVec 5) (b : BitVec 5) (p : BitVec 3) (e : BitVec 3) (s : State) : Out :=
  finish (vecRed (enc5 0x5C00000E d 21 a 16 b 11 p 8 e 5) 6 d b e p (s.x a)) s

/-- VREDMINN_IDX: return-free reductions of indexed elements (R233). -/
def execVredminnIdx (d : BitVec 5) (a : BitVec 5) (b : BitVec 5) (p : BitVec 3) (e : BitVec 3) (s : State) : Out :=
  finish (vecRed (enc5 0x5C00000F d 21 a 16 b 11 p 8 e 5) 7 d b e p (s.x a)) s

/-- VREDMAXN_IDX: return-free reductions of indexed elements (R233). -/
def execVredmaxnIdx (d : BitVec 5) (a : BitVec 5) (b : BitVec 5) (p : BitVec 3) (e : BitVec 3) (s : State) : Out :=
  finish (vecRed (enc5 0x5C000010 d 21 a 16 b 11 p 8 e 5) 8 d b e p (s.x a)) s

/-- VRED_ORD_ADD: ordered sums of contiguous elements (R235). -/
def execVredOrdAdd (d : BitVec 5) (a : BitVec 5) (b : BitVec 5) (p : BitVec 3) (e : BitVec 3) (f : BitVec 5) (s : State) : Out :=
  finish (vecMem (enc6 0x5C000000 d 21 a 16 b 11 p 8 e 5 f 0) (fun vl => groupsOk vl none [(d, widthOf e)]) p (fun i => checkTimed .atomic causeAtomicFault (widthOf e) (contiguous (s.x a) (widthOf e / 8) i)) (sendReduceElem (s.vecAtomicOp 1 e) (f.toNat - 0x11) d.toNat (s.x a) (s.x b))) s

end Sys2Proof.Machine
end

