-- ==== Sys2Proof/Machine/Vector.lean ====
section
/-! DEFINITION. Integer element-wise vector instructions (R127), selection (R132), and their vector-scalar and
vector-immediate forms (R131). -/

namespace Sys2Proof.Machine

/-- An element-wise instruction that raises no flag: `f` gives each active element of the destination from the state
before any is written (R122). -/
def vecMap (word : Nat) (ok : Nat → Bool) (p : BitVec 3) (d w : Nat) (f : State → Nat → Nat) : M Unit := do
  vecRun word ok do
    modify fun s => (s.putElems d w ((s.active p).map fun e => (e, f s e))).clearVstart

/-- An element-wise comparison that raises no flag: only the mask bits of active elements are written. -/
def vecTest (word : Nat) (ok : Nat → Bool) (p : BitVec 3) (d : Nat) (f : State → Nat → Bool) : M Unit := do
  vecRun word ok do
    modify fun s => (s.putMaskBits d ((s.active p).map fun e => (e, f s e))).clearVstart

/-- An integer instruction on two vectors (R127). -/
def vecInt (word : Nat) (d a b : BitVec 5) (p e : BitVec 3) (f : Nat → Nat → Nat → Nat) : M Unit :=
  let w := widthOf e
  vecMap word (fun vl => groupsOk vl (some (d, w)) [(a, w), (b, w)]) p d.toNat w
    fun s i => f w (s.elem a.toNat w i) (s.elem b.toNat w i)

/-- An integer instruction on one vector (R127). -/
def vecInt1 (word : Nat) (d a : BitVec 5) (p e : BitVec 3) (f : Nat → Nat → Nat) : M Unit :=
  let w := widthOf e
  vecMap word (fun vl => groupsOk vl (some (d, w)) [(a, w)]) p d.toNat w fun s i => f w (s.elem a.toNat w i)

/-- An integer comparison of two vectors (R127). -/
def vecCompare (word : Nat) (d a b : BitVec 5) (p e : BitVec 3) (f : Nat → Nat → Nat → Bool) : M Unit :=
  let w := widthOf e
  vecTest word (fun vl => groupsOk vl none [(a, w), (b, w)]) p d.toNat
    fun s i => f w (s.elem a.toNat w i) (s.elem b.toNat w i)

/-- The scalar operand of OP 0x25 (R131): X[b], or the immediate, zero-extended for the shifts. -/
def State.vxOperand (s : State) (b : BitVec 5) (x : BitVec 1) (shift : Bool) (w : Nat) : Nat :=
  if x = 0 then nread (s.x b) w else if shift then b.toNat else wrap (signExtend b.toNat 5) w

/-- An integer instruction on a vector and a scalar operand (R131). -/
def vecIntX (word : Nat) (d a b : BitVec 5) (p e : BitVec 3) (x : BitVec 1) (shift : Bool) (f : Nat → Nat → Nat → Nat) : M Unit :=
  let w := widthOf e
  vecMap word (fun vl => groupsOk vl (some (d, w)) [(a, w)]) p d.toNat w
    fun s i => f w (s.elem a.toNat w i) (s.vxOperand b x shift w)

/-! The element operations of R127, at width `w`. -/

def elemAdd (w a b : Nat) : Nat := (a + b) % 2 ^ w
def elemSub (w a b : Nat) : Nat := (a + 2 ^ w - b) % 2 ^ w
def elemMul (w a b : Nat) : Nat := a * b % 2 ^ w
def elemMulh (w a b : Nat) : Nat := wrap (signExtend a w * signExtend b w / (2 ^ w : Nat)) w
def elemMulhn (w a b : Nat) : Nat := a * b / 2 ^ w
def elemSll (w a b : Nat) : Nat := a * 2 ^ (b % w) % 2 ^ w
def elemSrl (w a b : Nat) : Nat := a / 2 ^ (b % w)
def elemSra (w a b : Nat) : Nat := wrap (signExtend a w / (2 ^ (b % w) : Nat)) w
def elemLess (w a b : Nat) : Bool := decide (signExtend a w < signExtend b w)
def elemMin (w a b : Nat) : Nat := if elemLess w b a then b else a
def elemMax (w a b : Nat) : Nat := if elemLess w a b then b else a
/-- An integer clamped to the signed range of width `w`. -/
def elemClamp (w : Nat) (i : Int) : Nat := wrap (clampInt (-(2 ^ (w - 1) : Nat)) ((2 ^ (w - 1) : Nat) - 1) i) w
def elemAdds (w a b : Nat) : Nat := elemClamp w (signExtend a w + signExtend b w)
def elemSubs (w a b : Nat) : Nat := elemClamp w (signExtend a w - signExtend b w)

/-- VADD: sum (R127). -/
def execVadd (d : BitVec 5) (a : BitVec 5) (b : BitVec 5) (p : BitVec 3) (e : BitVec 3) (s : State) : Out :=
  finish (vecInt (enc5 0x80000000 d 21 a 16 b 11 p 8 e 5) d a b p e elemAdd) s

/-- VSUB: difference (R127). -/
def execVsub (d : BitVec 5) (a : BitVec 5) (b : BitVec 5) (p : BitVec 3) (e : BitVec 3) (s : State) : Out :=
  finish (vecInt (enc5 0x80000001 d 21 a 16 b 11 p 8 e 5) d a b p e elemSub) s

/-- VMUL: low half of the product (R127). -/
def execVmul (d : BitVec 5) (a : BitVec 5) (b : BitVec 5) (p : BitVec 3) (e : BitVec 3) (s : State) : Out :=
  finish (vecInt (enc5 0x80000002 d 21 a 16 b 11 p 8 e 5) d a b p e elemMul) s

/-- VMULH: high half, signed (R127). -/
def execVmulh (d : BitVec 5) (a : BitVec 5) (b : BitVec 5) (p : BitVec 3) (e : BitVec 3) (s : State) : Out :=
  finish (vecInt (enc5 0x80000003 d 21 a 16 b 11 p 8 e 5) d a b p e elemMulh) s

/-- VMULHN: high half, natural (R127). -/
def execVmulhn (d : BitVec 5) (a : BitVec 5) (b : BitVec 5) (p : BitVec 3) (e : BitVec 3) (s : State) : Out :=
  finish (vecInt (enc5 0x80000004 d 21 a 16 b 11 p 8 e 5) d a b p e elemMulhn) s

/-- VAND: bitwise AND (R127). -/
def execVand (d : BitVec 5) (a : BitVec 5) (b : BitVec 5) (p : BitVec 3) (e : BitVec 3) (s : State) : Out :=
  finish (vecInt (enc5 0x80000005 d 21 a 16 b 11 p 8 e 5) d a b p e (fun _ x y => x &&& y)) s

/-- VOR: bitwise OR (R127). -/
def execVor (d : BitVec 5) (a : BitVec 5) (b : BitVec 5) (p : BitVec 3) (e : BitVec 3) (s : State) : Out :=
  finish (vecInt (enc5 0x80000006 d 21 a 16 b 11 p 8 e 5) d a b p e (fun _ x y => x ||| y)) s

/-- VXOR: bitwise exclusive OR (R127). -/
def execVxor (d : BitVec 5) (a : BitVec 5) (b : BitVec 5) (p : BitVec 3) (e : BitVec 3) (s : State) : Out :=
  finish (vecInt (enc5 0x80000007 d 21 a 16 b 11 p 8 e 5) d a b p e (fun _ x y => x ^^^ y)) s

/-- VSLL: shift left (R127). -/
def execVsll (d : BitVec 5) (a : BitVec 5) (b : BitVec 5) (p : BitVec 3) (e : BitVec 3) (s : State) : Out :=
  finish (vecInt (enc5 0x80000008 d 21 a 16 b 11 p 8 e 5) d a b p e elemSll) s

/-- VSRL: shift right, natural (R127). -/
def execVsrl (d : BitVec 5) (a : BitVec 5) (b : BitVec 5) (p : BitVec 3) (e : BitVec 3) (s : State) : Out :=
  finish (vecInt (enc5 0x80000009 d 21 a 16 b 11 p 8 e 5) d a b p e elemSrl) s

/-- VSRA: shift right, signed (R127). -/
def execVsra (d : BitVec 5) (a : BitVec 5) (b : BitVec 5) (p : BitVec 3) (e : BitVec 3) (s : State) : Out :=
  finish (vecInt (enc5 0x8000000A d 21 a 16 b 11 p 8 e 5) d a b p e elemSra) s

/-- VMIN: signed minimum (R127). -/
def execVmin (d : BitVec 5) (a : BitVec 5) (b : BitVec 5) (p : BitVec 3) (e : BitVec 3) (s : State) : Out :=
  finish (vecInt (enc5 0x8000000B d 21 a 16 b 11 p 8 e 5) d a b p e elemMin) s

/-- VMAX: signed maximum (R127). -/
def execVmax (d : BitVec 5) (a : BitVec 5) (b : BitVec 5) (p : BitVec 3) (e : BitVec 3) (s : State) : Out :=
  finish (vecInt (enc5 0x8000000C d 21 a 16 b 11 p 8 e 5) d a b p e elemMax) s

/-- VMINN: natural minimum (R127). -/
def execVminn (d : BitVec 5) (a : BitVec 5) (b : BitVec 5) (p : BitVec 3) (e : BitVec 3) (s : State) : Out :=
  finish (vecInt (enc5 0x8000000D d 21 a 16 b 11 p 8 e 5) d a b p e (fun _ x y => min x y)) s

/-- VMAXN: natural maximum (R127). -/
def execVmaxn (d : BitVec 5) (a : BitVec 5) (b : BitVec 5) (p : BitVec 3) (e : BitVec 3) (s : State) : Out :=
  finish (vecInt (enc5 0x8000000E d 21 a 16 b 11 p 8 e 5) d a b p e (fun _ x y => max x y)) s

/-- VADDS: clamped sum, signed (R127). -/
def execVadds (d : BitVec 5) (a : BitVec 5) (b : BitVec 5) (p : BitVec 3) (e : BitVec 3) (s : State) : Out :=
  finish (vecInt (enc5 0x8000000F d 21 a 16 b 11 p 8 e 5) d a b p e elemAdds) s

/-- VADDSN: clamped sum, natural (R127). -/
def execVaddsn (d : BitVec 5) (a : BitVec 5) (b : BitVec 5) (p : BitVec 3) (e : BitVec 3) (s : State) : Out :=
  finish (vecInt (enc5 0x80000010 d 21 a 16 b 11 p 8 e 5) d a b p e (fun w x y => min (x + y) (2 ^ w - 1))) s

/-- VSUBS: clamped difference, signed (R127). -/
def execVsubs (d : BitVec 5) (a : BitVec 5) (b : BitVec 5) (p : BitVec 3) (e : BitVec 3) (s : State) : Out :=
  finish (vecInt (enc5 0x80000011 d 21 a 16 b 11 p 8 e 5) d a b p e elemSubs) s

/-- VSUBSN: clamped difference, natural (R127). -/
def execVsubsn (d : BitVec 5) (a : BitVec 5) (b : BitVec 5) (p : BitVec 3) (e : BitVec 3) (s : State) : Out :=
  finish (vecInt (enc5 0x80000012 d 21 a 16 b 11 p 8 e 5) d a b p e (fun _ x y => x - y)) s

/-- VABS: absolute value (R127). -/
def execVabs (d : BitVec 5) (a : BitVec 5) (p : BitVec 3) (e : BitVec 3) (s : State) : Out :=
  finish (vecInt1 (enc4 0x80000013 d 21 a 16 p 8 e 5) d a p e (fun w x => wrap (signExtend x w).natAbs w)) s

/-- VNEG: negation (R127). -/
def execVneg (d : BitVec 5) (a : BitVec 5) (p : BitVec 3) (e : BitVec 3) (s : State) : Out :=
  finish (vecInt1 (enc4 0x80000014 d 21 a 16 p 8 e 5) d a p e (fun w x => elemSub w 0 x)) s

/-- VCLZ: leading zeros (R127). -/
def execVclz (d : BitVec 5) (a : BitVec 5) (p : BitVec 3) (e : BitVec 3) (s : State) : Out :=
  finish (vecInt1 (enc4 0x80000015 d 21 a 16 p 8 e 5) d a p e (fun w x => leadingZeros x w)) s

/-- VPOPC: number of 1 bits (R127). -/
def execVpopc (d : BitVec 5) (a : BitVec 5) (p : BitVec 3) (e : BitVec 3) (s : State) : Out :=
  finish (vecInt1 (enc4 0x80000016 d 21 a 16 p 8 e 5) d a p e (fun w x => popcount x w)) s

/-- VCEQ: equal, to a mask (R127). -/
def execVceq (d : BitVec 5) (a : BitVec 5) (b : BitVec 5) (p : BitVec 3) (e : BitVec 3) (s : State) : Out :=
  finish (vecCompare (enc5 0x80000018 d 21 a 16 b 11 p 8 e 5) d a b p e (fun _ x y => x == y)) s

/-- VCNE: not equal, to a mask (R127). -/
def execVcne (d : BitVec 5) (a : BitVec 5) (b : BitVec 5) (p : BitVec 3) (e : BitVec 3) (s : State) : Out :=
  finish (vecCompare (enc5 0x80000019 d 21 a 16 b 11 p 8 e 5) d a b p e (fun _ x y => x != y)) s

/-- VCLT: less, signed, to a mask (R127). -/
def execVclt (d : BitVec 5) (a : BitVec 5) (b : BitVec 5) (p : BitVec 3) (e : BitVec 3) (s : State) : Out :=
  finish (vecCompare (enc5 0x8000001A d 21 a 16 b 11 p 8 e 5) d a b p e elemLess) s

/-- VCLE: at most, signed, to a mask (R127). -/
def execVcle (d : BitVec 5) (a : BitVec 5) (b : BitVec 5) (p : BitVec 3) (e : BitVec 3) (s : State) : Out :=
  finish (vecCompare (enc5 0x8000001B d 21 a 16 b 11 p 8 e 5) d a b p e (fun w x y => !elemLess w y x)) s

/-- VCLTN: less, natural, to a mask (R127). -/
def execVcltn (d : BitVec 5) (a : BitVec 5) (b : BitVec 5) (p : BitVec 3) (e : BitVec 3) (s : State) : Out :=
  finish (vecCompare (enc5 0x8000001C d 21 a 16 b 11 p 8 e 5) d a b p e (fun _ x y => decide (x < y))) s

/-- VCLEN: at most, natural, to a mask (R127). -/
def execVclen (d : BitVec 5) (a : BitVec 5) (b : BitVec 5) (p : BitVec 3) (e : BitVec 3) (s : State) : Out :=
  finish (vecCompare (enc5 0x8000001D d 21 a 16 b 11 p 8 e 5) d a b p e (fun _ x y => decide (x ≤ y))) s

/-- vmerge (R132): every element from VSTART on, from `a` where the selector is set, else from `b`. -/
def vecMerge (word : Nat) (d a b : BitVec 5) (p e : BitVec 3) : M Unit := do
  let w := widthOf e
  vecRun word (fun vl => groupsOk vl (some (d, w)) [(a, w), (b, w)]) do
    modify fun s => (s.putElems d.toNat w ((s.activeFrom s.vstartN 0).map fun i =>
      (i, s.elem (if (s.mreg p.toNat).getLsbD i then a.toNat else b.toNat) w i))).clearVstart

/-- VMERGE: selection by a mask (R132). -/
def execVmerge (d : BitVec 5) (a : BitVec 5) (b : BitVec 5) (p : BitVec 3) (e : BitVec 3) (s : State) : Out :=
  finish (vecMerge (enc5 0x8000001E d 21 a 16 b 11 p 8 e 5) d a b p e) s

/-! ### Vector-scalar and vector-immediate forms -/

/-- VADD_VX: as vadd, with a scalar operand (R131). -/
def execVaddVx (d : BitVec 5) (a : BitVec 5) (b : BitVec 5) (p : BitVec 3) (e : BitVec 3) (x : BitVec 1) (s : State) : Out :=
  finish (vecIntX (enc6 0x94000000 d 21 a 16 b 11 p 8 e 5 x 4) d a b p e x false elemAdd) s

/-- VSUB_VX: as vsub, with a scalar operand (R131). -/
def execVsubVx (d : BitVec 5) (a : BitVec 5) (b : BitVec 5) (p : BitVec 3) (e : BitVec 3) (x : BitVec 1) (s : State) : Out :=
  finish (vecIntX (enc6 0x94000001 d 21 a 16 b 11 p 8 e 5 x 4) d a b p e x false elemSub) s

/-- VRSUB_VX: S - a, with a scalar operand (R131). -/
def execVrsubVx (d : BitVec 5) (a : BitVec 5) (b : BitVec 5) (p : BitVec 3) (e : BitVec 3) (x : BitVec 1) (s : State) : Out :=
  finish (vecIntX (enc6 0x94000002 d 21 a 16 b 11 p 8 e 5 x 4) d a b p e x false (fun w x y => elemSub w y x)) s

/-- VMUL_VX: as vmul, with a scalar operand (R131). -/
def execVmulVx (d : BitVec 5) (a : BitVec 5) (b : BitVec 5) (p : BitVec 3) (e : BitVec 3) (x : BitVec 1) (s : State) : Out :=
  finish (vecIntX (enc6 0x94000003 d 21 a 16 b 11 p 8 e 5 x 4) d a b p e x false elemMul) s

/-- VAND_VX: as vand, with a scalar operand (R131). -/
def execVandVx (d : BitVec 5) (a : BitVec 5) (b : BitVec 5) (p : BitVec 3) (e : BitVec 3) (x : BitVec 1) (s : State) : Out :=
  finish (vecIntX (enc6 0x94000004 d 21 a 16 b 11 p 8 e 5 x 4) d a b p e x false (fun _ x y => x &&& y)) s

/-- VOR_VX: as vor, with a scalar operand (R131). -/
def execVorVx (d : BitVec 5) (a : BitVec 5) (b : BitVec 5) (p : BitVec 3) (e : BitVec 3) (x : BitVec 1) (s : State) : Out :=
  finish (vecIntX (enc6 0x94000005 d 21 a 16 b 11 p 8 e 5 x 4) d a b p e x false (fun _ x y => x ||| y)) s

/-- VXOR_VX: as vxor, with a scalar operand (R131). -/
def execVxorVx (d : BitVec 5) (a : BitVec 5) (b : BitVec 5) (p : BitVec 3) (e : BitVec 3) (x : BitVec 1) (s : State) : Out :=
  finish (vecIntX (enc6 0x94000006 d 21 a 16 b 11 p 8 e 5 x 4) d a b p e x false (fun _ x y => x ^^^ y)) s

/-- VSLL_VX: as vsll, with a scalar operand (R131). -/
def execVsllVx (d : BitVec 5) (a : BitVec 5) (b : BitVec 5) (p : BitVec 3) (e : BitVec 3) (x : BitVec 1) (s : State) : Out :=
  finish (vecIntX (enc6 0x94000007 d 21 a 16 b 11 p 8 e 5 x 4) d a b p e x true elemSll) s

/-- VSRL_VX: as vsrl, with a scalar operand (R131). -/
def execVsrlVx (d : BitVec 5) (a : BitVec 5) (b : BitVec 5) (p : BitVec 3) (e : BitVec 3) (x : BitVec 1) (s : State) : Out :=
  finish (vecIntX (enc6 0x94000008 d 21 a 16 b 11 p 8 e 5 x 4) d a b p e x true elemSrl) s

/-- VSRA_VX: as vsra, with a scalar operand (R131). -/
def execVsraVx (d : BitVec 5) (a : BitVec 5) (b : BitVec 5) (p : BitVec 3) (e : BitVec 3) (x : BitVec 1) (s : State) : Out :=
  finish (vecIntX (enc6 0x94000009 d 21 a 16 b 11 p 8 e 5 x 4) d a b p e x true elemSra) s

/-- VMIN_VX: as vmin, with a scalar operand (R131). -/
def execVminVx (d : BitVec 5) (a : BitVec 5) (b : BitVec 5) (p : BitVec 3) (e : BitVec 3) (x : BitVec 1) (s : State) : Out :=
  finish (vecIntX (enc6 0x9400000A d 21 a 16 b 11 p 8 e 5 x 4) d a b p e x false elemMin) s

/-- VMAX_VX: as vmax, with a scalar operand (R131). -/
def execVmaxVx (d : BitVec 5) (a : BitVec 5) (b : BitVec 5) (p : BitVec 3) (e : BitVec 3) (x : BitVec 1) (s : State) : Out :=
  finish (vecIntX (enc6 0x9400000B d 21 a 16 b 11 p 8 e 5 x 4) d a b p e x false elemMax) s

/-- vceq with a scalar operand (R131). -/
def vecEqX (word : Nat) (d a b : BitVec 5) (p e : BitVec 3) (x : BitVec 1) : M Unit :=
  let w := widthOf e
  vecTest word (fun vl => groupsOk vl none [(a, w)]) p d.toNat fun s i => s.elem a.toNat w i == s.vxOperand b x false w

/-- VCEQ_VX: as vceq, with a scalar operand (R131). -/
def execVceqVx (d : BitVec 5) (a : BitVec 5) (b : BitVec 5) (p : BitVec 3) (e : BitVec 3) (x : BitVec 1) (s : State) : Out :=
  finish (vecEqX (enc6 0x9400000F d 21 a 16 b 11 p 8 e 5 x 4) d a b p e x) s

end Sys2Proof.Machine
end

