-- ==== Sys2Proof/Machine/VecFloat.lean ====
section
/-! DEFINITION. Floating-point vector instructions (R128 to R130), the special functions (R129), conversions and
mixed-width multiplies (R133 to R136), flags and traps of the flag-capable instructions (R124). -/

namespace Sys2Proof.Machine

/-! ### The special functions, correctly rounded (R129) -/

/-- The places of the fixed-point numbers below. -/
def fixP : Nat := 320

/-- The sum over odd k of z^k / k for a fixed-point z of at most 1/3, `n` terms from k, with z^k and z^2 given. -/
def atanhSum (z2 : Nat) : Nat → Nat → Nat → Nat
  | 0, _, _ => 0
  | n + 1, k, zk => zk / k + atanhSum z2 n (k + 2) (zk * z2 / 2 ^ fixP)

/-- Twice the inverse hyperbolic tangent of a fixed-point z of at most 1/3. -/
def atanh2 (z : Nat) : Nat := 2 * atanhSum (z * z / 2 ^ fixP) 110 1 z

/-- The natural logarithm of 2 in fixed point. -/
def lnTwo : Nat := atanh2 (2 ^ fixP / 3)

/-- The exponential series of a fixed-point t below 1: `n` terms from the k-th, with t^k / k! given. -/
def expSum (t : Nat) : Nat → Nat → Nat → Nat
  | 0, _, _ => 0
  | n + 1, k, term => term + expSum t n (k + 1) (term * t / 2 ^ fixP / (k + 1))

/-- 2^f in fixed point for a fixed-point f below 1. -/
def exp2Frac (f : Nat) : Nat := expSum (f * lnTwo / 2 ^ fixP) 80 0 (2 ^ fixP)

/-- vfrecip (R129). -/
def Fmt.recip (f : Fmt) (mode : Nat) (sat : Bool) (x : Num) : Nat × Flags := f.quot mode sat (.fin false 1 0) x

/-- vfrsqrt (R129). -/
def Fmt.rsqrt (f : Fmt) (mode : Nat) (sat : Bool) : Num → Nat × Flags
  | .nan => f.round mode sat .nan
  | .inf s => if s then (f.canonical, flagNV) else f.round mode sat (.fin false 0 0)
  | .fin s m e =>
    if m = 0 then
      let r := f.round mode sat (.inf s)
      (r.1, r.2 ||| flagDZ)
    else if s then (f.canonical, flagNV)
    else
      let (n, k) := evenScale m e
      let r := isqrt (2 ^ 800 / n)
      f.roundFin mode sat false r (-400 - k) (r * r * n != 2 ^ 800)

/-- vfexp2 (R129): an exponent beyond every format's range is taken at the end of that range. -/
def Fmt.exp2 (f : Fmt) (mode : Nat) (sat : Bool) : Num → Nat × Flags
  | .nan => f.round mode sat .nan
  | .inf s => f.round mode sat (if s then .fin false 0 0 else .inf false)
  | .fin s m e =>
    if 0 ≤ e ∨ m % 2 ^ (-e).toNat = 0 then
      let k : Int := (shiftInt m e : Nat)
      f.round mode sat (.fin false 1 (clampInt (-2000) 2000 (if s then -k else k)))
    else
      let x : Int := (m * 2 ^ ((fixP : Int) + e).toNat : Nat)
      let x := if s then -x else x
      let k := x / (2 ^ fixP : Nat)
      let y := exp2Frac (x % (2 ^ fixP : Nat)).toNat
      f.roundFin mode sat false y (clampInt (-2000) 2000 k - fixP) true

/-- vflog2 (R129). That the zero of vflog2(1.0) is +0 in every rounding mode is the model's choice: R97, to which R96 refers an
exact zero, speaks of sums and products only (log 66). -/
def Fmt.log2 (f : Fmt) (mode : Nat) (sat : Bool) : Num → Nat × Flags
  | .nan => f.round mode sat .nan
  | .inf s => if s then (f.canonical, flagNV) else f.round mode sat (.inf false)
  | .fin s m e =>
    if m = 0 then
      let r := f.round mode sat (.inf true)
      (r.1, r.2 ||| flagDZ)
    else if s then (f.canonical, flagNV)
    else
      let l := bitLength m - 1
      if m = 2 ^ l then f.round mode sat (numOfInt (e + l) 0 false)
      else
        let x := m * 2 ^ (fixP - l)
        let z := (x - 2 ^ fixP) * 2 ^ fixP / (x + 2 ^ fixP)
        let t : Int := (e + l) * (2 ^ fixP : Nat) + (atanh2 z * 2 ^ fixP / lnTwo : Nat)
        f.roundFin mode sat (decide (t < 0)) t.natAbs (-(fixP : Int)) true

/-! ### Flags of element-wise instructions (R124) -/

/-- An element's result: its index, value and flags. -/
structure ElemResult where
  e : Nat
  value : Nat
  flags : Flags
deriving DecidableEq, Repr

/-- The results below the first one that raises an enabled flag, and that one. -/
def cutAt (fte : Flags) : List ElemResult → List ElemResult × Option ElemResult
  | [] => ([], none)
  | r :: rest =>
    if r.flags &&& fte = 0 then
      let (below, at_) := cutAt fte rest
      (r :: below, at_)
    else ([], some r)

/-- The results of an element-wise flag-capable instruction put in place by `put`, with their flags, up to the first
enabled one, which traps with VSTART at its element (R124). -/
def settleElems (put : State → List (Nat × Nat) → State) (rs : List ElemResult) : M Unit := do
  let s ← get
  let (below, at_) := cutAt s.fte rs
  let fl := below.foldl (fun (fl : Flags) r => fl ||| r.flags) 0
  let s := (put s (below.map fun r => (r.e, r.value))).setFlags fl
  match at_ with
  | none => set s.clearVstart
  | some r =>
    let s := s.setFlags r.flags
    set { s with h := { s.h with vstart := BitVec.ofNat 64 r.e } }
    fpEnabled (r.flags &&& s.fte)

/-- A flag-capable element-wise instruction: `f` gives an element's value and flags from the state before. -/
def vecMapF (word : Nat) (ok : Nat → Bool) (p : BitVec 3) (d w : Nat) (f : State → Nat → Nat × Flags) : M Unit := do
  vecRun word ok do
    let s ← get
    settleElems (fun s vs => s.putElems d w vs) ((s.active p).map fun i => ⟨i, (f s i).1, (f s i).2⟩)

/-- A floating instruction on two vectors: `f` gets the format, mode, SAT and the values D, A, B (R128). -/
def vecFloat (word : Nat) (d a b : BitVec 5) (p e : BitVec 3)
    (f : Fmt → Nat → Bool → Num → Num → Num → Nat × Flags) : M Unit :=
  let w := widthOf e
  let fmt := fmtOf e.toNat
  vecMapF word (fun vl => groupsOk vl (some (d, w)) [(a, w), (b, w)]) p d.toNat w fun s i =>
    f fmt s.rm s.sat (fmt.value (s.elem d.toNat w i)) (fmt.value (s.elem a.toNat w i)) (fmt.value (s.elem b.toNat w i))

/-- A floating instruction on one vector (R128, R129). -/
def vecFloat1 (word : Nat) (d a : BitVec 5) (p e : BitVec 3) (f : Fmt → Nat → Bool → Num → Nat × Flags) : M Unit :=
  let w := widthOf e
  let fmt := fmtOf e.toNat
  vecMapF word (fun vl => groupsOk vl (some (d, w)) [(a, w)]) p d.toNat w fun s i =>
    f fmt s.rm s.sat (fmt.value (s.elem a.toNat w i))

/-- A floating instruction that neither rounds nor raises a flag, on encodings (R130). -/
def vecFloatBits (word : Nat) (d a b : BitVec 5) (p e : BitVec 3) (f : Fmt → Nat → Nat → Nat) : M Unit :=
  vecInt word d a b p e fun _ x y => f (fmtOf e.toNat) x y

/-- Such an instruction on one vector (R130). -/
def vecFloatBits1 (word : Nat) (d a : BitVec 5) (p e : BitVec 3) (f : Fmt → Nat → Nat) : M Unit :=
  vecInt1 word d a p e fun _ x => f (fmtOf e.toNat) x

/-- A floating comparison to a mask; `nv` tells that a NaN operand raises NV (R130). -/
def vecFloatTest (word : Nat) (d a b : BitVec 5) (p e : BitVec 3) (nv : Bool) (f : Num → Num → Bool) : M Unit := do
  let w := widthOf e
  let fmt := fmtOf e.toNat
  vecRun word (fun vl => groupsOk vl none [(a, w), (b, w)]) do
    let s ← get
    let one (i : Nat) : ElemResult :=
      let x := fmt.value (s.elem a.toNat w i)
      let y := fmt.value (s.elem b.toNat w i)
      ⟨i, bitOf (f x y), if nv && (x.isNan || y.isNan) then flagNV else 0⟩
    settleElems (fun s vs => s.putMaskBits d.toNat (vs.map fun v => (v.1, v.2 == 1))) ((s.active p).map one)

/-- A floating instruction on a vector and the low bits of an x register (R131). -/
def vecFloatX (word : Nat) (d a b : BitVec 5) (p e : BitVec 3)
    (f : Fmt → Nat → Bool → Num → Num → Num → Nat × Flags) : M Unit :=
  let w := widthOf e
  let fmt := fmtOf e.toNat
  vecMapF word (fun vl => groupsOk vl (some (d, w)) [(a, w)]) p d.toNat w fun s i =>
    f fmt s.rm s.sat (fmt.value (s.elem d.toNat w i)) (fmt.value (s.elem a.toNat w i)) (fmt.value (nread (s.x b) w))

/-- VFADD: A + B rounded once (R128). -/
def execVfadd (d : BitVec 5) (a : BitVec 5) (b : BitVec 5) (p : BitVec 3) (e : BitVec 3) (s : State) : Out :=
  finish (vecFloat (enc5 0x84000000 d 21 a 16 b 11 p 8 e 5) d a b p e (fun f m sat _ x y => f.sum m sat [x, y])) s

/-- VFSUB: A - B rounded once (R128). -/
def execVfsub (d : BitVec 5) (a : BitVec 5) (b : BitVec 5) (p : BitVec 3) (e : BitVec 3) (s : State) : Out :=
  finish (vecFloat (enc5 0x84000001 d 21 a 16 b 11 p 8 e 5) d a b p e (fun f m sat _ x y => f.sum m sat [x, y.neg])) s

/-- VFMUL: A x B rounded once (R128). -/
def execVfmul (d : BitVec 5) (a : BitVec 5) (b : BitVec 5) (p : BitVec 3) (e : BitVec 3) (s : State) : Out :=
  finish (vecFloat (enc5 0x84000002 d 21 a 16 b 11 p 8 e 5) d a b p e (fun f m sat _ x y => f.prod m sat x y)) s

/-- VFDIV: A / B rounded once (R128). -/
def execVfdiv (d : BitVec 5) (a : BitVec 5) (b : BitVec 5) (p : BitVec 3) (e : BitVec 3) (s : State) : Out :=
  finish (vecFloat (enc5 0x84000003 d 21 a 16 b 11 p 8 e 5) d a b p e (fun f m sat _ x y => f.quot m sat x y)) s

/-- VFSQRT: the square root rounded once (R128). -/
def execVfsqrt (d : BitVec 5) (a : BitVec 5) (p : BitVec 3) (e : BitVec 3) (s : State) : Out :=
  finish (vecFloat1 (enc4 0x84000004 d 21 a 16 p 8 e 5) d a p e Fmt.root) s

/-- VFMIN: minimum (R130). -/
def execVfmin (d : BitVec 5) (a : BitVec 5) (b : BitVec 5) (p : BitVec 3) (e : BitVec 3) (s : State) : Out :=
  finish (vecFloatBits (enc5 0x84000005 d 21 a 16 b 11 p 8 e 5) d a b p e (fun f x y => f.minMax false x y)) s

/-- VFMAX: maximum (R130). -/
def execVfmax (d : BitVec 5) (a : BitVec 5) (b : BitVec 5) (p : BitVec 3) (e : BitVec 3) (s : State) : Out :=
  finish (vecFloatBits (enc5 0x84000006 d 21 a 16 b 11 p 8 e 5) d a b p e (fun f x y => f.minMax true x y)) s

/-- VFMAC: D + A x B rounded once (R128). -/
def execVfmac (d : BitVec 5) (a : BitVec 5) (b : BitVec 5) (p : BitVec 3) (e : BitVec 3) (s : State) : Out :=
  finish (vecFloat (enc5 0x84000007 d 21 a 16 b 11 p 8 e 5) d a b p e (fun f m sat z x y => f.fused m sat z x y false)) s

/-- VFMSC: D - A x B rounded once (R128). -/
def execVfmsc (d : BitVec 5) (a : BitVec 5) (b : BitVec 5) (p : BitVec 3) (e : BitVec 3) (s : State) : Out :=
  finish (vecFloat (enc5 0x84000008 d 21 a 16 b 11 p 8 e 5) d a b p e (fun f m sat z x y => f.fused m sat z x y true)) s

/-- VFNMAC: -D - A x B rounded once (R128). -/
def execVfnmac (d : BitVec 5) (a : BitVec 5) (b : BitVec 5) (p : BitVec 3) (e : BitVec 3) (s : State) : Out :=
  finish (vecFloat (enc5 0x84000009 d 21 a 16 b 11 p 8 e 5) d a b p e (fun f m sat z x y => f.fused m sat z.neg x y true)) s

/-- VFABS: sign cleared (R130). -/
def execVfabs (d : BitVec 5) (a : BitVec 5) (p : BitVec 3) (e : BitVec 3) (s : State) : Out :=
  finish (vecFloatBits1 (enc4 0x8400000A d 21 a 16 p 8 e 5) d a p e (fun f x => f.withSign x false)) s

/-- VFNEG: sign inverted (R130). -/
def execVfneg (d : BitVec 5) (a : BitVec 5) (p : BitVec 3) (e : BitVec 3) (s : State) : Out :=
  finish (vecFloatBits1 (enc4 0x8400000B d 21 a 16 p 8 e 5) d a p e (fun f x => f.withSign x !(f.sign x))) s

/-- VFSGMV: A with the sign of B (R130). -/
def execVfsgmv (d : BitVec 5) (a : BitVec 5) (b : BitVec 5) (p : BitVec 3) (e : BitVec 3) (s : State) : Out :=
  finish (vecFloatBits (enc5 0x8400000C d 21 a 16 b 11 p 8 e 5) d a b p e (fun f x y => f.withSign x (f.sign y))) s

/-- VFRECIP: 1 / A, correctly rounded (R129). -/
def execVfrecip (d : BitVec 5) (a : BitVec 5) (p : BitVec 3) (e : BitVec 3) (s : State) : Out :=
  finish (vecFloat1 (enc4 0x8400000D d 21 a 16 p 8 e 5) d a p e Fmt.recip) s

/-- VFRSQRT: 1 / square root, correctly rounded (R129). -/
def execVfrsqrt (d : BitVec 5) (a : BitVec 5) (p : BitVec 3) (e : BitVec 3) (s : State) : Out :=
  finish (vecFloat1 (enc4 0x8400000E d 21 a 16 p 8 e 5) d a p e Fmt.rsqrt) s

/-- VFEXP2: 2 to the A, correctly rounded (R129). -/
def execVfexp2 (d : BitVec 5) (a : BitVec 5) (p : BitVec 3) (e : BitVec 3) (s : State) : Out :=
  finish (vecFloat1 (enc4 0x8400000F d 21 a 16 p 8 e 5) d a p e Fmt.exp2) s

/-- VFLOG2: base-2 logarithm, correctly rounded (R129). -/
def execVflog2 (d : BitVec 5) (a : BitVec 5) (p : BitVec 3) (e : BitVec 3) (s : State) : Out :=
  finish (vecFloat1 (enc4 0x84000010 d 21 a 16 p 8 e 5) d a p e Fmt.log2) s

/-- VFCEQ: equal, to a mask (R130). -/
def execVfceq (d : BitVec 5) (a : BitVec 5) (b : BitVec 5) (p : BitVec 3) (e : BitVec 3) (s : State) : Out :=
  finish (vecFloatTest (enc5 0x84000011 d 21 a 16 b 11 p 8 e 5) d a b p e false Num.eq) s

/-- VFCLT: less, to a mask (R130). -/
def execVfclt (d : BitVec 5) (a : BitVec 5) (b : BitVec 5) (p : BitVec 3) (e : BitVec 3) (s : State) : Out :=
  finish (vecFloatTest (enc5 0x84000012 d 21 a 16 b 11 p 8 e 5) d a b p e true Num.lt) s

/-- VFCLE: at most, to a mask (R130). -/
def execVfcle (d : BitVec 5) (a : BitVec 5) (b : BitVec 5) (p : BitVec 3) (e : BitVec 3) (s : State) : Out :=
  finish (vecFloatTest (enc5 0x84000013 d 21 a 16 b 11 p 8 e 5) d a b p e true (fun x y => x.lt y || x.eq y)) s

/-- VFCUN: unordered, to a mask (R130). -/
def execVfcun (d : BitVec 5) (a : BitVec 5) (b : BitVec 5) (p : BitVec 3) (e : BitVec 3) (s : State) : Out :=
  finish (vecFloatTest (enc5 0x84000014 d 21 a 16 b 11 p 8 e 5) d a b p e false (fun x y => x.isNan || y.isNan)) s

/-- VFKIND: kind and sign (R130). -/
def execVfkind (d : BitVec 5) (a : BitVec 5) (p : BitVec 3) (e : BitVec 3) (s : State) : Out :=
  finish (vecFloatBits1 (enc4 0x84000015 d 21 a 16 p 8 e 5) d a p e (fun f x => f.kind x)) s

/-- VFADD_VX: as vfadd, with a scalar operand (R131). -/
def execVfaddVx (d : BitVec 5) (a : BitVec 5) (b : BitVec 5) (p : BitVec 3) (e : BitVec 3) (s : State) : Out :=
  finish (vecFloatX (enc5 0x9400000C d 21 a 16 b 11 p 8 e 5) d a b p e (fun f m sat _ x y => f.sum m sat [x, y])) s

/-- VFMUL_VX: as vfmul, with a scalar operand (R131). -/
def execVfmulVx (d : BitVec 5) (a : BitVec 5) (b : BitVec 5) (p : BitVec 3) (e : BitVec 3) (s : State) : Out :=
  finish (vecFloatX (enc5 0x9400000D d 21 a 16 b 11 p 8 e 5) d a b p e (fun f m sat _ x y => f.prod m sat x y)) s

/-- VFMAC_VX: as vfmac, with a scalar operand (R131). -/
def execVfmacVx (d : BitVec 5) (a : BitVec 5) (b : BitVec 5) (p : BitVec 3) (e : BitVec 3) (s : State) : Out :=
  finish (vecFloatX (enc5 0x9400000E d 21 a 16 b 11 p 8 e 5) d a b p e (fun f m sat z x y => f.fused m sat z x y false)) s

/-! ### Conversions (R133 to R135) and mixed-width multiplies (R136) -/

/-- A value of type `t` converted into type `e`, integer codes signed (R102, R133). -/
def convertElem (e t : BitVec 3) (mode : Nat) (sat : Bool) (v : Nat) : Nat × Flags :=
  let w := widthOf e
  let i := signExtend v (widthOf t)
  if isFloat e then
    if isFloat t then (fmtOf t.toNat).convert (fmtOf e.toNat) mode sat v else (fmtOf e.toNat).ofInt mode sat i
  else if isFloat t then
    let r := ((fmtOf t.toNat).value v).toInt mode (-(2 ^ (w - 1) : Nat)) ((2 ^ (w - 1) : Nat) - 1)
    (wrap r.1 w, r.2)
  else (elemClamp w i, 0)

/-- vcvt (R133). -/
def vecConvert (word : Nat) (d a : BitVec 5) (p e t : BitVec 3) : M Unit :=
  vecMapF word (fun vl => groupsOk vl (some (d, widthOf e)) [(a, widthOf t)]) p d.toNat (widthOf e) fun s i =>
    convertElem e t s.rm s.sat (s.elem a.toNat (widthOf t) i)

/-- RNGCTR.CTR. -/
def State.rngCtr (s : State) : Nat := bits s.h.rngctr 0 63

/-- The draw of an element position for the generator of the state (R103). -/
def State.draw (s : State) (e : Nat) : Nat := chachaDraw (s.h.rngkey.toList.map BitVec.toNat) s.rngCtr e

/-- NDET of a draw from a generator that software has not seeded (R106, R134). -/
def drawNdet (es : List Nat) : M Unit := do
  if !bit (← get).h.rngctr 63 && !es.isEmpty then
    detCheck
    setNdet
  else pure ()

/-- RNGCTR advanced past `n` positions, where an element was active (R103). -/
def advanceRng (es : List Nat) (n : Nat) : M Unit :=
  modify fun s =>
    if es.isEmpty then s else { s with h := { s.h with rngctr := setBits s.h.rngctr 0 63 (s.rngCtr + (n + 31) / 32) } }

/-- vcvt.sr (R134). -/
def vecConvertSr (word : Nat) (d a : BitVec 5) (p e t : BitVec 3) : M Unit := do
  vecRun word (fun vl => groupsOk vl (some (d, widthOf e)) [(a, widthOf t)]) do
    let s ← get
    let es := s.active p
    drawNdet es
    let one (i : Nat) : ElemResult :=
      let r := (fmtOf e.toNat).stochastic s.sat (s.draw i) ((fmtOf t.toNat).value (s.elem a.toNat (widthOf t) i))
      ⟨i, r.1, r.2⟩
    settleElems (fun s vs => s.putElems d.toNat (widthOf e) vs) (es.map one)
    advanceRng es s.vlen

/-- The packed formats of vcvtm (R135). -/
def packedFmt (c : Nat) : Fmt :=
  match c with
  | 0 => .e5m2
  | 1 => .e2m3
  | 2 => .e3m2
  | _ => .e2m1

/-- vcvtm, widening or narrowing (R135): from a format with its register to another. -/
def vecConvertPacked (word : Nat) (d a : BitVec 5) (p : BitVec 3) (dst src : Fmt) : M Unit :=
  vecMapF word (fun vl => groupsOk vl (some (d, dst.width)) [(a, src.width)]) p d.toNat dst.width fun s i =>
    src.convert dst s.rm s.sat (s.elem a.toNat src.width i)

/-- vwmul (R136). -/
def vecWideMul (word : Nat) (d a b : BitVec 5) (p e t : BitVec 3) : M Unit :=
  let w := widthOf e
  let w2 := widthOf t
  vecMapF word (fun vl => groupsOk vl (some (d, w)) [(a, w), (b, w2)]) p d.toNat w fun s i =>
    let x := s.elem a.toNat w i
    let y := s.elem b.toNat w2 i
    if isFloat e then (fmtOf e.toNat).prod s.rm s.sat ((fmtOf e.toNat).value x) ((fmtOf t.toNat).value y)
    else (wrap (signExtend x w * signExtend y w2) w, 0)

/-- VCVT: conversion between types (R133). -/
def execVcvt (d : BitVec 5) (a : BitVec 5) (p : BitVec 3) (e : BitVec 3) (t : BitVec 3) (s : State) : Out :=
  finish (vecConvert (enc5 0x88000000 d 21 a 16 p 8 e 5 t 0) d a p e t) s

/-- VCVT_SR: conversion with stochastic rounding (R134). -/
def execVcvtSr (d : BitVec 5) (a : BitVec 5) (p : BitVec 3) (e : BitVec 3) (t : BitVec 3) (s : State) : Out :=
  finish (vecConvertSr (enc5 0x88000008 d 21 a 16 p 8 e 5 t 0) d a p e t) s

/-- VCVTM_WIDEN: a packed format widened (R135). -/
def execVcvtmWiden (d : BitVec 5) (a : BitVec 5) (p : BitVec 3) (e : BitVec 3) (c : BitVec 2) (s : State) : Out :=
  finish (vecConvertPacked (enc5 0x88000010 d 21 a 16 p 8 e 5 c 0) d a p (fmtOf e.toNat) (packedFmt c.toNat)) s

/-- VCVTM_NARROW: narrowed to a packed format (R135). -/
def execVcvtmNarrow (d : BitVec 5) (a : BitVec 5) (p : BitVec 3) (e : BitVec 3) (c : BitVec 2) (s : State) : Out :=
  finish (vecConvertPacked (enc5 0x88000014 d 21 a 16 p 8 e 5 c 0) d a p (packedFmt c.toNat) (fmtOf e.toNat)) s

/-- VWMUL: mixed-width product (R136). -/
def execVwmul (d : BitVec 5) (a : BitVec 5) (b : BitVec 5) (p : BitVec 3) (e : BitVec 3) (t : BitVec 3) (s : State) : Out :=
  finish (vecWideMul (enc6 0x88000018 d 21 a 16 b 11 p 8 e 5 t 0) d a b p e t) s

end Sys2Proof.Machine
end

