-- ==== Sys2Proof/Machine/Matrix.lean ====
section
/-! DEFINITION. The outer-product unit and the accumulators: tiles (R146), outer products (R152 to R156), moves (R157 to
R159), tiles and memory (R160, R161), slice-precise traps (R164). -/

namespace Sys2Proof.Machine

/-! ### Tiles -/

/-- Is a tile live (R30)? -/
def Core.live (c : Core) (t : Nat) : Bool := bit c.acclive t

/-- Row `i` of tile `t`, as a vector of 32 cells; a tile that is not live reads as zero (R30). -/
def Core.row (c : Core) (t i : Nat) : Vec :=
  if c.live t then (c.tiles.getD t (Vector.replicate 32 0)).getD i 0 else 0

/-- Cell (i, j) of tile `t`. -/
def Core.cell (c : Core) (t i j : Nat) : Nat := (c.row t i).toNat / 2 ^ (32 * j) % 2 ^ 32

/-- MakeLive (R146). -/
def Core.makeLive (c : Core) (t : Nat) : Core :=
  if c.live t then c
  else { c with tiles := c.tiles.setIfInBounds t (Vector.replicate 32 0), acclive := setBits c.acclive t 1 1 }

/-- A row of a tile written, the tile made live first. -/
def Core.putRow (c : Core) (t i : Nat) (v : Vec) : Core :=
  let c := c.makeLive t
  { c with tiles := c.tiles.setIfInBounds t ((c.tiles.getD t (Vector.replicate 32 0)).setIfInBounds i v) }

/-- Cells of a row replaced, as (column, cell). -/
def rowWith (v : Vec) (cs : List (Nat × Nat)) : Vec :=
  BitVec.ofNat 1024 (cs.foldl (fun n c => putField n (32 * c.1) 32 c.2) v.toNat)

/-- The state with its core changed. -/
def State.onTiles (s : State) (f : Core → Core) : State := { s with core := f s.core }

/-- MVL and MVC as numbers. -/
def State.mvlN (s : State) : Nat := bits s.h.mvl 0 6
/-- MVC. -/
def State.mvcN (s : State) : Nat := bits s.h.mvc 0 6

/-- An accumulator instruction: the tiles are the hart's as it passes to the VDQ (R38, R125, R167). One of a saved VDQ
image is checked where it goes on after the resume, in `stepHead` (log 92). -/
def accRun (word : Nat) (body : M Unit) : M Unit := do
  if (← get).h.head.isSome then pure () else needAcc
  vecRun word (fun _ => true) body

/-! ### Slices (R149, R164) -/

/-- The end of a sliced instruction: the restart is no longer pending, ESTAT.SLV is 0. -/
def State.endSlices (s : State) : State := { s with h := { s.h with restart := none, estat := setBits s.h.estat 3 1 0 } }

/-- A row's cells as (column, value, flags). -/
abbrev RowResult := List (Nat × Nat × Flags)

/-- The rows listed, in slice order, each checked and then committed; `row` answers nothing for a row that the row
predicate leaves out. -/
def slices (t : Nat) (row : State → Nat → Option RowResult) : List Nat → M Unit
  | [] => pure ()
  | i :: r => do
    let s ← get
    match row s i with
    | none => pure ()
    | some cs =>
      let fl := cs.foldl (fun (fl : Flags) c => fl ||| c.2.2) 0
      let s := s.setFlags fl
      set s
      let en := fl &&& s.mxte
      if en = 0 then
        let v := rowWith (s.core.row t i) (cs.map fun c => (c.1, c.2.1))
        set { s.onTiles fun c => c.putRow t i v with h := { s.h with restart := none } }
      else raise { cause := causeFp, value := BitVec.ofNat 64 (lowestFlag en), slice := some i }
    slices t row r

/-- A sliced instruction on tile `t` (R152, R159, R164); one that a restart re-issues takes effect at once. -/
def sliced (word t : Nat) (row : State → Nat → Option RowResult) : M Unit := do
  await ((← get).h.restart.isNone || ((← get).h.vdq.isEmpty && (← get).vFree))
  accRun word do
    modify fun s => s.onTiles fun c => c.makeLive t
    let s ← get
    let start := s.h.restart.getD 0
    slices t row ((List.range s.mvlN).drop start)
    modify State.endSlices

/-! ### Outer products (R150 to R156) -/

/-- The element formats of A and B and the elements of a pack (R58, R150). -/
def matrixFmt (f : Nat) : Fmt × Fmt × Nat :=
  match f with
  | 0 => (.bf16, .bf16, 2)
  | 1 => (.f16, .f16, 2)
  | 2 => (.e4m3, .e4m3, 4)
  | 3 => (.e5m2, .e5m2, 4)
  | 4 => (.e4m3, .e5m2, 4)
  | 5 => (.e5m2, .e4m3, 4)
  | _ => (.e2m1, .e2m1, 8)

/-- Element `kk` of pack `i` of a register (R150). -/
def packElem (v : Vec) (k i kk : Nat) : Nat := v.toNat / 2 ^ (32 * i + 32 / k * kk) % 2 ^ (32 / k)

/-- The elements of a dense operand's pack `i`, all present. -/
def densePack (f : Fmt) (k : Nat) (v : Vec) (i : Nat) : List (Option Num) :=
  (List.range k).map fun kk => some (f.value (packElem v k i kk))

/-- The elements of row `i` of the sparse operand of mopsp, none where a position is skipped (R155). -/
def sparsePack (f : Fmt) (k : Nat) (v idx : Vec) (i : Nat) : List (Option Num) :=
  (List.range k).map fun kk =>
    let q := k * i + kk
    let g := q / 4
    let i0 := idx.toNat / 2 ^ (4 * g) % 4
    let i1 := idx.toNat / 2 ^ (4 * g + 2) % 4
    let value (e : Nat) : Num := f.value (v.toNat / 2 ^ (f.width * e) % 2 ^ f.width)
    if q % 4 = i1 then some (value (2 * g + 1)) else if q % 4 = i0 then some (value (2 * g)) else none

/-- The scale of element `kk` of pack `i`, none for the NaN code (R91, R151). -/
def packScale (v : Vec) (k i kk : Nat) : Option Int :=
  let c := v.toNat / 2 ^ (8 * (i * k / 4 + kk / 4)) % 256
  if c = 255 then none else some ((c : Int) - 127)

/-- One term of a cell update with its flags: nothing where the position is skipped (R152, R153). -/
def cellTerm (neg : Bool) (sa sb : Option Int) (a : Option Num) (b : Num) : Option (Num × Flags) :=
  match a with
  | none => none
  | some a =>
    match sa, sb with
    | some x, some y =>
      let p := a.mul b
      let q := p.1.scale (x + y)
      some (if neg then q.neg else q, p.2)
    | _, _ => some (.nan, 0)

/-- A cell update (R99, R152): the addend and the terms summed exactly, rounded once to FP32 in RNE. -/
def cellUpdate (sat : Bool) (old : Nat) (terms : List (Num × Flags)) : Nat × Flags :=
  let r := Fmt.f32.sum 0 sat (Fmt.f32.value old :: terms.map (·.1))
  (r.1, terms.foldl (fun (fl : Flags) t => fl ||| t.2) r.2)

/-- The row of an outer product: `packA` gives the elements of row i, `scaleA` and `scaleB` the scales. -/
def outerRow (t : Nat) (neg : Bool) (mr mc : BitVec 3) (packA packB : Nat → List (Option Num))
    (scaleA scaleB : Nat → Nat → Option Int) (s : State) (i : Nat) : Option RowResult :=
  if (s.mreg mr.toNat).getLsbD i then
    let cols := (List.range s.mvcN).filter (s.mreg mc.toNat).getLsbD
    let a := packA i
    some <| cols.map fun j =>
      let b := packB j
      let terms := (List.range a.length).filterMap fun kk =>
        cellTerm neg (scaleA i kk) (scaleB j kk) (a.getD kk none) ((b.getD kk none).getD .nan)
      let r := cellUpdate s.sat (s.core.cell t i j) terms
      (j, r.1, r.2)
  else none

/-- No scale at all: the exponent 0 (R151). -/
def noScale (_ _ : Nat) : Option Int := some 0

/-- mop and mops (R152). -/
def outer (word : Nat) (neg : Bool) (t : BitVec 3) (a b : BitVec 5) (r c : BitVec 3) (f : BitVec 5) (s : State) : M Unit :=
  let (fa, fb, k) := matrixFmt f.toNat
  sliced word t.toNat (outerRow t.toNat neg r c (densePack fa k (s.vreg a.toNat)) (densePack fb k (s.vreg b.toNat)) noScale noScale)

/-- mopx and mopxs (R151, R152). -/
def outerScaled (word : Nat) (neg : Bool) (t : BitVec 3) (a b : BitVec 5) (r c : BitVec 3) (f : BitVec 5) (s : State) : M Unit :=
  let (fa, fb, k) := matrixFmt f.toNat
  sliced word t.toNat (outerRow t.toNat neg r c (densePack fa k (s.vreg a.toNat)) (densePack fb k (s.vreg b.toNat))
    (packScale (s.vreg (a.toNat + 1)) k) (packScale (s.vreg (b.toNat + 1)) k))

/-- mopsp (R155). -/
def outerSparse (word : Nat) (t : BitVec 3) (a b : BitVec 5) (r c : BitVec 3) (f : BitVec 5) (s : State) : M Unit :=
  let (fa, fb, k) := matrixFmt f.toNat
  sliced word t.toNat (outerRow t.toNat false r c (sparsePack fa k (s.vreg a.toNat) (s.vreg (a.toNat + 1)))
    (densePack fb k (s.vreg b.toNat)) noScale noScale)

/-- A 32-bit signed sum, reduced or clamped (R99, R154, R159). -/
def sum32 (clamp : Bool) (x : Int) : Nat := if clamp then elemClamp 32 x else wrap x 32

/-- Element `kk` of pack `i` read as a signed or natural byte (R154). -/
def packInt (natural : Bool) (v : Vec) (i kk : Nat) : Int :=
  if natural then (packElem v 4 i kk : Nat) else signExtend (packElem v 4 i kk) 8

/-- The row of an integer outer product (R154). -/
def outerIntRow (t : Nat) (clamp : Bool) (mr mc : BitVec 3) (na nb : Bool) (va vb : Vec) (s : State) (i : Nat) : Option RowResult :=
  if (s.mreg mr.toNat).getLsbD i then
    let cols := (List.range s.mvcN).filter (s.mreg mc.toNat).getLsbD
    some <| cols.map fun j =>
      let x := ((List.range 4).map fun kk => packInt na va i kk * packInt nb vb j kk).foldl (· + ·) 0
      (j, sum32 clamp (signExtend (s.core.cell t i j) 32 + x), 0)
  else none

/-- mopi and mopi.sat (R154): every row from 0; they never trap. -/
def outerInt (word : Nat) (clamp : Bool) (t : BitVec 3) (a b : BitVec 5) (r c : BitVec 3) (f : BitVec 5) (s : State) : M Unit := do
  accRun word do
    modify fun s => s.onTiles fun k => k.makeLive t.toNat
    let na := f = 9 || f = 11
    let nb := f = 9 || f = 10
    slices t.toNat (outerIntRow t.toNat clamp r c na nb (s.vreg a.toNat) (s.vreg b.toNat)) (List.range s.mvlN)

/-- MOP: an outer product (R152). -/
def execMop (t : BitVec 3) (a : BitVec 5) (b : BitVec 5) (r : BitVec 3) (c : BitVec 3) (f : BitVec 5) (s : State) : Out :=
  finish (outer (enc6 0xA0000000 t 23 a 16 b 11 r 8 c 5 f 0) false t a b r c f s) s

/-- MOPS: an outer product subtracted (R152). -/
def execMops (t : BitVec 3) (a : BitVec 5) (b : BitVec 5) (r : BitVec 3) (c : BitVec 3) (f : BitVec 5) (s : State) : Out :=
  finish (outer (enc6 0xA0200000 t 23 a 16 b 11 r 8 c 5 f 0) true t a b r c f s) s

/-- MOPX: a block-scaled outer product (R151, R152). -/
def execMopx (t : BitVec 3) (a : BitVec 5) (b : BitVec 5) (r : BitVec 3) (c : BitVec 3) (f : BitVec 5) (s : State) : Out :=
  finish (outerScaled (enc6 0xA4000000 t 23 a 16 b 11 r 8 c 5 f 0) false t a b r c f s) s

/-- MOPXS: a block-scaled outer product subtracted (R151, R152). -/
def execMopxs (t : BitVec 3) (a : BitVec 5) (b : BitVec 5) (r : BitVec 3) (c : BitVec 3) (f : BitVec 5) (s : State) : Out :=
  finish (outerScaled (enc6 0xA4200000 t 23 a 16 b 11 r 8 c 5 f 0) true t a b r c f s) s

/-- MOPSP: a sparse outer product (R155). -/
def execMopsp (t : BitVec 3) (a : BitVec 5) (b : BitVec 5) (r : BitVec 3) (c : BitVec 3) (f : BitVec 5) (s : State) : Out :=
  finish (outerSparse (enc6 0xA8000000 t 23 a 16 b 11 r 8 c 5 f 0) t a b r c f s) s

/-- MOPI: an integer outer product (R154). -/
def execMopi (t : BitVec 3) (a : BitVec 5) (b : BitVec 5) (r : BitVec 3) (c : BitVec 3) (f : BitVec 5) (s : State) : Out :=
  finish (outerInt (enc6 0xA8200000 t 23 a 16 b 11 r 8 c 5 f 0) false t a b r c f s) s

/-- MOPI_SAT: an integer outer product, clamped (R154). -/
def execMopiSat (t : BitVec 3) (a : BitVec 5) (b : BitVec 5) (r : BitVec 3) (c : BitVec 3) (f : BitVec 5) (s : State) : Out :=
  finish (outerInt (enc6 0xA8400000 t 23 a 16 b 11 r 8 c 5 f 0) true t a b r c f s) s

/-! ### Accumulator moves (R157 to R159) -/

/-- An accumulator instruction that only moves. -/
def accMove (word : Nat) (f : State → State) : M Unit := accRun word (modify f)

/-- accrd (R157). -/
def accRead (t : BitVec 3) (d b : BitVec 5) (s : State) : State :=
  s.setV d.toNat (s.core.row t.toNat (nread (s.x b) 5))

/-- accwr (R157). -/
def accWrite (t : BitVec 3) (a b : BitVec 5) (s : State) : State :=
  s.onTiles fun c => c.putRow t.toNat (nread (s.x b) 5) (s.vreg a.toNat)

/-- accmov (R159). -/
def accCopy (t s' : BitVec 3) (s : State) : State :=
  let rows := Vector.ofFn fun i : Fin 32 => s.core.row s'.toNat i.val
  s.onTiles fun c => { c.makeLive t.toNat with tiles := c.tiles.setIfInBounds t.toNat rows }

/-- The types of accpro (R158). -/
def promoteFmt (y : BitVec 2) : Fmt :=
  match y.toNat with
  | 0 => .bf16
  | 1 => .e4m3
  | _ => .e5m2

/-- A product of three factors (R158): an infinite and a zero factor give NaN and raise NV whatever the third is. -/
def productOf3 (x y z : Num) : Num × Flags :=
  let inf (n : Num) : Bool := n == .inf true || n == .inf false
  let zero (n : Num) : Bool := match n with
    | .fin _ m _ => m == 0
    | _ => false
  if (inf x || inf y || inf z) && (zero x || zero y || zero z) then (.nan, flagNV)
  else ((x.mul y).1.mul z).1 |> (·, 0)

/-- accpro (R158). -/
def accPromote (word : Nat) (t : BitVec 3) (y : BitVec 2) (d c x : BitVec 5) : M Unit := do
  accRun word do
    let s ← get
    let fmt := promoteFmt y
    let rho := Fmt.f32.value (nread (s.x x) 32)
    let row := bits (s.x x) 32 5
    let one (j : Nat) : Nat × Flags :=
      if j < s.mvcN && s.core.live t.toNat then
        let p := productOf3 (Fmt.f32.value (s.core.cell t.toNat row j)) rho (Fmt.f32.value (s.elem c.toNat 32 j))
        let r := fmt.round 0 s.sat p.1
        (r.1, p.2 ||| r.2)
      else (0, 0)
    let out := (List.range 32).map fun j => (j, one j)
    let fl := out.foldl (fun (fl : Flags) r => fl ||| r.2.2) 0
    let s := s.setFlags fl
    set s
    let en := fl &&& s.mxte
    if en = 0 then modify fun s => s.putElems d.toNat fmt.width (out.map fun r => (r.1, r.2.1))
    else fpEnabled en

/-- The row of accadd (R159): type 0 f32, 1 i32, 2 i32.sat. -/
def addRow (t s' : BitVec 3) (y : BitVec 2) (s : State) (i : Nat) : Option RowResult :=
  some <| (List.range s.mvcN).map fun j =>
    let x := s.core.cell t.toNat i j
    let z := s.core.cell s'.toNat i j
    if y = 0 then
      let r := Fmt.f32.sum 0 s.sat [Fmt.f32.value x, Fmt.f32.value z]
      (j, r.1, r.2)
    else (j, sum32 (y == 2) (signExtend x 32 + signExtend z 32), 0)

/-- ACCZERO: the tile is no longer live (R159). -/
def execAcczero (t : BitVec 3) (s : State) : Out :=
  finish (accMove (enc1 0xAC000000 t 23) (fun s => s.onTiles fun c => { c with acclive := setBits c.acclive t.toNat 1 0 })) s

/-- ACCRD: a row of a tile read (R157). -/
def execAccrd (t : BitVec 3) (d : BitVec 5) (b : BitVec 5) (s : State) : Out :=
  finish (accMove (enc3 0xAC000001 t 23 d 16 b 11) (accRead t d b)) s

/-- ACCWR: a row of a tile written (R157). -/
def execAccwr (t : BitVec 3) (a : BitVec 5) (b : BitVec 5) (s : State) : Out :=
  finish (accMove (enc3 0xAC000002 t 23 a 16 b 11) (accWrite t a b)) s

/-- ACCPRO: a row promoted (R158). -/
def execAccpro (t : BitVec 3) (y : BitVec 2) (d : BitVec 5) (c : BitVec 5) (s' : BitVec 5) (s : State) : Out :=
  finish (accPromote (enc5 0xAC000003 t 23 y 21 d 16 c 11 s' 6) t y d c s') s

/-- ACCMOV: a tile copied (R159). -/
def execAccmov (t : BitVec 3) (s' : BitVec 3) (s : State) : Out :=
  finish (accMove (enc2 0xAC000006 t 23 s' 11) (accCopy t s')) s

/-- ACCADD: a tile added to another (R159). -/
def execAccadd (t : BitVec 3) (y : BitVec 2) (s' : BitVec 3) (s : State) : Out :=
  finish (sliced (enc3 0xAC000007 t 23 y 21 s' 11) t.toNat (addRow t s' y)) s

/-! ### Tiles and memory (R160, R161) -/

/-- A tile replaced by rows. -/
def Core.putTile (c : Core) (t : Nat) (rows : List Vec) : Core :=
  let tile := Vector.ofFn fun i : Fin 32 => rows.getD i.val 0
  { c.makeLive t with tiles := c.tiles.setIfInBounds t tile }

/-- An instruction that moves tiles to or from memory passes to the VDQ once it is owner, aligned and checked (`ready`, which
answers whether the scalar pipeline issues nothing past it); at the head of the queue `body` goes on with it, from how far
it has come and the rows it has read (R160, R161, R167). -/
def accMemory (word : Nat) (aligned : Bool) (cause : Nat) (va : Dword) (ready : M Bool) (body : Nat → List Vec → M Unit) :
    M Unit := do
  match (← get).h.head with
  | some e => body e.done e.rows
  | none =>
    needAcc
    trapIf (!aligned) cause va
    enterVdq word (← ready)

/-- Might a read of the row of 128 bytes at an address bring a trap of its home? Its translation is checked, which makes its
LOAD_FAULT precise (R160, R375). -/
def rowMayTrap (va : Dword) : M Bool := do
  let s ← get
  match windowOf s.h (s.gang? s.h.gang) va.toNat with
  | .spot p => pure (((s.find p).bind (·.loc)).any fun loc => s.pkg.poisoned loc 128)
  | _ =>
    let t ← resolve s.who .load causeLoadFault va va.toNat
    pure ((← get).mayTrap t 128)

/-- The same of the rows listed. -/
def rowsMayTrap (rows : List Dword) : M Bool := do pure ((← rows.mapM rowMayTrap).any id)

/-- An instruction that reads tiles from memory begins with the store buffer empty (R193), after the check of rows that it is
known to read. It runs behind the queue, unless a read of it might trap (R163, R375, log 93). -/
def rowsReady (rows : List Dword) : M Bool := do
  awaitBuffer
  rowsMayTrap rows

/-- A row whose unit of eight bytes is written. -/
def putUnit (row : Vec) (unit v : Nat) : Vec := BitVec.ofNat 1024 (putField row.toNat (64 * unit) 64 v)

/-- The first `n` units of eight bytes of a row read from memory (R160), or asked for as row `k` of the instruction
(R188); a fault names the row's address. -/
def readRow (k : Nat) (va : Dword) (n : Nat) : M Vec := do
  let seen := (← get).seen
  (List.range n).foldlM (fun row u => do
    let at_ := (va.toNat + 8 * u) % 2 ^ 64
    match ← leavingLoad false va at_ 8 with
    | [] =>
      let bs ← loadBytesOf none seen va at_ 8
      pure (putUnit row u (natOf bs))
    | ts => do
      sendLoad none va 8 (.tile k u) ts
      pure row) 0

/-- No row is still to come. -/
def awaitRows : M Unit := do
  await ((← get).h.pend.all fun p => match p.2 with
    | .tile _ _ => false
    | _ => true)

/-- accld at the head of the queue (R160): one row after the other, each an access of its own; no cell is written until
all have been read. -/
def accLoad (word : Nat) (t : BitVec 3) (va : Dword) : M Unit :=
  accMemory word (va.toNat % 128 == 0) causeLoadMisaligned va (rowsReady ((List.range 32).map (contiguous va 128)))
      fun done rows => do
    if done < 32 then
      let row ← readRow done (contiguous va 128 done) 16
      further (done + 1) (rows ++ [row])
    else
      awaitRows
      modify fun s => s.onTiles fun c => c.putTile t.toNat rows

/-- Stores of eight bytes placed in the store buffer as it has room, from the `done`th of `n` on, each an entry of its own
(R160, R218). -/
def placeStores (n : Nat) (store : Nat → Dword × Nat) (done : Nat) : M Unit := do
  let k := min (n - done) (32 - (← get).h.sb.length)
  await (k != 0)
  modify fun s => (List.range k).foldl (fun s i =>
    let e := store (done + i)
    s.pushStore e.1 8 (BitVec.ofNat 64 e.2) .plain) s
  if done + k < n then further (done + k) [] else pure ()

/-- Unit `i` of a tile's 512 units of eight bytes: its address from `va` on, and its value. -/
def Core.unit (c : Core) (t : Nat) (va : Dword) (i : Nat) : Dword × Nat :=
  (contiguous va 8 i, (c.row t (i / 16)).toNat / 2 ^ (64 * (i % 16)) % 2 ^ 64)

/-- accst (R160). -/
def accStore (word : Nat) (t : BitVec 3) (va : Dword) : M Unit :=
  accMemory word (va.toNat % 128 == 0) causeStoreFault va (pure false) fun done _ => do
    let c := (← get).core
    placeStores 512 (c.unit t.toNat va) done

/-- accsave (R161): the header, then each live tile. -/
def accSave (word : Nat) (va : Dword) : M Unit :=
  accMemory word (va.toNat % 4096 == 0) causeStoreFault va (pure false) fun done _ => do
    let c := (← get).core
    let live := bits c.acclive 0 8
    let ts := onesOf live 8
    placeStores (1 + 512 * ts.length) (fun i =>
      if i = 0 then (va + 0x8000, live)
      else
        let t := ts.getD ((i - 1) / 512) 0
        c.unit t (contiguous va 4096 t) ((i - 1) % 512)) done

/-- accrest (R161): the header, then the rows of each tile that it names live; nothing changes until every read is
done. The scalar pipeline issues nothing past it until the header has told which rows it reads and these are checked (R375,
log 93). -/
def accRestore (word : Nat) (va : Dword) : M Unit :=
  accMemory word (va.toNat % 4096 == 0) causeLoadMisaligned va
      (do let _ ← rowsReady [va + 0x8000]; pure true) fun done rows => do
    if done = 0 then
      let row ← readRow 0 (va + 0x8000) 1
      further 1 [row]
    else
      awaitRows
      let live := (rows.getD 0 0).toNat % 256
      let ts := onesOf live 8
      let row (i : Nat) : Dword := contiguous (contiguous va 4096 (ts.getD (i / 32) 0)) 128 (i % 32)
      if done = 1 then
        let held ← rowsMayTrap ((List.range (32 * ts.length)).map row)
        modify fun s => { s with h := { s.h with head := s.h.head.map fun e => { e with holds := s.holdsIssue word || held } } }
      else pure ()
      if done ≤ 32 * ts.length then
        let row ← readRow done (row (done - 1)) 16
        further (done + 1) (rows ++ [row])
      else
        modify fun s => s.onTiles fun c =>
          { (List.range ts.length).foldl (fun c i => c.putTile (ts.getD i 0) ((rows.drop (1 + 32 * i)).take 32)) c with
            acclive := BitVec.ofNat 64 live }

/-- ACCLD: a tile loaded (R160). -/
def execAccld (t : BitVec 3) (a : BitVec 5) (s : State) : Out :=
  finish (accLoad (enc2 0xAC000004 t 23 a 16) t (s.x a)) s

/-- ACCST: a tile stored (R160). -/
def execAccst (t : BitVec 3) (a : BitVec 5) (s : State) : Out :=
  finish (accStore (enc2 0xAC000005 t 23 a 16) t (s.x a)) s

/-- ACCSAVE: the live tiles saved (R161). -/
def execAccsave (a : BitVec 5) (s : State) : Out := finish (accSave (enc1 0xAC000008 a 16) (s.x a)) s

/-- ACCREST: the saved tiles restored (R161). -/
def execAccrest (a : BitVec 5) (s : State) : Out := finish (accRestore (enc1 0xAC000009 a 16) (s.x a)) s

end Sys2Proof.Machine
end

