-- ==== Sys2Proof/Machine/Permute.lean ====
section
/-! DEFINITION. Reductions and scans (R100, R101, R137, R138), permutes and moves (R139 to R142), random bits (R143). -/

namespace Sys2Proof.Machine

/-! ### Reductions (R100, R137) -/

/-- A value with the flags of the operations that made it. -/
abbrev Flagged := Nat × Flags

/-- One level of the pairwise tree: present pairs combined, a single one passed on (R100). -/
def treeLevel (f : Nat → Nat → Flagged) : List (Option Flagged) → List (Option Flagged)
  | some x :: some y :: r =>
    let z := f x.1 y.1
    some (z.1, x.2 ||| y.2 ||| z.2) :: treeLevel f r
  | some x :: none :: r => some x :: treeLevel f r
  | none :: y :: r => y :: treeLevel f r
  | [x] => [x]
  | [] => []

/-- The root after `n` levels. -/
def treeRoot (f : Nat → Nat → Flagged) : Nat → List (Option Flagged) → Option Flagged
  | 0, l => (l.head?).join
  | n + 1, l => treeRoot f n (treeLevel f l)

/-- A reduction (R137): VSTART is ignored, element 0 of `vd` gets the root or the identity. -/
def vecReduce (word : Nat) (d a : BitVec 5) (p e : BitVec 3) (identity : Nat) (f : State → Nat → Nat → Flagged) : M Unit := do
  let w := widthOf e
  vecRun word (fun vl => oneOk vl d [(a, w)]) do
    let s ← get
    let es := s.activeFrom 0 p
    let leaf (i : Nat) : Option Flagged := if es.contains i then some (s.elem a.toNat w i, 0) else none
    let (v, fl) := (treeRoot (f s) 8 ((List.range 256).map leaf)).getD (identity, 0)
    let s := s.setFlags fl
    set s.clearVstart
    if fl &&& s.fte = 0 then modify fun s => s.putElem d.toNat w 0 v else fpEnabled (fl &&& s.fte)

/-- The combination of a sum in a type. -/
def sumOf (e : BitVec 3) (s : State) (x y : Nat) : Flagged :=
  let f := fmtOf e.toNat
  if isFloat e then f.sum s.rm s.sat [f.value x, f.value y] else (elemAdd (widthOf e) x y, 0)

/-- The combination of a minimum or maximum in a type, signed. -/
def extremeOf (e : BitVec 3) (isMax : Bool) (x y : Nat) : Flagged :=
  if isFloat e then ((fmtOf e.toNat).minMax isMax x y, 0)
  else ((if isMax then elemMax else elemMin) (widthOf e) x y, 0)

/-- The identities of a minimum and a maximum (R137). -/
def extremeIdentity (e : BitVec 3) (isMax : Bool) : Nat :=
  let w := widthOf e
  let f := fmtOf e.toNat
  if isFloat e then f.signBit isMax + f.infBits else if isMax then 2 ^ (w - 1) else 2 ^ (w - 1) - 1

/-- VREDSUM: sum by the fixed tree (R137). -/
def execVredsum (d : BitVec 5) (a : BitVec 5) (p : BitVec 3) (e : BitVec 3) (s : State) : Out :=
  finish (vecReduce (enc4 0x8C000003 d 21 a 16 p 8 e 5) d a p e 0 (sumOf e)) s

/-- VREDMIN: minimum (R137). -/
def execVredmin (d : BitVec 5) (a : BitVec 5) (p : BitVec 3) (e : BitVec 3) (s : State) : Out :=
  finish (vecReduce (enc4 0x8C000004 d 21 a 16 p 8 e 5) d a p e (extremeIdentity e false) (fun _ => extremeOf e false)) s

/-- VREDMAX: maximum (R137). -/
def execVredmax (d : BitVec 5) (a : BitVec 5) (p : BitVec 3) (e : BitVec 3) (s : State) : Out :=
  finish (vecReduce (enc4 0x8C000005 d 21 a 16 p 8 e 5) d a p e (extremeIdentity e true) (fun _ => extremeOf e true)) s

/-- VREDMINN: natural minimum (R137). -/
def execVredminn (d : BitVec 5) (a : BitVec 5) (p : BitVec 3) (e : BitVec 3) (s : State) : Out :=
  finish (vecReduce (enc4 0x8C000006 d 21 a 16 p 8 e 5) d a p e (2 ^ widthOf e - 1) (fun _ x y => (min x y, 0))) s

/-- VREDMAXN: natural maximum (R137). -/
def execVredmaxn (d : BitVec 5) (a : BitVec 5) (p : BitVec 3) (e : BitVec 3) (s : State) : Out :=
  finish (vecReduce (enc4 0x8C000007 d 21 a 16 p 8 e 5) d a p e 0 (fun _ x y => (max x y, 0))) s

/-- VREDAND: bitwise AND (R137). -/
def execVredand (d : BitVec 5) (a : BitVec 5) (p : BitVec 3) (e : BitVec 3) (s : State) : Out :=
  finish (vecReduce (enc4 0x8C000008 d 21 a 16 p 8 e 5) d a p e (2 ^ widthOf e - 1) (fun _ x y => (x &&& y, 0))) s

/-- VREDOR: bitwise OR (R137). -/
def execVredor (d : BitVec 5) (a : BitVec 5) (p : BitVec 3) (e : BitVec 3) (s : State) : Out :=
  finish (vecReduce (enc4 0x8C000009 d 21 a 16 p 8 e 5) d a p e 0 (fun _ x y => (x ||| y, 0))) s

/-! ### Scans (R101, R138) -/

/-- A scan from an element on: `run` is the last output, `restart` tells that a head has been met (R138). -/
def scanFrom (heads : Nat → Bool) (active : Nat → Bool) (input : Nat → Nat) (f : Nat → Nat → Flagged) (vstart : Nat) :
    List Nat → Option Nat → Bool → List ElemResult
  | [], _, _ => []
  | e :: r, run, restart =>
    let restart := restart || (decide (vstart ≤ e) && heads e)
    if active e then
      let out : Flagged := match run with
        | none => (input e, 0)
        | some x => if restart then (input e, 0) else f x (input e)
      ⟨e, out.1, out.2⟩ :: scanFrom heads active input f vstart r (some out.1) false
    else scanFrom heads active input f vstart r run restart

/-- vscan and vsegsum (R138); `heads` is the mask of segment heads. -/
def vecScan (word : Nat) (d a : BitVec 5) (p e : BitVec 3) (heads : State → Nat → Bool) : M Unit := do
  let w := widthOf e
  vecRun word (fun vl => groupsOk vl (some (d, w)) [(a, w)]) do
    let s ← get
    let es := s.active p
    let before := (s.activeFrom 0 p).filter fun i => decide (i < s.vstartN)
    let run := before.getLast?.map fun i => s.elem d.toNat w i
    settleElems (fun s vs => s.putElems d.toNat w vs)
      (scanFrom (heads s) es.contains (fun i => s.elem a.toNat w i) (sumOf e s) s.vstartN (List.range s.vlen) run false)

/-- VSCAN: running sums (R138). -/
def execVscan (d : BitVec 5) (a : BitVec 5) (p : BitVec 3) (e : BitVec 3) (s : State) : Out :=
  finish (vecScan (enc4 0x8C00000A d 21 a 16 p 8 e 5) d a p e (fun _ _ => false)) s

/-- VSEGSUM: running sums restarted at heads (R138). -/
def execVsegsum (d : BitVec 5) (a : BitVec 5) (b : BitVec 5) (p : BitVec 3) (e : BitVec 3) (s : State) : Out :=
  finish (vecScan (enc5 0x8C00000B d 21 a 16 b 11 p 8 e 5) d a p e (fun s i => (s.mreg b.toNat).getLsbD i)) s

/-! ### Permutes and moves -/

/-- An instruction that ignores VSTART and raises no flag (R122). -/
def vecPermute (word : Nat) (ok : Nat → Bool) (p : BitVec 3) (d w : Nat) (f : State → Nat → Nat) : M Unit := do
  vecRun word ok do
    modify fun s => (s.putElems d w ((s.activeFrom 0 p).map fun e => (e, f s e))).clearVstart

/-- An element below VL, else 0. -/
def State.elemOr0 (s : State) (r w : Nat) (i : Int) : Nat :=
  if 0 ≤ i ∧ i < s.vlen then s.elem r w i.toNat else 0

/-- vsqueeze (R141). -/
def vecSqueeze (word : Nat) (d a : BitVec 5) (p e : BitVec 3) : M Unit := do
  let w := widthOf e
  vecRun word (fun vl => groupsOk vl (some (d, w)) [(a, w)]) do
    modify fun s =>
      let vs := (s.activeFrom 0 p).map fun i => s.elem a.toNat w i
      (s.putElems d.toNat w ((List.range s.vlen).map fun i => (i, vs.getD i 0))).clearVstart

/-- vmvx (R142). -/
def vecMoveX (word : Nat) (d a b : BitVec 5) (e : BitVec 3) : M Unit := do
  let w := widthOf e
  vecIssue word fun vl => groupsOk vl none [(a, w)]
  modify fun s =>
    let i := (s.x b).toNat
    let v := if i < s.vlen then s.elem a.toNat w i else 0
    (s.setX d (if isFloat e then BitVec.ofNat 64 v else dwordOf (signExtend v w))).clearVstart

/-- vmvv (R142). -/
def vecMoveV (word : Nat) (d a b : BitVec 5) (e : BitVec 3) : M Unit := do
  let w := widthOf e
  vecRun word (fun vl => groupsOk vl none [(d, w)]) do
    modify fun s =>
      let i := (s.x b).toNat
      (if i < s.vlen then s.putElem d.toNat w i (nread (s.x a) w) else s).clearVstart

/-- VPERM: elements by index (R139). -/
def execVperm (d : BitVec 5) (a : BitVec 5) (b : BitVec 5) (p : BitVec 3) (e : BitVec 3) (s : State) : Out :=
  finish (vecPermute (enc5 0x8C000000 d 21 a 16 b 11 p 8 e 5) (fun vl => groupsOk vl (some (d, widthOf e)) [(a, widthOf e), (b, 32)]) p d.toNat (widthOf e) (fun s i => s.elemOr0 a.toNat (widthOf e) (s.elem b.toNat 32 i))) s

/-- VELSH: elements shifted (R140). -/
def execVelsh (d : BitVec 5) (a : BitVec 5) (b : BitVec 5) (p : BitVec 3) (e : BitVec 3) (s : State) : Out :=
  finish (vecPermute (enc5 0x8C000001 d 21 a 16 b 11 p 8 e 5) (fun vl => groupsOk vl (some (d, widthOf e)) [(a, widthOf e)]) p d.toNat (widthOf e) (fun s i => s.elemOr0 a.toNat (widthOf e) (i - (s.x b).toInt))) s

/-- VELROT: elements rotated (R140). -/
def execVelrot (d : BitVec 5) (a : BitVec 5) (b : BitVec 5) (p : BitVec 3) (e : BitVec 3) (s : State) : Out :=
  finish (vecPermute (enc5 0x8C000002 d 21 a 16 b 11 p 8 e 5) (fun vl => groupsOk vl (some (d, widthOf e)) [(a, widthOf e)]) p d.toNat (widthOf e) (fun s i => s.elem a.toNat (widthOf e) ((i - (s.x b).toInt) % s.vlen).toNat)) s

/-- VMVX: an element to an x register (R142). -/
def execVmvx (d : BitVec 5) (a : BitVec 5) (b : BitVec 5) (e : BitVec 3) (s : State) : Out :=
  finish (vecMoveX (enc4 0x8C00000D d 21 a 16 b 11 e 5) d a b e) s

/-- VMVV: an x register to an element (R142). -/
def execVmvv (d : BitVec 5) (a : BitVec 5) (b : BitVec 5) (e : BitVec 3) (s : State) : Out :=
  finish (vecMoveV (enc4 0x8C00000E d 21 a 16 b 11 e 5) d a b e) s

/-- VBCAST: an x register to every active element (R141). -/
def execVbcast (d : BitVec 5) (a : BitVec 5) (p : BitVec 3) (e : BitVec 3) (s : State) : Out :=
  finish (vecMap (enc4 0x8C00000F d 21 a 16 p 8 e 5) (fun vl => groupsOk vl (some (d, widthOf e)) []) p d.toNat (widthOf e) (fun s _ => nread (s.x a) (widthOf e))) s

/-- VSQUEEZE: active elements packed (R141). -/
def execVsqueeze (d : BitVec 5) (a : BitVec 5) (p : BitVec 3) (e : BitVec 3) (s : State) : Out :=
  finish (vecSqueeze (enc4 0x8C000010 d 21 a 16 p 8 e 5) d a p e) s

/-- VINDEX: base plus index times step (R141). -/
def execVindex (d : BitVec 5) (a : BitVec 5) (b : BitVec 5) (p : BitVec 3) (e : BitVec 3) (s : State) : Out :=
  finish (vecMap (enc5 0x8C000011 d 21 a 16 b 11 p 8 e 5) (fun vl => groupsOk vl (some (d, widthOf e)) []) p d.toNat (widthOf e) (fun s i => ((s.x a).toNat + i * (s.x b).toNat) % 2 ^ widthOf e)) s

/-! ### Random bits (R143) -/

/-- vrand (R143): `q` draws an element, the lowest position in its lowest bits. -/
def vecRand (word : Nat) (d : BitVec 5) (p e : BitVec 3) : M Unit := do
  let w := widthOf e
  vecRun word (fun vl => groupsOk vl (some (d, w)) []) do
    let s ← get
    let es := s.active p
    drawNdet es
    let q := max 1 (w / 16)
    let one (i : Nat) : Nat := ((List.range q).map fun j => s.draw (q * i + j) * 2 ^ (16 * j)).foldl (· + ·) 0
    modify fun s => (s.putElems d.toNat w (es.map fun i => (i, one i))).clearVstart
    advanceRng es (q * s.vlen)

/-- VRAND: random bits (R143). -/
def execVrand (d : BitVec 5) (p : BitVec 3) (e : BitVec 3) (s : State) : Out :=
  finish (vecRand (enc3 0x8C00000C d 21 p 8 e 5) d p e) s

end Sys2Proof.Machine
end

