-- ==== Sys2Proof/Machine/Dispatch.lean ====
section
/-! DEFINITION. The dispatch: one arm for each constructor of Instr. -/

namespace Sys2Proof.Machine

/-- What an instruction or an event does to a state. -/
def exec (i : Instr) (s : State) : Host.Outcome State Fault Refusal :=
  match i with
  | .add d a b => Sys2Proof.Machine.execAdd d a b s
  | .sub d a b => Sys2Proof.Machine.execSub d a b s
  | .and d a b => Sys2Proof.Machine.execAnd d a b s
  | .or d a b => Sys2Proof.Machine.execOr d a b s
  | .xor d a b => Sys2Proof.Machine.execXor d a b s
  | .andn d a b => Sys2Proof.Machine.execAndn d a b s
  | .orn d a b => Sys2Proof.Machine.execOrn d a b s
  | .xnor d a b => Sys2Proof.Machine.execXnor d a b s
  | .sll d a b => Sys2Proof.Machine.execSll d a b s
  | .srl d a b => Sys2Proof.Machine.execSrl d a b s
  | .sra d a b => Sys2Proof.Machine.execSra d a b s
  | .rol d a b => Sys2Proof.Machine.execRol d a b s
  | .ror d a b => Sys2Proof.Machine.execRor d a b s
  | .slt d a b => Sys2Proof.Machine.execSlt d a b s
  | .sltn d a b => Sys2Proof.Machine.execSltn d a b s
  | .seq d a b => Sys2Proof.Machine.execSeq d a b s
  | .sne d a b => Sys2Proof.Machine.execSne d a b s
  | .min d a b => Sys2Proof.Machine.execMin d a b s
  | .max d a b => Sys2Proof.Machine.execMax d a b s
  | .minn d a b => Sys2Proof.Machine.execMinn d a b s
  | .maxn d a b => Sys2Proof.Machine.execMaxn d a b s
  | .clz d a => Sys2Proof.Machine.execClz d a s
  | .ctz d a => Sys2Proof.Machine.execCtz d a s
  | .popc d a => Sys2Proof.Machine.execPopc d a s
  | .bswap d a => Sys2Proof.Machine.execBswap d a s
  | .sextB d a => Sys2Proof.Machine.execSextB d a s
  | .sextH d a => Sys2Proof.Machine.execSextH d a s
  | .sextW d a => Sys2Proof.Machine.execSextW d a s
  | .zextW d a => Sys2Proof.Machine.execZextW d a s
  | .addw d a b => Sys2Proof.Machine.execAddw d a b s
  | .subw d a b => Sys2Proof.Machine.execSubw d a b s
  | .sllw d a b => Sys2Proof.Machine.execSllw d a b s
  | .srlw d a b => Sys2Proof.Machine.execSrlw d a b s
  | .sraw d a b => Sys2Proof.Machine.execSraw d a b s
  | .addi d a imm => Sys2Proof.Machine.execAddi d a imm s
  | .andi d a imm => Sys2Proof.Machine.execAndi d a imm s
  | .ori d a imm => Sys2Proof.Machine.execOri d a imm s
  | .xori d a imm => Sys2Proof.Machine.execXori d a imm s
  | .slti d a imm => Sys2Proof.Machine.execSlti d a imm s
  | .sltni d a imm => Sys2Proof.Machine.execSltni d a imm s
  | .lui d imm => Sys2Proof.Machine.execLui d imm s
  | .slli d a n => Sys2Proof.Machine.execSlli d a n s
  | .srli d a n => Sys2Proof.Machine.execSrli d a n s
  | .srai d a n => Sys2Proof.Machine.execSrai d a n s
  | .rori d a n => Sys2Proof.Machine.execRori d a n s
  | .slliw d a n => Sys2Proof.Machine.execSlliw d a n s
  | .srliw d a n => Sys2Proof.Machine.execSrliw d a n s
  | .sraiw d a n => Sys2Proof.Machine.execSraiw d a n s
  | .mul d a b => Sys2Proof.Machine.execMul d a b s
  | .mulh d a b => Sys2Proof.Machine.execMulh d a b s
  | .mulhn d a b => Sys2Proof.Machine.execMulhn d a b s
  | .mulhsn d a b => Sys2Proof.Machine.execMulhsn d a b s
  | .div d a b => Sys2Proof.Machine.execDiv d a b s
  | .divn d a b => Sys2Proof.Machine.execDivn d a b s
  | .rem d a b => Sys2Proof.Machine.execRem d a b s
  | .remn d a b => Sys2Proof.Machine.execRemn d a b s
  | .mulw d a b => Sys2Proof.Machine.execMulw d a b s
  | .divw d a b => Sys2Proof.Machine.execDivw d a b s
  | .divnw d a b => Sys2Proof.Machine.execDivnw d a b s
  | .remw d a b => Sys2Proof.Machine.execRemw d a b s
  | .remnw d a b => Sys2Proof.Machine.execRemnw d a b s
  | .fadd d a b t => Sys2Proof.Machine.execFadd d a b t s
  | .fsub d a b t => Sys2Proof.Machine.execFsub d a b t s
  | .fmul d a b t => Sys2Proof.Machine.execFmul d a b t s
  | .fdiv d a b t => Sys2Proof.Machine.execFdiv d a b t s
  | .fsqrt d a t => Sys2Proof.Machine.execFsqrt d a t s
  | .fmin d a b t => Sys2Proof.Machine.execFmin d a b t s
  | .fmax d a b t => Sys2Proof.Machine.execFmax d a b t s
  | .fmac d a b t => Sys2Proof.Machine.execFmac d a b t s
  | .fmsc d a b t => Sys2Proof.Machine.execFmsc d a b t s
  | .fabs d a t => Sys2Proof.Machine.execFabs d a t s
  | .fneg d a t => Sys2Proof.Machine.execFneg d a t s
  | .fsgmv d a b t => Sys2Proof.Machine.execFsgmv d a b t s
  | .feq d a b t => Sys2Proof.Machine.execFeq d a b t s
  | .flt d a b t => Sys2Proof.Machine.execFlt d a b t s
  | .fle d a b t => Sys2Proof.Machine.execFle d a b t s
  | .fkind d a t => Sys2Proof.Machine.execFkind d a t s
  | .fcvtF64F32 d a => Sys2Proof.Machine.execFcvtF64F32 d a s
  | .fcvtF32F64 d a => Sys2Proof.Machine.execFcvtF32F64 d a s
  | .fcvtF32I64 d a => Sys2Proof.Machine.execFcvtF32I64 d a s
  | .fcvtF32N64 d a => Sys2Proof.Machine.execFcvtF32N64 d a s
  | .fcvtF64I64 d a => Sys2Proof.Machine.execFcvtF64I64 d a s
  | .fcvtF64N64 d a => Sys2Proof.Machine.execFcvtF64N64 d a s
  | .fcvtI64F32 d a => Sys2Proof.Machine.execFcvtI64F32 d a s
  | .fcvtN64F32 d a => Sys2Proof.Machine.execFcvtN64F32 d a s
  | .fcvtI64F64 d a => Sys2Proof.Machine.execFcvtI64F64 d a s
  | .fcvtN64F64 d a => Sys2Proof.Machine.execFcvtN64F64 d a s
  | .fcvtF32Bf16 d a => Sys2Proof.Machine.execFcvtF32Bf16 d a s
  | .fcvtBf16F32 d a => Sys2Proof.Machine.execFcvtBf16F32 d a s
  | .fcvtF32F16 d a => Sys2Proof.Machine.execFcvtF32F16 d a s
  | .fcvtF16F32 d a => Sys2Proof.Machine.execFcvtF16F32 d a s
  | .lim d imm => Sys2Proof.Machine.execLim d imm s
  | .lea d imm => Sys2Proof.Machine.execLea d imm s
  | .callFar d imm => Sys2Proof.Machine.execCallFar d imm s
  | .beq a b imm => Sys2Proof.Machine.execBeq a b imm s
  | .bne a b imm => Sys2Proof.Machine.execBne a b imm s
  | .blt a b imm => Sys2Proof.Machine.execBlt a b imm s
  | .bge a b imm => Sys2Proof.Machine.execBge a b imm s
  | .bltn a b imm => Sys2Proof.Machine.execBltn a b imm s
  | .bgen a b imm => Sys2Proof.Machine.execBgen a b imm s
  | .jal d imm => Sys2Proof.Machine.execJal d imm s
  | .jalr d a imm => Sys2Proof.Machine.execJalr d a imm s
  | .ld d a o s' h => Sys2Proof.Machine.execLd d a o s' h s
  | .st d a o s' h => Sys2Proof.Machine.execSt d a o s' h s
  | .ldx d a b s' => Sys2Proof.Machine.execLdx d a b s' s
  | .stx d a b s' => Sys2Proof.Machine.execStx d a b s' s
  | .ldAcq d a s' z => Sys2Proof.Machine.execLdAcq d a s' z s
  | .stRel d a s' z => Sys2Proof.Machine.execStRel d a s' z s
  | .fenceAcq s' => Sys2Proof.Machine.execFenceAcq s' s
  | .fenceRel s' => Sys2Proof.Machine.execFenceRel s' s
  | .fenceAr s' => Sys2Proof.Machine.execFenceAr s' s
  | .fenceSc s' => Sys2Proof.Machine.execFenceSc s' s
  | .sdrain => Sys2Proof.Machine.execSdrain s
  | .rfence s' => Sys2Proof.Machine.execRfence s' s
  | .stAt d a b s' z => Sys2Proof.Machine.execStAt d a b s' z s
  | .ldNb d a b z => Sys2Proof.Machine.execLdNb d a b z s
  | .amoswap d a b w => Sys2Proof.Machine.execAmoswap d a b w s
  | .amoadd d a b w => Sys2Proof.Machine.execAmoadd d a b w s
  | .amoand d a b w => Sys2Proof.Machine.execAmoand d a b w s
  | .amoor d a b w => Sys2Proof.Machine.execAmoor d a b w s
  | .amoxor d a b w => Sys2Proof.Machine.execAmoxor d a b w s
  | .amomin d a b w => Sys2Proof.Machine.execAmomin d a b w s
  | .amomax d a b w => Sys2Proof.Machine.execAmomax d a b w s
  | .amominn d a b w => Sys2Proof.Machine.execAmominn d a b w s
  | .amomaxn d a b w => Sys2Proof.Machine.execAmomaxn d a b w s
  | .amocas d a b w => Sys2Proof.Machine.execAmocas d a b w s
  | .amofadd d a b w => Sys2Proof.Machine.execAmofadd d a b w s
  | .amofmin d a b w => Sys2Proof.Machine.execAmofmin d a b w s
  | .amofmax d a b w => Sys2Proof.Machine.execAmofmax d a b w s
  | .redadd a b w => Sys2Proof.Machine.execRedadd a b w s
  | .redand a b w => Sys2Proof.Machine.execRedand a b w s
  | .redor a b w => Sys2Proof.Machine.execRedor a b w s
  | .redxor a b w => Sys2Proof.Machine.execRedxor a b w s
  | .redmin a b w => Sys2Proof.Machine.execRedmin a b w s
  | .redmax a b w => Sys2Proof.Machine.execRedmax a b w s
  | .redminn a b w => Sys2Proof.Machine.execRedminn a b w s
  | .redmaxn a b w => Sys2Proof.Machine.execRedmaxn a b w s
  | .redfadd a b w => Sys2Proof.Machine.execRedfadd a b w s
  | .redfmin a b w => Sys2Proof.Machine.execRedfmin a b w s
  | .redfmax a b w => Sys2Proof.Machine.execRedfmax a b w s
  | .redOrdAddF32 d a b s' => Sys2Proof.Machine.execRedOrdAddF32 d a b s' s
  | .redOrdAddI32 d a b s' => Sys2Proof.Machine.execRedOrdAddI32 d a b s' s
  | .redOrdMinF32 d a b s' => Sys2Proof.Machine.execRedOrdMinF32 d a b s' s
  | .redOrdMaxF32 d a b s' => Sys2Proof.Machine.execRedOrdMaxF32 d a b s' s
  | .vld d a o e h => Sys2Proof.Machine.execVld d a o e h s
  | .vst d a o e h => Sys2Proof.Machine.execVst d a o e h s
  | .vlds d a b p e => Sys2Proof.Machine.execVlds d a b p e s
  | .vsts d a b p e => Sys2Proof.Machine.execVsts d a b p e s
  | .vldx d a b p e => Sys2Proof.Machine.execVldx d a b p e s
  | .vstx d a b p e => Sys2Proof.Machine.execVstx d a b p e s
  | .vldm d a p e => Sys2Proof.Machine.execVldm d a p e s
  | .vstm d a p e => Sys2Proof.Machine.execVstm d a p e s
  | .vappend d a p e => Sys2Proof.Machine.execVappend d a p e s
  | .vldNb d a b p e => Sys2Proof.Machine.execVldNb d a b p e s
  | .vstAt d a b p e s' => Sys2Proof.Machine.execVstAt d a b p e s' s
  | .vamoswap d a b p e => Sys2Proof.Machine.execVamoswap d a b p e s
  | .vamoadd d a b p e => Sys2Proof.Machine.execVamoadd d a b p e s
  | .vamoand d a b p e => Sys2Proof.Machine.execVamoand d a b p e s
  | .vamoor d a b p e => Sys2Proof.Machine.execVamoor d a b p e s
  | .vamoxor d a b p e => Sys2Proof.Machine.execVamoxor d a b p e s
  | .vamomin d a b p e => Sys2Proof.Machine.execVamomin d a b p e s
  | .vamomax d a b p e => Sys2Proof.Machine.execVamomax d a b p e s
  | .vamominn d a b p e => Sys2Proof.Machine.execVamominn d a b p e s
  | .vamomaxn d a b p e => Sys2Proof.Machine.execVamomaxn d a b p e s
  | .vredaddIdx d a b p e => Sys2Proof.Machine.execVredaddIdx d a b p e s
  | .vredandIdx d a b p e => Sys2Proof.Machine.execVredandIdx d a b p e s
  | .vredorIdx d a b p e => Sys2Proof.Machine.execVredorIdx d a b p e s
  | .vredxorIdx d a b p e => Sys2Proof.Machine.execVredxorIdx d a b p e s
  | .vredminIdx d a b p e => Sys2Proof.Machine.execVredminIdx d a b p e s
  | .vredmaxIdx d a b p e => Sys2Proof.Machine.execVredmaxIdx d a b p e s
  | .vredminnIdx d a b p e => Sys2Proof.Machine.execVredminnIdx d a b p e s
  | .vredmaxnIdx d a b p e => Sys2Proof.Machine.execVredmaxnIdx d a b p e s
  | .vredOrdAdd d a b p e f => Sys2Proof.Machine.execVredOrdAdd d a b p e f s
  | .vadd d a b p e => Sys2Proof.Machine.execVadd d a b p e s
  | .vsub d a b p e => Sys2Proof.Machine.execVsub d a b p e s
  | .vmul d a b p e => Sys2Proof.Machine.execVmul d a b p e s
  | .vmulh d a b p e => Sys2Proof.Machine.execVmulh d a b p e s
  | .vmulhn d a b p e => Sys2Proof.Machine.execVmulhn d a b p e s
  | .vand d a b p e => Sys2Proof.Machine.execVand d a b p e s
  | .vor d a b p e => Sys2Proof.Machine.execVor d a b p e s
  | .vxor d a b p e => Sys2Proof.Machine.execVxor d a b p e s
  | .vsll d a b p e => Sys2Proof.Machine.execVsll d a b p e s
  | .vsrl d a b p e => Sys2Proof.Machine.execVsrl d a b p e s
  | .vsra d a b p e => Sys2Proof.Machine.execVsra d a b p e s
  | .vmin d a b p e => Sys2Proof.Machine.execVmin d a b p e s
  | .vmax d a b p e => Sys2Proof.Machine.execVmax d a b p e s
  | .vminn d a b p e => Sys2Proof.Machine.execVminn d a b p e s
  | .vmaxn d a b p e => Sys2Proof.Machine.execVmaxn d a b p e s
  | .vadds d a b p e => Sys2Proof.Machine.execVadds d a b p e s
  | .vaddsn d a b p e => Sys2Proof.Machine.execVaddsn d a b p e s
  | .vsubs d a b p e => Sys2Proof.Machine.execVsubs d a b p e s
  | .vsubsn d a b p e => Sys2Proof.Machine.execVsubsn d a b p e s
  | .vabs d a p e => Sys2Proof.Machine.execVabs d a p e s
  | .vneg d a p e => Sys2Proof.Machine.execVneg d a p e s
  | .vclz d a p e => Sys2Proof.Machine.execVclz d a p e s
  | .vpopc d a p e => Sys2Proof.Machine.execVpopc d a p e s
  | .vceq d a b p e => Sys2Proof.Machine.execVceq d a b p e s
  | .vcne d a b p e => Sys2Proof.Machine.execVcne d a b p e s
  | .vclt d a b p e => Sys2Proof.Machine.execVclt d a b p e s
  | .vcle d a b p e => Sys2Proof.Machine.execVcle d a b p e s
  | .vcltn d a b p e => Sys2Proof.Machine.execVcltn d a b p e s
  | .vclen d a b p e => Sys2Proof.Machine.execVclen d a b p e s
  | .vmerge d a b p e => Sys2Proof.Machine.execVmerge d a b p e s
  | .vfadd d a b p e => Sys2Proof.Machine.execVfadd d a b p e s
  | .vfsub d a b p e => Sys2Proof.Machine.execVfsub d a b p e s
  | .vfmul d a b p e => Sys2Proof.Machine.execVfmul d a b p e s
  | .vfdiv d a b p e => Sys2Proof.Machine.execVfdiv d a b p e s
  | .vfsqrt d a p e => Sys2Proof.Machine.execVfsqrt d a p e s
  | .vfmin d a b p e => Sys2Proof.Machine.execVfmin d a b p e s
  | .vfmax d a b p e => Sys2Proof.Machine.execVfmax d a b p e s
  | .vfmac d a b p e => Sys2Proof.Machine.execVfmac d a b p e s
  | .vfmsc d a b p e => Sys2Proof.Machine.execVfmsc d a b p e s
  | .vfnmac d a b p e => Sys2Proof.Machine.execVfnmac d a b p e s
  | .vfabs d a p e => Sys2Proof.Machine.execVfabs d a p e s
  | .vfneg d a p e => Sys2Proof.Machine.execVfneg d a p e s
  | .vfsgmv d a b p e => Sys2Proof.Machine.execVfsgmv d a b p e s
  | .vfrecip d a p e => Sys2Proof.Machine.execVfrecip d a p e s
  | .vfrsqrt d a p e => Sys2Proof.Machine.execVfrsqrt d a p e s
  | .vfexp2 d a p e => Sys2Proof.Machine.execVfexp2 d a p e s
  | .vflog2 d a p e => Sys2Proof.Machine.execVflog2 d a p e s
  | .vfceq d a b p e => Sys2Proof.Machine.execVfceq d a b p e s
  | .vfclt d a b p e => Sys2Proof.Machine.execVfclt d a b p e s
  | .vfcle d a b p e => Sys2Proof.Machine.execVfcle d a b p e s
  | .vfcun d a b p e => Sys2Proof.Machine.execVfcun d a b p e s
  | .vfkind d a p e => Sys2Proof.Machine.execVfkind d a p e s
  | .vcvt d a p e t => Sys2Proof.Machine.execVcvt d a p e t s
  | .vcvtSr d a p e t => Sys2Proof.Machine.execVcvtSr d a p e t s
  | .vcvtmWiden d a p e c => Sys2Proof.Machine.execVcvtmWiden d a p e c s
  | .vcvtmNarrow d a p e c => Sys2Proof.Machine.execVcvtmNarrow d a p e c s
  | .vwmul d a b p e t => Sys2Proof.Machine.execVwmul d a b p e t s
  | .vperm d a b p e => Sys2Proof.Machine.execVperm d a b p e s
  | .velsh d a b p e => Sys2Proof.Machine.execVelsh d a b p e s
  | .velrot d a b p e => Sys2Proof.Machine.execVelrot d a b p e s
  | .vredsum d a p e => Sys2Proof.Machine.execVredsum d a p e s
  | .vredmin d a p e => Sys2Proof.Machine.execVredmin d a p e s
  | .vredmax d a p e => Sys2Proof.Machine.execVredmax d a p e s
  | .vredminn d a p e => Sys2Proof.Machine.execVredminn d a p e s
  | .vredmaxn d a p e => Sys2Proof.Machine.execVredmaxn d a p e s
  | .vredand d a p e => Sys2Proof.Machine.execVredand d a p e s
  | .vredor d a p e => Sys2Proof.Machine.execVredor d a p e s
  | .vscan d a p e => Sys2Proof.Machine.execVscan d a p e s
  | .vsegsum d a b p e => Sys2Proof.Machine.execVsegsum d a b p e s
  | .vrand d p e => Sys2Proof.Machine.execVrand d p e s
  | .vmvx d a b e => Sys2Proof.Machine.execVmvx d a b e s
  | .vmvv d a b e => Sys2Proof.Machine.execVmvv d a b e s
  | .vbcast d a p e => Sys2Proof.Machine.execVbcast d a p e s
  | .vsqueeze d a p e => Sys2Proof.Machine.execVsqueeze d a p e s
  | .vindex d a b p e => Sys2Proof.Machine.execVindex d a b p e s
  | .mand d a b => Sys2Proof.Machine.execMand d a b s
  | .mor d a b => Sys2Proof.Machine.execMor d a b s
  | .mxor d a b => Sys2Proof.Machine.execMxor d a b s
  | .mandn d a b => Sys2Proof.Machine.execMandn d a b s
  | .mnot d a => Sys2Proof.Machine.execMnot d a s
  | .mset d => Sys2Proof.Machine.execMset d s
  | .mclr d => Sys2Proof.Machine.execMclr d s
  | .mcnt d a => Sys2Proof.Machine.execMcnt d a s
  | .many d a => Sys2Proof.Machine.execMany d a s
  | .mfirst d a => Sys2Proof.Machine.execMfirst d a s
  | .vaddVx d a b p e x => Sys2Proof.Machine.execVaddVx d a b p e x s
  | .vsubVx d a b p e x => Sys2Proof.Machine.execVsubVx d a b p e x s
  | .vrsubVx d a b p e x => Sys2Proof.Machine.execVrsubVx d a b p e x s
  | .vmulVx d a b p e x => Sys2Proof.Machine.execVmulVx d a b p e x s
  | .vandVx d a b p e x => Sys2Proof.Machine.execVandVx d a b p e x s
  | .vorVx d a b p e x => Sys2Proof.Machine.execVorVx d a b p e x s
  | .vxorVx d a b p e x => Sys2Proof.Machine.execVxorVx d a b p e x s
  | .vsllVx d a b p e x => Sys2Proof.Machine.execVsllVx d a b p e x s
  | .vsrlVx d a b p e x => Sys2Proof.Machine.execVsrlVx d a b p e x s
  | .vsraVx d a b p e x => Sys2Proof.Machine.execVsraVx d a b p e x s
  | .vminVx d a b p e x => Sys2Proof.Machine.execVminVx d a b p e x s
  | .vmaxVx d a b p e x => Sys2Proof.Machine.execVmaxVx d a b p e x s
  | .vfaddVx d a b p e => Sys2Proof.Machine.execVfaddVx d a b p e s
  | .vfmulVx d a b p e => Sys2Proof.Machine.execVfmulVx d a b p e s
  | .vfmacVx d a b p e => Sys2Proof.Machine.execVfmacVx d a b p e s
  | .vceqVx d a b p e x => Sys2Proof.Machine.execVceqVx d a b p e x s
  | .mop t a b r c f => Sys2Proof.Machine.execMop t a b r c f s
  | .mops t a b r c f => Sys2Proof.Machine.execMops t a b r c f s
  | .mopx t a b r c f => Sys2Proof.Machine.execMopx t a b r c f s
  | .mopxs t a b r c f => Sys2Proof.Machine.execMopxs t a b r c f s
  | .mopsp t a b r c f => Sys2Proof.Machine.execMopsp t a b r c f s
  | .mopi t a b r c f => Sys2Proof.Machine.execMopi t a b r c f s
  | .mopiSat t a b r c f => Sys2Proof.Machine.execMopiSat t a b r c f s
  | .acczero t => Sys2Proof.Machine.execAcczero t s
  | .accrd t d b => Sys2Proof.Machine.execAccrd t d b s
  | .accwr t a b => Sys2Proof.Machine.execAccwr t a b s
  | .accpro t y d c s' => Sys2Proof.Machine.execAccpro t y d c s' s
  | .accld t a => Sys2Proof.Machine.execAccld t a s
  | .accst t a => Sys2Proof.Machine.execAccst t a s
  | .accmov t s' => Sys2Proof.Machine.execAccmov t s' s
  | .accadd t y s' => Sys2Proof.Machine.execAccadd t y s' s
  | .accsave a => Sys2Proof.Machine.execAccsave a s
  | .accrest a => Sys2Proof.Machine.execAccrest a s
  | .cpy a b c n h x => Sys2Proof.Machine.execCpy a b c n h x s
  | .cpy2 a b c n h x => Sys2Proof.Machine.execCpy2 a b c n h x s
  | .cpyxG a b c n h => Sys2Proof.Machine.execCpyxG a b c n h s
  | .cpyxS a b c n h => Sys2Proof.Machine.execCpyxS a b c n h s
  | .cpyM a b c n h x => Sys2Proof.Machine.execCpyM a b c n h x s
  | .cpy2M a b c n h x => Sys2Proof.Machine.execCpy2M a b c n h x s
  | .cpyxGM a b c n h => Sys2Proof.Machine.execCpyxGM a b c n h s
  | .ccwait b n h => Sys2Proof.Machine.execCcwait b n h s
  | .ccrd a n h => Sys2Proof.Machine.execCcrd a n h s
  | .ccset b n h => Sys2Proof.Machine.execCcset b n h s
  | .sgbind a s' h x => Sys2Proof.Machine.execSgbind a s' h x s
  | .sgunbind s' h => Sys2Proof.Machine.execSgunbind s' h s
  | .subscribe a b c e h => Sys2Proof.Machine.execSubscribe a b c e h s
  | .unsub e h => Sys2Proof.Machine.execUnsub e h s
  | .unsubPub e h => Sys2Proof.Machine.execUnsubPub e h s
  | .subflush h => Sys2Proof.Machine.execSubflush h s
  | .barrArrive g => Sys2Proof.Machine.execBarrArrive g s
  | .barrWait g => Sys2Proof.Machine.execBarrWait g s
  | .barrArriveSpan g => Sys2Proof.Machine.execBarrArriveSpan g s
  | .barrWaitSpan g => Sys2Proof.Machine.execBarrWaitSpan g s
  | .barrArriveGang => Sys2Proof.Machine.execBarrArriveGang s
  | .barrWaitGang => Sys2Proof.Machine.execBarrWaitGang s
  | .pause n => Sys2Proof.Machine.execPause n s
  | .recv d a => Sys2Proof.Machine.execRecv d a s
  | .launch a s' => Sys2Proof.Machine.execLaunch a s' s
  | .launchR d a s' => Sys2Proof.Machine.execLaunchR d a s' s
  | .join a => Sys2Proof.Machine.execJoin a s
  | .gexit => Sys2Proof.Machine.execGexit s
  | .yield => Sys2Proof.Machine.execYield s
  | .rdctl d c => Sys2Proof.Machine.execRdctl d c s
  | .wrctl a c => Sys2Proof.Machine.execWrctl a c s
  | .setctl a c => Sys2Proof.Machine.execSetctl a c s
  | .clrctl a c => Sys2Proof.Machine.execClrctl a c s
  | .setvl d a e => Sys2Proof.Machine.execSetvl d a e s
  | .setml d a => Sys2Proof.Machine.execSetml d a s
  | .trap n => Sys2Proof.Machine.execTrap n s
  | .eret => Sys2Proof.Machine.execEret s
  | .fenceI => Sys2Proof.Machine.execFenceI s
  | .preempt => Sys2Proof.Machine.execPreempt s
  | .gkill a => Sys2Proof.Machine.execGkill a s
  | .sfqpop d => Sys2Proof.Machine.execSfqpop d s
  | .tlbinv a => Sys2Proof.Machine.execTlbinv a s
  | .hinv a => Sys2Proof.Machine.execHinv a s
  | .ebreak => Sys2Proof.Machine.execEbreak s
  | .halt => Sys2Proof.Machine.execHalt s
  | .evStoreBufferDrain core => Sys2Proof.Machine.execEvStoreBufferDrain core s
  | .evStoreFaultReport core => Sys2Proof.Machine.execEvStoreFaultReport core s
  | .evCopyErrorReport core => Sys2Proof.Machine.execEvCopyErrorReport core s
  | .evDeadlineReport core => Sys2Proof.Machine.execEvDeadlineReport core s
  | .evUncorrectableReport core => Sys2Proof.Machine.execEvUncorrectableReport core s
  | .evRead k => Sys2Proof.Machine.execEvRead k s
  | .evWrite k => Sys2Proof.Machine.execEvWrite k s
  | .evAtomic k => Sys2Proof.Machine.execEvAtomic k s
  | .evReduce k => Sys2Proof.Machine.execEvReduce k s
  | .evResp k => Sys2Proof.Machine.execEvResp k s
  | .evTimedArrival k => Sys2Proof.Machine.execEvTimedArrival k s
  | .evTimedEntryGrant k => Sys2Proof.Machine.execEvTimedEntryGrant k s
  | .evTimedInstant home => Sys2Proof.Machine.execEvTimedInstant home s
  | .evQueueEnqueue q record sender => Sys2Proof.Machine.execEvQueueEnqueue q record sender s
  | .evBadwrite q => Sys2Proof.Machine.execEvBadwrite q s
  | .evContRetry die => Sys2Proof.Machine.execEvContRetry die s
  | .evJoinApply k => Sys2Proof.Machine.execEvJoinApply k s
  | .evRingDelivery q => Sys2Proof.Machine.execEvRingDelivery q s
  | .evContribution k => Sys2Proof.Machine.execEvContribution k s
  | .evSpanRelease k => Sys2Proof.Machine.execEvSpanRelease k s
  | .evSpanWaitExit core => Sys2Proof.Machine.execEvSpanWaitExit core s
  | .evPauseExpiry core => Sys2Proof.Machine.execEvPauseExpiry core s
  | .evPreemptStop core => Sys2Proof.Machine.execEvPreemptStop core s
  | .evPreemptNotice core => Sys2Proof.Machine.execEvPreemptNotice core s
  | .evNoticeTimeout gang => Sys2Proof.Machine.execEvNoticeTimeout gang s
  | .evParkComplete core => Sys2Proof.Machine.execEvParkComplete core s
  | .evGangResume gang => Sys2Proof.Machine.execEvGangResume gang s
  | .evCopyAccept core => Sys2Proof.Machine.execEvCopyAccept core s
  | .evPendingReserve copy => Sys2Proof.Machine.execEvPendingReserve copy s
  | .evGraphFrame copy => Sys2Proof.Machine.execEvGraphFrame copy s
  | .evChunkComplete copy chunk => Sys2Proof.Machine.execEvChunkComplete copy chunk s
  | .evBatchTimeout core entry subscriber => Sys2Proof.Machine.execEvBatchTimeout core entry subscriber s
  | .evSubscriptionUpdate k => Sys2Proof.Machine.execEvSubscriptionUpdate k s
  | .evRelockEnd die => Sys2Proof.Machine.execEvRelockEnd die s
  | .evPowerControlTick die average1 average10 => Sys2Proof.Machine.execEvPowerControlTick die average1 average10 s
  | .evTctlThrottleTick die temperature => Sys2Proof.Machine.execEvTctlThrottleTick die temperature s
  | .evDieOver105c die => Sys2Proof.Machine.execEvDieOver105c die s
  | .evThermalTrip sensor temperature => Sys2Proof.Machine.execEvThermalTrip sensor temperature s
  | .evHbmOver85c stack => Sys2Proof.Machine.execEvHbmOver85c stack s
  | .evHbmOver95c stack => Sys2Proof.Machine.execEvHbmOver95c stack s
  | .evTelemetryUpdate power temperature => Sys2Proof.Machine.execEvTelemetryUpdate power temperature s
  | .evPcapWrite by_ value => Sys2Proof.Machine.execEvPcapWrite by_ value s
  | .evTctlWrite by_ value => Sys2Proof.Machine.execEvTctlWrite by_ value s
  | .evStepmaxWrite by_ die value => Sys2Proof.Machine.execEvStepmaxWrite by_ die value s
  | .evRegisterWrite by_ off value => Sys2Proof.Machine.execEvRegisterWrite by_ off value s
  | .evPrtEntryWrite by_ n dword value => Sys2Proof.Machine.execEvPrtEntryWrite by_ n dword value s
  | .evQcfgWrite by_ q value => Sys2Proof.Machine.execEvQcfgWrite by_ q value s
  | .evQrelWrite by_ q value => Sys2Proof.Machine.execEvQrelWrite by_ q value s
  | .evQpop by_ q value => Sys2Proof.Machine.execEvQpop by_ q value s
  | .evScfgWrite by_ die group value => Sys2Proof.Machine.execEvScfgWrite by_ die group value s
  | .evPreqWrite by_ die value => Sys2Proof.Machine.execEvPreqWrite by_ die value s
  | .evMigrationEntryWrite by_ n dword value => Sys2Proof.Machine.execEvMigrationEntryWrite by_ n dword value s
  | .evMigrationPull n line => Sys2Proof.Machine.execEvMigrationPull n line s
  | .evKeyctlWrite by_ key value => Sys2Proof.Machine.execEvKeyctlWrite by_ key value s
  | .evKeydataWrite by_ key dword value => Sys2Proof.Machine.execEvKeydataWrite by_ key dword value s
  | .evTrapBlockWrite by_ block dword value => Sys2Proof.Machine.execEvTrapBlockWrite by_ block dword value s
  | .evOffreqWrite by_ value plan => Sys2Proof.Machine.execEvOffreqWrite by_ value plan s
  | .evEvacBlockMove region => Sys2Proof.Machine.execEvEvacBlockMove region s
  | .evRlenWrite by_ value image => Sys2Proof.Machine.execEvRlenWrite by_ value image s
  | .evHostBar4Read off size => Sys2Proof.Machine.execEvHostBar4Read off size s
  | .evHostBar4Write off bytes => Sys2Proof.Machine.execEvHostBar4Write off bytes s
  | .evPtpSync offset => Sys2Proof.Machine.execEvPtpSync offset s
  | .evSyncTimeout => Sys2Proof.Machine.execEvSyncTimeout s
  | .evLaneRepair link lane => Sys2Proof.Machine.execEvLaneRepair link lane s
  | .evPortFailure port => Sys2Proof.Machine.execEvPortFailure port s
  | .evDebugHaltEnd die => Sys2Proof.Machine.execEvDebugHaltEnd die s
  | .evRetentionEnter array => Sys2Proof.Machine.execEvRetentionEnter array s
  | .evRetentionLeave array => Sys2Proof.Machine.execEvRetentionLeave array s
  | .evDramScrub counts bad => Sys2Proof.Machine.execEvDramScrub counts bad s
  | .evMscScrub counts bad => Sys2Proof.Machine.execEvMscScrub counts bad s
  | .evRemapReload controller pseudo rows shadowGood => Sys2Proof.Machine.execEvRemapReload controller pseudo rows shadowGood s
  | .evRowSparing controller pseudo rows spared => Sys2Proof.Machine.execEvRowSparing controller pseudo rows spared s
  | .evClusterFailure die cluster unreadable => Sys2Proof.Machine.execEvClusterFailure die cluster unreadable s
  | .evColdReset image failed package domain gtime master => Sys2Proof.Machine.execEvColdReset image failed package domain gtime master s
  | .evWarmReset => Sys2Proof.Machine.execEvWarmReset s
  | .evSpdmRequest code => Sys2Proof.Machine.execEvSpdmRequest code s
  | .evBlackBoxRead die first count => Sys2Proof.Machine.execEvBlackBoxRead die first count s
  | .evImageCheck ctx image => Sys2Proof.Machine.execEvImageCheck ctx image s
  | .evTenantConfigRequest die tids => Sys2Proof.Machine.execEvTenantConfigRequest die tids s
  | .evIllegalInsn word => Sys2Proof.Machine.execEvIllegalInsn word s
  | .evFetchFault va => Sys2Proof.Machine.execEvFetchFault va s
  | .evEndOf105cAction die => Sys2Proof.Machine.execEvEndOf105cAction die s
  | .evStandbyPowerLoss => Sys2Proof.Machine.execEvStandbyPowerLoss s
  | .evRemapRebuildEnd controller pseudo shadowGood => Sys2Proof.Machine.execEvRemapRebuildEnd controller pseudo shadowGood s
  | .evRetentionEntered array => Sys2Proof.Machine.execEvRetentionEntered array s
  | .evResumeEntryMove gang die => Sys2Proof.Machine.execEvResumeEntryMove gang die s
  | .evHaltOnBreak die on => Sys2Proof.Machine.execEvHaltOnBreak die on s

end Sys2Proof.Machine
end

