-- ==== Sys2Proof/Machine/RunWord.lean ====
section
/-! DEFINITION. The meaning of a word that passes its static check: the meaning of the instruction that Decode.lean
gives it (Laws/Words.lean), chosen by the same fields. -/

namespace Sys2Proof.Machine

/-- The meaning of a word of major opcode 0x01 that is an instruction. -/
def runOp01 (w : Nat) (s : State) : Out :=
  match w % 256 with
  | 0 => Sys2Proof.Machine.execAdd (fieldOf w 21 5) (fieldOf w 16 5) (fieldOf w 11 5) s
  | 1 => Sys2Proof.Machine.execSub (fieldOf w 21 5) (fieldOf w 16 5) (fieldOf w 11 5) s
  | 2 => Sys2Proof.Machine.execAnd (fieldOf w 21 5) (fieldOf w 16 5) (fieldOf w 11 5) s
  | 3 => Sys2Proof.Machine.execOr (fieldOf w 21 5) (fieldOf w 16 5) (fieldOf w 11 5) s
  | 4 => Sys2Proof.Machine.execXor (fieldOf w 21 5) (fieldOf w 16 5) (fieldOf w 11 5) s
  | 5 => Sys2Proof.Machine.execAndn (fieldOf w 21 5) (fieldOf w 16 5) (fieldOf w 11 5) s
  | 6 => Sys2Proof.Machine.execOrn (fieldOf w 21 5) (fieldOf w 16 5) (fieldOf w 11 5) s
  | 7 => Sys2Proof.Machine.execXnor (fieldOf w 21 5) (fieldOf w 16 5) (fieldOf w 11 5) s
  | 8 => Sys2Proof.Machine.execSll (fieldOf w 21 5) (fieldOf w 16 5) (fieldOf w 11 5) s
  | 9 => Sys2Proof.Machine.execSrl (fieldOf w 21 5) (fieldOf w 16 5) (fieldOf w 11 5) s
  | 10 => Sys2Proof.Machine.execSra (fieldOf w 21 5) (fieldOf w 16 5) (fieldOf w 11 5) s
  | 11 => Sys2Proof.Machine.execRol (fieldOf w 21 5) (fieldOf w 16 5) (fieldOf w 11 5) s
  | 12 => Sys2Proof.Machine.execRor (fieldOf w 21 5) (fieldOf w 16 5) (fieldOf w 11 5) s
  | 16 => Sys2Proof.Machine.execSlt (fieldOf w 21 5) (fieldOf w 16 5) (fieldOf w 11 5) s
  | 17 => Sys2Proof.Machine.execSltn (fieldOf w 21 5) (fieldOf w 16 5) (fieldOf w 11 5) s
  | 18 => Sys2Proof.Machine.execSeq (fieldOf w 21 5) (fieldOf w 16 5) (fieldOf w 11 5) s
  | 19 => Sys2Proof.Machine.execSne (fieldOf w 21 5) (fieldOf w 16 5) (fieldOf w 11 5) s
  | 20 => Sys2Proof.Machine.execMin (fieldOf w 21 5) (fieldOf w 16 5) (fieldOf w 11 5) s
  | 21 => Sys2Proof.Machine.execMax (fieldOf w 21 5) (fieldOf w 16 5) (fieldOf w 11 5) s
  | 22 => Sys2Proof.Machine.execMinn (fieldOf w 21 5) (fieldOf w 16 5) (fieldOf w 11 5) s
  | 23 => Sys2Proof.Machine.execMaxn (fieldOf w 21 5) (fieldOf w 16 5) (fieldOf w 11 5) s
  | 24 => Sys2Proof.Machine.execClz (fieldOf w 21 5) (fieldOf w 16 5) s
  | 25 => Sys2Proof.Machine.execCtz (fieldOf w 21 5) (fieldOf w 16 5) s
  | 26 => Sys2Proof.Machine.execPopc (fieldOf w 21 5) (fieldOf w 16 5) s
  | 27 => Sys2Proof.Machine.execBswap (fieldOf w 21 5) (fieldOf w 16 5) s
  | 28 => Sys2Proof.Machine.execSextB (fieldOf w 21 5) (fieldOf w 16 5) s
  | 29 => Sys2Proof.Machine.execSextH (fieldOf w 21 5) (fieldOf w 16 5) s
  | 30 => Sys2Proof.Machine.execSextW (fieldOf w 21 5) (fieldOf w 16 5) s
  | 31 => Sys2Proof.Machine.execZextW (fieldOf w 21 5) (fieldOf w 16 5) s
  | 32 => Sys2Proof.Machine.execAddw (fieldOf w 21 5) (fieldOf w 16 5) (fieldOf w 11 5) s
  | 33 => Sys2Proof.Machine.execSubw (fieldOf w 21 5) (fieldOf w 16 5) (fieldOf w 11 5) s
  | 34 => Sys2Proof.Machine.execSllw (fieldOf w 21 5) (fieldOf w 16 5) (fieldOf w 11 5) s
  | 35 => Sys2Proof.Machine.execSrlw (fieldOf w 21 5) (fieldOf w 16 5) (fieldOf w 11 5) s
  | 36 => Sys2Proof.Machine.execSraw (fieldOf w 21 5) (fieldOf w 16 5) (fieldOf w 11 5) s
  | _ => .next s

/-- The meaning of a word of major opcode 0x02 that is an instruction. -/
def runOp02 (w : Nat) (s : State) : Out :=
  Sys2Proof.Machine.execAddi (fieldOf w 21 5) (fieldOf w 16 5) (fieldOf w 0 16) s

/-- The meaning of a word of major opcode 0x03 that is an instruction. -/
def runOp03 (w : Nat) (s : State) : Out :=
  Sys2Proof.Machine.execAndi (fieldOf w 21 5) (fieldOf w 16 5) (fieldOf w 0 16) s

/-- The meaning of a word of major opcode 0x04 that is an instruction. -/
def runOp04 (w : Nat) (s : State) : Out :=
  Sys2Proof.Machine.execOri (fieldOf w 21 5) (fieldOf w 16 5) (fieldOf w 0 16) s

/-- The meaning of a word of major opcode 0x05 that is an instruction. -/
def runOp05 (w : Nat) (s : State) : Out :=
  Sys2Proof.Machine.execXori (fieldOf w 21 5) (fieldOf w 16 5) (fieldOf w 0 16) s

/-- The meaning of a word of major opcode 0x06 that is an instruction. -/
def runOp06 (w : Nat) (s : State) : Out :=
  Sys2Proof.Machine.execSlti (fieldOf w 21 5) (fieldOf w 16 5) (fieldOf w 0 16) s

/-- The meaning of a word of major opcode 0x07 that is an instruction. -/
def runOp07 (w : Nat) (s : State) : Out :=
  Sys2Proof.Machine.execSltni (fieldOf w 21 5) (fieldOf w 16 5) (fieldOf w 0 16) s

/-- The meaning of a word of major opcode 0x08 that is an instruction. -/
def runOp08 (w : Nat) (s : State) : Out :=
  if w / 2 ^ 16 % 32 = 0 then Sys2Proof.Machine.execLui (fieldOf w 21 5) (fieldOf w 0 16) s
  else .next s

/-- The meaning of a word of major opcode 0x09 that is an instruction. -/
def runOp09 (w : Nat) (s : State) : Out :=
  if w / 2 ^ 6 % 1024 = 0 then Sys2Proof.Machine.execSlli (fieldOf w 21 5) (fieldOf w 16 5) (fieldOf w 0 6) s
  else if w / 2 ^ 6 % 1024 = 4 then Sys2Proof.Machine.execSrli (fieldOf w 21 5) (fieldOf w 16 5) (fieldOf w 0 6) s
  else if w / 2 ^ 6 % 1024 = 8 then Sys2Proof.Machine.execSrai (fieldOf w 21 5) (fieldOf w 16 5) (fieldOf w 0 6) s
  else if w / 2 ^ 6 % 1024 = 12 then Sys2Proof.Machine.execRori (fieldOf w 21 5) (fieldOf w 16 5) (fieldOf w 0 6) s
  else if w / 2 ^ 5 % 2048 = 32 then Sys2Proof.Machine.execSlliw (fieldOf w 21 5) (fieldOf w 16 5) (fieldOf w 0 5) s
  else if w / 2 ^ 5 % 2048 = 40 then Sys2Proof.Machine.execSrliw (fieldOf w 21 5) (fieldOf w 16 5) (fieldOf w 0 5) s
  else if w / 2 ^ 5 % 2048 = 48 then Sys2Proof.Machine.execSraiw (fieldOf w 21 5) (fieldOf w 16 5) (fieldOf w 0 5) s
  else .next s

/-- The meaning of a word of major opcode 0x0A that is an instruction. -/
def runOp0A (w : Nat) (s : State) : Out :=
  match w % 256 with
  | 0 => Sys2Proof.Machine.execMul (fieldOf w 21 5) (fieldOf w 16 5) (fieldOf w 11 5) s
  | 1 => Sys2Proof.Machine.execMulh (fieldOf w 21 5) (fieldOf w 16 5) (fieldOf w 11 5) s
  | 2 => Sys2Proof.Machine.execMulhn (fieldOf w 21 5) (fieldOf w 16 5) (fieldOf w 11 5) s
  | 3 => Sys2Proof.Machine.execMulhsn (fieldOf w 21 5) (fieldOf w 16 5) (fieldOf w 11 5) s
  | 4 => Sys2Proof.Machine.execDiv (fieldOf w 21 5) (fieldOf w 16 5) (fieldOf w 11 5) s
  | 5 => Sys2Proof.Machine.execDivn (fieldOf w 21 5) (fieldOf w 16 5) (fieldOf w 11 5) s
  | 6 => Sys2Proof.Machine.execRem (fieldOf w 21 5) (fieldOf w 16 5) (fieldOf w 11 5) s
  | 7 => Sys2Proof.Machine.execRemn (fieldOf w 21 5) (fieldOf w 16 5) (fieldOf w 11 5) s
  | 8 => Sys2Proof.Machine.execMulw (fieldOf w 21 5) (fieldOf w 16 5) (fieldOf w 11 5) s
  | 9 => Sys2Proof.Machine.execDivw (fieldOf w 21 5) (fieldOf w 16 5) (fieldOf w 11 5) s
  | 10 => Sys2Proof.Machine.execDivnw (fieldOf w 21 5) (fieldOf w 16 5) (fieldOf w 11 5) s
  | 11 => Sys2Proof.Machine.execRemw (fieldOf w 21 5) (fieldOf w 16 5) (fieldOf w 11 5) s
  | 12 => Sys2Proof.Machine.execRemnw (fieldOf w 21 5) (fieldOf w 16 5) (fieldOf w 11 5) s
  | _ => .next s

/-- The meaning of a word of major opcode 0x0B that is an instruction. -/
def runOp0B (w : Nat) (s : State) : Out :=
  match w % 128 with
  | 0 => Sys2Proof.Machine.execFadd (fieldOf w 21 5) (fieldOf w 16 5) (fieldOf w 11 5) (fieldOf w 7 1) s
  | 1 => Sys2Proof.Machine.execFsub (fieldOf w 21 5) (fieldOf w 16 5) (fieldOf w 11 5) (fieldOf w 7 1) s
  | 2 => Sys2Proof.Machine.execFmul (fieldOf w 21 5) (fieldOf w 16 5) (fieldOf w 11 5) (fieldOf w 7 1) s
  | 3 => Sys2Proof.Machine.execFdiv (fieldOf w 21 5) (fieldOf w 16 5) (fieldOf w 11 5) (fieldOf w 7 1) s
  | 4 => Sys2Proof.Machine.execFsqrt (fieldOf w 21 5) (fieldOf w 16 5) (fieldOf w 7 1) s
  | 5 => Sys2Proof.Machine.execFmin (fieldOf w 21 5) (fieldOf w 16 5) (fieldOf w 11 5) (fieldOf w 7 1) s
  | 6 => Sys2Proof.Machine.execFmax (fieldOf w 21 5) (fieldOf w 16 5) (fieldOf w 11 5) (fieldOf w 7 1) s
  | 7 => Sys2Proof.Machine.execFmac (fieldOf w 21 5) (fieldOf w 16 5) (fieldOf w 11 5) (fieldOf w 7 1) s
  | 8 => Sys2Proof.Machine.execFmsc (fieldOf w 21 5) (fieldOf w 16 5) (fieldOf w 11 5) (fieldOf w 7 1) s
  | 9 => Sys2Proof.Machine.execFabs (fieldOf w 21 5) (fieldOf w 16 5) (fieldOf w 7 1) s
  | 10 => Sys2Proof.Machine.execFneg (fieldOf w 21 5) (fieldOf w 16 5) (fieldOf w 7 1) s
  | 11 => Sys2Proof.Machine.execFsgmv (fieldOf w 21 5) (fieldOf w 16 5) (fieldOf w 11 5) (fieldOf w 7 1) s
  | _ => .next s

/-- The meaning of a word of major opcode 0x0C that is an instruction. -/
def runOp0C (w : Nat) (s : State) : Out :=
  if w % 4 = 0 ∧ w / 2 ^ 3 % 256 = 0 then Sys2Proof.Machine.execFeq (fieldOf w 21 5) (fieldOf w 16 5) (fieldOf w 11 5) (fieldOf w 2 1) s
  else if w % 4 = 1 ∧ w / 2 ^ 3 % 256 = 0 then Sys2Proof.Machine.execFlt (fieldOf w 21 5) (fieldOf w 16 5) (fieldOf w 11 5) (fieldOf w 2 1) s
  else if w % 4 = 2 ∧ w / 2 ^ 3 % 256 = 0 then Sys2Proof.Machine.execFle (fieldOf w 21 5) (fieldOf w 16 5) (fieldOf w 11 5) (fieldOf w 2 1) s
  else if w % 4 = 3 ∧ w / 2 ^ 3 % 8192 = 0 then Sys2Proof.Machine.execFkind (fieldOf w 21 5) (fieldOf w 16 5) (fieldOf w 2 1) s
  else if w % 65536 = 16 then Sys2Proof.Machine.execFcvtF64F32 (fieldOf w 21 5) (fieldOf w 16 5) s
  else if w % 65536 = 17 then Sys2Proof.Machine.execFcvtF32F64 (fieldOf w 21 5) (fieldOf w 16 5) s
  else if w % 65536 = 18 then Sys2Proof.Machine.execFcvtF32I64 (fieldOf w 21 5) (fieldOf w 16 5) s
  else if w % 65536 = 19 then Sys2Proof.Machine.execFcvtF32N64 (fieldOf w 21 5) (fieldOf w 16 5) s
  else if w % 65536 = 20 then Sys2Proof.Machine.execFcvtF64I64 (fieldOf w 21 5) (fieldOf w 16 5) s
  else if w % 65536 = 21 then Sys2Proof.Machine.execFcvtF64N64 (fieldOf w 21 5) (fieldOf w 16 5) s
  else if w % 65536 = 22 then Sys2Proof.Machine.execFcvtI64F32 (fieldOf w 21 5) (fieldOf w 16 5) s
  else if w % 65536 = 23 then Sys2Proof.Machine.execFcvtN64F32 (fieldOf w 21 5) (fieldOf w 16 5) s
  else if w % 65536 = 24 then Sys2Proof.Machine.execFcvtI64F64 (fieldOf w 21 5) (fieldOf w 16 5) s
  else if w % 65536 = 25 then Sys2Proof.Machine.execFcvtN64F64 (fieldOf w 21 5) (fieldOf w 16 5) s
  else if w % 65536 = 26 then Sys2Proof.Machine.execFcvtF32Bf16 (fieldOf w 21 5) (fieldOf w 16 5) s
  else if w % 65536 = 27 then Sys2Proof.Machine.execFcvtBf16F32 (fieldOf w 21 5) (fieldOf w 16 5) s
  else if w % 65536 = 28 then Sys2Proof.Machine.execFcvtF32F16 (fieldOf w 21 5) (fieldOf w 16 5) s
  else if w % 65536 = 29 then Sys2Proof.Machine.execFcvtF16F32 (fieldOf w 21 5) (fieldOf w 16 5) s
  else .next s

/-- The meaning of a word of major opcode 0x10 that is an instruction. -/
def runOp10 (w : Nat) (s : State) : Out :=
  Sys2Proof.Machine.execLd (fieldOf w 21 5) (fieldOf w 16 5) (fieldOf w 5 11) (fieldOf w 2 3) (fieldOf w 0 2) s

/-- The meaning of a word of major opcode 0x11 that is an instruction. -/
def runOp11 (w : Nat) (s : State) : Out :=
  if w / 2 ^ 4 % 2 = 0 then Sys2Proof.Machine.execSt (fieldOf w 21 5) (fieldOf w 16 5) (fieldOf w 5 11) (fieldOf w 2 2) (fieldOf w 0 2) s
  else .next s

/-- The meaning of a word of major opcode 0x12 that is an instruction. -/
def runOp12 (w : Nat) (s : State) : Out :=
  if w / 2 ^ 3 % 256 = 0 then Sys2Proof.Machine.execLdx (fieldOf w 21 5) (fieldOf w 16 5) (fieldOf w 11 5) (fieldOf w 0 3) s
  else if w / 2 ^ 2 % 512 = 2 then Sys2Proof.Machine.execStx (fieldOf w 21 5) (fieldOf w 16 5) (fieldOf w 11 5) (fieldOf w 0 2) s
  else if w / 2 ^ 2 % 512 = 4 then Sys2Proof.Machine.execLdAcq (fieldOf w 21 5) (fieldOf w 16 5) (fieldOf w 11 5) (fieldOf w 0 2) s
  else if w / 2 ^ 2 % 512 = 5 then Sys2Proof.Machine.execStRel (fieldOf w 21 5) (fieldOf w 16 5) (fieldOf w 11 5) (fieldOf w 0 2) s
  else if w % 2048 = 48 ∧ w / 2 ^ 16 % 1024 = 0 then Sys2Proof.Machine.execFenceAcq (fieldOf w 11 5) s
  else if w % 2048 = 49 ∧ w / 2 ^ 16 % 1024 = 0 then Sys2Proof.Machine.execFenceRel (fieldOf w 11 5) s
  else if w % 2048 = 50 ∧ w / 2 ^ 16 % 1024 = 0 then Sys2Proof.Machine.execFenceAr (fieldOf w 11 5) s
  else if w % 2048 = 51 ∧ w / 2 ^ 16 % 1024 = 0 then Sys2Proof.Machine.execFenceSc (fieldOf w 11 5) s
  else if w % 67108864 = 56 then Sys2Proof.Machine.execSdrain s
  else if w % 2048 = 57 ∧ w / 2 ^ 16 % 1024 = 0 then Sys2Proof.Machine.execRfence (fieldOf w 11 5) s
  else if w / 2 ^ 6 % 32 = 1 then Sys2Proof.Machine.execStAt (fieldOf w 21 5) (fieldOf w 16 5) (fieldOf w 11 5) (fieldOf w 2 4) (fieldOf w 0 2) s
  else if w / 2 ^ 2 % 512 = 32 then Sys2Proof.Machine.execLdNb (fieldOf w 21 5) (fieldOf w 16 5) (fieldOf w 11 5) (fieldOf w 0 2) s
  else .next s

/-- The meaning of a word of major opcode 0x13 that is an instruction. -/
def runOp13 (w : Nat) (s : State) : Out :=
  if w / 2 ^ 1 % 1024 = 0 then Sys2Proof.Machine.execAmoswap (fieldOf w 21 5) (fieldOf w 16 5) (fieldOf w 11 5) (fieldOf w 0 1) s
  else if w / 2 ^ 1 % 1024 = 1 then Sys2Proof.Machine.execAmoadd (fieldOf w 21 5) (fieldOf w 16 5) (fieldOf w 11 5) (fieldOf w 0 1) s
  else if w / 2 ^ 1 % 1024 = 2 then Sys2Proof.Machine.execAmoand (fieldOf w 21 5) (fieldOf w 16 5) (fieldOf w 11 5) (fieldOf w 0 1) s
  else if w / 2 ^ 1 % 1024 = 3 then Sys2Proof.Machine.execAmoor (fieldOf w 21 5) (fieldOf w 16 5) (fieldOf w 11 5) (fieldOf w 0 1) s
  else if w / 2 ^ 1 % 1024 = 4 then Sys2Proof.Machine.execAmoxor (fieldOf w 21 5) (fieldOf w 16 5) (fieldOf w 11 5) (fieldOf w 0 1) s
  else if w / 2 ^ 1 % 1024 = 5 then Sys2Proof.Machine.execAmomin (fieldOf w 21 5) (fieldOf w 16 5) (fieldOf w 11 5) (fieldOf w 0 1) s
  else if w / 2 ^ 1 % 1024 = 6 then Sys2Proof.Machine.execAmomax (fieldOf w 21 5) (fieldOf w 16 5) (fieldOf w 11 5) (fieldOf w 0 1) s
  else if w / 2 ^ 1 % 1024 = 7 then Sys2Proof.Machine.execAmominn (fieldOf w 21 5) (fieldOf w 16 5) (fieldOf w 11 5) (fieldOf w 0 1) s
  else if w / 2 ^ 1 % 1024 = 8 then Sys2Proof.Machine.execAmomaxn (fieldOf w 21 5) (fieldOf w 16 5) (fieldOf w 11 5) (fieldOf w 0 1) s
  else if w / 2 ^ 1 % 1024 = 9 then Sys2Proof.Machine.execAmocas (fieldOf w 21 5) (fieldOf w 16 5) (fieldOf w 11 5) (fieldOf w 0 1) s
  else if w / 2 ^ 1 % 1024 = 10 then Sys2Proof.Machine.execAmofadd (fieldOf w 21 5) (fieldOf w 16 5) (fieldOf w 11 5) (fieldOf w 0 1) s
  else if w / 2 ^ 1 % 1024 = 11 then Sys2Proof.Machine.execAmofmin (fieldOf w 21 5) (fieldOf w 16 5) (fieldOf w 11 5) (fieldOf w 0 1) s
  else if w / 2 ^ 1 % 1024 = 12 then Sys2Proof.Machine.execAmofmax (fieldOf w 21 5) (fieldOf w 16 5) (fieldOf w 11 5) (fieldOf w 0 1) s
  else if w / 2 ^ 1 % 1024 = 33 ∧ w / 2 ^ 21 % 32 = 0 then Sys2Proof.Machine.execRedadd (fieldOf w 16 5) (fieldOf w 11 5) (fieldOf w 0 1) s
  else if w / 2 ^ 1 % 1024 = 34 ∧ w / 2 ^ 21 % 32 = 0 then Sys2Proof.Machine.execRedand (fieldOf w 16 5) (fieldOf w 11 5) (fieldOf w 0 1) s
  else if w / 2 ^ 1 % 1024 = 35 ∧ w / 2 ^ 21 % 32 = 0 then Sys2Proof.Machine.execRedor (fieldOf w 16 5) (fieldOf w 11 5) (fieldOf w 0 1) s
  else if w / 2 ^ 1 % 1024 = 36 ∧ w / 2 ^ 21 % 32 = 0 then Sys2Proof.Machine.execRedxor (fieldOf w 16 5) (fieldOf w 11 5) (fieldOf w 0 1) s
  else if w / 2 ^ 1 % 1024 = 37 ∧ w / 2 ^ 21 % 32 = 0 then Sys2Proof.Machine.execRedmin (fieldOf w 16 5) (fieldOf w 11 5) (fieldOf w 0 1) s
  else if w / 2 ^ 1 % 1024 = 38 ∧ w / 2 ^ 21 % 32 = 0 then Sys2Proof.Machine.execRedmax (fieldOf w 16 5) (fieldOf w 11 5) (fieldOf w 0 1) s
  else if w / 2 ^ 1 % 1024 = 39 ∧ w / 2 ^ 21 % 32 = 0 then Sys2Proof.Machine.execRedminn (fieldOf w 16 5) (fieldOf w 11 5) (fieldOf w 0 1) s
  else if w / 2 ^ 1 % 1024 = 40 ∧ w / 2 ^ 21 % 32 = 0 then Sys2Proof.Machine.execRedmaxn (fieldOf w 16 5) (fieldOf w 11 5) (fieldOf w 0 1) s
  else if w / 2 ^ 1 % 1024 = 42 ∧ w / 2 ^ 21 % 32 = 0 then Sys2Proof.Machine.execRedfadd (fieldOf w 16 5) (fieldOf w 11 5) (fieldOf w 0 1) s
  else if w / 2 ^ 1 % 1024 = 43 ∧ w / 2 ^ 21 % 32 = 0 then Sys2Proof.Machine.execRedfmin (fieldOf w 16 5) (fieldOf w 11 5) (fieldOf w 0 1) s
  else if w / 2 ^ 1 % 1024 = 44 ∧ w / 2 ^ 21 % 32 = 0 then Sys2Proof.Machine.execRedfmax (fieldOf w 16 5) (fieldOf w 11 5) (fieldOf w 0 1) s
  else if w % 4 = 0 ∧ w / 2 ^ 6 % 32 = 3 then Sys2Proof.Machine.execRedOrdAddF32 (fieldOf w 21 5) (fieldOf w 16 5) (fieldOf w 11 5) (fieldOf w 2 4) s
  else if w % 4 = 1 ∧ w / 2 ^ 6 % 32 = 3 then Sys2Proof.Machine.execRedOrdAddI32 (fieldOf w 21 5) (fieldOf w 16 5) (fieldOf w 11 5) (fieldOf w 2 4) s
  else if w % 4 = 2 ∧ w / 2 ^ 6 % 32 = 3 then Sys2Proof.Machine.execRedOrdMinF32 (fieldOf w 21 5) (fieldOf w 16 5) (fieldOf w 11 5) (fieldOf w 2 4) s
  else if w % 4 = 3 ∧ w / 2 ^ 6 % 32 = 3 then Sys2Proof.Machine.execRedOrdMaxF32 (fieldOf w 21 5) (fieldOf w 16 5) (fieldOf w 11 5) (fieldOf w 2 4) s
  else .next s

/-- The meaning of a word of major opcode 0x14 that is an instruction. -/
def runOp14 (w : Nat) (s : State) : Out :=
  Sys2Proof.Machine.execVld (fieldOf w 21 5) (fieldOf w 16 5) (fieldOf w 5 11) (fieldOf w 2 3) (fieldOf w 0 2) s

/-- The meaning of a word of major opcode 0x15 that is an instruction. -/
def runOp15 (w : Nat) (s : State) : Out :=
  Sys2Proof.Machine.execVst (fieldOf w 21 5) (fieldOf w 16 5) (fieldOf w 5 11) (fieldOf w 2 3) (fieldOf w 0 2) s

/-- The meaning of a word of major opcode 0x16 that is an instruction. -/
def runOp16 (w : Nat) (s : State) : Out :=
  match w % 32 with
  | 0 => Sys2Proof.Machine.execVlds (fieldOf w 21 5) (fieldOf w 16 5) (fieldOf w 11 5) (fieldOf w 8 3) (fieldOf w 5 3) s
  | 1 => Sys2Proof.Machine.execVsts (fieldOf w 21 5) (fieldOf w 16 5) (fieldOf w 11 5) (fieldOf w 8 3) (fieldOf w 5 3) s
  | 2 => Sys2Proof.Machine.execVldx (fieldOf w 21 5) (fieldOf w 16 5) (fieldOf w 11 5) (fieldOf w 8 3) (fieldOf w 5 3) s
  | 3 => Sys2Proof.Machine.execVstx (fieldOf w 21 5) (fieldOf w 16 5) (fieldOf w 11 5) (fieldOf w 8 3) (fieldOf w 5 3) s
  | 4 => Sys2Proof.Machine.execVldm (fieldOf w 21 5) (fieldOf w 16 5) (fieldOf w 8 3) (fieldOf w 5 3) s
  | 5 => Sys2Proof.Machine.execVstm (fieldOf w 21 5) (fieldOf w 16 5) (fieldOf w 8 3) (fieldOf w 5 3) s
  | 6 => Sys2Proof.Machine.execVappend (fieldOf w 21 5) (fieldOf w 16 5) (fieldOf w 8 3) (fieldOf w 5 3) s
  | 7 => Sys2Proof.Machine.execVldNb (fieldOf w 21 5) (fieldOf w 16 5) (fieldOf w 11 5) (fieldOf w 8 3) (fieldOf w 5 3) s
  | 16 | 17 | 18 | 19 | 20 | 21 | 22 | 23 | 24 | 25 | 26 | 27 | 28 | 29 | 30 | 31 => Sys2Proof.Machine.execVstAt (fieldOf w 21 5) (fieldOf w 16 5) (fieldOf w 11 5) (fieldOf w 8 3) (fieldOf w 5 3) (fieldOf w 0 4) s
  | _ => .next s

/-- The meaning of a word of major opcode 0x17 that is an instruction. -/
def runOp17 (w : Nat) (s : State) : Out :=
  match w % 32 with
  | 0 => Sys2Proof.Machine.execVamoswap (fieldOf w 21 5) (fieldOf w 16 5) (fieldOf w 11 5) (fieldOf w 8 3) (fieldOf w 5 3) s
  | 1 => Sys2Proof.Machine.execVamoadd (fieldOf w 21 5) (fieldOf w 16 5) (fieldOf w 11 5) (fieldOf w 8 3) (fieldOf w 5 3) s
  | 2 => Sys2Proof.Machine.execVamoand (fieldOf w 21 5) (fieldOf w 16 5) (fieldOf w 11 5) (fieldOf w 8 3) (fieldOf w 5 3) s
  | 3 => Sys2Proof.Machine.execVamoor (fieldOf w 21 5) (fieldOf w 16 5) (fieldOf w 11 5) (fieldOf w 8 3) (fieldOf w 5 3) s
  | 4 => Sys2Proof.Machine.execVamoxor (fieldOf w 21 5) (fieldOf w 16 5) (fieldOf w 11 5) (fieldOf w 8 3) (fieldOf w 5 3) s
  | 5 => Sys2Proof.Machine.execVamomin (fieldOf w 21 5) (fieldOf w 16 5) (fieldOf w 11 5) (fieldOf w 8 3) (fieldOf w 5 3) s
  | 6 => Sys2Proof.Machine.execVamomax (fieldOf w 21 5) (fieldOf w 16 5) (fieldOf w 11 5) (fieldOf w 8 3) (fieldOf w 5 3) s
  | 7 => Sys2Proof.Machine.execVamominn (fieldOf w 21 5) (fieldOf w 16 5) (fieldOf w 11 5) (fieldOf w 8 3) (fieldOf w 5 3) s
  | 8 => Sys2Proof.Machine.execVamomaxn (fieldOf w 21 5) (fieldOf w 16 5) (fieldOf w 11 5) (fieldOf w 8 3) (fieldOf w 5 3) s
  | 9 => Sys2Proof.Machine.execVredaddIdx (fieldOf w 21 5) (fieldOf w 16 5) (fieldOf w 11 5) (fieldOf w 8 3) (fieldOf w 5 3) s
  | 10 => Sys2Proof.Machine.execVredandIdx (fieldOf w 21 5) (fieldOf w 16 5) (fieldOf w 11 5) (fieldOf w 8 3) (fieldOf w 5 3) s
  | 11 => Sys2Proof.Machine.execVredorIdx (fieldOf w 21 5) (fieldOf w 16 5) (fieldOf w 11 5) (fieldOf w 8 3) (fieldOf w 5 3) s
  | 12 => Sys2Proof.Machine.execVredxorIdx (fieldOf w 21 5) (fieldOf w 16 5) (fieldOf w 11 5) (fieldOf w 8 3) (fieldOf w 5 3) s
  | 13 => Sys2Proof.Machine.execVredminIdx (fieldOf w 21 5) (fieldOf w 16 5) (fieldOf w 11 5) (fieldOf w 8 3) (fieldOf w 5 3) s
  | 14 => Sys2Proof.Machine.execVredmaxIdx (fieldOf w 21 5) (fieldOf w 16 5) (fieldOf w 11 5) (fieldOf w 8 3) (fieldOf w 5 3) s
  | 15 => Sys2Proof.Machine.execVredminnIdx (fieldOf w 21 5) (fieldOf w 16 5) (fieldOf w 11 5) (fieldOf w 8 3) (fieldOf w 5 3) s
  | 16 => Sys2Proof.Machine.execVredmaxnIdx (fieldOf w 21 5) (fieldOf w 16 5) (fieldOf w 11 5) (fieldOf w 8 3) (fieldOf w 5 3) s
  | _ => Sys2Proof.Machine.execVredOrdAdd (fieldOf w 21 5) (fieldOf w 16 5) (fieldOf w 11 5) (fieldOf w 8 3) (fieldOf w 5 3) (fieldOf w 0 5) s

/-- The meaning of a word of major opcode 0x18 that is an instruction. -/
def runOp18 (w : Nat) (s : State) : Out :=
  Sys2Proof.Machine.execBeq (fieldOf w 21 5) (fieldOf w 16 5) (fieldOf w 0 16) s

/-- The meaning of a word of major opcode 0x19 that is an instruction. -/
def runOp19 (w : Nat) (s : State) : Out :=
  Sys2Proof.Machine.execBne (fieldOf w 21 5) (fieldOf w 16 5) (fieldOf w 0 16) s

/-- The meaning of a word of major opcode 0x1A that is an instruction. -/
def runOp1A (w : Nat) (s : State) : Out :=
  Sys2Proof.Machine.execBlt (fieldOf w 21 5) (fieldOf w 16 5) (fieldOf w 0 16) s

/-- The meaning of a word of major opcode 0x1B that is an instruction. -/
def runOp1B (w : Nat) (s : State) : Out :=
  Sys2Proof.Machine.execBge (fieldOf w 21 5) (fieldOf w 16 5) (fieldOf w 0 16) s

/-- The meaning of a word of major opcode 0x1C that is an instruction. -/
def runOp1C (w : Nat) (s : State) : Out :=
  Sys2Proof.Machine.execBltn (fieldOf w 21 5) (fieldOf w 16 5) (fieldOf w 0 16) s

/-- The meaning of a word of major opcode 0x1D that is an instruction. -/
def runOp1D (w : Nat) (s : State) : Out :=
  Sys2Proof.Machine.execBgen (fieldOf w 21 5) (fieldOf w 16 5) (fieldOf w 0 16) s

/-- The meaning of a word of major opcode 0x1E that is an instruction. -/
def runOp1E (w : Nat) (s : State) : Out :=
  Sys2Proof.Machine.execJal (fieldOf w 21 5) (fieldOf w 0 21) s

/-- The meaning of a word of major opcode 0x1F that is an instruction. -/
def runOp1F (w : Nat) (s : State) : Out :=
  Sys2Proof.Machine.execJalr (fieldOf w 21 5) (fieldOf w 16 5) (fieldOf w 0 16) s

/-- The meaning of a word of major opcode 0x20 that is an instruction. -/
def runOp20 (w : Nat) (s : State) : Out :=
  match w % 32 with
  | 0 => Sys2Proof.Machine.execVadd (fieldOf w 21 5) (fieldOf w 16 5) (fieldOf w 11 5) (fieldOf w 8 3) (fieldOf w 5 3) s
  | 1 => Sys2Proof.Machine.execVsub (fieldOf w 21 5) (fieldOf w 16 5) (fieldOf w 11 5) (fieldOf w 8 3) (fieldOf w 5 3) s
  | 2 => Sys2Proof.Machine.execVmul (fieldOf w 21 5) (fieldOf w 16 5) (fieldOf w 11 5) (fieldOf w 8 3) (fieldOf w 5 3) s
  | 3 => Sys2Proof.Machine.execVmulh (fieldOf w 21 5) (fieldOf w 16 5) (fieldOf w 11 5) (fieldOf w 8 3) (fieldOf w 5 3) s
  | 4 => Sys2Proof.Machine.execVmulhn (fieldOf w 21 5) (fieldOf w 16 5) (fieldOf w 11 5) (fieldOf w 8 3) (fieldOf w 5 3) s
  | 5 => Sys2Proof.Machine.execVand (fieldOf w 21 5) (fieldOf w 16 5) (fieldOf w 11 5) (fieldOf w 8 3) (fieldOf w 5 3) s
  | 6 => Sys2Proof.Machine.execVor (fieldOf w 21 5) (fieldOf w 16 5) (fieldOf w 11 5) (fieldOf w 8 3) (fieldOf w 5 3) s
  | 7 => Sys2Proof.Machine.execVxor (fieldOf w 21 5) (fieldOf w 16 5) (fieldOf w 11 5) (fieldOf w 8 3) (fieldOf w 5 3) s
  | 8 => Sys2Proof.Machine.execVsll (fieldOf w 21 5) (fieldOf w 16 5) (fieldOf w 11 5) (fieldOf w 8 3) (fieldOf w 5 3) s
  | 9 => Sys2Proof.Machine.execVsrl (fieldOf w 21 5) (fieldOf w 16 5) (fieldOf w 11 5) (fieldOf w 8 3) (fieldOf w 5 3) s
  | 10 => Sys2Proof.Machine.execVsra (fieldOf w 21 5) (fieldOf w 16 5) (fieldOf w 11 5) (fieldOf w 8 3) (fieldOf w 5 3) s
  | 11 => Sys2Proof.Machine.execVmin (fieldOf w 21 5) (fieldOf w 16 5) (fieldOf w 11 5) (fieldOf w 8 3) (fieldOf w 5 3) s
  | 12 => Sys2Proof.Machine.execVmax (fieldOf w 21 5) (fieldOf w 16 5) (fieldOf w 11 5) (fieldOf w 8 3) (fieldOf w 5 3) s
  | 13 => Sys2Proof.Machine.execVminn (fieldOf w 21 5) (fieldOf w 16 5) (fieldOf w 11 5) (fieldOf w 8 3) (fieldOf w 5 3) s
  | 14 => Sys2Proof.Machine.execVmaxn (fieldOf w 21 5) (fieldOf w 16 5) (fieldOf w 11 5) (fieldOf w 8 3) (fieldOf w 5 3) s
  | 15 => Sys2Proof.Machine.execVadds (fieldOf w 21 5) (fieldOf w 16 5) (fieldOf w 11 5) (fieldOf w 8 3) (fieldOf w 5 3) s
  | 16 => Sys2Proof.Machine.execVaddsn (fieldOf w 21 5) (fieldOf w 16 5) (fieldOf w 11 5) (fieldOf w 8 3) (fieldOf w 5 3) s
  | 17 => Sys2Proof.Machine.execVsubs (fieldOf w 21 5) (fieldOf w 16 5) (fieldOf w 11 5) (fieldOf w 8 3) (fieldOf w 5 3) s
  | 18 => Sys2Proof.Machine.execVsubsn (fieldOf w 21 5) (fieldOf w 16 5) (fieldOf w 11 5) (fieldOf w 8 3) (fieldOf w 5 3) s
  | 19 => Sys2Proof.Machine.execVabs (fieldOf w 21 5) (fieldOf w 16 5) (fieldOf w 8 3) (fieldOf w 5 3) s
  | 20 => Sys2Proof.Machine.execVneg (fieldOf w 21 5) (fieldOf w 16 5) (fieldOf w 8 3) (fieldOf w 5 3) s
  | 21 => Sys2Proof.Machine.execVclz (fieldOf w 21 5) (fieldOf w 16 5) (fieldOf w 8 3) (fieldOf w 5 3) s
  | 22 => Sys2Proof.Machine.execVpopc (fieldOf w 21 5) (fieldOf w 16 5) (fieldOf w 8 3) (fieldOf w 5 3) s
  | 24 => Sys2Proof.Machine.execVceq (fieldOf w 21 5) (fieldOf w 16 5) (fieldOf w 11 5) (fieldOf w 8 3) (fieldOf w 5 3) s
  | 25 => Sys2Proof.Machine.execVcne (fieldOf w 21 5) (fieldOf w 16 5) (fieldOf w 11 5) (fieldOf w 8 3) (fieldOf w 5 3) s
  | 26 => Sys2Proof.Machine.execVclt (fieldOf w 21 5) (fieldOf w 16 5) (fieldOf w 11 5) (fieldOf w 8 3) (fieldOf w 5 3) s
  | 27 => Sys2Proof.Machine.execVcle (fieldOf w 21 5) (fieldOf w 16 5) (fieldOf w 11 5) (fieldOf w 8 3) (fieldOf w 5 3) s
  | 28 => Sys2Proof.Machine.execVcltn (fieldOf w 21 5) (fieldOf w 16 5) (fieldOf w 11 5) (fieldOf w 8 3) (fieldOf w 5 3) s
  | 29 => Sys2Proof.Machine.execVclen (fieldOf w 21 5) (fieldOf w 16 5) (fieldOf w 11 5) (fieldOf w 8 3) (fieldOf w 5 3) s
  | 30 => Sys2Proof.Machine.execVmerge (fieldOf w 21 5) (fieldOf w 16 5) (fieldOf w 11 5) (fieldOf w 8 3) (fieldOf w 5 3) s
  | _ => .next s

/-- The meaning of a word of major opcode 0x21 that is an instruction. -/
def runOp21 (w : Nat) (s : State) : Out :=
  match w % 32 with
  | 0 => Sys2Proof.Machine.execVfadd (fieldOf w 21 5) (fieldOf w 16 5) (fieldOf w 11 5) (fieldOf w 8 3) (fieldOf w 5 3) s
  | 1 => Sys2Proof.Machine.execVfsub (fieldOf w 21 5) (fieldOf w 16 5) (fieldOf w 11 5) (fieldOf w 8 3) (fieldOf w 5 3) s
  | 2 => Sys2Proof.Machine.execVfmul (fieldOf w 21 5) (fieldOf w 16 5) (fieldOf w 11 5) (fieldOf w 8 3) (fieldOf w 5 3) s
  | 3 => Sys2Proof.Machine.execVfdiv (fieldOf w 21 5) (fieldOf w 16 5) (fieldOf w 11 5) (fieldOf w 8 3) (fieldOf w 5 3) s
  | 4 => Sys2Proof.Machine.execVfsqrt (fieldOf w 21 5) (fieldOf w 16 5) (fieldOf w 8 3) (fieldOf w 5 3) s
  | 5 => Sys2Proof.Machine.execVfmin (fieldOf w 21 5) (fieldOf w 16 5) (fieldOf w 11 5) (fieldOf w 8 3) (fieldOf w 5 3) s
  | 6 => Sys2Proof.Machine.execVfmax (fieldOf w 21 5) (fieldOf w 16 5) (fieldOf w 11 5) (fieldOf w 8 3) (fieldOf w 5 3) s
  | 7 => Sys2Proof.Machine.execVfmac (fieldOf w 21 5) (fieldOf w 16 5) (fieldOf w 11 5) (fieldOf w 8 3) (fieldOf w 5 3) s
  | 8 => Sys2Proof.Machine.execVfmsc (fieldOf w 21 5) (fieldOf w 16 5) (fieldOf w 11 5) (fieldOf w 8 3) (fieldOf w 5 3) s
  | 9 => Sys2Proof.Machine.execVfnmac (fieldOf w 21 5) (fieldOf w 16 5) (fieldOf w 11 5) (fieldOf w 8 3) (fieldOf w 5 3) s
  | 10 => Sys2Proof.Machine.execVfabs (fieldOf w 21 5) (fieldOf w 16 5) (fieldOf w 8 3) (fieldOf w 5 3) s
  | 11 => Sys2Proof.Machine.execVfneg (fieldOf w 21 5) (fieldOf w 16 5) (fieldOf w 8 3) (fieldOf w 5 3) s
  | 12 => Sys2Proof.Machine.execVfsgmv (fieldOf w 21 5) (fieldOf w 16 5) (fieldOf w 11 5) (fieldOf w 8 3) (fieldOf w 5 3) s
  | 13 => Sys2Proof.Machine.execVfrecip (fieldOf w 21 5) (fieldOf w 16 5) (fieldOf w 8 3) (fieldOf w 5 3) s
  | 14 => Sys2Proof.Machine.execVfrsqrt (fieldOf w 21 5) (fieldOf w 16 5) (fieldOf w 8 3) (fieldOf w 5 3) s
  | 15 => Sys2Proof.Machine.execVfexp2 (fieldOf w 21 5) (fieldOf w 16 5) (fieldOf w 8 3) (fieldOf w 5 3) s
  | 16 => Sys2Proof.Machine.execVflog2 (fieldOf w 21 5) (fieldOf w 16 5) (fieldOf w 8 3) (fieldOf w 5 3) s
  | 17 => Sys2Proof.Machine.execVfceq (fieldOf w 21 5) (fieldOf w 16 5) (fieldOf w 11 5) (fieldOf w 8 3) (fieldOf w 5 3) s
  | 18 => Sys2Proof.Machine.execVfclt (fieldOf w 21 5) (fieldOf w 16 5) (fieldOf w 11 5) (fieldOf w 8 3) (fieldOf w 5 3) s
  | 19 => Sys2Proof.Machine.execVfcle (fieldOf w 21 5) (fieldOf w 16 5) (fieldOf w 11 5) (fieldOf w 8 3) (fieldOf w 5 3) s
  | 20 => Sys2Proof.Machine.execVfcun (fieldOf w 21 5) (fieldOf w 16 5) (fieldOf w 11 5) (fieldOf w 8 3) (fieldOf w 5 3) s
  | 21 => Sys2Proof.Machine.execVfkind (fieldOf w 21 5) (fieldOf w 16 5) (fieldOf w 8 3) (fieldOf w 5 3) s
  | _ => .next s

/-- The meaning of a word of major opcode 0x22 that is an instruction. -/
def runOp22 (w : Nat) (s : State) : Out :=
  match w / 2 ^ 3 % 4 with
  | 0 => Sys2Proof.Machine.execVcvt (fieldOf w 21 5) (fieldOf w 16 5) (fieldOf w 8 3) (fieldOf w 5 3) (fieldOf w 0 3) s
  | 1 => Sys2Proof.Machine.execVcvtSr (fieldOf w 21 5) (fieldOf w 16 5) (fieldOf w 8 3) (fieldOf w 5 3) (fieldOf w 0 3) s
  | 2 => if w / 2 ^ 2 % 2 = 0 ∧ w / 2 ^ 11 % 32 = 0 then Sys2Proof.Machine.execVcvtmWiden (fieldOf w 21 5) (fieldOf w 16 5) (fieldOf w 8 3) (fieldOf w 5 3) (fieldOf w 0 2) s else if w / 2 ^ 2 % 2 = 1 ∧ w / 2 ^ 11 % 32 = 0 then Sys2Proof.Machine.execVcvtmNarrow (fieldOf w 21 5) (fieldOf w 16 5) (fieldOf w 8 3) (fieldOf w 5 3) (fieldOf w 0 2) s else .next s
  | 3 => Sys2Proof.Machine.execVwmul (fieldOf w 21 5) (fieldOf w 16 5) (fieldOf w 11 5) (fieldOf w 8 3) (fieldOf w 5 3) (fieldOf w 0 3) s
  | _ => .next s

/-- The meaning of a word of major opcode 0x23 that is an instruction. -/
def runOp23 (w : Nat) (s : State) : Out :=
  match w % 32 with
  | 0 => Sys2Proof.Machine.execVperm (fieldOf w 21 5) (fieldOf w 16 5) (fieldOf w 11 5) (fieldOf w 8 3) (fieldOf w 5 3) s
  | 1 => Sys2Proof.Machine.execVelsh (fieldOf w 21 5) (fieldOf w 16 5) (fieldOf w 11 5) (fieldOf w 8 3) (fieldOf w 5 3) s
  | 2 => Sys2Proof.Machine.execVelrot (fieldOf w 21 5) (fieldOf w 16 5) (fieldOf w 11 5) (fieldOf w 8 3) (fieldOf w 5 3) s
  | 3 => Sys2Proof.Machine.execVredsum (fieldOf w 21 5) (fieldOf w 16 5) (fieldOf w 8 3) (fieldOf w 5 3) s
  | 4 => Sys2Proof.Machine.execVredmin (fieldOf w 21 5) (fieldOf w 16 5) (fieldOf w 8 3) (fieldOf w 5 3) s
  | 5 => Sys2Proof.Machine.execVredmax (fieldOf w 21 5) (fieldOf w 16 5) (fieldOf w 8 3) (fieldOf w 5 3) s
  | 6 => Sys2Proof.Machine.execVredminn (fieldOf w 21 5) (fieldOf w 16 5) (fieldOf w 8 3) (fieldOf w 5 3) s
  | 7 => Sys2Proof.Machine.execVredmaxn (fieldOf w 21 5) (fieldOf w 16 5) (fieldOf w 8 3) (fieldOf w 5 3) s
  | 8 => Sys2Proof.Machine.execVredand (fieldOf w 21 5) (fieldOf w 16 5) (fieldOf w 8 3) (fieldOf w 5 3) s
  | 9 => Sys2Proof.Machine.execVredor (fieldOf w 21 5) (fieldOf w 16 5) (fieldOf w 8 3) (fieldOf w 5 3) s
  | 10 => Sys2Proof.Machine.execVscan (fieldOf w 21 5) (fieldOf w 16 5) (fieldOf w 8 3) (fieldOf w 5 3) s
  | 11 => Sys2Proof.Machine.execVsegsum (fieldOf w 21 5) (fieldOf w 16 5) (fieldOf w 11 5) (fieldOf w 8 3) (fieldOf w 5 3) s
  | 12 => Sys2Proof.Machine.execVrand (fieldOf w 21 5) (fieldOf w 8 3) (fieldOf w 5 3) s
  | 13 => Sys2Proof.Machine.execVmvx (fieldOf w 21 5) (fieldOf w 16 5) (fieldOf w 11 5) (fieldOf w 5 3) s
  | 14 => Sys2Proof.Machine.execVmvv (fieldOf w 21 5) (fieldOf w 16 5) (fieldOf w 11 5) (fieldOf w 5 3) s
  | 15 => Sys2Proof.Machine.execVbcast (fieldOf w 21 5) (fieldOf w 16 5) (fieldOf w 8 3) (fieldOf w 5 3) s
  | 16 => Sys2Proof.Machine.execVsqueeze (fieldOf w 21 5) (fieldOf w 16 5) (fieldOf w 8 3) (fieldOf w 5 3) s
  | 17 => Sys2Proof.Machine.execVindex (fieldOf w 21 5) (fieldOf w 16 5) (fieldOf w 11 5) (fieldOf w 8 3) (fieldOf w 5 3) s
  | _ => .next s

/-- The meaning of a word of major opcode 0x24 that is an instruction. -/
def runOp24 (w : Nat) (s : State) : Out :=
  match w % 32 with
  | 0 => Sys2Proof.Machine.execMand (fieldOf w 21 5) (fieldOf w 16 5) (fieldOf w 11 5) s
  | 1 => Sys2Proof.Machine.execMor (fieldOf w 21 5) (fieldOf w 16 5) (fieldOf w 11 5) s
  | 2 => Sys2Proof.Machine.execMxor (fieldOf w 21 5) (fieldOf w 16 5) (fieldOf w 11 5) s
  | 3 => Sys2Proof.Machine.execMandn (fieldOf w 21 5) (fieldOf w 16 5) (fieldOf w 11 5) s
  | 4 => Sys2Proof.Machine.execMnot (fieldOf w 21 5) (fieldOf w 16 5) s
  | 5 => Sys2Proof.Machine.execMset (fieldOf w 21 5) s
  | 6 => Sys2Proof.Machine.execMclr (fieldOf w 21 5) s
  | 7 => Sys2Proof.Machine.execMcnt (fieldOf w 21 5) (fieldOf w 16 5) s
  | 8 => Sys2Proof.Machine.execMany (fieldOf w 21 5) (fieldOf w 16 5) s
  | 9 => Sys2Proof.Machine.execMfirst (fieldOf w 21 5) (fieldOf w 16 5) s
  | _ => .next s

/-- The meaning of a word of major opcode 0x25 that is an instruction. -/
def runOp25 (w : Nat) (s : State) : Out :=
  match w % 16 with
  | 0 => Sys2Proof.Machine.execVaddVx (fieldOf w 21 5) (fieldOf w 16 5) (fieldOf w 11 5) (fieldOf w 8 3) (fieldOf w 5 3) (fieldOf w 4 1) s
  | 1 => Sys2Proof.Machine.execVsubVx (fieldOf w 21 5) (fieldOf w 16 5) (fieldOf w 11 5) (fieldOf w 8 3) (fieldOf w 5 3) (fieldOf w 4 1) s
  | 2 => Sys2Proof.Machine.execVrsubVx (fieldOf w 21 5) (fieldOf w 16 5) (fieldOf w 11 5) (fieldOf w 8 3) (fieldOf w 5 3) (fieldOf w 4 1) s
  | 3 => Sys2Proof.Machine.execVmulVx (fieldOf w 21 5) (fieldOf w 16 5) (fieldOf w 11 5) (fieldOf w 8 3) (fieldOf w 5 3) (fieldOf w 4 1) s
  | 4 => Sys2Proof.Machine.execVandVx (fieldOf w 21 5) (fieldOf w 16 5) (fieldOf w 11 5) (fieldOf w 8 3) (fieldOf w 5 3) (fieldOf w 4 1) s
  | 5 => Sys2Proof.Machine.execVorVx (fieldOf w 21 5) (fieldOf w 16 5) (fieldOf w 11 5) (fieldOf w 8 3) (fieldOf w 5 3) (fieldOf w 4 1) s
  | 6 => Sys2Proof.Machine.execVxorVx (fieldOf w 21 5) (fieldOf w 16 5) (fieldOf w 11 5) (fieldOf w 8 3) (fieldOf w 5 3) (fieldOf w 4 1) s
  | 7 => Sys2Proof.Machine.execVsllVx (fieldOf w 21 5) (fieldOf w 16 5) (fieldOf w 11 5) (fieldOf w 8 3) (fieldOf w 5 3) (fieldOf w 4 1) s
  | 8 => Sys2Proof.Machine.execVsrlVx (fieldOf w 21 5) (fieldOf w 16 5) (fieldOf w 11 5) (fieldOf w 8 3) (fieldOf w 5 3) (fieldOf w 4 1) s
  | 9 => Sys2Proof.Machine.execVsraVx (fieldOf w 21 5) (fieldOf w 16 5) (fieldOf w 11 5) (fieldOf w 8 3) (fieldOf w 5 3) (fieldOf w 4 1) s
  | 10 => Sys2Proof.Machine.execVminVx (fieldOf w 21 5) (fieldOf w 16 5) (fieldOf w 11 5) (fieldOf w 8 3) (fieldOf w 5 3) (fieldOf w 4 1) s
  | 11 => Sys2Proof.Machine.execVmaxVx (fieldOf w 21 5) (fieldOf w 16 5) (fieldOf w 11 5) (fieldOf w 8 3) (fieldOf w 5 3) (fieldOf w 4 1) s
  | 12 => Sys2Proof.Machine.execVfaddVx (fieldOf w 21 5) (fieldOf w 16 5) (fieldOf w 11 5) (fieldOf w 8 3) (fieldOf w 5 3) s
  | 13 => Sys2Proof.Machine.execVfmulVx (fieldOf w 21 5) (fieldOf w 16 5) (fieldOf w 11 5) (fieldOf w 8 3) (fieldOf w 5 3) s
  | 14 => Sys2Proof.Machine.execVfmacVx (fieldOf w 21 5) (fieldOf w 16 5) (fieldOf w 11 5) (fieldOf w 8 3) (fieldOf w 5 3) s
  | 15 => Sys2Proof.Machine.execVceqVx (fieldOf w 21 5) (fieldOf w 16 5) (fieldOf w 11 5) (fieldOf w 8 3) (fieldOf w 5 3) (fieldOf w 4 1) s
  | _ => .next s

/-- The meaning of a word of major opcode 0x28 that is an instruction. -/
def runOp28 (w : Nat) (s : State) : Out :=
  match w / 2 ^ 21 % 4 with
  | 0 => Sys2Proof.Machine.execMop (fieldOf w 23 3) (fieldOf w 16 5) (fieldOf w 11 5) (fieldOf w 8 3) (fieldOf w 5 3) (fieldOf w 0 5) s
  | 1 => Sys2Proof.Machine.execMops (fieldOf w 23 3) (fieldOf w 16 5) (fieldOf w 11 5) (fieldOf w 8 3) (fieldOf w 5 3) (fieldOf w 0 5) s
  | _ => .next s

/-- The meaning of a word of major opcode 0x29 that is an instruction. -/
def runOp29 (w : Nat) (s : State) : Out :=
  match w / 2 ^ 21 % 4 with
  | 0 => Sys2Proof.Machine.execMopx (fieldOf w 23 3) (fieldOf w 16 5) (fieldOf w 11 5) (fieldOf w 8 3) (fieldOf w 5 3) (fieldOf w 0 5) s
  | 1 => Sys2Proof.Machine.execMopxs (fieldOf w 23 3) (fieldOf w 16 5) (fieldOf w 11 5) (fieldOf w 8 3) (fieldOf w 5 3) (fieldOf w 0 5) s
  | _ => .next s

/-- The meaning of a word of major opcode 0x2A that is an instruction. -/
def runOp2A (w : Nat) (s : State) : Out :=
  match w / 2 ^ 21 % 4 with
  | 0 => Sys2Proof.Machine.execMopsp (fieldOf w 23 3) (fieldOf w 16 5) (fieldOf w 11 5) (fieldOf w 8 3) (fieldOf w 5 3) (fieldOf w 0 5) s
  | 1 => Sys2Proof.Machine.execMopi (fieldOf w 23 3) (fieldOf w 16 5) (fieldOf w 11 5) (fieldOf w 8 3) (fieldOf w 5 3) (fieldOf w 0 5) s
  | 2 => Sys2Proof.Machine.execMopiSat (fieldOf w 23 3) (fieldOf w 16 5) (fieldOf w 11 5) (fieldOf w 8 3) (fieldOf w 5 3) (fieldOf w 0 5) s
  | _ => .next s

/-- The meaning of a word of major opcode 0x2B that is an instruction. -/
def runOp2B (w : Nat) (s : State) : Out :=
  match w % 32 with
  | 0 => Sys2Proof.Machine.execAcczero (fieldOf w 23 3) s
  | 1 => Sys2Proof.Machine.execAccrd (fieldOf w 23 3) (fieldOf w 16 5) (fieldOf w 11 5) s
  | 2 => Sys2Proof.Machine.execAccwr (fieldOf w 23 3) (fieldOf w 16 5) (fieldOf w 11 5) s
  | 3 => Sys2Proof.Machine.execAccpro (fieldOf w 23 3) (fieldOf w 21 2) (fieldOf w 16 5) (fieldOf w 11 5) (fieldOf w 6 5) s
  | 4 => Sys2Proof.Machine.execAccld (fieldOf w 23 3) (fieldOf w 16 5) s
  | 5 => Sys2Proof.Machine.execAccst (fieldOf w 23 3) (fieldOf w 16 5) s
  | 6 => Sys2Proof.Machine.execAccmov (fieldOf w 23 3) (fieldOf w 11 3) s
  | 7 => Sys2Proof.Machine.execAccadd (fieldOf w 23 3) (fieldOf w 21 2) (fieldOf w 11 3) s
  | 8 => Sys2Proof.Machine.execAccsave (fieldOf w 16 5) s
  | 9 => Sys2Proof.Machine.execAccrest (fieldOf w 16 5) s
  | _ => .next s

/-- The meaning of a word of major opcode 0x30 that is an instruction. -/
def runOp30 (w : Nat) (s : State) : Out :=
  match w / 2 ^ 4 % 8 with
  | 0 => Sys2Proof.Machine.execCpy (fieldOf w 21 5) (fieldOf w 16 5) (fieldOf w 11 5) (fieldOf w 7 4) (fieldOf w 2 2) (fieldOf w 0 2) s
  | 1 => Sys2Proof.Machine.execCpy2 (fieldOf w 21 5) (fieldOf w 16 5) (fieldOf w 11 5) (fieldOf w 7 4) (fieldOf w 2 2) (fieldOf w 0 2) s
  | 2 => Sys2Proof.Machine.execCpyxG (fieldOf w 21 5) (fieldOf w 16 5) (fieldOf w 11 5) (fieldOf w 7 4) (fieldOf w 2 2) s
  | 3 => Sys2Proof.Machine.execCpyxS (fieldOf w 21 5) (fieldOf w 16 5) (fieldOf w 11 5) (fieldOf w 7 4) (fieldOf w 2 2) s
  | 4 => Sys2Proof.Machine.execCpyM (fieldOf w 21 5) (fieldOf w 16 5) (fieldOf w 11 5) (fieldOf w 7 4) (fieldOf w 2 2) (fieldOf w 0 2) s
  | 5 => Sys2Proof.Machine.execCpy2M (fieldOf w 21 5) (fieldOf w 16 5) (fieldOf w 11 5) (fieldOf w 7 4) (fieldOf w 2 2) (fieldOf w 0 2) s
  | 6 => Sys2Proof.Machine.execCpyxGM (fieldOf w 21 5) (fieldOf w 16 5) (fieldOf w 11 5) (fieldOf w 7 4) (fieldOf w 2 2) s
  | _ => .next s

/-- The meaning of a word of major opcode 0x31 that is an instruction. -/
def runOp31 (w : Nat) (s : State) : Out :=
  match w / 2 ^ 4 % 8 with
  | 0 => Sys2Proof.Machine.execCcwait (fieldOf w 16 5) (fieldOf w 7 4) (fieldOf w 2 2) s
  | 1 => Sys2Proof.Machine.execCcrd (fieldOf w 21 5) (fieldOf w 7 4) (fieldOf w 2 2) s
  | 2 => Sys2Proof.Machine.execCcset (fieldOf w 16 5) (fieldOf w 7 4) (fieldOf w 2 2) s
  | 3 => Sys2Proof.Machine.execSgbind (fieldOf w 21 5) (fieldOf w 7 4) (fieldOf w 2 2) (fieldOf w 0 2) s
  | 4 => Sys2Proof.Machine.execSgunbind (fieldOf w 7 4) (fieldOf w 2 2) s
  | 5 => Sys2Proof.Machine.execSubscribe (fieldOf w 21 5) (fieldOf w 16 5) (fieldOf w 11 5) (fieldOf w 7 4) (fieldOf w 2 2) s
  | 6 => if w % 4 = 0 ∧ w / 2 ^ 11 % 32768 = 0 then Sys2Proof.Machine.execUnsub (fieldOf w 7 4) (fieldOf w 2 2) s else if w % 4 = 1 ∧ w / 2 ^ 11 % 32768 = 0 then Sys2Proof.Machine.execUnsubPub (fieldOf w 7 4) (fieldOf w 2 2) s else .next s
  | 7 => Sys2Proof.Machine.execSubflush (fieldOf w 2 2) s
  | _ => .next s

/-- The meaning of a word of major opcode 0x32 that is an instruction. -/
def runOp32 (w : Nat) (s : State) : Out :=
  match w % 256 with
  | 0 => Sys2Proof.Machine.execBarrArrive (fieldOf w 16 5) s
  | 1 => Sys2Proof.Machine.execBarrWait (fieldOf w 16 5) s
  | 2 => Sys2Proof.Machine.execBarrArriveSpan (fieldOf w 16 5) s
  | 3 => Sys2Proof.Machine.execBarrWaitSpan (fieldOf w 16 5) s
  | 4 => Sys2Proof.Machine.execBarrArriveGang s
  | 5 => Sys2Proof.Machine.execBarrWaitGang s
  | 8 => Sys2Proof.Machine.execPause (fieldOf w 11 15) s
  | 9 => Sys2Proof.Machine.execRecv (fieldOf w 21 5) (fieldOf w 16 5) s
  | 16 => Sys2Proof.Machine.execLaunch (fieldOf w 16 5) (fieldOf w 11 5) s
  | 17 => Sys2Proof.Machine.execLaunchR (fieldOf w 21 5) (fieldOf w 16 5) (fieldOf w 11 5) s
  | 18 => Sys2Proof.Machine.execJoin (fieldOf w 16 5) s
  | 19 => Sys2Proof.Machine.execGexit s
  | 20 => Sys2Proof.Machine.execYield s
  | _ => .next s

/-- The meaning of a word of major opcode 0x38 that is an instruction. -/
def runOp38 (w : Nat) (s : State) : Out :=
  match w % 16 with
  | 0 => Sys2Proof.Machine.execRdctl (fieldOf w 21 5) (fieldOf w 4 12) s
  | 1 => Sys2Proof.Machine.execWrctl (fieldOf w 16 5) (fieldOf w 4 12) s
  | 2 => Sys2Proof.Machine.execSetctl (fieldOf w 16 5) (fieldOf w 4 12) s
  | 3 => Sys2Proof.Machine.execClrctl (fieldOf w 16 5) (fieldOf w 4 12) s
  | 4 => Sys2Proof.Machine.execSetvl (fieldOf w 21 5) (fieldOf w 16 5) (fieldOf w 4 3) s
  | 5 => Sys2Proof.Machine.execSetml (fieldOf w 21 5) (fieldOf w 16 5) s
  | 6 => Sys2Proof.Machine.execTrap (fieldOf w 4 12) s
  | 7 => Sys2Proof.Machine.execEret s
  | 8 => Sys2Proof.Machine.execFenceI s
  | 9 => Sys2Proof.Machine.execPreempt s
  | 10 => Sys2Proof.Machine.execGkill (fieldOf w 16 5) s
  | 11 => Sys2Proof.Machine.execSfqpop (fieldOf w 21 5) s
  | 12 => Sys2Proof.Machine.execTlbinv (fieldOf w 16 5) s
  | 13 => Sys2Proof.Machine.execHinv (fieldOf w 16 5) s
  | 14 => Sys2Proof.Machine.execEbreak s
  | 15 => Sys2Proof.Machine.execHalt s
  | _ => .next s

/-- The meaning of a word of major opcode 0x3F that is an instruction. -/
def runOp3F (w v : Nat) (s : State) : Out :=
  match w / 256 % 256 with
  | 0 => Sys2Proof.Machine.execLim (fieldOf w 21 5) (fieldOf v 0 32) s
  | 1 => Sys2Proof.Machine.execLea (fieldOf w 21 5) (fieldOf v 0 32) s
  | 2 => Sys2Proof.Machine.execCallFar (fieldOf w 21 5) (fieldOf v 0 32) s
  | _ => .next s

/-- The meaning of a word that is an instruction, with the word after it for a long form. -/
def runWord (w v : Nat) (s : State) : Out :=
  match w / 2 ^ 26 with
  | 0x01 => runOp01 w s
  | 0x02 => runOp02 w s
  | 0x03 => runOp03 w s
  | 0x04 => runOp04 w s
  | 0x05 => runOp05 w s
  | 0x06 => runOp06 w s
  | 0x07 => runOp07 w s
  | 0x08 => runOp08 w s
  | 0x09 => runOp09 w s
  | 0x0A => runOp0A w s
  | 0x0B => runOp0B w s
  | 0x0C => runOp0C w s
  | 0x10 => runOp10 w s
  | 0x11 => runOp11 w s
  | 0x12 => runOp12 w s
  | 0x13 => runOp13 w s
  | 0x14 => runOp14 w s
  | 0x15 => runOp15 w s
  | 0x16 => runOp16 w s
  | 0x17 => runOp17 w s
  | 0x18 => runOp18 w s
  | 0x19 => runOp19 w s
  | 0x1A => runOp1A w s
  | 0x1B => runOp1B w s
  | 0x1C => runOp1C w s
  | 0x1D => runOp1D w s
  | 0x1E => runOp1E w s
  | 0x1F => runOp1F w s
  | 0x20 => runOp20 w s
  | 0x21 => runOp21 w s
  | 0x22 => runOp22 w s
  | 0x23 => runOp23 w s
  | 0x24 => runOp24 w s
  | 0x25 => runOp25 w s
  | 0x28 => runOp28 w s
  | 0x29 => runOp29 w s
  | 0x2A => runOp2A w s
  | 0x2B => runOp2B w s
  | 0x30 => runOp30 w s
  | 0x31 => runOp31 w s
  | 0x32 => runOp32 w s
  | 0x38 => runOp38 w s
  | 0x3F => runOp3F w v s
  | _ => .next s

end Sys2Proof.Machine
end

