-- ==== Sys2Proof/Machine/Turn.lean ====
section
/-! DEFINITION. What a step is made of: the work that the package does by itself, as the events that are due; the time
that passes up to an edge; and the turn of one core's hart, with its fetch. -/

namespace Sys2Proof.Machine

/-! ### The events that are due -/

/-- What the package does with message `k` (R188). -/
def Msg.task (k : Nat) (m : Msg) : State → Out :=
  match m.body with
  | .read _ _ _ _ => execEvRead k
  | .write _ => execEvWrite k
  | .nibble _ _ _ => execEvWrite k
  | .atomic _ _ _ _ _ _ => execEvAtomic k
  | .reduce _ => execEvReduce k
  | .timed _ => execEvTimedArrival k
  | .join _ _ => execEvJoinApply k
  | .contribution _ _ _ _ _ => execEvContribution k
  | .release _ _ _ _ => execEvSpanRelease k
  | .update _ _ _ _ => execEvSubscriptionUpdate k
  | .launch _ _ _ => finishAt (allOrNothing (launchMsg k))

/-- When the open batches of a core's hart are to be sent, with the publish entry and subscriber of each (R276). -/
def Hart.batchEnds (h : Hart) : List (Nat × Nat × Nat) :=
  (List.range 16).flatMap fun e =>
    match h.pubs.getD e none with
    | none => []
    | some y => (List.range y.subs.length).filterMap fun i =>
        ((y.subs[i]?).bind (·.batch)).map fun b => (b.since + nanoseconds 20, e, i)

/-- What an outcome's next state becomes. -/
def mapNext (f : State → State) : Out → Out
  | .next s => .next (f s)
  | .fault r => .fault r
  | .refused r => .refused r

/-! ### The VDQ (R14, R125, R385) -/

/-- The state in which the oldest instruction of the VDQ goes on: with what it captured as it entered (R34, R107), and how
far it has come. Where the scalar pipeline issues nothing past it, the x registers are those of now. -/
def State.atHead (s : State) (q : VdqInsn) : State :=
  { s with h := { s.h with
      vdq := [], head := some ⟨q.done, q.rows, q.holds, q.issued, q.secure⟩, x := if q.holds then s.h.x else q.x, pc := q.pc, vl := q.vl, mvl := q.mvl
      mvc := q.mvc, instret := q.instret, priv := q.priv, ctxid := q.ctxid, tid := q.tid } }

/-- The hart whose VDQ it is after that: it has trapped, and the instruction has left the queue; the instruction is done
with, which its INSTRET tells; or it is still the oldest one. An instruction counts as it enters (R40). -/
def Hart.fromHead (real : Hart) (q : VdqInsn) (rest : List VdqEntry) (h : Hart) : Hart :=
  if h.priv ≠ q.priv ∨ h.status ≠ real.status then { h.dropRows with head := none, instret := real.instret }
  else
    let q' := (h.head.map fun e => { q with done := e.done, rows := e.rows, holds := e.holds, resumed := false }).getD q
    let stays := h.instret = q.instret
    { (if stays then h else h.dropRows) with
      vdq := if stays then .insn q' :: rest else rest
      head := none, x := if q.holds then h.x else real.x, pc := real.pc, vl := real.vl, mvl := real.mvl, mvc := real.mvc
      instret := real.instret, priv := real.priv, ctxid := real.ctxid, tid := real.tid }

/-- No row of the VDQ's oldest instruction is still to come. -/
def Hart.rowsHere (h : Hart) : Bool := h.pend.all fun p => !p.2.isTile

/-- The ownership check of R38, of an accumulator instruction that has come back with its hart (log 92). -/
def State.ownsTiles (s : State) (q : VdqInsn) : Bool :=
  !q.resumed || q.word / 2 ^ 26 < 0x28 || 0x2B < q.word / 2 ^ 26 || s.accMine (bits q.ctxid 0 16)

/-- The trap that the oldest instruction of the VDQ takes before it does anything more: one that a response has brought for
it, or ACC_UNAVAILABLE on the core on which it has been resumed. -/
def State.headTrap (s : State) (q : VdqInsn) : Option (Nat × Dword) :=
  if s.ownsTiles q then q.late else some (causeAcc, BitVec.ofNat 64 (bits s.core.accown 0 17))

/-- The oldest instruction of the VDQ of the hart of the state goes on, or takes its trap: one past which the hart has gone on
takes it with the hart's registers of now. One that is no longer at the hart's privilege takes none until it is again (log 94). -/
def stepHead (q : VdqInsn) (rest : List VdqEntry) (s : State) : Out :=
  match s.headTrap q with
  | some (cause, va) =>
    if s.h.rowsHere && !s.entryWaits && s.h.priv == q.priv then
      takeTrap { cause := cause, value := va, epc := some q.pc } { s with h := { s.h with vdq := [], head := none } }
    else .next s
  | none =>
    match runWord q.word 0 (s.atHead q) with
    | .next t =>
      if t.h.priv ≠ q.priv ∧ !q.holds then
        .next { s with pkg := t.pkg, h := s.h.onHeadInsn fun q => { q with late := some (t.h.ecause.toNat, t.h.eval) } }
      else if t.h.priv ≠ q.priv ∧ s.h.priv ≠ q.priv then .next s
      else .next { t with h := (s.h.fromHead q rest t.h).orChunks (s.pkg.die (dieOfCore s.core.id)).edgeAt }
    | o => o

/-- The oldest entry of a core's VDQ, where it is an instruction, goes on; while the die's clock stands still it does
not. -/
def runHead (core : Nat) (s : State) : Out :=
  if 1536 ≤ core ∨ s.pkg.stopped (dieOfCore core) then .next s
  else
    let t := s.focus core
    match t.h.feeds && !t.areaWaits t.h, t.h.vdq with
    | true, .insn q :: rest => mapNext (·.focus s.core.id) (stepHead q rest t)
    | _, _ => .next s

/-! ### What cores and the package do by themselves -/

/-- The open batches of a hart, wherever it is, that have been open for 20 ns sent (R276). -/
def flushDue (id : Nat) : M Unit := orStop fun s =>
  s.flushBatches id fun _ x => x.batch.any fun b => decide (b.since + nanoseconds 20 ≤ s.pkg.time)

/-- Is it the end edge of a relock of the die: its first edge, which is not counted and at which nothing issues (R256)? -/
def Pkg.atEndEdge (p : Pkg) (die : Nat) : Bool :=
  let d := p.die die
  d.relockEnd.isNone && d.edgeAt != p.time && d.nextEdge == p.time + stepPeriod d.step

/-- What a core does beside its hart's instructions: its store buffer, its VDQ, a pre-emption, its batches, the end of
a pause; at the end edge of a relock, the leaving of a spanning wait (R331, log 90). -/
def State.coreTasks (s : State) (e : Core × Hart) : List (State → Out) :=
  let c := e.1.id
  let h := e.2
  (if h.sb.isEmpty then [] else [execEvStoreBufferDrain c]) ++
  (if h.preempt then [execEvPreemptStop c] else []) ++
  (if h.present && s.pkg.gangs.any (fun g => g.id == h.gang && g.phase == .parking) then [execEvParkComplete c] else []) ++
  (if h.vdq.isEmpty then [] else [execEvCopyAccept c, runHead c]) ++
  (if h.pauseLeft = 1 then [execEvPauseExpiry c] else []) ++
  (if h.atWait && s.pkg.atEndEdge (dieOfCore c) then [execEvSpanWaitExit c] else []) ++
  (h.batchEnds.filter fun b => b.1 ≤ s.pkg.time).map fun b => execEvBatchTimeout c b.2.1 b.2.2

/-- What an accepted copy does: reservations, frames, chunks that are not done. -/
def CopyRun.tasks (c : CopyRun) : List (State → Out) :=
  (if c.reserve.isEmpty then [] else [execEvPendingReserve c.id]) ++
  (if c.graph.isSome then [execEvGraphFrame c.id] else []) ++
  ((List.range (c.req.chunks + 1)).filter fun k => !c.done.contains k).map fun k => execEvChunkComplete c.id k

/-- The lowest line of an entry that pulls (R362) and that is not present. -/
def Pkg.nextLine (p : Pkg) (n : Nat) : Option Nat :=
  let d0 := p.ctl (offMigration n 0)
  if bits d0 1 2 ≠ 1 then none
  else (List.range (migrationSize (bits d0 3 3) / 64)).find? fun l => !(p.presentLines n).contains l

/-- When the next block of a region is moved at 400 GB/s (R402). -/
def Pkg.blockTime (p : Pkg) (r : EvacRegion) : Nat := r.since + (r.moved + 1) * p.strideOf r.entry * 99 / 10

/-- When an array that has been idle may enter retention mode (R397). -/
def Pkg.idleEnds (p : Pkg) : List Nat :=
  let idle := nanoseconds 1000000
  if p.time < idle then [idle] else p.arraySince.map fun e => e.2 + idle

/-- When the entry into retention or the exit from it that array `a` makes ends (R397). -/
def Pkg.retentionEnd (p : Pkg) (a : Nat) (r : Retention) : List Nat :=
  match r with
  | .retained => []
  | _ => [p.arraySinceOf a + retentionTime a]

/-- When a notice runs out (R387). -/
def Gang.noticeEnd (g : Gang) : Option Nat :=
  if g.phase = .resident then g.noticeAt.map (· + nanoseconds 20000) else none

/-- Retention mode's own work (R397): arrays that enter it, have entered it, or leave it. -/
def Pkg.retentionTasks (p : Pkg) : List (State → Out) :=
  (if p.time < nanoseconds 1000000 then [] else [fun s => .next s.enterIdle]) ++
  (if p.retention.any fun r => p.retentionDue r.1 .entering || p.retentionDue r.1 .turning then [fun s => .next s.enteredAll]
    else []) ++
  (p.retention.filter fun r => p.retentionDue r.1 .leaving).map fun r => execEvRetentionLeave r.1

/-- What waits for arrays, homes or hosts: tenant configurations, clusters that failed, accesses of the host, what gangs'
ends leave to do, and the batches of parked harts. -/
def Pkg.waitingTasks (p : Pkg) : List (State → Out) :=
  (if p.configs.isEmpty then [] else [finishAt configNext]) ++
  (List.range p.emptying.length).map (fun k => finishAt (emptyNext k)) ++
  (if p.hostWork.isEmpty then [] else [finishAt hostStep]) ++
  (if p.ends.isEmpty then [] else [finishAt (orStop State.retryEnds)]) ++
  p.gangs.flatMap fun g => (g.saved.filter Hart.openBatches).map fun h => finishAt (flushDue h.ident)

/-- The events that the package owes now: what has reached its home or its hart, what its time has come for, what its
engines can do. -/
def Pkg.tasks (p : Pkg) : List (State → Out) :=
  let due (t : Nat) : Bool := decide (t ≤ p.time)
  ((List.range 4).filter fun d => (p.die d).relockEnd.any due).map execEvRelockEnd ++
  p.net.mapIdx Msg.task ++
  p.respOrder.map execEvResp ++
  (List.range p.waiting.length).map execEvTimedEntryGrant ++
  ((p.held.filter fun t => t.time ≤ p.gtime).map Timed.home).eraseDups.map execEvTimedInstant ++
  p.copies.flatMap CopyRun.tasks ++
  ((p.queues.map (·.1)).filter fun q => bit (p.qcfg q) 0 && bit (p.qcfg q) 2 && p.qcount q != 0).map execEvRingDelivery ++
  ((List.range 4).filter fun d => (p.die d).contAt.any due).map execEvContRetry ++
  ((p.gangs.filter fun g => g.noticeEnd.any due).map fun g => execEvNoticeTimeout g.id) ++
  ((p.gangs.filter fun g => g.phase == .resuming).map fun g => execEvGangResume g.id) ++
  ((List.range 64).filterMap fun n => (p.nextLine n).map fun l => execEvMigrationPull n l) ++
  ((List.range p.evac.length).filter fun k => (p.evac[k]?).any fun r => due (p.blockTime r)).map execEvEvacBlockMove ++
  ((p.rebuilding.filter fun e => due e.2.2.2).map fun e => execEvRemapRebuildEnd e.1 e.2.1 true) ++
  (if p.syncEnd.any due then [execEvSyncTimeout] else []) ++ (if p.nextSync.any due then [fun s => .next (masterSync s)] else []) ++
  p.retentionTasks ++ p.waitingTasks

/-- The ends of gangs that are discarded, or that have harts which have ended (R313, R391). -/
def State.endTasks (s : State) : List (State → Out) :=
  let ended (g : Gang) : Bool := s.cores.any fun e => e.2.gang == g.id && e.2.status == .exited
  (s.pkg.gangs.filter fun g => g.discard || ended g).map fun g => finishAt (orStop fun s => s.settleGang g.id)

/-- Everything that may happen without a turn of a hart and without the world outside. -/
def State.tasks (s : State) : List (State → Out) := s.cores.flatMap s.coreTasks ++ s.pkg.tasks ++ s.endTasks

/-- The first of the events that changes anything. -/
def firstEffect (s : State) : List (State → Out) → Option Out
  | [] => none
  | f :: r =>
    match f s with
    | .next t => if t = s then firstEffect s r else some (.next t)
    | o => some o

/-- The first event that is due and has an effect; in a package whose die 0 is lost nothing is (R405). -/
def State.event (s : State) : Option Out := if s.pkg.lost then none else firstEffect s s.tasks

/-! ### Time -/

/-- The instants at which something is due by itself. -/
def State.instants (s : State) : List Nat :=
  let p := s.pkg
  p.held.map (fun t => 990 * t.time - p.gtShift) ++
  (List.range 4).flatMap (fun d => (p.die d).relockEnd.toList ++ (p.die d).contAt.toList) ++
  p.gangs.flatMap (fun g => g.noticeEnd.toList) ++
  p.retention.flatMap (fun r => p.retentionEnd r.1 r.2) ++ p.idleEnds ++ p.syncEnd.toList ++ p.nextSync.toList ++
  p.gangs.flatMap (fun g => g.saved.flatMap fun h => h.batchEnds.map (·.1)) ++
  p.evac.map p.blockTime ++
  p.rebuilding.map (fun e => e.2.2.2) ++
  s.cores.flatMap fun e => e.2.batchEnds.map (·.1)

/-- The earliest such instant after now and up to `t`: what is due at an edge comes before what is done at it (R247). -/
def State.instantBefore (s : State) (t : Nat) : Option Nat :=
  leastBy id (s.instants.filter fun i => decide (s.pkg.time < i) && decide (i ≤ t))

/-- The next core-clock edge at which a core's hart may have a turn: the edge of now, where it has had none at it, or
the next; while its clock stands still, a nominal cycle later or the end of the relock (R256). -/
def State.edgeOf (s : State) (c : Core) : Nat :=
  let d := s.pkg.die (dieOfCore c.id)
  let later := s.pkg.time + 1584
  if s.pkg.tripped then later
  else match d.relockEnd with
    | some e => max (s.pkg.time + 1) (min later e)
    | none => if c.turnAt < d.edgeAt ∧ d.edgeAt = s.pkg.time then d.edgeAt else max (s.pkg.time + 1) d.nextEdge

/-- The next edge of the core of the state. -/
def State.edge (s : State) : Nat := s.edgeOf s.core

/-- The state at a later time. -/
def State.advance (s : State) (t : Nat) : State := { s with pkg := s.pkg.advance t }

/-! ### A hart's turn -/

/-- The places of a word's register fields in its format (R54). Vector register numbers are taken for numbers of x
registers, which only makes the hart wait longer (log 40). -/
def registerFields (w : Nat) : List Nat :=
  let op := w / 2 ^ 26
  if op = 0x2B then [6, 11, 16, 21]
  else if op = 0x08 ∨ op = 0x1E then [21]
  else if op ∈ [0x02, 0x03, 0x04, 0x05, 0x06, 0x07, 0x09, 0x10, 0x11, 0x14, 0x15, 0x18, 0x19, 0x1A, 0x1B, 0x1C, 0x1D, 0x1F, 0x38] then [16, 21]
  else [11, 16, 21]

/-- No register that a word names awaits the value of a timed load (R228); a copy reads the register after its third
too (R262). -/
def State.operandsReady (s : State) (w : Nat) : Bool :=
  ((registerFields w).all fun lo => s.xFree (fieldOf w lo 5)) &&
  (decide (w / 2 ^ 26 != 0x30) || s.xFree (fieldOf w 11 5 + 1))

/-- Has the oldest entry of the store buffer stood in it while 64 instructions retired (R218)? A full store-fault queue
keeps it there. -/
def Hart.overdue (h : Hart) : Bool :=
  (h.sb.head?.any fun e => decide (e.instret.toNat + 64 ≤ h.instret.toNat)) && decide (h.sfq.length < 8)

/-- Does the scalar pipeline issue nothing past an instruction of the VDQ (R106, R124, R163, R222)? While the store buffer
cannot drain, its report is taken and its handler runs (R218, R219, log 94). -/
def Hart.vdqHolds (h : Hart) : Bool :=
  !(decide (8 ≤ h.sfq.length) && !h.sb.isEmpty) && h.vdq.any fun e => match e with
    | .insn q => q.holds
    | _ => false

/-- The hart of the state with its latest instruction not retired: the response to it is a trap at its address (log 78). -/
def State.unretire (s : State) : State := { s with h := { s.h with instret := s.h.instret - 1 } }

/-- The response to a launch.r has come: an acceptance, the STORE_FAULT of R336 at that launch.r (R384), or TENANT where its
tenant was refused (code 16; R336, R369). -/
def launchAnswer (pc addr : Dword) (code : Nat) : M Unit := do
  modify fun s => { s with h := { s.h with launchAt := none, launchCode := none } }
  if code = 0 then pure ()
  else do
    modify State.unretire
    if code = 16 then raise { cause := causeTenant, value := launchStatus addr.toNat 0, epc := some pc }
    else raise { cause := causeStoreFault, value := launchStatus addr.toNat code, epc := some pc }

/-- Every response that the instruction at `pc` waits for has come: a trap that one brought is taken there, a vector
instruction's fault-first (R222, R230, R369, R396); or an enabled flag's, at the next instruction (R230, R233). A vector
instruction has been counted as it entered the VDQ (R40). -/
def accessAnswer (pc : Dword) : M Unit := do
  let s ← get
  set { s with h := { s.h with waitAt := none, waitTrap := none, waitFlags := 0 } }
  match s.h.waitTrap with
  | some (cause, val, none) =>
    modify State.unretire
    raise { cause := cause, value := val, epc := some pc }
  | some (cause, val, some e) =>
    modify fun s => { s with h := { s.h with vstart := BitVec.ofNat 64 e } }
    raise { cause := cause, value := val, epc := some pc, evv := true }
  | none =>
    let en := s.h.waitFlags &&& s.fte
    if en = 0 then pure () else fpEnabled en

/-- The response that the hart waits for, where it has come, taken; one of a vector instruction at its end. -/
def Hart.answer (h : Hart) : Option (M Unit) :=
  if h.amid.isSome then none
  else match h.launchAt, h.launchCode, h.waitAt with
  | some (pc, addr), some code, _ => some (launchAnswer pc addr code)
  | _, _, some pc => if h.waitTags.isEmpty then some (accessAnswer pc) else none
  | _, _, none => none

/-- May the hart issue an instruction, no report being due? -/
def Hart.mayIssue (h : Hart) : Bool :=
  h.launchAt.isNone && (h.waitAt.isNone || h.amid.isSome) && !h.vdqHolds && !h.overdue

/-- A pending restart ends with the instruction that it restarts (R164). -/
def State.endRestart (s : State) (w : Nat) (before : Hart) : State :=
  if s.h.restart.isSome && s.h.restart == before.restart && s.h.instret != before.instret && w != 0xE0000007 then
    { s with h := { s.h with restart := none } }
  else s

/-- The instruction at the PC, run (R52, R53, R71). -/
def issue (s : State) : Out :=
  match fetchPair s with
  | .error e => finishAt (fun _ => .error e) s
  | .ok ((w, v), t) =>
    if !t.operandsReady w then .next t
    else if okWord w v then mapNext (fun u => u.endRestart w t.h) (runWord w v t)
    else takeTrap { cause := causeIllegal, value := BitVec.ofNat 64 w } t

/-- Does the hart of the state yield at the edge at which another hart of its gang has: it executes its own yield, and the
gang parks once (R339)? -/
def State.yieldsNow (s : State) : Bool :=
  s.h.mayIssue && s.pkg.gangs.any (fun g => g.id == s.h.gang && g.parkAt == some s.pkg.time) &&
  match fetchPair s with
  | .ok ((w, _), _) => w == 0xC8000014
  | .error _ => false

/-- A report taken at this boundary; past an instruction of the VDQ that holds issue there is none but to stop (R380,
R383). -/
def reportEdge (r : Report) (s : State) : Out :=
  let stops := match r with
    | .park => true
    | .kill _ => true
    | _ => false
  if r = .park ∧ s.yieldsNow then issue s
  else if s.h.vdqHolds && !stops then .next s
  else finishAt (takeReport r) s

/-- One edge of the hart of the state: a response, a report, or an instruction. Reports come before the next execution of
an instruction that waits, which has no timeout of its own (R318, R380). -/
def hartEdge (s : State) : Out :=
  if s.h.status != .running || s.pkg.stopped (dieOfCore s.core.id) || s.areaWaits s.h then .next s
  else
    match s.h.answer, s.h.report with
    | some m, _ => finishAt m s
    | none, some r => reportEdge r s
    | none, none => if s.h.mayIssue then issue s else .next s

/-- The edge of the hart of the state begins: its core has its turn at it, and a pause counts it (R332). -/
def State.atEdge (s : State) : State :=
  let s := { s with core := { s.core with turnAt := s.pkg.time } }
  if s.h.pauseLeft ≤ 1 then s else { s with h := { s.h with pauseLeft := s.h.pauseLeft - 1 } }

/-- Can the hart of a core take a turn? -/
def State.runnable (s : State) (e : Core × Hart) : Bool :=
  e.2.status == .running && !s.pkg.stopped (dieOfCore e.1.id)

/-- The core whose turn comes next: that of the running hart with the earliest edge, in the order of the cores where
edges come together. -/
def State.nextCore (s : State) : Nat :=
  match leastBy (fun e => s.edgeOf e.1) (s.cores.filter s.runnable) with
  | some e => e.1.id
  | none => s.core.id

/-- The turn of the hart of the state: time passes up to the next instant at which something is due, or else to the
edge of its clock, at which it goes on; then the next hart's turn comes. -/
def turn (s : State) : Out :=
  match s.instantBefore s.edge with
  | some t => .next (s.advance t)
  | none => mapNext (fun t => t.focus t.nextCore) (hartEdge (s.advance s.edge).atEdge)

/-! ### What the world outside asks for -/

/-- The die of this package that a message of another one is for: its home's, its queue's, or the one that a barrier's
message names. -/
def Msg.toDie (m : Msg) (first : Nat) : Nat :=
  match m.body with
  | .contribution _ _ _ _ d => d % 4
  | .release _ _ _ d => d % 4
  | .launch q _ _ => q / 16 % 4
  | _ => dstOf first

/-- A location that a message of another package names first. -/
def Msg.first (m : Msg) : Nat :=
  match m.body with
  | .read key _ _ _ => key
  | .write cells => (cells.head?.map (·.1)).getD 0
  | .nibble key _ _ => key
  | .atomic _ key _ _ _ _ => key
  | .reduce elems => (elems.head?.map (·.key)).getD 0
  | .timed t => t.key
  | .join key _ => key
  | _ => 0

/-- A message of another package enters on a UALink port, whose membership bitmap checks its TID (R368, R369). -/
def arrival (port : Nat) (m : Msg) (s : State) : State :=
  let p := s.pkg
  let body := match m.body with
    | .timed t => .timed { t with owner := 0, spot := none, issued := min t.issued p.time }
    | b => b
  let m := { m with owner := 0, dst := m.toDie m.first, sent := p.time, body := body, spot := none, ack := none }
  if p.portAdmits port m.tid.toNat then { s with pkg := { p with net := p.net ++ [m] } }
  else
    let p := if m.untold then p.tenantDrop (port / 4) 0xFFFF m.tid.toNat (p.addressOf m.first) else p
    { s with pkg := if m.answered then p.replyTo m (.refused m.va m.tag?) else p }

/-- The edge of now gone by without the turns of the harts that have it. -/
def State.skipTurns (s : State) : State :=
  let skip (c : Core) : Core := { c with turnAt := max c.turnAt s.pkg.time }
  { s with core := skip s.core, rest := s.rest.map fun e => (skip e.1, e.2) }

/-- A stretch of time in which the package does what it owes and no hart takes a turn. -/
def passTime (n : Nat) (s : State) : Out :=
  match n with
  | 0 => .next s
  | k + 1 =>
    match s.event with
    | some o => mapNext (fun t => { t with agenda := .pass (k + 1) :: t.agenda }) o
    | none =>
      if s.cores.any fun e => s.turnDue e.2.ident then .next { s.skipTurns with agenda := .pass (k + 1) :: s.agenda }
      else
        match s.instantBefore (s.pkg.time + 1584) with
        | some t => .next { s.advance t with agenda := .pass (k + 1) :: s.agenda }
        | none => .next { s.advance (s.pkg.time + 1584) with agenda := .pass k :: s.agenda }

/-- What the hart of the state does, with its accesses leaving it as messages that it does not wait for (R193) and vector
accesses performed one by one (R191). -/
def aheadOn (f : State → Out) (s : State) : Out :=
  let set_ (b : Bool) (s : State) : State := { s with h := { s.h with ahead := b } }
  mapNext (fun t => t.onCore s.core.id (set_ false)) (f (set_ true s))

/-- A turn of the hart of the state of that kind. -/
def aheadTurn (s : State) : Out := aheadOn turn s

/-- A line leaves its memory-side cache, and its race record with it (R213): when it does is the agenda's (log 75). -/
def Pkg.dropRace (p : Pkg) (granule : Nat) : Pkg := { p with races := tableDrop p.races granule }

/-- May a core's L1 cache hold the line of a location: the instruction cache one that it has filled, the data cache any of the
DRAM of its own die (R14, R175)? -/
def State.inL1 (s : State) (core : Nat) (code : Bool) (loc : Nat) : Bool :=
  if code then s.cores.any fun e => e.1.id == core && (tableGet e.1.icache (loc / 64)).isSome
  else decide (loc < 4 * 2 ^ 40) && dstOf loc == dieOfCore core

/-- Does an event reach a package whose die 0 is lost (R405): a cold reset, and what ends standby power? -/
def recovers (i : Instr) : Bool :=
  match i with
  | .evColdReset _ _ _ _ _ _ => true
  | .evStandbyPowerLoss => true
  | _ => false

/-- What the agenda names, done, in a package that is not lost. -/
def performLive (a : Act) (s : State) : Out :=
  match a with
  | .event i => if isEvent i then exec i s else .next s
  | .turn core => if 1536 ≤ core then .next s else turn (s.focus core)
  | .ahead core => if 1536 ≤ core then .next s else aheadTurn (s.focus core)
  | .queue core => if 1536 ≤ core then .next s else mapNext (·.focus s.core.id) (aheadOn (runHead core) (s.focus core))
  | .pass n => passTime n s
  | .arrive port m => .next (if port < 16 then arrival port m s else s)
  | .respond r => .next { s with pkg := { s.pkg with resps := s.pkg.resps ++ [r] } }
  | .ptp m => .next (ptpArrives m s)
  | .drop granule => .next { s with pkg := s.pkg.dropRace granule }
  | .upset loc cached => .next (s.upset loc cached)
  | .upsetL1 core code loc => .next (if s.inL1 core code loc then s.poisonL1 core code loc else s)
  | .refuseChunk copy chunk => finishAt (refuseChunk copy chunk) s
  | .readPage _ n => .next (pageRead n s)
  | .readRegister by_ off => .next (registerRead by_ off s)
  | .laneErrors link k n => .next (laneErrors link k n s)
  | .readLane link k => .next (laneRead link k s)
  | .dieZeroFails => .next (packageLost s)

/-- What the agenda names, done; a package whose die 0 is lost answers nothing but a cold reset (R405). -/
def perform (a : Act) (s : State) : Out :=
  match a, s.pkg.lost with
  | .event i, true => if recovers i then exec i s else .next s
  | .pass n, true => passTime n s
  | _, true => .next s
  | a, false => performLive a s

end Sys2Proof.Machine
end

