-- ==== Sys2Proof/Machine/Step.lean ====
section
/-! DEFINITION. One step of the machine, and the placing of an instruction where the next step fetches (log 19). -/

namespace Sys2Proof.Machine

/-- One step: what the agenda names first; else an event that is due and has an effect; else a turn of a hart. -/
def step (s : State) : Host.Outcome State Fault Refusal :=
  match s.agenda with
  | a :: rest => perform a { s with agenda := rest }
  | [] => s.event.getD (turn s)

/-- The die-local place of what a loaded program needs: the level 1 table that maps every address of 1 GiB to the
first 1 GiB of DRAM, the tables above it, the descriptors, the pool of hart slots (log 19). -/
def loadedBase : Nat := 2 ^ 30

/-- The package as boot and the runtime leave it for one context of one tenant (R354, R376, R408): the whole of die 0's
DRAM in PRT entry 0, the tables and pools placed. -/
def Pkg.loaded (p : Pkg) : Pkg :=
  let own := p.number * 2 ^ 42
  let addr (off : Nat) : Dword := BitVec.ofNat 64 (own + loadedBase + off)
  let p := ((p.setCtl (offPrt 0 0) 1).setCtl (offPrt 0 1) (BitVec.ofNat 64 (192 * 2 ^ 30))).setCtl (offPrt 0 2) 1
  let p := (p.setCtl offTentbase (addr 0x100000)).setCtl offCtxtbase (addr 0x200000)
  let p := (p.setCtl (offTrap 0 false 2) (addr 0x1000000)).setCtl (offTrap 0 false 3) 64
  let p := if p.number ∈ p.domain then p else { p with domain := p.number :: p.domain }
  { p with clusters := p.clusters.map fun e => (e.1, { e.2 with tlb := [] }) }

/-- The gang of a launch of one hart from queue 0, without a continuation, a join or a partition. -/
def Hart.launched (h : Hart) : Gang :=
  { id := h.gang, tag := BitVec.ofNat 32 (bits h.gangid 0 32), ctx := BitVec.ofNat 16 (bits h.ctxid 0 16)
    tid := BitVec.ofNat 12 (bits h.tid 0 12), secure := false, die := 0, cluster := 0, gsize := 1, prio := 0
    stamp := 0, queue := 0, cq := 0, cont := 0, join := 0, part := 0, units := [], gslot := none, poolDie := 0
    ptbmp := 0, arrived := [], phases := 0, doneAt := [], clocks := [], phase := .resident, saved := [], placed := h.gang
    passed := 0, guardAt := none, parkAt := none, noticeAt := none, killed := false, discard := false }

/-- The state with an instruction of `nbits` bits, its bits `w`, where the next step fetches: a program loaded and
launched on core 0, its context's pages mapped to the first 1 GiB of DRAM with every right (log 19). -/
def State.withFetchWord (s : State) (nbits w : Nat) : State :=
  let id := if s.h.gang = 0 then s.pkg.nextGang else s.h.gang
  let h := { s.h with
    status := .running, gang := id, launchAt := none, launchCode := none, waitAt := none, waitTags := [], waitTrap := none
    amid := none }
  let p := s.pkg.loaded
  let p := { p with
    gangs := h.launched :: p.gangs.filter (fun g => g.id != id), nextGang := max p.nextGang (id + 1)
    tripped := false, lost := false, evac := [] }
  let p := p.onDie 0 fun d =>
    { d with hslots := setInsert d.hslots h.slot, halted := false, relockEnd := none, walks := [], spill := none }
  let own := p.number * 2 ^ 42
  let at_ (off : Nat) : Nat := loadedBase + off
  let dwords (s : State) (off : Nat) (ds : List Nat) : State := s.putBytes (dramLoc 0 off) (ds.flatMap (bytesOf 8))
  let s : State :=
    { h := h, core := { s.core with id := 0, secure := false, icache := [], tlb := [] }, rest := [], mem := s.mem
      pkg := p, agenda := [] }
  let s := dwords s (at_ 0x100000 + 32 * bits h.tid 0 12) [1, 2 ^ 64 - 1, 0]
  let s := dwords s (at_ 0x200000 + 64 * bits h.ctxid 0 16)
    [1 + own + at_ 0x800000, 0, bits h.tid 0 12 * 2 ^ 16, 64 + 64 * 2 ^ 8]
  let s := dwords s (at_ 0x800000 + 8 * pteIndex false 0 h.pc.toNat) [3 + own + at_ 0x801000]
  let s := dwords s (at_ 0x801000 + 8 * pteIndex false 1 h.pc.toNat) [0x1E1 + own]
  s.putBytes (dramLoc 0 (h.pc.toNat % 2 ^ 30)) (bytesOf 8 (w % 2 ^ min nbits 64))

end Sys2Proof.Machine
end

