-- ==== Sys2Proof/Safety.lean ====
section
/-! DEFINITION. What counts as a safe run, and the terms in which claims about the machine are stated: the invariant of
a step, what an access finds, the file of vector registers as one row of bits, how a vector instruction ends. -/

namespace Sys2Proof.Machine

/-! ### The invariant -/

/-- Every step keeps memory in its canonical form, the bytes that controllers hold for graph copies included. -/
def State.Inv (s : State) : Prop := Memory.wf s.mem = true ∧ (s.pkg.pendMem.map (·.1)).Pairwise (· < ·)

/-- A step that is safe: it answers a next state. -/
def Safe (o : Out) : Prop := ∃ t, o = .next t

/-! ### Ends of a meaning -/

/-- The meaning `m` ends with the value `a` in the state `t`: it neither traps nor waits. -/
def Ends {α : Type} (m : M α) (s : State) (a : α) (t : State) : Prop := m s = .ok (a, t)

/-- The instruction or event answers a next state of which `p` holds. -/
def Gives (i : Instr) (s : State) (p : State → Prop) : Prop := ∃ t, exec i s = .next t ∧ p t

/-- Nothing but what the package holds beside the cores and memory differs. -/
def OnlyPackage (s t : State) : Prop := t = { s with pkg := t.pkg }

/-- A core whose events come: its hart is there, its die does not stand still and its save area does not wait. -/
def State.awake (s : State) (core : Nat) : Prop :=
  core < 1536 ∧ s.pkg.stopped (dieOfCore core) = false ∧ (s.coreAt core).2.present = true ∧
  s.areaWaits (s.coreAt core).2 = false

/-- An event of a core leaves the state `u`, looked at from that core. -/
def LeavesAt (i : Instr) (s u : State) : Prop := exec i s = .next (u.focus s.core.id)

/-- The meaning `m` raises the trap `k`, having changed the state to `t`. -/
def Traps {α : Type} (m : M α) (s : State) (k : Trap) (t : State) : Prop := m s = .error (.trap k t)

/-- The `n` bytes at virtual address `va` can be read by the hart of the state, by an acquire of a scope or, without
one, plainly: they are `bs`, and the access leaves the state `t`. -/
def Reads (s : State) (scope : Option Nat) (va : Dword) (n : Nat) (bs : List Byte) (t : State) : Prop :=
  Ends (loadBytes scope va va.toNat n) s bs t

/-- A load of `n` bytes at `va` is performed in the step that issues it, the bytes `bs` read and the state `t` left: no
accst or accsave stands before it (R221), and nothing of it is sent to a home elsewhere (R188). -/
def LoadsHere (s : State) (scope : Option Nat) (va : Dword) (n : Nat) (bs : List Byte) (t : State) : Prop :=
  s.h.placing = false ∧ ∃ u, Ends (leavingLoad false va va.toNat n) s [] u ∧ Reads u scope va n bs t

/-- Where a byte of the hart's own private scratchpad lies (R49). -/
def State.ownLoc (s : State) (va : Nat) : Nat := privLoc s.core.id (va - windowBase)

/-- Nothing stands in the way of an access of `n` bytes at `va`: they lie in one aligned dword of the hart's own private
scratchpad, in a granule that is the hart's already (R49, R388); the hart has no store in its buffer and no message on
its way, and its accesses are not sent ahead (R193); nothing holds the array (R247, R397), and no byte is poisoned
(R396). -/
def State.Own (s : State) (va n : Nat) : Prop :=
  va % 8 + n ≤ 8 ∧ windowBase ≤ va ∧ va + n ≤ windowBase + privateSize ∧
  tableGet s.core.tags ((va - windowBase) / 4096) = some s.h.tag ∧ s.h.sb = [] ∧ s.mine s.h.ident = [] ∧
  s.h.ahead = false ∧ s.pkg.l1Bad s.core.id false (s.ownLoc va) n = false ∧
  s.pkg.held? (s.ownLoc va) n = false ∧ s.pkg.poisoned (s.ownLoc va) n = false

/-- The hart of the state is there, and the cores beside its own, each listed once, hold other harts. -/
def State.here (s : State) : Prop :=
  s.h.present = true ∧ (s.rest.map (·.1.id)).Nodup ∧
  ∀ e ∈ s.rest, e.1.id ≠ s.core.id ∧ (e.2.present = true → e.2.ident ≠ s.h.ident)

/-- Nor in the way of a write there: no fence has armed it (R199), no accst or accsave stands before it, and the hart, which
its core holds, publishes nothing (R273). -/
def State.OwnWrite (s : State) (va n : Nat) : Prop :=
  s.Own va n ∧ s.h.armed = [] ∧ s.h.placing = false ∧ s.h.pubs = Vector.replicate 16 none ∧ s.here

/-- No accld or accrest older than the next instruction has rows to read (R193). -/
def State.rowsRead (s : State) : Prop := s.h.rowsBefore (s.h.instret + 1) = false

/-- An atomic at `va` is performed in the step that issues it, with old value and flags, and leaves the state `t`. -/
def AtomicHere (s : State) (o : AtomicOp) (va : Dword) (v e old : Nat) (fl : Flags) (t : State) : Prop :=
  ∃ x u, Ends (resolveAtomic o va va.toNat) s x u ∧ u.sendsOff x (o.width / 8) = false ∧
    Ends (atomicHere o u.seen va x va.toNat v e) u (old, fl) t

/-- The value and flags of an atomic on the hart's own bytes at `va`. -/
def State.ownAtomic (s : State) (o : AtomicOp) (va v e : Nat) : Nat × Flags :=
  o.apply (natOf (s.getBytes (s.ownLoc va) (o.width / 8))) v e

/-- The state once that atomic has been performed: the bytes hold its value. -/
def State.ownAtomicDone (s : State) (o : AtomicOp) (va v e : Nat) : State :=
  let n := o.width / 8
  (s.observe none (s.ownLoc va) n).putBytes (s.ownLoc va) (bytesOf n (s.ownAtomic o va v e).1)

/-- The state once a reduction there has been performed: what it leaves for the hart's rfence is kept (R238). -/
def State.ownReduceDone (s : State) (o : AtomicOp) (va v : Nat) : State :=
  let t := s.ownAtomicDone o va v 0
  { t with pkg := t.pkg.leaveReduced s.h.ident s.core.id (bits s.h.tid 0 12) (s.ownLoc va) (o.width / 8) }

/-- The state with NDET set, as a floating atomic leaves it when it issues (R106). -/
def State.ndet (s : State) : State := { s with h := { s.h with fcsr := setBits s.h.fcsr 9 1 1 } }

/-- The state once `n` dwords from `va` in the hart's own private scratchpad have been read. -/
def State.ownRead (s : State) (va n : Nat) : State :=
  (List.range n).foldl (fun s i => s.observe none (s.ownLoc (va + 8 * i)) 8) s

/-- The `n` bytes at `va` lie in one aligned dword of the partition of the hart's gang, in a granule that is the gang's
already, at the location `loc`, and nothing stands in the way of an access to them. -/
def State.OwnPart (s : State) (va n loc : Nat) : Prop :=
  va % 8 + n ≤ 8 ∧ s.h.sb = [] ∧ s.mine s.h.ident = [] ∧ s.h.ahead = false ∧
  s.pkg.l1Bad s.core.id false loc n = false ∧ s.pkg.held? loc n = false ∧ s.pkg.poisoned loc n = false ∧
  ∃ g, s.gang? s.h.gang = some g ∧ partitionBase ≤ va ∧ va + n ≤ partitionBase + g.partSize ∧
    va + n ≤ windowBase + 2 ^ 32 ∧ loc = g.partLoc (va - partitionBase) ∧
    tableGet (s.pkg.cluster g.cluster).tags ((g.partLoc ((va - partitionBase) / 4096 * 4096) - clusLoc g.cluster 0) / 4096) =
      some g.tagOf

/-- The L1 TLB holds a translation for the hart under which it may make this access to `va` (R356, R357), on a page
without the race-check attribute, and the package map gives the place that it names (R177). -/
def State.Maps (s : State) (want : Want) (va : Nat) (at_ : Place) : Prop :=
  va < 2 ^ 48 ∧ windowOf s.h (s.gang? s.h.gang) va = .outside ∧
  ∃ e, s.core.tlb.find? (·.covers s.who va) = some e ∧ e.rc = false ∧
    s.checkAccess s.who e want (e.pbase + (va - e.vbase)) = .ok () ∧ s.pkg.place (e.pbase + (va - e.vbase)) = at_

/-- At the edge of the state its hart issues an instruction: it runs, its die's clock does not stand still, its save area does
not wait (R173), it takes no response and no report, and nothing keeps it from issuing. -/
def State.issues (s : State) : Prop :=
  s.h.status = .running ∧ s.pkg.stopped (dieOfCore s.core.id) = false ∧ s.areaWaits s.h = false ∧ s.h.answer = none ∧ s.h.report = none ∧
  s.h.mayIssue = true

/-- The state with PC and INSTRET as an instruction of one word leaves them, and X[d] written. -/
def State.doneX (s : State) (d : BitVec 5) (v : Dword) : State := (s.setX d v).retire

/-- The state with the flags of FCSR or-ed with `fl`, PC and INSTRET as an instruction of one word leaves them, and
X[d] written. -/
def State.doneF (s : State) (d : BitVec 5) (v : Nat) (fl : Flags) : State :=
  ((s.setFlags fl).setX d (BitVec.ofNat 64 v)).retire

/-- No flag of `fl` is enabled in FTE (R113, R124). -/
def State.quiet (s : State) (fl : Flags) : Prop := fl &&& s.fte = 0

/-- No flag of `fl` is enabled in MXTE (R164). -/
def State.quietM (s : State) (fl : Flags) : Prop := fl &&& s.mxte = 0

/-- The flags of results taken together. -/
def allFlags (fs : List Flags) : Flags := fs.foldl (· ||| ·) 0

/-! ### Vector registers as one row of bits -/

/-- Bit `k` of a file of vector registers, the registers laid end to end. -/
def fileBit (vs : Vector Vec 32) (k : Nat) : Bool := (vs.getD (k / 1024) 0).getLsbD (k % 1024)

/-- The file `vs'` is the file `vs` with element `e` of the group of width `w` at register `r` made `f e`, for each `e`
listed, and no other bit changed. -/
def ElementsSet (vs vs' : Vector Vec 32) (r w : Nat) (es : List Nat) (f : Nat → Nat) : Prop :=
  (∀ e ∈ es, ∀ i < w, fileBit vs' (1024 * r + w * e + i) = (f e).testBit i) ∧
  ∀ k < 32768, (∀ e ∈ es, ¬(1024 * r + w * e ≤ k ∧ k < 1024 * r + w * e + w)) → fileBit vs' k = fileBit vs k

/-- A vector instruction takes effect as it issues: its register groups stand at this VL (R69, R70), the VDQ is empty
(R125), and no vector load is outstanding (R229). -/
def State.VecReady (s : State) (ok : Nat → Bool) : Prop :=
  ok s.vlen = true ∧ s.h.vdq = [] ∧ s.h.head = none ∧ s.vFree = true

/-- A vector, mask or matrix instruction has passed into the VDQ (R14, R40, R107): it retires, and its entry, the newest,
holds what it captured; nothing issues past one that is `held`. -/
def State.inVdq (s : State) (word : Nat) (held : Bool) : State :=
  let q := s.captured word
  ({ s with h := { s.h with vdq := s.h.vdq ++ [.insn { q with holds := q.holds || held }] } } : State).retire

/-- A vector instruction passes into the VDQ: its register groups stand, other entries or an outstanding load stand
before it, and there is room. -/
def State.VecQueues (s : State) (ok : Nat → Bool) : Prop :=
  ok s.vlen = true ∧ s.h.head = none ∧ (s.h.vdq ≠ [] ∨ s.vFree = false) ∧ s.h.vdq.length < 32

/-- The groups of an instruction with destination `d` of width `w` and sources of the widths given. -/
def State.Groups (s : State) (d : BitVec 5) (w : Nat) (src : List (BitVec 5 × Nat)) : Prop :=
  s.VecReady fun vl => groupsOk vl (some (d, w)) src

/-- The outcome in which the elements listed of the group at `d` become `f e`, the flags `fl` are set, VSTART is 0, the
PC and INSTRET advance, and nothing else changes. -/
def VectorResult (s : State) (o : Out) (d w : Nat) (es : List Nat) (f : Nat → Nat) (fl : Flags) : Prop :=
  ∃ vs, o = .next ((({ s with h := { s.h with v := vs } } : State).setFlags fl).clearVstart).retire ∧
    ElementsSet s.h.v vs d w es f

/-- The outcome in which the bits listed of mask register `d` become `f e`, the flags `fl` are set, VSTART is 0, the PC
and INSTRET advance, and nothing else changes; m0 keeps its ones. -/
def MaskResult (s : State) (o : Out) (d : Nat) (es : List Nat) (f : Nat → Bool) (fl : Flags) : Prop :=
  ∃ v : Mask, o = .next (((s.setM d v).setFlags fl).clearVstart).retire ∧
    ∀ i < 256, v.getLsbD i = if i ∈ es then f i else (s.mreg d).getLsbD i

/-- The outcome of a flag-capable element-wise instruction (R124) in which no active element raises an enabled flag:
`f e` is the value and the flags of element `e`. -/
def FloatResult (s : State) (o : Out) (d w : Nat) (es : List Nat) (f : Nat → Nat × Flags) : Prop :=
  (∀ e ∈ es, s.quiet (f e).2) → VectorResult s o d w es (fun e => (f e).1) (allFlags (es.map fun e => (f e).2))

/-- `c` is the code of the lowest flag of a set (R35). -/
def LowestFlag (fl : Flags) (c : Nat) : Prop := c < 5 ∧ fl.getLsbD c = true ∧ ∀ j < c, fl.getLsbD j = false

/-- FP_ENABLED with the code of the lowest enabled flag of `fl` in EVAL, taken in the state `t` (R113, R124). -/
def FpTrap (o : Out) (enabled : Flags) (t : State) : Prop :=
  ∃ c, LowestFlag enabled c ∧ o = takeTrap { cause := 0x09, value := BitVec.ofNat 64 c } t

/-- The state that an element-wise instruction leaves to its trap at element `k`: flags `fl` set, VSTART at the element,
and the instruction counted, for it has entered the VDQ (R40, R124). -/
def State.atElement (s : State) (k : Nat) (fl : Flags) : State :=
  { s with h := { s.h with vstart := BitVec.ofNat 64 k, instret := s.h.instret + 1 } }.setFlags fl

/-- The outcome of a flag-capable element-wise instruction (R124) of which element `k` is the first of those listed to
raise an enabled flag: the elements below it are written and their flags set; its own flags are set, and it traps. -/
def FloatTrap (s : State) (o : Out) (d w : Nat) (es : List Nat) (f : Nat → Nat × Flags) : Prop :=
  ∀ k ∈ es, let below := es.filter fun i => decide (i < k)
  (∀ i ∈ below, s.quiet (f i).2) → ¬s.quiet (f k).2 →
  ∃ vs, ElementsSet s.h.v vs d w below (fun i => (f i).1) ∧
    FpTrap o ((f k).2 &&& s.fte) (({ s with h := { s.h with v := vs } } : State).atElement k
      (allFlags (below.map fun i => (f i).2) ||| (f k).2))

/-- The same of one that writes bits of mask register `d`. -/
def MaskTrap (s : State) (o : Out) (d : Nat) (es : List Nat) (f : Nat → Bool) (fl : Nat → Flags) : Prop :=
  ∀ k ∈ es, let below := es.filter fun i => decide (i < k)
  (∀ i ∈ below, s.quiet (fl i)) → ¬s.quiet (fl k) →
  ∃ v : Mask, (∀ i < 256, v.getLsbD i = if i ∈ below then f i else (s.mreg d).getLsbD i) ∧
    FpTrap o (fl k &&& s.fte) ((s.setM d v).atElement k (allFlags (below.map fl) ||| fl k))

/-! ### The accumulators -/

/-- The core's accumulators are enabled, and the hart's own (R38). -/
def State.OwnsAcc (s : State) : Prop :=
  bit s.core.accen 0 = true ∧ bit s.core.accown 16 = true ∧ bits s.core.accown 0 16 = bits s.h.ctxid 0 16

/-- An accumulator instruction takes effect as it issues: the accumulators are the hart's own, the VDQ is empty, and no
vector load is outstanding. -/
def State.AccReady (s : State) : Prop := s.OwnsAcc ∧ s.h.vdq = [] ∧ s.h.head = none ∧ s.vFree = true

/-- The end of an instruction that changes only the core's tiles. -/
def TilesResult (s : State) (o : Out) (f : Core → Core) : Prop := o = .next ({ s with core := f s.core } : State).retire

/-- The outcome in which the cells that `cells` names of tile `t` get its values, the tile live, the flags `fl` set and
the restart and ESTAT.SLV cleared; every other cell, register and byte stays (R152, R164). -/
def TileResult (s : State) (o : Out) (t : Nat) (cells : Nat → Nat → Option Nat) (fl : Flags) : Prop :=
  ∃ c : Core, o = .next ((({ s with core := c } : State).setFlags fl).endSlices).retire ∧
    c.acclive = setBits s.core.acclive t 1 1 ∧
    (∀ i < 32, ∀ j < 32, c.cell t i j = (cells i j).getD (s.core.cell t i j) % 2 ^ 32) ∧
    (∀ k, k ≠ t → c.tiles.getD k (Vector.replicate 32 0) = s.core.tiles.getD k (Vector.replicate 32 0)) ∧
    ({ c with tiles := s.core.tiles, acclive := s.core.acclive } : Core) = s.core

/-- The end of a sliced instruction on tile `t` whose rows are those listed, where none raises an enabled flag: `row`
gives the columns of a row with their values and flags (R152, R159). -/
def SlicedResult (s : State) (o : Out) (t : Nat) (rows : List Nat) (row : Nat → Option RowResult) : Prop :=
  let fl := allFlags (rows.flatMap fun i => ((row i).getD []).map fun c => c.2.2)
  s.quietM fl → TileResult s o t
    (fun i j => if i ∈ rows then ((row i).bind fun cs => cs.find? fun c => c.1 == j).map (fun c => c.2.1) else none) fl

/-- The rows of a sliced instruction: from the pending restart on, below MVL (R149, R164). -/
def State.sliceRows (s : State) : List Nat := (List.range s.mvlN).drop (s.h.restart.getD 0)

/-! ### Queues and waits -/

/-- The hart owes nothing: its store buffer is empty and the VDQ places nothing in it, none of its messages is on its
way, nothing of it waits at a home, and no response to it is on its way (R198, R236, R252). -/
def State.settled (s : State) : Prop :=
  s.h.sb = [] ∧ s.h.placing = false ∧ s.mine s.h.ident = [] ∧ (∀ t ∈ s.pkg.waiting, t.owner ≠ s.h.ident) ∧
  ∀ r ∈ s.pkg.resps, r.owner ≠ s.h.ident

/-- Nor is a timed access of the hart held at a home until its time (R360, R379). -/
def State.applied (s : State) : Prop := s.settled ∧ ∀ t ∈ s.pkg.held, t.owner ≠ s.h.ident

/-- No publish entry of the hart holds an open batch (R276). -/
def State.batchesClosed (s : State) : Prop := s.h.openBatches = false

/-! ### Registers that an access leaves as they are -/

/-- Two harts agree on every register that a program can name, on PC, privilege and INSTRET. -/
def SameRegisters (a b : Hart) : Prop :=
  a.x = b.x ∧ a.v = b.v ∧ a.m = b.m ∧ a.cc = b.cc ∧ a.pc = b.pc ∧ a.priv = b.priv ∧ a.fcsr = b.fcsr ∧ a.vl = b.vl ∧
  a.vstart = b.vstart ∧ a.mvl = b.mvl ∧ a.mvc = b.mvc ∧ a.rngkey = b.rngkey ∧ a.rngctr = b.rngctr ∧
  a.tguard = b.tguard ∧ a.tlate = b.tlate ∧ a.instret = b.instret ∧ a.gangid = b.gangid ∧ a.gidx = b.gidx ∧
  a.gangsz = b.gangsz ∧ a.ctxid = b.ctxid ∧ a.tid = b.tid ∧ a.epc = b.epc ∧ a.ecause = b.ecause ∧ a.eval = b.eval ∧
  a.eslice = b.eslice ∧ a.estat = b.estat

/-- No migration entry pulls lines (R362). -/
def State.noPulls (s : State) : Prop := s.pkg.migrating = false

end Sys2Proof.Machine
end

