-- ==== Sys2Proof/Certificates/Slice0/Obligations.lean ====
section
/-! DEFINITION. The statements for the provers. Where the end of an instruction is given as an equation between states,
everything that the equation does not name is left as it was: registers, flags, special registers, memory. -/

open Sys2Proof Sys2Proof.Machine

/-! ### Scalar integer instructions -/

/-- R108, R109: the instructions of OP 0x01 complete in every state, with these values in X[d].

R109: the one-source instructions of OP 0x01 complete in every state; the value that each writes to X[d] is
determined bit by bit or byte by byte.

R110: the immediate forms complete in every state; imm16 is sign-extended by addi and the comparisons, zero-extended
by the logic forms. -/
def Obligations.IntegerInstructionsComplete : Prop :=
  (∀ (d a b : BitVec 5) (s : State),
   exec (.add d a b) s = .next (s.doneX d (s.x a + s.x b)) ∧
   exec (.sub d a b) s = .next (s.doneX d (s.x a - s.x b)) ∧
   exec (.and d a b) s = .next (s.doneX d (s.x a &&& s.x b)) ∧
   exec (.or d a b) s = .next (s.doneX d (s.x a ||| s.x b)) ∧
   exec (.xor d a b) s = .next (s.doneX d (s.x a ^^^ s.x b)) ∧
   exec (.andn d a b) s = .next (s.doneX d (s.x a &&& ~~~(s.x b))) ∧
   exec (.orn d a b) s = .next (s.doneX d (s.x a ||| ~~~(s.x b))) ∧
   exec (.xnor d a b) s = .next (s.doneX d (~~~(s.x a ^^^ s.x b))) ∧
   exec (.sll d a b) s = .next (s.doneX d (s.x a <<< ((s.x b).toNat % 64))) ∧
   exec (.srl d a b) s = .next (s.doneX d (s.x a >>> ((s.x b).toNat % 64))) ∧
   exec (.sra d a b) s = .next (s.doneX d ((s.x a).sshiftRight ((s.x b).toNat % 64))) ∧
   exec (.rol d a b) s = .next (s.doneX d ((s.x a).rotateLeft ((s.x b).toNat % 64))) ∧
   exec (.ror d a b) s = .next (s.doneX d ((s.x a).rotateRight ((s.x b).toNat % 64))) ∧
   exec (.slt d a b) s = .next (s.doneX d (if (s.x a).toInt < (s.x b).toInt then 1 else 0)) ∧
   exec (.sltn d a b) s = .next (s.doneX d (if (s.x a).toNat < (s.x b).toNat then 1 else 0)) ∧
   exec (.seq d a b) s = .next (s.doneX d (if s.x a = s.x b then 1 else 0)) ∧
   exec (.sne d a b) s = .next (s.doneX d (if s.x a = s.x b then 0 else 1)) ∧
   exec (.min d a b) s = .next (s.doneX d (if (s.x a).toInt ≤ (s.x b).toInt then s.x a else s.x b)) ∧
   exec (.max d a b) s = .next (s.doneX d (if (s.x a).toInt ≤ (s.x b).toInt then s.x b else s.x a)) ∧
   exec (.minn d a b) s = .next (s.doneX d (if (s.x a).toNat ≤ (s.x b).toNat then s.x a else s.x b)) ∧
   exec (.maxn d a b) s = .next (s.doneX d (if (s.x a).toNat ≤ (s.x b).toNat then s.x b else s.x a))) ∧
  (∀ (d a : BitVec 5) (s : State),
   (∃ n, exec (.clz d a) s = .next (s.doneX d (BitVec.ofNat 64 n)) ∧ n ≤ 64 ∧
     (∀ i < n, (s.x a).getLsbD (63 - i) = false) ∧ (n < 64 → (s.x a).getLsbD (63 - n) = true)) ∧
   (∃ n, exec (.ctz d a) s = .next (s.doneX d (BitVec.ofNat 64 n)) ∧ n ≤ 64 ∧
     (∀ i < n, (s.x a).getLsbD i = false) ∧ (n < 64 → (s.x a).getLsbD n = true)) ∧
   exec (.popc d a) s = .next (s.doneX d (BitVec.ofNat 64 ((List.range 64).filter fun i => (s.x a).getLsbD i).length)) ∧
   (∃ v : Dword, exec (.bswap d a) s = .next (s.doneX d v) ∧
     ∀ i < 8, bits v (8 * (7 - i)) 8 = bits (s.x a) (8 * i) 8) ∧
   exec (.sextB d a) s = .next (s.doneX d (((s.x a).truncate 8).signExtend 64)) ∧
   exec (.sextH d a) s = .next (s.doneX d (((s.x a).truncate 16).signExtend 64)) ∧
   exec (.sextW d a) s = .next (s.doneX d (((s.x a).truncate 32).signExtend 64)) ∧
   exec (.zextW d a) s = .next (s.doneX d (((s.x a).truncate 32).zeroExtend 64))) ∧
  (∀ (d a : BitVec 5) (i : BitVec 16) (n : BitVec 6) (s : State),
   exec (.addi d a i) s = .next (s.doneX d (s.x a + i.signExtend 64)) ∧
   exec (.andi d a i) s = .next (s.doneX d (s.x a &&& i.zeroExtend 64)) ∧
   exec (.ori d a i) s = .next (s.doneX d (s.x a ||| i.zeroExtend 64)) ∧
   exec (.xori d a i) s = .next (s.doneX d (s.x a ^^^ i.zeroExtend 64)) ∧
   exec (.slti d a i) s = .next (s.doneX d (if (s.x a).toInt < i.toInt then 1 else 0)) ∧
   exec (.sltni d a i) s = .next (s.doneX d (if (s.x a).toNat < (i.signExtend 64).toNat then 1 else 0)) ∧
   exec (.lui d i) s = .next (s.doneX d (BitVec.ofNat 64 (i.toNat * 2 ^ 16))) ∧
   exec (.slli d a n) s = .next (s.doneX d (s.x a <<< n.toNat)) ∧
   exec (.srli d a n) s = .next (s.doneX d (s.x a >>> n.toNat)) ∧
   exec (.srai d a n) s = .next (s.doneX d ((s.x a).sshiftRight n.toNat)) ∧
   exec (.rori d a n) s = .next (s.doneX d ((s.x a).rotateRight n.toNat)))

/-- R108: a word form works on bits [31:0] of its sources, and writes the 32-bit result sign-extended; the natural
quotients and remainders too.

R111: products of 64 bits and quotients truncated toward zero; division by zero gives all ones and the remainder
the dividend; the most negative number divided by -1 gives itself, remainder 0. None of them traps, and the function
codes above them are reserved. -/
def Obligations.WordAndDivideFormsComplete : Prop :=
  (∀ (d a b : BitVec 5) (n : BitVec 5) (s : State),
   let lo (r : BitVec 5) : BitVec 32 := (s.x r).truncate 32
   let sh := (s.x b).toNat % 32
   exec (.addw d a b) s = .next (s.doneX d ((lo a + lo b).signExtend 64)) ∧
   exec (.subw d a b) s = .next (s.doneX d ((lo a - lo b).signExtend 64)) ∧
   exec (.sllw d a b) s = .next (s.doneX d ((lo a <<< sh).signExtend 64)) ∧
   exec (.srlw d a b) s = .next (s.doneX d ((lo a >>> sh).signExtend 64)) ∧
   exec (.sraw d a b) s = .next (s.doneX d (((lo a).sshiftRight sh).signExtend 64)) ∧
   exec (.slliw d a n) s = .next (s.doneX d ((lo a <<< n.toNat).signExtend 64)) ∧
   exec (.srliw d a n) s = .next (s.doneX d ((lo a >>> n.toNat).signExtend 64)) ∧
   exec (.sraiw d a n) s = .next (s.doneX d (((lo a).sshiftRight n.toNat).signExtend 64)) ∧
   exec (.mulw d a b) s = .next (s.doneX d ((lo a * lo b).signExtend 64)) ∧
   exec (.divw d a b) s = .next (s.doneX d (((if lo b = 0 then BitVec.allOnes 32 else (lo a).sdiv (lo b))).signExtend 64)) ∧
   exec (.divnw d a b) s = .next (s.doneX d (((if lo b = 0 then BitVec.allOnes 32 else (lo a).udiv (lo b))).signExtend 64)) ∧
   exec (.remw d a b) s = .next (s.doneX d (((if lo b = 0 then lo a else (lo a).srem (lo b))).signExtend 64)) ∧
   exec (.remnw d a b) s = .next (s.doneX d (((if lo b = 0 then lo a else (lo a).umod (lo b))).signExtend 64))) ∧
  (∀ (d a b : BitVec 5) (s : State),
   let sa := (s.x a).toInt
   let sb := (s.x b).toInt
   let na : Nat := (s.x a).toNat
   let nb : Nat := (s.x b).toNat
   exec (.mul d a b) s = .next (s.doneX d (s.x a * s.x b)) ∧
   exec (.mulh d a b) s = .next (s.doneX d (BitVec.ofInt 64 (sa * sb / 2 ^ 64))) ∧
   exec (.mulhn d a b) s = .next (s.doneX d (BitVec.ofNat 64 (na * nb / 2 ^ 64))) ∧
   exec (.mulhsn d a b) s = .next (s.doneX d (BitVec.ofInt 64 (sa * nb / 2 ^ 64))) ∧
   exec (.div d a b) s = .next (s.doneX d (if s.x b = 0 then BitVec.allOnes 64 else BitVec.ofInt 64 (sa.tdiv sb))) ∧
   exec (.divn d a b) s = .next (s.doneX d (if s.x b = 0 then BitVec.allOnes 64 else BitVec.ofNat 64 (na / nb))) ∧
   exec (.rem d a b) s = .next (s.doneX d (if s.x b = 0 then s.x a else BitVec.ofInt 64 (sa.tmod sb))) ∧
   exec (.remn d a b) s = .next (s.doneX d (if s.x b = 0 then s.x a else BitVec.ofNat 64 (na % nb))) ∧
   ∀ w v : Nat, w / 2 ^ 26 = 0x0A → 0x0D ≤ w % 2 ^ 8 → decodeWord w v = .error .reservedFn)

/-- R120: the long forms write X[d], and PC advances past both words.

R126: setvl takes the smaller of X[a] and 128 for dwords, 256 else; it writes X[d] and VL, and nothing else. -/
def Obligations.ConstantsAndVectorLengthComplete : Prop :=
  (∀ (d : BitVec 5) (i : BitVec 32) (s : State),
   exec (.lim d i) s = .next ((s.setX d (i.signExtend 64)).jumpTo (s.h.pc + 8)) ∧
   exec (.lea d i) s = .next ((s.setX d (s.h.pc + i.signExtend 64)).jumpTo (s.h.pc + 8))) ∧
  (∀ (d a : BitVec 5) (e : BitVec 3) (s : State),
   let n : Nat := min (s.x a).toNat (if e = 3 then 128 else 256)
   let t := s.doneX d (BitVec.ofNat 64 n)
   exec (.setvl d a e) s = .next { t with h := { t.h with vl := BitVec.ofNat 64 n } })

/-- R148: OP 0x38 with fn 5 and csr 0 is setml; in every state, at every privilege and whoever owns the accumulators, it
takes a length of 1 to 32 from each half of X[a], and writes X[d], MVL and MVC, and nothing else; it needs no
privilege and no accumulator. A word of it with a csr field that is not 0 is no instruction, and a step that fetches one
takes ILLEGAL_INSN with the word in EVAL (that the next core's hart is looked at afterwards is the model's order, log
entry 23). -/
def Obligations.MatrixLengthsAreSet : Prop :=
  (∀ (d a : BitVec 5) (s : State),
    let r : Nat := min (max ((s.x a).toNat % 2 ^ 32) 1) 32
    let c : Nat := min (max ((s.x a).toNat / 2 ^ 32) 1) 32
    let t := s.doneX d (BitVec.ofNat 64 (r + c * 2 ^ 32))
    exec (.setml d a) s = .next { t with h := { t.h with mvl := BitVec.ofNat 64 r, mvc := BitVec.ofNat 64 c } }) ∧
  (∀ d a : BitVec 5, decodeWord (0xE0000005 + d.toNat * 2 ^ 21 + a.toNat * 2 ^ 16) 0 = .ok (.setml d a)) ∧
  decodeWord 0xE0A60005 0 = .ok (.setml 5 6) ∧
  (∀ w v : Nat, w / 2 ^ 26 = 0x38 → w % 16 = 5 → w / 2 ^ 4 % 2 ^ 12 ≠ 0 → decodeWord w v = .error .unusedField) ∧
  (∀ (s t : State) (w v : Nat), s.agenda = [] → s.event = none → s.instantBefore s.edge = none →
    let e := (s.advance s.edge).atEdge
    e.issues → fetchPair e = .ok ((w, v), t) → t.operandsReady w = true →
    w / 2 ^ 26 = 0x38 → w % 16 = 5 → w / 2 ^ 4 % 2 ^ 12 ≠ 0 →
    step s = mapNext (fun u => u.focus u.nextCore) (takeTrap { cause := 0x01, value := BitVec.ofNat 64 w } t))

/-- R28: X[0] reads zero and discards writes; a write of another x register is what it reads afterwards, and every other
register reads as before. -/
def Obligations.RegisterZeroIsHardwired : Prop := ∀ (s : State) (d r : BitVec 5) (v : Dword),
  (s.setX d v).x 0 = 0 ∧ s.setX 0 v = s ∧ (d ≠ 0 → (s.setX d v).x d = v) ∧ (r ≠ d → (s.setX d v).x r = s.x r)

/-! ### Control flow -/

/-- R321: a conditional branch goes to PC + 4 times the displacement where its condition holds, else to the next word;
it completes in every state and changes only PC and INSTRET; it writes no register and raises no flag. Every word of the six
opcodes is a branch, for every field value is valid.

R322, R323: jal, call.far and jalr write the address of the next instruction to X[d] and go to their targets; a jalr
whose target is off a word boundary takes FETCH_MISALIGNED at the jalr, with X[d] as it was. -/
def Obligations.ControlFlowCompletes : Prop :=
  (∀ (a b : BitVec 5) (i : BitVec 16) (s : State),
   let goes (c : Prop) [Decidable c] : State :=
     s.jumpTo (if c then s.h.pc + BitVec.ofInt 64 (4 * i.toInt) else s.h.pc + 4)
   exec (.beq a b i) s = .next (goes (s.x a = s.x b)) ∧
   exec (.bne a b i) s = .next (goes (s.x a ≠ s.x b)) ∧
   exec (.blt a b i) s = .next (goes ((s.x a).toInt < (s.x b).toInt)) ∧
   exec (.bge a b i) s = .next (goes ((s.x b).toInt ≤ (s.x a).toInt)) ∧
   exec (.bltn a b i) s = .next (goes ((s.x a).toNat < (s.x b).toNat)) ∧
   exec (.bgen a b i) s = .next (goes ((s.x b).toNat ≤ (s.x a).toNat)) ∧
   (∀ (c : Prop) [Decidable c], let t := (goes c).h
     t.x = s.h.x ∧ t.v = s.h.v ∧ t.m = s.h.m ∧ t.cc = s.h.cc ∧ t.fcsr = s.h.fcsr) ∧
   let word (op : Nat) : Nat := op * 2 ^ 26 + a.toNat * 2 ^ 21 + b.toNat * 2 ^ 16 + i.toNat
   decodeWord (word 0x18) 0 = .ok (.beq a b i) ∧ decodeWord (word 0x19) 0 = .ok (.bne a b i) ∧
   decodeWord (word 0x1A) 0 = .ok (.blt a b i) ∧ decodeWord (word 0x1B) 0 = .ok (.bge a b i) ∧
   decodeWord (word 0x1C) 0 = .ok (.bltn a b i) ∧ decodeWord (word 0x1D) 0 = .ok (.bgen a b i)) ∧
  (∀ (d a : BitVec 5) (i : BitVec 16) (j : BitVec 21) (k : BitVec 32) (s : State),
   let t := s.x a + i.signExtend 64
   exec (.jal d j) s = .next ((s.setX d (s.h.pc + 4)).jumpTo (s.h.pc + BitVec.ofInt 64 (4 * j.toInt))) ∧
   exec (.callFar d k) s = .next ((s.setX d (s.h.pc + 8)).jumpTo (s.h.pc + k.signExtend 64)) ∧
   (t.toNat % 4 = 0 → exec (.jalr d a i) s = .next ((s.setX d (s.h.pc + 4)).jumpTo t)) ∧
   (t.toNat % 4 ≠ 0 → exec (.jalr d a i) s = takeTrap { cause := 0x03, value := t } s))

/-! ### Floating point -/

/-- R112 to R114, R117, R119: an instruction that raises no enabled flag sets its flags in FCSR and writes its result to
X[d], the upper bits 0; it changes nothing else.

R115, R116, R118: minimum, maximum, the sign operations and fkind complete in every state and raise no flag. The
sign operations keep the other bits of A and make a NaN the canonical one. A NaN beside a number is passed over, equal
operands give themselves, and -0 orders below +0. KIND, zero, subnormal, normal, infinity and NaN by their magnitudes, is in
[2:0] and SIGN in [3]. -/
def Obligations.ScalarFloatCompletes : Prop :=
  (∀ (d a b : BitVec 5) (t : BitVec 1) (s : State),
   let f := scalarFmt t.toNat
   let v (r : BitVec 5) : Machine.Num := f.value ((s.x r).toNat % 2 ^ f.width)
   let ends (i : Instr) (r : Nat × Flags) : Prop := s.quiet r.2 → exec i s = .next (s.doneF d r.1 r.2)
   let nan := (v a).isNan || (v b).isNan
   ends (.fadd d a b t) (f.sum s.rm s.sat [v a, v b]) ∧
   ends (.fsub d a b t) (f.sum s.rm s.sat [v a, (v b).neg]) ∧
   ends (.fmul d a b t) (f.prod s.rm s.sat (v a) (v b)) ∧
   ends (.fdiv d a b t) (f.quot s.rm s.sat (v a) (v b)) ∧
   ends (.fsqrt d a t) (f.root s.rm s.sat (v a)) ∧
   ends (.fmac d a b t) (f.fused s.rm s.sat (v d) (v a) (v b) false) ∧
   ends (.fmsc d a b t) (f.fused s.rm s.sat (v d) (v a) (v b) true) ∧
   ends (.feq d a b t) (bitOf (!nan && (v a).eq (v b)), 0) ∧
   ends (.flt d a b t) (bitOf (!nan && (v a).lt (v b)), if nan then flagNV else 0) ∧
   ends (.fle d a b t) (bitOf (!nan && ((v a).lt (v b) || (v a).eq (v b))), if nan then flagNV else 0) ∧
   ends (.fcvtF64F32 d a) (Fmt.f32.convert .f64 s.rm s.sat ((s.x a).toNat % 2 ^ 32)) ∧
   ends (.fcvtF32F64 d a) (Fmt.f64.convert .f32 s.rm s.sat (s.x a).toNat) ∧
   ends (.fcvtF32I64 d a) (Fmt.f32.ofInt s.rm s.sat (s.x a).toInt) ∧
   ends (.fcvtF32N64 d a) (Fmt.f32.ofInt s.rm s.sat ((s.x a).toNat : Int)) ∧
   ends (.fcvtF64I64 d a) (Fmt.f64.ofInt s.rm s.sat (s.x a).toInt) ∧
   ends (.fcvtF64N64 d a) (Fmt.f64.ofInt s.rm s.sat ((s.x a).toNat : Int)) ∧
   ends (.fcvtI64F32 d a) (toInt64 .f32 false s.rm (s.x a)) ∧
   ends (.fcvtN64F32 d a) (toInt64 .f32 true s.rm (s.x a)) ∧
   ends (.fcvtI64F64 d a) (toInt64 .f64 false s.rm (s.x a)) ∧
   ends (.fcvtN64F64 d a) (toInt64 .f64 true s.rm (s.x a)) ∧
   ends (.fcvtF32Bf16 d a) (Fmt.bf16.convert .f32 s.rm s.sat ((s.x a).toNat % 2 ^ 16)) ∧
   ends (.fcvtBf16F32 d a) (Fmt.f32.convert .bf16 s.rm s.sat ((s.x a).toNat % 2 ^ 32)) ∧
   ends (.fcvtF32F16 d a) (Fmt.f16.convert .f32 s.rm s.sat ((s.x a).toNat % 2 ^ 16)) ∧
   ends (.fcvtF16F32 d a) (Fmt.f32.convert .f16 s.rm s.sat ((s.x a).toNat % 2 ^ 32))) ∧
  (∀ (d a b : BitVec 5) (t : BitVec 1) (s : State),
   let w := if t = 0 then 32 else 64
   let f := scalarFmt t.toNat
   let x := (s.x a).toNat % 2 ^ w
   let y := (s.x b).toNat % 2 ^ w
   let top := 2 ^ (w - 1)
   let done (i : Instr) (v : Nat) : Prop := exec i s = .next (s.doneX d (BitVec.ofNat 64 v))
   let signed (v : Nat) : Nat := if (f.value x).isNan then f.canonical else v
   done (.fabs d a t) (signed (x % top)) ∧
   done (.fneg d a t) (signed (x % top + (if x < top then top else 0))) ∧
   done (.fsgmv d a b t) (signed (x % top + (if y < top then 0 else top))) ∧
   (∃ v, done (.fmin d a b t) v ∧
     ((f.value x).isNan = true → (f.value y).isNan = false → v = y) ∧
     ((f.value y).isNan = true → (f.value x).isNan = false → v = x) ∧
     ((f.value x).isNan = true → (f.value y).isNan = true → v = f.canonical) ∧
     ((f.value x).lt (f.value y) = true → v = x) ∧ ((f.value y).lt (f.value x) = true → v = y) ∧
     ((f.value x).isNan = false → x = y → v = x) ∧
     (x % top = 0 → y % top = 0 → v = if top ≤ x ∨ top ≤ y then top else 0)) ∧
   (∃ v, done (.fmax d a b t) v ∧
     ((f.value x).isNan = true → (f.value y).isNan = false → v = y) ∧
     ((f.value y).isNan = true → (f.value x).isNan = false → v = x) ∧
     ((f.value x).isNan = true → (f.value y).isNan = true → v = f.canonical) ∧
     ((f.value x).lt (f.value y) = true → v = y) ∧ ((f.value y).lt (f.value x) = true → v = x) ∧
     ((f.value x).isNan = false → x = y → v = x) ∧
     (x % top = 0 → y % top = 0 → v = if top ≤ x ∧ top ≤ y then top else 0)) ∧
   (let inf := if t = 0 then 0x7F800000 else 0x7FF0000000000000
    let normal := if t = 0 then 0x00800000 else 0x0010000000000000
    let mag := x % top
    let kind := if mag = 0 then 0 else if mag < normal then 1 else if mag < inf then 2 else if mag = inf then 3 else 4
    done (.fkind d a t) (kind + (if x < top then 0 else 8))))

/-- R113, R117, R119: where an arithmetic instruction, a comparison or a conversion raises an enabled flag, all its flags are
set, and FP_ENABLED is taken with the lowest code among the enabled ones; X[d] is not written.

R124: where an active element of a flag-capable instruction raises an enabled flag, the elements below it are written
and their flags set, its own flags are set and it is not written, VSTART becomes its index, and FP_ENABLED is taken with
the lowest enabled code: the arithmetic, the special functions, the comparisons, the conversions, the mixed-width
products and the scans. vredsum sets every flag of its tree and writes nothing. The instruction has been counted in
INSTRET, for it has entered the VDQ (R40). vcvt.sr has set NDET for a generator that software has not seeded, and has not
moved it. -/
def Obligations.EnabledFlagsTrap : Prop :=
  (∀ (d a b : BitVec 5) (t : BitVec 1) (s : State),
   let f := scalarFmt t.toNat
   let v (r : BitVec 5) : Machine.Num := f.value ((s.x r).toNat % 2 ^ f.width)
   let nan : Flags := if (v a).isNan || (v b).isNan then flagNV else 0
   let traps (i : Instr) (fl : Flags) : Prop := ¬s.quiet fl → FpTrap (exec i s) (fl &&& s.fte) (s.setFlags fl)
   s.h.xSettled = true →
   traps (.fadd d a b t) (f.sum s.rm s.sat [v a, v b]).2 ∧
   traps (.fsub d a b t) (f.sum s.rm s.sat [v a, (v b).neg]).2 ∧
   traps (.fmul d a b t) (f.prod s.rm s.sat (v a) (v b)).2 ∧
   traps (.fdiv d a b t) (f.quot s.rm s.sat (v a) (v b)).2 ∧
   traps (.fsqrt d a t) (f.root s.rm s.sat (v a)).2 ∧
   traps (.fmac d a b t) (f.fused s.rm s.sat (v d) (v a) (v b) false).2 ∧
   traps (.fmsc d a b t) (f.fused s.rm s.sat (v d) (v a) (v b) true).2 ∧
   traps (.flt d a b t) nan ∧ traps (.fle d a b t) nan ∧
   traps (.fcvtF32F64 d a) (Fmt.f64.convert .f32 s.rm s.sat (s.x a).toNat).2 ∧
   traps (.fcvtF32I64 d a) (Fmt.f32.ofInt s.rm s.sat (s.x a).toInt).2 ∧
   traps (.fcvtF32N64 d a) (Fmt.f32.ofInt s.rm s.sat ((s.x a).toNat : Int)).2 ∧
   traps (.fcvtF64I64 d a) (Fmt.f64.ofInt s.rm s.sat (s.x a).toInt).2 ∧
   traps (.fcvtF64N64 d a) (Fmt.f64.ofInt s.rm s.sat ((s.x a).toNat : Int)).2 ∧
   traps (.fcvtI64F32 d a) (toInt64 .f32 false s.rm (s.x a)).2 ∧
   traps (.fcvtN64F32 d a) (toInt64 .f32 true s.rm (s.x a)).2 ∧
   traps (.fcvtI64F64 d a) (toInt64 .f64 false s.rm (s.x a)).2 ∧
   traps (.fcvtN64F64 d a) (toInt64 .f64 true s.rm (s.x a)).2 ∧
   traps (.fcvtBf16F32 d a) (Fmt.f32.convert .bf16 s.rm s.sat ((s.x a).toNat % 2 ^ 32)).2 ∧
   traps (.fcvtF16F32 d a) (Fmt.f32.convert .f16 s.rm s.sat ((s.x a).toNat % 2 ^ 32)).2) ∧
  (∀ (d a b : BitVec 5) (p e t : BitVec 3) (c : BitVec 2) (s : State),
   let w := widthOf e
   let f := fmtOf e.toNat
   let pk := packedFmt c.toNat
   let es := s.active p
   let x := s.elem a.toNat w
   let y := s.elem b.toNat w
   let z (i : Nat) : Machine.Num := f.value (s.elem d.toNat w i)
   let v (i : Nat) : Machine.Num := f.value (x i)
   let u (i : Nat) : Machine.Num := f.value (y i)
   let k : Machine.Num := f.value ((s.x b).toNat % 2 ^ w)
   let m := s.rm
   let nan (i : Nat) : Flags := if (v i).isNan || (u i).isNan then flagNV else 0
   let two (i : Instr) (g : Nat → Nat × Flags) : Prop := s.Groups d w [(a, w), (b, w)] → FloatTrap s (exec i s) d.toNat w es g
   let one (i : Instr) (g : Nat → Nat × Flags) : Prop := s.Groups d w [(a, w)] → FloatTrap s (exec i s) d.toNat w es g
   let test (i : Instr) (g : Nat → Bool) : Prop :=
     s.VecReady (fun vl => groupsOk vl none [(a, w), (b, w)]) → MaskTrap s (exec i s) d.toNat es g nan
   let before := (s.activeFrom 0 p).filter fun i => decide (i < s.vstartN)
   let rs (heads : Nat → Bool) : List ElemResult := scanFrom heads es.contains x (sumOf e s) s.vstartN
     (List.range s.vlen) (before.getLast?.map fun i => s.elem d.toNat w i) false
   let scan (i : Instr) (rs : List ElemResult) : Prop :=
     one i fun i => ((rs.find? fun r => r.e == i).map fun r => (r.value, r.flags)).getD (0, 0)
   let leaf (i : Nat) : Option Flagged :=
     if i < s.vlen ∧ (s.mreg p.toNat).getLsbD i = true then some (x i, 0) else none
   let tree := (treeRoot (sumOf e s) 8 ((List.range 256).map leaf)).getD (0, 0)
   let seeded := bit s.h.rngctr 63 = true
   s.h.xSettled = true →
   two (.vfadd d a b p e) (fun i => f.sum m s.sat [v i, u i]) ∧
   two (.vfsub d a b p e) (fun i => f.sum m s.sat [v i, (u i).neg]) ∧
   two (.vfmul d a b p e) (fun i => f.prod m s.sat (v i) (u i)) ∧
   two (.vfdiv d a b p e) (fun i => f.quot m s.sat (v i) (u i)) ∧
   one (.vfsqrt d a p e) (fun i => f.root m s.sat (v i)) ∧
   two (.vfmac d a b p e) (fun i => f.fused m s.sat (z i) (v i) (u i) false) ∧
   two (.vfmsc d a b p e) (fun i => f.fused m s.sat (z i) (v i) (u i) true) ∧
   two (.vfnmac d a b p e) (fun i => f.fused m s.sat (z i).neg (v i) (u i) true) ∧
   one (.vfrecip d a p e) (fun i => f.quot m s.sat (.fin false 1 0) (v i)) ∧
   one (.vfrsqrt d a p e) (fun i => f.rsqrt m s.sat (v i)) ∧
   one (.vfexp2 d a p e) (fun i => f.exp2 m s.sat (v i)) ∧
   one (.vflog2 d a p e) (fun i => f.log2 m s.sat (v i)) ∧
   one (.vfaddVx d a b p e) (fun i => f.sum m s.sat [v i, k]) ∧
   one (.vfmulVx d a b p e) (fun i => f.prod m s.sat (v i) k) ∧
   one (.vfmacVx d a b p e) (fun i => f.fused m s.sat (z i) (v i) k false) ∧
   test (.vfclt d a b p e) (fun i => (v i).lt (u i)) ∧
   test (.vfcle d a b p e) (fun i => (v i).lt (u i) || (v i).eq (u i)) ∧
   (s.Groups d w [(a, widthOf t)] → FloatTrap s (exec (.vcvt d a p e t) s) d.toNat w es
     (fun i => convertElem e t s.rm s.sat (s.elem a.toNat (widthOf t) i))) ∧
   (s.Groups d w [(a, widthOf t)] → (seeded ∨ bit s.h.fcsr 20 = false) →
     FloatTrap (if seeded then s else s.ndet) (exec (.vcvtSr d a p e t) s) d.toNat w es
       (fun i => f.stochastic s.sat (s.draw i) ((fmtOf t.toNat).value (s.elem a.toNat (widthOf t) i)))) ∧
   (s.Groups d f.width [(a, pk.width)] → FloatTrap s (exec (.vcvtmWiden d a p e c) s) d.toNat f.width es
     (fun i => pk.convert f s.rm s.sat (s.elem a.toNat pk.width i))) ∧
   (s.Groups d pk.width [(a, f.width)] → FloatTrap s (exec (.vcvtmNarrow d a p e c) s) d.toNat pk.width es
     (fun i => f.convert pk s.rm s.sat (s.elem a.toNat f.width i))) ∧
   (s.Groups d w [(a, w), (b, widthOf t)] → 4 ≤ e.toNat → FloatTrap s (exec (.vwmul d a b p e t) s) d.toNat w es
     (fun i => f.prod s.rm s.sat (v i) ((fmtOf t.toNat).value (s.elem b.toNat (widthOf t) i)))) ∧
   (s.VecReady (fun vl => oneOk vl d [(a, w)]) → ¬s.quiet tree.2 →
     FpTrap (exec (.vredsum d a p e) s) (tree.2 &&& s.fte)
       (({ s with h := { s.h with vstart := 0, instret := s.h.instret + 1 } } : State).setFlags tree.2)) ∧
   scan (.vscan d a p e) (rs fun _ => false) ∧
   scan (.vsegsum d a b p e) (rs fun i => (s.mreg b.toNat).getLsbD i))

/-! ### Scalar memory -/

/-- R216, R227: ld, ldx and ld.acq complete wherever their bytes can be read, with the bytes in X[d]: sign-extended for the
codes of .b, .h and .w, else zero-extended. The address is X[a] plus the scaled offset, X[a] + X[b], or X[a]. In the
hart's own private scratchpad, with nothing in their way, they complete so in the same step. A load whose home lies
elsewhere retires with its READ messages sent, and writes no register yet.

That a load within the die gets its value in the step that issues it is the model's choice (log entry 21).

R216: a load outside the scratchpad windows changes no register, no accumulator and no byte of memory where no
migration entry pulls lines. -/
def Obligations.ScalarLoadsComplete : Prop :=
  (∀ (d a b sc : BitVec 5) (o : BitVec 11) (z : BitVec 3) (y h : BitVec 2) (s t : State) (bs : List Byte),
   let n := 2 ^ (z.toNat % 4)
   let value (bs : List Byte) : Dword :=
     if z.toNat < 4 then BitVec.ofInt 64 (signExtend (natOf bs) (8 * n)) else BitVec.ofNat 64 (natOf bs)
   let va : Dword := s.x a + o.signExtend 64 * BitVec.ofNat 64 n
   let vx : Dword := s.x a + s.x b
   let own (va : Dword) (n : Nat) : List Byte := s.getBytes (s.ownLoc va.toNat) n
   (s.h.placing = false →
     (s.Own va.toNat n →
       exec (.ld d a o z h) s = .next ((s.observe none (s.ownLoc va.toNat) n).doneX d (value (own va n)))) ∧
     (s.Own vx.toNat n →
       exec (.ldx d a b z) s = .next ((s.observe none (s.ownLoc vx.toNat) n).doneX d (value (own vx n)))) ∧
     ((s.x a).toNat % 2 ^ y.toNat = 0 → s.Own (s.x a).toNat (2 ^ y.toNat) →
       exec (.ldAcq d a sc y) s = .next ((s.observe (some sc.toNat) (s.ownLoc (s.x a).toNat) (2 ^ y.toNat)).doneX d
         (BitVec.ofNat 64 (natOf (own (s.x a) (2 ^ y.toNat))))))) ∧
   (LoadsHere s none va n bs t → exec (.ld d a o z h) s = .next (t.doneX d (value bs))) ∧
   (LoadsHere s none vx n bs t → exec (.ldx d a b z) s = .next (t.doneX d (value bs))) ∧
   ((s.x a).toNat % 2 ^ y.toNat = 0 → LoadsHere s (some sc.toNat) (s.x a) (2 ^ y.toNat) bs t →
     exec (.ldAcq d a sc y) s = .next (t.doneX d (BitVec.ofNat 64 (natOf bs)))) ∧
   (∀ ts u, s.h.placing = false → ts ≠ [] → Ends (leavingLoad false va va.toNat n) s ts u →
     ∃ w, exec (.ld d a o z h) s = .next w ∧ w.h.x = u.h.x ∧ w.mem = u.mem ∧ w.h.pc = u.h.pc + 4 ∧
       w.h.instret = u.h.instret + 1 ∧ w.pkg.net.length = u.pkg.net.length + ts.length ∧
       w.h.pend.length = u.h.pend.length + ts.length)) ∧
  (∀ (s t : State) (scope : Option Nat) (va : Dword) (n : Nat) (bs : List Byte),
   0 < n → (∀ i < n, windowOf s.h (s.gang? s.h.gang) (va.toNat + i) = .outside) → s.noPulls → Reads s scope va n bs t →
   SameRegisters t.h s.h ∧ t.mem = s.mem ∧ t.pkg.pendMem = s.pkg.pendMem ∧ t.core.tiles = s.core.tiles ∧
     t.core.acclive = s.core.acclive ∧ t.core.accown = s.core.accown ∧ t.core.accen = s.core.accen)

/-- R49, R388, R216: the bytes of the hart's own private scratchpad can be read where nothing stands in the way: they are
the bytes of the core's array, and the read changes no register and no byte.

R201, R230: an atomic in the hart's own private scratchpad reads the old value and writes the new one to the same
bytes; no other byte changes.

R49, R218, R388: a plain store that leaves the buffer for the hart's own private scratchpad writes its bytes there,
and no other byte of memory. -/
def Obligations.OwnScratchpadIsAccessed : Prop :=
  (∀ (s : State) (va : Dword) (n : Nat),
   let loc := s.ownLoc va.toNat
   0 < n → s.Own va.toNat n →
   Reads s none va n (s.getBytes loc n) (s.observe none loc n) ∧ Ends (leavingLoad false va va.toNat n) s [] s ∧
   SameRegisters (s.observe none loc n).h s.h ∧ (s.observe none loc n).mem = s.mem) ∧
  (∀ (s : State) (o : AtomicOp) (va : Dword) (v e : Nat),
   let n := o.width / 8
   let loc := s.ownLoc va.toNat
   o.width = 32 ∨ o.width = 64 → va.toNat % n = 0 → s.OwnWrite va.toNat n → Memory.wf s.mem = true →
   ∃ t, Ends (atomic o va va.toNat v e) s (natOf (s.getBytes loc n), (o.apply (natOf (s.getBytes loc n)) v e).2) t ∧
     t.getBytes loc n = bytesOf n (o.apply (natOf (s.getBytes loc n)) v e).1 ∧
     (∀ l, l < loc ∨ loc + n ≤ l → Memory.get t.mem l = Memory.get s.mem l) ∧ SameRegisters t.h s.h) ∧
  (∀ (s : State) (e : SbEntry),
   let n := e.size
   let off := e.va.toNat - windowBase
   let loc := privLoc s.core.id off
   e.kind = .plain → 0 < n → e.va.toNat % 8 + n ≤ 8 → windowBase ≤ e.va.toNat →
   e.va.toNat + n ≤ windowBase + privateSize → tableGet s.core.tags (off / 4096) = some s.h.tag →
   s.pkg.held? loc n = false → s.mine s.h.ident = [] → e.rels = [] → s.h.ahead = false →
   s.h.pubs = Vector.replicate 16 none → s.here → Memory.wf s.mem = true →
   ∃ t, Ends (drainEntry e) s () t ∧ t.getBytes loc n = bytesOf n e.data.toNat ∧
     (∀ l, l < loc ∨ loc + n ≤ l → Memory.get t.mem l = Memory.get s.mem l) ∧ SameRegisters t.h s.h ∧ t.h.sb = s.h.sb)

/-- R216, R218, R221, R227, R228: st, stx, st.rel and st.at complete into the store buffer wherever the buffer has room,
no accst or accsave stands before them, and a release or timed store is aligned: the entry holds its address, size, data and kind. Memory, registers and flags stay as they are. -/
def Obligations.ScalarStoresComplete : Prop :=
  ∀ (d a b sc : BitVec 5) (o : BitVec 11) (z : BitVec 2) (h : BitVec 2) (k : BitVec 4) (s : State),
  let n := 2 ^ z.toNat
  let aligned := (s.x a).toNat % n = 0
  s.h.sb.length < 32 → s.h.placing = false →
  exec (.st d a o z h) s = .next (s.pushStore (s.x a + o.signExtend 64 * BitVec.ofNat 64 n) n (s.x d) .plain).retire ∧
  exec (.stx d a b z) s = .next (s.pushStore (s.x a + s.x b) n (s.x d) .plain).retire ∧
  (aligned → exec (.stRel d a sc z) s = .next (s.pushStore (s.x a) n (s.x d) (.release sc.toNat)).retire) ∧
  (aligned → exec (.stAt d a b k z) s = .next (s.pushStore (s.x a) n (s.x d)
    (.timed k.toNat (s.x b).toNat (guardOf s.h.tguard k.toNat))).retire) ∧
  (∀ kind, let t := s.pushStore (s.x a) n (s.x d) kind
    SameRegisters t.h s.h ∧ t.mem = s.mem ∧ t.pkg = s.pkg ∧ t.core = s.core ∧
    ∃ e : SbEntry, t.h.sb = s.h.sb ++ [e] ∧ e.va = s.x a ∧ e.size = n ∧ e.data = s.x d ∧ e.kind = kind)

/-- R199, R236 to R238, R252: fence.acq, fence.rel, fence.ar, fence.sc, sdrain and rfence complete, each once its own
condition holds: an empty store buffer for sdrain; performed loads, atomics and reductions, and the misses of earlier timed
stores shown, for an acq fence; everything earlier acknowledged for rel, ar and sc; every reduction applied for rfence. None writes a register
or a byte of memory.

What a fence acquires and releases is kept as the model's clocks: an acquire takes up what the hart's reads have met, a
release arms the next store with its scope, beside those of the fences since the last store, after the acquire for ar and
sc (log entry 29). -/
def Obligations.FencesComplete : Prop := ∀ (sc : BitVec 5) (s : State),
  let acq : State := s.acquireOf sc.toNat s.h.observed
  let armed (t : State) : State := { t with h := { t.h with armed := setInsert t.h.armed sc.toNat } }
  (s.h.sb = [] → s.h.placing = false → exec .sdrain s = .next s.retire) ∧
  (s.h.sb = [] → s.h.placing = false → s.h.pend = [] → (∀ m ∈ s.mine s.h.ident, (∀ es, m.body ≠ .reduce es) ∧ ∀ t, m.body ≠ .timed t) →
    (∀ t ∈ s.pkg.waiting, t.owner ≠ s.h.ident) → (∀ r ∈ s.pkg.resps, r.owner ≠ s.h.ident) →
    exec (.fenceAcq sc) s = .next acq.retire) ∧
  (s.settled → s.batchesClosed → s.h.pend = [] →
    exec (.fenceRel sc) s = .next (armed s).retire ∧ exec (.fenceAr sc) s = .next (armed acq).retire ∧
    exec (.fenceSc sc) s = .next (armed acq).retire) ∧
  ((∀ m ∈ s.mine s.h.ident, (∀ es, m.body ≠ .reduce es) ∧ ∀ t, m.body ≠ .timed t) →
    (∀ t ∈ s.pkg.waiting ++ s.pkg.held, t.owner ≠ s.h.ident) → (∀ r ∈ s.pkg.resps, r.owner ≠ s.h.ident) →
    exec (.rfence sc) s = .next (s.releaseReductions sc.toNat).retire) ∧
  SameRegisters acq.h s.h ∧ acq.mem = s.mem ∧ SameRegisters (s.releaseReductions sc.toNat).h s.h ∧
  (s.releaseReductions sc.toNat).mem = s.mem

/-- R228: ld.nb completes by sending its request to its home: its destination is owed a value, and nothing else of the
hart changes but what the translation leaves. It does so, once no accst or accsave stands before it (R221), for every
aligned address of the hart's own private scratchpad, and wherever its address resolves. -/
def Obligations.TimedLoadCompletes : Prop := ∀ (d a b : BitVec 5) (y : BitVec 2) (s : State),
  let n := 2 ^ y.toNat
  s.h.placing = false →
  ((s.x a).toNat % n = 0 → s.Own (s.x a).toNat n →
    ∃ m op, exec (.ldNb d a b y) s = .next ({ s with
        h := { s.h with pend := s.h.pend ++ [(s.pkg.tags, .x d.toNat)] }
        pkg := { s.pkg with net := s.pkg.net ++ [m], tags := s.pkg.tags + 1 } } : State).retire ∧
      m.owner = s.h.ident ∧ m.body = .timed op ∧ op.time = (s.x b).toNat ∧ op.key = s.ownLoc (s.x a).toNat ∧
      op.body = .load n (.x d.toNat) s.pkg.tags) ∧
  ∀ (u : State) (t : Target),
  (s.x a).toNat % n = 0 → (∀ e ∈ s.h.sb, e.isTimed = true ∨ e.overlaps (s.x a).toNat n = false) →
  Ends (resolve s.who .load 0x06 (s.x a) (s.x a).toNat) s t u →
  ¬(2 ^ 63 ≤ t.loc ∧ t.loc < 2 ^ 64) → u.clearOf u.h.ident t.loc n = true →
  ∃ w m, exec (.ldNb d a b y) s = .next w ∧ w.pkg.net = u.pkg.net ++ [m] ∧
    w.h.pend = u.h.pend ++ [(u.pkg.tags, .x d.toNat)] ∧ w.mem = u.mem ∧ w.h.x = u.h.x ∧ w.h.pc = u.h.pc + 4 ∧
    w.h.instret = u.h.instret + 1 ∧ m.owner = u.h.ident ∧
    ∃ op, m.body = .timed op ∧ op.time = (s.x b).toNat ∧ op.key = t.loc ∧ op.body = .load n (.x d.toNat) u.pkg.tags

/-- R230: every scalar atomic completes: X[d] gets the old value, sign-extended for integers and zero-extended for
floating sums and extremes, which set NDET and their flags. It does so for every aligned word of the hart's own private
scratchpad with nothing in its way, and wherever it can be performed at its home. One whose home lies elsewhere retires
with its message sent. A floating one that raises an enabled flag is performed and retires, and then takes FP_ENABLED with
the lowest enabled code and the next instruction's address in EPC.

That an atomic within the die is performed in the step that issues it is the model's choice (log entry 21).

R230, R231: the operations of atomics on integers, by their numbers, on words of 32 or 64 bits. -/
def Obligations.AtomicsComplete : Prop :=
  (∀ (d a b : BitVec 5) (w : BitVec 1) (s t : State) (old : Nat) (fl : Flags),
   let n := if w = 0 then 32 else 64
   let va := s.x a
   let v := (s.x b).toNat % 2 ^ n
   let e := (s.x d).toNat % 2 ^ n
   let sent (i : Instr) (o : AtomicOp) (s' : State) : Prop :=
     ∀ x u, Ends (resolveAtomic o va va.toNat) s' x u → u.sendsOff x (n / 8) = true →
       (∀ k ∈ u.h.sb, k.overlaps va.toNat (n / 8) = false ∧ atHost x.loc = false) →
       ∃ r m dest, exec i s = .next r ∧ r.h.x = u.h.x ∧ r.h.fcsr = u.h.fcsr ∧ r.mem = u.mem ∧ r.h.pc = u.h.pc + 4 ∧
         r.pkg.net = u.pkg.net ++ [m] ∧ m.body = .atomic o x.loc v e dest u.pkg.tags
   let int (i : Instr) (op : Nat) : Prop :=
     let o := s.atomicOp op w
     (va.toNat % (n / 8) = 0 → s.OwnWrite va.toNat (n / 8) →
       exec i s = .next ((s.ownAtomicDone o va.toNat v e).doneX d
         (BitVec.ofInt 64 (signExtend (natOf (s.getBytes (s.ownLoc va.toNat) (n / 8))) n)))) ∧
     (AtomicHere s o va v e old 0 t → exec i s = .next (t.doneX d (BitVec.ofInt 64 (signExtend old n)))) ∧
     sent i o s
   let float (i : Instr) (op : Nat) : Prop :=
     let o := s.atomicOp op w
     let r := s.ndet.ownAtomic o va.toNat v e
     bit s.h.fcsr 20 = false →
     (va.toNat % (n / 8) = 0 → s.OwnWrite va.toNat (n / 8) → s.quiet r.2 →
       exec i s = .next ((((s.ndet.ownAtomicDone o va.toNat v e).setX d
         (BitVec.ofNat 64 (natOf (s.getBytes (s.ownLoc va.toNat) (n / 8))))).setFlags r.2).retire)) ∧
     (AtomicHere s.ndet o va v e old fl t →
       let done := ((t.setX d (BitVec.ofNat 64 old)).setFlags fl).retire
       (t.quiet fl → exec i s = .next done) ∧
       (¬t.quiet fl → t.h.xSettled = true → ∃ c, LowestFlag (fl &&& t.fte) c ∧
         exec i s = takeTrap { cause := 0x09, value := BitVec.ofNat 64 c, epc := some (t.h.pc + 4) } done)) ∧
     sent i o s.ndet
   s.h.placing = false → s.rowsRead →
   int (.amoswap d a b w) 0 ∧ int (.amoadd d a b w) 1 ∧ int (.amoand d a b w) 2 ∧ int (.amoor d a b w) 3 ∧
   int (.amoxor d a b w) 4 ∧ int (.amomin d a b w) 5 ∧ int (.amomax d a b w) 6 ∧ int (.amominn d a b w) 7 ∧
   int (.amomaxn d a b w) 8 ∧ int (.amocas d a b w) 9 ∧
   float (.amofadd d a b w) 10 ∧ float (.amofmin d a b w) 11 ∧ float (.amofmax d a b w) 12) ∧
  (∀ (w : Nat) (brain : Bool) (rm : Nat) (sat : Bool) (old v e : Nat),
   w = 32 ∨ w = 64 →
   let r (op : Nat) : Nat × Flags := AtomicOp.apply ⟨op, false, w, brain, rm, sat⟩ old v e
   r 0 = (v, 0) ∧ r 1 = ((old + v) % 2 ^ w, 0) ∧ r 2 = (old &&& v, 0) ∧ r 3 = (old ||| v, 0) ∧ r 4 = (old ^^^ v, 0) ∧
   r 5 = (if signExtend old w ≤ signExtend v w then old else v, 0) ∧
   r 6 = (if signExtend v w ≤ signExtend old w then old else v, 0) ∧
   r 7 = (if old ≤ v then old else v, 0) ∧ r 8 = (if v ≤ old then old else v, 0) ∧ r 9 = (if old = e then v else old, 0))

/-- R231, R232: a return-free reduction completes once it has been sent to its home or performed, and an ordered one
once it has been sent; no register changes but FCSR, where a floating one sets NDET and its flags. They do so for every
aligned word of the hart's own private scratchpad with nothing in its way.

That a reduction in the hart's own scratchpads is performed, and its flags set, in the step that issues it is the model's
choice (log entry 21); what it leaves for rfence and for acquires, the model's clocks (log entry 29).

R231, R232: a reduction outside the scratchpads is sent to its home as one message, aligned, where no store of the
buffer overlaps it; an ordered one is held there by its time. -/
def Obligations.ReductionsComplete : Prop :=
  (∀ (d a b : BitVec 5) (w : BitVec 1) (sc : BitVec 4) (s t : State) (fl : Flags),
   let n := if w = 0 then 32 else 64
   let va := s.x a
   let v := (s.x b).toNat % 2 ^ n
   let own (u : State) (i : Instr) (o : AtomicOp) : Prop := va.toNat % (n / 8) = 0 → s.OwnWrite va.toNat (n / 8) →
     exec i s = .next ((u.ownReduceDone o va.toNat v).setFlags (u.ownAtomic o va.toNat v 0).2).retire
   let int (i : Instr) (op : Nat) : Prop :=
     own s i (s.atomicOp op w) ∧
     (Ends (reduce (s.atomicOp op w) false s.seen va v) s fl t → exec i s = .next (t.setFlags fl).retire)
   let float (i : Instr) (op : Nat) : Prop := bit s.h.fcsr 20 = false →
     own s.ndet i (s.atomicOp op w) ∧
     (Ends (reduce (s.atomicOp op w) false s.seen va v) s.ndet fl t → exec i s = .next (t.setFlags fl).retire)
   let ordered (i : Instr) (op : Nat) (f : Bool) : Prop :=
     let o : AtomicOp := ⟨op, f, 32, false, s.rm, s.sat⟩
     (va.toNat % 4 = 0 → s.Own va.toNat 4 →
       ∃ m x, exec i s = .next ({ s with h := s.h.released, pkg := { s.pkg with net := s.pkg.net ++ [m] } } : State).retire ∧
         m.body = .timed x ∧ x.body = .reduce o ((s.x b).toNat % 2 ^ 32) ∧ x.time = (s.x d).toNat ∧
         x.key = s.ownLoc va.toNat ∧ x.ordered = true) ∧
     (Ends (reduceOrdered o sc.toNat va va 0 (s.x d).toNat ((s.x b).toNat % 2 ^ 32)) s () t → exec i s = .next t.retire)
   s.rowsRead →
   int (.redadd a b w) 1 ∧ int (.redand a b w) 2 ∧ int (.redor a b w) 3 ∧ int (.redxor a b w) 4 ∧
   int (.redmin a b w) 5 ∧ int (.redmax a b w) 6 ∧ int (.redminn a b w) 7 ∧ int (.redmaxn a b w) 8 ∧
   float (.redfadd a b w) 10 ∧ float (.redfmin a b w) 11 ∧ float (.redfmax a b w) 12 ∧
   ordered (.redOrdAddF32 d a b sc) 10 true ∧ ordered (.redOrdAddI32 d a b sc) 1 false ∧
   ordered (.redOrdMinF32 d a b sc) 11 true ∧ ordered (.redOrdMaxF32 d a b sc) 12 true) ∧
  (∀ (s u : State) (t : Target) (o : AtomicOp) (va : Dword) (v sc time : Nat),
   va.toNat % (o.width / 8) = 0 → s.h.sb = [] →
   Ends (resolve s.who .atomic 0x08 va va.toNat) s t u → t.loc < 2 ^ 63 →
   (t.spot = none → ∃ w m, Ends (reduce o false s.seen va v) s 0 w ∧ w.pkg.net = u.pkg.net ++ [m] ∧
     m.body = .reduce [⟨o, t.loc, v, va⟩] ∧ m.rels = (u.armedWrite false).2 ∧ w.mem = u.mem ∧ w.h = (u.armedWrite false).1.h) ∧
   (u.clearOf u.h.ident t.loc (o.width / 8) = true → ∃ w m op, Ends (reduceOrdered o sc va va 0 time v) s () w ∧
     w.pkg.net = u.pkg.net ++ [m] ∧ m.body = .timed op ∧ op.body = .reduce o v ∧ op.time = time ∧ op.key = t.loc ∧
     op.ordered = true ∧ w.mem = u.mem ∧ SameRegisters w.h u.h))

/-! ### Control registers and traps -/

/-- R31, R32, R393: rdctl, wrctl, setctl and clrctl complete for every register and privilege that R31 and R32 permit:
rdctl puts the register in X[d]; wrctl writes X[a] to it; setctl and clrctl set or clear the bits of X[a], and write
nothing with x0. FCSR, VSTART and ACCLIVE wait for the VDQ, no other register does, and ACCLIVE needs the accumulators
(R34, R38).

R31, R32: which accesses are refused, and with which cause, for every number. One outside the map is ILLEGAL_INSN; a
privilege below the register's own is PRIV; a write of a register that nobody writes is ILLEGAL_INSN, and one that a higher
privilege may write PRIV; EVAL is the word. setctl and clrctl are checked as writes, with x0 as reads. ACCLIVE of a core
whose accumulators are not the hart's own is ACC_UNAVAILABLE with ACCOWN in EVAL (R38). -/
def Obligations.CsrAccessCompletes : Prop :=
  (∀ (d a : BitVec 5) (c : BitVec 12) (s : State),
   let n := c.toNat
   let ready := (n = 0x001 ∨ n = 0x009 ∨ n = 0x00C → s.h.vdq = []) ∧ (n = 0x00C → s.OwnsAcc)
   let shared := n = 0x001 ∨ (0x008 ≤ n ∧ n ≤ 0x00C) ∨ (0x010 ≤ n ∧ n ≤ 0x014) ∨ n = 0x018 ∨ n = 0x019
   let fixed := (0x400 ≤ n ∧ n ≤ 0x403) ∨ (0x408 ≤ n ∧ n ≤ 0x413) ∨ (0x417 ≤ n ∧ n ≤ 0x419)
   let group := n = 0x414 ∨ (0x840 ≤ n ∧ n ≤ 0x85F)
   let owner := n = 0x415 ∨ n = 0x416
   let system := (0x800 ≤ n ∧ n ≤ 0x804) ∨ n = 0x808 ∨ n = 0x809
   ready →
   (shared ∨ fixed ∨ group ∨ owner ∨ (s.h.priv ≠ .user ∧ system) →
     exec (.rdctl d c) s = .next (s.doneX d (s.csr n)) ∧
     exec (.setctl 0 c) s = .next s.retire ∧ exec (.clrctl 0 c) s = .next s.retire) ∧
   (shared ∨ (s.h.priv ≠ .user ∧ (group ∨ system)) ∨ (s.h.priv = .machine ∧ owner) →
     exec (.wrctl a c) s = .next (s.writeCsr n (s.x a)).retire ∧
     (a ≠ 0 → exec (.setctl a c) s = .next (s.writeCsr n (s.csr n ||| s.x a)).retire ∧
       exec (.clrctl a c) s = .next (s.writeCsr n (s.csr n &&& ~~~(s.x a))).retire))) ∧
  (∀ (d a : BitVec 5) (c : BitVec 12) (s : State),
   s.h.xSettled = true →
   let n := c.toNat
   let trap (cause word : Nat) : Out := takeTrap { cause := cause, value := BitVec.ofNat 64 word } s
   let rd := 0xE0000000 + d.toNat * 2 ^ 21 + n * 2 ^ 4
   let wr (fn : Nat) : Nat := 0xE0000000 + fn + a.toNat * 2 ^ 16 + n * 2 ^ 4
   let shared := n = 0x001 ∨ (0x008 ≤ n ∧ n ≤ 0x00C) ∨ (0x010 ≤ n ∧ n ≤ 0x014) ∨ n = 0x018 ∨ n = 0x019
   let fixed := (0x400 ≤ n ∧ n ≤ 0x403) ∨ (0x408 ≤ n ∧ n ≤ 0x413) ∨ (0x417 ≤ n ∧ n ≤ 0x419)
   let group := n = 0x414 ∨ (0x840 ≤ n ∧ n ≤ 0x85F)
   let owner := n = 0x415 ∨ n = 0x416
   let system := (0x800 ≤ n ∧ n ≤ 0x804) ∨ n = 0x808 ∨ n = 0x809
   let writes (cause : Nat) : Prop := exec (.wrctl a c) s = trap cause (wr 1) ∧
     (a ≠ 0 → exec (.setctl a c) s = trap cause (wr 2) ∧ exec (.clrctl a c) s = trap cause (wr 3))
   let all (cause : Nat) : Prop := exec (.rdctl d c) s = trap cause rd ∧ exec (.wrctl a c) s = trap cause (wr 1) ∧
     exec (.setctl a c) s = trap cause (wr 2) ∧ exec (.clrctl a c) s = trap cause (wr 3)
   (¬(shared ∨ fixed ∨ group ∨ owner ∨ system) → all 0x01) ∧
   (s.h.priv = .user → system → all 0x02) ∧
   (fixed → writes 0x01) ∧
   (s.h.priv = .user → group → writes 0x02) ∧
   (s.h.priv ≠ .machine → owner → writes 0x02) ∧
   (n = 0x00C → ¬s.OwnsAcc →
     let foreign : Out := takeTrap { cause := 0x0A, value := BitVec.ofNat 64 (bits s.core.accown 0 17) } s
     exec (.rdctl d c) s = foreign ∧ exec (.wrctl a c) s = foreign ∧ exec (.setctl a c) s = foreign ∧
       exec (.clrctl a c) s = foreign))

/-- R33, R35, R36, R39, R42 to R48: what a write of a register leaves in it, field by field. A write of the key sets SEEDED
and leaves CTR; TLATE keeps CLASS and LATEBY; the reserved PPRIV code 3 leaves PPRIV; a group keeps its membership until
its next phase boundary while one has arrived.

R28 to R48: a write of one CSR leaves PC, privilege, INSTRET, the x, v, m and cc registers, the trap registers other
than the one written, the saved program and memory as they were. -/
def Obligations.CsrWritesStayInTheirRegister : Prop :=
  (∀ (s : State) (v : Dword),
   let w (n : Nat) : Nat := ((s.writeCsr n v).csr n).toNat
   let old (n : Nat) : Nat := (s.csr n).toNat
   let x := v.toNat
   w 0x001 = (if x % 8 < 4 then x % 8 else old 0x001 % 8) + x / 8 % 2 ^ 19 * 8 ∧
   w 0x008 = min x 256 ∧ w 0x009 = x % 256 ∧ w 0x00A = max 1 (min x 32) ∧ w 0x00B = max 1 (min x 32) ∧
   w 0x00C = x % 256 ∧ w 0x014 = x % 2 ^ 63 + old 0x014 / 2 ^ 63 * 2 ^ 63 ∧
   w 0x018 = x % 2 ^ 16 + max 4 (x / 2 ^ 16 % 2 ^ 16) * 2 ^ 16 + max 64 (x / 2 ^ 32 % 2 ^ 16) * 2 ^ 32 ∧
   w 0x019 = x % 2 ^ 32 + old 0x019 / 2 ^ 32 % 2 ^ 4 * 2 ^ 32 + x / 2 ^ 36 % 2 * 2 ^ 36 + old 0x019 / 2 ^ 37 * 2 ^ 37 ∧
   w 0x414 = x % 2 ^ 16 ∧ w 0x415 = x % 2 ^ 12 ∧ w 0x416 = x % 2 ∧ w 0x800 = x / 4 * 4 ∧ w 0x801 = x % 256 ∧
   w 0x802 = x ∧ w 0x803 = x % 32 ∧
   w 0x804 = (if x % 4 = 3 then old 0x804 % 4 else x % 4) + x / 4 % 8 * 4 ∧
   w 0x808 = x % 2 ^ 17 ∧ w 0x809 = x % 2 ∧
   (∀ n, 0x010 ≤ n → n ≤ 0x013 → let t := s.writeCsr n v
     w n = x ∧ (t.csr 0x014).toNat = old 0x014 % 2 ^ 63 + 2 ^ 63 ∧
       ∀ m, 0x010 ≤ m → m ≤ 0x013 → m ≠ n → t.csr m = s.csr m) ∧
   (∀ n, 0x840 ≤ n → n ≤ 0x85F → s.core.id < 1536 → let t := s.writeCsr n v
     w n = x % 2 ^ 56 ∧
     ((s.group (n - 0x840)).arrived ≠ [] → maskCount (s.group (n - 0x840)).members ≠ 0 →
       (t.group (n - 0x840)).members = (s.group (n - 0x840)).members) ∧
     ∀ m, 0x840 ≤ m → m ≤ 0x85F → m ≠ n → t.csr m = s.csr m ∧ t.group (m - 0x840) = s.group (m - 0x840))) ∧
  (∀ (s : State) (n : Nat) (v : Dword), n < 0x840 ∨ 0x85F < n →
   let t := s.writeCsr n v
   t.mem = s.mem ∧ t.rest = s.rest ∧ t.pkg = s.pkg ∧ t.agenda = s.agenda ∧ t.h.x = s.h.x ∧ t.h.v = s.h.v ∧ t.h.m = s.h.m ∧
   t.h.cc = s.h.cc ∧ t.h.pc = s.h.pc ∧ t.h.priv = s.h.priv ∧ t.h.instret = s.h.instret ∧ t.h.sb = s.h.sb ∧
   (n ≠ 0x001 → t.h.fcsr = s.h.fcsr) ∧ (n ≠ 0x008 → t.h.vl = s.h.vl) ∧ (n ≠ 0x009 → t.h.vstart = s.h.vstart) ∧
   (n ≠ 0x00A → t.h.mvl = s.h.mvl) ∧ (n ≠ 0x00B → t.h.mvc = s.h.mvc) ∧ (n ≠ 0x018 → t.h.tguard = s.h.tguard) ∧
   (n ≠ 0x019 → t.h.tlate = s.h.tlate) ∧ (n ≠ 0x414 → t.h.ctxid = s.h.ctxid) ∧ (n ≠ 0x415 → t.h.tid = s.h.tid) ∧
   (n ≠ 0x800 → t.h.epc = s.h.epc) ∧ (n ≠ 0x801 → t.h.ecause = s.h.ecause) ∧ (n ≠ 0x802 → t.h.eval = s.h.eval) ∧
   (n ≠ 0x803 → t.h.eslice = s.h.eslice) ∧ (n ≠ 0x804 → t.h.estat = s.h.estat) ∧
   (n ≠ 0x00C → t.core.tiles = s.core.tiles ∧ t.core.acclive = s.core.acclive) ∧
   (n ≠ 0x808 → t.core.accown = s.core.accown) ∧ (n ≠ 0x809 → t.core.accen = s.core.accen))

/-- R375, R378: what taking a trap does from user or supervisor privilege. The frame of x1 to x31 and the five trap
registers is written to the save area; EPC is the trapping instruction, ECAUSE and EVAL the trap's, ESTAT.PPRIV the
privilege left; the privilege rises by one level, X[1] is the save area, and the PC the vector of that level. Every
other register stays.

R378: the frame that an entry writes holds x1 to x31 and then EPC, ECAUSE, EVAL, ESLICE and ESTAT as they were, one
dword after the other; no byte outside its 36 dwords changes. -/
def Obligations.TrapEntry : Prop :=
  (∀ (s w : State) (t : Trap),
   s.h.priv ≠ .machine → s.h.xSettled = true → t.cause < 256 →
   let up := s.h.priv = .supervisor
   s.putDwords (s.frameAt (s.h.priv != .user)) s.h.frame = some w →
   ∃ u, takeTrap t s = .next u ∧
     u.h.priv = (if up then .machine else .supervisor) ∧
     u.h.epc = setBits (t.epc.getD s.h.pc) 0 2 0 ∧ u.h.ecause.toNat = t.cause ∧ u.h.eval = t.value ∧
     bits u.h.estat 0 2 = s.h.priv.code ∧ bit u.h.estat 2 = t.imp ∧ bit u.h.estat 4 = t.evv ∧
     (∀ row, t.slice.or s.h.restart = some row → u.h.eslice = BitVec.ofNat 64 row) ∧
     bit u.h.estat 3 = (t.slice.isSome || s.h.restart.isSome) ∧ u.h.restart = none ∧
     u.h.pc = setBits (s.trapReg (if up then 1 else 0)) 0 2 0 ∧ u.x 1 = s.csaVa ∧ (∀ r, r ≠ 1 → u.x r = s.x r) ∧
     u.h.v = s.h.v ∧ u.h.m = s.h.m ∧ u.h.cc = s.h.cc ∧ u.h.fcsr = s.h.fcsr ∧ u.h.vl = s.h.vl ∧ u.h.vstart = s.h.vstart ∧
     u.h.instret = s.h.instret ∧ u.h.ctxid = s.h.ctxid ∧ u.h.tid = s.h.tid ∧ u.h.sb = s.h.sb ∧
     u.core = s.core ∧ u.rest = s.rest ∧ u.mem = w.mem) ∧
  (∀ (s w : State) (base k : Nat),
   Memory.wf s.mem = true → s.noPulls →
   (∀ i < 288, s.pkg.ownDram (base + i) = some (k + i)) → s.putDwords base s.h.frame = some w →
   (∀ i < 31, natOf (w.getBytes (k + 8 * i) 8) = (s.h.x.getD (i + 1) 0).toNat) ∧
   natOf (w.getBytes (k + 248) 8) = s.h.epc.toNat ∧ natOf (w.getBytes (k + 256) 8) = s.h.ecause.toNat ∧
   natOf (w.getBytes (k + 264) 8) = s.h.eval.toNat ∧ natOf (w.getBytes (k + 272) 8) = s.h.eslice.toNat ∧
   natOf (w.getBytes (k + 280) 8) = s.h.estat.toNat ∧
   (∀ l, l < k ∨ k + 288 ≤ l → Memory.get w.mem l = Memory.get s.mem l) ∧ w.h = s.h ∧ w.core = s.core)

/-- R378, R394: trap n takes TRAP_INSN with n in EVAL, and ebreak BREAKPOINT with EVAL 0, or a debug halt of the die with
the PC at the ebreak, where the die is set to halt so. Each completes by its entry from user or supervisor privilege,
wherever no load owes an x register and the frame lies in the package's own DRAM. -/
def Obligations.TrapInstructionsEnter : Prop := ∀ (n : BitVec 12) (s : State),
  exec (.trap n) s = takeTrap { cause := 0x0F, value := BitVec.ofNat 64 n.toNat } s ∧
  ((s.pkg.die (dieOfCore s.core.id)).haltOnBreak = false → exec .ebreak s = takeTrap { cause := 0x10, value := 0 } s) ∧
  ((s.pkg.die (dieOfCore s.core.id)).haltOnBreak = true →
    exec .ebreak s = .next { s with pkg := s.pkg.debugHalt (dieOfCore s.core.id) }) ∧
  (s.h.priv ≠ .machine → s.h.xSettled = true → s.noPulls →
    (∀ i < 36, (s.pkg.ownDram (s.frameAt (s.h.priv != .user) + 8 * i)).isSome = true) →
    let enters (cause : Nat) (value : Dword) (o : Out) : Prop := ∃ u, o = .next u ∧ u.h.ecause = BitVec.ofNat 64 cause ∧
      u.h.eval = value ∧ u.h.epc = setBits s.h.pc 0 2 0 ∧ bits u.h.estat 0 2 = s.h.priv.code ∧
      u.h.priv = (if s.h.priv = .user then .supervisor else .machine) ∧
      u.h.pc = setBits (s.trapReg (if s.h.priv = .user then 0 else 1)) 0 2 0 ∧ u.h.instret = s.h.instret ∧
      (∀ r, r ≠ 1 → u.x r = s.x r) ∧ u.h.v = s.h.v ∧ u.h.fcsr = s.h.fcsr ∧ u.core = s.core
    enters 0x0F (BitVec.ofNat 64 n.toNat) (exec (.trap n) s) ∧
    ((s.pkg.die (dieOfCore s.core.id)).haltOnBreak = false → enters 0x10 0 (exec .ebreak s)))

/-- R379: eret, at a privilege at or above ESTAT.PPRIV and with nothing outstanding, its vector work done where it goes
back to a slice, completes: it restores x1 to x31 and the five trap registers from the frame, EPC, ECAUSE, EVAL, ESLICE
and ESTAT with its fields PPRIV, IMP, SLV and EVV; the privilege becomes PPRIV, the PC the EPC, and INSTRET advances. A
slice restart takes its row from ESLICE, and keeps it there with SLV set. A hart that is dying ends instead, as gexit does,
without a handler to go back to (R392).

That no dword of the frame is poisoned is needed for a restoring eret; what a poisoned one does is the model's choice (log
entry 83). -/
def Obligations.EretRestores : Prop := ∀ (s : State),
  s.h.priv ≠ .user → bits s.h.estat 0 2 ≤ s.h.priv.code → s.applied → s.h.xSettled = true →
  (bit s.h.estat 3 = true → s.h.vdq = []) →
  (∀ ds, s.h.dying = false → Ends framePoison s () s → s.physDwords (s.frameAt (s.h.priv = .machine)) 36 = some ds →
    let slv := bit s.h.estat 3
    let estat := ds.getD 35 0
    ∃ u, exec .eret s = .next u ∧ u.h.priv = Priv.ofCode (bits s.h.estat 0 2) ∧ u.h.pc = setBits s.h.epc 0 2 0 ∧
      u.h.instret = s.h.instret + 1 ∧ u.x 0 = 0 ∧ (∀ r : BitVec 5, r ≠ 0 → u.x r = ds.getD (r.toNat - 1) 0) ∧
      u.h.epc = setBits (ds.getD 31 0) 0 2 0 ∧ u.h.ecause.toNat = (ds.getD 32 0).toNat % 256 ∧ u.h.eval = ds.getD 33 0 ∧
      u.h.eslice.toNat = (if slv then s.h.eslice else ds.getD 34 0).toNat % 32 ∧
      bits u.h.estat 0 2 = bits (if bits estat 0 2 = 3 then s.h.estat else estat) 0 2 ∧ bit u.h.estat 2 = bit estat 2 ∧
      bit u.h.estat 3 = (slv || bit estat 3) ∧ bit u.h.estat 4 = bit estat 4 ∧ u.h.estat.toNat < 32 ∧
      u.h.restart = (if slv then some (s.h.eslice.toNat % 32) else none) ∧
      u.h.v = s.h.v ∧ u.h.m = s.h.m ∧ u.h.cc = s.h.cc ∧ u.h.fcsr = s.h.fcsr ∧ u.h.vstart = s.h.vstart ∧
      u.mem = s.mem ∧ u.core = s.core ∧ u.rest = s.rest ∧ u.pkg = s.pkg) ∧
  (∀ w, s.h.dying = true → s.h.subs = Vector.replicate 16 none → s.h.pubs = Vector.replicate 16 none →
    s.owed s.h.ident = 0 → s.h.vdq = [] → (∀ c ∈ s.pkg.copies, c.hart ≠ s.h.ident) →
    let gone : State := { s with h := { s.h with status := .exited, instret := s.h.instret + 1 } }
    (gone.settleBarrier s.h.gang).settleGang s.h.gang = some w → exec .eret s = .next w)

/-- R215: a misaligned acquire load, release store, timed access or atomic raises its fault at once, with its address in
EVAL.

R374: below its minimum privilege a privileged instruction takes PRIV with its word in EVAL: in user mode eret,
preempt, gkill, sfqpop, tlbinv, hinv, and halt in supervisor mode too.

R325, R326: a hart that is no member of the group, an arrival with a lead of 3, and a wait without an arrival take
ILLEGAL_INSN with the word in EVAL. A hart that has passed the check and waits is not checked again.

R69 to R71: a vector instruction whose register groups do not stand takes ILLEGAL_INSN with its word in EVAL.

R38, R164: an accumulator instruction on a core whose accumulators are disabled or another context's takes
ACC_UNAVAILABLE with ACCOWN in EVAL, before it does anything. A sliced instruction with a restart pending issues once
the VDQ is empty (R164). -/
def Obligations.MisuseTraps : Prop :=
  (∀ (d a b sc : BitVec 5) (y : BitVec 2) (k : BitVec 4) (w : BitVec 1) (s : State),
   s.h.xSettled = true → s.h.placing = false → s.rowsRead →
   let trap (c : Nat) : Out := takeTrap { cause := c, value := s.x a } s
   ((s.x a).toNat % 2 ^ y.toNat ≠ 0 →
     exec (.ldAcq d a sc y) s = trap 0x05 ∧ exec (.stRel d a sc y) s = trap 0x07 ∧
     exec (.ldNb d a b y) s = trap 0x05 ∧ exec (.stAt d a b k y) s = trap 0x07) ∧
   ((s.x a).toNat % (if w = 0 then 4 else 8) ≠ 0 →
     exec (.amoswap d a b w) s = trap 0x08 ∧ exec (.amocas d a b w) s = trap 0x08 ∧ exec (.redadd a b w) s = trap 0x08)) ∧
  (∀ (r : BitVec 5) (s : State),
   s.h.xSettled = true →
   let trap (w : Nat) : Out := takeTrap { cause := 0x02, value := BitVec.ofNat 64 w } s
   (s.h.priv = .user →
     exec .eret s = trap 0xE0000007 ∧ exec .preempt s = trap 0xE0000009 ∧
     exec (.gkill r) s = trap (0xE000000A + r.toNat * 2 ^ 16) ∧ exec (.sfqpop r) s = trap (0xE000000B + r.toNat * 2 ^ 21) ∧
     exec (.tlbinv r) s = trap (0xE000000C + r.toNat * 2 ^ 16) ∧ exec (.hinv r) s = trap (0xE000000D + r.toNat * 2 ^ 16)) ∧
   (s.h.priv ≠ .machine → exec .halt s = trap 0xE000000F)) ∧
  (∀ (g : BitVec 5) (s : State), s.h.xSettled = true →
   let trap (w : Nat) : Out := takeTrap { cause := 0x01, value := BitVec.ofNat 64 w } s
   let n := g.toNat
   ((maskHas (s.group n).members s.core.id = false ∧ s.h.atWait = false ∨ (s.h.arr n + 4 - s.h.wt n) % 4 = 3) →
     exec (.barrArrive g) s = trap (0xC8000000 + n * 2 ^ 16)) ∧
   ((maskHas (s.group n).members s.core.id = false ∧ s.h.atWait = false ∨ s.h.arr n = s.h.wt n) →
     exec (.barrWait g) s = trap (0xC8000001 + n * 2 ^ 16)) ∧
   ((s.h.arr 48 + 4 - s.h.wt 48) % 4 = 3 → exec .barrArriveGang s = trap 0xC8000004) ∧
   (s.h.arr 48 = s.h.wt 48 → exec .barrWaitGang s = trap 0xC8000005)) ∧
  (∀ (d a b : BitVec 5) (p e : BitVec 3) (s : State), s.h.xSettled = true →
   groupsOk s.vlen (some (d, widthOf e)) [(a, widthOf e), (b, widthOf e)] = false →
   let low := d.toNat * 2 ^ 21 + a.toNat * 2 ^ 16 + b.toNat * 2 ^ 11 + p.toNat * 2 ^ 8 + e.toNat * 2 ^ 5
   exec (.vadd d a b p e) s = takeTrap { cause := 0x01, value := BitVec.ofNat 64 (0x80000000 + low) } s ∧
   exec (.vfadd d a b p e) s = takeTrap { cause := 0x01, value := BitVec.ofNat 64 (0x84000000 + low) } s) ∧
  (∀ (t u : BitVec 3) (y : BitVec 2) (a b : BitVec 5) (r c : BitVec 3) (f : BitVec 5) (s : State),
   s.h.xSettled = true → s.h.head = none → (s.h.restart = none ∨ (s.h.vdq = [] ∧ s.vFree = true)) →
   bit s.core.accen 0 = false ∨ bit s.core.accown 16 = false ∨ bits s.core.accown 0 16 ≠ bits s.h.ctxid 0 16 →
   let trap : Out := takeTrap { cause := 0x0A, value := BitVec.ofNat 64 (bits s.core.accown 0 17) } s
   exec (.mop t a b r c f) s = trap ∧ exec (.mops t a b r c f) s = trap ∧ exec (.mopx t a b r c f) s = trap ∧
   exec (.mopxs t a b r c f) s = trap ∧ exec (.mopsp t a b r c f) s = trap ∧ exec (.mopi t a b r c f) s = trap ∧
   exec (.mopiSat t a b r c f) s = trap ∧ exec (.acczero t) s = trap ∧ exec (.accrd t a b) s = trap ∧
   exec (.accwr t a b) s = trap ∧ exec (.accpro t y a b a) s = trap ∧ exec (.accld t a) s = trap ∧
   exec (.accst t a) s = trap ∧ exec (.accmov t u) s = trap ∧ exec (.accadd t y u) s = trap ∧
   exec (.accsave a) s = trap ∧ exec (.accrest a) s = trap)

/-- R378: a trap at machine privilege takes no entry: a DOUBLE_TRAP event is written to the black box of the die, and
the hart's gang is ended as gkill ends it: the hart itself at once, its copies stopped at a chunk boundary (R391).

R378 says that the gang is killed; that no save area can be written is the model's fault csaUnreachable (log entry 20),
and how the event's two values are laid out is the model's reading (log entry 35). -/
def Obligations.DoubleTrapEndsTheGang : Prop := ∀ (s : State) (t : Trap), s.h.priv = .machine →
  let p := s.pkg.logEvent (dieOfCore s.core.id) 0x0E s.core.id
    (t.cause * 2 ^ 56 + bits (t.epc.getD s.h.pc) 0 56) t.value.toNat
  let logged : State := { s with pkg := p }
  (∀ u, logged.endHartNow s.h.ident = some u →
    (∀ w, u.killGang s.h.gang none = some w → takeTrap t s = .next w) ∧
    (u.killGang s.h.gang none = none → takeTrap t s = .fault .csaUnreachable)) ∧
  (s.here → logged.endHartNow s.h.ident = some { s with pkg := p.stopCopies s.h.ident, h := s.h.ended }) ∧
  s.h.ended.status = .exited ∧ s.h.ended.dying = true ∧ s.h.ended.vdq = [] ∧ s.h.ended.sb = s.h.sb ∧
  ∀ c ∈ (p.stopCopies s.h.ident).copies, c.hart = s.h.ident → c.stopped = true

/-! ### Barriers, work, subscriptions, copies, system -/

/-- R325 to R327: barr.arrive, barr.arrive.span and barr.arrive.gang complete for a member whose lead is below 3, once its
VDQ is empty and everything earlier is acknowledged: ARR advances, and no register or byte of memory changes. An arrival
at a spanning group also waits for the contribution that its hart sent before (R189) and for a route to the root's package
that does not move (R184).

R318, R325, R327, R331: barr.wait, barr.wait.gang and barr.wait.span complete at a group whose phase is complete and
whose release edge has passed: WT advances, what the phase released is acquired, and nothing else changes. A spanning
wait also needs the release instant to have come, and reports no miss at an edge less than a cycle after it. A hart that
waits where the phase is not complete goes on waiting, for as long as it takes.

What a wait acquires is kept as the model's clocks (log entry 29). -/
def Obligations.BarriersComplete : Prop :=
  (∀ (g : BitVec 5) (s : State),
   let n := g.toNat
   let ready (i : Nat) : Prop := (s.h.arr i + 4 - s.h.wt i) % 4 ≠ 3 ∧ s.h.vdq = [] ∧ s.settled ∧ s.batchesClosed ∧
     s.h.pend = []
   let counted (i : Nat) (t : State) : Prop := t.h.pc = s.h.pc + 4 ∧ t.h.instret = s.h.instret + 1 ∧
     t.h.bar = (s.h.arrived i).bar ∧ t.h.x = s.h.x ∧ t.h.v = s.h.v ∧ t.h.fcsr = s.h.fcsr ∧ t.mem = s.mem
   (ready n → maskHas (s.group n).members s.core.id = true →
     ∃ t, exec (.barrArrive g) s = .next t ∧ counted n t) ∧
   (ready (32 + n) → s.pkg.spanMember s.core.id n = true → s.pkg.contributes s.h.ident = false →
     (let die := dieOfCore s.core.id
      let root := bits (s.pkg.ctl (offSpan die n 0)) 32 10
      root = s.pkg.number ∨ (s.pkg.route die root).isSome = true) →
     ∃ t, exec (.barrArriveSpan g) s = .next t ∧ counted (32 + n) t) ∧
   (ready 48 → ∃ t, exec .barrArriveGang s = .next t ∧ counted 48 t)) ∧
  (∀ (g : BitVec 5) (s : State),
   let n := g.toNat
   let d := s.pkg.die (dieOfCore s.core.id)
   let goes (i : Nat) (phases : Nat) (clocks : List (Nat × List (Nat × Nat))) : State :=
     let c := (tableGet clocks (phaseBack phases (s.h.wt i))).getD []
     let h : Hart := { s.h with atWait := false }
     ({ s with h := (h.waited i).acquired c } : State).retire
   let passed (doneAt : List (Nat × Nat)) (q : Nat) : Prop := ∀ at_, tableGet doneAt q = some at_ → at_ < s.pkg.time
   (maskHas (s.group n).members s.core.id = true ∨ s.h.atWait = true → s.h.arr n ≠ s.h.wt n →
     (phaseDone (s.group n).phases (s.h.wt n) = true →
       passed (s.group n).doneAt (phaseBack (s.group n).phases (s.h.wt n)) →
       exec (.barrWait g) s = .next (goes n (s.group n).phases (s.group n).clocks)) ∧
     (phaseDone (s.group n).phases (s.h.wt n) = false → s.h.atWait = true → exec (.barrWait g) s = .next s)) ∧
   (∀ x, s.gang? s.h.gang = some x → s.h.arr 48 ≠ s.h.wt 48 →
     (phaseDone x.phases (s.h.wt 48) = true → passed x.doneAt (phaseBack x.phases (s.h.wt 48)) →
       exec .barrWaitGang s = .next (goes 48 x.phases x.clocks)) ∧
     (phaseDone x.phases (s.h.wt 48) = false → s.h.atWait = true → exec .barrWaitGang s = .next s)) ∧
   (let x := d.span n
    let t := (tableGet x.releases (phaseBack x.phases (s.h.wt (32 + n)))).getD 0
    s.pkg.spanMember s.core.id n = true ∨ s.h.atWait = true → s.h.arr (32 + n) ≠ s.h.wt (32 + n) →
    phaseDone x.phases (s.h.wt (32 + n)) = true → t ≤ s.pkg.gtime →
    s.pkg.time < 990 * t - s.pkg.gtShift + stepPeriod d.step →
    exec (.barrWaitSpan g) s = .next (goes (32 + n) x.phases x.clocks)))

/-- R204, R332 to R339: pause, recv, launch, launch.r, join, gexit and yield complete: pause and yield in every state;
recv on a ring of the gang's partition with a message in it; launch and launch.r with a record in the own private
scratchpad that its queue admits; join on a block of the package's own DRAM; gexit once nothing of the hart is
outstanding. What each leaves is stated with it.

That these read memory in the step that issues them is the model's choice (log entry 21). -/
def Obligations.WorkInstructionsComplete : Prop := ∀ (n : BitVec 15) (d a sc : BitVec 5) (s w : State),
  let enters (t : State) (q : Nat) (r : BitVec 512) : Prop :=
    t.h.pend = [] ∧ t.settled ∧ bits (t.pkg.qcfg q) 16 12 = bits t.h.tid 0 12 ∧ t.pkg.qcheck q r false = 0 ∧
    t.pkg.physHeld (t.pkg.qslot q (t.pkg.qtail q)) 64 = false ∧
    (({ t with h := t.h.released } : State).accept q r t.h.released.clock).select (q / 16) = some w
  let ownRecord (at_ : Nat) : BitVec 512 :=
    BitVec.ofNat 512 (natOf ((List.range 8).flatMap fun i => s.getBytes (s.ownLoc (at_ + 8 * i)) 8))
  (exec (.pause n) s = .next { s.retire with
    h := { s.retire.h with pauseLeft := if n = 0 then s.h.pauseLeft else n.toNat + 1 } }) ∧
  (∀ loc, (s.x a).toNat % 64 = 0 → s.OwnPart (s.x a).toNat 8 loc → s.OwnPart ((s.x a).toNat + 8) 8 (loc + 8) →
    let tail := natOf (s.getBytes loc 8) % 2 ^ 32
    tail ≠ natOf (s.getBytes (loc + 8) 8) % 2 ^ 32 →
    exec (.recv d a) s =
      .next (((s.observe (some 3) loc 8).observe none (loc + 8) 8).doneX d (BitVec.ofNat 64 tail))) ∧
  (∀ g o x y t u, (s.x a).toNat % 64 = 0 → windowOf s.h (s.gang? s.h.gang) (s.x a).toNat = .spot (.part g o) →
    Reads s (some 3) (s.x a) 8 x t →
    Ends (loadBytes none (s.x a + 8) ((s.x a).toNat + 8) 8) t y u → natOf x % 2 ^ 32 ≠ natOf y % 2 ^ 32 →
    exec (.recv d a) s = .next (u.doneX d (BitVec.ofNat 64 (natOf x % 2 ^ 32)))) ∧
  (bits (s.x a) 4 2 = 0 →
    let at_ := (s.x a).toNat / 64 * 64
    let q (t : State) := 16 * dieOfCore t.core.id + bits (s.x a) 0 4
    ((∀ i < 8, s.Own (at_ + 8 * i) 8) → enters (s.ownRead at_ 8) (q s) (ownRecord at_) →
      exec (.launch a sc) s = .next w.retire) ∧
    (∀ r t, Ends (readRecord (setBits (s.x a) 0 6 0)) s r t → enters t (q t) r → exec (.launch a sc) s = .next w.retire)) ∧
  ((s.x a).toNat % 64 = 0 → (s.x d).toNat % 4096 = 0 →
    (∀ q, (∀ i < 8, s.Own ((s.x a).toNat + 8 * i) 8) → s.Maps .store (s.x d).toNat (.queue s.pkg.number q) →
      enters (s.ownRead (s.x a).toNat 8) q (ownRecord (s.x a).toNat) → exec (.launchR d a sc) s = .next w.retire) ∧
    (∀ r t pa e v q, Ends (readRecord (s.x a)) s r t → windowOf t.h (t.gang? t.h.gang) (s.x d).toNat = .outside →
      Ends (awaitWalk t.who (s.x d).toNat) t () t →
      t.translate t.who .store (s.x d).toNat = (.ok (pa, e), v) → v.pkg.place pa = .queue v.pkg.number q →
      enters v q r → exec (.launchR d a sc) s = .next w.retire)) ∧
  (∀ loc k, (s.x a).toNat % 128 = 0 → s.Maps .atomic (s.x a).toNat (.dram loc k) → loc < 2 ^ 42 → s.noPulls →
    s.h.pend = [] → s.settled → s.pkg.held? loc 16 = false → s.pkg.held? (loc + 64) 64 = false → s.joinPoison loc = none →
    ({ s with h := s.h.released } : State).joinAt (bits s.h.tid 0 12) s.core.secure loc s.h.released.clock = some w →
    exec (.join a) s = .next w.retire) ∧
  (s.h.sb = [] → s.h.subs = Vector.replicate 16 none → s.h.pubs = Vector.replicate 16 none →
    s.mine s.h.ident = [] → s.owed s.h.ident = 0 → s.h.vdq = [] → (∀ c ∈ s.pkg.copies, c.hart ≠ s.h.ident) →
    let gone : State := { s with h := { s.h with status := .exited, instret := s.h.instret + 1 } }
    ((∀ g, s.gang? s.h.gang = some g → g.discard = false ∧ ∃ e ∈ s.rest, e.1.id ≠ s.core.id ∧ e.2.present = true ∧
        e.2.gang = s.h.gang ∧ e.2.status ≠ .exited) →
      exec .gexit s = .next (gone.settleBarrier s.h.gang)) ∧
    ((gone.settleBarrier s.h.gang).settleGang s.h.gang = some w → exec .gexit s = .next w)) ∧
  exec .yield s = .next (s.retire.preemptGang s.h.gang)

/-- R314: a join takes one from the count of its block; where the count was above 1, it always completes, and nothing else
of memory changes. -/
def Obligations.JoinCountsDown : Prop := ∀ (s : State) (tid loc : Nat) (secure : Bool) (c : List (Nat × Nat)),
  Memory.wf s.mem = true → s.noPulls → 1 < signExtend (natOf (s.getBytes loc 8)) 64 →
  ∃ t, s.joinAt tid secure loc c = some t ∧
    signExtend (natOf (t.getBytes loc 8)) 64 = signExtend (natOf (s.getBytes loc 8)) 64 - 1 ∧
    (∀ l, l < loc ∨ loc + 8 ≤ l → Memory.get t.mem l = Memory.get s.mem l) ∧ t.h = s.h ∧ t.pkg.queues = s.pkg.queues

/-- R274, R275, R277: sub completes for a region that its own checks admit and a publisher of the tenant with a free
entry, once the snapshot is made. unsub and unsub.pub complete once no update is on its way: the entry is free, and no
byte of memory changes; of an entry that is not valid they change nothing. subflush completes with nothing open or on
its way.

That the snapshot is made in the step that issues sub is the model's choice (log entry 21). -/
def Obligations.SubscriptionsComplete : Prop := ∀ (a b c : BitVec 5) (e : BitVec 4) (h : BitVec 2) (s : State),
  (∀ pub mine at_ i t w, s.h.vdq = [] → s.subOwn e.toNat (s.x a) (s.x b) (s.x c) = 0 →
    s.harts.find? (fun k => k.hartid == bits (s.x b) 24 35) = some pub →
    s.localRegion (s.x a) (s.x c).toNat = some (mine, at_) → pub.hartid ≠ s.h.hartid →
    bits pub.tid 0 12 = bits s.h.tid 0 12 → pub.poolSecure = s.h.poolSecure →
    bits (s.x b) 0 22 + (s.x c).toNat ≤ s.windowSize pub (bit (s.x b) 22) →
    pub.pubFor (bit (s.x b) 22) (bits (s.x b) 0 22) (s.x c).toNat = some i →
    Ends (snapshot pub s.h (bit (s.x b) 22) (bits (s.x b) 0 22) mine at_ ((s.x c).toNat / 8)) s () t →
    t.onHart pub.ident (Hart.addSubscriber i (bit (s.x b) 22) (bits (s.x b) 0 22) (s.x c).toNat
      ⟨s.h.ident, e.toNat, none, false⟩) = some w →
    let y : SubEntry := ⟨mine, at_, (s.x c).toNat, pub.ident, bit (s.x b) 22, bits (s.x b) 0 22⟩
    exec (.subscribe a b c e h) s =
      .next ({ w with h := { w.h with subs := w.h.subs.setIfInBounds e.toNat (some y) } } : State).retire) ∧
  (∀ y, s.h.subs.getD e.toNat none = some y → s.here → (s.coreOf y.publisher).isSome = true →
    (∀ p, s.hart? y.publisher = some p → ∀ i k, p.pubs.getD i none = some k →
      ∀ b ∈ k.subs, b.hart = s.h.ident → b.entry = e.toNat → b.batch = none) →
    s.updatesTo s.h.ident e.toNat = false →
    ∃ w, exec (.unsub e h) s = .next w ∧ w.h.subs = s.h.subs.setIfInBounds e.toNat none ∧ w.h.pc = s.h.pc + 4 ∧
      w.h.instret = s.h.instret + 1 ∧ w.h.x = s.h.x ∧ w.mem = s.mem) ∧
  (∀ y, s.h.pubs.getD e.toNat none = some y → s.here → (∀ b ∈ y.subs, (s.coreOf b.hart).isSome = true ∧ b.batch = none) →
    s.updatesOf y = false →
    ∃ w, exec (.unsubPub e h) s = .next w ∧ w.h.pubs = s.h.pubs.setIfInBounds e.toNat none ∧ w.h.pc = s.h.pc + 4 ∧
      w.h.instret = s.h.instret + 1 ∧ w.h.x = s.h.x ∧ w.mem = s.mem) ∧
  (s.h.subs.getD e.toNat none = none → exec (.unsub e h) s = .next s.retire) ∧
  (s.h.pubs.getD e.toNat none = none → exec (.unsubPub e h) s = .next s.retire) ∧
  (s.h.vdq = [] → s.h.sb = [] → s.batchesClosed → s.updatesOut s.h.ident = false →
    exec (.subflush h) s = .next s.retire)

/-- R261, R262, R268: a copy and a ccset enter the VDQ, where it has room, with what the registers, CTXID and TID (R34)
hold at that moment; nothing else changes but PC and INSTRET. -/
def Obligations.CopiesEnterTheVdq : Prop :=
  ∀ (a b c : BitVec 5) (n : BitVec 4) (h x : BitVec 2) (s : State), s.h.vdq.length < 32 →
  let req (form : Nat) (ix : List Nat) (stream : Bool) : CopyReq :=
    ⟨form, s.x a, s.x b, s.x c, s.x (c + 1), ix, n.toNat, stream, s.h.pc, s.h.ctxid, s.h.tid⟩
  let ix := (List.range (min 256 (bits (s.x c) 32 16))).map (s.elem (bits (s.x c) 56 5) 32)
  let queued (e : VdqEntry) : Out := .next ({ s with h := { s.h with vdq := s.h.vdq ++ [e] } } : State).retire
  (bit s.h.fcsr 20 = false ∨ x ≠ 1 →
    exec (.cpy a b c n h x) s = queued (.copy (req 0 [] (x == 1))) ∧
    exec (.cpy2 a b c n h x) s = queued (.copy (req 1 [] (x == 1))) ∧
    exec (.cpyM a b c n h x) s = queued (.copy (req 4 [] (x == 1))) ∧
    exec (.cpy2M a b c n h x) s = queued (.copy (req 5 [] (x == 1)))) ∧
  (s.vFree = true → (∀ q, VdqEntry.insn q ∉ s.h.vdq) →
    exec (.cpyxG a b c n h) s = queued (.copy (req 2 ix false)) ∧
    exec (.cpyxS a b c n h) s = queued (.copy (req 3 ix false)) ∧
    exec (.cpyxGM a b c n h) s = queued (.copy (req 6 ix false))) ∧
  exec (.ccset b n h) s = queued (.ccset n.toNat (BitVec.ofNat 32 (s.x b).toNat))

/-- R268, R297, R298: with an empty VDQ, ccrd puts the counter in X[a], ccwait goes on once its count is reached,
sgbind binds the image that it reads to the stream in its context and world, and sgunbind leaves the stream unbound.

That sgbind reads its image in the step that issues it is the model's choice (log entry 21); what ccwait acquires is kept as
the model's clocks (log entry 29). -/
def Obligations.CountersAndStreamsComplete : Prop :=
  ∀ (a b : BitVec 5) (n k : BitVec 4) (h x : BitVec 2) (s : State), s.h.vdq = [] →
  let bound (t : State) (l : List (Nat × Nat × Bool × BitVec 2048)) : State :=
    let table := tableSet t.pkg.streams (bits t.h.ctxid 0 16) (l ++ t.pkg.unbound (bits t.h.ctxid 0 16) k.toNat)
    { t with pkg := { t.pkg with streams := table } }
  exec (.ccrd a n h) s = .next (s.doneX a (s.h.cc.getD n.toNat 0)) ∧
  (((bits (s.h.cc.getD n.toNat 0) 0 32 + 2 ^ 32 - bits (s.x b) 0 32) % 2 ^ 32 < 2 ^ 31) →
    exec (.ccwait b n h) s = .next (s.acquireCounter n.toNat (bits (s.x b) 0 32)).retire) ∧
  exec (.sgunbind k h) s = .next (bound s []).retire ∧
  ((s.x a).toNat % 256 = 0 → (∀ i < 32, s.Own ((s.x a).toNat + 8 * i) 8) →
    let t := s.ownRead (s.x a).toNat 32
    let img := BitVec.ofNat 2048 (natOf ((List.range 32).flatMap fun i => s.getBytes (s.ownLoc ((s.x a).toNat + 8 * i)) 8))
    (graphOf img).valid x.toNat = true →
    exec (.sgbind a k h x) s = .next (bound t [(k.toNat, x.toNat, t.contextWorld, img)]).retire) ∧
  (∀ bs t, (s.x a).toNat % 256 = 0 →
    Ends ((List.range 32).mapM fun i => loadBytes none (s.x a + BitVec.ofNat 64 (8 * i))
      (s.x a + BitVec.ofNat 64 (8 * i)).toNat 8) s bs t →
    let img := BitVec.ofNat 2048 (natOf bs.flatten)
    (graphOf img).valid x.toNat = true →
    exec (.sgbind a k h x) s = .next (bound t [(k.toNat, x.toNat, t.contextWorld, img)]).retire)

/-- R175, R360, R366, R387, R390, R391, R394: fence.i, preempt, gkill, sfqpop, tlbinv, hinv and halt complete at their
privilege, with the effect that their rules give.

A gkill completes once the gangs that it names have stopped issue or been discarded, sfqpop moves the oldest record of the
save area into the queue, and fence.i drops the instruction cache with the errors in it.

That tlbinv waits for every access of any hart through a dropped translation is the model's reading (log entry 49);
that of gkill's EVAL is log entry 35, that of when it completes log entry 88. -/
def Obligations.SystemInstructionsComplete : Prop := ∀ (d a : BitVec 5) (s : State),
  (s.h.vdq = [] → s.settled → exec .fenceI s = .next ({ s with
    core := { s.core with icache := [] }, pkg := s.pkg.filledL1 s.core.id fun _ => true } : State).retire) ∧
  (s.h.priv ≠ .user → (∀ e ∈ s.cores, e.2.present = true → e.2.gang = s.h.gang → e.2.notice = false) →
    exec .preempt s = .next s.retire) ∧
  (∀ u, s.h.priv ≠ .user → (∃ e ∈ s.cores, e.2.present = true ∧ e.2.gang = s.h.gang ∧ e.2.notice = true) →
    s.retire.clearNotice s.h.gang = some u → exec .preempt s = .next (u.preemptGang s.h.gang)) ∧
  (s.h.priv ≠ .user → bits (s.x a) 50 14 = 0 →
    (s.h.priv = .supervisor → ∀ c, s.seenContext (bits (s.x a) 32 16) = some c → c.tid = bits s.h.tid 0 12) →
    (s.named (s.x a) = [] → exec (.gkill a) s = .next s.retire) ∧
    (∀ g w, s.named (s.x a) = [g] → s.killGang g.id (some (s.x a)) = some w →
      (∀ k ∈ w.named (s.x a), k.discard = false ∧ k.phase ≠ .parking ∧ w.issuing k = false) → exec (.gkill a) s = .next w.retire)) ∧
  (s.h.priv ≠ .user →
    (s.h.sfq = [] → exec (.sfqpop d) s = .next (s.doneX d 0)) ∧
    (∀ r rest, s.h.sfq = r :: rest →
      let popped (u : State) (sfq : List SfRecord) : Out :=
        .next (({ u with h := { u.h with sfq := sfq, eval := r.va } } : State).doneX d r.word1)
      (s.savedFaults s.h = some [] → exec (.sfqpop d) s = popped s rest) ∧
      (∀ q more u, s.savedFaults s.h = some (q :: more) →
        ({ s with h := { s.h with sfq := rest ++ [q] } } : State).putFaults s.h more = some u →
        exec (.sfqpop d) s = popped u u.h.sfq))) ∧
  (∀ k, s.h.priv ≠ .user → invalOf (s.x a) = some k → (k.machine = true → s.h.priv = .machine) → s.h.pend = [] →
    s.applied → (s.dropTranslations k).noneUses k = true →
    exec (.tlbinv a) s = .next (s.dropTranslations k).retire ∧
    (∀ e ∈ (s.dropTranslations k).core.tlb, k.drops e = false)) ∧
  (let all := bit (s.x a) 16
   s.h.priv ≠ .user → bits (s.x a) 17 15 = 0 → bits (s.x a) 48 16 = 0 →
    (if all then bits (s.x a) 0 16 = 0 else bits (s.x a) 0 16 < 0xFFF0) → s.applied →
    (∀ c ∈ s.pkg.copies, c.ctx = bits (s.x a) 32 16 → c.uses (if all then none else some (bits (s.x a) 0 16)) = false) →
    exec (.hinv a) s = .next s.retire) ∧
  (s.h.priv = .machine → s.h.sb = [] → s.h.placing = false → exec .halt s = .next { s with
    h := { s.h with status := .halted }
    pkg := s.pkg.logEvent (dieOfCore s.core.id) 0x10 s.core.id s.h.pc.toNat 0 })

/-! ### Vector instructions -/

/-- R122, R125, R127: an integer element-wise instruction completes where its groups stand and the VDQ is empty: each
active element becomes the stated function of the elements of its sources, and no other bit of any register changes;
VSTART becomes 0, and no flag is raised.

R131: with a vector and a scalar operand, X[b] or a 5-bit immediate, sign-extended but for the shifts. -/
def Obligations.VectorIntegerComplete : Prop :=
  (∀ (d a b : BitVec 5) (p e : BitVec 3) (s : State),
   let w := widthOf e
   let x := s.elem a.toNat w
   let y := s.elem b.toNat w
   let sx (i : Nat) : Int := signExtend (x i) w
   let sy (i : Nat) : Int := signExtend (y i) w
   let clamp (n : Int) : Nat := wrap (max (-(2 ^ (w - 1) : Int)) (min (2 ^ (w - 1) - 1) n)) w
   let two (i : Instr) (f : Nat → Nat) : Prop :=
     s.Groups d w [(a, w), (b, w)] → VectorResult s (exec i s) d.toNat w (s.active p) f 0
   let one (i : Instr) (f : Nat → Nat) : Prop :=
     s.Groups d w [(a, w)] → VectorResult s (exec i s) d.toNat w (s.active p) f 0
   two (.vadd d a b p e) (fun i => (x i + y i) % 2 ^ w) ∧
   two (.vsub d a b p e) (fun i => (x i + (2 ^ w - y i)) % 2 ^ w) ∧
   two (.vmul d a b p e) (fun i => x i * y i % 2 ^ w) ∧
   two (.vmulh d a b p e) (fun i => wrap (sx i * sy i / 2 ^ w) w) ∧
   two (.vmulhn d a b p e) (fun i => x i * y i / 2 ^ w) ∧
   two (.vand d a b p e) (fun i => x i &&& y i) ∧
   two (.vor d a b p e) (fun i => x i ||| y i) ∧
   two (.vxor d a b p e) (fun i => x i ^^^ y i) ∧
   two (.vsll d a b p e) (fun i => x i * 2 ^ (y i % w) % 2 ^ w) ∧
   two (.vsrl d a b p e) (fun i => x i / 2 ^ (y i % w)) ∧
   two (.vsra d a b p e) (fun i => wrap (sx i / 2 ^ (y i % w)) w) ∧
   two (.vmin d a b p e) (fun i => if sx i ≤ sy i then x i else y i) ∧
   two (.vmax d a b p e) (fun i => if sx i ≤ sy i then y i else x i) ∧
   two (.vminn d a b p e) (fun i => if x i ≤ y i then x i else y i) ∧
   two (.vmaxn d a b p e) (fun i => if x i ≤ y i then y i else x i) ∧
   two (.vadds d a b p e) (fun i => clamp (sx i + sy i)) ∧
   two (.vaddsn d a b p e) (fun i => min (x i + y i) (2 ^ w - 1)) ∧
   two (.vsubs d a b p e) (fun i => clamp (sx i - sy i)) ∧
   two (.vsubsn d a b p e) (fun i => x i - y i) ∧
   one (.vabs d a p e) (fun i => (sx i).natAbs % 2 ^ w) ∧
   one (.vneg d a p e) (fun i => (2 ^ w - x i) % 2 ^ w) ∧
   one (.vclz d a p e) (fun i => if x i = 0 then w else w - 1 - Nat.log2 (x i)) ∧
   one (.vpopc d a p e) (fun i => ((List.range w).filter (x i).testBit).length)) ∧
  (∀ (d a b : BitVec 5) (p e : BitVec 3) (m : BitVec 1) (s : State),
   let w := widthOf e
   let x := s.elem a.toNat w
   let y : Nat := if m = 0 then (s.x b).toNat % 2 ^ w else (b.signExtend 64).toNat % 2 ^ w
   let n : Nat := (if m = 0 then (s.x b).toNat % 2 ^ w else b.toNat) % w
   let form (i : Instr) (f : Nat → Nat) : Prop :=
     s.Groups d w [(a, w)] → VectorResult s (exec i s) d.toNat w (s.active p) f 0
   form (.vaddVx d a b p e m) (fun i => (x i + y) % 2 ^ w) ∧
   form (.vsubVx d a b p e m) (fun i => (x i + (2 ^ w - y)) % 2 ^ w) ∧
   form (.vrsubVx d a b p e m) (fun i => (y + (2 ^ w - x i)) % 2 ^ w) ∧
   form (.vmulVx d a b p e m) (fun i => x i * y % 2 ^ w) ∧
   form (.vandVx d a b p e m) (fun i => x i &&& y) ∧
   form (.vorVx d a b p e m) (fun i => x i ||| y) ∧
   form (.vxorVx d a b p e m) (fun i => x i ^^^ y) ∧
   form (.vsllVx d a b p e m) (fun i => x i * 2 ^ n % 2 ^ w) ∧
   form (.vsrlVx d a b p e m) (fun i => x i / 2 ^ n) ∧
   form (.vsraVx d a b p e m) (fun i => wrap (signExtend (x i) w / 2 ^ n) w) ∧
   form (.vminVx d a b p e m) (fun i => if signExtend (x i) w ≤ signExtend y w then x i else y) ∧
   form (.vmaxVx d a b p e m) (fun i => if signExtend (x i) w ≤ signExtend y w then y else x i) ∧
   (s.VecReady (fun vl => groupsOk vl none [(a, w)]) →
     MaskResult s (exec (.vceqVx d a b p e m) s) d.toNat (s.active p) (fun i => x i == y) 0))

/-- R127, R130: a comparison writes the mask bits of the active elements and no other bit; a floating one that raises NV
for a NaN does so where NV is not enabled.

R144, R145: mask logic writes whole mask registers, m0 excepted; the read-outs count, test and find the set bits
below VL.

That mask logic and the read-outs leave VSTART as it was is the model's choice (log entry 46). -/
def Obligations.VectorMasksComplete : Prop :=
  (∀ (d a b : BitVec 5) (p e : BitVec 3) (s : State),
   let w := widthOf e
   let x := s.elem a.toNat w
   let y := s.elem b.toNat w
   let sx (i : Nat) : Int := signExtend (x i) w
   let sy (i : Nat) : Int := signExtend (y i) w
   let v (n : Nat) : Machine.Num := (fmtOf e.toNat).value n
   let nan (i : Nat) : Bool := (v (x i)).isNan || (v (y i)).isNan
   let int (i : Instr) (f : Nat → Bool) : Prop := MaskResult s (exec i s) d.toNat (s.active p) f 0
   let float (i : Instr) (nv : Bool) (f : Nat → Bool) : Prop :=
     let fl : Flags := if nv && (s.active p).any nan then flagNV else 0
     s.quiet fl → MaskResult s (exec i s) d.toNat (s.active p) f fl
   s.VecReady (fun vl => groupsOk vl none [(a, w), (b, w)]) →
   int (.vceq d a b p e) (fun i => x i == y i) ∧ int (.vcne d a b p e) (fun i => x i != y i) ∧
   int (.vclt d a b p e) (fun i => decide (sx i < sy i)) ∧ int (.vcle d a b p e) (fun i => decide (sx i ≤ sy i)) ∧
   int (.vcltn d a b p e) (fun i => decide (x i < y i)) ∧ int (.vclen d a b p e) (fun i => decide (x i ≤ y i)) ∧
   float (.vfceq d a b p e) false (fun i => (v (x i)).eq (v (y i))) ∧
   float (.vfclt d a b p e) true (fun i => (v (x i)).lt (v (y i))) ∧
   float (.vfcle d a b p e) true (fun i => (v (x i)).lt (v (y i)) || (v (x i)).eq (v (y i))) ∧
   float (.vfcun d a b p e) false nan) ∧
  (∀ (d a b : BitVec 5) (s : State), s.VecReady (fun _ => true) →
   let x := s.mreg a.toNat
   let y := s.mreg b.toNat
   let set := (List.range 256).filter fun i => decide (i < s.vlen) && x.getLsbD i
   let mask (i : Instr) (v : Mask) : Prop := exec i s = .next (s.setM d.toNat v).retire
   mask (.mand d a b) (x &&& y) ∧ mask (.mor d a b) (x ||| y) ∧ mask (.mxor d a b) (x ^^^ y) ∧
   mask (.mandn d a b) (x &&& ~~~y) ∧ mask (.mnot d a) (~~~x) ∧ mask (.mset d) (BitVec.allOnes 256) ∧ mask (.mclr d) 0 ∧
   exec (.mcnt d a) s = .next (s.doneX d (BitVec.ofNat 64 set.length)) ∧
   exec (.many d a) s = .next (s.doneX d (if set = [] then 0 else 1)) ∧
   exec (.mfirst d a) s = .next (s.doneX d (match set.head? with
     | some i => BitVec.ofNat 64 i
     | none => BitVec.allOnes 64)))

/-- R124, R128 to R130: a floating element-wise instruction whose active elements raise no enabled flag completes: each
active element is rounded once, and the flags of all are set together.

How exp2 and log2 reach the rounded result is log entry 45; when a vector instruction is performed, log entry 25. -/
def Obligations.VectorFloatComplete : Prop := ∀ (d a b : BitVec 5) (p e : BitVec 3) (s : State),
  let w := widthOf e
  let f := fmtOf e.toNat
  let x := s.elem a.toNat w
  let y := s.elem b.toNat w
  let z (i : Nat) : Machine.Num := f.value (s.elem d.toNat w i)
  let v (i : Nat) : Machine.Num := f.value (x i)
  let u (i : Nat) : Machine.Num := f.value (y i)
  let k : Machine.Num := f.value ((s.x b).toNat % 2 ^ w)
  let m := s.rm
  let two (i : Instr) (g : Nat → Nat × Flags) : Prop :=
    s.Groups d w [(a, w), (b, w)] → FloatResult s (exec i s) d.toNat w (s.active p) g
  let one (i : Instr) (g : Nat → Nat × Flags) : Prop :=
    s.Groups d w [(a, w)] → FloatResult s (exec i s) d.toNat w (s.active p) g
  two (.vfadd d a b p e) (fun i => f.sum m s.sat [v i, u i]) ∧
  two (.vfsub d a b p e) (fun i => f.sum m s.sat [v i, (u i).neg]) ∧
  two (.vfmul d a b p e) (fun i => f.prod m s.sat (v i) (u i)) ∧
  two (.vfdiv d a b p e) (fun i => f.quot m s.sat (v i) (u i)) ∧
  one (.vfsqrt d a p e) (fun i => f.root m s.sat (v i)) ∧
  two (.vfmin d a b p e) (fun i => (f.minMax false (x i) (y i), 0)) ∧
  two (.vfmax d a b p e) (fun i => (f.minMax true (x i) (y i), 0)) ∧
  two (.vfmac d a b p e) (fun i => f.fused m s.sat (z i) (v i) (u i) false) ∧
  two (.vfmsc d a b p e) (fun i => f.fused m s.sat (z i) (v i) (u i) true) ∧
  two (.vfnmac d a b p e) (fun i => f.fused m s.sat (z i).neg (v i) (u i) true) ∧
  one (.vfabs d a p e) (fun i => (f.withSign (x i) false, 0)) ∧
  one (.vfneg d a p e) (fun i => (f.withSign (x i) !(f.sign (x i)), 0)) ∧
  two (.vfsgmv d a b p e) (fun i => (f.withSign (x i) (f.sign (y i)), 0)) ∧
  one (.vfrecip d a p e) (fun i => f.quot m s.sat (.fin false 1 0) (v i)) ∧
  one (.vfrsqrt d a p e) (fun i => f.rsqrt m s.sat (v i)) ∧
  one (.vfexp2 d a p e) (fun i => f.exp2 m s.sat (v i)) ∧
  one (.vflog2 d a p e) (fun i => f.log2 m s.sat (v i)) ∧
  one (.vfkind d a p e) (fun i => (f.kind (x i), 0)) ∧
  one (.vfaddVx d a b p e) (fun i => f.sum m s.sat [v i, k]) ∧
  one (.vfmulVx d a b p e) (fun i => f.prod m s.sat (v i) k) ∧
  one (.vfmacVx d a b p e) (fun i => f.fused m s.sat (z i) (v i) k false)

/-- R102, R133, R135, R136: conversions between element types and packed formats, and mixed-width products. -/
def Obligations.VectorConversionsComplete : Prop :=
  ∀ (d a b : BitVec 5) (p e t : BitVec 3) (c : BitVec 2) (s : State),
  let w := widthOf e
  let pk := packedFmt c.toNat
  let f := fmtOf e.toNat
  (s.Groups d w [(a, widthOf t)] → FloatResult s (exec (.vcvt d a p e t) s) d.toNat w (s.active p)
    (fun i => convertElem e t s.rm s.sat (s.elem a.toNat (widthOf t) i))) ∧
  (s.Groups d f.width [(a, pk.width)] → FloatResult s (exec (.vcvtmWiden d a p e c) s) d.toNat f.width (s.active p)
    (fun i => pk.convert f s.rm s.sat (s.elem a.toNat pk.width i))) ∧
  (s.Groups d pk.width [(a, f.width)] → FloatResult s (exec (.vcvtmNarrow d a p e c) s) d.toNat pk.width (s.active p)
    (fun i => f.convert pk s.rm s.sat (s.elem a.toNat f.width i))) ∧
  (s.Groups d w [(a, w), (b, widthOf t)] → FloatResult s (exec (.vwmul d a b p e t) s) d.toNat w (s.active p) (fun i =>
    let x := s.elem a.toNat w i
    let y := s.elem b.toNat (widthOf t) i
    if e.toNat < 4 then (wrap (signExtend x w * signExtend y (widthOf t)) w, 0)
    else f.prod s.rm s.sat (f.value x) ((fmtOf t.toNat).value y)))

/-- R103, R134, R143: stochastic conversions and vrand draw element i's bits at position i of the generator, which then
advances past every position below VL where an element was active; from a generator that software has not seeded, they
set NDET, and need DET = 0. -/
def Obligations.RandomInstructionsComplete : Prop := ∀ (d a : BitVec 5) (p e t : BitVec 3) (s : State),
  let w := widthOf e
  let es := s.active p
  let free := bit s.h.rngctr 63 = false ∧ es ≠ []
  let q := max 1 (w / 16)
  let fcsr : Dword := if bit s.h.rngctr 63 = false ∧ es ≠ [] then setBits s.h.fcsr 9 1 1 else s.h.fcsr
  let ctr (n : Nat) : Dword := if es = [] then s.h.rngctr else setBits s.h.rngctr 0 63 (s.rngCtr + (n + 31) / 32)
  let r (i : Nat) : Nat × Flags :=
    (fmtOf e.toNat).stochastic s.sat (s.draw i) ((fmtOf t.toNat).value (s.elem a.toNat (widthOf t) i))
  let drawn (vs : Vector Vec 32) (n : Nat) : State :=
    { s with h := { s.h with v := vs, fcsr := fcsr, vstart := 0, rngctr := ctr n } }
  (free → bit s.h.fcsr 20 = false) →
  (s.Groups d w [(a, widthOf t)] → (∀ i ∈ es, s.quiet (r i).2) →
    ∃ vs, ElementsSet s.h.v vs d.toNat w es (fun i => (r i).1) ∧
      exec (.vcvtSr d a p e t) s = .next ((drawn vs s.vlen).setFlags (allFlags (es.map fun i => (r i).2))).retire) ∧
  (s.Groups d w [] → ∃ vs, ElementsSet s.h.v vs d.toNat w es
      (fun i => ((List.range q).map fun j => s.draw (q * i + j) * 2 ^ (16 * j)).sum) ∧
    exec (.vrand d p e) s = .next (drawn vs (q * s.vlen)).retire)

/-- R100, R137: a reduction completes where its root raises no enabled flag: element 0 of the destination register gets
the root of the fixed tree over the active elements, or the identity; every other bit stays.

R100, R101: over integers the fixed tree gives the plain sum modulo 2^w of the present leaves, and the plain
minimum and maximum, whatever leaves are absent. -/
def Obligations.ReductionsToElementComplete : Prop :=
  (∀ (d a : BitVec 5) (p e : BitVec 3) (s : State),
   let w := widthOf e
   let leaf (i : Nat) : Option Flagged :=
     if i < s.vlen ∧ (s.mreg p.toNat).getLsbD i = true then some (s.elem a.toNat w i, 0) else none
   let root (f : Nat → Nat → Flagged) (identity : Nat) : Flagged :=
     (treeRoot f 8 ((List.range 256).map leaf)).getD (identity, 0)
   let ends (i : Instr) (r : Flagged) : Prop :=
     s.VecReady (fun vl => oneOk vl d [(a, w)]) → s.quiet r.2 → VectorResult s (exec i s) d.toNat w [0] (fun _ => r.1) r.2
   ends (.vredsum d a p e) (root (sumOf e s) 0) ∧
   ends (.vredmin d a p e) (root (extremeOf e false) (extremeIdentity e false)) ∧
   ends (.vredmax d a p e) (root (extremeOf e true) (extremeIdentity e true)) ∧
   ends (.vredminn d a p e) (root (fun x y => (min x y, 0)) (2 ^ w - 1)) ∧
   ends (.vredmaxn d a p e) (root (fun x y => (max x y, 0)) 0) ∧
   ends (.vredand d a p e) (root (fun x y => (x &&& y, 0)) (2 ^ w - 1)) ∧
   ends (.vredor d a p e) (root (fun x y => (x ||| y, 0)) 0)) ∧
  (∀ (w : Nat) (l : List (Option Nat)), l.length = 256 →
   (∀ x, some x ∈ l → x < 2 ^ w) →
   let leaves : List (Option Flagged) := l.map fun x => x.map fun v => (v, 0)
   let present := l.filterMap id
   (treeRoot (fun x y => (elemAdd w x y, 0)) 8 leaves).getD (0, 0) = (present.sum % 2 ^ w, 0) ∧
   (treeRoot (fun x y => (min x y, 0)) 8 leaves).getD (2 ^ w - 1, 0) = (present.foldl min (2 ^ w - 1), 0) ∧
   (treeRoot (fun x y => (max x y, 0)) 8 leaves).getD (0, 0) = (present.foldl max 0, 0))

/-- R101, R138: a scan or segmented sum completes where no running sum raises an enabled flag; over integers, with
VSTART 0, each active element of a scan becomes the sum of the active elements up to it. -/
def Obligations.ScansComplete : Prop := ∀ (d a b : BitVec 5) (p e : BitVec 3) (s : State),
  let w := widthOf e
  let x := s.elem a.toNat w
  let es := s.active p
  let before := (s.activeFrom 0 p).filter fun i => decide (i < s.vstartN)
  let rs (heads : Nat → Bool) : List ElemResult := scanFrom heads es.contains x (sumOf e s) s.vstartN
    (List.range s.vlen) (before.getLast?.map fun i => s.elem d.toNat w i) false
  let ends (i : Instr) (rs : List ElemResult) : Prop := (∀ r ∈ rs, s.quiet r.flags) →
    VectorResult s (exec i s) d.toNat w (rs.map fun r => r.e)
      (fun i => ((rs.find? fun r => r.e == i).map fun r => r.value).getD 0) (allFlags (rs.map fun r => r.flags))
  s.Groups d w [(a, w)] →
  ends (.vscan d a p e) (rs fun _ => false) ∧
  ends (.vsegsum d a b p e) (rs fun i => (s.mreg b.toNat).getLsbD i) ∧
  (e.toNat < 4 → s.vstartN = 0 → VectorResult s (exec (.vscan d a p e) s) d.toNat w es
    (fun i => ((es.filter fun j => decide (j ≤ i)).map x).sum % 2 ^ w) 0)

/-- R132, R139 to R142: selections, permutes and moves between elements, and between an element and an x register.

That vmvx clears VSTART, which R142 says of vmvv, is the model's reading of R36 (log entry 46). -/
def Obligations.VectorMovesComplete : Prop := ∀ (d a b : BitVec 5) (p e : BitVec 3) (s : State),
  let w := widthOf e
  let x := s.elem a.toNat w
  let at_ (i : Int) : Nat := if 0 ≤ i ∧ i < s.vlen then x i.toNat else 0
  let all := s.activeFrom 0 p
  let packed := all.map x
  let k := (s.x b).toNat
  (s.Groups d w [(a, w), (b, w)] → VectorResult s (exec (.vmerge d a b p e) s) d.toNat w
    ((List.range (min s.vlen 256)).filter fun i => decide (s.vstartN ≤ i))
    (fun i => if (s.mreg p.toNat).getLsbD i then x i else s.elem b.toNat w i) 0) ∧
  (s.Groups d w [(a, w), (b, 32)] → VectorResult s (exec (.vperm d a b p e) s) d.toNat w all
    (fun i => at_ (s.elem b.toNat 32 i)) 0) ∧
  (s.Groups d w [(a, w)] →
    VectorResult s (exec (.velsh d a b p e) s) d.toNat w all (fun i => at_ (i - (s.x b).toInt)) 0 ∧
    VectorResult s (exec (.velrot d a b p e) s) d.toNat w all (fun i => x ((i - (s.x b).toInt) % s.vlen).toNat) 0 ∧
    VectorResult s (exec (.vsqueeze d a p e) s) d.toNat w (List.range s.vlen) (fun i => packed.getD i 0) 0) ∧
  (s.Groups d w [] →
    VectorResult s (exec (.vbcast d a p e) s) d.toNat w (s.active p) (fun _ => (s.x a).toNat % 2 ^ w) 0 ∧
    VectorResult s (exec (.vindex d a b p e) s) d.toNat w (s.active p) (fun i => ((s.x a).toNat + i * k) % 2 ^ w) 0) ∧
  (s.VecReady (fun vl => groupsOk vl none [(a, w)]) →
    let v := if k < s.vlen then x k else 0
    exec (.vmvx d a b e) s = .next ((s.setX d
      (if e.toNat < 4 then BitVec.ofInt 64 (signExtend v w) else BitVec.ofNat 64 v)).clearVstart).retire) ∧
  (s.VecReady (fun vl => groupsOk vl none [(d, w)]) →
    VectorResult s (exec (.vmvv d a b e) s) d.toNat w (if k < s.vlen then [k] else []) (fun _ => (s.x a).toNat % 2 ^ w) 0)

/-- R122, R222, R224, R225, R229, R235: a vector load or store, timed or ordered, completes once all its active elements
have passed their checks and each has been moved or sent in ascending order; then VSTART is 0. Behind other entries of the
VDQ, or an outstanding vector load, it passes into the VDQ with what it captured, and retires so (R14, R40).

That the elements move in the step in which the instruction is at its turn, where the agenda does not have them move one by
one, is the model's choice (log entries 21 and 25).

R226: vappend with no active element only ends; else it adds the bytes to the pointer and stores the active
elements one after the other from its old value, where that is aligned and leaves room in the window.

R106, R233, R234: a vector atomic whose elements are performed within the die completes once each active element has
been performed in ascending order, with old values in its elements; one whose elements are sent retires with them on
their way. A return-free one completes once each has been sent. The flags of all are set together, and a floating form
with an active element sets NDET.

That a return-free one does not wait for its reports is the model's reading (log entry 65). -/
def Obligations.VectorMemoryCompletes : Prop :=
  (∀ (d a b : BitVec 5) (o : BitVec 11) (p e : BitVec 3) (h : BitVec 2) (k : BitVec 4) (f : BitVec 5) (s t : State),
   let w := widthOf e
   let n := w / 8
   let v := s.x a + o.signExtend 64 * BitVec.ofNat 64 n
   let u (p : BitVec 3) : State := if p = 0 then s else s.acquireMask p.toNat
   let load (i : Instr) (p : BitVec 3) (src : List (BitVec 5 × Nat)) (w : Nat) (chk : Nat → M Unit)
       (m : Nat → Nat → M Unit) : Prop :=
     (s.Groups d w src → s.h.sb = [] → Ends (vecElems chk (m s.seen) (s.active p)) (u p) none t →
       exec i s = .next t.endElems.retire) ∧
     (s.VecQueues (fun vl => groupsOk vl (some (d, w)) src) → ∃ word, exec i s = .next (s.inVdq word false))
   let store (i : Instr) (p : BitVec 3) (src : List (BitVec 5 × Nat)) (w : Nat) (chk : Nat → M Unit)
       (m : Nat → Nat → M Unit) : Prop :=
     (s.VecReady (fun vl => groupsOk vl none ((d, w) :: src)) → s.h.sb = [] →
       Ends (vecElems chk (m s.seen) (s.active p)) s none t → exec i s = .next t.endElems.retire) ∧
     (s.VecQueues (fun vl => groupsOk vl none ((d, w) :: src)) → ∃ word, exec i s = .next (s.inVdq word false))
   let ld (i : Instr) (p : BitVec 3) (src : List (BitVec 5 × Nat)) (addr : Nat → Dword) : Prop :=
     load i p src w (checkElem .load 0x06 addr n) (loadElem d.toNat w addr)
   let st (i : Instr) (p : BitVec 3) (src : List (BitVec 5 × Nat)) (addr : Nat → Dword) : Prop :=
     store i p src w (checkElem .store 0x07 addr n) (storeElem d.toNat w addr)
   let x := s.x a
   let time (want : Want) (cause : Nat) (i : Nat) : M Unit := checkTimed want cause w (contiguous x n i)
   ld (.vld d a o e h) 0 [] (contiguous v n) ∧ ld (.vlds d a b p e) p [] (strided x (s.x b)) ∧
   ld (.vldx d a b p e) p [(b, 32)] (s.indexed x b) ∧
   (e ≠ 4 → ld (.vldm d a p e) p [] (contiguous x n)) ∧
   (e = 4 → load (.vldm d a p e) p [] 4 (checkElem .load 0x06 (nibbleAddr x) 1) (loadNibble d.toNat x)) ∧
   load (.vldNb d a b p e) p [] w (time .load 0x06) (sendLoadElem d.toNat w x (s.x b)) ∧
   st (.vst d a o e h) 0 [] (contiguous v n) ∧ st (.vsts d a b p e) p [] (strided x (s.x b)) ∧
   st (.vstx d a b p e) p [(b, 32)] (s.indexed x b) ∧
   (e ≠ 4 → st (.vstm d a p e) p [] (contiguous x n)) ∧
   (e = 4 → store (.vstm d a p e) p [] 4 (checkElem .store 0x07 (nibbleAddr x) 1) (storeNibble d.toNat x)) ∧
   store (.vstAt d a b p e k) p [] w (time .store 0x07) (sendStoreElem d.toNat w k.toNat x (s.x b)) ∧
   store (.vredOrdAdd d a b p e f) p [] w (time .atomic 0x08)
     (sendReduceElem (s.vecAtomicOp 1 e) (f.toNat - 0x11) d.toNat x (s.x b))) ∧
  (∀ (d a : BitVec 5) (p e : BitVec 3) (s : State),
   let w := widthOf e
   let es := s.active p
   let ptr := s.x a
   let bytes := es.length * (w / 8)
   s.VecReady (fun vl => groupsOk vl none [(d, w)]) → s.h.sb = [] →
   (es = [] → exec (.vappend d a p e) s = .next s.clearVstart.retire) ∧
   (∀ lo hi old fl t u, es ≠ [] → s.h.amid = none → ptr.toNat % 8 = 0 → windowEnd s.h (s.gang? s.h.gang) ptr.toNat = some (lo, hi) →
     Ends (atomic ⟨1, false, 64, false, 0, false⟩ ptr ptr.toNat bytes 0) s (old, fl) t → old % (w / 8) = 0 → lo ≤ old →
     old + bytes ≤ hi → Ends (appendElems d.toNat w s.seen (BitVec.ofNat 64 old) 0 es) t () u →
     exec (.vappend d a p e) s = .next u.endElems.retire)) ∧
  (∀ (d a b : BitVec 5) (p e : BitVec 3) (s t : State) (fl : Flags),
   let w := widthOf e
   let es := s.active p
   let nd := 4 ≤ e.toNat ∧ es ≠ []
   let u : State := if nd then s.ndet else s
   let addr := s.indexed (s.x a) b
   let amo (i : Instr) (op : Nat) : Prop := s.Groups d w [(b, 32)] →
     let o := s.vecAtomicOp op e
     Ends (atomicElems o false addr (amoElem o d.toNat addr) es) u (fl, none) t →
     (t.h.waitTags = [] → t.h.waitTrap = none → t.quiet fl → exec i s = .next (t.endElems.setFlags fl).retire) ∧
     (t.h.waitTags ≠ [] → ∃ v, exec i s = .next v ∧ v.mem = t.mem ∧ v.pkg = t.pkg ∧ v.h.pc = t.h.pc + 4 ∧
       v.h.waitTags = t.h.waitTags ∧ v.h.waitFlags = fl ∧ v.h.v = t.h.v)
   let red (i : Instr) (op : Nat) : Prop := s.VecReady (fun vl => groupsOk vl none [(d, w), (b, 32)]) →
     let o := s.vecAtomicOp op e
     Ends (atomicElems o true addr (redElem o d.toNat addr) es) u (fl, none) t → exec i s = .next t.endElems.retire
   s.h.sb = [] → (nd → bit s.h.fcsr 20 = false) →
   amo (.vamoswap d a b p e) 0 ∧ amo (.vamoadd d a b p e) 1 ∧ amo (.vamoand d a b p e) 2 ∧ amo (.vamoor d a b p e) 3 ∧
   amo (.vamoxor d a b p e) 4 ∧ amo (.vamomin d a b p e) 5 ∧ amo (.vamomax d a b p e) 6 ∧ amo (.vamominn d a b p e) 7 ∧
   amo (.vamomaxn d a b p e) 8 ∧
   red (.vredaddIdx d a b p e) 1 ∧ red (.vredandIdx d a b p e) 2 ∧ red (.vredorIdx d a b p e) 3 ∧
   red (.vredxorIdx d a b p e) 4 ∧ red (.vredminIdx d a b p e) 5 ∧ red (.vredmaxIdx d a b p e) 6 ∧
   red (.vredminnIdx d a b p e) 7 ∧ red (.vredmaxnIdx d a b p e) 8)

/-- R216, R224: a contiguous vector load from the hart's own private scratchpad, within a granule that is the hart's
already, puts each element's bytes in its element, and changes no byte of memory.

That the elements move in the step that issues the load is the model's choice (log entries 21 and 25).

R216, R222, R224: a contiguous vector store there changes exactly the bytes of its active elements, in the step that
issues it (log entries 21 and 25). -/
def Obligations.VectorScratchpadIsAccessed : Prop :=
  (∀ (d a : BitVec 5) (o : BitVec 11) (e : BitVec 3) (h : BitVec 2) (s : State),
   let n := widthOf e / 8
   let va := s.x a + o.signExtend 64 * BitVec.ofNat 64 n
   let off := va.toNat - windowBase
   let loc := privLoc s.core.id off
   s.Groups d (widthOf e) [] → s.h.sb = [] → s.mine s.h.ident = [] → va.toNat % n = 0 → windowBase ≤ va.toNat →
   off % 4096 + n * s.vlen ≤ 4096 → va.toNat + n * s.vlen ≤ windowBase + privateSize → s.vlen ≤ 256 →
   tableGet s.core.tags (off / 4096) = some s.h.tag → s.pkg.held? loc n = false → s.pkg.pending = [] → s.pkg.poison = [] →
   s.h.ahead = false → s.pkg.l1bad = [] →
   ∃ t, exec (.vld d a o e h) s = .next t ∧ t.mem = s.mem ∧ t.h.x = s.h.x ∧ t.h.m = s.h.m ∧ t.h.fcsr = s.h.fcsr ∧
     t.h.pc = s.h.pc + 4 ∧ t.h.vstart = 0 ∧
     ElementsSet s.h.v t.h.v d.toNat (widthOf e) (s.active 0) (fun i => natOf (s.getBytes (loc + n * i) n))) ∧
  (∀ (d a : BitVec 5) (o : BitVec 11) (e : BitVec 3) (h : BitVec 2) (s : State),
   let n := widthOf e / 8
   let va := s.x a + o.signExtend 64 * BitVec.ofNat 64 n
   let off := va.toNat - windowBase
   let loc := privLoc s.core.id off
   s.VecReady (fun vl => groupsOk vl none [(d, widthOf e)]) → s.h.sb = [] → s.mine s.h.ident = [] → va.toNat % n = 0 →
   windowBase ≤ va.toNat → off % 4096 + n * s.vlen ≤ 4096 → va.toNat + n * s.vlen ≤ windowBase + privateSize →
   s.vlen ≤ 256 → tableGet s.core.tags (off / 4096) = some s.h.tag → s.pkg.held? loc n = false → s.pkg.pending = [] →
   s.here → s.h.armed = [] → s.h.ahead = false → s.h.pubs = Vector.replicate 16 none → Memory.wf s.mem = true →
   ∃ t, exec (.vst d a o e h) s = .next t ∧ t.h.x = s.h.x ∧ t.h.v = s.h.v ∧ t.h.m = s.h.m ∧ t.h.fcsr = s.h.fcsr ∧
     t.h.pc = s.h.pc + 4 ∧ t.h.vstart = 0 ∧
     (∀ i ∈ s.active 0, t.getBytes (loc + n * i) n = bytesOf n (s.elem d.toNat (widthOf e) i)) ∧
     (∀ l, (∀ i ∈ s.active 0, l < loc + n * i ∨ loc + n * i + n ≤ l) → Memory.get t.mem l = Memory.get s.mem l))

/-! ### Matrix instructions -/

/-- R149 to R155, R159, R164: an outer product completes where no row from the pending restart on raises an enabled
flag: each cell of a selected row and column below MVL and MVC becomes the sum of itself and its products, rounded
once; the tile is live afterwards, and every other cell and register stays.

That all rows are done in the step that issues the instruction is the model's choice (log entry 25).

R99, R152: what a row of mop holds: for each selected column below MVC, the rounding in RNE to FP32 of the exact sum
of the cell and the products of the elements of pack i of A and pack j of B. -/
def Obligations.OuterProductsComplete : Prop :=
  (∀ (t u : BitVec 3) (y : BitVec 2) (a b : BitVec 5) (r c : BitVec 3) (f : BitVec 5) (s : State), s.AccReady →
   let fa := (matrixFmt f.toNat).1
   let fb := (matrixFmt f.toNat).2.1
   let k := (matrixFmt f.toNat).2.2
   let pa := densePack fa k (s.vreg a.toNat)
   let pb := densePack fb k (s.vreg b.toNat)
   let sp := sparsePack fa k (s.vreg a.toNat) (s.vreg (a.toNat + 1))
   let sa := packScale (s.vreg (a.toNat + 1)) k
   let sb := packScale (s.vreg (b.toNat + 1)) k
   let ends (i : Instr) (row : State → Nat → Option RowResult) : Prop :=
     SlicedResult s (exec i s) t.toNat s.sliceRows (row s)
   ends (.mop t a b r c f) (outerRow t.toNat false r c pa pb noScale noScale) ∧
   ends (.mops t a b r c f) (outerRow t.toNat true r c pa pb noScale noScale) ∧
   ends (.mopx t a b r c f) (outerRow t.toNat false r c pa pb sa sb) ∧
   ends (.mopxs t a b r c f) (outerRow t.toNat true r c pa pb sa sb) ∧
   ends (.mopsp t a b r c f) (outerRow t.toNat false r c sp pb noScale noScale) ∧
   ends (.accadd t y u) (addRow t u y)) ∧
  (∀ (t : BitVec 3) (a b : BitVec 5) (r c : BitVec 3) (f : BitVec 5) (s : State) (i : Nat),
   let fa := (matrixFmt f.toNat).1
   let fb := (matrixFmt f.toNat).2.1
   let k := (matrixFmt f.toNat).2.2
   let x (kk : Nat) : Machine.Num := fa.value (packElem (s.vreg a.toNat) k i kk)
   let y (j kk : Nat) : Machine.Num := fb.value (packElem (s.vreg b.toNat) k j kk)
   let row := outerRow t.toNat false r c (densePack fa k (s.vreg a.toNat)) (densePack fb k (s.vreg b.toNat))
     noScale noScale s i
   ((s.mreg r.toNat).getLsbD i = false → row = none) ∧
   ((s.mreg r.toNat).getLsbD i = true → ∃ cs, row = some cs ∧
     cs.map (fun e => e.1) = (List.range s.mvcN).filter (fun j => (s.mreg c.toNat).getLsbD j) ∧
     ∀ e ∈ cs, e.2.1 = (Fmt.f32.sum 0 s.sat (Fmt.f32.value (s.core.cell t.toNat i e.1) ::
       (List.range k).map fun kk => (((x kk).mul (y e.1 kk)).1.scale 0))).1))

/-- R99, R154: mopi adds the four products of signed or natural bytes to each selected cell modulo 2^32, mopi.sat clamps
the sum; every row below MVL is done, no flag is raised, and neither ever traps on its operands.

That a restart pending at mopi is ended by it is the model's reading (log entry 58). -/
def Obligations.IntegerOuterProductsComplete : Prop :=
  ∀ (t : BitVec 3) (a b : BitVec 5) (r c : BitVec 3) (f : BitVec 5) (s : State), s.AccReady →
  let na := f = 9 ∨ f = 11
  let nb := f = 9 ∨ f = 10
  let byte (v : Vec) (n : Nat) : Nat := v.toNat / 2 ^ (8 * n) % 256
  let x (i kk : Nat) : Int := if na then (byte (s.vreg a.toNat) (4 * i + kk) : Int)
    else signExtend (byte (s.vreg a.toNat) (4 * i + kk)) 8
  let y (j kk : Nat) : Int := if nb then (byte (s.vreg b.toNat) (4 * j + kk) : Int)
    else signExtend (byte (s.vreg b.toNat) (4 * j + kk)) 8
  let sum (i j : Nat) : Int := signExtend (s.core.cell t.toNat i j) 32 + x i 0 * y j 0 + x i 1 * y j 1 + x i 2 * y j 2 +
    x i 3 * y j 3
  let chosen (i j : Nat) : Prop := i < s.mvlN ∧ j < s.mvcN ∧ (s.mreg r.toNat).getLsbD i = true ∧
    (s.mreg c.toNat).getLsbD j = true
  let ends (o : Out) (g : Int → Int) : Prop := ∃ (k : Core) (re : Option Nat),
    o = .next ({ s with core := k, h := { s.h with restart := re } } : State).retire ∧
    k.acclive = setBits s.core.acclive t.toNat 1 1 ∧
    (∀ i < 32, ∀ j < 32, (chosen i j → signExtend (k.cell t.toNat i j) 32 = g (sum i j)) ∧
      (¬chosen i j → k.cell t.toNat i j = s.core.cell t.toNat i j)) ∧
    (∀ n, n ≠ t.toNat → k.tiles.getD n (Vector.replicate 32 0) = s.core.tiles.getD n (Vector.replicate 32 0)) ∧
    ({ k with tiles := s.core.tiles, acclive := s.core.acclive } : Core) = s.core
  ends (exec (.mopi t a b r c f) s) (fun n => (n + 2 ^ 31) % 2 ^ 32 - 2 ^ 31) ∧
  ends (exec (.mopiSat t a b r c f) s) (fun n => max (-2 ^ 31) (min (2 ^ 31 - 1) n))

/-- R146, R157 to R161: the accumulator moves complete for the accumulators' owner, with the effect stated. accld, accst,
accsave and accrest pass into the VDQ where their address is aligned and it has room, accld and accrest with the store
buffer empty and the rows that they are known to read checked. At its head accst and accsave place their stores of eight
bytes in the store buffer as it has room, each one entry, and accld and accrest read one row after the other and change
the tiles once all have been read.

When each of them goes on at the head is the model's choice (log entries 25 and 26), and so is when accld and accrest check
their rows, and that the scalar pipeline issues nothing past one of which a read might trap (log entry 93). -/
def Obligations.AccumulatorMovesComplete : Prop :=
  ∀ (t u : BitVec 3) (y : BitVec 2) (d a b c x : BitVec 5) (s : State), s.OwnsAcc →
  let i := (s.x b).toNat % 32
  let va := s.x a
  let field (n k : Nat) : Nat := n * 2 ^ k
  let enters (i : Instr) (al word : Nat) : Prop := va.toNat % al = 0 → s.h.head = none → s.h.vdq.length < 32 →
    exec i s = .next (s.inVdq word false)
  let gathers (i : Instr) (al word : Nat) (rows : List Dword) (waits : Bool) : Prop :=
    va.toNat % al = 0 → s.h.head = none → s.h.sb = [] → s.h.placing = false →
    (∀ held u, Ends (rowsMayTrap rows) s held u → u.h.vdq.length < 32 → exec i s = .next (u.inVdq word (held || waits))) ∧
    (s.h.vdq.length < 32 → s.pkg.poison = [] →
      (∀ r ∈ rows, ∃ p, windowOf s.h (s.gang? s.h.gang) r.toNat = .spot p) → exec i s = .next (s.inVdq word waits))
  let at_ (w : State) (done : Nat) (rows : List Vec) : State :=
    { w with h := { w.h with head := w.h.head.map fun e => { e with done := done, rows := rows } } }
  let live := bits s.core.acclive 0 8
  let unit (tile i : Nat) : Nat := (s.core.row tile (i / 16)).toNat / 2 ^ (64 * (i % 16)) % 2 ^ 64
  let places (i : Instr) (n : Nat) (store : Nat → Dword × Nat) : Prop := ∀ q, s.h.head = some q → q.done < n →
    s.h.sb.length < 32 →
    let done := q.done
    let k := min (n - done) (32 - s.h.sb.length)
    let w := (List.range k).foldl (fun w i =>
      w.pushStore (store (done + i)).1 8 (BitVec.ofNat 64 (store (done + i)).2) .plain) s
    exec i s = .next (if done + k < n then at_ w (done + k) [] else w.retire)
  let rowsHere : Prop := ∀ e ∈ s.h.pend, ∀ r k, e.2 ≠ .tile r k
  (s.AccReady →
    TilesResult s (exec (.acczero t) s) (fun k => { k with acclive := setBits k.acclive t.toNat 1 0 }) ∧
    exec (.accrd t d b) s = .next (s.setV d.toNat (s.core.row t.toNat i)).retire ∧
    TilesResult s (exec (.accwr t a b) s) (fun k => k.putRow t.toNat i (s.vreg a.toNat)) ∧
    TilesResult s (exec (.accmov t u) s) (fun k => { k.makeLive t.toNat with
      tiles := k.tiles.setIfInBounds t.toNat (Vector.ofFn fun j : Fin 32 => k.row u.toNat j.val) }) ∧
    (let g := promoteFmt y
     let one (j : Nat) : Nat × Flags := if j < s.mvcN ∧ s.core.live t.toNat = true then
         let p := productOf3 (Fmt.f32.value (s.core.cell t.toNat (bits (s.x x) 32 5) j))
           (Fmt.f32.value ((s.x x).toNat % 2 ^ 32)) (Fmt.f32.value (s.elem c.toNat 32 j))
         ((g.round 0 s.sat p.1).1, p.2 ||| (g.round 0 s.sat p.1).2)
       else (0, 0)
     let fl := allFlags ((List.range 32).map fun j => (one j).2)
     s.quietM fl →
       ∃ vs, exec (.accpro t y d c x) s = .next (({ s with h := { s.h with v := vs } } : State).setFlags fl).retire ∧
         ElementsSet s.h.v vs d.toNat g.width (List.range 32) (fun j => (one j).1))) ∧
  gathers (.accld t a) 128 (0xAC000004 + field t.toNat 23 + field a.toNat 16)
    ((List.range 32).map fun i => va + BitVec.ofNat 64 (128 * i)) false ∧
  gathers (.accrest a) 4096 (0xAC000009 + field a.toNat 16) [va + 0x8000] true ∧
  enters (.accst t a) 128 (0xAC000005 + field t.toNat 23 + field a.toNat 16) ∧
  enters (.accsave a) 4096 (0xAC000008 + field a.toNat 16) ∧
  places (.accst t a) 512 (fun i => (va + BitVec.ofNat 64 (8 * i), unit t.toNat i)) ∧
  places (.accsave a) (1 + 512 * (onesOf live 8).length) (fun i =>
    if i = 0 then (va + 0x8000, live)
    else
      let k := (onesOf live 8).getD ((i - 1) / 512) 0
      (va + BitVec.ofNat 64 (4096 * k) + BitVec.ofNat 64 (8 * ((i - 1) % 512)), unit k ((i - 1) % 512))) ∧
  (∀ q, s.h.head = some q → let rows := q.rows
    (∀ row w, q.done < 32 → Ends (readRow q.done (va + BitVec.ofNat 64 (128 * q.done)) 16) s row w →
      exec (.accld t a) s = .next (at_ w (q.done + 1) (rows ++ [row]))) ∧
    (q.done = 32 → rowsHere →
      exec (.accld t a) s = .next ({ s with core := s.core.putTile t.toNat rows } : State).retire) ∧
    (∀ row w, q.done = 0 → Ends (readRow 0 (va + 0x8000) 1) s row w → exec (.accrest a) s = .next (at_ w 1 [row])) ∧
    (let named := (rows.getD 0 0).toNat % 256
     let ts := onesOf named 8
     let at_row (k : Nat) : Dword := va + BitVec.ofNat 64 (4096 * ts.getD (k / 32) 0) + BitVec.ofNat 64 (128 * (k % 32))
     let checked (u : State) : Prop :=
       if q.done = 1 then ∃ v held, Ends (rowsMayTrap ((List.range (32 * ts.length)).map at_row)) s held v ∧
         let holds := v.holdsIssue (0xAC000009 + field a.toNat 16) || held
         u = { v with h := { v.h with head := v.h.head.map fun e => { e with holds := holds } } }
       else u = s
     0 < q.done → rowsHere →
     ∀ u, checked u →
     (∀ row w, q.done ≤ 32 * ts.length → Ends (readRow q.done (at_row (q.done - 1)) 16) u row w →
       exec (.accrest a) s = .next (at_ w (q.done + 1) (rows ++ [row]))) ∧
     (32 * ts.length < q.done → exec (.accrest a) s = .next ({ u with core :=
       { (List.range ts.length).foldl (fun k i => k.putTile (ts.getD i 0) ((rows.drop (1 + 32 * i)).take 32)) u.core with
         acclive := BitVec.ofNat 64 named } } : State).retire)))

/-! ### Events: messages, timed accesses, barriers, queues, harts, copies -/

/-- R188, R189, R197, R201, R231, R278, R314: a message in its pair's order whose home admits it and is free is performed
there: a read answers with the bytes found, a write leaves its bytes, a store of a nibble its byte, an atomic and a reduction
change theirs and answer, a join counts down, a batch of updates is written into the subscriber's copy; one for a scratchpad
finds its bytes wherever they lie by then. The message is off the way, and an acknowledgement that its hart waits for is
sent.

What a read notes for later fences, and what a release leaves, are the model's clocks (log entry 29).

R369: an access that its home does not admit changes no byte: a read of another package is answered with its refusal,
and a write of one leaves a TENANT_DROP event alone. R189: a message that must wait for an earlier one stays.

R33, R228, R230, R251: a response reaches its hart, after the miss that it reports, while no miss of a later key was
taken in the same cycle, and not before what the hart's own instruction does in the same cycle: a load writes its
destination and is no longer owed, flags are or-ed into FCSR, poison is kept for its report. -/
def Obligations.MessagesArePerformed : Prop :=
  (∀ (k : Nat) (m : Msg) (s w t v : State),
   s.pkg.net[k]? = some m → s.inOrder k m = true → s.noPulls →
   let u (loc : Nat) : State := if m.owner = 0 ∧ loc < 2 ^ 56 then (s.unsend k).keepTenant (dieOfHome (homeOf loc)) m.tid.toNat
     else s.unsend k
   let free (loc n : Nat) : Prop := s.admits m.tid.toNat m.secure loc = true ∧ s.pkg.held? loc n = false
   let from_ (s : State) (p : Pkg) : State := { s with pkg := p }
   let noted (key n : Nat) (x : State) : Option State := x.onHart m.owner (Hart.noted (s.pkg.releasesAt key n))
   let ends (i : Instr) : Prop :=
     Ends (settleOwner m.owner) { w with pkg := w.pkg.acknowledge m } () t → exec i s = .next t
   (m.spot = none →
     (∀ key n dest tag, m.body = .read key n dest tag → free key n → s.pkg.poisoned key n = false → m.rels = [] →
       s.pkg.racesFor m key = false →
       noted key n (from_ (u key) ((u key).pkg.replyTo m (.load tag (natOf (s.getBytes key n)) dest []))) = some w →
       ends (.evRead k)) ∧
     (∀ loc bs, bs ≠ [] → m.body = .write (cellsOf loc bs) → free loc bs.length → s.pkg.racesFor m loc = false →
       let x := (u loc).writeCells (cellsOf loc bs)
       w = { x with pkg := (x.pkg.markFor m loc).leaveFor m loc bs.length } →
       ends (.evWrite k) ∧ (Memory.wf s.mem = true → w.getBytes loc bs.length = bs ∧
         ∀ l, l < loc ∨ loc + bs.length ≤ l → Memory.get w.mem l = Memory.get s.mem l)) ∧
     (∀ op key v e dest tag, m.body = .atomic op key v e dest tag → free key (op.width / 8) →
       s.pkg.poisoned key (op.width / 8) = false →
       let old := natOf (s.getBytes key (op.width / 8))
       let r := op.apply old v e
       let x := (u key).putBytes key (bytesOf (op.width / 8) r.1)
       noted key (op.width / 8)
         { x with pkg := (x.pkg.leaveFor m key (op.width / 8)).replyTo m (.amo tag old dest r.2) } = some w →
       ends (.evAtomic k))) ∧
   (∀ key hi n, m.body = .nibble key hi n → free key 1 → s.pkg.racesFor m key = false →
     let x := (u key).writeHome key (mergeNibble (s.getBytes key 1) hi n)
     w = { x with pkg := (x.pkg.markFor m key).leaveFor m key 1 } → ends (.evWrite k)) ∧
   (∀ p, m.spot = some p → Ends (awaitSpot p) s () s →
     (∀ key n dest tag bs, m.body = .read key n dest tag → m.rels = [] → Ends (readSpot p n) (s.unsend k) (bs, false) v →
       (from_ v (v.pkg.replyTo m (.load tag (natOf bs) dest []))).onHart m.owner
         (Hart.noted ((s.unsend k).spotReleases p n)) = some w → ends (.evRead k)) ∧
     (∀ loc bs, bs ≠ [] → m.body = .write (cellsOf loc bs) → Ends (writeSpot p bs false) (s.unsend k) () v →
       (from_ v ((v.spotLocs p).foldl (fun q l => q.leaveFor m l bs.length) v.pkg)).forwardSpot m.owner p bs false = some w →
       ends (.evWrite k)) ∧
     (∀ op key x e dest tag, m.body = .atomic op key x e dest tag →
       Ends (atomicSpot m p op x e dest tag) (s.unsend k) () w → ends (.evAtomic k))) ∧
   (∀ e es, m.body = .reduce (e :: es) → free e.key (e.op.width / 8) →
     (∀ x ∈ es, s.pkg.held? x.key (x.op.width / 8) = false) →
     let r := (e :: es).foldl (State.reduceElem m) (u e.key, 0)
     w = { r.1 with pkg := r.1.pkg.replyTo m (.flags r.2) } → ends (.evReduce k)) ∧
   (∀ loc tag, m.body = .join loc tag → free loc 16 → s.pkg.held? (loc + 64) 64 = false → (u loc).joinPoison loc = none →
     (u loc).joinAt m.tid.toNat m.secure loc m.clock = some v →
     w = { v with pkg := v.pkg.replyTo m (.done (some tag)) } → ends (.evJoinApply k)) ∧
   (∀ id entry bytes bad h e, m.body = .update id entry bytes bad → s.hart? id = some h →
     h.subs.getD entry none = some e →
     (∀ c, s.coreOf id = some c → s.pkg.tenantOf (clusterOfCore c / 48) (clusterOfCore c % 48) = m.tid.toNat) →
     Ends ((updateRuns bad bytes).forM fun r => do
       awaitSpot (h.spot e.cluster (e.off + r.1))
       writeSpot (h.spot e.cluster (e.off + r.1)) r.2.2 r.2.1) (s.unsend k) () w →
     Ends (settleOwner m.owner) w () t → Ends (settleOwner id) t () v → exec (.evSubscriptionUpdate k) s = .next v)) ∧
  (∀ (k : Nat) (m : Msg) (s : State),
   s.pkg.net[k]? = some m →
   let u := s.unsend k
   (m.owner = 0 → m.spot = none → m.ack = none → s.inOrder k m = true →
     (∀ key n dest tag, m.body = .read key n dest tag → s.admits m.tid.toNat m.secure key = false →
       exec (.evRead k) s = .next { u with pkg := u.pkg.replyTo m (.refused m.va (some tag)) }) ∧
     (∀ loc bs, bs ≠ [] → m.body = .write (cellsOf loc bs) → s.admits m.tid.toNat m.secure loc = false →
       exec (.evWrite k) s = .next { u with
         pkg := u.pkg.tenantDrop (dieOfHome (homeOf loc)) (sourceOf loc) m.tid.toNat (u.pkg.addressOf loc) })) ∧
   (s.inOrder k m = false →
     (∀ key n dest tag, m.body = .read key n dest tag → exec (.evRead k) s = .next s) ∧
     (∀ cells, m.body = .write cells → exec (.evWrite k) s = .next s) ∧
     (∀ key hi v, m.body = .nibble key hi v → exec (.evWrite k) s = .next s) ∧
     (∀ op key v e dest tag, m.body = .atomic op key v e dest tag → exec (.evAtomic k) s = .next s) ∧
     (∀ e es, m.body = .reduce (e :: es) → exec (.evReduce k) s = .next s))) ∧
  ((∀ (k : Nat) (r : Resp) (s v w t : State), s.pkg.resps[k]? = some r →
     (∀ c, s.coreOf r.owner = some c → s.pkg.stopped (dieOfCore c) = false) → s.turnDue r.owner = false →
     s.missPassed r = false → r.owner ≠ 0 → Ends (awaitArea r.owner) s () s →
     let u : State := { s with pkg := { s.pkg.launchAnswered r with resps := s.pkg.resps.eraseIdx k } }
     let x : State := match r.body with
       | .dropped tid addr =>
         { u with pkg := u.pkg.tenantDrop (u.dieOf r.owner) ((u.coreOf r.owner).getD 0xFFFF) tid addr }
       | _ => u
     let edge (y : State) : Nat := ((y.coreOf r.owner).map fun c => (y.pkg.die (dieOfCore c)).edgeAt).getD 0
     (r.miss = none → v = x) →
     (∀ va c l, r.miss = some (va, c, l) → ∃ y, x.reportMiss r.owner (x.dieOf r.owner) va c l = some y ∧
       y.onHart r.owner (Hart.missTaken (edge y) r.key) = some v) →
     v.deliver r = some w → Ends (settleOwner r.owner) w () t → exec (.evResp k) s = .next t) ∧
   (∀ (h : Hart) (tag v d : Nat) (clock : List (Nat × Nat)), 0 < d → d < 32 → h.pend.any (·.1 == tag) = true →
     let g := (RespBody.load tag v (.x d) clock).apply h
     g.x.getD d 0 = BitVec.ofNat 64 v ∧ (∀ r, r ≠ d → g.x.getD r 0 = h.x.getD r 0) ∧
     g.pend = h.pend.filter (·.1 != tag) ∧ g.pc = h.pc ∧ g.instret = h.instret) ∧
   (∀ (h : Hart) (fl : Flags) (va : Dword), ((RespBody.flags fl).apply h).fcsr = h.fcsr ||| (fl.zeroExtend 64 <<< 4) ∧
     ((RespBody.poisoned va none).apply h).uncorrectable = some va))

/-- R245, R247 to R249: a timed access is stamped as it arrives at its home, and missed where its stamp is later than
its time less its guard; it obtains an entry or waits for one; at an instant the stores and reductions are applied in
key order, then the loads are performed; a store leaves its bytes and no others.

Where an arrival and its clock edge coincide, the order is the model's (log entry 24). -/
def Obligations.TimedAccessesAreApplied : Prop :=
  (∀ (k : Nat) (m : Msg) (a : Timed) (s t : State), s.pkg.net[k]? = some m → m.body = .timed a →
    s.admits m.tid.toNat m.secure a.key = true →
    let u := s.unsend k
    let halted (d : Nat) : Bool := (s.pkg.die d).haltedIn a.issued s.pkg.time
    let b : Timed := { a with
      stamp := s.pkg.gtime
      debug := (if m.owner = 0 then a.debug else halted (dieOfCore m.core)) ||
        (decide (dstOf a.key < 4) && halted (dieOfHome a.home)) }
    let p := if u.pkg.roomFor b = true ∧ u.pkg.waiting.any b.rival = false then u.pkg.obtain b false
      else { u.pkg with waiting := u.pkg.waiting ++ [b] }
    Ends (settleOwner m.owner) { u with pkg := p } () t → exec (.evTimedArrival k) s = .next t) ∧
  (∀ (k : Nat) (a : Timed) (s t : State), s.pkg.waiting[k]? = some a → s.pkg.roomFor a = true →
    (s.pkg.waiting.take k).any a.rival = false →
    let u : State := { s with pkg := ({ s.pkg with waiting := s.pkg.waiting.eraseIdx k } : Pkg).obtain a true }
    Ends (settleOwner a.owner) u () t → exec (.evTimedEntryGrant k) s = .next t) ∧
  (∀ (a : Timed) (waited : Bool) (now : Nat), let due : Int := (a.time : Int) - a.guard
    let late := ((a.stamp : Int) - due).toNat
    ((a.stamp : Int) ≤ due → (waited = true → (now : Int) ≤ due) → a.judge waited now = (0, 0)) ∧
    (due < a.stamp → waited = false → a.judge waited now = (if a.debug then 3 else 1, late)) ∧
    (due < now → waited = true → a.judge waited now = (if a.debug then 3 else 2, late))) ∧
  (∀ (home : Nat) (first : Timed) (s u t : State), leastBy (·.time) (s.pkg.due home) = some first →
    let now := (s.pkg.due home).filter fun a => a.time == first.time
    (∀ a ∈ now, s.pkg.stalled a.key = false) →
    let writes := sortTimed (now.filter fun a => !a.isLoad)
    let p : Pkg := { s.pkg with held := s.pkg.held.filter fun a => !now.contains a }
    Ends ((writes ++ now.filter Timed.isLoad).forM applyTimed) { s with pkg := p.keyDups writes } () u →
    Ends ((now.map (·.owner)).eraseDups.forM settleOwner) u () t → exec (.evTimedInstant home) s = .next t) ∧
  (∀ l : List Timed, (sortTimed l).Perm l ∧ (sortTimed l).Pairwise fun a b => b.before a = false) ∧
  (∀ (a : Timed) (bs : List Byte) (s : State), a.spot = none → s.noPulls → s.pkg.pendingAt a.key = false →
    Memory.wf s.mem = true → ∃ u, Ends (timedWrite a bs) s () u ∧ u.getBytes a.key bs.length = bs ∧
      (∀ l, l < a.key ∨ a.key + bs.length ≤ l → Memory.get u.mem l = Memory.get s.mem l) ∧ u.h = s.h ∧ u.core = s.core)

/-- R330: at its root a contribution is held, and with the last one a release is sent to each contributor, its instant
the latest stamp and the latency of the group; a group that is not enabled there, or not rooted, drops it with an event. A
release can be waited for, and where it completes the newest phase SREL holds it; a wait at it ends like the instruction's.
Phases travel modulo 4, and each die counts them from those it has completed.

That a contribution or a release for a die of another package leaves as an output is the model's choice (log entry 54), and so
are the ports that its releases leave by (log entry 11). -/
def Obligations.SpanningBarriersRelease : Prop :=
  (∀ (k : Nat) (m : Msg) (n q4 stamp from_ d : Nat) (s : State), s.pkg.net[k]? = some m →
    m.body = .contribution n q4 stamp from_ d →
    let u := s.unsend k
    let p := u.pkg
    let cfg := p.ctl (offSpan d n 0)
    let old := (p.die d).span n
    let q := phaseOf old.phases q4
    let g : SpanGroup := { old with
      held := old.held ++ [(q, from_, stamp)], clocks := joinPhase (recentClocks old.clocks old.phases) q m.clock }
    let all := g.heldFor q (if p.spanCount d n = 0 then some (4 * p.number + d) else none)
    let num := bits (p.ctl (offSpan d n 1)) 0 13
    s.pkg.releaseHeld d n = false → (from_ / 4 = s.pkg.number ∨ s.pkg.route d (from_ / 4) ≠ none) →
    (4 ≤ m.dst → exec (.evContribution k) s = .next { u with pkg := { p with outputs := p.outputs ++ [.fabric m] } }) ∧
    (m.dst < 4 → bit cfg 0 = false ∨ bit cfg 1 = false →
      exec (.evContribution k) s = .next { u with pkg := p.logEvent d 0x0C 0xFFFF n from_ }) ∧
    (m.dst < 4 → bit cfg 0 = true → bit cfg 1 = true → all.length ≠ num →
      exec (.evContribution k) s = .next { u with pkg := p.setSpan d n g }) ∧
    (m.dst < 4 → bit cfg 0 = true → bit cfg 1 = true → all.length = num →
      ∃ (time : Nat) (ms : List Msg),
        exec (.evContribution k) s = .next (ms.foldl State.sendBarrier { u with
          pkg := p.setSpan d n { g with held := g.held.filter fun e => e.1 != q } }) ∧
        ms.map (·.body) = all.map (fun e => MsgBody.release n q4 time (e.1 % 4)) ∧
        (∀ e ∈ all, e.2 + bits cfg 16 16 ≤ time) ∧ (all ≠ [] → ∃ e ∈ all, e.2 + bits cfg 16 16 = time))) ∧
  (∀ (k : Nat) (m : Msg) (n q4 time d : Nat) (s : State), s.pkg.net[k]? = some m → m.body = .release n q4 time d →
    m.dst < 4 → d < 4 →
    Gives (.evSpanRelease k) s fun t =>
      let old := (s.pkg.die d).span n
      let new := (t.pkg.die d).span n
      OnlyPackage s t ∧ t.pkg.net = s.pkg.net.eraseIdx k ∧ tableGet new.releases (phaseOf old.phases q4) = some time ∧
      old.phases ≤ new.phases ∧ (phaseOf old.phases q4 = old.phases → old.phases < new.phases) ∧
      t.pkg.ctl (offSpan d n 3) = if new.phases = old.phases then s.pkg.ctl (offSpan d n 3)
        else BitVec.ofNat 64 ((tableGet new.releases (new.phases - 1)).getD 0)) ∧
  (∀ (core w v : Nat) (s x u : State), s.awake core → let f := s.focus core
    f.h.status = .running → f.h.report = none → f.h.launchAt = none → f.h.waitAt = none → fetchPair f = .ok ((w, v), x) →
    w / 2 ^ 20 = 0xC80 → w % 2 ^ 16 = 3 → Ends (waitSpan w (w / 2 ^ 16 % 16)) f () u →
    LeavesAt (.evSpanWaitExit core) s u.retire)

/-- R185, R303 to R306, R316: a record that the queue's checks admit enters it, and the scheduler looks again; one that
is refused sets the queue's status. QCFG, QREL and QPOP take effect for agents with supervisor rights; held
continuations are tried again; a message of a ring-mode queue is written into the ring.

The pass-over count of a record that becomes a candidate anew is log entry 31, a ring that is not enabled log entry 32, the
retries of a continuation log entry 41, the ports by which a launch comes log entries 11 and 50, the one instant of a
delivery into a ring log entry 80, which gang of several and which offset it takes log entry 87. -/
def Obligations.QueueEventsComplete : Prop :=
  (∀ (q : Nat) (r : BitVec 512) (s t : State) (code : Nat), q < 64 → s.pkg.hostWork = [] → s.pkg.physHeld (s.pkg.qslot q (s.pkg.qtail q)) 64 = false →
    s.enqueue q r [] = some (t, code) → exec (.evQueueEnqueue q r .host) s = .next t) ∧
  (∀ (q : Nat) (r : BitVec 512) (s t : State) (code package : Nat) (hartid : BitVec 64) (tid : BitVec 12) (c : Bool),
    q < 64 → (∀ m ∈ s.pkg.net, m.owner = 0 → m.hartid = hartid.toNat → m.posted = false) →
    let answer (t : State) (b : RespBody) : State := { t with pkg := t.pkg.reply 0 hartid.toNat 0 b none }
    let admitted := (∀ p, s.pkg.route (q / 16) package = some p → s.pkg.portAdmits p tid.toNat = true) ∧
      bits (s.pkg.qcfg q) 16 12 = tid.toNat
    (admitted → s.pkg.physHeld (s.pkg.qslot q (s.pkg.qtail q)) 64 = false → s.enqueue q r [] = some (t, code) →
      exec (.evQueueEnqueue q r (.fabric package hartid tid c)) s = .next (answer t (.launched code))) ∧
    (¬admitted → exec (.evQueueEnqueue q r (.fabric package hartid tid c)) s = .next (answer s (.refused 0 none)))) ∧
  (∀ (q : Nat) (r : BitVec 512) (s : State) (code : Nat) (c : List (Nat × Nat)), s.pkg.qcheck q r false = code → code ≠ 0 →
    s.enqueue q r c = some ({ s with pkg := s.pkg.qrefuse q code }, code)) ∧
  (∀ (q : Nat) (s : State), q < 64 → exec (.evBadwrite q) s =
    .next (s.setReg (offQueue q 6) (setBits (s.pkg.ctl (offQueue q 6)) 4 1 1))) ∧
  (∀ (die t0 : Nat) (s t : State), (s.pkg.die die).contAt = some t0 → t0 ≤ s.pkg.time →
    let conts := (s.pkg.die die).conts
    let held := (conts.filter fun c => !c.out).foldl (fun l c => insertHeld c l) []
    let clear : State := { s with pkg := s.pkg.onDie die fun d => { d with conts := conts.filter (·.out), contAt := none } }
    held.Pairwise (fun a b => a.stamp ≤ b.stamp) ∧ held.Perm (conts.filter fun c => !c.out) ∧
    (held.foldl (fun r c => r.bind fun x => x.retryCont die c) (some clear) = some t →
      exec (.evContRetry die) s = .next t)) ∧
  (∀ (q n : Nat) (g : Gang) (hdr : List Byte) (s s1 s2 s3 : State),
    let ring := s.pkg.ctl (offQueue q 5)
    let off := bits ring 0 22
    let word (i : Nat) : Nat := natOf ((hdr.drop (8 * i)).take 8) % 2 ^ 32
    q < 64 → bit (s.pkg.qcfg q) 0 = true → bit (s.pkg.qcfg q) 2 = true → s.pkg.qcount q ≠ 0 →
    s.pkg.gangs.find? (fun g => g.tag.toNat == bits ring 22 32) = some g →
    let rec_ := s.pkg.qhead q
    Ends (awaitSpot (.part g.id off)) s () s → Ends (peekSpot (.part g.id off) 24) s (hdr, none) s1 →
    slotsOf (word 2 % 512) = some n → s1.pkg.physHeld (s.pkg.qslot q rec_) 64 = false →
    off + 64 + 64 * n ≤ g.partSize → (word 0 + 2 ^ 32 - word 1) % 2 ^ 32 < n →
    (g.phase = GangPhase.resident → s.pkg.tenantOf (g.cluster / 48) (g.cluster % 48) = bits (s.pkg.qcfg q) 16 12) →
    let slot : Spot := .part g.id (off + 64 + 64 * (word 0 % n))
    Ends (awaitSpot slot) s1 () s1 →
    Ends (writeSpot slot (recBytes (s.queueRecord q rec_)) (s.pkg.slotPoisoned q rec_)) s1 () s2 →
    Ends (advanceTail g off ((word 0 + 1) % 2 ^ 32) ((tableGet (s.pkg.queueInfo q).clocks rec_).getD [])) s2 () s3 →
    Gives (.evRingDelivery q) s fun t => OnlyPackage s3 t ∧ t.pkg.qhead q = (rec_ + 1) % 2 ^ 32) ∧
  (∀ (a : Agent) (q : Nat) (v : Dword) (s t : State), q < 64 →
    let old := s.pkg.qcfg q
    let put (x : State) (v : Dword) : Option State :=
      let y := x.setReg (offQueue q 1) v
      ({ y with pkg := y.pkg.candidateAnew s.pkg q } : State).select (q / 16)
    (supervises a = false → exec (.evQcfgWrite a q v) s = .next s ∧ exec (.evQrelWrite a q v) s = .next s ∧
      exec (.evQpop a q v) s = .next s) ∧
    (supervises a = true →
      (bit old 0 = true → put s (setBits old 0 2 (bits v 0 2)) = some t → exec (.evQcfgWrite a q v) s = .next t) ∧
      (bit old 0 = false → bit v 0 = false → put s (qcfgNew (commands a) old v) = some t →
        exec (.evQcfgWrite a q v) s = .next t) ∧
      (bit old 0 = false → bit v 0 = true →
        let new := qcfgNew (commands a) old v
        let ok := 4 ≤ bits new 4 4 ∧ bits new 8 8 ≤ 64 ∧ s.pkg.qbaseOk (s.pkg.ctl (offQueue q 0)).toNat (bits new 4 4) = true
        let p := s.pkg.setCtl (offQueue q 6) (setBits (s.pkg.ctl (offQueue q 6)) 16 32 0)
        (¬ok → exec (.evQcfgWrite a q v) s = .next s) ∧
        (ok → put { s with pkg := p } new = some t → exec (.evQcfgWrite a q v) s = .next t)) ∧
      (let y := s.setReg (offQueue q 4) (onlyBits v 0 32)
       ({ y with pkg := y.pkg.candidateAnew s.pkg q } : State).select (q / 16) = some t →
         exec (.evQrelWrite a q v) s = .next t) ∧
      (bit v 0 = true → bit old 0 = false → s.pkg.qcount q ≠ 0 →
        Gives (.evQpop a q v) s fun t => OnlyPackage s t ∧ t.pkg.qhead q = (s.pkg.qhead q + 1) % 2 ^ 32))) ∧
  (∀ (q : Nat) (p before : Pkg), (p.queueInfo q).guardAt = none →
    (before.eligible q = false → p.eligible q = true → ((p.candidateAnew before q).queueInfo q).passed = 0) ∧
    (before.eligible q = true → p.candidateAnew before q = p))

/-- R218, R276, R332, R382 to R387: the oldest store leaves the buffer, or becomes a record of a fault; a pause runs
down; a request or a notice not heeded parks a gang, whose harts stop, send their open batches, are saved, and resume
together on the cores held for them.

R219, R251, R269, R380, R387, R396: what a hart owes at a boundary is taken as its trap: cause, EVAL, and what is no
longer owed. -/
def Obligations.HartEventsComplete : Prop :=
  ((∀ (core : Nat) (s u : State), s.awake core → let f := s.focus core
     (∀ e rest, f.h.sb = e :: rest → f.h.sfq.length < 8 → f.h.status ≠ .exited → f.h.rowsBefore e.instret = false →
       let x : State := { f with h := { f.h with sb := rest } }
       (Ends (drainEntry e) x () u → u.h.status = f.h.status → LeavesAt (.evStoreBufferDrain core) s u) ∧
       (∀ k, Traps (drainEntry e) x k u → u.h.status = f.h.status → u.h.sfq.length < 8 → LeavesAt (.evStoreBufferDrain core) s { u with
         h := { u.h with sfq := u.h.sfq ++ [⟨e.va, e.pc, BitVec.ofNat 8 (2 ^ e.size - 1), BitVec.ofNat 8 k.cause⟩] } })) ∧
     (f.h.pauseLeft = 1 → LeavesAt (.evPauseExpiry core) s { f with h := { f.h with pauseLeft := 0 } }) ∧
     (f.h.preempt = true → f.h.report = some .park → f.turnDue f.h.ident = false → Ends stopHart f () u →
       LeavesAt (.evPreemptStop core) s u ∧ u.h.status = .parking ∧ u.h.preempt = false) ∧
     (∀ g x v rs, f.gang? f.h.gang = some g → g.phase = .parking → f.h.sb = [] →
       f.h.status = .parking ∨ f.h.status = .halted ∨ f.h.status = .exited →
       f.flushBatches f.h.ident (fun _ _ => true) = some x →
       x.savedFaults { x.h with preempt := false } = some rs →
       let h : Hart := { x.h with preempt := false, sfq := x.h.sfq ++ rs }
       x.saveCsa h 2 (x.owed h.ident) = some v →
       let w := (v.onGang g.id fun g => { g with saved := g.saved ++ [h] }).emptyCore v.core.id
       ((∃ e ∈ w.cores, e.2.present = true ∧ e.2.gang = g.id) → LeavesAt (.evParkComplete core) s w) ∧
       ((∀ e ∈ w.cores, e.2.present = true → e.2.gang ≠ g.id) → Ends (gangParked g.id) w () u →
         LeavesAt (.evParkComplete core) s u))) ∧
   (∀ (id t0 : Nat) (g : Gang) (s u : State), s.gang? id = some g → g.phase = .resident → g.noticeAt = some t0 →
     t0 + nanoseconds 20000 ≤ s.pkg.time → s.clearNotice id = some u →
     exec (.evNoticeTimeout id) s = .next (u.preemptGang id)) ∧
   (∀ (id : Nat) (g : Gang) (s u : State), s.gang? id = some g → g.phase = .resuming → g.discard = false →
     s.pkg.stopped (g.cluster / 48) = false → (∀ h ∈ g.saved, s.owed h.ident = 0 ∧ s.areaWaits h = false) →
     s.pkg.retained (s.arraysAt g (g.saved.filterMap fun h => s.heldCore g.id (bits h.gidx 0 3))) = [] →
     g.saved.foldl (fun (r : Option State) h => r.bind fun r =>
       match s.heldCore g.id (bits h.gidx 0 3) with
       | some c => r.resumeHart g c h
       | none => some r) (some s) = some u →
     exec (.evGangResume id) s = .next (u.onGang id fun g => { g with phase := .resident, saved := [] })) ∧
   (∀ (id die : Nat) (g : Gang) (s t : State), s.gang? id = some g → g.phase = .parked → die < 4 →
     (({ s with pkg := s.pkg.unreserve g.die id } : State).onGang id fun g => { g with die := die }).select die = some t →
     exec (.evResumeEntryMove id die) s = .next t) ∧
   (∀ (a : Agent) (die : Nat) (v : Dword) (s t : State), die < 4 →
     let named := s.pkg.gangs.filter fun g =>
       g.phase == .resident && g.die == die && g.tag.toNat == bits v 0 32 && g.ctx.toNat == bits v 32 16
     (supervises a = false → exec (.evPreqWrite a die v) s = .next s) ∧
     (supervises a = true → bit v 48 = false →
       exec (.evPreqWrite a die v) s = .next (named.foldl (fun s g => s.preemptGang g.id) s)) ∧
     (supervises a = true → bit v 48 = true →
       named.foldl (fun (r : Option State) g => r.bind fun r => r.giveNotice g (onlyBits v 0 49)) (some s) = some t →
       exec (.evPreqWrite a die v) s = .next t))) ∧
  (∀ (core : Nat) (s u : State), s.awake core →
   let f := s.focus core
   f.h.xSettled = true →
   let takes (i : Instr) (c : Nat) (v : Dword) (imp : Bool) (x : State) : Prop :=
     takeTrap { cause := c, value := v, imp := imp } x = .next u → LeavesAt i s u
   (∀ r, f.h.report = some (.fault r) → takes (.evStoreFaultReport core) r.cause.toNat r.va true f) ∧
   (∀ v, f.h.report = some (.copy v) →
     takes (.evCopyErrorReport core) 0x0D v false { f with h := { f.h with copyErrs := f.h.copyErrs.tail } }) ∧
   (∀ v, f.h.report = some (.deadline v) →
     takes (.evDeadlineReport core) 0x0C v false { f with
       h := { f.h with deadline := if f.h.further then f.h.deadline else none, further := false } }) ∧
   (∀ v, f.h.report = some (.uncorrectable v) →
     takes (.evUncorrectableReport core) 0x13 v false { f with h := { f.h with uncorrectable := none } }) ∧
   (∀ v, f.h.report = some (.notice v) →
     takes (.evPreemptNotice core) 0x11 v false { f with h := { f.h with noticeWord := none } }))

/-- R264 to R269, R282, R296: the engine takes the head of a VDQ, reserves what a writing graph needs controller by
controller, evaluates frames, and performs chunks, each counted once its writes have performed; a batch of a
subscription open for 20 ns is sent.

That a chunk is performed whole is the model's choice (log entry 42). -/
def Obligations.CopyEventsComplete : Prop :=
  (∀ (core : Nat) (s u : State), s.awake core → let f := s.focus core
    (∀ cc n rest, f.h.vdq = .ccset cc n :: rest → f.h.feeds = true → LeavesAt (.evCopyAccept core) s { f with
      h := { f.h with vdq := rest, cc := f.h.cc.setIfInBounds cc (n.zeroExtend 64) }
      pkg := f.pkg.recounted (counterKey f.h.ident cc) n.toNat }) ∧
    (∀ r rest, f.h.vdq = .copy r :: rest → f.h.feeds = true → f.engineFree = true →
      let x : State := { f with h := { f.h with vdq := rest } }
      (∀ code, x.entriesHeld r = false → (x.issuedUnder r).judge r = .error code → LeavesAt (.evCopyAccept core) s { x with h := x.h.copyError r code }) ∧
      (Ends (acceptCopy r) x () u → LeavesAt (.evCopyAccept core) s u))) ∧
  (∀ (id : Nat) (c : CopyRun) (s : State), s.pkg.copies.find? (·.id == id) = some c → let free : Prop := Ends (awaitArea c.hart) s () s
    (∀ home n rest, c.reserve = (home, n) :: rest →
      (s.pkg.copies.map fun k => (tableGet k.reserved home).getD 0).sum + n ≤ 16384 →
      exec (.evPendingReserve id) s = .next { s with
        pkg := s.pkg.setCopy { c with reserve := rest, reserved := c.reserved ++ [(home, n)] } }) ∧
    (∀ dir img u w, free → c.graph = some (dir, img) → c.reserve = [] → c.stopped = false → s.turnDue c.hart = false →
      let g := graphOf img
      let last := c.frameCount (g.frameBits dir)
      c.frames + 1 < last → Ends (runFrame c dir g) s u w → u.frames = c.frames + 1 →
      exec (.evGraphFrame id) s = .next { w with pkg := w.pkg.setCopy u }) ∧
    (∀ dir img k u t, free → c.graph = some (dir, img) → c.stopped = false → s.turnDue c.hart = false →
      let fb := (graphOf img).frameBits dir
      (dir = 0 → k < c.req.chunks → c.ready fb k = true →
        (∀ g ∈ c.req.segs k, s.publishes c c.dst g.dst g.len = false) → c.frames ≠ c.frameCount fb →
        (∀ w ∈ c.written, w.1 ≠ k) → Ends (countChunk c k) s () u →
        exec (.evChunkComplete id k) s = .next { u with pkg := u.pkg.setCopy { c with done := c.done ++ [k] } }) ∧
      (∀ c' x, dir ≠ 0 → c.frames = c.frameCount fb → Ends (awaitStatus c) s () s →
        Ends (writeStatus c dir (graphOf img)) s () x → Ends (countAll c (List.range c.req.chunks)) x c' u →
        Ends (endCopy c') (u.markFrames c' fb) () t → exec (.evChunkComplete id k) s = .next t)) ∧
    (∀ k u v t, free → c.graph = none → c.stopped = false → (∀ w ∈ c.written, w.1 ≠ k) → s.turnDue c.hart = false →
      k < c.req.chunks →
      c.done.contains k = false → c.failed.contains k = false → c.mayStart k = true →
      (Ends (performChunk c k) s none u → (∀ g ∈ c.req.segs k, u.publishes c c.dst g.dst g.len = false) →
        Ends (countChunk c k) u () v → Ends (settleCopy { c with done := c.done ++ [k] }) v () t →
        exec (.evChunkComplete id k) s = .next t) ∧
      (∀ code c', Ends (performChunk c k) s (some code) u → Ends (failChunk c k code) u c' v →
        Ends (settleCopy c') v () t → exec (.evChunkComplete id k) s = .next t))) ∧
  (∀ (core entry i : Nat) (e : PubEntry) (x : Subscriber) (b : Batch) (s u : State), core < 1536 → let f := s.focus core
    f.h.pubs.getD entry none = some e → e.subs[i]? = some x → x.batch = some b → b.since + nanoseconds 20 ≤ f.pkg.time →
    f.flushBatches f.h.ident (fun j y => j == entry && y.hart == x.hart && y.entry == x.entry) = some u →
    LeavesAt (.evBatchTimeout core entry i) s u)

/-! ### Events: clocks, the control block, reliability, Markhor -/

/-- R21, R23 to R27, R239, R242, R253, R256, R394: the events of clocks, lanes, power, temperature, time and debug halts take
effect; each changes only what the package holds.

The unit of time is the model's (log entry 22), and what a throttle remembers its reading (log entry 48).

R256, R257: a step of frequency is taken at the die's next edge, which is counted; the cores stand still for 6,000
gt, and the steps of the other dies stay. -/
def Obligations.ClockEventsComplete : Prop :=
  ((∀ (die : Nat) (s : State), die < 4 →
     let p := s.pkg
     let d := p.die die
     let here (t : State) : Die := t.pkg.die die
     (∀ e, d.relockEnd = some e → e ≤ p.time → p.ceiling die ≤ d.step →
       Gives (.evRelockEnd die) s fun t => OnlyPackage s t ∧ (here t).relockEnd = none ∧ (here t).step = d.step) ∧
     (∀ a1 a10, (∀ t0, d.lastPower = some t0 → t0 + nanoseconds 1000000 ≤ p.time) → d.relockEnd = none →
       let cap := bits (p.ctl offPcap) 0 16
       let above := cap < a10 ∨ cap * 12 < a1 * 10
       (above → d.step < 5 → Gives (.evPowerControlTick die a1 a10) s fun t => OnlyPackage s t ∧
         (here t).step = d.step + 1 ∧ (here t).powerStep = d.step + 1 ∧ (here t).lastPower = some p.time) ∧
       (¬above → a10 * 100 ≤ cap * 95 → p.ceiling die < d.step → Gives (.evPowerControlTick die a1 a10) s fun t =>
         OnlyPackage s t ∧ (here t).step = d.step - 1 ∧ (here t).powerStep = d.step - 1) ∧
       (¬above → cap * 95 < a10 * 100 → exec (.evPowerControlTick die a1 a10) s = .next s)) ∧
     (∀ temp, let limit := 8 * bits (p.ctl offTctl) 0 7
       (limit < temp → d.relockEnd = none → (∀ t0, d.lastTctl = some t0 → t0 + nanoseconds 1000000 ≤ p.time) → Gives (.evTctlThrottleTick die temp) s fun t => OnlyPackage s t ∧
         (here t).tctlStep = min 5 (d.step + 1) ∧ min 5 (d.step + 1) ≤ (here t).step ∧ (here t).lastTctl = some p.time) ∧
       (limit < temp → (∃ t0, d.lastTctl = some t0 ∧ p.time < t0 + nanoseconds 1000000) →
         exec (.evTctlThrottleTick die temp) s = .next s) ∧
       (temp ≤ limit → Gives (.evTctlThrottleTick die temp) s fun t => OnlyPackage s t ∧ (here t).tctlStep = 0 ∧
         (here t).step = d.step)) ∧
     (d.relockEnd = none → Gives (.evDieOver105c die) s fun t => OnlyPackage s t ∧ (here t).hot = true ∧ 5 ≤ (here t).step) ∧
     (Gives (.evEndOf105cAction die) s fun t => OnlyPackage s t ∧ (here t).hot = false ∧ (here t).step = d.step) ∧
     (∀ on, Gives (.evHaltOnBreak die on) s fun t => OnlyPackage s t ∧ (here t).haltOnBreak = on) ∧
     (∀ t, d.halted = true → ({ s with pkg := p.onDie die fun d =>
       { d with halted := false, halts := d.halts ++ [(d.haltSince, p.time)] } } : State).select die = some t →
       exec (.evDebugHaltEnd die) s = .next t) ∧
     (∀ lane, lane < 1024 → Gives (.evLaneRepair die lane) s fun t => OnlyPackage s t ∧
       (here t).calibrations = d.calibrations + 1 ∧
       (t.pkg.die ((die + 1) % 4)).calibrations = (p.die ((die + 1) % 4)).calibrations + 1 ∧
       t.pkg.lanes = tableSet p.lanes (laneName die lane)
          { p.lane die lane with repaired := true, repairs := (p.lane die lane).repairs + 1 })) ∧
   (∀ (s : State) (n temp : Nat) (power temps : List Nat), let p := s.pkg
     (920 ≤ temp → p.tripped = false → Gives (.evThermalTrip n temp) s fun t => OnlyPackage s t ∧ t.pkg.tripped = true ∧
       t.pkg.outputs = p.outputs ++ [.tripOutput] ∧ ∀ die, t.pkg.stopped die = true) ∧
     (temp < 920 → exec (.evThermalTrip n temp) s = .next s) ∧
     (Gives (.evHbmOver85c n) s fun t => OnlyPackage s t ∧ n ∈ t.pkg.fastRefresh) ∧
     (Gives (.evHbmOver95c n) s fun t => OnlyPackage s t ∧ n ∈ t.pkg.halfRate) ∧
     exec (.evTelemetryUpdate power temps) s = .next { s with pkg := { p with outputs := p.outputs ++
       [.telemetry power temps ((List.range 4).map fun d => (p.die d).step) ((List.range 4).map p.reasons)] } }) ∧
   (∀ (a : Agent) (v : Dword) (die : Nat) (s : State), let p := s.pkg
     (supervises a = false → exec (.evPcapWrite a v) s = .next s ∧ exec (.evTctlWrite a v) s = .next s ∧
       exec (.evStepmaxWrite a die v) s = .next s) ∧
     (supervises a = true →
       exec (.evPcapWrite a v) s =
         .next (s.setReg offPcap (BitVec.ofNat 64 (max 1200 (min Config.powerLimit (v.toNat % 2 ^ 16))))) ∧
       exec (.evTctlWrite a v) s = .next (s.setReg offTctl (BitVec.ofNat 64 (max 70 (min 100 (v.toNat % 2 ^ 7))))) ∧
       (5 < v.toNat % 8 → exec (.evStepmaxWrite a die v) s = .next s) ∧
       (die < 4 → v.toNat % 8 ≤ 5 → Gives (.evStepmaxWrite a die v) s fun t => OnlyPackage s t ∧
         t.pkg.ctl (offStepmax die) = BitVec.ofNat 64 (v.toNat % 8) ∧
         ((p.die die).relockEnd = none → v.toNat % 8 ≤ (t.pkg.die die).step) ∧
         (t.pkg.ceiling die < (p.die die).step →
           (t.pkg.die die).step = (p.die die).step ∧ (t.pkg.die die).powerStep = (p.die die).step)))) ∧
   (∀ (off : Int) (s : State), let p := s.pkg
     let free := bit (p.ctl offTimectl) 0
     let size := off.natAbs
     (Gives (.evPtpSync off) s fun t => OnlyPackage s t ∧ t.pkg.lastSync = some p.time ∧
       bits (t.pkg.ctl offTimestat) 16 16 = ((max (-32767) (min 32767 off)) % 65536).toNat ∧
       t.pkg.timeState = (if free then p.timeState else match p.timeState with
         | 1 => if size ≤ 16 ∧ 7 ≤ p.goodSyncs then 2 else 1
         | 2 => if 24 < size then 1 else 2
         | 3 => if size ≤ 16 then 2 else 1
         | x => x)) ∧
     (∀ t0, p.lastSync = some t0 →
       let lost := free = false ∧ (p.timeState = 1 ∨ p.timeState = 2) ∧
         t0 + 8 * nanoseconds (125000 * 2 ^ bits (p.ctl offTimectl) 4 4) ≤ p.time
       (lost → Gives .evSyncTimeout s fun t => OnlyPackage s t ∧ t.pkg.timeState = 3) ∧
       (¬lost → exec .evSyncTimeout s = .next s)))) ∧
  (∀ (p : Pkg) (die new : Nat), die < 4 →
   (p.die die).relockEnd = none → new ≠ (p.die die).step →
   let q := p.freqStep die new
   (q.die die).step = new ∧ (q.die die).relockEnd = some ((p.die die).nextEdge + relockTime) ∧
   (q.die die).cycle = ((p.die die).cycle + 1) % 2 ^ 64 ∧ q.stopped die = true ∧ q.time = p.time ∧ q.regs = p.regs ∧
   ∀ d, d < 4 → d ≠ die → q.die d = p.die d)

/-- R5, R179, R186, R329, R361, R367, R371, R376: an agent without the right changes nothing; for any other the
register written takes the value, its reserved bits 0, where the conditions of its rule hold; every other register of
the control block, every hart and every byte of memory stay.

What a write of a register with rows of its own does by offset is the model's reading (log entry 30), as are who may
pull lines and what the tenant registers refuse (log entry 55), that a migration entry takes the STATE values 0, 2 and 3 as they are
written (log entry 37), and that a root which is alone in its group completes a phase as it is enabled (log entry 74).

R186, R362, R368: a pulled line of a migration entry is a line of NEW with the bytes of OLD; the host's window reads
and writes the DRAM that tenant 0 may reach, and an access turned away leaves an event.

Which black box the event of an access that is turned away goes to, and the source that it names, is the model's choice (log
entry 56). -/
def Obligations.ControlBlockWritesComplete : Prop :=
  (∀ (a : Agent) (n d : Nat) (v : Dword) (s : State),
   let p := s.pkg
   let stays (i : Instr) : Prop := exec i s = .next s
   let puts (i : Instr) (off : Nat) (w : Dword) : Prop := exec i s = .next (s.setReg off w)
   (∀ off w, (s.setReg off w).pkg.ctl off = w ∧ (∀ o, o ≠ off → (s.setReg off w).pkg.ctl o = p.ctl o) ∧
     OnlyPackage s (s.setReg off w)) ∧
   (commands a = false → stays (.evPrtEntryWrite a n d v) ∧ stays (.evTrapBlockWrite a n d v) ∧
     stays (.evRegisterWrite a offTentbase v) ∧ stays (.evRegisterWrite a offCtxtbase v) ∧
     stays (.evRegisterWrite a offSecmask v) ∧ stays (.evRegisterWrite a offTimectl v)) ∧
   (supervises a = false → stays (.evScfgWrite a d n v) ∧ stays (.evMigrationEntryWrite a n d v)) ∧
   (holdsKeys a = false → stays (.evKeyctlWrite a n v) ∧ stays (.evKeydataWrite a n d v)) ∧
   (commands a = true →
     puts (.evRegisterWrite a offTentbase v) offTentbase (onlyBits v 12 40) ∧
     puts (.evRegisterWrite a offCtxtbase v) offCtxtbase (onlyBits v 12 40) ∧
     puts (.evRegisterWrite a offSecmask v) offSecmask v ∧
     puts (.evRegisterWrite a offTimectl v) offTimectl (setBits (onlyBits v 0 2) 4 4
       (if 7 < bits v 4 4 then bits (p.ctl offTimectl) 4 4 else bits v 4 4)) ∧
     (n < 64 → let old := p.ctl (offPrt n 0)
       (bit old 0 = true → puts (.evPrtEntryWrite a n 0 v) (offPrt n 0) (setBits old 0 1 (bits v 0 1)) ∧
         (d ≠ 0 → stays (.evPrtEntryWrite a n d v))) ∧
       (bit old 0 = false →
         puts (.evPrtEntryWrite a n 1 v) (offPrt n 1) (onlyBits v 12 30) ∧
         puts (.evPrtEntryWrite a n 2 v) (offPrt n 2) (onlyBits v 0 9 ||| onlyBits v 12 28) ∧
         (bit v 0 = false → puts (.evPrtEntryWrite a n 0 v) (offPrt n 0) (onlyBits v 12 30)) ∧
         (bit v 0 = true → p.prtOk n (onlyBits v 12 30) = true →
           puts (.evPrtEntryWrite a n 0 v) (offPrt n 0) (setBits (onlyBits v 12 30) 0 1 1)) ∧
         (bit v 0 = true → p.prtOk n (onlyBits v 12 30) = false → stays (.evPrtEntryWrite a n 0 v)))) ∧
     (n < 8 → let secure := n % 2 == 1
       let off (d : Nat) : Nat := offTrap (n / 2) secure d
       let die := p.die (n / 2)
       puts (.evTrapBlockWrite a n 0 v) (off 0) (onlyBits v 2 62) ∧ puts (.evTrapBlockWrite a n 1 v) (off 1) (onlyBits v 2 62) ∧
       (die.slotsUsed secure = [] → die.gslotsUsed secure = [] →
         puts (.evTrapBlockWrite a n 2 v) (off 2) (onlyBits v 16 48) ∧ puts (.evTrapBlockWrite a n 3 v) (off 3) (onlyBits v 0 16) ∧
         puts (.evTrapBlockWrite a n 4 v) (off 4) (onlyBits v 22 42) ∧ puts (.evTrapBlockWrite a n 5 v) (off 5) (onlyBits v 0 16) ∧
         puts (.evTrapBlockWrite a n 6 v) (off 6) (onlyBits v 16 48)) ∧
       (die.slotsUsed secure ≠ [] → 2 ≤ d → stays (.evTrapBlockWrite a n d v)))) ∧
   (supervises a = true → d < 4 → n < 16 → let old := p.ctl (offSpan d n 0)
     let new := setBits (onlyBits v 0 2 ||| onlyBits v 16 28) 2 2 (bits old 2 2)
     (bit old 0 = true → puts (.evScfgWrite a d n v) (offSpan d n 0) (setBits old 0 1 (bits v 0 1))) ∧
     (bit old 0 = false → bit v 0 = false ∨ p.spanOk d n new = true →
       let t := s.setReg (offSpan d n 0) new
       exec (.evScfgWrite a d n v) s = .next { t with pkg := t.pkg.rootAlone d n } ∧
       (bit v 0 = false ∨ bit v 1 = false → puts (.evScfgWrite a d n v) (offSpan d n 0) new)) ∧
     (bit old 0 = false → bit v 0 = true → p.spanOk d n new = false → stays (.evScfgWrite a d n v))) ∧
   (supervises a = true → n < 64 → let old := p.ctl (offMigration n 0)
     (bits old 1 2 = 1 → stays (.evMigrationEntryWrite a n d v)) ∧
     (bits old 1 2 ≠ 1 →
       puts (.evMigrationEntryWrite a n 1 v) (offMigration n 1) v ∧ puts (.evMigrationEntryWrite a n 2 v) (offMigration n 2) v ∧
       (bits v 1 2 ≠ 1 → puts (.evMigrationEntryWrite a n 0 v) (offMigration n 0) (onlyBits v 0 15)) ∧
       (bits v 1 2 = 1 → p.migrationOk n (onlyBits v 0 15) = true →
         Gives (.evMigrationEntryWrite a n 0 v) s fun t => OnlyPackage s t ∧
           t.pkg.ctl (offMigration n 0) = onlyBits v 0 15 ∧ t.pkg.presentLines n = []))) ∧
   (holdsKeys a = true → n < 256 → let old := p.ctl (offKeyctl n)
     (bit old 0 = true → puts (.evKeyctlWrite a n v) (offKeyctl n) (setBits old 0 1 (bits v 0 1)) ∧
       stays (.evKeydataWrite a n d v)) ∧
     (bit old 0 = false → puts (.evKeyctlWrite a n v) (offKeyctl n) (onlyBits v 0 2 ||| onlyBits v 8 16) ∧
       (d < 8 → puts (.evKeydataWrite a n d v) (offKeydata n d) v)))) ∧
  ((∀ (n line loc : Nat) (s : State), n < 64 → bits (s.pkg.ctl (offMigration n 0)) 1 2 = 1 →
     line < migrationSize (bits (s.pkg.ctl (offMigration n 0)) 3 3) / 64 → line ∉ s.pkg.presentLines n →
     s.pkg.ownDram ((s.pkg.ctl (offMigration n 1)).toNat + 64 * line) = some loc → s.pkg.held? loc 64 = false →
     exec (.evMigrationPull n line) s = .next (s.pullNow n line) ∧
     (s.pkg.pullOf loc = some (n, line) →
       (∀ old, s.pkg.oldLoc n line = some old → s.pkg.pullOf old = none ∧ s.pkg.pullOf (old + 63) = none) →
       s.pullNow n line = s.pullLine n line)) ∧
   (∀ (off n : Nat) (s : State), s.noPulls → let locs := s.pkg.offLocs off n
     s.pkg.hostWork = [] → s.pkg.tripped = false →
     ((∀ i < n, s.hostAdmits (off + i) = true) → (∀ l ∈ locs, s.pkg.held? l 1 = false) →
       (∀ l ∈ locs, s.pkg.poisoned l 1 = false) →
       exec (.evHostBar4Read off n) s = .next { s with pkg := { s.pkg with
         outputs := s.pkg.outputs ++ [.bar4Data (locs.flatMap fun l => s.getBytes l 1) false] } }) ∧
     ((∀ i < n, s.hostAdmits (off + i) = true) → (∃ l ∈ locs, s.pkg.held? l 1 = true) →
       exec (.evHostBar4Read off n) s = .next { s with pkg := { s.pkg with hostWork := [.read off n] } }) ∧
     ((∃ i < n, s.hostAdmits (off + i) = false) → exec (.evHostBar4Read off n) s = .next { s with
       pkg := { s.pkg.hostDrop off with outputs := s.pkg.outputs ++ [.bar4Unsupported] } })) ∧
   (∀ (off : Nat) (bs : List Byte) (s : State), s.noPulls → let locs := s.pkg.offLocs off bs.length
     s.pkg.hostWork = [] → s.pkg.tripped = false →
     ((∀ i < bs.length, s.hostAdmits (off + i) = true) → (∃ l ∈ locs, s.pkg.held? l 1 = true) →
       exec (.evHostBar4Write off bs) s = .next { s with pkg := { s.pkg with hostWork := [.write off bs] } }) ∧
     ((∀ i < bs.length, s.hostAdmits (off + i) = true) → (∀ l ∈ locs, s.pkg.held? l 1 = false) → locs.Nodup →
       Memory.wf s.mem = true → Gives (.evHostBar4Write off bs) s fun t =>
         (∀ i < bs.length, ∀ l, locs[i]? = some l → Memory.get t.mem l = bs.getD i 0) ∧
         (∀ l, l ∉ locs → Memory.get t.mem l = Memory.get s.mem l) ∧ t.h = s.h ∧ t.core = s.core ∧ t.rest = s.rest) ∧
     ((∃ i < bs.length, s.hostAdmits (off + i) = false) →
       exec (.evHostBar4Write off bs) s = .next { s with pkg := s.pkg.hostDrop off })))

/-- R184, R395, R397 to R404: what fails is replaced, retained, moved or taken out of use, as each rule says.

Evacuation plans, spares and retention follow the model's readings (log entries 14, 16, 47 and 59), and so do the codes of the
arrays in an event (log entry 9), the rows and units of a location (log entry 10), where gangs are placed again (log entry 13),
when a die may leave (log entry 15), and when a block moves and an event tells of it (log entry 36). -/
def Obligations.ReliabilityEventsComplete : Prop := ∀ (s : State), let p := s.pkg
  (∀ die code n l, let q := if 1000 < n then p.logEvent die 0x16 0xFFFF code n else p
    let bad := ({ s with pkg := q } : State).poisonBytes l 1
    let bad8 := ({ s with pkg := q } : State).poisonCached l
    (l < 4 * 2 ^ 40 →
      exec (.evDramScrub [(die, code, n)] [l]) s = .next { bad with pkg := bad.pkg.ueEvent l } ∧
      ∀ a, l / 32 = a / 32 → bad.pkg.poisoned a 1 = true) ∧
    (l < 68 * 2 ^ 40 → exec (.evMscScrub [(die, code, n)] [l]) s = .next { bad8 with pkg := bad8.pkg.ueEvent l } ∧
      ∀ a, l / 8 = a / 8 → bad8.pkg.poisoned a 1 = true)) ∧
  (∀ c k rows, exec (.evRowSparing c k rows true) s = .next s ∧
    (c < 96 → k < 4 → exec (.evRowSparing c k rows false) s = .next (fencePseudo c k rows s))) ∧
  (∀ port, Gives (.evPortFailure port) s fun t => OnlyPackage s t ∧
    t.pkg.portsDown = tableSet p.portsDown port p.time) ∧
  (∀ a, a < 1728 → tableGet p.retention a = none → s.arrayIdle a = true →
    p.arraySinceOf a + nanoseconds 1000000 ≤ p.time →
    exec (.evRetentionEnter a) s = .next { s with pkg := p.setRetention a (some .entering) }) ∧
  (∀ a, (p.retentionDue a .entering = true →
      exec (.evRetentionEntered a) s = .next { s with pkg := p.setRetention a (some .retained) }) ∧
    (p.retentionDue a .turning = true →
      exec (.evRetentionEntered a) s = .next { s with pkg := p.setRetention a (some .leaving) })) ∧
  (∀ a t, p.retentionDue a .leaving = true →
    ({ s with pkg := p.setRetention a none } : State).select (if a < 1536 then dieOfCore a else (a - 1536) / 48) = some t →
    exec (.evRetentionLeave a) s = .next t) ∧
  (∀ c k rows, c < 96 → k < 4 →
    (Gives (.evRemapReload c k rows true) s fun t => OnlyPackage s t ∧
      t.pkg.rebuilding = p.rebuilding ++ [(c, k, rows, p.time + nanoseconds 20000)]) ∧
    (Gives (.evRemapReload c k rows false) s fun t =>
      bit (t.pkg.ctl (offFenced (c / 24))) (32 * (c / 24 % 2) + c % 24) = true ∧
      ∀ r ∈ rows, t.pkg.poisoned (rowLoc c k r) 256 = true)) ∧
  (∀ c k t, ({ s with pkg := { p with rebuilding := p.rebuilding.filter fun e => !(e.1 == c && e.2.1 == k) } } :
      State).selectAll = some t → exec (.evRemapRebuildEnd c k true) s = .next t) ∧
  (∀ die c bad u t, die < 4 → c < 48 → (∀ g ∈ p.gangs, g.cluster ≠ 48 * die + c) →
    p.retained (s.ownedArrays (48 * die + c)) = [] →
    let q := (p.setCtl (offDiestat die) (markOffline (p.ctl (offDiestat die)) c)).logEvent die 0x05 0xFFFF c 0
    ({ s with pkg := q } : State).emptyArrays (48 * die + c) bad = some u → u.select die = some t →
    exec (.evClusterFailure die c bad) s = .next t) ∧
  (∀ a v plan, let die := bits v 0 2
    (commands a = false ∨ bit v 2 = false ∨ p.mayLeave die = false → exec (.evOffreqWrite a v plan) s = .next s) ∧
    (commands a = true → bit v 2 = true → p.mayLeave die = true → (∀ g ∈ p.gangs, g.die ≠ die) →
      let u := ({ s with pkg := p.startEvac die plan } : State)
      bits (u.pkg.ctl (offDiestat die)) 0 2 = 2 ∧ ∀ t, (u.settleEvac die).select (u.pkg.otherDie die) = some t → exec (.evOffreqWrite a v plan) s = .next t)) ∧
  (∀ k r, p.evac[k]? = some r → bit (p.ctl (offPrt r.entry 0)) 0 = true → r.moved < p.blocksOf r →
    (s.blockFree k r = false → exec (.evEvacBlockMove k) s = .next s) ∧ (s.blockFree k r = true →
    let u := s.shiftBlock (p.blockMove r).1 (p.blockMove r).2 (p.strideOf r.entry)
    let r' : EvacRegion := { r with moved := r.moved + 1 }
    let w := ({ u with pkg := { u.pkg with evac := u.pkg.evac.set k r' } } : State)
    exec (.evEvacBlockMove k) s = .next (if w.pkg.blocksOf r' ≤ r.moved + 1 then w.endRegion k r' else w)))

/-- R6, R28, R85, R367, R406, R408 to R411: a cold reset leaves one hart at its reset values with no register written and
boots the image: READY, RECOVERY with the reason, or a failure of self-test or training; a recovery image is taken from
the host in RECOVERY; Markhor answers what it is asked.

What a warm reset ends and how an image is judged are the model's readings (log entries 18, 33 and 53), and so are how
tenant 0 is loaded (log entry 17), what is answered to a configuration that is refused (log entry 55), what a cold reset keeps
(log entry 59) and what becomes of text that is poisoned (log entry 83). -/
def Obligations.MarkhorEventsComplete : Prop := ∀ (s : State), let p := s.pkg
  (∀ i failed number domain gtime master, Gives (.evColdReset i failed number domain gtime master) s fun t =>
    t.h.x = Vector.replicate 32 0 ∧ t.h.v = Vector.replicate 32 0 ∧ t.h.status = .absent ∧ t.core = Core.reset 0 ∧
    t.rest = [] ∧ t.pkg.gangs = [] ∧ t.agenda = s.agenda ∧
    let phase := bits (t.pkg.ctl offBootstat) 0 3
    let err := bits (t.pkg.ctl offBootstat) 3 5
    (i.rsaGood = false → phase = 4 ∧ err = 1) ∧ (i.rsaGood = true → i.slhGood = false → phase = 4 ∧ err = 2) ∧
    (i.rsaGood = true → i.slhGood = true → i.version < i.minimum → phase = 4 ∧ err = 3) ∧
    (i.rsaGood = true → i.slhGood = true → i.minimum ≤ i.version → i.selfTestGood = true → i.trainingGood = true →
      phase = 3 ∧ err = 0 ∧ bits (t.pkg.ctl offBootstat) 16 16 = i.version % 2 ^ 16 ∧ t.pkg.number = number)) ∧
  (let w := ({ s with
      core := s.core.warm, h := Hart.reset p.draws
      rest := s.rest.map fun e => (e.1.warm, Hart.reset p.draws)
      pkg := p.warm } : State);
    exec .evWarmReset s = .next ((List.range 4).foldl State.settleEvac (w.loadTenant.tell s)) ∧
    w.core = { Core.reset s.core.id with turnAt := s.core.turnAt } ∧ p.warm.gangs = [] ∧ p.warm.copies = [] ∧
    p.warm.streams = [] ∧ p.warm.queues = [] ∧ p.warm.clusters = [] ∧ p.warm.time = p.time ∧
    bits (p.warm.ctl offBootstat) 32 24 = 0 ∧ (p.warm.ctl offTimestat).toNat < 4 ∧ p.warm.timeState = p.timeState ∧
    p.warm.ctl offPcap = Pkg.reset.ctl offPcap ∧ p.warm.ctl offTctl = Pkg.reset.ctl offTctl ∧
    ∀ die, die < 4 → p.warm.ctl (offStepmax die) = Pkg.reset.ctl (offStepmax die) ∧
      bits (p.warm.ctl (offDiestat die)) 4 1 = 0 ∧ p.warm.ctl (offFenced die) = 0 ∧
      (p.warm.die die).step = Die.reset.step ∧ (p.warm.die die).fstep = Die.reset.fstep ∧
      (p.warm.die die).groups = [] ∧ (p.warm.die die).cycle = (p.die die).cycle ∧
      (p.warm.die die).ncyc = (p.die die).ncyc ∧ (p.warm.die die).bbox = (p.die die).bbox) ∧
  (∀ a v i, (a ≠ .host ∨ bits (p.ctl offBootstat) 0 3 ≠ 4 → exec (.evRlenWrite a v i) s = .next s) ∧
    (bits (p.ctl offBootstat) 0 3 = 4 → imageFault i ≠ 0 → Gives (.evRlenWrite .host v i) s fun t => OnlyPackage s t ∧
      bits (t.pkg.ctl offBootstat) 0 3 = 4 ∧ bits (t.pkg.ctl offBootstat) 3 5 = imageFault i) ∧
    (bits (p.ctl offBootstat) 0 3 = 4 → imageFault i = 0 → i.selfTestGood = true → i.trainingGood = true →
      Gives (.evRlenWrite .host v i) s fun t => bits (t.pkg.ctl offBootstat) 0 3 = 3 ∧ t.h = s.h ∧ t.rest = s.rest)) ∧
  (∀ code, Gives (.evSpdmRequest code) s fun t => OnlyPackage s t ∧ ∃ o, t.pkg.outputs = p.outputs ++ [.spdm o]) ∧
  (∀ die first n, exec (.evBlackBoxRead die first n) s = .next { s with pkg := { p with
    outputs := p.outputs ++ [.blackBox (((p.die die).bbox.drop first).take n)] } }) ∧
  (Gives .evStandbyPowerLoss s fun t => OnlyPackage s t ∧ t.pkg.outputs = p.outputs ∧ ∀ die, (t.pkg.die die).bbox = []) ∧
  (∀ ctx i, (∀ x ∈ i.sections, x.base % 4 = 0) → (∀ x ∈ i.sections ++ i.readOnly, s.placed ctx x = true) →
    i.sections.findSome? (s.textPoison ctx) = none →
    (∀ c n o w, s.checkImage ctx i = some (c, n, o, w) →
      exec (.evImageCheck ctx i) s = .next (s.say (.checked c n o w))) ∧
    (s.checkImage ctx i = none → exec (.evImageCheck ctx i) s = .next ((s.openImage ctx i).say (.checked 0 0 0 0)))) ∧
  (∀ die tids u, let changed := p.changedBy die tids
    p.configs = [] → (die < 4 → p.retained (changed.flatMap fun c => s.ownedArrays (48 * die + c)) = []) →
    let ok := die < 4 ∧ tenantsOk tids = true ∧ ∀ c ∈ changed, s.mayChange (48 * die + c) = true
    (¬ok → exec (.evTenantConfigRequest die tids) s = .next (s.say (.tenants false))) ∧
    (ok → changed.foldl (fun (r : Option State) c => r.bind fun r => r.emptyArrays (48 * die + c) []) (some s) = some u →
      exec (.evTenantConfigRequest die tids) s = .next
        ((changed.foldl (fun r c => tenantReg die c (BitVec.ofNat 64 (tids.getD c 0)) r) u).say (.tenants true)))) ∧
  (s.h.present = true → (∀ w, exec (.evIllegalInsn w) s = takeTrap { cause := 0x01, value := w.zeroExtend 64 } s) ∧
    (∀ va, exec (.evFetchFault va) s = takeTrap { cause := 0x04, value := va } s) ∧
    (s.h.priv ≠ .machine → s.h.xSettled = true → s.noPulls →
      (∀ i < 36, (p.ownDram (s.frameAt (s.h.priv != .user) + 8 * i)).isSome = true) →
      let enters (cause : Nat) (value : Dword) (o : Out) : Prop := ∃ u, o = .next u ∧ u.h.ecause = BitVec.ofNat 64 cause ∧
        u.h.eval = value ∧ u.h.epc = setBits s.h.pc 0 2 0 ∧ bits u.h.estat 0 2 = s.h.priv.code ∧
        u.h.priv = (if s.h.priv = .user then .supervisor else .machine) ∧
        u.h.pc = setBits (s.trapReg (if s.h.priv = .user then 0 else 1)) 0 2 0 ∧ u.h.instret = s.h.instret ∧
        (∀ r, r ≠ 1 → u.x r = s.x r) ∧ u.h.v = s.h.v ∧ u.h.fcsr = s.h.fcsr ∧ u.core = s.core
      (∀ w, enters 0x01 (w.zeroExtend 64) (exec (.evIllegalInsn w) s)) ∧
      ∀ va, enters 0x04 va (exec (.evFetchFault va) s)))

/-! ### Words, steps and the whole machine -/

/-- R54 to R68: words written out from the formats and the tables of the opcodes decode to their instructions; a major
opcode that is not assigned, and a word whose unused field is not zero, decode to none. -/
def Obligations.WordsDecodeAsWritten : Prop :=
  decodeWord 0x04221800 0 = .ok (.add 1 2 3) ∧
  decodeWord 0x0822FFFF 0 = .ok (.addi 1 2 0xFFFF) ∧
  decodeWord 0x20A01234 0 = .ok (.lui 5 0x1234) ∧
  decodeWord 0x40220028 0 = .ok (.ld 1 2 1 2 0) ∧
  decodeWord 0x4422FFEC 0 = .ok (.st 1 2 0x7FF 3 0) ∧
  decodeWord 0x4C221803 0 = .ok (.amoadd 1 2 3 1) ∧
  decodeWord 0x6022FFFF 0 = .ok (.beq 1 2 0xFFFF) ∧
  decodeWord 0x80221940 0 = .ok (.vadd 1 2 3 1 2) ∧
  decodeWord 0xA0821942 0 = .ok (.mop 1 2 3 1 2 2) ∧
  decodeWord 0xC8050000 0 = .ok (.barrArrive 5) ∧
  decodeWord 0xE0000007 0 = .ok .eret ∧
  decodeWord 0xFC200000 0x12345678 = .ok (.lim 1 0x12345678) ∧
  decodeWord 0 0 = .error .reservedOp ∧ decodeWord 0x34000000 0 = .error .reservedOp ∧
  decodeWord 0x04221900 0 = .error .unusedField

/-- R52 to R68: every well-formed instruction decodes from its own words, and from the bytes that hold them, with every
operand at every value; its first word has 32 bits, its size is 4 bytes, or 8 for a long form. -/
def Obligations.EncodedInstructionsDecode : Prop := ∀ i : Instr, isEvent i = false → i.check = none →
  encodeWord i < 2 ^ 32 ∧ decodeWord (encodeWord i) ((secondWord i).getD 0) = .ok i ∧
  decode ((encode i).flatMap bytesOfWord) = .ok i ∧
  (encode i).length = (if encodeWord i / 2 ^ 26 = 0x3F then 2 else 1)

/-- R55, R71: a word that decodes has one meaning: it is the word of its instruction, which is well-formed. No two
words stand for one instruction, and no bit of a word is passed over. -/
def Obligations.DecodedWordsAreCanonical : Prop := ∀ (w v : Nat) (i : Instr), w < 2 ^ 32 → v < 2 ^ 32 →
  decodeWord w v = .ok i →
  encodeWord i = w ∧ i.check = none ∧ isEvent i = false ∧ (∀ x, secondWord i = some x → x = v) ∧
  ((secondWord i).isSome = true ↔ w / 2 ^ 26 = 0x3F)

/-- R52, R53, R71, R175: with nothing on the agenda, no event due and no instant before its edge, a step runs what the
bytes at the PC decode to: the fetched word is memory's four bytes where the instruction cache has no line of them; a
word that decodes runs exec of its instruction, after which a pending restart may end and the next core's hart is
looked at; any other takes ILLEGAL_INSN with the word in EVAL. An event of the agenda is exec of it.

That one hart's instruction is run per step, in the order of the cores, is the model's choice (log entry 23), as is that
events due come first (log entry 24). -/
def Obligations.StepRunsDecodedInstruction : Prop :=
  (∀ (s t : State) (w v : Nat), s.agenda = [] → s.event = none → s.instantBefore s.edge = none →
    let e := (s.advance s.edge).atEdge
    e.issues → fetchPair e = .ok ((w, v), t) → t.operandsReady w = true →
    let then_ (o : Out) : Out := mapNext (fun u => u.focus u.nextCore) o
    (∀ i, decodeWord w v = .ok i → step s = then_ (mapNext (fun u => u.endRestart w t.h) (exec i t))) ∧
    (∀ r, decodeWord w v = .error r → step s = then_ (takeTrap { cause := 0x01, value := BitVec.ofNat 64 w } t))) ∧
  (∀ (s u : State) (pc : Dword) (t : Target), pc.toNat % 4 = 0 →
    pc.toNat < windowBase ∨ windowBase + 2 ^ 32 ≤ pc.toNat →
    Ends (resolve s.who .fetch 0x04 pc pc.toNat) s t u → tableGet u.core.icache (t.loc / 64) = none → t.loc % 64 ≤ 60 →
    u.noPulls → u.pkg.held? t.loc 4 = false → u.pkg.poisoned t.loc 4 = false →
    ∃ x, Ends (fetchWord pc) s (natOf (u.getBytes t.loc 4)) x ∧ x.mem = u.mem ∧ x.h = u.h) ∧
  (∀ (s : State) (i : Instr) (l : List Act), isEvent i = true → s.agenda = .event i :: l →
    step s = exec i { s with agenda := l })

/-- R28, R29, R33 to R42, R47, R256, R257, R303, R408: what a reset leaves where the rules give a value: the x, v and cc
registers, the flags and lengths, the trap registers and the tiles 0; m0 all ones; MVL and MVC 32; the timed guards 16,
20 and 80 gt; GANGSZ and ACCEN 1, ACCOWN 0; no gang, no copy, no message on its way, no record in a queue, no region, no
cycle counted; nothing in the store buffer, the VDQ and the queue of store faults. -/
def Obligations.ResetLeavesTheRulesValues : Prop :=
  let s := State.reset
  s.h.x = Vector.replicate 32 0 ∧ s.h.v = Vector.replicate 32 0 ∧ s.h.cc = Vector.replicate 16 0 ∧
  (∀ k, k < 16 → s.mreg k = if k = 0 then BitVec.allOnes 256 else 0) ∧
  s.csr 0x001 = 0 ∧ s.csr 0x008 = 0 ∧ s.csr 0x009 = 0 ∧ s.csr 0x00A = 32 ∧ s.csr 0x00B = 32 ∧ s.csr 0x00C = 0 ∧
  s.csr 0x018 = BitVec.ofNat 64 (16 + 20 * 2 ^ 16 + 80 * 2 ^ 32) ∧ s.csr 0x019 = 0 ∧
  s.h.epc = 0 ∧ s.h.ecause = 0 ∧ s.h.eval = 0 ∧ s.h.estat = 0 ∧ s.h.eslice = 0 ∧ s.h.gangsz = 1 ∧ s.h.sb = [] ∧ s.h.vdq = [] ∧ s.h.sfq = [] ∧
  s.pkg.gangs = [] ∧ s.pkg.net = [] ∧ s.pkg.copies = [] ∧
  (∀ q, q < 64 → s.pkg.qcfg q = 0 ∧ s.pkg.qcount q = 0) ∧ (∀ n, n < 64 → bit (s.pkg.ctl (offPrt n 0)) 0 = false) ∧
  (∀ k, k < 8 → s.core.tiles.getD k (Vector.replicate 32 0) = Vector.replicate 32 0) ∧
  (∀ d, d < 4 → (s.pkg.die d).cycle = 0) ∧ s.core.accen = 1 ∧ s.core.accown = 0

/-- The machine after reset meets the invariant: memory lists nothing.

The form is the model's own: which list of cells stands for memory (log entry 1). -/
def Obligations.InvHoldsAtReset : Prop := State.reset.Inv

/-- Every step keeps the invariant, from every state that meets it: memory, and the bytes that controllers hold for
graph copies, stay in their canonical form, addresses rising and no entry equal to what an unlisted address reads as,
so that equal memories are equal data.

The form is the model's own: which list of cells stands for memory (log entry 1). -/
def Obligations.StepKeepsInv : Prop := ∀ s t : State, s.Inv → step s = .next t → t.Inv

/-- No instruction and no event is refused: exec answers a next state, or, where a save area cannot be reached, the
model's one fault.

The fault is the model's choice (log entry 20), for a context whose save area lies where no memory answers. -/
def Obligations.NothingIsRefused : Prop := ∀ (i : Instr) (s : State), Safe (exec i s) ∨ exec i s = .fault .csaUnreachable
end

