-- ==== Sys2Proof/Laws/Run.lean ====
section
/-! SUPPORT. How computations of `M` run: each combinator on a state, and what the ends of a computation make of a
meaning. -/

namespace Sys2Proof.Machine

variable {α β : Type}

@[simp] theorem run_pure (a : α) (s : State) : (pure a : M α) s = .ok (a, s) := rfl

@[simp] theorem run_get (s : State) : (get : M State) s = .ok (s, s) := rfl

@[simp] theorem run_set (t s : State) : (set t : M PUnit) s = .ok (⟨⟩, t) := rfl

@[simp] theorem run_modify (f : State → State) (s : State) : (modify f : M PUnit) s = .ok (⟨⟩, f s) := rfl

theorem run_bind (m : M α) (f : α → M β) (s : State) :
    (m >>= f) s = match m s with | .ok (a, t) => f a t | .error e => .error e := by
  show (bind (m s) fun p => f p.1 p.2) = _
  cases m s <;> rfl

/-- After a computation that ends with a value, the rest runs on its value and state. -/
theorem run_bind_ok {m : M α} {s t : State} {a : α} (h : Ends m s a t) (f : α → M β) : (m >>= f) s = f a t := by
  rw [run_bind, h]

@[simp] theorem run_pure_bind (a : α) (f : α → M β) (s : State) : (pure a >>= f : M β) s = f a s := rfl

@[simp] theorem run_get_bind (f : State → M β) (s : State) : ((get : M State) >>= f) s = f s s := rfl

@[simp] theorem run_set_bind (t : State) (f : PUnit → M β) (s : State) : ((set t : M PUnit) >>= f) s = f ⟨⟩ t := rfl

@[simp] theorem run_modify_bind (g : State → State) (f : PUnit → M β) (s : State) :
    ((modify g : M PUnit) >>= f) s = f ⟨⟩ (g s) := rfl

/-- A sequence ends where its two parts do. -/
theorem ends_bind {m : M α} {f : α → M β} {s t u : State} {a : α} {b : β} (h : Ends m s a t) (k : Ends (f a) t b u) :
    Ends (m >>= f) s b u := (run_bind_ok h f).trans k

/-- What the ends of a sequence say of its parts. -/
theorem ends_of_bind {m : M α} {f : α → M β} {s u : State} {b : β} (h : Ends (m >>= f) s b u) :
    ∃ a t, Ends m s a t ∧ Ends (f a) t b u := by
  unfold Ends at h
  rw [run_bind] at h
  split at h
  · exact ⟨_, _, ‹_›, h⟩
  · cases h

@[simp] theorem run_await_true (s : State) : await true s = .ok ((), s) := rfl

@[simp] theorem run_await_false (s : State) : await false s = .error .wait := rfl

theorem run_await (b : Bool) (s : State) : await b s = if b then .ok ((), s) else .error .wait := by cases b <;> rfl

@[simp] theorem run_raise (t : Trap) (s : State) : (raise t : M α) s = .error (.trap t s) := rfl

@[simp] theorem run_trapIf_false (c : Nat) (v : Dword) (s : State) : trapIf false c v s = .ok ((), s) := rfl

@[simp] theorem run_trapIf_true (c : Nat) (v : Dword) (s : State) :
    trapIf true c v s = .error (.trap { cause := c, value := v } s) := rfl

@[simp] theorem run_again (s : State) : (again : M α) s = .error (.again s) := rfl

/-- A partial operation that succeeds. -/
theorem run_orStop {f : State → Option State} {s t : State} (h : f s = some t) : orStop f s = .ok ((), t) := by
  simp [orStop, h]

/-- A partial operation ends only where it succeeds. -/
theorem ends_orStop {f : State → Option State} {s t : State} : Ends (orStop f) s () t ↔ f s = some t := by
  unfold Ends orStop
  cases f s <;> simp

/-- A computation that ends with a value is not changed by being all or nothing. -/
theorem allOrNothing_ok {m : M Unit} {s t : State} (h : Ends m s () t) : Ends (allOrNothing m) s () t := by
  simp [Ends, allOrNothing, show m s = _ from h]

/-- An instruction of one word whose meaning ends retires. -/
theorem finish_ok {m : M Unit} {s t : State} (h : Ends m s () t) : finish m s = .next t.retire := by
  simp [finish, show m s = _ from h]

theorem finishAt_ok {m : M Unit} {s t : State} (h : Ends m s () t) : finishAt m s = .next t := by
  simp [finishAt, show m s = _ from h]

/-- An instruction whose meaning raises a trap takes it, where no timed load owes an x register. -/
theorem finish_trap {m : M Unit} {s t : State} {k : Trap} (h : Traps m s k t) (w : t.entryWaits = false) :
    finish m s = takeTrap k t := by
  simp [finish, show m s = _ from h, w]

theorem finishAt_trap {m : M Unit} {s t : State} {k : Trap} (h : Traps m s k t) (w : t.entryWaits = false) :
    finishAt m s = takeTrap k t := by
  simp [finishAt, show m s = _ from h, w]

/-- The steps that a meaning may make: nothing, what has been done so far, its end, its trap, its entry into the
VDQ, or the stop. -/
theorem finish_cases (m : M Unit) (s : State) :
    (∃ t, Ends m s () t ∧ finish m s = .next t.retire) ∨
    (∃ k t, Traps m s k t ∧ finish m s = if t.entryWaits then .next s else takeTrap k t) ∨
    (m s = .error .wait ∧ finish m s = .next s) ∨ (∃ t, m s = .error (.again t) ∧ finish m s = .next t) ∨
    (∃ t, m s = .error (.queued t) ∧ finish m s = .next t.retire) ∨ ∃ f, m s = .error (.stop f) ∧ finish m s = .fault f := by
  unfold finish Ends Traps
  split <;> rename_i h
  · exact .inl ⟨_, h, rfl⟩
  · exact .inr (.inl ⟨_, _, h, rfl⟩)
  · exact .inr (.inr (.inl ⟨h, rfl⟩))
  · exact .inr (.inr (.inr (.inl ⟨_, h, rfl⟩)))
  · exact .inr (.inr (.inr (.inr (.inl ⟨_, h, rfl⟩))))
  · exact .inr (.inr (.inr (.inr (.inr ⟨_, h, rfl⟩))))

theorem finishAt_cases (m : M Unit) (s : State) :
    (∃ t, Ends m s () t ∧ finishAt m s = .next t) ∨
    (∃ k t, Traps m s k t ∧ finishAt m s = if t.entryWaits then .next s else takeTrap k t) ∨
    (m s = .error .wait ∧ finishAt m s = .next s) ∨ (∃ t, m s = .error (.again t) ∧ finishAt m s = .next t) ∨
    (∃ t, m s = .error (.queued t) ∧ finishAt m s = .next t.retire) ∨ ∃ f, m s = .error (.stop f) ∧ finishAt m s = .fault f := by
  unfold finishAt Ends Traps
  split <;> rename_i h
  · exact .inl ⟨_, h, rfl⟩
  · exact .inr (.inl ⟨_, _, h, rfl⟩)
  · exact .inr (.inr (.inl ⟨h, rfl⟩))
  · exact .inr (.inr (.inr (.inl ⟨_, h, rfl⟩)))
  · exact .inr (.inr (.inr (.inr (.inl ⟨_, h, rfl⟩))))
  · exact .inr (.inr (.inr (.inr (.inr ⟨_, h, rfl⟩))))

/-- An entry does not wait where no timed load owes an x register. -/
theorem entryWaits_of_settled {s : State} (h : s.h.xSettled = true) : s.entryWaits = false := by
  simp [State.entryWaits, h]

/-- A trap is never refused: it enters, waits, ends the gang, or stops at a save area out of reach. -/
theorem takeTrap_cases (t : Trap) (s : State) : Safe (takeTrap t s) ∨ takeTrap t s = .fault .csaUnreachable := by
  unfold takeTrap
  split
  · unfold doubleTrap
    dsimp only
    split
    · exact .inl ⟨_, rfl⟩
    · exact .inr rfl
  · split
    · exact .inl ⟨_, rfl⟩
    · dsimp only
      split
      · exact .inr rfl
      · exact .inl ⟨_, rfl⟩

/-- What a step of a meaning can be. -/
theorem finish_safe (m : M Unit) (s : State) : Safe (finish m s) ∨ finish m s = .fault .csaUnreachable := by
  obtain ⟨t, -, h⟩ | ⟨k, t, -, h⟩ | ⟨-, h⟩ | ⟨t, -, h⟩ | ⟨t, -, h⟩ | ⟨f, -, h⟩ := finish_cases m s <;> rw [h]
  · exact .inl ⟨_, rfl⟩
  · split
    · exact .inl ⟨_, rfl⟩
    · exact takeTrap_cases k t
  · exact .inl ⟨_, rfl⟩
  · exact .inl ⟨_, rfl⟩
  · exact .inl ⟨_, rfl⟩
  · cases f; exact .inr rfl

theorem finishAt_safe (m : M Unit) (s : State) : Safe (finishAt m s) ∨ finishAt m s = .fault .csaUnreachable := by
  obtain ⟨t, -, h⟩ | ⟨k, t, -, h⟩ | ⟨-, h⟩ | ⟨t, -, h⟩ | ⟨t, -, h⟩ | ⟨f, -, h⟩ := finishAt_cases m s <;> rw [h]
  · exact .inl ⟨_, rfl⟩
  · split
    · exact .inl ⟨_, rfl⟩
    · exact takeTrap_cases k t
  · exact .inl ⟨_, rfl⟩
  · exact .inl ⟨_, rfl⟩
  · exact .inl ⟨_, rfl⟩
  · cases f; exact .inr rfl

end Sys2Proof.Machine
end

