-- ==== Sys2Proof/Laws/State.lean ====
section
/-! SUPPORT. What the small operations on harts, states and the package do to each field. -/

namespace Sys2Proof.Machine

/-! ### Harts -/

@[simp] theorem Hart.setX_v (h : Hart) (r : BitVec 5) (v : Dword) : (h.setX r v).v = h.v := by unfold Hart.setX; split <;> rfl
@[simp] theorem Hart.setX_m (h : Hart) (r : BitVec 5) (v : Dword) : (h.setX r v).m = h.m := by unfold Hart.setX; split <;> rfl
@[simp] theorem Hart.setX_cc (h : Hart) (r : BitVec 5) (v : Dword) : (h.setX r v).cc = h.cc := by unfold Hart.setX; split <;> rfl
@[simp] theorem Hart.setX_pc (h : Hart) (r : BitVec 5) (v : Dword) : (h.setX r v).pc = h.pc := by unfold Hart.setX; split <;> rfl
@[simp] theorem Hart.setX_priv (h : Hart) (r : BitVec 5) (v : Dword) : (h.setX r v).priv = h.priv := by unfold Hart.setX; split <;> rfl
@[simp] theorem Hart.setX_fcsr (h : Hart) (r : BitVec 5) (v : Dword) : (h.setX r v).fcsr = h.fcsr := by unfold Hart.setX; split <;> rfl
@[simp] theorem Hart.setX_vl (h : Hart) (r : BitVec 5) (v : Dword) : (h.setX r v).vl = h.vl := by unfold Hart.setX; split <;> rfl
@[simp] theorem Hart.setX_vstart (h : Hart) (r : BitVec 5) (v : Dword) : (h.setX r v).vstart = h.vstart := by unfold Hart.setX; split <;> rfl
@[simp] theorem Hart.setX_mvl (h : Hart) (r : BitVec 5) (v : Dword) : (h.setX r v).mvl = h.mvl := by unfold Hart.setX; split <;> rfl
@[simp] theorem Hart.setX_mvc (h : Hart) (r : BitVec 5) (v : Dword) : (h.setX r v).mvc = h.mvc := by unfold Hart.setX; split <;> rfl
@[simp] theorem Hart.setX_rngkey (h : Hart) (r : BitVec 5) (v : Dword) : (h.setX r v).rngkey = h.rngkey := by unfold Hart.setX; split <;> rfl
@[simp] theorem Hart.setX_rngctr (h : Hart) (r : BitVec 5) (v : Dword) : (h.setX r v).rngctr = h.rngctr := by unfold Hart.setX; split <;> rfl
@[simp] theorem Hart.setX_tguard (h : Hart) (r : BitVec 5) (v : Dword) : (h.setX r v).tguard = h.tguard := by unfold Hart.setX; split <;> rfl
@[simp] theorem Hart.setX_tlate (h : Hart) (r : BitVec 5) (v : Dword) : (h.setX r v).tlate = h.tlate := by unfold Hart.setX; split <;> rfl
@[simp] theorem Hart.setX_instret (h : Hart) (r : BitVec 5) (v : Dword) : (h.setX r v).instret = h.instret := by unfold Hart.setX; split <;> rfl
@[simp] theorem Hart.setX_gangid (h : Hart) (r : BitVec 5) (v : Dword) : (h.setX r v).gangid = h.gangid := by unfold Hart.setX; split <;> rfl
@[simp] theorem Hart.setX_gidx (h : Hart) (r : BitVec 5) (v : Dword) : (h.setX r v).gidx = h.gidx := by unfold Hart.setX; split <;> rfl
@[simp] theorem Hart.setX_gangsz (h : Hart) (r : BitVec 5) (v : Dword) : (h.setX r v).gangsz = h.gangsz := by unfold Hart.setX; split <;> rfl
@[simp] theorem Hart.setX_ctxid (h : Hart) (r : BitVec 5) (v : Dword) : (h.setX r v).ctxid = h.ctxid := by unfold Hart.setX; split <;> rfl
@[simp] theorem Hart.setX_tid (h : Hart) (r : BitVec 5) (v : Dword) : (h.setX r v).tid = h.tid := by unfold Hart.setX; split <;> rfl
@[simp] theorem Hart.setX_epc (h : Hart) (r : BitVec 5) (v : Dword) : (h.setX r v).epc = h.epc := by unfold Hart.setX; split <;> rfl
@[simp] theorem Hart.setX_ecause (h : Hart) (r : BitVec 5) (v : Dword) : (h.setX r v).ecause = h.ecause := by unfold Hart.setX; split <;> rfl
@[simp] theorem Hart.setX_eval (h : Hart) (r : BitVec 5) (v : Dword) : (h.setX r v).eval = h.eval := by unfold Hart.setX; split <;> rfl
@[simp] theorem Hart.setX_eslice (h : Hart) (r : BitVec 5) (v : Dword) : (h.setX r v).eslice = h.eslice := by unfold Hart.setX; split <;> rfl
@[simp] theorem Hart.setX_estat (h : Hart) (r : BitVec 5) (v : Dword) : (h.setX r v).estat = h.estat := by unfold Hart.setX; split <;> rfl
@[simp] theorem Hart.setX_restart (h : Hart) (r : BitVec 5) (v : Dword) : (h.setX r v).restart = h.restart := by unfold Hart.setX; split <;> rfl
@[simp] theorem Hart.setX_sb (h : Hart) (r : BitVec 5) (v : Dword) : (h.setX r v).sb = h.sb := by unfold Hart.setX; split <;> rfl
@[simp] theorem Hart.setX_sfq (h : Hart) (r : BitVec 5) (v : Dword) : (h.setX r v).sfq = h.sfq := by unfold Hart.setX; split <;> rfl
@[simp] theorem Hart.setX_vdq (h : Hart) (r : BitVec 5) (v : Dword) : (h.setX r v).vdq = h.vdq := by unfold Hart.setX; split <;> rfl
@[simp] theorem Hart.setX_bar (h : Hart) (r : BitVec 5) (v : Dword) : (h.setX r v).bar = h.bar := by unfold Hart.setX; split <;> rfl
@[simp] theorem Hart.setX_subs (h : Hart) (r : BitVec 5) (v : Dword) : (h.setX r v).subs = h.subs := by unfold Hart.setX; split <;> rfl
@[simp] theorem Hart.setX_pubs (h : Hart) (r : BitVec 5) (v : Dword) : (h.setX r v).pubs = h.pubs := by unfold Hart.setX; split <;> rfl
@[simp] theorem Hart.setX_copyErrs (h : Hart) (r : BitVec 5) (v : Dword) : (h.setX r v).copyErrs = h.copyErrs := by unfold Hart.setX; split <;> rfl
@[simp] theorem Hart.setX_deadline (h : Hart) (r : BitVec 5) (v : Dword) : (h.setX r v).deadline = h.deadline := by unfold Hart.setX; split <;> rfl
@[simp] theorem Hart.setX_further (h : Hart) (r : BitVec 5) (v : Dword) : (h.setX r v).further = h.further := by unfold Hart.setX; split <;> rfl
@[simp] theorem Hart.setX_uncorrectable (h : Hart) (r : BitVec 5) (v : Dword) : (h.setX r v).uncorrectable = h.uncorrectable := by unfold Hart.setX; split <;> rfl
@[simp] theorem Hart.setX_notice (h : Hart) (r : BitVec 5) (v : Dword) : (h.setX r v).notice = h.notice := by unfold Hart.setX; split <;> rfl
@[simp] theorem Hart.setX_noticeWord (h : Hart) (r : BitVec 5) (v : Dword) : (h.setX r v).noticeWord = h.noticeWord := by unfold Hart.setX; split <;> rfl
@[simp] theorem Hart.setX_kill (h : Hart) (r : BitVec 5) (v : Dword) : (h.setX r v).kill = h.kill := by unfold Hart.setX; split <;> rfl
@[simp] theorem Hart.setX_preempt (h : Hart) (r : BitVec 5) (v : Dword) : (h.setX r v).preempt = h.preempt := by unfold Hart.setX; split <;> rfl
@[simp] theorem Hart.setX_pend (h : Hart) (r : BitVec 5) (v : Dword) : (h.setX r v).pend = h.pend := by unfold Hart.setX; split <;> rfl
@[simp] theorem Hart.setX_launchAt (h : Hart) (r : BitVec 5) (v : Dword) : (h.setX r v).launchAt = h.launchAt := by unfold Hart.setX; split <;> rfl
@[simp] theorem Hart.setX_launchCode (h : Hart) (r : BitVec 5) (v : Dword) : (h.setX r v).launchCode = h.launchCode := by unfold Hart.setX; split <;> rfl
@[simp] theorem Hart.setX_ahead (h : Hart) (r : BitVec 5) (v : Dword) : (h.setX r v).ahead = h.ahead := by unfold Hart.setX; split <;> rfl
@[simp] theorem Hart.setX_amid (h : Hart) (r : BitVec 5) (v : Dword) : (h.setX r v).amid = h.amid := by unfold Hart.setX; split <;> rfl
@[simp] theorem Hart.setX_waitAt (h : Hart) (r : BitVec 5) (v : Dword) : (h.setX r v).waitAt = h.waitAt := by unfold Hart.setX; split <;> rfl
@[simp] theorem Hart.setX_waitTags (h : Hart) (r : BitVec 5) (v : Dword) : (h.setX r v).waitTags = h.waitTags := by unfold Hart.setX; split <;> rfl
@[simp] theorem Hart.setX_waitTrap (h : Hart) (r : BitVec 5) (v : Dword) : (h.setX r v).waitTrap = h.waitTrap := by unfold Hart.setX; split <;> rfl
@[simp] theorem Hart.setX_waitFlags (h : Hart) (r : BitVec 5) (v : Dword) : (h.setX r v).waitFlags = h.waitFlags := by unfold Hart.setX; split <;> rfl
@[simp] theorem Hart.setX_head (h : Hart) (r : BitVec 5) (v : Dword) : (h.setX r v).head = h.head := by unfold Hart.setX; split <;> rfl
@[simp] theorem Hart.setX_pauseLeft (h : Hart) (r : BitVec 5) (v : Dword) : (h.setX r v).pauseLeft = h.pauseLeft := by unfold Hart.setX; split <;> rfl
@[simp] theorem Hart.setX_atWait (h : Hart) (r : BitVec 5) (v : Dword) : (h.setX r v).atWait = h.atWait := by unfold Hart.setX; split <;> rfl
@[simp] theorem Hart.setX_slot (h : Hart) (r : BitVec 5) (v : Dword) : (h.setX r v).slot = h.slot := by unfold Hart.setX; split <;> rfl
@[simp] theorem Hart.setX_poolDie (h : Hart) (r : BitVec 5) (v : Dword) : (h.setX r v).poolDie = h.poolDie := by unfold Hart.setX; split <;> rfl
@[simp] theorem Hart.setX_poolSecure (h : Hart) (r : BitVec 5) (v : Dword) : (h.setX r v).poolSecure = h.poolSecure := by unfold Hart.setX; split <;> rfl
@[simp] theorem Hart.setX_pbmp (h : Hart) (r : BitVec 5) (v : Dword) : (h.setX r v).pbmp = h.pbmp := by unfold Hart.setX; split <;> rfl
@[simp] theorem Hart.setX_status (h : Hart) (r : BitVec 5) (v : Dword) : (h.setX r v).status = h.status := by unfold Hart.setX; split <;> rfl
@[simp] theorem Hart.setX_dying (h : Hart) (r : BitVec 5) (v : Dword) : (h.setX r v).dying = h.dying := by unfold Hart.setX; split <;> rfl
@[simp] theorem Hart.setX_gang (h : Hart) (r : BitVec 5) (v : Dword) : (h.setX r v).gang = h.gang := by unfold Hart.setX; split <;> rfl
@[simp] theorem Hart.setX_clock (h : Hart) (r : BitVec 5) (v : Dword) : (h.setX r v).clock = h.clock := by unfold Hart.setX; split <;> rfl
@[simp] theorem Hart.setX_observed (h : Hart) (r : BitVec 5) (v : Dword) : (h.setX r v).observed = h.observed := by unfold Hart.setX; split <;> rfl
@[simp] theorem Hart.setX_armed (h : Hart) (r : BitVec 5) (v : Dword) : (h.setX r v).armed = h.armed := by unfold Hart.setX; split <;> rfl
@[simp] theorem Hart.setX_missAt (h : Hart) (r : BitVec 5) (v : Dword) : (h.setX r v).missAt = h.missAt := by unfold Hart.setX; split <;> rfl
@[simp] theorem Hart.setX_chunkBits (h : Hart) (r : BitVec 5) (v : Dword) : (h.setX r v).chunkBits = h.chunkBits := by unfold Hart.setX; split <;> rfl

@[simp] theorem Hart.released_x (h : Hart) : (h.released).x = h.x := rfl
@[simp] theorem Hart.released_v (h : Hart) : (h.released).v = h.v := rfl
@[simp] theorem Hart.released_m (h : Hart) : (h.released).m = h.m := rfl
@[simp] theorem Hart.released_cc (h : Hart) : (h.released).cc = h.cc := rfl
@[simp] theorem Hart.released_pc (h : Hart) : (h.released).pc = h.pc := rfl
@[simp] theorem Hart.released_priv (h : Hart) : (h.released).priv = h.priv := rfl
@[simp] theorem Hart.released_fcsr (h : Hart) : (h.released).fcsr = h.fcsr := rfl
@[simp] theorem Hart.released_vl (h : Hart) : (h.released).vl = h.vl := rfl
@[simp] theorem Hart.released_vstart (h : Hart) : (h.released).vstart = h.vstart := rfl
@[simp] theorem Hart.released_mvl (h : Hart) : (h.released).mvl = h.mvl := rfl
@[simp] theorem Hart.released_mvc (h : Hart) : (h.released).mvc = h.mvc := rfl
@[simp] theorem Hart.released_rngkey (h : Hart) : (h.released).rngkey = h.rngkey := rfl
@[simp] theorem Hart.released_rngctr (h : Hart) : (h.released).rngctr = h.rngctr := rfl
@[simp] theorem Hart.released_tguard (h : Hart) : (h.released).tguard = h.tguard := rfl
@[simp] theorem Hart.released_tlate (h : Hart) : (h.released).tlate = h.tlate := rfl
@[simp] theorem Hart.released_instret (h : Hart) : (h.released).instret = h.instret := rfl
@[simp] theorem Hart.released_gangid (h : Hart) : (h.released).gangid = h.gangid := rfl
@[simp] theorem Hart.released_gidx (h : Hart) : (h.released).gidx = h.gidx := rfl
@[simp] theorem Hart.released_gangsz (h : Hart) : (h.released).gangsz = h.gangsz := rfl
@[simp] theorem Hart.released_ctxid (h : Hart) : (h.released).ctxid = h.ctxid := rfl
@[simp] theorem Hart.released_tid (h : Hart) : (h.released).tid = h.tid := rfl
@[simp] theorem Hart.released_epc (h : Hart) : (h.released).epc = h.epc := rfl
@[simp] theorem Hart.released_ecause (h : Hart) : (h.released).ecause = h.ecause := rfl
@[simp] theorem Hart.released_eval (h : Hart) : (h.released).eval = h.eval := rfl
@[simp] theorem Hart.released_eslice (h : Hart) : (h.released).eslice = h.eslice := rfl
@[simp] theorem Hart.released_estat (h : Hart) : (h.released).estat = h.estat := rfl
@[simp] theorem Hart.released_restart (h : Hart) : (h.released).restart = h.restart := rfl
@[simp] theorem Hart.released_sb (h : Hart) : (h.released).sb = h.sb := rfl
@[simp] theorem Hart.released_sfq (h : Hart) : (h.released).sfq = h.sfq := rfl
@[simp] theorem Hart.released_vdq (h : Hart) : (h.released).vdq = h.vdq := rfl
@[simp] theorem Hart.released_bar (h : Hart) : (h.released).bar = h.bar := rfl
@[simp] theorem Hart.released_subs (h : Hart) : (h.released).subs = h.subs := rfl
@[simp] theorem Hart.released_pubs (h : Hart) : (h.released).pubs = h.pubs := rfl
@[simp] theorem Hart.released_copyErrs (h : Hart) : (h.released).copyErrs = h.copyErrs := rfl
@[simp] theorem Hart.released_deadline (h : Hart) : (h.released).deadline = h.deadline := rfl
@[simp] theorem Hart.released_further (h : Hart) : (h.released).further = h.further := rfl
@[simp] theorem Hart.released_uncorrectable (h : Hart) : (h.released).uncorrectable = h.uncorrectable := rfl
@[simp] theorem Hart.released_notice (h : Hart) : (h.released).notice = h.notice := rfl
@[simp] theorem Hart.released_noticeWord (h : Hart) : (h.released).noticeWord = h.noticeWord := rfl
@[simp] theorem Hart.released_kill (h : Hart) : (h.released).kill = h.kill := rfl
@[simp] theorem Hart.released_preempt (h : Hart) : (h.released).preempt = h.preempt := rfl
@[simp] theorem Hart.released_pend (h : Hart) : (h.released).pend = h.pend := rfl
@[simp] theorem Hart.released_launchAt (h : Hart) : (h.released).launchAt = h.launchAt := rfl
@[simp] theorem Hart.released_launchCode (h : Hart) : (h.released).launchCode = h.launchCode := rfl
@[simp] theorem Hart.released_ahead (h : Hart) : (h.released).ahead = h.ahead := rfl
@[simp] theorem Hart.released_amid (h : Hart) : (h.released).amid = h.amid := rfl
@[simp] theorem Hart.released_waitAt (h : Hart) : (h.released).waitAt = h.waitAt := rfl
@[simp] theorem Hart.released_waitTags (h : Hart) : (h.released).waitTags = h.waitTags := rfl
@[simp] theorem Hart.released_waitTrap (h : Hart) : (h.released).waitTrap = h.waitTrap := rfl
@[simp] theorem Hart.released_waitFlags (h : Hart) : (h.released).waitFlags = h.waitFlags := rfl
@[simp] theorem Hart.released_head (h : Hart) : (h.released).head = h.head := rfl
@[simp] theorem Hart.released_pauseLeft (h : Hart) : (h.released).pauseLeft = h.pauseLeft := rfl
@[simp] theorem Hart.released_atWait (h : Hart) : (h.released).atWait = h.atWait := rfl
@[simp] theorem Hart.released_slot (h : Hart) : (h.released).slot = h.slot := rfl
@[simp] theorem Hart.released_poolDie (h : Hart) : (h.released).poolDie = h.poolDie := rfl
@[simp] theorem Hart.released_poolSecure (h : Hart) : (h.released).poolSecure = h.poolSecure := rfl
@[simp] theorem Hart.released_pbmp (h : Hart) : (h.released).pbmp = h.pbmp := rfl
@[simp] theorem Hart.released_status (h : Hart) : (h.released).status = h.status := rfl
@[simp] theorem Hart.released_dying (h : Hart) : (h.released).dying = h.dying := rfl
@[simp] theorem Hart.released_gang (h : Hart) : (h.released).gang = h.gang := rfl
@[simp] theorem Hart.released_observed (h : Hart) : (h.released).observed = h.observed := rfl
@[simp] theorem Hart.released_armed (h : Hart) : (h.released).armed = h.armed := rfl
@[simp] theorem Hart.released_missAt (h : Hart) : (h.released).missAt = h.missAt := rfl
@[simp] theorem Hart.released_chunkBits (h : Hart) : (h.released).chunkBits = h.chunkBits := rfl

@[simp] theorem Hart.acquired_x (h : Hart) (c : List (Nat × Nat)) : (h.acquired c).x = h.x := rfl
@[simp] theorem Hart.acquired_v (h : Hart) (c : List (Nat × Nat)) : (h.acquired c).v = h.v := rfl
@[simp] theorem Hart.acquired_m (h : Hart) (c : List (Nat × Nat)) : (h.acquired c).m = h.m := rfl
@[simp] theorem Hart.acquired_cc (h : Hart) (c : List (Nat × Nat)) : (h.acquired c).cc = h.cc := rfl
@[simp] theorem Hart.acquired_pc (h : Hart) (c : List (Nat × Nat)) : (h.acquired c).pc = h.pc := rfl
@[simp] theorem Hart.acquired_priv (h : Hart) (c : List (Nat × Nat)) : (h.acquired c).priv = h.priv := rfl
@[simp] theorem Hart.acquired_fcsr (h : Hart) (c : List (Nat × Nat)) : (h.acquired c).fcsr = h.fcsr := rfl
@[simp] theorem Hart.acquired_vl (h : Hart) (c : List (Nat × Nat)) : (h.acquired c).vl = h.vl := rfl
@[simp] theorem Hart.acquired_vstart (h : Hart) (c : List (Nat × Nat)) : (h.acquired c).vstart = h.vstart := rfl
@[simp] theorem Hart.acquired_mvl (h : Hart) (c : List (Nat × Nat)) : (h.acquired c).mvl = h.mvl := rfl
@[simp] theorem Hart.acquired_mvc (h : Hart) (c : List (Nat × Nat)) : (h.acquired c).mvc = h.mvc := rfl
@[simp] theorem Hart.acquired_rngkey (h : Hart) (c : List (Nat × Nat)) : (h.acquired c).rngkey = h.rngkey := rfl
@[simp] theorem Hart.acquired_rngctr (h : Hart) (c : List (Nat × Nat)) : (h.acquired c).rngctr = h.rngctr := rfl
@[simp] theorem Hart.acquired_tguard (h : Hart) (c : List (Nat × Nat)) : (h.acquired c).tguard = h.tguard := rfl
@[simp] theorem Hart.acquired_tlate (h : Hart) (c : List (Nat × Nat)) : (h.acquired c).tlate = h.tlate := rfl
@[simp] theorem Hart.acquired_instret (h : Hart) (c : List (Nat × Nat)) : (h.acquired c).instret = h.instret := rfl
@[simp] theorem Hart.acquired_gangid (h : Hart) (c : List (Nat × Nat)) : (h.acquired c).gangid = h.gangid := rfl
@[simp] theorem Hart.acquired_gidx (h : Hart) (c : List (Nat × Nat)) : (h.acquired c).gidx = h.gidx := rfl
@[simp] theorem Hart.acquired_gangsz (h : Hart) (c : List (Nat × Nat)) : (h.acquired c).gangsz = h.gangsz := rfl
@[simp] theorem Hart.acquired_ctxid (h : Hart) (c : List (Nat × Nat)) : (h.acquired c).ctxid = h.ctxid := rfl
@[simp] theorem Hart.acquired_tid (h : Hart) (c : List (Nat × Nat)) : (h.acquired c).tid = h.tid := rfl
@[simp] theorem Hart.acquired_epc (h : Hart) (c : List (Nat × Nat)) : (h.acquired c).epc = h.epc := rfl
@[simp] theorem Hart.acquired_ecause (h : Hart) (c : List (Nat × Nat)) : (h.acquired c).ecause = h.ecause := rfl
@[simp] theorem Hart.acquired_eval (h : Hart) (c : List (Nat × Nat)) : (h.acquired c).eval = h.eval := rfl
@[simp] theorem Hart.acquired_eslice (h : Hart) (c : List (Nat × Nat)) : (h.acquired c).eslice = h.eslice := rfl
@[simp] theorem Hart.acquired_estat (h : Hart) (c : List (Nat × Nat)) : (h.acquired c).estat = h.estat := rfl
@[simp] theorem Hart.acquired_restart (h : Hart) (c : List (Nat × Nat)) : (h.acquired c).restart = h.restart := rfl
@[simp] theorem Hart.acquired_sb (h : Hart) (c : List (Nat × Nat)) : (h.acquired c).sb = h.sb := rfl
@[simp] theorem Hart.acquired_sfq (h : Hart) (c : List (Nat × Nat)) : (h.acquired c).sfq = h.sfq := rfl
@[simp] theorem Hart.acquired_vdq (h : Hart) (c : List (Nat × Nat)) : (h.acquired c).vdq = h.vdq := rfl
@[simp] theorem Hart.acquired_bar (h : Hart) (c : List (Nat × Nat)) : (h.acquired c).bar = h.bar := rfl
@[simp] theorem Hart.acquired_subs (h : Hart) (c : List (Nat × Nat)) : (h.acquired c).subs = h.subs := rfl
@[simp] theorem Hart.acquired_pubs (h : Hart) (c : List (Nat × Nat)) : (h.acquired c).pubs = h.pubs := rfl
@[simp] theorem Hart.acquired_copyErrs (h : Hart) (c : List (Nat × Nat)) : (h.acquired c).copyErrs = h.copyErrs := rfl
@[simp] theorem Hart.acquired_deadline (h : Hart) (c : List (Nat × Nat)) : (h.acquired c).deadline = h.deadline := rfl
@[simp] theorem Hart.acquired_further (h : Hart) (c : List (Nat × Nat)) : (h.acquired c).further = h.further := rfl
@[simp] theorem Hart.acquired_uncorrectable (h : Hart) (c : List (Nat × Nat)) : (h.acquired c).uncorrectable = h.uncorrectable := rfl
@[simp] theorem Hart.acquired_notice (h : Hart) (c : List (Nat × Nat)) : (h.acquired c).notice = h.notice := rfl
@[simp] theorem Hart.acquired_noticeWord (h : Hart) (c : List (Nat × Nat)) : (h.acquired c).noticeWord = h.noticeWord := rfl
@[simp] theorem Hart.acquired_kill (h : Hart) (c : List (Nat × Nat)) : (h.acquired c).kill = h.kill := rfl
@[simp] theorem Hart.acquired_preempt (h : Hart) (c : List (Nat × Nat)) : (h.acquired c).preempt = h.preempt := rfl
@[simp] theorem Hart.acquired_pend (h : Hart) (c : List (Nat × Nat)) : (h.acquired c).pend = h.pend := rfl
@[simp] theorem Hart.acquired_launchAt (h : Hart) (c : List (Nat × Nat)) : (h.acquired c).launchAt = h.launchAt := rfl
@[simp] theorem Hart.acquired_launchCode (h : Hart) (c : List (Nat × Nat)) : (h.acquired c).launchCode = h.launchCode := rfl
@[simp] theorem Hart.acquired_ahead (h : Hart) (c : List (Nat × Nat)) : (h.acquired c).ahead = h.ahead := rfl
@[simp] theorem Hart.acquired_amid (h : Hart) (c : List (Nat × Nat)) : (h.acquired c).amid = h.amid := rfl
@[simp] theorem Hart.acquired_waitAt (h : Hart) (c : List (Nat × Nat)) : (h.acquired c).waitAt = h.waitAt := rfl
@[simp] theorem Hart.acquired_waitTags (h : Hart) (c : List (Nat × Nat)) : (h.acquired c).waitTags = h.waitTags := rfl
@[simp] theorem Hart.acquired_waitTrap (h : Hart) (c : List (Nat × Nat)) : (h.acquired c).waitTrap = h.waitTrap := rfl
@[simp] theorem Hart.acquired_waitFlags (h : Hart) (c : List (Nat × Nat)) : (h.acquired c).waitFlags = h.waitFlags := rfl
@[simp] theorem Hart.acquired_head (h : Hart) (c : List (Nat × Nat)) : (h.acquired c).head = h.head := rfl
@[simp] theorem Hart.acquired_pauseLeft (h : Hart) (c : List (Nat × Nat)) : (h.acquired c).pauseLeft = h.pauseLeft := rfl
@[simp] theorem Hart.acquired_atWait (h : Hart) (c : List (Nat × Nat)) : (h.acquired c).atWait = h.atWait := rfl
@[simp] theorem Hart.acquired_slot (h : Hart) (c : List (Nat × Nat)) : (h.acquired c).slot = h.slot := rfl
@[simp] theorem Hart.acquired_poolDie (h : Hart) (c : List (Nat × Nat)) : (h.acquired c).poolDie = h.poolDie := rfl
@[simp] theorem Hart.acquired_poolSecure (h : Hart) (c : List (Nat × Nat)) : (h.acquired c).poolSecure = h.poolSecure := rfl
@[simp] theorem Hart.acquired_pbmp (h : Hart) (c : List (Nat × Nat)) : (h.acquired c).pbmp = h.pbmp := rfl
@[simp] theorem Hart.acquired_status (h : Hart) (c : List (Nat × Nat)) : (h.acquired c).status = h.status := rfl
@[simp] theorem Hart.acquired_dying (h : Hart) (c : List (Nat × Nat)) : (h.acquired c).dying = h.dying := rfl
@[simp] theorem Hart.acquired_gang (h : Hart) (c : List (Nat × Nat)) : (h.acquired c).gang = h.gang := rfl
@[simp] theorem Hart.acquired_observed (h : Hart) (c : List (Nat × Nat)) : (h.acquired c).observed = h.observed := rfl
@[simp] theorem Hart.acquired_armed (h : Hart) (c : List (Nat × Nat)) : (h.acquired c).armed = h.armed := rfl
@[simp] theorem Hart.acquired_missAt (h : Hart) (c : List (Nat × Nat)) : (h.acquired c).missAt = h.missAt := rfl
@[simp] theorem Hart.acquired_chunkBits (h : Hart) (c : List (Nat × Nat)) : (h.acquired c).chunkBits = h.chunkBits := rfl

@[simp] theorem Hart.atStore_x (h : Hart) (k : StoreKind) : (h.atStore k).x = h.x := by cases k <;> first | rfl | (unfold Hart.atStore; dsimp only; split <;> rfl)
@[simp] theorem Hart.atStore_v (h : Hart) (k : StoreKind) : (h.atStore k).v = h.v := by cases k <;> first | rfl | (unfold Hart.atStore; dsimp only; split <;> rfl)
@[simp] theorem Hart.atStore_m (h : Hart) (k : StoreKind) : (h.atStore k).m = h.m := by cases k <;> first | rfl | (unfold Hart.atStore; dsimp only; split <;> rfl)
@[simp] theorem Hart.atStore_cc (h : Hart) (k : StoreKind) : (h.atStore k).cc = h.cc := by cases k <;> first | rfl | (unfold Hart.atStore; dsimp only; split <;> rfl)
@[simp] theorem Hart.atStore_pc (h : Hart) (k : StoreKind) : (h.atStore k).pc = h.pc := by cases k <;> first | rfl | (unfold Hart.atStore; dsimp only; split <;> rfl)
@[simp] theorem Hart.atStore_priv (h : Hart) (k : StoreKind) : (h.atStore k).priv = h.priv := by cases k <;> first | rfl | (unfold Hart.atStore; dsimp only; split <;> rfl)
@[simp] theorem Hart.atStore_fcsr (h : Hart) (k : StoreKind) : (h.atStore k).fcsr = h.fcsr := by cases k <;> first | rfl | (unfold Hart.atStore; dsimp only; split <;> rfl)
@[simp] theorem Hart.atStore_vl (h : Hart) (k : StoreKind) : (h.atStore k).vl = h.vl := by cases k <;> first | rfl | (unfold Hart.atStore; dsimp only; split <;> rfl)
@[simp] theorem Hart.atStore_vstart (h : Hart) (k : StoreKind) : (h.atStore k).vstart = h.vstart := by cases k <;> first | rfl | (unfold Hart.atStore; dsimp only; split <;> rfl)
@[simp] theorem Hart.atStore_mvl (h : Hart) (k : StoreKind) : (h.atStore k).mvl = h.mvl := by cases k <;> first | rfl | (unfold Hart.atStore; dsimp only; split <;> rfl)
@[simp] theorem Hart.atStore_mvc (h : Hart) (k : StoreKind) : (h.atStore k).mvc = h.mvc := by cases k <;> first | rfl | (unfold Hart.atStore; dsimp only; split <;> rfl)
@[simp] theorem Hart.atStore_rngkey (h : Hart) (k : StoreKind) : (h.atStore k).rngkey = h.rngkey := by cases k <;> first | rfl | (unfold Hart.atStore; dsimp only; split <;> rfl)
@[simp] theorem Hart.atStore_rngctr (h : Hart) (k : StoreKind) : (h.atStore k).rngctr = h.rngctr := by cases k <;> first | rfl | (unfold Hart.atStore; dsimp only; split <;> rfl)
@[simp] theorem Hart.atStore_tguard (h : Hart) (k : StoreKind) : (h.atStore k).tguard = h.tguard := by cases k <;> first | rfl | (unfold Hart.atStore; dsimp only; split <;> rfl)
@[simp] theorem Hart.atStore_tlate (h : Hart) (k : StoreKind) : (h.atStore k).tlate = h.tlate := by cases k <;> first | rfl | (unfold Hart.atStore; dsimp only; split <;> rfl)
@[simp] theorem Hart.atStore_instret (h : Hart) (k : StoreKind) : (h.atStore k).instret = h.instret := by cases k <;> first | rfl | (unfold Hart.atStore; dsimp only; split <;> rfl)
@[simp] theorem Hart.atStore_gangid (h : Hart) (k : StoreKind) : (h.atStore k).gangid = h.gangid := by cases k <;> first | rfl | (unfold Hart.atStore; dsimp only; split <;> rfl)
@[simp] theorem Hart.atStore_gidx (h : Hart) (k : StoreKind) : (h.atStore k).gidx = h.gidx := by cases k <;> first | rfl | (unfold Hart.atStore; dsimp only; split <;> rfl)
@[simp] theorem Hart.atStore_gangsz (h : Hart) (k : StoreKind) : (h.atStore k).gangsz = h.gangsz := by cases k <;> first | rfl | (unfold Hart.atStore; dsimp only; split <;> rfl)
@[simp] theorem Hart.atStore_ctxid (h : Hart) (k : StoreKind) : (h.atStore k).ctxid = h.ctxid := by cases k <;> first | rfl | (unfold Hart.atStore; dsimp only; split <;> rfl)
@[simp] theorem Hart.atStore_tid (h : Hart) (k : StoreKind) : (h.atStore k).tid = h.tid := by cases k <;> first | rfl | (unfold Hart.atStore; dsimp only; split <;> rfl)
@[simp] theorem Hart.atStore_epc (h : Hart) (k : StoreKind) : (h.atStore k).epc = h.epc := by cases k <;> first | rfl | (unfold Hart.atStore; dsimp only; split <;> rfl)
@[simp] theorem Hart.atStore_ecause (h : Hart) (k : StoreKind) : (h.atStore k).ecause = h.ecause := by cases k <;> first | rfl | (unfold Hart.atStore; dsimp only; split <;> rfl)
@[simp] theorem Hart.atStore_eval (h : Hart) (k : StoreKind) : (h.atStore k).eval = h.eval := by cases k <;> first | rfl | (unfold Hart.atStore; dsimp only; split <;> rfl)
@[simp] theorem Hart.atStore_eslice (h : Hart) (k : StoreKind) : (h.atStore k).eslice = h.eslice := by cases k <;> first | rfl | (unfold Hart.atStore; dsimp only; split <;> rfl)
@[simp] theorem Hart.atStore_estat (h : Hart) (k : StoreKind) : (h.atStore k).estat = h.estat := by cases k <;> first | rfl | (unfold Hart.atStore; dsimp only; split <;> rfl)
@[simp] theorem Hart.atStore_restart (h : Hart) (k : StoreKind) : (h.atStore k).restart = h.restart := by cases k <;> first | rfl | (unfold Hart.atStore; dsimp only; split <;> rfl)
@[simp] theorem Hart.atStore_sb (h : Hart) (k : StoreKind) : (h.atStore k).sb = h.sb := by cases k <;> first | rfl | (unfold Hart.atStore; dsimp only; split <;> rfl)
@[simp] theorem Hart.atStore_sfq (h : Hart) (k : StoreKind) : (h.atStore k).sfq = h.sfq := by cases k <;> first | rfl | (unfold Hart.atStore; dsimp only; split <;> rfl)
@[simp] theorem Hart.atStore_vdq (h : Hart) (k : StoreKind) : (h.atStore k).vdq = h.vdq := by cases k <;> first | rfl | (unfold Hart.atStore; dsimp only; split <;> rfl)
@[simp] theorem Hart.atStore_bar (h : Hart) (k : StoreKind) : (h.atStore k).bar = h.bar := by cases k <;> first | rfl | (unfold Hart.atStore; dsimp only; split <;> rfl)
@[simp] theorem Hart.atStore_subs (h : Hart) (k : StoreKind) : (h.atStore k).subs = h.subs := by cases k <;> first | rfl | (unfold Hart.atStore; dsimp only; split <;> rfl)
@[simp] theorem Hart.atStore_pubs (h : Hart) (k : StoreKind) : (h.atStore k).pubs = h.pubs := by cases k <;> first | rfl | (unfold Hart.atStore; dsimp only; split <;> rfl)
@[simp] theorem Hart.atStore_copyErrs (h : Hart) (k : StoreKind) : (h.atStore k).copyErrs = h.copyErrs := by cases k <;> first | rfl | (unfold Hart.atStore; dsimp only; split <;> rfl)
@[simp] theorem Hart.atStore_deadline (h : Hart) (k : StoreKind) : (h.atStore k).deadline = h.deadline := by cases k <;> first | rfl | (unfold Hart.atStore; dsimp only; split <;> rfl)
@[simp] theorem Hart.atStore_further (h : Hart) (k : StoreKind) : (h.atStore k).further = h.further := by cases k <;> first | rfl | (unfold Hart.atStore; dsimp only; split <;> rfl)
@[simp] theorem Hart.atStore_uncorrectable (h : Hart) (k : StoreKind) : (h.atStore k).uncorrectable = h.uncorrectable := by cases k <;> first | rfl | (unfold Hart.atStore; dsimp only; split <;> rfl)
@[simp] theorem Hart.atStore_notice (h : Hart) (k : StoreKind) : (h.atStore k).notice = h.notice := by cases k <;> first | rfl | (unfold Hart.atStore; dsimp only; split <;> rfl)
@[simp] theorem Hart.atStore_noticeWord (h : Hart) (k : StoreKind) : (h.atStore k).noticeWord = h.noticeWord := by cases k <;> first | rfl | (unfold Hart.atStore; dsimp only; split <;> rfl)
@[simp] theorem Hart.atStore_kill (h : Hart) (k : StoreKind) : (h.atStore k).kill = h.kill := by cases k <;> first | rfl | (unfold Hart.atStore; dsimp only; split <;> rfl)
@[simp] theorem Hart.atStore_preempt (h : Hart) (k : StoreKind) : (h.atStore k).preempt = h.preempt := by cases k <;> first | rfl | (unfold Hart.atStore; dsimp only; split <;> rfl)
@[simp] theorem Hart.atStore_pend (h : Hart) (k : StoreKind) : (h.atStore k).pend = h.pend := by cases k <;> first | rfl | (unfold Hart.atStore; dsimp only; split <;> rfl)
@[simp] theorem Hart.atStore_launchAt (h : Hart) (k : StoreKind) : (h.atStore k).launchAt = h.launchAt := by cases k <;> first | rfl | (unfold Hart.atStore; dsimp only; split <;> rfl)
@[simp] theorem Hart.atStore_launchCode (h : Hart) (k : StoreKind) : (h.atStore k).launchCode = h.launchCode := by cases k <;> first | rfl | (unfold Hart.atStore; dsimp only; split <;> rfl)
@[simp] theorem Hart.atStore_ahead (h : Hart) (k : StoreKind) : (h.atStore k).ahead = h.ahead := by cases k <;> first | rfl | (unfold Hart.atStore; dsimp only; split <;> rfl)
@[simp] theorem Hart.atStore_amid (h : Hart) (k : StoreKind) : (h.atStore k).amid = h.amid := by cases k <;> first | rfl | (unfold Hart.atStore; dsimp only; split <;> rfl)
@[simp] theorem Hart.atStore_waitAt (h : Hart) (k : StoreKind) : (h.atStore k).waitAt = h.waitAt := by cases k <;> first | rfl | (unfold Hart.atStore; dsimp only; split <;> rfl)
@[simp] theorem Hart.atStore_waitTags (h : Hart) (k : StoreKind) : (h.atStore k).waitTags = h.waitTags := by cases k <;> first | rfl | (unfold Hart.atStore; dsimp only; split <;> rfl)
@[simp] theorem Hart.atStore_waitTrap (h : Hart) (k : StoreKind) : (h.atStore k).waitTrap = h.waitTrap := by cases k <;> first | rfl | (unfold Hart.atStore; dsimp only; split <;> rfl)
@[simp] theorem Hart.atStore_waitFlags (h : Hart) (k : StoreKind) : (h.atStore k).waitFlags = h.waitFlags := by cases k <;> first | rfl | (unfold Hart.atStore; dsimp only; split <;> rfl)
@[simp] theorem Hart.atStore_head (h : Hart) (k : StoreKind) : (h.atStore k).head = h.head := by cases k <;> first | rfl | (unfold Hart.atStore; dsimp only; split <;> rfl)
@[simp] theorem Hart.atStore_pauseLeft (h : Hart) (k : StoreKind) : (h.atStore k).pauseLeft = h.pauseLeft := by cases k <;> first | rfl | (unfold Hart.atStore; dsimp only; split <;> rfl)
@[simp] theorem Hart.atStore_atWait (h : Hart) (k : StoreKind) : (h.atStore k).atWait = h.atWait := by cases k <;> first | rfl | (unfold Hart.atStore; dsimp only; split <;> rfl)
@[simp] theorem Hart.atStore_slot (h : Hart) (k : StoreKind) : (h.atStore k).slot = h.slot := by cases k <;> first | rfl | (unfold Hart.atStore; dsimp only; split <;> rfl)
@[simp] theorem Hart.atStore_poolDie (h : Hart) (k : StoreKind) : (h.atStore k).poolDie = h.poolDie := by cases k <;> first | rfl | (unfold Hart.atStore; dsimp only; split <;> rfl)
@[simp] theorem Hart.atStore_poolSecure (h : Hart) (k : StoreKind) : (h.atStore k).poolSecure = h.poolSecure := by cases k <;> first | rfl | (unfold Hart.atStore; dsimp only; split <;> rfl)
@[simp] theorem Hart.atStore_pbmp (h : Hart) (k : StoreKind) : (h.atStore k).pbmp = h.pbmp := by cases k <;> first | rfl | (unfold Hart.atStore; dsimp only; split <;> rfl)
@[simp] theorem Hart.atStore_status (h : Hart) (k : StoreKind) : (h.atStore k).status = h.status := by cases k <;> first | rfl | (unfold Hart.atStore; dsimp only; split <;> rfl)
@[simp] theorem Hart.atStore_dying (h : Hart) (k : StoreKind) : (h.atStore k).dying = h.dying := by cases k <;> first | rfl | (unfold Hart.atStore; dsimp only; split <;> rfl)
@[simp] theorem Hart.atStore_gang (h : Hart) (k : StoreKind) : (h.atStore k).gang = h.gang := by cases k <;> first | rfl | (unfold Hart.atStore; dsimp only; split <;> rfl)
@[simp] theorem Hart.atStore_observed (h : Hart) (k : StoreKind) : (h.atStore k).observed = h.observed := by cases k <;> first | rfl | (unfold Hart.atStore; dsimp only; split <;> rfl)
@[simp] theorem Hart.atStore_missAt (h : Hart) (k : StoreKind) : (h.atStore k).missAt = h.missAt := by cases k <;> first | rfl | (unfold Hart.atStore; dsimp only; split <;> rfl)
@[simp] theorem Hart.atStore_chunkBits (h : Hart) (k : StoreKind) : (h.atStore k).chunkBits = h.chunkBits := by cases k <;> first | rfl | (unfold Hart.atStore; dsimp only; split <;> rfl)

/-! ### States: registers -/

@[simp] theorem State.setX_h (s : State) (r : BitVec 5) (v : Dword) : (s.setX r v).h = s.h.setX r v := rfl
@[simp] theorem State.setX_core (s : State) (r : BitVec 5) (v : Dword) : (s.setX r v).core = s.core := rfl
@[simp] theorem State.setX_rest (s : State) (r : BitVec 5) (v : Dword) : (s.setX r v).rest = s.rest := rfl
@[simp] theorem State.setX_mem (s : State) (r : BitVec 5) (v : Dword) : (s.setX r v).mem = s.mem := rfl
@[simp] theorem State.setX_pkg (s : State) (r : BitVec 5) (v : Dword) : (s.setX r v).pkg = s.pkg := rfl
@[simp] theorem State.setX_agenda (s : State) (r : BitVec 5) (v : Dword) : (s.setX r v).agenda = s.agenda := rfl

@[simp] theorem State.retire_core (s : State) : (s.retire).core = s.core := rfl
@[simp] theorem State.retire_rest (s : State) : (s.retire).rest = s.rest := rfl
@[simp] theorem State.retire_mem (s : State) : (s.retire).mem = s.mem := rfl
@[simp] theorem State.retire_pkg (s : State) : (s.retire).pkg = s.pkg := rfl
@[simp] theorem State.retire_agenda (s : State) : (s.retire).agenda = s.agenda := rfl

@[simp] theorem State.retire_h_x (s : State) : (s.retire).h.x = s.h.x := rfl
@[simp] theorem State.retire_h_v (s : State) : (s.retire).h.v = s.h.v := rfl
@[simp] theorem State.retire_h_m (s : State) : (s.retire).h.m = s.h.m := rfl
@[simp] theorem State.retire_h_cc (s : State) : (s.retire).h.cc = s.h.cc := rfl
@[simp] theorem State.retire_h_priv (s : State) : (s.retire).h.priv = s.h.priv := rfl
@[simp] theorem State.retire_h_fcsr (s : State) : (s.retire).h.fcsr = s.h.fcsr := rfl
@[simp] theorem State.retire_h_vl (s : State) : (s.retire).h.vl = s.h.vl := rfl
@[simp] theorem State.retire_h_vstart (s : State) : (s.retire).h.vstart = s.h.vstart := rfl
@[simp] theorem State.retire_h_mvl (s : State) : (s.retire).h.mvl = s.h.mvl := rfl
@[simp] theorem State.retire_h_mvc (s : State) : (s.retire).h.mvc = s.h.mvc := rfl
@[simp] theorem State.retire_h_rngkey (s : State) : (s.retire).h.rngkey = s.h.rngkey := rfl
@[simp] theorem State.retire_h_rngctr (s : State) : (s.retire).h.rngctr = s.h.rngctr := rfl
@[simp] theorem State.retire_h_tguard (s : State) : (s.retire).h.tguard = s.h.tguard := rfl
@[simp] theorem State.retire_h_tlate (s : State) : (s.retire).h.tlate = s.h.tlate := rfl
@[simp] theorem State.retire_h_gangid (s : State) : (s.retire).h.gangid = s.h.gangid := rfl
@[simp] theorem State.retire_h_gidx (s : State) : (s.retire).h.gidx = s.h.gidx := rfl
@[simp] theorem State.retire_h_gangsz (s : State) : (s.retire).h.gangsz = s.h.gangsz := rfl
@[simp] theorem State.retire_h_ctxid (s : State) : (s.retire).h.ctxid = s.h.ctxid := rfl
@[simp] theorem State.retire_h_tid (s : State) : (s.retire).h.tid = s.h.tid := rfl
@[simp] theorem State.retire_h_epc (s : State) : (s.retire).h.epc = s.h.epc := rfl
@[simp] theorem State.retire_h_ecause (s : State) : (s.retire).h.ecause = s.h.ecause := rfl
@[simp] theorem State.retire_h_eval (s : State) : (s.retire).h.eval = s.h.eval := rfl
@[simp] theorem State.retire_h_eslice (s : State) : (s.retire).h.eslice = s.h.eslice := rfl
@[simp] theorem State.retire_h_estat (s : State) : (s.retire).h.estat = s.h.estat := rfl
@[simp] theorem State.retire_h_restart (s : State) : (s.retire).h.restart = s.h.restart := rfl
@[simp] theorem State.retire_h_sb (s : State) : (s.retire).h.sb = s.h.sb := rfl
@[simp] theorem State.retire_h_sfq (s : State) : (s.retire).h.sfq = s.h.sfq := rfl
@[simp] theorem State.retire_h_vdq (s : State) : (s.retire).h.vdq = s.h.vdq := rfl
@[simp] theorem State.retire_h_bar (s : State) : (s.retire).h.bar = s.h.bar := rfl
@[simp] theorem State.retire_h_subs (s : State) : (s.retire).h.subs = s.h.subs := rfl
@[simp] theorem State.retire_h_pubs (s : State) : (s.retire).h.pubs = s.h.pubs := rfl
@[simp] theorem State.retire_h_copyErrs (s : State) : (s.retire).h.copyErrs = s.h.copyErrs := rfl
@[simp] theorem State.retire_h_deadline (s : State) : (s.retire).h.deadline = s.h.deadline := rfl
@[simp] theorem State.retire_h_further (s : State) : (s.retire).h.further = s.h.further := rfl
@[simp] theorem State.retire_h_uncorrectable (s : State) : (s.retire).h.uncorrectable = s.h.uncorrectable := rfl
@[simp] theorem State.retire_h_notice (s : State) : (s.retire).h.notice = s.h.notice := rfl
@[simp] theorem State.retire_h_noticeWord (s : State) : (s.retire).h.noticeWord = s.h.noticeWord := rfl
@[simp] theorem State.retire_h_kill (s : State) : (s.retire).h.kill = s.h.kill := rfl
@[simp] theorem State.retire_h_preempt (s : State) : (s.retire).h.preempt = s.h.preempt := rfl
@[simp] theorem State.retire_h_pend (s : State) : (s.retire).h.pend = s.h.pend := rfl
@[simp] theorem State.retire_h_launchAt (s : State) : (s.retire).h.launchAt = s.h.launchAt := rfl
@[simp] theorem State.retire_h_launchCode (s : State) : (s.retire).h.launchCode = s.h.launchCode := rfl
@[simp] theorem State.retire_h_ahead (s : State) : (s.retire).h.ahead = s.h.ahead := rfl
@[simp] theorem State.retire_h_amid (s : State) : (s.retire).h.amid = s.h.amid := rfl
@[simp] theorem State.retire_h_waitAt (s : State) : (s.retire).h.waitAt = s.h.waitAt := rfl
@[simp] theorem State.retire_h_waitTags (s : State) : (s.retire).h.waitTags = s.h.waitTags := rfl
@[simp] theorem State.retire_h_waitTrap (s : State) : (s.retire).h.waitTrap = s.h.waitTrap := rfl
@[simp] theorem State.retire_h_waitFlags (s : State) : (s.retire).h.waitFlags = s.h.waitFlags := rfl
@[simp] theorem State.retire_h_head (s : State) : (s.retire).h.head = s.h.head := rfl
@[simp] theorem State.retire_h_pauseLeft (s : State) : (s.retire).h.pauseLeft = s.h.pauseLeft := rfl
@[simp] theorem State.retire_h_atWait (s : State) : (s.retire).h.atWait = s.h.atWait := rfl
@[simp] theorem State.retire_h_slot (s : State) : (s.retire).h.slot = s.h.slot := rfl
@[simp] theorem State.retire_h_poolDie (s : State) : (s.retire).h.poolDie = s.h.poolDie := rfl
@[simp] theorem State.retire_h_poolSecure (s : State) : (s.retire).h.poolSecure = s.h.poolSecure := rfl
@[simp] theorem State.retire_h_pbmp (s : State) : (s.retire).h.pbmp = s.h.pbmp := rfl
@[simp] theorem State.retire_h_status (s : State) : (s.retire).h.status = s.h.status := rfl
@[simp] theorem State.retire_h_dying (s : State) : (s.retire).h.dying = s.h.dying := rfl
@[simp] theorem State.retire_h_gang (s : State) : (s.retire).h.gang = s.h.gang := rfl
@[simp] theorem State.retire_h_clock (s : State) : (s.retire).h.clock = s.h.clock := rfl
@[simp] theorem State.retire_h_observed (s : State) : (s.retire).h.observed = s.h.observed := rfl
@[simp] theorem State.retire_h_armed (s : State) : (s.retire).h.armed = s.h.armed := rfl
@[simp] theorem State.retire_h_missAt (s : State) : (s.retire).h.missAt = s.h.missAt := rfl
@[simp] theorem State.retire_h_chunkBits (s : State) : (s.retire).h.chunkBits = s.h.chunkBits := rfl

@[simp] theorem State.retire_h_pc (s : State) : s.retire.h.pc = s.h.pc + 4 := rfl
@[simp] theorem State.retire_h_instret (s : State) : s.retire.h.instret = s.h.instret + 1 := rfl

@[simp] theorem State.jumpTo_core (s : State) (pc : Dword) : (s.jumpTo pc).core = s.core := rfl
@[simp] theorem State.jumpTo_rest (s : State) (pc : Dword) : (s.jumpTo pc).rest = s.rest := rfl
@[simp] theorem State.jumpTo_mem (s : State) (pc : Dword) : (s.jumpTo pc).mem = s.mem := rfl
@[simp] theorem State.jumpTo_pkg (s : State) (pc : Dword) : (s.jumpTo pc).pkg = s.pkg := rfl
@[simp] theorem State.jumpTo_agenda (s : State) (pc : Dword) : (s.jumpTo pc).agenda = s.agenda := rfl

@[simp] theorem State.jumpTo_h_x (s : State) (pc : Dword) : (s.jumpTo pc).h.x = s.h.x := rfl
@[simp] theorem State.jumpTo_h_v (s : State) (pc : Dword) : (s.jumpTo pc).h.v = s.h.v := rfl
@[simp] theorem State.jumpTo_h_m (s : State) (pc : Dword) : (s.jumpTo pc).h.m = s.h.m := rfl
@[simp] theorem State.jumpTo_h_cc (s : State) (pc : Dword) : (s.jumpTo pc).h.cc = s.h.cc := rfl
@[simp] theorem State.jumpTo_h_priv (s : State) (pc : Dword) : (s.jumpTo pc).h.priv = s.h.priv := rfl
@[simp] theorem State.jumpTo_h_fcsr (s : State) (pc : Dword) : (s.jumpTo pc).h.fcsr = s.h.fcsr := rfl
@[simp] theorem State.jumpTo_h_vl (s : State) (pc : Dword) : (s.jumpTo pc).h.vl = s.h.vl := rfl
@[simp] theorem State.jumpTo_h_vstart (s : State) (pc : Dword) : (s.jumpTo pc).h.vstart = s.h.vstart := rfl
@[simp] theorem State.jumpTo_h_mvl (s : State) (pc : Dword) : (s.jumpTo pc).h.mvl = s.h.mvl := rfl
@[simp] theorem State.jumpTo_h_mvc (s : State) (pc : Dword) : (s.jumpTo pc).h.mvc = s.h.mvc := rfl
@[simp] theorem State.jumpTo_h_rngkey (s : State) (pc : Dword) : (s.jumpTo pc).h.rngkey = s.h.rngkey := rfl
@[simp] theorem State.jumpTo_h_rngctr (s : State) (pc : Dword) : (s.jumpTo pc).h.rngctr = s.h.rngctr := rfl
@[simp] theorem State.jumpTo_h_tguard (s : State) (pc : Dword) : (s.jumpTo pc).h.tguard = s.h.tguard := rfl
@[simp] theorem State.jumpTo_h_tlate (s : State) (pc : Dword) : (s.jumpTo pc).h.tlate = s.h.tlate := rfl
@[simp] theorem State.jumpTo_h_gangid (s : State) (pc : Dword) : (s.jumpTo pc).h.gangid = s.h.gangid := rfl
@[simp] theorem State.jumpTo_h_gidx (s : State) (pc : Dword) : (s.jumpTo pc).h.gidx = s.h.gidx := rfl
@[simp] theorem State.jumpTo_h_gangsz (s : State) (pc : Dword) : (s.jumpTo pc).h.gangsz = s.h.gangsz := rfl
@[simp] theorem State.jumpTo_h_ctxid (s : State) (pc : Dword) : (s.jumpTo pc).h.ctxid = s.h.ctxid := rfl
@[simp] theorem State.jumpTo_h_tid (s : State) (pc : Dword) : (s.jumpTo pc).h.tid = s.h.tid := rfl
@[simp] theorem State.jumpTo_h_epc (s : State) (pc : Dword) : (s.jumpTo pc).h.epc = s.h.epc := rfl
@[simp] theorem State.jumpTo_h_ecause (s : State) (pc : Dword) : (s.jumpTo pc).h.ecause = s.h.ecause := rfl
@[simp] theorem State.jumpTo_h_eval (s : State) (pc : Dword) : (s.jumpTo pc).h.eval = s.h.eval := rfl
@[simp] theorem State.jumpTo_h_eslice (s : State) (pc : Dword) : (s.jumpTo pc).h.eslice = s.h.eslice := rfl
@[simp] theorem State.jumpTo_h_estat (s : State) (pc : Dword) : (s.jumpTo pc).h.estat = s.h.estat := rfl
@[simp] theorem State.jumpTo_h_restart (s : State) (pc : Dword) : (s.jumpTo pc).h.restart = s.h.restart := rfl
@[simp] theorem State.jumpTo_h_sb (s : State) (pc : Dword) : (s.jumpTo pc).h.sb = s.h.sb := rfl
@[simp] theorem State.jumpTo_h_sfq (s : State) (pc : Dword) : (s.jumpTo pc).h.sfq = s.h.sfq := rfl
@[simp] theorem State.jumpTo_h_vdq (s : State) (pc : Dword) : (s.jumpTo pc).h.vdq = s.h.vdq := rfl
@[simp] theorem State.jumpTo_h_bar (s : State) (pc : Dword) : (s.jumpTo pc).h.bar = s.h.bar := rfl
@[simp] theorem State.jumpTo_h_subs (s : State) (pc : Dword) : (s.jumpTo pc).h.subs = s.h.subs := rfl
@[simp] theorem State.jumpTo_h_pubs (s : State) (pc : Dword) : (s.jumpTo pc).h.pubs = s.h.pubs := rfl
@[simp] theorem State.jumpTo_h_copyErrs (s : State) (pc : Dword) : (s.jumpTo pc).h.copyErrs = s.h.copyErrs := rfl
@[simp] theorem State.jumpTo_h_deadline (s : State) (pc : Dword) : (s.jumpTo pc).h.deadline = s.h.deadline := rfl
@[simp] theorem State.jumpTo_h_further (s : State) (pc : Dword) : (s.jumpTo pc).h.further = s.h.further := rfl
@[simp] theorem State.jumpTo_h_uncorrectable (s : State) (pc : Dword) : (s.jumpTo pc).h.uncorrectable = s.h.uncorrectable := rfl
@[simp] theorem State.jumpTo_h_notice (s : State) (pc : Dword) : (s.jumpTo pc).h.notice = s.h.notice := rfl
@[simp] theorem State.jumpTo_h_noticeWord (s : State) (pc : Dword) : (s.jumpTo pc).h.noticeWord = s.h.noticeWord := rfl
@[simp] theorem State.jumpTo_h_kill (s : State) (pc : Dword) : (s.jumpTo pc).h.kill = s.h.kill := rfl
@[simp] theorem State.jumpTo_h_preempt (s : State) (pc : Dword) : (s.jumpTo pc).h.preempt = s.h.preempt := rfl
@[simp] theorem State.jumpTo_h_pend (s : State) (pc : Dword) : (s.jumpTo pc).h.pend = s.h.pend := rfl
@[simp] theorem State.jumpTo_h_launchAt (s : State) (pc : Dword) : (s.jumpTo pc).h.launchAt = s.h.launchAt := rfl
@[simp] theorem State.jumpTo_h_launchCode (s : State) (pc : Dword) : (s.jumpTo pc).h.launchCode = s.h.launchCode := rfl
@[simp] theorem State.jumpTo_h_ahead (s : State) (pc : Dword) : (s.jumpTo pc).h.ahead = s.h.ahead := rfl
@[simp] theorem State.jumpTo_h_amid (s : State) (pc : Dword) : (s.jumpTo pc).h.amid = s.h.amid := rfl
@[simp] theorem State.jumpTo_h_waitAt (s : State) (pc : Dword) : (s.jumpTo pc).h.waitAt = s.h.waitAt := rfl
@[simp] theorem State.jumpTo_h_waitTags (s : State) (pc : Dword) : (s.jumpTo pc).h.waitTags = s.h.waitTags := rfl
@[simp] theorem State.jumpTo_h_waitTrap (s : State) (pc : Dword) : (s.jumpTo pc).h.waitTrap = s.h.waitTrap := rfl
@[simp] theorem State.jumpTo_h_waitFlags (s : State) (pc : Dword) : (s.jumpTo pc).h.waitFlags = s.h.waitFlags := rfl
@[simp] theorem State.jumpTo_h_head (s : State) (pc : Dword) : (s.jumpTo pc).h.head = s.h.head := rfl
@[simp] theorem State.jumpTo_h_pauseLeft (s : State) (pc : Dword) : (s.jumpTo pc).h.pauseLeft = s.h.pauseLeft := rfl
@[simp] theorem State.jumpTo_h_atWait (s : State) (pc : Dword) : (s.jumpTo pc).h.atWait = s.h.atWait := rfl
@[simp] theorem State.jumpTo_h_slot (s : State) (pc : Dword) : (s.jumpTo pc).h.slot = s.h.slot := rfl
@[simp] theorem State.jumpTo_h_poolDie (s : State) (pc : Dword) : (s.jumpTo pc).h.poolDie = s.h.poolDie := rfl
@[simp] theorem State.jumpTo_h_poolSecure (s : State) (pc : Dword) : (s.jumpTo pc).h.poolSecure = s.h.poolSecure := rfl
@[simp] theorem State.jumpTo_h_pbmp (s : State) (pc : Dword) : (s.jumpTo pc).h.pbmp = s.h.pbmp := rfl
@[simp] theorem State.jumpTo_h_status (s : State) (pc : Dword) : (s.jumpTo pc).h.status = s.h.status := rfl
@[simp] theorem State.jumpTo_h_dying (s : State) (pc : Dword) : (s.jumpTo pc).h.dying = s.h.dying := rfl
@[simp] theorem State.jumpTo_h_gang (s : State) (pc : Dword) : (s.jumpTo pc).h.gang = s.h.gang := rfl
@[simp] theorem State.jumpTo_h_clock (s : State) (pc : Dword) : (s.jumpTo pc).h.clock = s.h.clock := rfl
@[simp] theorem State.jumpTo_h_observed (s : State) (pc : Dword) : (s.jumpTo pc).h.observed = s.h.observed := rfl
@[simp] theorem State.jumpTo_h_armed (s : State) (pc : Dword) : (s.jumpTo pc).h.armed = s.h.armed := rfl
@[simp] theorem State.jumpTo_h_missAt (s : State) (pc : Dword) : (s.jumpTo pc).h.missAt = s.h.missAt := rfl
@[simp] theorem State.jumpTo_h_chunkBits (s : State) (pc : Dword) : (s.jumpTo pc).h.chunkBits = s.h.chunkBits := rfl

@[simp] theorem State.jumpTo_h_pc (s : State) (pc : Dword) : (s.jumpTo pc).h.pc = pc := rfl
@[simp] theorem State.jumpTo_h_instret (s : State) (pc : Dword) : (s.jumpTo pc).h.instret = s.h.instret + 1 := rfl

@[simp] theorem State.setFlags_core (s : State) (fl : Flags) : (s.setFlags fl).core = s.core := rfl
@[simp] theorem State.setFlags_rest (s : State) (fl : Flags) : (s.setFlags fl).rest = s.rest := rfl
@[simp] theorem State.setFlags_mem (s : State) (fl : Flags) : (s.setFlags fl).mem = s.mem := rfl
@[simp] theorem State.setFlags_pkg (s : State) (fl : Flags) : (s.setFlags fl).pkg = s.pkg := rfl
@[simp] theorem State.setFlags_agenda (s : State) (fl : Flags) : (s.setFlags fl).agenda = s.agenda := rfl

@[simp] theorem State.setFlags_h_x (s : State) (fl : Flags) : (s.setFlags fl).h.x = s.h.x := rfl
@[simp] theorem State.setFlags_h_v (s : State) (fl : Flags) : (s.setFlags fl).h.v = s.h.v := rfl
@[simp] theorem State.setFlags_h_m (s : State) (fl : Flags) : (s.setFlags fl).h.m = s.h.m := rfl
@[simp] theorem State.setFlags_h_cc (s : State) (fl : Flags) : (s.setFlags fl).h.cc = s.h.cc := rfl
@[simp] theorem State.setFlags_h_pc (s : State) (fl : Flags) : (s.setFlags fl).h.pc = s.h.pc := rfl
@[simp] theorem State.setFlags_h_priv (s : State) (fl : Flags) : (s.setFlags fl).h.priv = s.h.priv := rfl
@[simp] theorem State.setFlags_h_vl (s : State) (fl : Flags) : (s.setFlags fl).h.vl = s.h.vl := rfl
@[simp] theorem State.setFlags_h_vstart (s : State) (fl : Flags) : (s.setFlags fl).h.vstart = s.h.vstart := rfl
@[simp] theorem State.setFlags_h_mvl (s : State) (fl : Flags) : (s.setFlags fl).h.mvl = s.h.mvl := rfl
@[simp] theorem State.setFlags_h_mvc (s : State) (fl : Flags) : (s.setFlags fl).h.mvc = s.h.mvc := rfl
@[simp] theorem State.setFlags_h_rngkey (s : State) (fl : Flags) : (s.setFlags fl).h.rngkey = s.h.rngkey := rfl
@[simp] theorem State.setFlags_h_rngctr (s : State) (fl : Flags) : (s.setFlags fl).h.rngctr = s.h.rngctr := rfl
@[simp] theorem State.setFlags_h_tguard (s : State) (fl : Flags) : (s.setFlags fl).h.tguard = s.h.tguard := rfl
@[simp] theorem State.setFlags_h_tlate (s : State) (fl : Flags) : (s.setFlags fl).h.tlate = s.h.tlate := rfl
@[simp] theorem State.setFlags_h_instret (s : State) (fl : Flags) : (s.setFlags fl).h.instret = s.h.instret := rfl
@[simp] theorem State.setFlags_h_gangid (s : State) (fl : Flags) : (s.setFlags fl).h.gangid = s.h.gangid := rfl
@[simp] theorem State.setFlags_h_gidx (s : State) (fl : Flags) : (s.setFlags fl).h.gidx = s.h.gidx := rfl
@[simp] theorem State.setFlags_h_gangsz (s : State) (fl : Flags) : (s.setFlags fl).h.gangsz = s.h.gangsz := rfl
@[simp] theorem State.setFlags_h_ctxid (s : State) (fl : Flags) : (s.setFlags fl).h.ctxid = s.h.ctxid := rfl
@[simp] theorem State.setFlags_h_tid (s : State) (fl : Flags) : (s.setFlags fl).h.tid = s.h.tid := rfl
@[simp] theorem State.setFlags_h_epc (s : State) (fl : Flags) : (s.setFlags fl).h.epc = s.h.epc := rfl
@[simp] theorem State.setFlags_h_ecause (s : State) (fl : Flags) : (s.setFlags fl).h.ecause = s.h.ecause := rfl
@[simp] theorem State.setFlags_h_eval (s : State) (fl : Flags) : (s.setFlags fl).h.eval = s.h.eval := rfl
@[simp] theorem State.setFlags_h_eslice (s : State) (fl : Flags) : (s.setFlags fl).h.eslice = s.h.eslice := rfl
@[simp] theorem State.setFlags_h_estat (s : State) (fl : Flags) : (s.setFlags fl).h.estat = s.h.estat := rfl
@[simp] theorem State.setFlags_h_restart (s : State) (fl : Flags) : (s.setFlags fl).h.restart = s.h.restart := rfl
@[simp] theorem State.setFlags_h_sb (s : State) (fl : Flags) : (s.setFlags fl).h.sb = s.h.sb := rfl
@[simp] theorem State.setFlags_h_sfq (s : State) (fl : Flags) : (s.setFlags fl).h.sfq = s.h.sfq := rfl
@[simp] theorem State.setFlags_h_vdq (s : State) (fl : Flags) : (s.setFlags fl).h.vdq = s.h.vdq := rfl
@[simp] theorem State.setFlags_h_bar (s : State) (fl : Flags) : (s.setFlags fl).h.bar = s.h.bar := rfl
@[simp] theorem State.setFlags_h_subs (s : State) (fl : Flags) : (s.setFlags fl).h.subs = s.h.subs := rfl
@[simp] theorem State.setFlags_h_pubs (s : State) (fl : Flags) : (s.setFlags fl).h.pubs = s.h.pubs := rfl
@[simp] theorem State.setFlags_h_copyErrs (s : State) (fl : Flags) : (s.setFlags fl).h.copyErrs = s.h.copyErrs := rfl
@[simp] theorem State.setFlags_h_deadline (s : State) (fl : Flags) : (s.setFlags fl).h.deadline = s.h.deadline := rfl
@[simp] theorem State.setFlags_h_further (s : State) (fl : Flags) : (s.setFlags fl).h.further = s.h.further := rfl
@[simp] theorem State.setFlags_h_uncorrectable (s : State) (fl : Flags) : (s.setFlags fl).h.uncorrectable = s.h.uncorrectable := rfl
@[simp] theorem State.setFlags_h_notice (s : State) (fl : Flags) : (s.setFlags fl).h.notice = s.h.notice := rfl
@[simp] theorem State.setFlags_h_noticeWord (s : State) (fl : Flags) : (s.setFlags fl).h.noticeWord = s.h.noticeWord := rfl
@[simp] theorem State.setFlags_h_kill (s : State) (fl : Flags) : (s.setFlags fl).h.kill = s.h.kill := rfl
@[simp] theorem State.setFlags_h_preempt (s : State) (fl : Flags) : (s.setFlags fl).h.preempt = s.h.preempt := rfl
@[simp] theorem State.setFlags_h_pend (s : State) (fl : Flags) : (s.setFlags fl).h.pend = s.h.pend := rfl
@[simp] theorem State.setFlags_h_launchAt (s : State) (fl : Flags) : (s.setFlags fl).h.launchAt = s.h.launchAt := rfl
@[simp] theorem State.setFlags_h_launchCode (s : State) (fl : Flags) : (s.setFlags fl).h.launchCode = s.h.launchCode := rfl
@[simp] theorem State.setFlags_h_ahead (s : State) (fl : Flags) : (s.setFlags fl).h.ahead = s.h.ahead := rfl
@[simp] theorem State.setFlags_h_amid (s : State) (fl : Flags) : (s.setFlags fl).h.amid = s.h.amid := rfl
@[simp] theorem State.setFlags_h_waitAt (s : State) (fl : Flags) : (s.setFlags fl).h.waitAt = s.h.waitAt := rfl
@[simp] theorem State.setFlags_h_waitTags (s : State) (fl : Flags) : (s.setFlags fl).h.waitTags = s.h.waitTags := rfl
@[simp] theorem State.setFlags_h_waitTrap (s : State) (fl : Flags) : (s.setFlags fl).h.waitTrap = s.h.waitTrap := rfl
@[simp] theorem State.setFlags_h_waitFlags (s : State) (fl : Flags) : (s.setFlags fl).h.waitFlags = s.h.waitFlags := rfl
@[simp] theorem State.setFlags_h_head (s : State) (fl : Flags) : (s.setFlags fl).h.head = s.h.head := rfl
@[simp] theorem State.setFlags_h_pauseLeft (s : State) (fl : Flags) : (s.setFlags fl).h.pauseLeft = s.h.pauseLeft := rfl
@[simp] theorem State.setFlags_h_atWait (s : State) (fl : Flags) : (s.setFlags fl).h.atWait = s.h.atWait := rfl
@[simp] theorem State.setFlags_h_slot (s : State) (fl : Flags) : (s.setFlags fl).h.slot = s.h.slot := rfl
@[simp] theorem State.setFlags_h_poolDie (s : State) (fl : Flags) : (s.setFlags fl).h.poolDie = s.h.poolDie := rfl
@[simp] theorem State.setFlags_h_poolSecure (s : State) (fl : Flags) : (s.setFlags fl).h.poolSecure = s.h.poolSecure := rfl
@[simp] theorem State.setFlags_h_pbmp (s : State) (fl : Flags) : (s.setFlags fl).h.pbmp = s.h.pbmp := rfl
@[simp] theorem State.setFlags_h_status (s : State) (fl : Flags) : (s.setFlags fl).h.status = s.h.status := rfl
@[simp] theorem State.setFlags_h_dying (s : State) (fl : Flags) : (s.setFlags fl).h.dying = s.h.dying := rfl
@[simp] theorem State.setFlags_h_gang (s : State) (fl : Flags) : (s.setFlags fl).h.gang = s.h.gang := rfl
@[simp] theorem State.setFlags_h_clock (s : State) (fl : Flags) : (s.setFlags fl).h.clock = s.h.clock := rfl
@[simp] theorem State.setFlags_h_observed (s : State) (fl : Flags) : (s.setFlags fl).h.observed = s.h.observed := rfl
@[simp] theorem State.setFlags_h_armed (s : State) (fl : Flags) : (s.setFlags fl).h.armed = s.h.armed := rfl
@[simp] theorem State.setFlags_h_missAt (s : State) (fl : Flags) : (s.setFlags fl).h.missAt = s.h.missAt := rfl
@[simp] theorem State.setFlags_h_chunkBits (s : State) (fl : Flags) : (s.setFlags fl).h.chunkBits = s.h.chunkBits := rfl

@[simp] theorem State.clearVstart_core (s : State) : (s.clearVstart).core = s.core := rfl
@[simp] theorem State.clearVstart_rest (s : State) : (s.clearVstart).rest = s.rest := rfl
@[simp] theorem State.clearVstart_mem (s : State) : (s.clearVstart).mem = s.mem := rfl
@[simp] theorem State.clearVstart_pkg (s : State) : (s.clearVstart).pkg = s.pkg := rfl
@[simp] theorem State.clearVstart_agenda (s : State) : (s.clearVstart).agenda = s.agenda := rfl

@[simp] theorem State.clearVstart_h_x (s : State) : (s.clearVstart).h.x = s.h.x := rfl
@[simp] theorem State.clearVstart_h_v (s : State) : (s.clearVstart).h.v = s.h.v := rfl
@[simp] theorem State.clearVstart_h_m (s : State) : (s.clearVstart).h.m = s.h.m := rfl
@[simp] theorem State.clearVstart_h_cc (s : State) : (s.clearVstart).h.cc = s.h.cc := rfl
@[simp] theorem State.clearVstart_h_pc (s : State) : (s.clearVstart).h.pc = s.h.pc := rfl
@[simp] theorem State.clearVstart_h_priv (s : State) : (s.clearVstart).h.priv = s.h.priv := rfl
@[simp] theorem State.clearVstart_h_fcsr (s : State) : (s.clearVstart).h.fcsr = s.h.fcsr := rfl
@[simp] theorem State.clearVstart_h_vl (s : State) : (s.clearVstart).h.vl = s.h.vl := rfl
@[simp] theorem State.clearVstart_h_mvl (s : State) : (s.clearVstart).h.mvl = s.h.mvl := rfl
@[simp] theorem State.clearVstart_h_mvc (s : State) : (s.clearVstart).h.mvc = s.h.mvc := rfl
@[simp] theorem State.clearVstart_h_rngkey (s : State) : (s.clearVstart).h.rngkey = s.h.rngkey := rfl
@[simp] theorem State.clearVstart_h_rngctr (s : State) : (s.clearVstart).h.rngctr = s.h.rngctr := rfl
@[simp] theorem State.clearVstart_h_tguard (s : State) : (s.clearVstart).h.tguard = s.h.tguard := rfl
@[simp] theorem State.clearVstart_h_tlate (s : State) : (s.clearVstart).h.tlate = s.h.tlate := rfl
@[simp] theorem State.clearVstart_h_instret (s : State) : (s.clearVstart).h.instret = s.h.instret := rfl
@[simp] theorem State.clearVstart_h_gangid (s : State) : (s.clearVstart).h.gangid = s.h.gangid := rfl
@[simp] theorem State.clearVstart_h_gidx (s : State) : (s.clearVstart).h.gidx = s.h.gidx := rfl
@[simp] theorem State.clearVstart_h_gangsz (s : State) : (s.clearVstart).h.gangsz = s.h.gangsz := rfl
@[simp] theorem State.clearVstart_h_ctxid (s : State) : (s.clearVstart).h.ctxid = s.h.ctxid := rfl
@[simp] theorem State.clearVstart_h_tid (s : State) : (s.clearVstart).h.tid = s.h.tid := rfl
@[simp] theorem State.clearVstart_h_epc (s : State) : (s.clearVstart).h.epc = s.h.epc := rfl
@[simp] theorem State.clearVstart_h_ecause (s : State) : (s.clearVstart).h.ecause = s.h.ecause := rfl
@[simp] theorem State.clearVstart_h_eval (s : State) : (s.clearVstart).h.eval = s.h.eval := rfl
@[simp] theorem State.clearVstart_h_eslice (s : State) : (s.clearVstart).h.eslice = s.h.eslice := rfl
@[simp] theorem State.clearVstart_h_estat (s : State) : (s.clearVstart).h.estat = s.h.estat := rfl
@[simp] theorem State.clearVstart_h_restart (s : State) : (s.clearVstart).h.restart = s.h.restart := rfl
@[simp] theorem State.clearVstart_h_sb (s : State) : (s.clearVstart).h.sb = s.h.sb := rfl
@[simp] theorem State.clearVstart_h_sfq (s : State) : (s.clearVstart).h.sfq = s.h.sfq := rfl
@[simp] theorem State.clearVstart_h_vdq (s : State) : (s.clearVstart).h.vdq = s.h.vdq := rfl
@[simp] theorem State.clearVstart_h_bar (s : State) : (s.clearVstart).h.bar = s.h.bar := rfl
@[simp] theorem State.clearVstart_h_subs (s : State) : (s.clearVstart).h.subs = s.h.subs := rfl
@[simp] theorem State.clearVstart_h_pubs (s : State) : (s.clearVstart).h.pubs = s.h.pubs := rfl
@[simp] theorem State.clearVstart_h_copyErrs (s : State) : (s.clearVstart).h.copyErrs = s.h.copyErrs := rfl
@[simp] theorem State.clearVstart_h_deadline (s : State) : (s.clearVstart).h.deadline = s.h.deadline := rfl
@[simp] theorem State.clearVstart_h_further (s : State) : (s.clearVstart).h.further = s.h.further := rfl
@[simp] theorem State.clearVstart_h_uncorrectable (s : State) : (s.clearVstart).h.uncorrectable = s.h.uncorrectable := rfl
@[simp] theorem State.clearVstart_h_notice (s : State) : (s.clearVstart).h.notice = s.h.notice := rfl
@[simp] theorem State.clearVstart_h_noticeWord (s : State) : (s.clearVstart).h.noticeWord = s.h.noticeWord := rfl
@[simp] theorem State.clearVstart_h_kill (s : State) : (s.clearVstart).h.kill = s.h.kill := rfl
@[simp] theorem State.clearVstart_h_preempt (s : State) : (s.clearVstart).h.preempt = s.h.preempt := rfl
@[simp] theorem State.clearVstart_h_pend (s : State) : (s.clearVstart).h.pend = s.h.pend := rfl
@[simp] theorem State.clearVstart_h_launchAt (s : State) : (s.clearVstart).h.launchAt = s.h.launchAt := rfl
@[simp] theorem State.clearVstart_h_launchCode (s : State) : (s.clearVstart).h.launchCode = s.h.launchCode := rfl
@[simp] theorem State.clearVstart_h_ahead (s : State) : (s.clearVstart).h.ahead = s.h.ahead := rfl
@[simp] theorem State.clearVstart_h_amid (s : State) : (s.clearVstart).h.amid = s.h.amid := rfl
@[simp] theorem State.clearVstart_h_waitAt (s : State) : (s.clearVstart).h.waitAt = s.h.waitAt := rfl
@[simp] theorem State.clearVstart_h_waitTags (s : State) : (s.clearVstart).h.waitTags = s.h.waitTags := rfl
@[simp] theorem State.clearVstart_h_waitTrap (s : State) : (s.clearVstart).h.waitTrap = s.h.waitTrap := rfl
@[simp] theorem State.clearVstart_h_waitFlags (s : State) : (s.clearVstart).h.waitFlags = s.h.waitFlags := rfl
@[simp] theorem State.clearVstart_h_head (s : State) : (s.clearVstart).h.head = s.h.head := rfl
@[simp] theorem State.clearVstart_h_pauseLeft (s : State) : (s.clearVstart).h.pauseLeft = s.h.pauseLeft := rfl
@[simp] theorem State.clearVstart_h_atWait (s : State) : (s.clearVstart).h.atWait = s.h.atWait := rfl
@[simp] theorem State.clearVstart_h_slot (s : State) : (s.clearVstart).h.slot = s.h.slot := rfl
@[simp] theorem State.clearVstart_h_poolDie (s : State) : (s.clearVstart).h.poolDie = s.h.poolDie := rfl
@[simp] theorem State.clearVstart_h_poolSecure (s : State) : (s.clearVstart).h.poolSecure = s.h.poolSecure := rfl
@[simp] theorem State.clearVstart_h_pbmp (s : State) : (s.clearVstart).h.pbmp = s.h.pbmp := rfl
@[simp] theorem State.clearVstart_h_status (s : State) : (s.clearVstart).h.status = s.h.status := rfl
@[simp] theorem State.clearVstart_h_dying (s : State) : (s.clearVstart).h.dying = s.h.dying := rfl
@[simp] theorem State.clearVstart_h_gang (s : State) : (s.clearVstart).h.gang = s.h.gang := rfl
@[simp] theorem State.clearVstart_h_clock (s : State) : (s.clearVstart).h.clock = s.h.clock := rfl
@[simp] theorem State.clearVstart_h_observed (s : State) : (s.clearVstart).h.observed = s.h.observed := rfl
@[simp] theorem State.clearVstart_h_armed (s : State) : (s.clearVstart).h.armed = s.h.armed := rfl
@[simp] theorem State.clearVstart_h_missAt (s : State) : (s.clearVstart).h.missAt = s.h.missAt := rfl
@[simp] theorem State.clearVstart_h_chunkBits (s : State) : (s.clearVstart).h.chunkBits = s.h.chunkBits := rfl

@[simp] theorem State.setV_core (s : State) (r : Nat) (v : Vec) : (s.setV r v).core = s.core := rfl
@[simp] theorem State.setV_rest (s : State) (r : Nat) (v : Vec) : (s.setV r v).rest = s.rest := rfl
@[simp] theorem State.setV_mem (s : State) (r : Nat) (v : Vec) : (s.setV r v).mem = s.mem := rfl
@[simp] theorem State.setV_pkg (s : State) (r : Nat) (v : Vec) : (s.setV r v).pkg = s.pkg := rfl
@[simp] theorem State.setV_agenda (s : State) (r : Nat) (v : Vec) : (s.setV r v).agenda = s.agenda := rfl

@[simp] theorem State.setV_h_x (s : State) (r : Nat) (v : Vec) : (s.setV r v).h.x = s.h.x := rfl
@[simp] theorem State.setV_h_m (s : State) (r : Nat) (v : Vec) : (s.setV r v).h.m = s.h.m := rfl
@[simp] theorem State.setV_h_cc (s : State) (r : Nat) (v : Vec) : (s.setV r v).h.cc = s.h.cc := rfl
@[simp] theorem State.setV_h_pc (s : State) (r : Nat) (v : Vec) : (s.setV r v).h.pc = s.h.pc := rfl
@[simp] theorem State.setV_h_priv (s : State) (r : Nat) (v : Vec) : (s.setV r v).h.priv = s.h.priv := rfl
@[simp] theorem State.setV_h_fcsr (s : State) (r : Nat) (v : Vec) : (s.setV r v).h.fcsr = s.h.fcsr := rfl
@[simp] theorem State.setV_h_vl (s : State) (r : Nat) (v : Vec) : (s.setV r v).h.vl = s.h.vl := rfl
@[simp] theorem State.setV_h_vstart (s : State) (r : Nat) (v : Vec) : (s.setV r v).h.vstart = s.h.vstart := rfl
@[simp] theorem State.setV_h_mvl (s : State) (r : Nat) (v : Vec) : (s.setV r v).h.mvl = s.h.mvl := rfl
@[simp] theorem State.setV_h_mvc (s : State) (r : Nat) (v : Vec) : (s.setV r v).h.mvc = s.h.mvc := rfl
@[simp] theorem State.setV_h_rngkey (s : State) (r : Nat) (v : Vec) : (s.setV r v).h.rngkey = s.h.rngkey := rfl
@[simp] theorem State.setV_h_rngctr (s : State) (r : Nat) (v : Vec) : (s.setV r v).h.rngctr = s.h.rngctr := rfl
@[simp] theorem State.setV_h_tguard (s : State) (r : Nat) (v : Vec) : (s.setV r v).h.tguard = s.h.tguard := rfl
@[simp] theorem State.setV_h_tlate (s : State) (r : Nat) (v : Vec) : (s.setV r v).h.tlate = s.h.tlate := rfl
@[simp] theorem State.setV_h_instret (s : State) (r : Nat) (v : Vec) : (s.setV r v).h.instret = s.h.instret := rfl
@[simp] theorem State.setV_h_gangid (s : State) (r : Nat) (v : Vec) : (s.setV r v).h.gangid = s.h.gangid := rfl
@[simp] theorem State.setV_h_gidx (s : State) (r : Nat) (v : Vec) : (s.setV r v).h.gidx = s.h.gidx := rfl
@[simp] theorem State.setV_h_gangsz (s : State) (r : Nat) (v : Vec) : (s.setV r v).h.gangsz = s.h.gangsz := rfl
@[simp] theorem State.setV_h_ctxid (s : State) (r : Nat) (v : Vec) : (s.setV r v).h.ctxid = s.h.ctxid := rfl
@[simp] theorem State.setV_h_tid (s : State) (r : Nat) (v : Vec) : (s.setV r v).h.tid = s.h.tid := rfl
@[simp] theorem State.setV_h_epc (s : State) (r : Nat) (v : Vec) : (s.setV r v).h.epc = s.h.epc := rfl
@[simp] theorem State.setV_h_ecause (s : State) (r : Nat) (v : Vec) : (s.setV r v).h.ecause = s.h.ecause := rfl
@[simp] theorem State.setV_h_eval (s : State) (r : Nat) (v : Vec) : (s.setV r v).h.eval = s.h.eval := rfl
@[simp] theorem State.setV_h_eslice (s : State) (r : Nat) (v : Vec) : (s.setV r v).h.eslice = s.h.eslice := rfl
@[simp] theorem State.setV_h_estat (s : State) (r : Nat) (v : Vec) : (s.setV r v).h.estat = s.h.estat := rfl
@[simp] theorem State.setV_h_restart (s : State) (r : Nat) (v : Vec) : (s.setV r v).h.restart = s.h.restart := rfl
@[simp] theorem State.setV_h_sb (s : State) (r : Nat) (v : Vec) : (s.setV r v).h.sb = s.h.sb := rfl
@[simp] theorem State.setV_h_sfq (s : State) (r : Nat) (v : Vec) : (s.setV r v).h.sfq = s.h.sfq := rfl
@[simp] theorem State.setV_h_vdq (s : State) (r : Nat) (v : Vec) : (s.setV r v).h.vdq = s.h.vdq := rfl
@[simp] theorem State.setV_h_bar (s : State) (r : Nat) (v : Vec) : (s.setV r v).h.bar = s.h.bar := rfl
@[simp] theorem State.setV_h_subs (s : State) (r : Nat) (v : Vec) : (s.setV r v).h.subs = s.h.subs := rfl
@[simp] theorem State.setV_h_pubs (s : State) (r : Nat) (v : Vec) : (s.setV r v).h.pubs = s.h.pubs := rfl
@[simp] theorem State.setV_h_copyErrs (s : State) (r : Nat) (v : Vec) : (s.setV r v).h.copyErrs = s.h.copyErrs := rfl
@[simp] theorem State.setV_h_deadline (s : State) (r : Nat) (v : Vec) : (s.setV r v).h.deadline = s.h.deadline := rfl
@[simp] theorem State.setV_h_further (s : State) (r : Nat) (v : Vec) : (s.setV r v).h.further = s.h.further := rfl
@[simp] theorem State.setV_h_uncorrectable (s : State) (r : Nat) (v : Vec) : (s.setV r v).h.uncorrectable = s.h.uncorrectable := rfl
@[simp] theorem State.setV_h_notice (s : State) (r : Nat) (v : Vec) : (s.setV r v).h.notice = s.h.notice := rfl
@[simp] theorem State.setV_h_noticeWord (s : State) (r : Nat) (v : Vec) : (s.setV r v).h.noticeWord = s.h.noticeWord := rfl
@[simp] theorem State.setV_h_kill (s : State) (r : Nat) (v : Vec) : (s.setV r v).h.kill = s.h.kill := rfl
@[simp] theorem State.setV_h_preempt (s : State) (r : Nat) (v : Vec) : (s.setV r v).h.preempt = s.h.preempt := rfl
@[simp] theorem State.setV_h_pend (s : State) (r : Nat) (v : Vec) : (s.setV r v).h.pend = s.h.pend := rfl
@[simp] theorem State.setV_h_launchAt (s : State) (r : Nat) (v : Vec) : (s.setV r v).h.launchAt = s.h.launchAt := rfl
@[simp] theorem State.setV_h_launchCode (s : State) (r : Nat) (v : Vec) : (s.setV r v).h.launchCode = s.h.launchCode := rfl
@[simp] theorem State.setV_h_ahead (s : State) (r : Nat) (v : Vec) : (s.setV r v).h.ahead = s.h.ahead := rfl
@[simp] theorem State.setV_h_amid (s : State) (r : Nat) (v : Vec) : (s.setV r v).h.amid = s.h.amid := rfl
@[simp] theorem State.setV_h_waitAt (s : State) (r : Nat) (v : Vec) : (s.setV r v).h.waitAt = s.h.waitAt := rfl
@[simp] theorem State.setV_h_waitTags (s : State) (r : Nat) (v : Vec) : (s.setV r v).h.waitTags = s.h.waitTags := rfl
@[simp] theorem State.setV_h_waitTrap (s : State) (r : Nat) (v : Vec) : (s.setV r v).h.waitTrap = s.h.waitTrap := rfl
@[simp] theorem State.setV_h_waitFlags (s : State) (r : Nat) (v : Vec) : (s.setV r v).h.waitFlags = s.h.waitFlags := rfl
@[simp] theorem State.setV_h_head (s : State) (r : Nat) (v : Vec) : (s.setV r v).h.head = s.h.head := rfl
@[simp] theorem State.setV_h_pauseLeft (s : State) (r : Nat) (v : Vec) : (s.setV r v).h.pauseLeft = s.h.pauseLeft := rfl
@[simp] theorem State.setV_h_atWait (s : State) (r : Nat) (v : Vec) : (s.setV r v).h.atWait = s.h.atWait := rfl
@[simp] theorem State.setV_h_slot (s : State) (r : Nat) (v : Vec) : (s.setV r v).h.slot = s.h.slot := rfl
@[simp] theorem State.setV_h_poolDie (s : State) (r : Nat) (v : Vec) : (s.setV r v).h.poolDie = s.h.poolDie := rfl
@[simp] theorem State.setV_h_poolSecure (s : State) (r : Nat) (v : Vec) : (s.setV r v).h.poolSecure = s.h.poolSecure := rfl
@[simp] theorem State.setV_h_pbmp (s : State) (r : Nat) (v : Vec) : (s.setV r v).h.pbmp = s.h.pbmp := rfl
@[simp] theorem State.setV_h_status (s : State) (r : Nat) (v : Vec) : (s.setV r v).h.status = s.h.status := rfl
@[simp] theorem State.setV_h_dying (s : State) (r : Nat) (v : Vec) : (s.setV r v).h.dying = s.h.dying := rfl
@[simp] theorem State.setV_h_gang (s : State) (r : Nat) (v : Vec) : (s.setV r v).h.gang = s.h.gang := rfl
@[simp] theorem State.setV_h_clock (s : State) (r : Nat) (v : Vec) : (s.setV r v).h.clock = s.h.clock := rfl
@[simp] theorem State.setV_h_observed (s : State) (r : Nat) (v : Vec) : (s.setV r v).h.observed = s.h.observed := rfl
@[simp] theorem State.setV_h_armed (s : State) (r : Nat) (v : Vec) : (s.setV r v).h.armed = s.h.armed := rfl
@[simp] theorem State.setV_h_missAt (s : State) (r : Nat) (v : Vec) : (s.setV r v).h.missAt = s.h.missAt := rfl
@[simp] theorem State.setV_h_chunkBits (s : State) (r : Nat) (v : Vec) : (s.setV r v).h.chunkBits = s.h.chunkBits := rfl

@[simp] theorem State.setM_core (s : State) (r : Nat) (v : Mask) : (s.setM r v).core = s.core := by unfold State.setM; split <;> rfl
@[simp] theorem State.setM_rest (s : State) (r : Nat) (v : Mask) : (s.setM r v).rest = s.rest := by unfold State.setM; split <;> rfl
@[simp] theorem State.setM_mem (s : State) (r : Nat) (v : Mask) : (s.setM r v).mem = s.mem := by unfold State.setM; split <;> rfl
@[simp] theorem State.setM_pkg (s : State) (r : Nat) (v : Mask) : (s.setM r v).pkg = s.pkg := by unfold State.setM; split <;> rfl
@[simp] theorem State.setM_agenda (s : State) (r : Nat) (v : Mask) : (s.setM r v).agenda = s.agenda := by unfold State.setM; split <;> rfl

@[simp] theorem State.setM_h_x (s : State) (r : Nat) (v : Mask) : (s.setM r v).h.x = s.h.x := by unfold State.setM; split <;> rfl
@[simp] theorem State.setM_h_v (s : State) (r : Nat) (v : Mask) : (s.setM r v).h.v = s.h.v := by unfold State.setM; split <;> rfl
@[simp] theorem State.setM_h_cc (s : State) (r : Nat) (v : Mask) : (s.setM r v).h.cc = s.h.cc := by unfold State.setM; split <;> rfl
@[simp] theorem State.setM_h_pc (s : State) (r : Nat) (v : Mask) : (s.setM r v).h.pc = s.h.pc := by unfold State.setM; split <;> rfl
@[simp] theorem State.setM_h_priv (s : State) (r : Nat) (v : Mask) : (s.setM r v).h.priv = s.h.priv := by unfold State.setM; split <;> rfl
@[simp] theorem State.setM_h_fcsr (s : State) (r : Nat) (v : Mask) : (s.setM r v).h.fcsr = s.h.fcsr := by unfold State.setM; split <;> rfl
@[simp] theorem State.setM_h_vl (s : State) (r : Nat) (v : Mask) : (s.setM r v).h.vl = s.h.vl := by unfold State.setM; split <;> rfl
@[simp] theorem State.setM_h_vstart (s : State) (r : Nat) (v : Mask) : (s.setM r v).h.vstart = s.h.vstart := by unfold State.setM; split <;> rfl
@[simp] theorem State.setM_h_mvl (s : State) (r : Nat) (v : Mask) : (s.setM r v).h.mvl = s.h.mvl := by unfold State.setM; split <;> rfl
@[simp] theorem State.setM_h_mvc (s : State) (r : Nat) (v : Mask) : (s.setM r v).h.mvc = s.h.mvc := by unfold State.setM; split <;> rfl
@[simp] theorem State.setM_h_rngkey (s : State) (r : Nat) (v : Mask) : (s.setM r v).h.rngkey = s.h.rngkey := by unfold State.setM; split <;> rfl
@[simp] theorem State.setM_h_rngctr (s : State) (r : Nat) (v : Mask) : (s.setM r v).h.rngctr = s.h.rngctr := by unfold State.setM; split <;> rfl
@[simp] theorem State.setM_h_tguard (s : State) (r : Nat) (v : Mask) : (s.setM r v).h.tguard = s.h.tguard := by unfold State.setM; split <;> rfl
@[simp] theorem State.setM_h_tlate (s : State) (r : Nat) (v : Mask) : (s.setM r v).h.tlate = s.h.tlate := by unfold State.setM; split <;> rfl
@[simp] theorem State.setM_h_instret (s : State) (r : Nat) (v : Mask) : (s.setM r v).h.instret = s.h.instret := by unfold State.setM; split <;> rfl
@[simp] theorem State.setM_h_gangid (s : State) (r : Nat) (v : Mask) : (s.setM r v).h.gangid = s.h.gangid := by unfold State.setM; split <;> rfl
@[simp] theorem State.setM_h_gidx (s : State) (r : Nat) (v : Mask) : (s.setM r v).h.gidx = s.h.gidx := by unfold State.setM; split <;> rfl
@[simp] theorem State.setM_h_gangsz (s : State) (r : Nat) (v : Mask) : (s.setM r v).h.gangsz = s.h.gangsz := by unfold State.setM; split <;> rfl
@[simp] theorem State.setM_h_ctxid (s : State) (r : Nat) (v : Mask) : (s.setM r v).h.ctxid = s.h.ctxid := by unfold State.setM; split <;> rfl
@[simp] theorem State.setM_h_tid (s : State) (r : Nat) (v : Mask) : (s.setM r v).h.tid = s.h.tid := by unfold State.setM; split <;> rfl
@[simp] theorem State.setM_h_epc (s : State) (r : Nat) (v : Mask) : (s.setM r v).h.epc = s.h.epc := by unfold State.setM; split <;> rfl
@[simp] theorem State.setM_h_ecause (s : State) (r : Nat) (v : Mask) : (s.setM r v).h.ecause = s.h.ecause := by unfold State.setM; split <;> rfl
@[simp] theorem State.setM_h_eval (s : State) (r : Nat) (v : Mask) : (s.setM r v).h.eval = s.h.eval := by unfold State.setM; split <;> rfl
@[simp] theorem State.setM_h_eslice (s : State) (r : Nat) (v : Mask) : (s.setM r v).h.eslice = s.h.eslice := by unfold State.setM; split <;> rfl
@[simp] theorem State.setM_h_estat (s : State) (r : Nat) (v : Mask) : (s.setM r v).h.estat = s.h.estat := by unfold State.setM; split <;> rfl
@[simp] theorem State.setM_h_restart (s : State) (r : Nat) (v : Mask) : (s.setM r v).h.restart = s.h.restart := by unfold State.setM; split <;> rfl
@[simp] theorem State.setM_h_sb (s : State) (r : Nat) (v : Mask) : (s.setM r v).h.sb = s.h.sb := by unfold State.setM; split <;> rfl
@[simp] theorem State.setM_h_sfq (s : State) (r : Nat) (v : Mask) : (s.setM r v).h.sfq = s.h.sfq := by unfold State.setM; split <;> rfl
@[simp] theorem State.setM_h_vdq (s : State) (r : Nat) (v : Mask) : (s.setM r v).h.vdq = s.h.vdq := by unfold State.setM; split <;> rfl
@[simp] theorem State.setM_h_bar (s : State) (r : Nat) (v : Mask) : (s.setM r v).h.bar = s.h.bar := by unfold State.setM; split <;> rfl
@[simp] theorem State.setM_h_subs (s : State) (r : Nat) (v : Mask) : (s.setM r v).h.subs = s.h.subs := by unfold State.setM; split <;> rfl
@[simp] theorem State.setM_h_pubs (s : State) (r : Nat) (v : Mask) : (s.setM r v).h.pubs = s.h.pubs := by unfold State.setM; split <;> rfl
@[simp] theorem State.setM_h_copyErrs (s : State) (r : Nat) (v : Mask) : (s.setM r v).h.copyErrs = s.h.copyErrs := by unfold State.setM; split <;> rfl
@[simp] theorem State.setM_h_deadline (s : State) (r : Nat) (v : Mask) : (s.setM r v).h.deadline = s.h.deadline := by unfold State.setM; split <;> rfl
@[simp] theorem State.setM_h_further (s : State) (r : Nat) (v : Mask) : (s.setM r v).h.further = s.h.further := by unfold State.setM; split <;> rfl
@[simp] theorem State.setM_h_uncorrectable (s : State) (r : Nat) (v : Mask) : (s.setM r v).h.uncorrectable = s.h.uncorrectable := by unfold State.setM; split <;> rfl
@[simp] theorem State.setM_h_notice (s : State) (r : Nat) (v : Mask) : (s.setM r v).h.notice = s.h.notice := by unfold State.setM; split <;> rfl
@[simp] theorem State.setM_h_noticeWord (s : State) (r : Nat) (v : Mask) : (s.setM r v).h.noticeWord = s.h.noticeWord := by unfold State.setM; split <;> rfl
@[simp] theorem State.setM_h_kill (s : State) (r : Nat) (v : Mask) : (s.setM r v).h.kill = s.h.kill := by unfold State.setM; split <;> rfl
@[simp] theorem State.setM_h_preempt (s : State) (r : Nat) (v : Mask) : (s.setM r v).h.preempt = s.h.preempt := by unfold State.setM; split <;> rfl
@[simp] theorem State.setM_h_pend (s : State) (r : Nat) (v : Mask) : (s.setM r v).h.pend = s.h.pend := by unfold State.setM; split <;> rfl
@[simp] theorem State.setM_h_launchAt (s : State) (r : Nat) (v : Mask) : (s.setM r v).h.launchAt = s.h.launchAt := by unfold State.setM; split <;> rfl
@[simp] theorem State.setM_h_launchCode (s : State) (r : Nat) (v : Mask) : (s.setM r v).h.launchCode = s.h.launchCode := by unfold State.setM; split <;> rfl
@[simp] theorem State.setM_h_ahead (s : State) (r : Nat) (v : Mask) : (s.setM r v).h.ahead = s.h.ahead := by unfold State.setM; split <;> rfl
@[simp] theorem State.setM_h_amid (s : State) (r : Nat) (v : Mask) : (s.setM r v).h.amid = s.h.amid := by unfold State.setM; split <;> rfl
@[simp] theorem State.setM_h_waitAt (s : State) (r : Nat) (v : Mask) : (s.setM r v).h.waitAt = s.h.waitAt := by unfold State.setM; split <;> rfl
@[simp] theorem State.setM_h_waitTags (s : State) (r : Nat) (v : Mask) : (s.setM r v).h.waitTags = s.h.waitTags := by unfold State.setM; split <;> rfl
@[simp] theorem State.setM_h_waitTrap (s : State) (r : Nat) (v : Mask) : (s.setM r v).h.waitTrap = s.h.waitTrap := by unfold State.setM; split <;> rfl
@[simp] theorem State.setM_h_waitFlags (s : State) (r : Nat) (v : Mask) : (s.setM r v).h.waitFlags = s.h.waitFlags := by unfold State.setM; split <;> rfl
@[simp] theorem State.setM_h_head (s : State) (r : Nat) (v : Mask) : (s.setM r v).h.head = s.h.head := by unfold State.setM; split <;> rfl
@[simp] theorem State.setM_h_pauseLeft (s : State) (r : Nat) (v : Mask) : (s.setM r v).h.pauseLeft = s.h.pauseLeft := by unfold State.setM; split <;> rfl
@[simp] theorem State.setM_h_atWait (s : State) (r : Nat) (v : Mask) : (s.setM r v).h.atWait = s.h.atWait := by unfold State.setM; split <;> rfl
@[simp] theorem State.setM_h_slot (s : State) (r : Nat) (v : Mask) : (s.setM r v).h.slot = s.h.slot := by unfold State.setM; split <;> rfl
@[simp] theorem State.setM_h_poolDie (s : State) (r : Nat) (v : Mask) : (s.setM r v).h.poolDie = s.h.poolDie := by unfold State.setM; split <;> rfl
@[simp] theorem State.setM_h_poolSecure (s : State) (r : Nat) (v : Mask) : (s.setM r v).h.poolSecure = s.h.poolSecure := by unfold State.setM; split <;> rfl
@[simp] theorem State.setM_h_pbmp (s : State) (r : Nat) (v : Mask) : (s.setM r v).h.pbmp = s.h.pbmp := by unfold State.setM; split <;> rfl
@[simp] theorem State.setM_h_status (s : State) (r : Nat) (v : Mask) : (s.setM r v).h.status = s.h.status := by unfold State.setM; split <;> rfl
@[simp] theorem State.setM_h_dying (s : State) (r : Nat) (v : Mask) : (s.setM r v).h.dying = s.h.dying := by unfold State.setM; split <;> rfl
@[simp] theorem State.setM_h_gang (s : State) (r : Nat) (v : Mask) : (s.setM r v).h.gang = s.h.gang := by unfold State.setM; split <;> rfl
@[simp] theorem State.setM_h_clock (s : State) (r : Nat) (v : Mask) : (s.setM r v).h.clock = s.h.clock := by unfold State.setM; split <;> rfl
@[simp] theorem State.setM_h_observed (s : State) (r : Nat) (v : Mask) : (s.setM r v).h.observed = s.h.observed := by unfold State.setM; split <;> rfl
@[simp] theorem State.setM_h_armed (s : State) (r : Nat) (v : Mask) : (s.setM r v).h.armed = s.h.armed := by unfold State.setM; split <;> rfl
@[simp] theorem State.setM_h_missAt (s : State) (r : Nat) (v : Mask) : (s.setM r v).h.missAt = s.h.missAt := by unfold State.setM; split <;> rfl
@[simp] theorem State.setM_h_chunkBits (s : State) (r : Nat) (v : Mask) : (s.setM r v).h.chunkBits = s.h.chunkBits := by unfold State.setM; split <;> rfl

@[simp] theorem State.pushStore_core (s : State) (va : Dword) (n : Nat) (d : Dword) (k : StoreKind) : (s.pushStore va n d k).core = s.core := rfl
@[simp] theorem State.pushStore_rest (s : State) (va : Dword) (n : Nat) (d : Dword) (k : StoreKind) : (s.pushStore va n d k).rest = s.rest := rfl
@[simp] theorem State.pushStore_mem (s : State) (va : Dword) (n : Nat) (d : Dword) (k : StoreKind) : (s.pushStore va n d k).mem = s.mem := rfl
@[simp] theorem State.pushStore_pkg (s : State) (va : Dword) (n : Nat) (d : Dword) (k : StoreKind) : (s.pushStore va n d k).pkg = s.pkg := rfl
@[simp] theorem State.pushStore_agenda (s : State) (va : Dword) (n : Nat) (d : Dword) (k : StoreKind) : (s.pushStore va n d k).agenda = s.agenda := rfl

@[simp] theorem State.pushStore_h_x (s : State) (va : Dword) (n : Nat) (d : Dword) (k : StoreKind) : (s.pushStore va n d k).h.x = s.h.x := by unfold State.pushStore; simp
@[simp] theorem State.pushStore_h_v (s : State) (va : Dword) (n : Nat) (d : Dword) (k : StoreKind) : (s.pushStore va n d k).h.v = s.h.v := by unfold State.pushStore; simp
@[simp] theorem State.pushStore_h_m (s : State) (va : Dword) (n : Nat) (d : Dword) (k : StoreKind) : (s.pushStore va n d k).h.m = s.h.m := by unfold State.pushStore; simp
@[simp] theorem State.pushStore_h_cc (s : State) (va : Dword) (n : Nat) (d : Dword) (k : StoreKind) : (s.pushStore va n d k).h.cc = s.h.cc := by unfold State.pushStore; simp
@[simp] theorem State.pushStore_h_pc (s : State) (va : Dword) (n : Nat) (d : Dword) (k : StoreKind) : (s.pushStore va n d k).h.pc = s.h.pc := by unfold State.pushStore; simp
@[simp] theorem State.pushStore_h_priv (s : State) (va : Dword) (n : Nat) (d : Dword) (k : StoreKind) : (s.pushStore va n d k).h.priv = s.h.priv := by unfold State.pushStore; simp
@[simp] theorem State.pushStore_h_fcsr (s : State) (va : Dword) (n : Nat) (d : Dword) (k : StoreKind) : (s.pushStore va n d k).h.fcsr = s.h.fcsr := by unfold State.pushStore; simp
@[simp] theorem State.pushStore_h_vl (s : State) (va : Dword) (n : Nat) (d : Dword) (k : StoreKind) : (s.pushStore va n d k).h.vl = s.h.vl := by unfold State.pushStore; simp
@[simp] theorem State.pushStore_h_vstart (s : State) (va : Dword) (n : Nat) (d : Dword) (k : StoreKind) : (s.pushStore va n d k).h.vstart = s.h.vstart := by unfold State.pushStore; simp
@[simp] theorem State.pushStore_h_mvl (s : State) (va : Dword) (n : Nat) (d : Dword) (k : StoreKind) : (s.pushStore va n d k).h.mvl = s.h.mvl := by unfold State.pushStore; simp
@[simp] theorem State.pushStore_h_mvc (s : State) (va : Dword) (n : Nat) (d : Dword) (k : StoreKind) : (s.pushStore va n d k).h.mvc = s.h.mvc := by unfold State.pushStore; simp
@[simp] theorem State.pushStore_h_rngkey (s : State) (va : Dword) (n : Nat) (d : Dword) (k : StoreKind) : (s.pushStore va n d k).h.rngkey = s.h.rngkey := by unfold State.pushStore; simp
@[simp] theorem State.pushStore_h_rngctr (s : State) (va : Dword) (n : Nat) (d : Dword) (k : StoreKind) : (s.pushStore va n d k).h.rngctr = s.h.rngctr := by unfold State.pushStore; simp
@[simp] theorem State.pushStore_h_tguard (s : State) (va : Dword) (n : Nat) (d : Dword) (k : StoreKind) : (s.pushStore va n d k).h.tguard = s.h.tguard := by unfold State.pushStore; simp
@[simp] theorem State.pushStore_h_tlate (s : State) (va : Dword) (n : Nat) (d : Dword) (k : StoreKind) : (s.pushStore va n d k).h.tlate = s.h.tlate := by unfold State.pushStore; simp
@[simp] theorem State.pushStore_h_instret (s : State) (va : Dword) (n : Nat) (d : Dword) (k : StoreKind) : (s.pushStore va n d k).h.instret = s.h.instret := by unfold State.pushStore; simp
@[simp] theorem State.pushStore_h_gangid (s : State) (va : Dword) (n : Nat) (d : Dword) (k : StoreKind) : (s.pushStore va n d k).h.gangid = s.h.gangid := by unfold State.pushStore; simp
@[simp] theorem State.pushStore_h_gidx (s : State) (va : Dword) (n : Nat) (d : Dword) (k : StoreKind) : (s.pushStore va n d k).h.gidx = s.h.gidx := by unfold State.pushStore; simp
@[simp] theorem State.pushStore_h_gangsz (s : State) (va : Dword) (n : Nat) (d : Dword) (k : StoreKind) : (s.pushStore va n d k).h.gangsz = s.h.gangsz := by unfold State.pushStore; simp
@[simp] theorem State.pushStore_h_ctxid (s : State) (va : Dword) (n : Nat) (d : Dword) (k : StoreKind) : (s.pushStore va n d k).h.ctxid = s.h.ctxid := by unfold State.pushStore; simp
@[simp] theorem State.pushStore_h_tid (s : State) (va : Dword) (n : Nat) (d : Dword) (k : StoreKind) : (s.pushStore va n d k).h.tid = s.h.tid := by unfold State.pushStore; simp
@[simp] theorem State.pushStore_h_epc (s : State) (va : Dword) (n : Nat) (d : Dword) (k : StoreKind) : (s.pushStore va n d k).h.epc = s.h.epc := by unfold State.pushStore; simp
@[simp] theorem State.pushStore_h_ecause (s : State) (va : Dword) (n : Nat) (d : Dword) (k : StoreKind) : (s.pushStore va n d k).h.ecause = s.h.ecause := by unfold State.pushStore; simp
@[simp] theorem State.pushStore_h_eval (s : State) (va : Dword) (n : Nat) (d : Dword) (k : StoreKind) : (s.pushStore va n d k).h.eval = s.h.eval := by unfold State.pushStore; simp
@[simp] theorem State.pushStore_h_eslice (s : State) (va : Dword) (n : Nat) (d : Dword) (k : StoreKind) : (s.pushStore va n d k).h.eslice = s.h.eslice := by unfold State.pushStore; simp
@[simp] theorem State.pushStore_h_estat (s : State) (va : Dword) (n : Nat) (d : Dword) (k : StoreKind) : (s.pushStore va n d k).h.estat = s.h.estat := by unfold State.pushStore; simp
@[simp] theorem State.pushStore_h_restart (s : State) (va : Dword) (n : Nat) (d : Dword) (k : StoreKind) : (s.pushStore va n d k).h.restart = s.h.restart := by unfold State.pushStore; simp
@[simp] theorem State.pushStore_h_sfq (s : State) (va : Dword) (n : Nat) (d : Dword) (k : StoreKind) : (s.pushStore va n d k).h.sfq = s.h.sfq := by unfold State.pushStore; simp
@[simp] theorem State.pushStore_h_vdq (s : State) (va : Dword) (n : Nat) (d : Dword) (k : StoreKind) : (s.pushStore va n d k).h.vdq = s.h.vdq := by unfold State.pushStore; simp
@[simp] theorem State.pushStore_h_bar (s : State) (va : Dword) (n : Nat) (d : Dword) (k : StoreKind) : (s.pushStore va n d k).h.bar = s.h.bar := by unfold State.pushStore; simp
@[simp] theorem State.pushStore_h_subs (s : State) (va : Dword) (n : Nat) (d : Dword) (k : StoreKind) : (s.pushStore va n d k).h.subs = s.h.subs := by unfold State.pushStore; simp
@[simp] theorem State.pushStore_h_pubs (s : State) (va : Dword) (n : Nat) (d : Dword) (k : StoreKind) : (s.pushStore va n d k).h.pubs = s.h.pubs := by unfold State.pushStore; simp
@[simp] theorem State.pushStore_h_copyErrs (s : State) (va : Dword) (n : Nat) (d : Dword) (k : StoreKind) : (s.pushStore va n d k).h.copyErrs = s.h.copyErrs := by unfold State.pushStore; simp
@[simp] theorem State.pushStore_h_deadline (s : State) (va : Dword) (n : Nat) (d : Dword) (k : StoreKind) : (s.pushStore va n d k).h.deadline = s.h.deadline := by unfold State.pushStore; simp
@[simp] theorem State.pushStore_h_further (s : State) (va : Dword) (n : Nat) (d : Dword) (k : StoreKind) : (s.pushStore va n d k).h.further = s.h.further := by unfold State.pushStore; simp
@[simp] theorem State.pushStore_h_uncorrectable (s : State) (va : Dword) (n : Nat) (d : Dword) (k : StoreKind) : (s.pushStore va n d k).h.uncorrectable = s.h.uncorrectable := by unfold State.pushStore; simp
@[simp] theorem State.pushStore_h_notice (s : State) (va : Dword) (n : Nat) (d : Dword) (k : StoreKind) : (s.pushStore va n d k).h.notice = s.h.notice := by unfold State.pushStore; simp
@[simp] theorem State.pushStore_h_noticeWord (s : State) (va : Dword) (n : Nat) (d : Dword) (k : StoreKind) : (s.pushStore va n d k).h.noticeWord = s.h.noticeWord := by unfold State.pushStore; simp
@[simp] theorem State.pushStore_h_kill (s : State) (va : Dword) (n : Nat) (d : Dword) (k : StoreKind) : (s.pushStore va n d k).h.kill = s.h.kill := by unfold State.pushStore; simp
@[simp] theorem State.pushStore_h_preempt (s : State) (va : Dword) (n : Nat) (d : Dword) (k : StoreKind) : (s.pushStore va n d k).h.preempt = s.h.preempt := by unfold State.pushStore; simp
@[simp] theorem State.pushStore_h_pend (s : State) (va : Dword) (n : Nat) (d : Dword) (k : StoreKind) : (s.pushStore va n d k).h.pend = s.h.pend := by unfold State.pushStore; simp
@[simp] theorem State.pushStore_h_launchAt (s : State) (va : Dword) (n : Nat) (d : Dword) (k : StoreKind) : (s.pushStore va n d k).h.launchAt = s.h.launchAt := by unfold State.pushStore; simp
@[simp] theorem State.pushStore_h_launchCode (s : State) (va : Dword) (n : Nat) (d : Dword) (k : StoreKind) : (s.pushStore va n d k).h.launchCode = s.h.launchCode := by unfold State.pushStore; simp
@[simp] theorem State.pushStore_h_ahead (s : State) (va : Dword) (n : Nat) (d : Dword) (k : StoreKind) : (s.pushStore va n d k).h.ahead = s.h.ahead := by unfold State.pushStore; simp
@[simp] theorem State.pushStore_h_amid (s : State) (va : Dword) (n : Nat) (d : Dword) (k : StoreKind) : (s.pushStore va n d k).h.amid = s.h.amid := by unfold State.pushStore; simp
@[simp] theorem State.pushStore_h_waitAt (s : State) (va : Dword) (n : Nat) (d : Dword) (k : StoreKind) : (s.pushStore va n d k).h.waitAt = s.h.waitAt := by unfold State.pushStore; simp
@[simp] theorem State.pushStore_h_waitTags (s : State) (va : Dword) (n : Nat) (d : Dword) (k : StoreKind) : (s.pushStore va n d k).h.waitTags = s.h.waitTags := by unfold State.pushStore; simp
@[simp] theorem State.pushStore_h_waitTrap (s : State) (va : Dword) (n : Nat) (d : Dword) (k : StoreKind) : (s.pushStore va n d k).h.waitTrap = s.h.waitTrap := by unfold State.pushStore; simp
@[simp] theorem State.pushStore_h_waitFlags (s : State) (va : Dword) (n : Nat) (d : Dword) (k : StoreKind) : (s.pushStore va n d k).h.waitFlags = s.h.waitFlags := by unfold State.pushStore; simp
@[simp] theorem State.pushStore_h_head (s : State) (va : Dword) (n : Nat) (d : Dword) (k : StoreKind) : (s.pushStore va n d k).h.head = s.h.head := by unfold State.pushStore; simp
@[simp] theorem State.pushStore_h_pauseLeft (s : State) (va : Dword) (n : Nat) (d : Dword) (k : StoreKind) : (s.pushStore va n d k).h.pauseLeft = s.h.pauseLeft := by unfold State.pushStore; simp
@[simp] theorem State.pushStore_h_atWait (s : State) (va : Dword) (n : Nat) (d : Dword) (k : StoreKind) : (s.pushStore va n d k).h.atWait = s.h.atWait := by unfold State.pushStore; simp
@[simp] theorem State.pushStore_h_slot (s : State) (va : Dword) (n : Nat) (d : Dword) (k : StoreKind) : (s.pushStore va n d k).h.slot = s.h.slot := by unfold State.pushStore; simp
@[simp] theorem State.pushStore_h_poolDie (s : State) (va : Dword) (n : Nat) (d : Dword) (k : StoreKind) : (s.pushStore va n d k).h.poolDie = s.h.poolDie := by unfold State.pushStore; simp
@[simp] theorem State.pushStore_h_poolSecure (s : State) (va : Dword) (n : Nat) (d : Dword) (k : StoreKind) : (s.pushStore va n d k).h.poolSecure = s.h.poolSecure := by unfold State.pushStore; simp
@[simp] theorem State.pushStore_h_pbmp (s : State) (va : Dword) (n : Nat) (d : Dword) (k : StoreKind) : (s.pushStore va n d k).h.pbmp = s.h.pbmp := by unfold State.pushStore; simp
@[simp] theorem State.pushStore_h_status (s : State) (va : Dword) (n : Nat) (d : Dword) (k : StoreKind) : (s.pushStore va n d k).h.status = s.h.status := by unfold State.pushStore; simp
@[simp] theorem State.pushStore_h_dying (s : State) (va : Dword) (n : Nat) (d : Dword) (k : StoreKind) : (s.pushStore va n d k).h.dying = s.h.dying := by unfold State.pushStore; simp
@[simp] theorem State.pushStore_h_gang (s : State) (va : Dword) (n : Nat) (d : Dword) (k : StoreKind) : (s.pushStore va n d k).h.gang = s.h.gang := by unfold State.pushStore; simp
@[simp] theorem State.pushStore_h_observed (s : State) (va : Dword) (n : Nat) (d : Dword) (k : StoreKind) : (s.pushStore va n d k).h.observed = s.h.observed := by unfold State.pushStore; simp
@[simp] theorem State.pushStore_h_missAt (s : State) (va : Dword) (n : Nat) (d : Dword) (k : StoreKind) : (s.pushStore va n d k).h.missAt = s.h.missAt := by unfold State.pushStore; simp
@[simp] theorem State.pushStore_h_chunkBits (s : State) (va : Dword) (n : Nat) (d : Dword) (k : StoreKind) : (s.pushStore va n d k).h.chunkBits = s.h.chunkBits := by unfold State.pushStore; simp

@[simp] theorem State.endSlices_core (s : State) : (s.endSlices).core = s.core := rfl
@[simp] theorem State.endSlices_rest (s : State) : (s.endSlices).rest = s.rest := rfl
@[simp] theorem State.endSlices_mem (s : State) : (s.endSlices).mem = s.mem := rfl
@[simp] theorem State.endSlices_pkg (s : State) : (s.endSlices).pkg = s.pkg := rfl
@[simp] theorem State.endSlices_agenda (s : State) : (s.endSlices).agenda = s.agenda := rfl

@[simp] theorem State.endSlices_h_x (s : State) : (s.endSlices).h.x = s.h.x := rfl
@[simp] theorem State.endSlices_h_v (s : State) : (s.endSlices).h.v = s.h.v := rfl
@[simp] theorem State.endSlices_h_m (s : State) : (s.endSlices).h.m = s.h.m := rfl
@[simp] theorem State.endSlices_h_cc (s : State) : (s.endSlices).h.cc = s.h.cc := rfl
@[simp] theorem State.endSlices_h_pc (s : State) : (s.endSlices).h.pc = s.h.pc := rfl
@[simp] theorem State.endSlices_h_priv (s : State) : (s.endSlices).h.priv = s.h.priv := rfl
@[simp] theorem State.endSlices_h_fcsr (s : State) : (s.endSlices).h.fcsr = s.h.fcsr := rfl
@[simp] theorem State.endSlices_h_vl (s : State) : (s.endSlices).h.vl = s.h.vl := rfl
@[simp] theorem State.endSlices_h_vstart (s : State) : (s.endSlices).h.vstart = s.h.vstart := rfl
@[simp] theorem State.endSlices_h_mvl (s : State) : (s.endSlices).h.mvl = s.h.mvl := rfl
@[simp] theorem State.endSlices_h_mvc (s : State) : (s.endSlices).h.mvc = s.h.mvc := rfl
@[simp] theorem State.endSlices_h_rngkey (s : State) : (s.endSlices).h.rngkey = s.h.rngkey := rfl
@[simp] theorem State.endSlices_h_rngctr (s : State) : (s.endSlices).h.rngctr = s.h.rngctr := rfl
@[simp] theorem State.endSlices_h_tguard (s : State) : (s.endSlices).h.tguard = s.h.tguard := rfl
@[simp] theorem State.endSlices_h_tlate (s : State) : (s.endSlices).h.tlate = s.h.tlate := rfl
@[simp] theorem State.endSlices_h_instret (s : State) : (s.endSlices).h.instret = s.h.instret := rfl
@[simp] theorem State.endSlices_h_gangid (s : State) : (s.endSlices).h.gangid = s.h.gangid := rfl
@[simp] theorem State.endSlices_h_gidx (s : State) : (s.endSlices).h.gidx = s.h.gidx := rfl
@[simp] theorem State.endSlices_h_gangsz (s : State) : (s.endSlices).h.gangsz = s.h.gangsz := rfl
@[simp] theorem State.endSlices_h_ctxid (s : State) : (s.endSlices).h.ctxid = s.h.ctxid := rfl
@[simp] theorem State.endSlices_h_tid (s : State) : (s.endSlices).h.tid = s.h.tid := rfl
@[simp] theorem State.endSlices_h_epc (s : State) : (s.endSlices).h.epc = s.h.epc := rfl
@[simp] theorem State.endSlices_h_ecause (s : State) : (s.endSlices).h.ecause = s.h.ecause := rfl
@[simp] theorem State.endSlices_h_eval (s : State) : (s.endSlices).h.eval = s.h.eval := rfl
@[simp] theorem State.endSlices_h_eslice (s : State) : (s.endSlices).h.eslice = s.h.eslice := rfl
@[simp] theorem State.endSlices_h_sb (s : State) : (s.endSlices).h.sb = s.h.sb := rfl
@[simp] theorem State.endSlices_h_sfq (s : State) : (s.endSlices).h.sfq = s.h.sfq := rfl
@[simp] theorem State.endSlices_h_vdq (s : State) : (s.endSlices).h.vdq = s.h.vdq := rfl
@[simp] theorem State.endSlices_h_bar (s : State) : (s.endSlices).h.bar = s.h.bar := rfl
@[simp] theorem State.endSlices_h_subs (s : State) : (s.endSlices).h.subs = s.h.subs := rfl
@[simp] theorem State.endSlices_h_pubs (s : State) : (s.endSlices).h.pubs = s.h.pubs := rfl
@[simp] theorem State.endSlices_h_copyErrs (s : State) : (s.endSlices).h.copyErrs = s.h.copyErrs := rfl
@[simp] theorem State.endSlices_h_deadline (s : State) : (s.endSlices).h.deadline = s.h.deadline := rfl
@[simp] theorem State.endSlices_h_further (s : State) : (s.endSlices).h.further = s.h.further := rfl
@[simp] theorem State.endSlices_h_uncorrectable (s : State) : (s.endSlices).h.uncorrectable = s.h.uncorrectable := rfl
@[simp] theorem State.endSlices_h_notice (s : State) : (s.endSlices).h.notice = s.h.notice := rfl
@[simp] theorem State.endSlices_h_noticeWord (s : State) : (s.endSlices).h.noticeWord = s.h.noticeWord := rfl
@[simp] theorem State.endSlices_h_kill (s : State) : (s.endSlices).h.kill = s.h.kill := rfl
@[simp] theorem State.endSlices_h_preempt (s : State) : (s.endSlices).h.preempt = s.h.preempt := rfl
@[simp] theorem State.endSlices_h_pend (s : State) : (s.endSlices).h.pend = s.h.pend := rfl
@[simp] theorem State.endSlices_h_launchAt (s : State) : (s.endSlices).h.launchAt = s.h.launchAt := rfl
@[simp] theorem State.endSlices_h_launchCode (s : State) : (s.endSlices).h.launchCode = s.h.launchCode := rfl
@[simp] theorem State.endSlices_h_ahead (s : State) : (s.endSlices).h.ahead = s.h.ahead := rfl
@[simp] theorem State.endSlices_h_amid (s : State) : (s.endSlices).h.amid = s.h.amid := rfl
@[simp] theorem State.endSlices_h_waitAt (s : State) : (s.endSlices).h.waitAt = s.h.waitAt := rfl
@[simp] theorem State.endSlices_h_waitTags (s : State) : (s.endSlices).h.waitTags = s.h.waitTags := rfl
@[simp] theorem State.endSlices_h_waitTrap (s : State) : (s.endSlices).h.waitTrap = s.h.waitTrap := rfl
@[simp] theorem State.endSlices_h_waitFlags (s : State) : (s.endSlices).h.waitFlags = s.h.waitFlags := rfl
@[simp] theorem State.endSlices_h_head (s : State) : (s.endSlices).h.head = s.h.head := rfl
@[simp] theorem State.endSlices_h_pauseLeft (s : State) : (s.endSlices).h.pauseLeft = s.h.pauseLeft := rfl
@[simp] theorem State.endSlices_h_atWait (s : State) : (s.endSlices).h.atWait = s.h.atWait := rfl
@[simp] theorem State.endSlices_h_slot (s : State) : (s.endSlices).h.slot = s.h.slot := rfl
@[simp] theorem State.endSlices_h_poolDie (s : State) : (s.endSlices).h.poolDie = s.h.poolDie := rfl
@[simp] theorem State.endSlices_h_poolSecure (s : State) : (s.endSlices).h.poolSecure = s.h.poolSecure := rfl
@[simp] theorem State.endSlices_h_pbmp (s : State) : (s.endSlices).h.pbmp = s.h.pbmp := rfl
@[simp] theorem State.endSlices_h_status (s : State) : (s.endSlices).h.status = s.h.status := rfl
@[simp] theorem State.endSlices_h_dying (s : State) : (s.endSlices).h.dying = s.h.dying := rfl
@[simp] theorem State.endSlices_h_gang (s : State) : (s.endSlices).h.gang = s.h.gang := rfl
@[simp] theorem State.endSlices_h_clock (s : State) : (s.endSlices).h.clock = s.h.clock := rfl
@[simp] theorem State.endSlices_h_observed (s : State) : (s.endSlices).h.observed = s.h.observed := rfl
@[simp] theorem State.endSlices_h_armed (s : State) : (s.endSlices).h.armed = s.h.armed := rfl
@[simp] theorem State.endSlices_h_missAt (s : State) : (s.endSlices).h.missAt = s.h.missAt := rfl
@[simp] theorem State.endSlices_h_chunkBits (s : State) : (s.endSlices).h.chunkBits = s.h.chunkBits := rfl

/-! ### States: the package and memory -/

@[simp] theorem State.send_h (s : State) (m : Msg) : (s.send m).h = s.h := rfl
@[simp] theorem State.send_core (s : State) (m : Msg) : (s.send m).core = s.core := rfl
@[simp] theorem State.send_rest (s : State) (m : Msg) : (s.send m).rest = s.rest := rfl
@[simp] theorem State.send_mem (s : State) (m : Msg) : (s.send m).mem = s.mem := rfl
@[simp] theorem State.send_agenda (s : State) (m : Msg) : (s.send m).agenda = s.agenda := rfl

@[simp] theorem State.unsend_h (s : State) (k : Nat) : (s.unsend k).h = s.h := rfl
@[simp] theorem State.unsend_core (s : State) (k : Nat) : (s.unsend k).core = s.core := rfl
@[simp] theorem State.unsend_rest (s : State) (k : Nat) : (s.unsend k).rest = s.rest := rfl
@[simp] theorem State.unsend_mem (s : State) (k : Nat) : (s.unsend k).mem = s.mem := rfl
@[simp] theorem State.unsend_agenda (s : State) (k : Nat) : (s.unsend k).agenda = s.agenda := rfl

@[simp] theorem State.setReg_h (s : State) (k : Nat) (v : Dword) : (s.setReg k v).h = s.h := rfl
@[simp] theorem State.setReg_core (s : State) (k : Nat) (v : Dword) : (s.setReg k v).core = s.core := rfl
@[simp] theorem State.setReg_rest (s : State) (k : Nat) (v : Dword) : (s.setReg k v).rest = s.rest := rfl
@[simp] theorem State.setReg_mem (s : State) (k : Nat) (v : Dword) : (s.setReg k v).mem = s.mem := rfl
@[simp] theorem State.setReg_agenda (s : State) (k : Nat) (v : Dword) : (s.setReg k v).agenda = s.agenda := rfl

@[simp] theorem State.say_h (s : State) (x : Output) : (s.say x).h = s.h := rfl
@[simp] theorem State.say_core (s : State) (x : Output) : (s.say x).core = s.core := rfl
@[simp] theorem State.say_rest (s : State) (x : Output) : (s.say x).rest = s.rest := rfl
@[simp] theorem State.say_mem (s : State) (x : Output) : (s.say x).mem = s.mem := rfl
@[simp] theorem State.say_agenda (s : State) (x : Output) : (s.say x).agenda = s.agenda := rfl

@[simp] theorem State.poisonBytes_h (s : State) (a n : Nat) : (s.poisonBytes a n).h = s.h := rfl
@[simp] theorem State.poisonBytes_core (s : State) (a n : Nat) : (s.poisonBytes a n).core = s.core := rfl
@[simp] theorem State.poisonBytes_rest (s : State) (a n : Nat) : (s.poisonBytes a n).rest = s.rest := rfl
@[simp] theorem State.poisonBytes_mem (s : State) (a n : Nat) : (s.poisonBytes a n).mem = s.mem := rfl
@[simp] theorem State.poisonBytes_agenda (s : State) (a n : Nat) : (s.poisonBytes a n).agenda = s.agenda := rfl

@[simp] theorem State.putBytes_h (s : State) (a : Nat) (bs : List Byte) : (s.putBytes a bs).h = s.h := rfl
@[simp] theorem State.putBytes_core (s : State) (a : Nat) (bs : List Byte) : (s.putBytes a bs).core = s.core := rfl
@[simp] theorem State.putBytes_rest (s : State) (a : Nat) (bs : List Byte) : (s.putBytes a bs).rest = s.rest := rfl
@[simp] theorem State.putBytes_agenda (s : State) (a : Nat) (bs : List Byte) : (s.putBytes a bs).agenda = s.agenda := rfl

@[simp] theorem State.onGang_h (s : State) (g : Nat) (f : Gang → Gang) : (s.onGang g f).h = s.h := rfl
@[simp] theorem State.onGang_core (s : State) (g : Nat) (f : Gang → Gang) : (s.onGang g f).core = s.core := rfl
@[simp] theorem State.onGang_rest (s : State) (g : Nat) (f : Gang → Gang) : (s.onGang g f).rest = s.rest := rfl
@[simp] theorem State.onGang_mem (s : State) (g : Nat) (f : Gang → Gang) : (s.onGang g f).mem = s.mem := rfl
@[simp] theorem State.onGang_agenda (s : State) (g : Nat) (f : Gang → Gang) : (s.onGang g f).agenda = s.agenda := rfl

@[simp] theorem State.putBytes_mem (s : State) (a : Nat) (bs : List Byte) :
    (s.putBytes a bs).mem = Memory.write s.mem a bs := rfl

@[simp] theorem State.setReg_pkg (s : State) (k : Nat) (v : Dword) : (s.setReg k v).pkg = s.pkg.setCtl k v := rfl

/-! ### The package -/

@[simp] theorem Pkg.setCtl_number (p : Pkg) (k : Nat) (v : Dword) : (p.setCtl k v).number = p.number := rfl
@[simp] theorem Pkg.setCtl_domain (p : Pkg) (k : Nat) (v : Dword) : (p.setCtl k v).domain = p.domain := rfl
@[simp] theorem Pkg.setCtl_time (p : Pkg) (k : Nat) (v : Dword) : (p.setCtl k v).time = p.time := rfl
@[simp] theorem Pkg.setCtl_gtShift (p : Pkg) (k : Nat) (v : Dword) : (p.setCtl k v).gtShift = p.gtShift := rfl
@[simp] theorem Pkg.setCtl_goodSyncs (p : Pkg) (k : Nat) (v : Dword) : (p.setCtl k v).goodSyncs = p.goodSyncs := rfl
@[simp] theorem Pkg.setCtl_lastSync (p : Pkg) (k : Nat) (v : Dword) : (p.setCtl k v).lastSync = p.lastSync := rfl
@[simp] theorem Pkg.setCtl_ptp (p : Pkg) (k : Nat) (v : Dword) : (p.setCtl k v).ptp = p.ptp := rfl
@[simp] theorem Pkg.setCtl_lanes (p : Pkg) (k : Nat) (v : Dword) : (p.setCtl k v).lanes = p.lanes := rfl
@[simp] theorem Pkg.setCtl_image (p : Pkg) (k : Nat) (v : Dword) : (p.setCtl k v).image = p.image := rfl
@[simp] theorem Pkg.setCtl_dies (p : Pkg) (k : Nat) (v : Dword) : (p.setCtl k v).dies = p.dies := rfl
@[simp] theorem Pkg.setCtl_clusters (p : Pkg) (k : Nat) (v : Dword) : (p.setCtl k v).clusters = p.clusters := rfl
@[simp] theorem Pkg.setCtl_queues (p : Pkg) (k : Nat) (v : Dword) : (p.setCtl k v).queues = p.queues := rfl
@[simp] theorem Pkg.setCtl_gangs (p : Pkg) (k : Nat) (v : Dword) : (p.setCtl k v).gangs = p.gangs := rfl
@[simp] theorem Pkg.setCtl_nextGang (p : Pkg) (k : Nat) (v : Dword) : (p.setCtl k v).nextGang = p.nextGang := rfl
@[simp] theorem Pkg.setCtl_launches (p : Pkg) (k : Nat) (v : Dword) : (p.setCtl k v).launches = p.launches := rfl
@[simp] theorem Pkg.setCtl_ends (p : Pkg) (k : Nat) (v : Dword) : (p.setCtl k v).ends = p.ends := rfl
@[simp] theorem Pkg.setCtl_net (p : Pkg) (k : Nat) (v : Dword) : (p.setCtl k v).net = p.net := rfl
@[simp] theorem Pkg.setCtl_resps (p : Pkg) (k : Nat) (v : Dword) : (p.setCtl k v).resps = p.resps := rfl
@[simp] theorem Pkg.setCtl_held (p : Pkg) (k : Nat) (v : Dword) : (p.setCtl k v).held = p.held := rfl
@[simp] theorem Pkg.setCtl_waiting (p : Pkg) (k : Nat) (v : Dword) : (p.setCtl k v).waiting = p.waiting := rfl
@[simp] theorem Pkg.setCtl_copies (p : Pkg) (k : Nat) (v : Dword) : (p.setCtl k v).copies = p.copies := rfl
@[simp] theorem Pkg.setCtl_nextCopy (p : Pkg) (k : Nat) (v : Dword) : (p.setCtl k v).nextCopy = p.nextCopy := rfl
@[simp] theorem Pkg.setCtl_streams (p : Pkg) (k : Nat) (v : Dword) : (p.setCtl k v).streams = p.streams := rfl
@[simp] theorem Pkg.setCtl_pending (p : Pkg) (k : Nat) (v : Dword) : (p.setCtl k v).pending = p.pending := rfl
@[simp] theorem Pkg.setCtl_pendMem (p : Pkg) (k : Nat) (v : Dword) : (p.setCtl k v).pendMem = p.pendMem := rfl
@[simp] theorem Pkg.setCtl_poison (p : Pkg) (k : Nat) (v : Dword) : (p.setCtl k v).poison = p.poison := rfl
@[simp] theorem Pkg.setCtl_l1bad (p : Pkg) (k : Nat) (v : Dword) : (p.setCtl k v).l1bad = p.l1bad := rfl
@[simp] theorem Pkg.setCtl_races (p : Pkg) (k : Nat) (v : Dword) : (p.setCtl k v).races = p.races := rfl
@[simp] theorem Pkg.setCtl_released (p : Pkg) (k : Nat) (v : Dword) : (p.setCtl k v).released = p.released := rfl
@[simp] theorem Pkg.setCtl_present (p : Pkg) (k : Nat) (v : Dword) : (p.setCtl k v).present = p.present := rfl
@[simp] theorem Pkg.setCtl_evac (p : Pkg) (k : Nat) (v : Dword) : (p.setCtl k v).evac = p.evac := rfl
@[simp] theorem Pkg.setCtl_retention (p : Pkg) (k : Nat) (v : Dword) : (p.setCtl k v).retention = p.retention := rfl
@[simp] theorem Pkg.setCtl_arraySince (p : Pkg) (k : Nat) (v : Dword) : (p.setCtl k v).arraySince = p.arraySince := rfl
@[simp] theorem Pkg.setCtl_emptying (p : Pkg) (k : Nat) (v : Dword) : (p.setCtl k v).emptying = p.emptying := rfl
@[simp] theorem Pkg.setCtl_configs (p : Pkg) (k : Nat) (v : Dword) : (p.setCtl k v).configs = p.configs := rfl
@[simp] theorem Pkg.setCtl_fastRefresh (p : Pkg) (k : Nat) (v : Dword) : (p.setCtl k v).fastRefresh = p.fastRefresh := rfl
@[simp] theorem Pkg.setCtl_halfRate (p : Pkg) (k : Nat) (v : Dword) : (p.setCtl k v).halfRate = p.halfRate := rfl
@[simp] theorem Pkg.setCtl_rebuilding (p : Pkg) (k : Nat) (v : Dword) : (p.setCtl k v).rebuilding = p.rebuilding := rfl
@[simp] theorem Pkg.setCtl_portsDown (p : Pkg) (k : Nat) (v : Dword) : (p.setCtl k v).portsDown = p.portsDown := rfl
@[simp] theorem Pkg.setCtl_hostWork (p : Pkg) (k : Nat) (v : Dword) : (p.setCtl k v).hostWork = p.hostWork := rfl
@[simp] theorem Pkg.setCtl_tripped (p : Pkg) (k : Nat) (v : Dword) : (p.setCtl k v).tripped = p.tripped := rfl
@[simp] theorem Pkg.setCtl_lost (p : Pkg) (k : Nat) (v : Dword) : (p.setCtl k v).lost = p.lost := rfl
@[simp] theorem Pkg.setCtl_bringUp (p : Pkg) (k : Nat) (v : Dword) : (p.setCtl k v).bringUp = p.bringUp := rfl
@[simp] theorem Pkg.setCtl_outputs (p : Pkg) (k : Nat) (v : Dword) : (p.setCtl k v).outputs = p.outputs := rfl
@[simp] theorem Pkg.setCtl_draws (p : Pkg) (k : Nat) (v : Dword) : (p.setCtl k v).draws = p.draws := rfl
@[simp] theorem Pkg.setCtl_tags (p : Pkg) (k : Nat) (v : Dword) : (p.setCtl k v).tags = p.tags := rfl

@[simp] theorem Pkg.onDie_number (p : Pkg) (d : Nat) (f : Die → Die) : (p.onDie d f).number = p.number := rfl
@[simp] theorem Pkg.onDie_domain (p : Pkg) (d : Nat) (f : Die → Die) : (p.onDie d f).domain = p.domain := rfl
@[simp] theorem Pkg.onDie_time (p : Pkg) (d : Nat) (f : Die → Die) : (p.onDie d f).time = p.time := rfl
@[simp] theorem Pkg.onDie_gtShift (p : Pkg) (d : Nat) (f : Die → Die) : (p.onDie d f).gtShift = p.gtShift := rfl
@[simp] theorem Pkg.onDie_goodSyncs (p : Pkg) (d : Nat) (f : Die → Die) : (p.onDie d f).goodSyncs = p.goodSyncs := rfl
@[simp] theorem Pkg.onDie_lastSync (p : Pkg) (d : Nat) (f : Die → Die) : (p.onDie d f).lastSync = p.lastSync := rfl
@[simp] theorem Pkg.onDie_ptp (p : Pkg) (d : Nat) (f : Die → Die) : (p.onDie d f).ptp = p.ptp := rfl
@[simp] theorem Pkg.onDie_lanes (p : Pkg) (d : Nat) (f : Die → Die) : (p.onDie d f).lanes = p.lanes := rfl
@[simp] theorem Pkg.onDie_image (p : Pkg) (d : Nat) (f : Die → Die) : (p.onDie d f).image = p.image := rfl
@[simp] theorem Pkg.onDie_regs (p : Pkg) (d : Nat) (f : Die → Die) : (p.onDie d f).regs = p.regs := rfl
@[simp] theorem Pkg.onDie_clusters (p : Pkg) (d : Nat) (f : Die → Die) : (p.onDie d f).clusters = p.clusters := rfl
@[simp] theorem Pkg.onDie_queues (p : Pkg) (d : Nat) (f : Die → Die) : (p.onDie d f).queues = p.queues := rfl
@[simp] theorem Pkg.onDie_gangs (p : Pkg) (d : Nat) (f : Die → Die) : (p.onDie d f).gangs = p.gangs := rfl
@[simp] theorem Pkg.onDie_nextGang (p : Pkg) (d : Nat) (f : Die → Die) : (p.onDie d f).nextGang = p.nextGang := rfl
@[simp] theorem Pkg.onDie_launches (p : Pkg) (d : Nat) (f : Die → Die) : (p.onDie d f).launches = p.launches := rfl
@[simp] theorem Pkg.onDie_ends (p : Pkg) (d : Nat) (f : Die → Die) : (p.onDie d f).ends = p.ends := rfl
@[simp] theorem Pkg.onDie_net (p : Pkg) (d : Nat) (f : Die → Die) : (p.onDie d f).net = p.net := rfl
@[simp] theorem Pkg.onDie_resps (p : Pkg) (d : Nat) (f : Die → Die) : (p.onDie d f).resps = p.resps := rfl
@[simp] theorem Pkg.onDie_held (p : Pkg) (d : Nat) (f : Die → Die) : (p.onDie d f).held = p.held := rfl
@[simp] theorem Pkg.onDie_waiting (p : Pkg) (d : Nat) (f : Die → Die) : (p.onDie d f).waiting = p.waiting := rfl
@[simp] theorem Pkg.onDie_copies (p : Pkg) (d : Nat) (f : Die → Die) : (p.onDie d f).copies = p.copies := rfl
@[simp] theorem Pkg.onDie_nextCopy (p : Pkg) (d : Nat) (f : Die → Die) : (p.onDie d f).nextCopy = p.nextCopy := rfl
@[simp] theorem Pkg.onDie_streams (p : Pkg) (d : Nat) (f : Die → Die) : (p.onDie d f).streams = p.streams := rfl
@[simp] theorem Pkg.onDie_pending (p : Pkg) (d : Nat) (f : Die → Die) : (p.onDie d f).pending = p.pending := rfl
@[simp] theorem Pkg.onDie_pendMem (p : Pkg) (d : Nat) (f : Die → Die) : (p.onDie d f).pendMem = p.pendMem := rfl
@[simp] theorem Pkg.onDie_poison (p : Pkg) (d : Nat) (f : Die → Die) : (p.onDie d f).poison = p.poison := rfl
@[simp] theorem Pkg.onDie_l1bad (p : Pkg) (d : Nat) (f : Die → Die) : (p.onDie d f).l1bad = p.l1bad := rfl
@[simp] theorem Pkg.onDie_races (p : Pkg) (d : Nat) (f : Die → Die) : (p.onDie d f).races = p.races := rfl
@[simp] theorem Pkg.onDie_released (p : Pkg) (d : Nat) (f : Die → Die) : (p.onDie d f).released = p.released := rfl
@[simp] theorem Pkg.onDie_present (p : Pkg) (d : Nat) (f : Die → Die) : (p.onDie d f).present = p.present := rfl
@[simp] theorem Pkg.onDie_evac (p : Pkg) (d : Nat) (f : Die → Die) : (p.onDie d f).evac = p.evac := rfl
@[simp] theorem Pkg.onDie_retention (p : Pkg) (d : Nat) (f : Die → Die) : (p.onDie d f).retention = p.retention := rfl
@[simp] theorem Pkg.onDie_arraySince (p : Pkg) (d : Nat) (f : Die → Die) : (p.onDie d f).arraySince = p.arraySince := rfl
@[simp] theorem Pkg.onDie_emptying (p : Pkg) (d : Nat) (f : Die → Die) : (p.onDie d f).emptying = p.emptying := rfl
@[simp] theorem Pkg.onDie_configs (p : Pkg) (d : Nat) (f : Die → Die) : (p.onDie d f).configs = p.configs := rfl
@[simp] theorem Pkg.onDie_fastRefresh (p : Pkg) (d : Nat) (f : Die → Die) : (p.onDie d f).fastRefresh = p.fastRefresh := rfl
@[simp] theorem Pkg.onDie_halfRate (p : Pkg) (d : Nat) (f : Die → Die) : (p.onDie d f).halfRate = p.halfRate := rfl
@[simp] theorem Pkg.onDie_rebuilding (p : Pkg) (d : Nat) (f : Die → Die) : (p.onDie d f).rebuilding = p.rebuilding := rfl
@[simp] theorem Pkg.onDie_portsDown (p : Pkg) (d : Nat) (f : Die → Die) : (p.onDie d f).portsDown = p.portsDown := rfl
@[simp] theorem Pkg.onDie_hostWork (p : Pkg) (d : Nat) (f : Die → Die) : (p.onDie d f).hostWork = p.hostWork := rfl
@[simp] theorem Pkg.onDie_tripped (p : Pkg) (d : Nat) (f : Die → Die) : (p.onDie d f).tripped = p.tripped := rfl
@[simp] theorem Pkg.onDie_lost (p : Pkg) (d : Nat) (f : Die → Die) : (p.onDie d f).lost = p.lost := rfl
@[simp] theorem Pkg.onDie_bringUp (p : Pkg) (d : Nat) (f : Die → Die) : (p.onDie d f).bringUp = p.bringUp := rfl
@[simp] theorem Pkg.onDie_outputs (p : Pkg) (d : Nat) (f : Die → Die) : (p.onDie d f).outputs = p.outputs := rfl
@[simp] theorem Pkg.onDie_draws (p : Pkg) (d : Nat) (f : Die → Die) : (p.onDie d f).draws = p.draws := rfl
@[simp] theorem Pkg.onDie_tags (p : Pkg) (d : Nat) (f : Die → Die) : (p.onDie d f).tags = p.tags := rfl

@[simp] theorem Pkg.logEvent_number (p : Pkg) (d code src a b : Nat) : (p.logEvent d code src a b).number = p.number := rfl
@[simp] theorem Pkg.logEvent_domain (p : Pkg) (d code src a b : Nat) : (p.logEvent d code src a b).domain = p.domain := rfl
@[simp] theorem Pkg.logEvent_time (p : Pkg) (d code src a b : Nat) : (p.logEvent d code src a b).time = p.time := rfl
@[simp] theorem Pkg.logEvent_gtShift (p : Pkg) (d code src a b : Nat) : (p.logEvent d code src a b).gtShift = p.gtShift := rfl
@[simp] theorem Pkg.logEvent_goodSyncs (p : Pkg) (d code src a b : Nat) : (p.logEvent d code src a b).goodSyncs = p.goodSyncs := rfl
@[simp] theorem Pkg.logEvent_lastSync (p : Pkg) (d code src a b : Nat) : (p.logEvent d code src a b).lastSync = p.lastSync := rfl
@[simp] theorem Pkg.logEvent_ptp (p : Pkg) (d code src a b : Nat) : (p.logEvent d code src a b).ptp = p.ptp := rfl
@[simp] theorem Pkg.logEvent_lanes (p : Pkg) (d code src a b : Nat) : (p.logEvent d code src a b).lanes = p.lanes := rfl
@[simp] theorem Pkg.logEvent_image (p : Pkg) (d code src a b : Nat) : (p.logEvent d code src a b).image = p.image := rfl
@[simp] theorem Pkg.logEvent_regs (p : Pkg) (d code src a b : Nat) : (p.logEvent d code src a b).regs = p.regs := rfl
@[simp] theorem Pkg.logEvent_clusters (p : Pkg) (d code src a b : Nat) : (p.logEvent d code src a b).clusters = p.clusters := rfl
@[simp] theorem Pkg.logEvent_queues (p : Pkg) (d code src a b : Nat) : (p.logEvent d code src a b).queues = p.queues := rfl
@[simp] theorem Pkg.logEvent_gangs (p : Pkg) (d code src a b : Nat) : (p.logEvent d code src a b).gangs = p.gangs := rfl
@[simp] theorem Pkg.logEvent_nextGang (p : Pkg) (d code src a b : Nat) : (p.logEvent d code src a b).nextGang = p.nextGang := rfl
@[simp] theorem Pkg.logEvent_launches (p : Pkg) (d code src a b : Nat) : (p.logEvent d code src a b).launches = p.launches := rfl
@[simp] theorem Pkg.logEvent_ends (p : Pkg) (d code src a b : Nat) : (p.logEvent d code src a b).ends = p.ends := rfl
@[simp] theorem Pkg.logEvent_net (p : Pkg) (d code src a b : Nat) : (p.logEvent d code src a b).net = p.net := rfl
@[simp] theorem Pkg.logEvent_resps (p : Pkg) (d code src a b : Nat) : (p.logEvent d code src a b).resps = p.resps := rfl
@[simp] theorem Pkg.logEvent_held (p : Pkg) (d code src a b : Nat) : (p.logEvent d code src a b).held = p.held := rfl
@[simp] theorem Pkg.logEvent_waiting (p : Pkg) (d code src a b : Nat) : (p.logEvent d code src a b).waiting = p.waiting := rfl
@[simp] theorem Pkg.logEvent_copies (p : Pkg) (d code src a b : Nat) : (p.logEvent d code src a b).copies = p.copies := rfl
@[simp] theorem Pkg.logEvent_nextCopy (p : Pkg) (d code src a b : Nat) : (p.logEvent d code src a b).nextCopy = p.nextCopy := rfl
@[simp] theorem Pkg.logEvent_streams (p : Pkg) (d code src a b : Nat) : (p.logEvent d code src a b).streams = p.streams := rfl
@[simp] theorem Pkg.logEvent_pending (p : Pkg) (d code src a b : Nat) : (p.logEvent d code src a b).pending = p.pending := rfl
@[simp] theorem Pkg.logEvent_pendMem (p : Pkg) (d code src a b : Nat) : (p.logEvent d code src a b).pendMem = p.pendMem := rfl
@[simp] theorem Pkg.logEvent_poison (p : Pkg) (d code src a b : Nat) : (p.logEvent d code src a b).poison = p.poison := rfl
@[simp] theorem Pkg.logEvent_l1bad (p : Pkg) (d code src a b : Nat) : (p.logEvent d code src a b).l1bad = p.l1bad := rfl
@[simp] theorem Pkg.logEvent_races (p : Pkg) (d code src a b : Nat) : (p.logEvent d code src a b).races = p.races := rfl
@[simp] theorem Pkg.logEvent_released (p : Pkg) (d code src a b : Nat) : (p.logEvent d code src a b).released = p.released := rfl
@[simp] theorem Pkg.logEvent_present (p : Pkg) (d code src a b : Nat) : (p.logEvent d code src a b).present = p.present := rfl
@[simp] theorem Pkg.logEvent_evac (p : Pkg) (d code src a b : Nat) : (p.logEvent d code src a b).evac = p.evac := rfl
@[simp] theorem Pkg.logEvent_retention (p : Pkg) (d code src a b : Nat) : (p.logEvent d code src a b).retention = p.retention := rfl
@[simp] theorem Pkg.logEvent_arraySince (p : Pkg) (d code src a b : Nat) : (p.logEvent d code src a b).arraySince = p.arraySince := rfl
@[simp] theorem Pkg.logEvent_emptying (p : Pkg) (d code src a b : Nat) : (p.logEvent d code src a b).emptying = p.emptying := rfl
@[simp] theorem Pkg.logEvent_configs (p : Pkg) (d code src a b : Nat) : (p.logEvent d code src a b).configs = p.configs := rfl
@[simp] theorem Pkg.logEvent_fastRefresh (p : Pkg) (d code src a b : Nat) : (p.logEvent d code src a b).fastRefresh = p.fastRefresh := rfl
@[simp] theorem Pkg.logEvent_halfRate (p : Pkg) (d code src a b : Nat) : (p.logEvent d code src a b).halfRate = p.halfRate := rfl
@[simp] theorem Pkg.logEvent_rebuilding (p : Pkg) (d code src a b : Nat) : (p.logEvent d code src a b).rebuilding = p.rebuilding := rfl
@[simp] theorem Pkg.logEvent_portsDown (p : Pkg) (d code src a b : Nat) : (p.logEvent d code src a b).portsDown = p.portsDown := rfl
@[simp] theorem Pkg.logEvent_hostWork (p : Pkg) (d code src a b : Nat) : (p.logEvent d code src a b).hostWork = p.hostWork := rfl
@[simp] theorem Pkg.logEvent_tripped (p : Pkg) (d code src a b : Nat) : (p.logEvent d code src a b).tripped = p.tripped := rfl
@[simp] theorem Pkg.logEvent_lost (p : Pkg) (d code src a b : Nat) : (p.logEvent d code src a b).lost = p.lost := rfl
@[simp] theorem Pkg.logEvent_bringUp (p : Pkg) (d code src a b : Nat) : (p.logEvent d code src a b).bringUp = p.bringUp := rfl
@[simp] theorem Pkg.logEvent_outputs (p : Pkg) (d code src a b : Nat) : (p.logEvent d code src a b).outputs = p.outputs := rfl
@[simp] theorem Pkg.logEvent_draws (p : Pkg) (d code src a b : Nat) : (p.logEvent d code src a b).draws = p.draws := rfl
@[simp] theorem Pkg.logEvent_tags (p : Pkg) (d code src a b : Nat) : (p.logEvent d code src a b).tags = p.tags := rfl

/-- A die worked on is what the function makes of it. -/
theorem Pkg.die_onDie_same (p : Pkg) (d : Nat) (f : Die → Die) (h : d < 4) : (p.onDie d f).die d = f (p.die d) := by
  simp [Pkg.die, Pkg.onDie, Vector.getD, h]

/-- A slot of a vector other than the one written reads as before. -/
theorem vector_getD_set_other {α : Type} {n : Nat} (v : Vector α n) {d k : Nat} (a b : α) (h : k ≠ d) :
    (v.setIfInBounds d a).getD k b = v.getD k b := by
  change (v.toArray.setIfInBounds d a).getD k b = v.toArray.getD k b
  rw [Array.getD_eq_getD_getElem?, Array.getD_eq_getD_getElem?, Array.getElem?_setIfInBounds_ne (Ne.symm h)]

/-- The slot of a vector that was written reads as written. -/
theorem vector_getD_set_same {α : Type} {n : Nat} (v : Vector α n) {d : Nat} (a b : α) (h : d < n) :
    (v.setIfInBounds d a).getD d b = a := by
  simp [Vector.getD, h]

/-- The other dies stay. -/
theorem Pkg.die_onDie_other (p : Pkg) {d k : Nat} (f : Die → Die) (h : k ≠ d) : (p.onDie d f).die k = p.die k :=
  vector_getD_set_other p.dies _ _ h

/-! ### Registers read after they are written -/

@[simp] theorem Hart.getX_zero (h : Hart) : h.getX 0 = 0 := rfl

/-- A register other than x0 reads as it was written. -/
theorem Hart.getX_setX_same (h : Hart) {r : BitVec 5} (v : Dword) (n : r ≠ 0) : (h.setX r v).getX r = v := by
  unfold Hart.getX Hart.setX
  rw [if_neg n, if_neg n]
  exact vector_getD_set_same h.x _ _ r.isLt

/-- A write of one register leaves the others. -/
theorem Hart.getX_setX_other (h : Hart) {r k : BitVec 5} (v : Dword) (n : k ≠ r) : (h.setX r v).getX k = h.getX k := by
  unfold Hart.getX Hart.setX
  by_cases hk : k = 0
  · rw [if_pos hk, if_pos hk]
  · by_cases hr : r = 0
    · rw [if_pos hr]
    · rw [if_neg hk, if_neg hk, if_neg hr]
      exact vector_getD_set_other h.x _ _ fun e => n (BitVec.eq_of_toNat_eq e)

/-- A write of x0 is discarded. -/
@[simp] theorem Hart.setX_zero (h : Hart) (v : Dword) : h.setX 0 v = h := rfl

end Sys2Proof.Machine
end

