-- ==== Sys2Proof/Laws/Tables.lean ====
section
/-! SUPPORT. Tables, and memory as a table of bytes: what is read after a write, and the canonical form. -/

namespace Sys2Proof.Machine

variable {α : Type}

@[simp] theorem tableGet_nil (a : Nat) : tableGet ([] : List (Nat × α)) a = none := rfl

@[simp] theorem tableGet_set_same (l : List (Nat × α)) (a : Nat) (v : α) : tableGet (tableSet l a v) a = some v := by
  induction l with
  | nil => simp [tableSet, tableGet]
  | cons e r ih =>
    obtain ⟨k, w⟩ := e
    simp only [tableSet]
    split
    · simp [tableGet]
    · split
      · simp [tableGet]
      · rename_i h; simp [tableGet, Ne.symm h, ih]

@[simp] theorem tableGet_set_other (l : List (Nat × α)) {a b : Nat} (h : b ≠ a) (v : α) :
    tableGet (tableSet l a v) b = tableGet l b := by
  induction l with
  | nil => simp [tableSet, tableGet, Ne.symm h]
  | cons e r ih =>
    obtain ⟨k, w⟩ := e
    simp only [tableSet]
    split
    · simp [tableGet, Ne.symm h]
    · split
      · rename_i e; subst e; simp [tableGet, Ne.symm h]
      · simp only [tableGet, ih]

/-- A register of the control block reads as it was written. -/
@[simp] theorem ctl_setCtl_same (p : Pkg) (o : Nat) (v : Dword) : (p.setCtl o v).ctl o = v := by
  simp [Pkg.ctl, Pkg.setCtl]

/-- A write of one register of the control block leaves the others. -/
@[simp] theorem ctl_setCtl_other (p : Pkg) {o k : Nat} (h : k ≠ o) (v : Dword) : (p.setCtl o v).ctl k = p.ctl k := by
  simp [Pkg.ctl, Pkg.setCtl, h]

/-- The keys of a table rise after an entry is set, if they rose before. -/
theorem keys_tableSet (l : List (Nat × α)) (a : Nat) (v : α) (h : (l.map (·.1)).Pairwise (· < ·)) :
    ((tableSet l a v).map (·.1)).Pairwise (· < ·) ∧ ∀ k ∈ (tableSet l a v).map (·.1), k = a ∨ k ∈ l.map (·.1) := by
  induction l with
  | nil => simp [tableSet]
  | cons e r ih =>
    obtain ⟨k, w⟩ := e
    simp only [List.map_cons, List.pairwise_cons] at h
    obtain ⟨hr, hm⟩ := ih h.2
    simp only [tableSet]
    split
    · rename_i lt
      refine ⟨?_, by simp⟩
      simp only [List.map_cons, List.pairwise_cons]
      refine ⟨fun b hb => ?_, h⟩
      rcases List.mem_cons.1 hb with rfl | hb
      · exact lt
      · exact lt.trans (h.1 b hb)
    · split
      · rename_i eq; subst eq
        exact ⟨by simpa using h, by simp⟩
      · rename_i ge ne
        refine ⟨?_, ?_⟩
        · simp only [List.map_cons, List.pairwise_cons]
          refine ⟨fun b hb => ?_, hr⟩
          rcases hm b hb with rfl | hb
          · omega
          · exact h.1 b hb
        · intro b hb
          simp only [List.map_cons, List.mem_cons] at hb ⊢
          rcases hb with rfl | hb
          · exact .inr (.inl rfl)
          · rcases hm b hb with rfl | hb
            · exact .inl rfl
            · exact .inr (.inr hb)

/-! ### Memory -/

@[simp] theorem Memory.get_nil (a : Nat) : Memory.get [] a = Memory.blank := rfl

/-- A location below every listed one reads as an unlisted one. -/
theorem Memory.get_below {m : List Host.Cell} {lo a : Nat} (h : Memory.wfFrom (some lo) m = true) (ha : a ≤ lo) :
    Memory.get m a = Memory.blank := by
  induction m generalizing lo with
  | nil => rfl
  | cons e r ih =>
    obtain ⟨k, v⟩ := e
    simp only [Memory.wfFrom, Bool.and_eq_true, decide_eq_true_eq, bne_iff_ne] at h
    have : k ≠ a := by omega
    simp [Memory.get, this, ih h.2 (by omega)]

/-- The canonical form asks nothing below a lower bound. -/
theorem Memory.wfFrom_weaken {m : List Host.Cell} {lo : Option Nat} (h : Memory.wfFrom lo m = true) :
    Memory.wf m = true := by
  cases m with
  | nil => rfl
  | cons e r => simp only [Memory.wf, Memory.wfFrom, Bool.and_eq_true] at h ⊢; exact ⟨⟨trivial, h.1.2⟩, h.2⟩

theorem Memory.wfFrom_lower {m : List Host.Cell} {lo hi : Nat} (h : Memory.wfFrom (some hi) m = true) (l : lo ≤ hi) :
    Memory.wfFrom (some lo) m = true := by
  cases m with
  | nil => rfl
  | cons e r =>
    simp only [Memory.wfFrom, Bool.and_eq_true, decide_eq_true_eq] at h ⊢
    exact ⟨⟨by omega, h.1.2⟩, h.2⟩

/-- The byte written is what is read there. -/
theorem Memory.get_set_same {m : List Host.Cell} (a : Nat) (v : Byte) (h : Memory.wf m = true) :
    Memory.get (Memory.set m a v) a = v := by
  suffices ∀ lo, Memory.wfFrom lo m = true → Memory.get (Memory.set m a v) a = v from this none h
  clear h
  induction m with
  | nil => intro lo _; simp only [Memory.set]; split <;> simp_all [Memory.get]
  | cons e r ih =>
    obtain ⟨k, w⟩ := e
    intro lo h
    simp only [Memory.wfFrom, Bool.and_eq_true] at h
    have hr : Memory.wfFrom (some k) r = true := h.2
    simp only [Memory.set]
    split
    · rename_i lt
      split
      · rename_i e; subst e
        have : k ≠ a := by omega
        simp [Memory.get, this, Memory.get_below hr (by omega : a ≤ k)]
      · simp [Memory.get]
    · split
      · rename_i eq; subst eq
        split
        · rename_i e; subst e; exact Memory.get_below hr (Nat.le_refl _)
        · simp [Memory.get]
      · rename_i ne
        simp only [Memory.get, if_neg (Ne.symm ne)]
        exact ih _ hr

/-- A write leaves every other byte. -/
theorem Memory.get_set_other {m : List Host.Cell} {a b : Nat} (n : b ≠ a) (v : Byte) :
    Memory.get (Memory.set m a v) b = Memory.get m b := by
  induction m with
  | nil => simp only [Memory.set]; split <;> simp [Memory.get, Ne.symm n]
  | cons e r ih =>
    obtain ⟨k, w⟩ := e
    simp only [Memory.set]
    split
    · split
      · rfl
      · simp [Memory.get, Ne.symm n]
    · split
      · rename_i eq; subst eq
        split <;> simp [Memory.get, Ne.symm n]
      · simp only [Memory.get, ih]

/-- A write of one byte keeps the canonical form above every bound below it. -/
theorem Memory.wfFrom_set {m : List Host.Cell} {lo : Option Nat} (a : Nat) (v : Byte) (h : Memory.wfFrom lo m = true)
    (ha : ∀ l, lo = some l → l < a) : Memory.wfFrom lo (Memory.set m a v) = true := by
  induction m generalizing lo with
  | nil =>
    simp only [Memory.set]
    split
    · rfl
    · rename_i ne
      cases lo <;> simp_all [Memory.wfFrom]
  | cons e r ih =>
    obtain ⟨k, w⟩ := e
    simp only [Memory.wfFrom, Bool.and_eq_true] at h
    obtain ⟨⟨hk, hw⟩, hr⟩ := h
    simp only [Memory.set]
    split
    · rename_i lt
      split
      · simp [Memory.wfFrom, hk, hw, hr]
      · rename_i ne
        cases lo with
        | none => simp [Memory.wfFrom, ne, lt, hw, hr]
        | some l => simp [Memory.wfFrom, ha l rfl, ne, lt, hw, hr]
    · split
      · rename_i eq; subst eq
        split
        · cases lo with
          | none => exact Memory.wfFrom_weaken hr
          | some l => exact Memory.wfFrom_lower hr (by have := ha l rfl; omega)
        · rename_i ne; simp [Memory.wfFrom, hk, ne, hr]
      · rename_i ge ne
        have : Memory.wfFrom (some k) (Memory.set r a v) = true := ih hr (by intro l hl; cases hl; omega)
        simp [Memory.wfFrom, hk, hw, this]

/-- A write of one byte keeps the canonical form. -/
theorem Memory.wf_set {m : List Host.Cell} (a : Nat) (v : Byte) (h : Memory.wf m = true) :
    Memory.wf (Memory.set m a v) = true := Memory.wfFrom_set a v h (by simp)

/-- A write of bytes keeps the canonical form. -/
theorem Memory.wf_write {m : List Host.Cell} (a : Nat) (bs : List Byte) (h : Memory.wf m = true) :
    Memory.wf (Memory.write m a bs) = true := by
  induction bs generalizing m a with
  | nil => exact h
  | cons b r ih => exact ih (a + 1) (Memory.wf_set a b h)

theorem Memory.wf_writeCells {m : List Host.Cell} (cs : List Host.Cell) (h : Memory.wf m = true) :
    Memory.wf (Memory.writeCells m cs) = true := by
  induction cs generalizing m with
  | nil => exact h
  | cons c r ih => exact ih (Memory.wf_set c.1 c.2 h)

/-- Leaving out listed bytes keeps the canonical form. -/
theorem Memory.wf_filter {m : List Host.Cell} (f : Host.Cell → Bool) (h : Memory.wf m = true) :
    Memory.wf (m.filter f) = true := by
  suffices ∀ (m : List Host.Cell) lo, Memory.wfFrom lo m = true → Memory.wfFrom lo (m.filter f) = true from this m none h
  intro m
  induction m with
  | nil => intro _ _; rfl
  | cons e r ih =>
    intro lo h
    simp only [Memory.wfFrom, Bool.and_eq_true] at h
    obtain ⟨⟨hk, hw⟩, hr⟩ := h
    rw [List.filter_cons]
    split
    · simp only [Memory.wfFrom, Bool.and_eq_true]
      exact ⟨⟨hk, hw⟩, ih _ hr⟩
    · cases lo with
      | none => exact Memory.wfFrom_weaken (ih _ hr)
      | some l => exact Memory.wfFrom_lower (ih _ hr) (by simp at hk; omega)

/-- Bytes outside those written are as they were. -/
theorem Memory.get_write_other {m : List Host.Cell} {a b : Nat} {bs : List Byte} (n : b < a ∨ a + bs.length ≤ b) :
    Memory.get (Memory.write m a bs) b = Memory.get m b := by
  induction bs generalizing m a with
  | nil => rfl
  | cons c r ih =>
    simp only [List.length_cons] at n
    rw [Memory.write, ih (by omega), Memory.get_set_other (by omega)]

/-- Bytes written are what is read there. -/
theorem Memory.get_write_same {m : List Host.Cell} {a i : Nat} {bs : List Byte} (h : Memory.wf m = true)
    (hi : i < bs.length) : Memory.get (Memory.write m a bs) (a + i) = bs.getD i 0 := by
  induction bs generalizing m a i with
  | nil => simp at hi
  | cons c r ih =>
    cases i with
    | zero => rw [Memory.write, Memory.get_write_other (by omega)]; simpa using Memory.get_set_same a c h
    | succ i =>
      rw [Memory.write, show a + (i + 1) = a + 1 + i by omega, ih (Memory.wf_set a c h) (by simpa using hi)]
      simp

/-- The bytes read after a write of them. -/
theorem Memory.read_write {m : List Host.Cell} (a : Nat) (bs : List Byte) (h : Memory.wf m = true) :
    Memory.read (Memory.write m a bs) a bs.length = bs := by
  refine List.ext_getElem (by simp [Memory.read]) fun i h1 h2 => ?_
  simp only [Memory.read, List.getElem_map, List.getElem_range]
  rw [Memory.get_write_same h h2]
  simp [List.getD, h2]

/-- Memory right after reset is in its canonical form. -/
theorem Memory.wf_reset : Memory.wf State.reset.mem = true := rfl

end Sys2Proof.Machine
end

