-- ==== Sys2Proof/Laws/Ops.lean ====
section
/-! SUPPORT. What the shared operations do, one lemma for each case: bytes at locations, waits and checks of an access,
the translation of an address, the store buffer, privilege, trap entry. -/

namespace Sys2Proof.Machine

/-! ### Numbers as bytes (R4) -/

@[simp] theorem bytesOf_length (n v : Nat) : (bytesOf n v).length = n := by simp [bytesOf]

/-- The bytes of a number, the lowest first. -/
theorem bytesOf_succ (n v : Nat) : bytesOf (n + 1) v = BitVec.ofNat 8 v :: bytesOf n (v / 256) := by
  simp only [bytesOf, List.range_succ_eq_map, List.map_cons, List.map_map, Nat.mul_zero, Nat.pow_zero, Nat.div_one]
  congr 1
  refine List.map_congr_left fun i _ => ?_
  simp only [Function.comp, Nat.div_div_eq_div_mul]
  congr 2
  rw [show 8 * (i + 1) = 8 + 8 * i by omega, Nat.pow_add]

/-- A number's bytes read back as its low bits. -/
@[simp] theorem natOf_bytesOf (n v : Nat) : natOf (bytesOf n v) = v % 2 ^ (8 * n) := by
  induction n generalizing v with
  | zero => simp [bytesOf, natOf, Nat.mod_one]
  | succ n ih =>
    rw [bytesOf_succ, natOf, ih, BitVec.toNat_ofNat, show 8 * (n + 1) = 8 + 8 * n by omega, Nat.pow_add]
    exact (Nat.mod_mul).symm

/-! ### Bytes at locations -/

/-- Bytes that were written read back. -/
theorem getBytes_putBytes (s : State) (loc : Nat) (bs : List Byte) (h : Memory.wf s.mem = true) :
    (s.putBytes loc bs).getBytes loc bs.length = bs := Memory.read_write loc bs h

/-- A write leaves every byte outside it. -/
theorem get_putBytes_other (s : State) {loc l : Nat} {bs : List Byte} (h : l < loc ∨ loc + bs.length ≤ l) :
    Memory.get (s.putBytes loc bs).mem l = Memory.get s.mem l := Memory.get_write_other h

theorem wf_putBytes (s : State) (loc : Nat) (bs : List Byte) (h : Memory.wf s.mem = true) :
    Memory.wf (s.putBytes loc bs).mem = true := Memory.wf_write loc bs h

theorem wf_clearBytes (s : State) (loc n : Nat) (h : Memory.wf s.mem = true) : Memory.wf (s.clearBytes loc n).mem = true :=
  Memory.wf_filter _ h

/-- Poison marks change no byte. -/
@[simp] theorem poisonBytes_mem (s : State) (loc n : Nat) : (s.poisonBytes loc n).mem = s.mem := rfl

/-! ### Pulls (R362) -/

/-- What keeps the hart, the core, the bytes held for copies and memory's form. -/
def Kept (s t : State) : Prop :=
  t.h = s.h ∧ t.core = s.core ∧ t.pkg.pendMem = s.pkg.pendMem ∧ (Memory.wf s.mem = true → Memory.wf t.mem = true)

theorem Kept.rfl' (s : State) : Kept s s := ⟨rfl, rfl, rfl, id⟩

theorem Kept.trans {s t u : State} (a : Kept s t) (b : Kept t u) : Kept s u :=
  ⟨b.1.trans a.1, b.2.1.trans a.2.1, b.2.2.1.trans a.2.2.1, fun w => b.2.2.2 (a.2.2.2 w)⟩

theorem Kept.foldl {α : Type} {f : State → α → State} (h : ∀ s a, Kept s (f s a)) (l : List α) (s : State) :
    Kept s (l.foldl f s) := by
  induction l generalizing s with
  | nil => exact Kept.rfl' s
  | cons a r ih => exact (h s a).trans (ih _)

theorem ueEvent_pendMem (p : Pkg) (loc : Nat) : (p.ueEvent loc).pendMem = p.pendMem := rfl

theorem kept_putBytes (s : State) (loc : Nat) (bs : List Byte) : Kept s (s.putBytes loc bs) :=
  ⟨rfl, rfl, rfl, wf_putBytes s loc bs⟩

theorem kept_pkg (s : State) {p : Pkg} (h : p.pendMem = s.pkg.pendMem) : Kept s { s with pkg := p } := ⟨rfl, rfl, h, id⟩

theorem kept_poisonBytes (s : State) (loc n : Nat) : Kept s (s.poisonBytes loc n) := kept_pkg s rfl

theorem linePresent_pendMem (p : Pkg) (n line : Nat) : (p.linePresent n line).pendMem = p.pendMem := by
  unfold Pkg.linePresent
  dsimp only
  split <;> rfl

theorem kept_putLine (s : State) (dst src : Nat) (keyed : Bool) (data : List Byte) : Kept s (s.putLine dst src keyed data) := by
  unfold State.putLine
  split
  · exact kept_putBytes s dst data
  · exact ((kept_putBytes s dst data).trans (Kept.foldl (fun s b => kept_poisonBytes s _ _) _ _)).trans
      (kept_pkg _ (ueEvent_pendMem _ _))

/-- A pull of one line. -/
theorem kept_pullLine (s : State) (n line : Nat) : Kept s (s.pullLine n line) := by
  unfold State.pullLine
  extract_lets
  split
  · exact Kept.rfl' s
  · split
    · exact (kept_poisonBytes _ _ _).trans (kept_pkg _ (Pkg.setCtl_pendMem _ _ _))
    · exact (kept_putLine _ _ _ _ _).trans (kept_pkg _ (linePresent_pendMem _ _ _))

/-- The pulls that an access to a location makes. -/
theorem kept_pulledBy (s : State) (loc fuel : Nat) : Kept s (s.pulledBy loc fuel) := by
  induction fuel generalizing s loc with
  | zero => exact Kept.rfl' s
  | succ fuel ih =>
    simp only [State.pulledBy]
    split
    · exact Kept.rfl' s
    · split
      · exact ((ih _ _).trans (ih _ _)).trans (kept_pullLine _ _ _)
      · exact kept_pullLine _ _ _

theorem kept_pulled (s : State) (loc : Nat) : Kept s (s.pulled loc) := by
  unfold State.pulled
  split
  · exact kept_pulledBy _ _ _
  · exact Kept.rfl' s

theorem kept_pulledLines (s : State) (loc n : Nat) : Kept s (s.pulledLines loc n) := by
  unfold State.pulledLines
  split
  · exact Kept.foldl (fun s i => kept_pulled s _) _ _
  · exact Kept.rfl' s

/-- Where no migration entry pulls lines, an access brings none. -/
theorem pulled_of_noPulls {s : State} (h : s.noPulls) (loc : Nat) : s.pulled loc = s := by
  unfold State.pulled
  rw [show s.pkg.migrating = false from h]
  rfl

theorem kept_clearBytes (s : State) (loc n : Nat) : Kept s (s.clearBytes loc n) := ⟨rfl, rfl, rfl, wf_clearBytes s loc n⟩

/-- Writing to physical addresses changes memory, poison and what pulls change, and keeps memory's form. -/
theorem putPhys_frame {s t : State} {pa : Nat} {bs : List (List Byte)} (h : s.putPhys pa bs = some t) :
    Kept s t := by
  induction bs generalizing s pa with
  | nil => cases h; exact Kept.rfl' _
  | cons b r ih =>
    simp only [State.putPhys] at h
    split at h
    · cases h
    · exact ((kept_pulled s _).trans (kept_putBytes _ _ _)).trans (ih h)

theorem putDwords_frame {s t : State} {pa : Nat} {ds : List Dword} (h : s.putDwords pa ds = some t) : Kept s t :=
  putPhys_frame h

theorem clearPages_frame {s t : State} {pa n : Nat} (h : s.clearPages pa n = some t) : Kept s t := by
  induction n generalizing s pa with
  | zero => cases h; exact Kept.rfl' _
  | succ n ih =>
    simp only [State.clearPages] at h
    split at h
    · cases h
    · exact ((kept_pulledLines s _ _).trans (kept_clearBytes _ _ _)).trans (ih h)

/-- Bytes moved with their poison and what releases left at them, after the pulls of their lines. -/
theorem kept_moveBytes (s : State) (src dst n : Nat) : Kept s (s.moveBytes src dst n) := by
  unfold State.moveBytes
  exact (((((kept_pulledLines s src n).trans (kept_pulledLines _ dst n)).trans (kept_putBytes _ _ _)).trans
    (kept_pkg _ rfl)).trans (Kept.foldl (fun s u => kept_poisonBytes s _ _) _ _))

/-! ### Waits and checks of an access -/

theorem awaitHome_free {s : State} {loc n : Nat} (h : s.pkg.held? loc n = false) :
    Ends (awaitHome loc n) s () (s.pulled loc) := by
  simp [Ends, awaitHome, h]

theorem awaitHome_held {s : State} {loc n : Nat} (h : s.pkg.held? loc n = true) :
    awaitHome loc n s = .error (.again { s with pkg := s.pkg.wake loc }) := by
  simp [awaitHome, h]

theorem checkPoison_clean {s : State} {loc n : Nat} (h : s.pkg.poisoned loc n = false) (v : Dword) :
    Ends (checkPoison loc n v) s () s := by
  simp [Ends, checkPoison, h]

/-- R396: a poisoned unit that is read makes a UE event and traps. -/
theorem checkPoison_poisoned {s : State} {loc n : Nat} (h : s.pkg.poisoned loc n = true) (v : Dword) :
    Traps (checkPoison loc n v) s { cause := causeUncorrectable, value := v } { s with pkg := s.pkg.ueEvent loc } := by
  simp [Traps, checkPoison, h, trapOf]

/-- An access outside the pages of the race check is not checked. -/
theorem checkRace_unmarked {s : State} {t : Target} (h : t.race = false) (c : List (Nat × Nat)) (v : Dword) :
    Ends (checkRace t c v) s () s := by
  simp [Ends, checkRace, h]

theorem awaitVdq_empty {s : State} (h : s.h.vdq = []) : Ends awaitVdq s () s := by
  simp [Ends, awaitVdq, h]

theorem awaitBuffer_empty {s : State} (h : s.h.sb = []) (p : s.h.placing = false) : Ends awaitBuffer s () s := by
  simp [Ends, awaitBuffer, h, p]

/-- An empty VDQ holds no accst or accsave. -/
theorem placing_of_empty {h : Hart} (e : h.vdq = []) : h.placing = false := by simp [Hart.placing, e]

/-- R374: an instruction at or above its minimum privilege goes on; below it, PRIV. -/
theorem needPriv_held {s : State} {p : Priv} (h : p.code ≤ s.h.priv.code) (w : Nat) : Ends (needPriv p w) s () s := by
  simp [Ends, needPriv, Nat.not_lt.mpr h]

theorem needPriv_below {s : State} {p : Priv} (h : s.h.priv.code < p.code) (w : Nat) :
    Traps (needPriv p w) s { cause := causePriv, value := BitVec.ofNat 64 w } s := by
  simp [Traps, needPriv, h]

/-- R38: accumulators that are the hart's own. -/
theorem needAcc_own {s : State} (e : bit s.core.accen 0 = true) (o : bit s.core.accown 16 = true)
    (c : bits s.core.accown 0 16 = bits s.h.ctxid 0 16) : Ends needAcc s () s := by
  simp [Ends, needAcc, State.accMine, e, o, c]

/-- R218: a store enters the buffer where there is room, and waits where there is none; it waits for the entries of an
older accst or accsave (R221). -/
theorem queueStore_room {s : State} (h : s.h.sb.length < 32) (p : s.h.placing = false) (va : Dword) (n : Nat) (d : Dword) (k : StoreKind) :
    Ends (queueStore va n d k) s () (s.pushStore va n d k) := by
  simp only [Ends, queueStore, run_get_bind, h, p, decide_true]
  rfl

theorem queueStore_full {s : State} (h : 32 ≤ s.h.sb.length) (va : Dword) (n : Nat) (d : Dword) (k : StoreKind) :
    queueStore va n d k s = .error .wait := by
  simp [queueStore, run_await, run_bind, Nat.not_lt.mpr h]

/-! ### Translation -/

theorem pullWalk_of_noPulls {s : State} (h : s.noPulls) (die : Nat) (w : Who) (va : Nat) : s.pullWalk die w va = s := by
  unfold State.pullWalk
  rw [show s.pkg.migrating = false from h]
  rfl

/-- Looking up a translation fills TLBs and the walk cache, may log a poisoned table, and changes nothing else where no
page migrates. -/
theorem lookup_frame {s : State} (q : s.noPulls) (w : Who) (va : Nat) :
    (s.lookup w va).2.h = s.h ∧ (s.lookup w va).2.mem = s.mem ∧
      (s.lookup w va).2 = { s with core := { s.core with tlb := (s.lookup w va).2.core.tlb },
                                   pkg := { s.pkg with clusters := (s.lookup w va).2.pkg.clusters,
                                                       dies := (s.lookup w va).2.pkg.dies } } := by
  unfold State.lookup
  simp only [pullWalk_of_noPulls q]
  split
  · exact ⟨rfl, rfl, rfl⟩
  · split
    · exact ⟨rfl, rfl, rfl⟩
    · split <;> exact ⟨rfl, rfl, rfl⟩

theorem translate_frame (s : State) (w : Who) (k : Want) (va : Nat) :
    (s.translate w k va).2 = s ∨ (s.translate w k va).2 = (s.lookup w va).2 := by
  unfold State.translate
  split
  · exact .inl rfl
  · dsimp only
    split
    · exact .inr rfl
    · split
      · exact .inr rfl
      · exact .inr rfl

/-- Waits one after the other leave the state as it was. -/
theorem forM_await {α : Type} {f : α → State → Bool} (l : List α) {s t : State}
    (h : Ends (l.forM fun a => do await (f a s)) s () t) : t = s := by
  induction l with
  | nil => cases h; rfl
  | cons a r ih =>
    change ((await (f a s)) >>= fun _ => r.forM fun a => await (f a s)) s = .ok ((), t) at h
    cases c : f a s with
    | false => rw [c] at h; cases h
    | true => rw [c] at h; exact ih h

theorem awaitWalk_ends {s t : State} {w : Who} {va : Nat} (h : Ends (awaitWalk w va) s () t) : t = s := by
  simp only [Ends, awaitWalk, run_get_bind] at h
  split at h
  · exact forM_await (f := fun l s => !(s.pkg.pendingAt l || inRows s.pkg.rebuilding l)) _ h
  · cases h; rfl

/-- A resolved address outside the scratchpad windows leaves the hart and memory as they were, where no page migrates. -/
theorem resolve_outside {s u : State} (q : s.noPulls) {w : Who} {k : Want} {f va : Nat} {v : Dword} {t : Target}
    (o : windowOf s.h (s.gang? s.h.gang) va = .outside) (h : Ends (resolve w k f v va) s t u) :
    u.h = s.h ∧ u.mem = s.mem ∧ t.spot = none := by
  have e : u = (s.translate w k va).2 ∧ t.spot = none := by
    simp only [Ends, resolve, run_get_bind, o] at h
    obtain ⟨⟨⟩, s', a, h⟩ := ends_of_bind h
    rw [awaitWalk_ends a] at h
    simp only [Ends, run_set_bind] at h
    generalize s.translate w k va = y at h ⊢
    obtain ⟨r, z⟩ := y
    cases r with
    | error d => cases h
    | ok q =>
      obtain ⟨pa, e⟩ := q
      dsimp only at h
      cases c : z.pkg.place pa with
      | nowhere => rw [c] at h; cases h
      | queue _ _ => rw [c] at h; cases h
      | host l => rw [c] at h; cases h; exact ⟨rfl, rfl⟩
      | dram l n => rw [c] at h; cases h; exact ⟨rfl, rfl⟩
      | remote l package =>
        rw [c] at h
        dsimp only at h
        cases p : z.pkg.route (dieOfCore z.core.id) package with
        | none => rw [p] at h; cases h
        | some port =>
          rw [p] at h
          dsimp only at h
          cases a : z.pkg.portAdmits port w.tid with
          | false => rw [a] at h; cases h
          | true => rw [a] at h; cases h; exact ⟨rfl, rfl⟩
  obtain ⟨rfl, n⟩ := e
  rcases translate_frame s w k va with x | x <;> rw [x]
  · exact ⟨rfl, rfl, n⟩
  · exact ⟨(lookup_frame q w va).1, (lookup_frame q w va).2.1, n⟩

/-! ### Trap entry (R378) -/

/-- Below machine privilege an entry writes the frame and then the registers. -/
theorem takeTrap_enters {s t : State} {k : Trap} (p : s.h.priv ≠ .machine) (w : s.entryWaits = false)
    (f : s.putDwords (s.frameAt (s.h.priv != .user)) s.h.frame = some t) :
    let h := s.h.enter k (k.slice.or s.h.restart) s.csaVa (s.trapReg (if s.h.priv != .user then 1 else 0))
    takeTrap k s = .next { t with h := h } := by
  unfold takeTrap
  rw [if_neg p, w, if_neg Bool.false_ne_true]
  dsimp only
  rw [f]

/-- At machine privilege an entry is a double trap. -/
theorem takeTrap_machine {s : State} (p : s.h.priv = .machine) (k : Trap) : takeTrap k s = doubleTrap k s := by
  unfold takeTrap
  rw [if_pos p]

@[simp] theorem enter_priv (h : Hart) (t : Trap) (r : Option Nat) (x pc : Dword) :
    (h.enter t r x pc).priv = if h.priv = .user then .supervisor else .machine := rfl

@[simp] theorem enter_ecause (h : Hart) (t : Trap) (r : Option Nat) (x pc : Dword) :
    (h.enter t r x pc).ecause = BitVec.ofNat 64 t.cause := rfl

@[simp] theorem enter_eval (h : Hart) (t : Trap) (r : Option Nat) (x pc : Dword) : (h.enter t r x pc).eval = t.value := rfl

@[simp] theorem enter_epc (h : Hart) (t : Trap) (r : Option Nat) (x pc : Dword) :
    (h.enter t r x pc).epc = setBits (t.epc.getD h.pc) 0 2 0 := rfl

@[simp] theorem enter_pc (h : Hart) (t : Trap) (r : Option Nat) (x pc : Dword) :
    (h.enter t r x pc).pc = setBits pc 0 2 0 := rfl

end Sys2Proof.Machine
end

