-- ==== Sys2Proof/Laws/PerInstr.lean ====
section
/-! SUPPORT. Statements made for every instruction, one lemma per constructor: the words of an instruction are words of
32 bits. -/

namespace Sys2Proof.Laws

/-- A field's place is below the place's end. -/
theorem place_le {n : Nat} (x : BitVec n) (lo : Nat) : place x lo ≤ (2 ^ n - 1) * 2 ^ lo :=
  Nat.mul_le_mul_right _ (Nat.le_sub_one_of_lt x.isLt)

section Bounds

variable {n1 n2 n3 n4 n5 n6 : Nat} {m l1 l2 l3 l4 l5 l6 k : Nat} (x1 : BitVec n1) (x2 : BitVec n2) (x3 : BitVec n3)
  (x4 : BitVec n4) (x5 : BitVec n5) (x6 : BitVec n6)

theorem enc1_le (h : m + (2 ^ n1 - 1) * 2 ^ l1 ≤ k) : enc1 m x1 l1 ≤ k :=
  le_trans (Nat.add_le_add_left (place_le x1 l1) m) h

theorem enc2_le (h : m + (2 ^ n1 - 1) * 2 ^ l1 + (2 ^ n2 - 1) * 2 ^ l2 ≤ k) :
    enc2 m x1 l1 x2 l2 ≤ k :=
  le_trans (Nat.add_le_add (enc1_le x1 le_rfl) (place_le x2 l2)) h

theorem enc3_le (h : m + (2 ^ n1 - 1) * 2 ^ l1 + (2 ^ n2 - 1) * 2 ^ l2 + (2 ^ n3 - 1) * 2 ^ l3 ≤ k) :
    enc3 m x1 l1 x2 l2 x3 l3 ≤ k :=
  le_trans (Nat.add_le_add (enc2_le x1 x2 le_rfl) (place_le x3 l3)) h

theorem enc4_le (h : m + (2 ^ n1 - 1) * 2 ^ l1 + (2 ^ n2 - 1) * 2 ^ l2 + (2 ^ n3 - 1) * 2 ^ l3 + (2 ^ n4 - 1) * 2 ^ l4 ≤ k) :
    enc4 m x1 l1 x2 l2 x3 l3 x4 l4 ≤ k :=
  le_trans (Nat.add_le_add (enc3_le x1 x2 x3 le_rfl) (place_le x4 l4)) h

theorem enc5_le (h : m + (2 ^ n1 - 1) * 2 ^ l1 + (2 ^ n2 - 1) * 2 ^ l2 + (2 ^ n3 - 1) * 2 ^ l3 + (2 ^ n4 - 1) * 2 ^ l4 + (2 ^ n5 - 1) * 2 ^ l5 ≤ k) :
    enc5 m x1 l1 x2 l2 x3 l3 x4 l4 x5 l5 ≤ k :=
  le_trans (Nat.add_le_add (enc4_le x1 x2 x3 x4 le_rfl) (place_le x5 l5)) h

theorem enc6_le (h : m + (2 ^ n1 - 1) * 2 ^ l1 + (2 ^ n2 - 1) * 2 ^ l2 + (2 ^ n3 - 1) * 2 ^ l3 + (2 ^ n4 - 1) * 2 ^ l4 + (2 ^ n5 - 1) * 2 ^ l5 + (2 ^ n6 - 1) * 2 ^ l6 ≤ k) :
    enc6 m x1 l1 x2 l2 x3 l3 x4 l4 x5 l5 x6 l6 ≤ k :=
  le_trans (Nat.add_le_add (enc5_le x1 x2 x3 x4 x5 le_rfl) (place_le x6 l6)) h

end Bounds

/-- The first word fits in 32 bits, and the second word, where there is one, does too. -/
def Fits.Statement (i : Instr) : Prop := encodeWord i < 2 ^ 32 ∧ ∀ v ∈ secondWord i, v < 2 ^ 32

theorem fits_short {i : Instr} {w : Nat} (e : encodeWord i = w) (h : w ≤ 2 ^ 32 - 1) (n : secondWord i = none) :
    Fits.Statement i :=
  ⟨by omega, fun v hv => by rw [n] at hv; cases hv⟩

theorem fits_event {i : Instr} (e : encodeWord i = 0) (n : secondWord i = none) : Fits.Statement i :=
  fits_short e (by decide) n

theorem fits_long {i : Instr} {w : Nat} {x : BitVec 32} (e : encodeWord i = w) (h : w ≤ 2 ^ 32 - 1)
    (n : secondWord i = some x.toNat) : Fits.Statement i :=
  ⟨by omega, fun v hv => by rw [n] at hv; cases hv; exact x.isLt⟩


theorem Fits.add (y0 : BitVec 5) (y1 : BitVec 5) (y2 : BitVec 5) : Fits.Statement (.add y0 y1 y2) :=
  fits_short rfl (enc3_le y0 y1 y2 (by decide)) rfl
theorem Fits.sub (y0 : BitVec 5) (y1 : BitVec 5) (y2 : BitVec 5) : Fits.Statement (.sub y0 y1 y2) :=
  fits_short rfl (enc3_le y0 y1 y2 (by decide)) rfl
theorem Fits.and (y0 : BitVec 5) (y1 : BitVec 5) (y2 : BitVec 5) : Fits.Statement (.and y0 y1 y2) :=
  fits_short rfl (enc3_le y0 y1 y2 (by decide)) rfl
theorem Fits.or (y0 : BitVec 5) (y1 : BitVec 5) (y2 : BitVec 5) : Fits.Statement (.or y0 y1 y2) :=
  fits_short rfl (enc3_le y0 y1 y2 (by decide)) rfl
theorem Fits.xor (y0 : BitVec 5) (y1 : BitVec 5) (y2 : BitVec 5) : Fits.Statement (.xor y0 y1 y2) :=
  fits_short rfl (enc3_le y0 y1 y2 (by decide)) rfl
theorem Fits.andn (y0 : BitVec 5) (y1 : BitVec 5) (y2 : BitVec 5) : Fits.Statement (.andn y0 y1 y2) :=
  fits_short rfl (enc3_le y0 y1 y2 (by decide)) rfl
theorem Fits.orn (y0 : BitVec 5) (y1 : BitVec 5) (y2 : BitVec 5) : Fits.Statement (.orn y0 y1 y2) :=
  fits_short rfl (enc3_le y0 y1 y2 (by decide)) rfl
theorem Fits.xnor (y0 : BitVec 5) (y1 : BitVec 5) (y2 : BitVec 5) : Fits.Statement (.xnor y0 y1 y2) :=
  fits_short rfl (enc3_le y0 y1 y2 (by decide)) rfl
theorem Fits.sll (y0 : BitVec 5) (y1 : BitVec 5) (y2 : BitVec 5) : Fits.Statement (.sll y0 y1 y2) :=
  fits_short rfl (enc3_le y0 y1 y2 (by decide)) rfl
theorem Fits.srl (y0 : BitVec 5) (y1 : BitVec 5) (y2 : BitVec 5) : Fits.Statement (.srl y0 y1 y2) :=
  fits_short rfl (enc3_le y0 y1 y2 (by decide)) rfl
theorem Fits.sra (y0 : BitVec 5) (y1 : BitVec 5) (y2 : BitVec 5) : Fits.Statement (.sra y0 y1 y2) :=
  fits_short rfl (enc3_le y0 y1 y2 (by decide)) rfl
theorem Fits.rol (y0 : BitVec 5) (y1 : BitVec 5) (y2 : BitVec 5) : Fits.Statement (.rol y0 y1 y2) :=
  fits_short rfl (enc3_le y0 y1 y2 (by decide)) rfl
theorem Fits.ror (y0 : BitVec 5) (y1 : BitVec 5) (y2 : BitVec 5) : Fits.Statement (.ror y0 y1 y2) :=
  fits_short rfl (enc3_le y0 y1 y2 (by decide)) rfl
theorem Fits.slt (y0 : BitVec 5) (y1 : BitVec 5) (y2 : BitVec 5) : Fits.Statement (.slt y0 y1 y2) :=
  fits_short rfl (enc3_le y0 y1 y2 (by decide)) rfl
theorem Fits.sltn (y0 : BitVec 5) (y1 : BitVec 5) (y2 : BitVec 5) : Fits.Statement (.sltn y0 y1 y2) :=
  fits_short rfl (enc3_le y0 y1 y2 (by decide)) rfl
theorem Fits.seq (y0 : BitVec 5) (y1 : BitVec 5) (y2 : BitVec 5) : Fits.Statement (.seq y0 y1 y2) :=
  fits_short rfl (enc3_le y0 y1 y2 (by decide)) rfl
theorem Fits.sne (y0 : BitVec 5) (y1 : BitVec 5) (y2 : BitVec 5) : Fits.Statement (.sne y0 y1 y2) :=
  fits_short rfl (enc3_le y0 y1 y2 (by decide)) rfl
theorem Fits.min (y0 : BitVec 5) (y1 : BitVec 5) (y2 : BitVec 5) : Fits.Statement (.min y0 y1 y2) :=
  fits_short rfl (enc3_le y0 y1 y2 (by decide)) rfl
theorem Fits.max (y0 : BitVec 5) (y1 : BitVec 5) (y2 : BitVec 5) : Fits.Statement (.max y0 y1 y2) :=
  fits_short rfl (enc3_le y0 y1 y2 (by decide)) rfl
theorem Fits.minn (y0 : BitVec 5) (y1 : BitVec 5) (y2 : BitVec 5) : Fits.Statement (.minn y0 y1 y2) :=
  fits_short rfl (enc3_le y0 y1 y2 (by decide)) rfl
theorem Fits.maxn (y0 : BitVec 5) (y1 : BitVec 5) (y2 : BitVec 5) : Fits.Statement (.maxn y0 y1 y2) :=
  fits_short rfl (enc3_le y0 y1 y2 (by decide)) rfl
theorem Fits.clz (y0 : BitVec 5) (y1 : BitVec 5) : Fits.Statement (.clz y0 y1) :=
  fits_short rfl (enc2_le y0 y1 (by decide)) rfl
theorem Fits.ctz (y0 : BitVec 5) (y1 : BitVec 5) : Fits.Statement (.ctz y0 y1) :=
  fits_short rfl (enc2_le y0 y1 (by decide)) rfl
theorem Fits.popc (y0 : BitVec 5) (y1 : BitVec 5) : Fits.Statement (.popc y0 y1) :=
  fits_short rfl (enc2_le y0 y1 (by decide)) rfl
theorem Fits.bswap (y0 : BitVec 5) (y1 : BitVec 5) : Fits.Statement (.bswap y0 y1) :=
  fits_short rfl (enc2_le y0 y1 (by decide)) rfl
theorem Fits.sextB (y0 : BitVec 5) (y1 : BitVec 5) : Fits.Statement (.sextB y0 y1) :=
  fits_short rfl (enc2_le y0 y1 (by decide)) rfl
theorem Fits.sextH (y0 : BitVec 5) (y1 : BitVec 5) : Fits.Statement (.sextH y0 y1) :=
  fits_short rfl (enc2_le y0 y1 (by decide)) rfl
theorem Fits.sextW (y0 : BitVec 5) (y1 : BitVec 5) : Fits.Statement (.sextW y0 y1) :=
  fits_short rfl (enc2_le y0 y1 (by decide)) rfl
theorem Fits.zextW (y0 : BitVec 5) (y1 : BitVec 5) : Fits.Statement (.zextW y0 y1) :=
  fits_short rfl (enc2_le y0 y1 (by decide)) rfl
theorem Fits.addw (y0 : BitVec 5) (y1 : BitVec 5) (y2 : BitVec 5) : Fits.Statement (.addw y0 y1 y2) :=
  fits_short rfl (enc3_le y0 y1 y2 (by decide)) rfl
theorem Fits.subw (y0 : BitVec 5) (y1 : BitVec 5) (y2 : BitVec 5) : Fits.Statement (.subw y0 y1 y2) :=
  fits_short rfl (enc3_le y0 y1 y2 (by decide)) rfl
theorem Fits.sllw (y0 : BitVec 5) (y1 : BitVec 5) (y2 : BitVec 5) : Fits.Statement (.sllw y0 y1 y2) :=
  fits_short rfl (enc3_le y0 y1 y2 (by decide)) rfl
theorem Fits.srlw (y0 : BitVec 5) (y1 : BitVec 5) (y2 : BitVec 5) : Fits.Statement (.srlw y0 y1 y2) :=
  fits_short rfl (enc3_le y0 y1 y2 (by decide)) rfl
theorem Fits.sraw (y0 : BitVec 5) (y1 : BitVec 5) (y2 : BitVec 5) : Fits.Statement (.sraw y0 y1 y2) :=
  fits_short rfl (enc3_le y0 y1 y2 (by decide)) rfl
theorem Fits.addi (y0 : BitVec 5) (y1 : BitVec 5) (y2 : BitVec 16) : Fits.Statement (.addi y0 y1 y2) :=
  fits_short rfl (enc3_le y0 y1 y2 (by decide)) rfl
theorem Fits.andi (y0 : BitVec 5) (y1 : BitVec 5) (y2 : BitVec 16) : Fits.Statement (.andi y0 y1 y2) :=
  fits_short rfl (enc3_le y0 y1 y2 (by decide)) rfl
theorem Fits.ori (y0 : BitVec 5) (y1 : BitVec 5) (y2 : BitVec 16) : Fits.Statement (.ori y0 y1 y2) :=
  fits_short rfl (enc3_le y0 y1 y2 (by decide)) rfl
theorem Fits.xori (y0 : BitVec 5) (y1 : BitVec 5) (y2 : BitVec 16) : Fits.Statement (.xori y0 y1 y2) :=
  fits_short rfl (enc3_le y0 y1 y2 (by decide)) rfl
theorem Fits.slti (y0 : BitVec 5) (y1 : BitVec 5) (y2 : BitVec 16) : Fits.Statement (.slti y0 y1 y2) :=
  fits_short rfl (enc3_le y0 y1 y2 (by decide)) rfl
theorem Fits.sltni (y0 : BitVec 5) (y1 : BitVec 5) (y2 : BitVec 16) : Fits.Statement (.sltni y0 y1 y2) :=
  fits_short rfl (enc3_le y0 y1 y2 (by decide)) rfl
theorem Fits.lui (y0 : BitVec 5) (y1 : BitVec 16) : Fits.Statement (.lui y0 y1) :=
  fits_short rfl (enc2_le y0 y1 (by decide)) rfl
theorem Fits.slli (y0 : BitVec 5) (y1 : BitVec 5) (y2 : BitVec 6) : Fits.Statement (.slli y0 y1 y2) :=
  fits_short rfl (enc3_le y0 y1 y2 (by decide)) rfl
theorem Fits.srli (y0 : BitVec 5) (y1 : BitVec 5) (y2 : BitVec 6) : Fits.Statement (.srli y0 y1 y2) :=
  fits_short rfl (enc3_le y0 y1 y2 (by decide)) rfl
theorem Fits.srai (y0 : BitVec 5) (y1 : BitVec 5) (y2 : BitVec 6) : Fits.Statement (.srai y0 y1 y2) :=
  fits_short rfl (enc3_le y0 y1 y2 (by decide)) rfl
theorem Fits.rori (y0 : BitVec 5) (y1 : BitVec 5) (y2 : BitVec 6) : Fits.Statement (.rori y0 y1 y2) :=
  fits_short rfl (enc3_le y0 y1 y2 (by decide)) rfl
theorem Fits.slliw (y0 : BitVec 5) (y1 : BitVec 5) (y2 : BitVec 5) : Fits.Statement (.slliw y0 y1 y2) :=
  fits_short rfl (enc3_le y0 y1 y2 (by decide)) rfl
theorem Fits.srliw (y0 : BitVec 5) (y1 : BitVec 5) (y2 : BitVec 5) : Fits.Statement (.srliw y0 y1 y2) :=
  fits_short rfl (enc3_le y0 y1 y2 (by decide)) rfl
theorem Fits.sraiw (y0 : BitVec 5) (y1 : BitVec 5) (y2 : BitVec 5) : Fits.Statement (.sraiw y0 y1 y2) :=
  fits_short rfl (enc3_le y0 y1 y2 (by decide)) rfl
theorem Fits.mul (y0 : BitVec 5) (y1 : BitVec 5) (y2 : BitVec 5) : Fits.Statement (.mul y0 y1 y2) :=
  fits_short rfl (enc3_le y0 y1 y2 (by decide)) rfl
theorem Fits.mulh (y0 : BitVec 5) (y1 : BitVec 5) (y2 : BitVec 5) : Fits.Statement (.mulh y0 y1 y2) :=
  fits_short rfl (enc3_le y0 y1 y2 (by decide)) rfl
theorem Fits.mulhn (y0 : BitVec 5) (y1 : BitVec 5) (y2 : BitVec 5) : Fits.Statement (.mulhn y0 y1 y2) :=
  fits_short rfl (enc3_le y0 y1 y2 (by decide)) rfl
theorem Fits.mulhsn (y0 : BitVec 5) (y1 : BitVec 5) (y2 : BitVec 5) : Fits.Statement (.mulhsn y0 y1 y2) :=
  fits_short rfl (enc3_le y0 y1 y2 (by decide)) rfl
theorem Fits.div (y0 : BitVec 5) (y1 : BitVec 5) (y2 : BitVec 5) : Fits.Statement (.div y0 y1 y2) :=
  fits_short rfl (enc3_le y0 y1 y2 (by decide)) rfl
theorem Fits.divn (y0 : BitVec 5) (y1 : BitVec 5) (y2 : BitVec 5) : Fits.Statement (.divn y0 y1 y2) :=
  fits_short rfl (enc3_le y0 y1 y2 (by decide)) rfl
theorem Fits.rem (y0 : BitVec 5) (y1 : BitVec 5) (y2 : BitVec 5) : Fits.Statement (.rem y0 y1 y2) :=
  fits_short rfl (enc3_le y0 y1 y2 (by decide)) rfl
theorem Fits.remn (y0 : BitVec 5) (y1 : BitVec 5) (y2 : BitVec 5) : Fits.Statement (.remn y0 y1 y2) :=
  fits_short rfl (enc3_le y0 y1 y2 (by decide)) rfl
theorem Fits.mulw (y0 : BitVec 5) (y1 : BitVec 5) (y2 : BitVec 5) : Fits.Statement (.mulw y0 y1 y2) :=
  fits_short rfl (enc3_le y0 y1 y2 (by decide)) rfl
theorem Fits.divw (y0 : BitVec 5) (y1 : BitVec 5) (y2 : BitVec 5) : Fits.Statement (.divw y0 y1 y2) :=
  fits_short rfl (enc3_le y0 y1 y2 (by decide)) rfl
theorem Fits.divnw (y0 : BitVec 5) (y1 : BitVec 5) (y2 : BitVec 5) : Fits.Statement (.divnw y0 y1 y2) :=
  fits_short rfl (enc3_le y0 y1 y2 (by decide)) rfl
theorem Fits.remw (y0 : BitVec 5) (y1 : BitVec 5) (y2 : BitVec 5) : Fits.Statement (.remw y0 y1 y2) :=
  fits_short rfl (enc3_le y0 y1 y2 (by decide)) rfl
theorem Fits.remnw (y0 : BitVec 5) (y1 : BitVec 5) (y2 : BitVec 5) : Fits.Statement (.remnw y0 y1 y2) :=
  fits_short rfl (enc3_le y0 y1 y2 (by decide)) rfl
theorem Fits.fadd (y0 : BitVec 5) (y1 : BitVec 5) (y2 : BitVec 5) (y3 : BitVec 1) : Fits.Statement (.fadd y0 y1 y2 y3) :=
  fits_short rfl (enc4_le y0 y1 y2 y3 (by decide)) rfl
theorem Fits.fsub (y0 : BitVec 5) (y1 : BitVec 5) (y2 : BitVec 5) (y3 : BitVec 1) : Fits.Statement (.fsub y0 y1 y2 y3) :=
  fits_short rfl (enc4_le y0 y1 y2 y3 (by decide)) rfl
theorem Fits.fmul (y0 : BitVec 5) (y1 : BitVec 5) (y2 : BitVec 5) (y3 : BitVec 1) : Fits.Statement (.fmul y0 y1 y2 y3) :=
  fits_short rfl (enc4_le y0 y1 y2 y3 (by decide)) rfl
theorem Fits.fdiv (y0 : BitVec 5) (y1 : BitVec 5) (y2 : BitVec 5) (y3 : BitVec 1) : Fits.Statement (.fdiv y0 y1 y2 y3) :=
  fits_short rfl (enc4_le y0 y1 y2 y3 (by decide)) rfl
theorem Fits.fsqrt (y0 : BitVec 5) (y1 : BitVec 5) (y2 : BitVec 1) : Fits.Statement (.fsqrt y0 y1 y2) :=
  fits_short rfl (enc3_le y0 y1 y2 (by decide)) rfl
theorem Fits.fmin (y0 : BitVec 5) (y1 : BitVec 5) (y2 : BitVec 5) (y3 : BitVec 1) : Fits.Statement (.fmin y0 y1 y2 y3) :=
  fits_short rfl (enc4_le y0 y1 y2 y3 (by decide)) rfl
theorem Fits.fmax (y0 : BitVec 5) (y1 : BitVec 5) (y2 : BitVec 5) (y3 : BitVec 1) : Fits.Statement (.fmax y0 y1 y2 y3) :=
  fits_short rfl (enc4_le y0 y1 y2 y3 (by decide)) rfl
theorem Fits.fmac (y0 : BitVec 5) (y1 : BitVec 5) (y2 : BitVec 5) (y3 : BitVec 1) : Fits.Statement (.fmac y0 y1 y2 y3) :=
  fits_short rfl (enc4_le y0 y1 y2 y3 (by decide)) rfl
theorem Fits.fmsc (y0 : BitVec 5) (y1 : BitVec 5) (y2 : BitVec 5) (y3 : BitVec 1) : Fits.Statement (.fmsc y0 y1 y2 y3) :=
  fits_short rfl (enc4_le y0 y1 y2 y3 (by decide)) rfl
theorem Fits.fabs (y0 : BitVec 5) (y1 : BitVec 5) (y2 : BitVec 1) : Fits.Statement (.fabs y0 y1 y2) :=
  fits_short rfl (enc3_le y0 y1 y2 (by decide)) rfl
theorem Fits.fneg (y0 : BitVec 5) (y1 : BitVec 5) (y2 : BitVec 1) : Fits.Statement (.fneg y0 y1 y2) :=
  fits_short rfl (enc3_le y0 y1 y2 (by decide)) rfl
theorem Fits.fsgmv (y0 : BitVec 5) (y1 : BitVec 5) (y2 : BitVec 5) (y3 : BitVec 1) : Fits.Statement (.fsgmv y0 y1 y2 y3) :=
  fits_short rfl (enc4_le y0 y1 y2 y3 (by decide)) rfl
theorem Fits.feq (y0 : BitVec 5) (y1 : BitVec 5) (y2 : BitVec 5) (y3 : BitVec 1) : Fits.Statement (.feq y0 y1 y2 y3) :=
  fits_short rfl (enc4_le y0 y1 y2 y3 (by decide)) rfl
theorem Fits.flt (y0 : BitVec 5) (y1 : BitVec 5) (y2 : BitVec 5) (y3 : BitVec 1) : Fits.Statement (.flt y0 y1 y2 y3) :=
  fits_short rfl (enc4_le y0 y1 y2 y3 (by decide)) rfl
theorem Fits.fle (y0 : BitVec 5) (y1 : BitVec 5) (y2 : BitVec 5) (y3 : BitVec 1) : Fits.Statement (.fle y0 y1 y2 y3) :=
  fits_short rfl (enc4_le y0 y1 y2 y3 (by decide)) rfl
theorem Fits.fkind (y0 : BitVec 5) (y1 : BitVec 5) (y2 : BitVec 1) : Fits.Statement (.fkind y0 y1 y2) :=
  fits_short rfl (enc3_le y0 y1 y2 (by decide)) rfl
theorem Fits.fcvtF64F32 (y0 : BitVec 5) (y1 : BitVec 5) : Fits.Statement (.fcvtF64F32 y0 y1) :=
  fits_short rfl (enc2_le y0 y1 (by decide)) rfl
theorem Fits.fcvtF32F64 (y0 : BitVec 5) (y1 : BitVec 5) : Fits.Statement (.fcvtF32F64 y0 y1) :=
  fits_short rfl (enc2_le y0 y1 (by decide)) rfl
theorem Fits.fcvtF32I64 (y0 : BitVec 5) (y1 : BitVec 5) : Fits.Statement (.fcvtF32I64 y0 y1) :=
  fits_short rfl (enc2_le y0 y1 (by decide)) rfl
theorem Fits.fcvtF32N64 (y0 : BitVec 5) (y1 : BitVec 5) : Fits.Statement (.fcvtF32N64 y0 y1) :=
  fits_short rfl (enc2_le y0 y1 (by decide)) rfl
theorem Fits.fcvtF64I64 (y0 : BitVec 5) (y1 : BitVec 5) : Fits.Statement (.fcvtF64I64 y0 y1) :=
  fits_short rfl (enc2_le y0 y1 (by decide)) rfl
theorem Fits.fcvtF64N64 (y0 : BitVec 5) (y1 : BitVec 5) : Fits.Statement (.fcvtF64N64 y0 y1) :=
  fits_short rfl (enc2_le y0 y1 (by decide)) rfl
theorem Fits.fcvtI64F32 (y0 : BitVec 5) (y1 : BitVec 5) : Fits.Statement (.fcvtI64F32 y0 y1) :=
  fits_short rfl (enc2_le y0 y1 (by decide)) rfl
theorem Fits.fcvtN64F32 (y0 : BitVec 5) (y1 : BitVec 5) : Fits.Statement (.fcvtN64F32 y0 y1) :=
  fits_short rfl (enc2_le y0 y1 (by decide)) rfl
theorem Fits.fcvtI64F64 (y0 : BitVec 5) (y1 : BitVec 5) : Fits.Statement (.fcvtI64F64 y0 y1) :=
  fits_short rfl (enc2_le y0 y1 (by decide)) rfl
theorem Fits.fcvtN64F64 (y0 : BitVec 5) (y1 : BitVec 5) : Fits.Statement (.fcvtN64F64 y0 y1) :=
  fits_short rfl (enc2_le y0 y1 (by decide)) rfl
theorem Fits.fcvtF32Bf16 (y0 : BitVec 5) (y1 : BitVec 5) : Fits.Statement (.fcvtF32Bf16 y0 y1) :=
  fits_short rfl (enc2_le y0 y1 (by decide)) rfl
theorem Fits.fcvtBf16F32 (y0 : BitVec 5) (y1 : BitVec 5) : Fits.Statement (.fcvtBf16F32 y0 y1) :=
  fits_short rfl (enc2_le y0 y1 (by decide)) rfl
theorem Fits.fcvtF32F16 (y0 : BitVec 5) (y1 : BitVec 5) : Fits.Statement (.fcvtF32F16 y0 y1) :=
  fits_short rfl (enc2_le y0 y1 (by decide)) rfl
theorem Fits.fcvtF16F32 (y0 : BitVec 5) (y1 : BitVec 5) : Fits.Statement (.fcvtF16F32 y0 y1) :=
  fits_short rfl (enc2_le y0 y1 (by decide)) rfl
theorem Fits.lim (y0 : BitVec 5) (y1 : BitVec 32) : Fits.Statement (.lim y0 y1) :=
  fits_long rfl (enc1_le y0 (by decide)) rfl
theorem Fits.lea (y0 : BitVec 5) (y1 : BitVec 32) : Fits.Statement (.lea y0 y1) :=
  fits_long rfl (enc1_le y0 (by decide)) rfl
theorem Fits.callFar (y0 : BitVec 5) (y1 : BitVec 32) : Fits.Statement (.callFar y0 y1) :=
  fits_long rfl (enc1_le y0 (by decide)) rfl
theorem Fits.beq (y0 : BitVec 5) (y1 : BitVec 5) (y2 : BitVec 16) : Fits.Statement (.beq y0 y1 y2) :=
  fits_short rfl (enc3_le y0 y1 y2 (by decide)) rfl
theorem Fits.bne (y0 : BitVec 5) (y1 : BitVec 5) (y2 : BitVec 16) : Fits.Statement (.bne y0 y1 y2) :=
  fits_short rfl (enc3_le y0 y1 y2 (by decide)) rfl
theorem Fits.blt (y0 : BitVec 5) (y1 : BitVec 5) (y2 : BitVec 16) : Fits.Statement (.blt y0 y1 y2) :=
  fits_short rfl (enc3_le y0 y1 y2 (by decide)) rfl
theorem Fits.bge (y0 : BitVec 5) (y1 : BitVec 5) (y2 : BitVec 16) : Fits.Statement (.bge y0 y1 y2) :=
  fits_short rfl (enc3_le y0 y1 y2 (by decide)) rfl
theorem Fits.bltn (y0 : BitVec 5) (y1 : BitVec 5) (y2 : BitVec 16) : Fits.Statement (.bltn y0 y1 y2) :=
  fits_short rfl (enc3_le y0 y1 y2 (by decide)) rfl
theorem Fits.bgen (y0 : BitVec 5) (y1 : BitVec 5) (y2 : BitVec 16) : Fits.Statement (.bgen y0 y1 y2) :=
  fits_short rfl (enc3_le y0 y1 y2 (by decide)) rfl
theorem Fits.jal (y0 : BitVec 5) (y1 : BitVec 21) : Fits.Statement (.jal y0 y1) :=
  fits_short rfl (enc2_le y0 y1 (by decide)) rfl
theorem Fits.jalr (y0 : BitVec 5) (y1 : BitVec 5) (y2 : BitVec 16) : Fits.Statement (.jalr y0 y1 y2) :=
  fits_short rfl (enc3_le y0 y1 y2 (by decide)) rfl
theorem Fits.ld (y0 : BitVec 5) (y1 : BitVec 5) (y2 : BitVec 11) (y3 : BitVec 3) (y4 : BitVec 2) : Fits.Statement (.ld y0 y1 y2 y3 y4) :=
  fits_short rfl (enc5_le y0 y1 y2 y3 y4 (by decide)) rfl
theorem Fits.st (y0 : BitVec 5) (y1 : BitVec 5) (y2 : BitVec 11) (y3 : BitVec 2) (y4 : BitVec 2) : Fits.Statement (.st y0 y1 y2 y3 y4) :=
  fits_short rfl (enc5_le y0 y1 y2 y3 y4 (by decide)) rfl
theorem Fits.ldx (y0 : BitVec 5) (y1 : BitVec 5) (y2 : BitVec 5) (y3 : BitVec 3) : Fits.Statement (.ldx y0 y1 y2 y3) :=
  fits_short rfl (enc4_le y0 y1 y2 y3 (by decide)) rfl
theorem Fits.stx (y0 : BitVec 5) (y1 : BitVec 5) (y2 : BitVec 5) (y3 : BitVec 2) : Fits.Statement (.stx y0 y1 y2 y3) :=
  fits_short rfl (enc4_le y0 y1 y2 y3 (by decide)) rfl
theorem Fits.ldAcq (y0 : BitVec 5) (y1 : BitVec 5) (y2 : BitVec 5) (y3 : BitVec 2) : Fits.Statement (.ldAcq y0 y1 y2 y3) :=
  fits_short rfl (enc4_le y0 y1 y2 y3 (by decide)) rfl
theorem Fits.stRel (y0 : BitVec 5) (y1 : BitVec 5) (y2 : BitVec 5) (y3 : BitVec 2) : Fits.Statement (.stRel y0 y1 y2 y3) :=
  fits_short rfl (enc4_le y0 y1 y2 y3 (by decide)) rfl
theorem Fits.fenceAcq (y0 : BitVec 5) : Fits.Statement (.fenceAcq y0) := fits_short rfl (enc1_le y0 (by decide)) rfl
theorem Fits.fenceRel (y0 : BitVec 5) : Fits.Statement (.fenceRel y0) := fits_short rfl (enc1_le y0 (by decide)) rfl
theorem Fits.fenceAr (y0 : BitVec 5) : Fits.Statement (.fenceAr y0) := fits_short rfl (enc1_le y0 (by decide)) rfl
theorem Fits.fenceSc (y0 : BitVec 5) : Fits.Statement (.fenceSc y0) := fits_short rfl (enc1_le y0 (by decide)) rfl
theorem Fits.sdrain : Fits.Statement (.sdrain) := fits_short (w := 0x48000038) rfl (by decide) rfl
theorem Fits.rfence (y0 : BitVec 5) : Fits.Statement (.rfence y0) := fits_short rfl (enc1_le y0 (by decide)) rfl
theorem Fits.stAt (y0 : BitVec 5) (y1 : BitVec 5) (y2 : BitVec 5) (y3 : BitVec 4) (y4 : BitVec 2) : Fits.Statement (.stAt y0 y1 y2 y3 y4) :=
  fits_short rfl (enc5_le y0 y1 y2 y3 y4 (by decide)) rfl
theorem Fits.ldNb (y0 : BitVec 5) (y1 : BitVec 5) (y2 : BitVec 5) (y3 : BitVec 2) : Fits.Statement (.ldNb y0 y1 y2 y3) :=
  fits_short rfl (enc4_le y0 y1 y2 y3 (by decide)) rfl
theorem Fits.amoswap (y0 : BitVec 5) (y1 : BitVec 5) (y2 : BitVec 5) (y3 : BitVec 1) : Fits.Statement (.amoswap y0 y1 y2 y3) :=
  fits_short rfl (enc4_le y0 y1 y2 y3 (by decide)) rfl
theorem Fits.amoadd (y0 : BitVec 5) (y1 : BitVec 5) (y2 : BitVec 5) (y3 : BitVec 1) : Fits.Statement (.amoadd y0 y1 y2 y3) :=
  fits_short rfl (enc4_le y0 y1 y2 y3 (by decide)) rfl
theorem Fits.amoand (y0 : BitVec 5) (y1 : BitVec 5) (y2 : BitVec 5) (y3 : BitVec 1) : Fits.Statement (.amoand y0 y1 y2 y3) :=
  fits_short rfl (enc4_le y0 y1 y2 y3 (by decide)) rfl
theorem Fits.amoor (y0 : BitVec 5) (y1 : BitVec 5) (y2 : BitVec 5) (y3 : BitVec 1) : Fits.Statement (.amoor y0 y1 y2 y3) :=
  fits_short rfl (enc4_le y0 y1 y2 y3 (by decide)) rfl
theorem Fits.amoxor (y0 : BitVec 5) (y1 : BitVec 5) (y2 : BitVec 5) (y3 : BitVec 1) : Fits.Statement (.amoxor y0 y1 y2 y3) :=
  fits_short rfl (enc4_le y0 y1 y2 y3 (by decide)) rfl
theorem Fits.amomin (y0 : BitVec 5) (y1 : BitVec 5) (y2 : BitVec 5) (y3 : BitVec 1) : Fits.Statement (.amomin y0 y1 y2 y3) :=
  fits_short rfl (enc4_le y0 y1 y2 y3 (by decide)) rfl
theorem Fits.amomax (y0 : BitVec 5) (y1 : BitVec 5) (y2 : BitVec 5) (y3 : BitVec 1) : Fits.Statement (.amomax y0 y1 y2 y3) :=
  fits_short rfl (enc4_le y0 y1 y2 y3 (by decide)) rfl
theorem Fits.amominn (y0 : BitVec 5) (y1 : BitVec 5) (y2 : BitVec 5) (y3 : BitVec 1) : Fits.Statement (.amominn y0 y1 y2 y3) :=
  fits_short rfl (enc4_le y0 y1 y2 y3 (by decide)) rfl
theorem Fits.amomaxn (y0 : BitVec 5) (y1 : BitVec 5) (y2 : BitVec 5) (y3 : BitVec 1) : Fits.Statement (.amomaxn y0 y1 y2 y3) :=
  fits_short rfl (enc4_le y0 y1 y2 y3 (by decide)) rfl
theorem Fits.amocas (y0 : BitVec 5) (y1 : BitVec 5) (y2 : BitVec 5) (y3 : BitVec 1) : Fits.Statement (.amocas y0 y1 y2 y3) :=
  fits_short rfl (enc4_le y0 y1 y2 y3 (by decide)) rfl
theorem Fits.amofadd (y0 : BitVec 5) (y1 : BitVec 5) (y2 : BitVec 5) (y3 : BitVec 1) : Fits.Statement (.amofadd y0 y1 y2 y3) :=
  fits_short rfl (enc4_le y0 y1 y2 y3 (by decide)) rfl
theorem Fits.amofmin (y0 : BitVec 5) (y1 : BitVec 5) (y2 : BitVec 5) (y3 : BitVec 1) : Fits.Statement (.amofmin y0 y1 y2 y3) :=
  fits_short rfl (enc4_le y0 y1 y2 y3 (by decide)) rfl
theorem Fits.amofmax (y0 : BitVec 5) (y1 : BitVec 5) (y2 : BitVec 5) (y3 : BitVec 1) : Fits.Statement (.amofmax y0 y1 y2 y3) :=
  fits_short rfl (enc4_le y0 y1 y2 y3 (by decide)) rfl
theorem Fits.redadd (y0 : BitVec 5) (y1 : BitVec 5) (y2 : BitVec 1) : Fits.Statement (.redadd y0 y1 y2) :=
  fits_short rfl (enc3_le y0 y1 y2 (by decide)) rfl
theorem Fits.redand (y0 : BitVec 5) (y1 : BitVec 5) (y2 : BitVec 1) : Fits.Statement (.redand y0 y1 y2) :=
  fits_short rfl (enc3_le y0 y1 y2 (by decide)) rfl
theorem Fits.redor (y0 : BitVec 5) (y1 : BitVec 5) (y2 : BitVec 1) : Fits.Statement (.redor y0 y1 y2) :=
  fits_short rfl (enc3_le y0 y1 y2 (by decide)) rfl
theorem Fits.redxor (y0 : BitVec 5) (y1 : BitVec 5) (y2 : BitVec 1) : Fits.Statement (.redxor y0 y1 y2) :=
  fits_short rfl (enc3_le y0 y1 y2 (by decide)) rfl
theorem Fits.redmin (y0 : BitVec 5) (y1 : BitVec 5) (y2 : BitVec 1) : Fits.Statement (.redmin y0 y1 y2) :=
  fits_short rfl (enc3_le y0 y1 y2 (by decide)) rfl
theorem Fits.redmax (y0 : BitVec 5) (y1 : BitVec 5) (y2 : BitVec 1) : Fits.Statement (.redmax y0 y1 y2) :=
  fits_short rfl (enc3_le y0 y1 y2 (by decide)) rfl
theorem Fits.redminn (y0 : BitVec 5) (y1 : BitVec 5) (y2 : BitVec 1) : Fits.Statement (.redminn y0 y1 y2) :=
  fits_short rfl (enc3_le y0 y1 y2 (by decide)) rfl
theorem Fits.redmaxn (y0 : BitVec 5) (y1 : BitVec 5) (y2 : BitVec 1) : Fits.Statement (.redmaxn y0 y1 y2) :=
  fits_short rfl (enc3_le y0 y1 y2 (by decide)) rfl
theorem Fits.redfadd (y0 : BitVec 5) (y1 : BitVec 5) (y2 : BitVec 1) : Fits.Statement (.redfadd y0 y1 y2) :=
  fits_short rfl (enc3_le y0 y1 y2 (by decide)) rfl
theorem Fits.redfmin (y0 : BitVec 5) (y1 : BitVec 5) (y2 : BitVec 1) : Fits.Statement (.redfmin y0 y1 y2) :=
  fits_short rfl (enc3_le y0 y1 y2 (by decide)) rfl
theorem Fits.redfmax (y0 : BitVec 5) (y1 : BitVec 5) (y2 : BitVec 1) : Fits.Statement (.redfmax y0 y1 y2) :=
  fits_short rfl (enc3_le y0 y1 y2 (by decide)) rfl
theorem Fits.redOrdAddF32 (y0 : BitVec 5) (y1 : BitVec 5) (y2 : BitVec 5) (y3 : BitVec 4) : Fits.Statement (.redOrdAddF32 y0 y1 y2 y3) :=
  fits_short rfl (enc4_le y0 y1 y2 y3 (by decide)) rfl
theorem Fits.redOrdAddI32 (y0 : BitVec 5) (y1 : BitVec 5) (y2 : BitVec 5) (y3 : BitVec 4) : Fits.Statement (.redOrdAddI32 y0 y1 y2 y3) :=
  fits_short rfl (enc4_le y0 y1 y2 y3 (by decide)) rfl
theorem Fits.redOrdMinF32 (y0 : BitVec 5) (y1 : BitVec 5) (y2 : BitVec 5) (y3 : BitVec 4) : Fits.Statement (.redOrdMinF32 y0 y1 y2 y3) :=
  fits_short rfl (enc4_le y0 y1 y2 y3 (by decide)) rfl
theorem Fits.redOrdMaxF32 (y0 : BitVec 5) (y1 : BitVec 5) (y2 : BitVec 5) (y3 : BitVec 4) : Fits.Statement (.redOrdMaxF32 y0 y1 y2 y3) :=
  fits_short rfl (enc4_le y0 y1 y2 y3 (by decide)) rfl
theorem Fits.vld (y0 : BitVec 5) (y1 : BitVec 5) (y2 : BitVec 11) (y3 : BitVec 3) (y4 : BitVec 2) : Fits.Statement (.vld y0 y1 y2 y3 y4) :=
  fits_short rfl (enc5_le y0 y1 y2 y3 y4 (by decide)) rfl
theorem Fits.vst (y0 : BitVec 5) (y1 : BitVec 5) (y2 : BitVec 11) (y3 : BitVec 3) (y4 : BitVec 2) : Fits.Statement (.vst y0 y1 y2 y3 y4) :=
  fits_short rfl (enc5_le y0 y1 y2 y3 y4 (by decide)) rfl
theorem Fits.vlds (y0 : BitVec 5) (y1 : BitVec 5) (y2 : BitVec 5) (y3 : BitVec 3) (y4 : BitVec 3) : Fits.Statement (.vlds y0 y1 y2 y3 y4) :=
  fits_short rfl (enc5_le y0 y1 y2 y3 y4 (by decide)) rfl
theorem Fits.vsts (y0 : BitVec 5) (y1 : BitVec 5) (y2 : BitVec 5) (y3 : BitVec 3) (y4 : BitVec 3) : Fits.Statement (.vsts y0 y1 y2 y3 y4) :=
  fits_short rfl (enc5_le y0 y1 y2 y3 y4 (by decide)) rfl
theorem Fits.vldx (y0 : BitVec 5) (y1 : BitVec 5) (y2 : BitVec 5) (y3 : BitVec 3) (y4 : BitVec 3) : Fits.Statement (.vldx y0 y1 y2 y3 y4) :=
  fits_short rfl (enc5_le y0 y1 y2 y3 y4 (by decide)) rfl
theorem Fits.vstx (y0 : BitVec 5) (y1 : BitVec 5) (y2 : BitVec 5) (y3 : BitVec 3) (y4 : BitVec 3) : Fits.Statement (.vstx y0 y1 y2 y3 y4) :=
  fits_short rfl (enc5_le y0 y1 y2 y3 y4 (by decide)) rfl
theorem Fits.vldm (y0 : BitVec 5) (y1 : BitVec 5) (y2 : BitVec 3) (y3 : BitVec 3) : Fits.Statement (.vldm y0 y1 y2 y3) :=
  fits_short rfl (enc4_le y0 y1 y2 y3 (by decide)) rfl
theorem Fits.vstm (y0 : BitVec 5) (y1 : BitVec 5) (y2 : BitVec 3) (y3 : BitVec 3) : Fits.Statement (.vstm y0 y1 y2 y3) :=
  fits_short rfl (enc4_le y0 y1 y2 y3 (by decide)) rfl
theorem Fits.vappend (y0 : BitVec 5) (y1 : BitVec 5) (y2 : BitVec 3) (y3 : BitVec 3) : Fits.Statement (.vappend y0 y1 y2 y3) :=
  fits_short rfl (enc4_le y0 y1 y2 y3 (by decide)) rfl
theorem Fits.vldNb (y0 : BitVec 5) (y1 : BitVec 5) (y2 : BitVec 5) (y3 : BitVec 3) (y4 : BitVec 3) : Fits.Statement (.vldNb y0 y1 y2 y3 y4) :=
  fits_short rfl (enc5_le y0 y1 y2 y3 y4 (by decide)) rfl
theorem Fits.vstAt (y0 : BitVec 5) (y1 : BitVec 5) (y2 : BitVec 5) (y3 : BitVec 3) (y4 : BitVec 3) (y5 : BitVec 4) : Fits.Statement (.vstAt y0 y1 y2 y3 y4 y5) :=
  fits_short rfl (enc6_le y0 y1 y2 y3 y4 y5 (by decide)) rfl
theorem Fits.vamoswap (y0 : BitVec 5) (y1 : BitVec 5) (y2 : BitVec 5) (y3 : BitVec 3) (y4 : BitVec 3) : Fits.Statement (.vamoswap y0 y1 y2 y3 y4) :=
  fits_short rfl (enc5_le y0 y1 y2 y3 y4 (by decide)) rfl
theorem Fits.vamoadd (y0 : BitVec 5) (y1 : BitVec 5) (y2 : BitVec 5) (y3 : BitVec 3) (y4 : BitVec 3) : Fits.Statement (.vamoadd y0 y1 y2 y3 y4) :=
  fits_short rfl (enc5_le y0 y1 y2 y3 y4 (by decide)) rfl
theorem Fits.vamoand (y0 : BitVec 5) (y1 : BitVec 5) (y2 : BitVec 5) (y3 : BitVec 3) (y4 : BitVec 3) : Fits.Statement (.vamoand y0 y1 y2 y3 y4) :=
  fits_short rfl (enc5_le y0 y1 y2 y3 y4 (by decide)) rfl
theorem Fits.vamoor (y0 : BitVec 5) (y1 : BitVec 5) (y2 : BitVec 5) (y3 : BitVec 3) (y4 : BitVec 3) : Fits.Statement (.vamoor y0 y1 y2 y3 y4) :=
  fits_short rfl (enc5_le y0 y1 y2 y3 y4 (by decide)) rfl
theorem Fits.vamoxor (y0 : BitVec 5) (y1 : BitVec 5) (y2 : BitVec 5) (y3 : BitVec 3) (y4 : BitVec 3) : Fits.Statement (.vamoxor y0 y1 y2 y3 y4) :=
  fits_short rfl (enc5_le y0 y1 y2 y3 y4 (by decide)) rfl
theorem Fits.vamomin (y0 : BitVec 5) (y1 : BitVec 5) (y2 : BitVec 5) (y3 : BitVec 3) (y4 : BitVec 3) : Fits.Statement (.vamomin y0 y1 y2 y3 y4) :=
  fits_short rfl (enc5_le y0 y1 y2 y3 y4 (by decide)) rfl
theorem Fits.vamomax (y0 : BitVec 5) (y1 : BitVec 5) (y2 : BitVec 5) (y3 : BitVec 3) (y4 : BitVec 3) : Fits.Statement (.vamomax y0 y1 y2 y3 y4) :=
  fits_short rfl (enc5_le y0 y1 y2 y3 y4 (by decide)) rfl
theorem Fits.vamominn (y0 : BitVec 5) (y1 : BitVec 5) (y2 : BitVec 5) (y3 : BitVec 3) (y4 : BitVec 3) : Fits.Statement (.vamominn y0 y1 y2 y3 y4) :=
  fits_short rfl (enc5_le y0 y1 y2 y3 y4 (by decide)) rfl
theorem Fits.vamomaxn (y0 : BitVec 5) (y1 : BitVec 5) (y2 : BitVec 5) (y3 : BitVec 3) (y4 : BitVec 3) : Fits.Statement (.vamomaxn y0 y1 y2 y3 y4) :=
  fits_short rfl (enc5_le y0 y1 y2 y3 y4 (by decide)) rfl
theorem Fits.vredaddIdx (y0 : BitVec 5) (y1 : BitVec 5) (y2 : BitVec 5) (y3 : BitVec 3) (y4 : BitVec 3) : Fits.Statement (.vredaddIdx y0 y1 y2 y3 y4) :=
  fits_short rfl (enc5_le y0 y1 y2 y3 y4 (by decide)) rfl
theorem Fits.vredandIdx (y0 : BitVec 5) (y1 : BitVec 5) (y2 : BitVec 5) (y3 : BitVec 3) (y4 : BitVec 3) : Fits.Statement (.vredandIdx y0 y1 y2 y3 y4) :=
  fits_short rfl (enc5_le y0 y1 y2 y3 y4 (by decide)) rfl
theorem Fits.vredorIdx (y0 : BitVec 5) (y1 : BitVec 5) (y2 : BitVec 5) (y3 : BitVec 3) (y4 : BitVec 3) : Fits.Statement (.vredorIdx y0 y1 y2 y3 y4) :=
  fits_short rfl (enc5_le y0 y1 y2 y3 y4 (by decide)) rfl
theorem Fits.vredxorIdx (y0 : BitVec 5) (y1 : BitVec 5) (y2 : BitVec 5) (y3 : BitVec 3) (y4 : BitVec 3) : Fits.Statement (.vredxorIdx y0 y1 y2 y3 y4) :=
  fits_short rfl (enc5_le y0 y1 y2 y3 y4 (by decide)) rfl
theorem Fits.vredminIdx (y0 : BitVec 5) (y1 : BitVec 5) (y2 : BitVec 5) (y3 : BitVec 3) (y4 : BitVec 3) : Fits.Statement (.vredminIdx y0 y1 y2 y3 y4) :=
  fits_short rfl (enc5_le y0 y1 y2 y3 y4 (by decide)) rfl
theorem Fits.vredmaxIdx (y0 : BitVec 5) (y1 : BitVec 5) (y2 : BitVec 5) (y3 : BitVec 3) (y4 : BitVec 3) : Fits.Statement (.vredmaxIdx y0 y1 y2 y3 y4) :=
  fits_short rfl (enc5_le y0 y1 y2 y3 y4 (by decide)) rfl
theorem Fits.vredminnIdx (y0 : BitVec 5) (y1 : BitVec 5) (y2 : BitVec 5) (y3 : BitVec 3) (y4 : BitVec 3) : Fits.Statement (.vredminnIdx y0 y1 y2 y3 y4) :=
  fits_short rfl (enc5_le y0 y1 y2 y3 y4 (by decide)) rfl
theorem Fits.vredmaxnIdx (y0 : BitVec 5) (y1 : BitVec 5) (y2 : BitVec 5) (y3 : BitVec 3) (y4 : BitVec 3) : Fits.Statement (.vredmaxnIdx y0 y1 y2 y3 y4) :=
  fits_short rfl (enc5_le y0 y1 y2 y3 y4 (by decide)) rfl
theorem Fits.vredOrdAdd (y0 : BitVec 5) (y1 : BitVec 5) (y2 : BitVec 5) (y3 : BitVec 3) (y4 : BitVec 3) (y5 : BitVec 5) : Fits.Statement (.vredOrdAdd y0 y1 y2 y3 y4 y5) :=
  fits_short rfl (enc6_le y0 y1 y2 y3 y4 y5 (by decide)) rfl
theorem Fits.vadd (y0 : BitVec 5) (y1 : BitVec 5) (y2 : BitVec 5) (y3 : BitVec 3) (y4 : BitVec 3) : Fits.Statement (.vadd y0 y1 y2 y3 y4) :=
  fits_short rfl (enc5_le y0 y1 y2 y3 y4 (by decide)) rfl
theorem Fits.vsub (y0 : BitVec 5) (y1 : BitVec 5) (y2 : BitVec 5) (y3 : BitVec 3) (y4 : BitVec 3) : Fits.Statement (.vsub y0 y1 y2 y3 y4) :=
  fits_short rfl (enc5_le y0 y1 y2 y3 y4 (by decide)) rfl
theorem Fits.vmul (y0 : BitVec 5) (y1 : BitVec 5) (y2 : BitVec 5) (y3 : BitVec 3) (y4 : BitVec 3) : Fits.Statement (.vmul y0 y1 y2 y3 y4) :=
  fits_short rfl (enc5_le y0 y1 y2 y3 y4 (by decide)) rfl
theorem Fits.vmulh (y0 : BitVec 5) (y1 : BitVec 5) (y2 : BitVec 5) (y3 : BitVec 3) (y4 : BitVec 3) : Fits.Statement (.vmulh y0 y1 y2 y3 y4) :=
  fits_short rfl (enc5_le y0 y1 y2 y3 y4 (by decide)) rfl
theorem Fits.vmulhn (y0 : BitVec 5) (y1 : BitVec 5) (y2 : BitVec 5) (y3 : BitVec 3) (y4 : BitVec 3) : Fits.Statement (.vmulhn y0 y1 y2 y3 y4) :=
  fits_short rfl (enc5_le y0 y1 y2 y3 y4 (by decide)) rfl
theorem Fits.vand (y0 : BitVec 5) (y1 : BitVec 5) (y2 : BitVec 5) (y3 : BitVec 3) (y4 : BitVec 3) : Fits.Statement (.vand y0 y1 y2 y3 y4) :=
  fits_short rfl (enc5_le y0 y1 y2 y3 y4 (by decide)) rfl
theorem Fits.vor (y0 : BitVec 5) (y1 : BitVec 5) (y2 : BitVec 5) (y3 : BitVec 3) (y4 : BitVec 3) : Fits.Statement (.vor y0 y1 y2 y3 y4) :=
  fits_short rfl (enc5_le y0 y1 y2 y3 y4 (by decide)) rfl
theorem Fits.vxor (y0 : BitVec 5) (y1 : BitVec 5) (y2 : BitVec 5) (y3 : BitVec 3) (y4 : BitVec 3) : Fits.Statement (.vxor y0 y1 y2 y3 y4) :=
  fits_short rfl (enc5_le y0 y1 y2 y3 y4 (by decide)) rfl
theorem Fits.vsll (y0 : BitVec 5) (y1 : BitVec 5) (y2 : BitVec 5) (y3 : BitVec 3) (y4 : BitVec 3) : Fits.Statement (.vsll y0 y1 y2 y3 y4) :=
  fits_short rfl (enc5_le y0 y1 y2 y3 y4 (by decide)) rfl
theorem Fits.vsrl (y0 : BitVec 5) (y1 : BitVec 5) (y2 : BitVec 5) (y3 : BitVec 3) (y4 : BitVec 3) : Fits.Statement (.vsrl y0 y1 y2 y3 y4) :=
  fits_short rfl (enc5_le y0 y1 y2 y3 y4 (by decide)) rfl
theorem Fits.vsra (y0 : BitVec 5) (y1 : BitVec 5) (y2 : BitVec 5) (y3 : BitVec 3) (y4 : BitVec 3) : Fits.Statement (.vsra y0 y1 y2 y3 y4) :=
  fits_short rfl (enc5_le y0 y1 y2 y3 y4 (by decide)) rfl
theorem Fits.vmin (y0 : BitVec 5) (y1 : BitVec 5) (y2 : BitVec 5) (y3 : BitVec 3) (y4 : BitVec 3) : Fits.Statement (.vmin y0 y1 y2 y3 y4) :=
  fits_short rfl (enc5_le y0 y1 y2 y3 y4 (by decide)) rfl
theorem Fits.vmax (y0 : BitVec 5) (y1 : BitVec 5) (y2 : BitVec 5) (y3 : BitVec 3) (y4 : BitVec 3) : Fits.Statement (.vmax y0 y1 y2 y3 y4) :=
  fits_short rfl (enc5_le y0 y1 y2 y3 y4 (by decide)) rfl
theorem Fits.vminn (y0 : BitVec 5) (y1 : BitVec 5) (y2 : BitVec 5) (y3 : BitVec 3) (y4 : BitVec 3) : Fits.Statement (.vminn y0 y1 y2 y3 y4) :=
  fits_short rfl (enc5_le y0 y1 y2 y3 y4 (by decide)) rfl
theorem Fits.vmaxn (y0 : BitVec 5) (y1 : BitVec 5) (y2 : BitVec 5) (y3 : BitVec 3) (y4 : BitVec 3) : Fits.Statement (.vmaxn y0 y1 y2 y3 y4) :=
  fits_short rfl (enc5_le y0 y1 y2 y3 y4 (by decide)) rfl
theorem Fits.vadds (y0 : BitVec 5) (y1 : BitVec 5) (y2 : BitVec 5) (y3 : BitVec 3) (y4 : BitVec 3) : Fits.Statement (.vadds y0 y1 y2 y3 y4) :=
  fits_short rfl (enc5_le y0 y1 y2 y3 y4 (by decide)) rfl
theorem Fits.vaddsn (y0 : BitVec 5) (y1 : BitVec 5) (y2 : BitVec 5) (y3 : BitVec 3) (y4 : BitVec 3) : Fits.Statement (.vaddsn y0 y1 y2 y3 y4) :=
  fits_short rfl (enc5_le y0 y1 y2 y3 y4 (by decide)) rfl
theorem Fits.vsubs (y0 : BitVec 5) (y1 : BitVec 5) (y2 : BitVec 5) (y3 : BitVec 3) (y4 : BitVec 3) : Fits.Statement (.vsubs y0 y1 y2 y3 y4) :=
  fits_short rfl (enc5_le y0 y1 y2 y3 y4 (by decide)) rfl
theorem Fits.vsubsn (y0 : BitVec 5) (y1 : BitVec 5) (y2 : BitVec 5) (y3 : BitVec 3) (y4 : BitVec 3) : Fits.Statement (.vsubsn y0 y1 y2 y3 y4) :=
  fits_short rfl (enc5_le y0 y1 y2 y3 y4 (by decide)) rfl
theorem Fits.vabs (y0 : BitVec 5) (y1 : BitVec 5) (y2 : BitVec 3) (y3 : BitVec 3) : Fits.Statement (.vabs y0 y1 y2 y3) :=
  fits_short rfl (enc4_le y0 y1 y2 y3 (by decide)) rfl
theorem Fits.vneg (y0 : BitVec 5) (y1 : BitVec 5) (y2 : BitVec 3) (y3 : BitVec 3) : Fits.Statement (.vneg y0 y1 y2 y3) :=
  fits_short rfl (enc4_le y0 y1 y2 y3 (by decide)) rfl
theorem Fits.vclz (y0 : BitVec 5) (y1 : BitVec 5) (y2 : BitVec 3) (y3 : BitVec 3) : Fits.Statement (.vclz y0 y1 y2 y3) :=
  fits_short rfl (enc4_le y0 y1 y2 y3 (by decide)) rfl
theorem Fits.vpopc (y0 : BitVec 5) (y1 : BitVec 5) (y2 : BitVec 3) (y3 : BitVec 3) : Fits.Statement (.vpopc y0 y1 y2 y3) :=
  fits_short rfl (enc4_le y0 y1 y2 y3 (by decide)) rfl
theorem Fits.vceq (y0 : BitVec 5) (y1 : BitVec 5) (y2 : BitVec 5) (y3 : BitVec 3) (y4 : BitVec 3) : Fits.Statement (.vceq y0 y1 y2 y3 y4) :=
  fits_short rfl (enc5_le y0 y1 y2 y3 y4 (by decide)) rfl
theorem Fits.vcne (y0 : BitVec 5) (y1 : BitVec 5) (y2 : BitVec 5) (y3 : BitVec 3) (y4 : BitVec 3) : Fits.Statement (.vcne y0 y1 y2 y3 y4) :=
  fits_short rfl (enc5_le y0 y1 y2 y3 y4 (by decide)) rfl
theorem Fits.vclt (y0 : BitVec 5) (y1 : BitVec 5) (y2 : BitVec 5) (y3 : BitVec 3) (y4 : BitVec 3) : Fits.Statement (.vclt y0 y1 y2 y3 y4) :=
  fits_short rfl (enc5_le y0 y1 y2 y3 y4 (by decide)) rfl
theorem Fits.vcle (y0 : BitVec 5) (y1 : BitVec 5) (y2 : BitVec 5) (y3 : BitVec 3) (y4 : BitVec 3) : Fits.Statement (.vcle y0 y1 y2 y3 y4) :=
  fits_short rfl (enc5_le y0 y1 y2 y3 y4 (by decide)) rfl
theorem Fits.vcltn (y0 : BitVec 5) (y1 : BitVec 5) (y2 : BitVec 5) (y3 : BitVec 3) (y4 : BitVec 3) : Fits.Statement (.vcltn y0 y1 y2 y3 y4) :=
  fits_short rfl (enc5_le y0 y1 y2 y3 y4 (by decide)) rfl
theorem Fits.vclen (y0 : BitVec 5) (y1 : BitVec 5) (y2 : BitVec 5) (y3 : BitVec 3) (y4 : BitVec 3) : Fits.Statement (.vclen y0 y1 y2 y3 y4) :=
  fits_short rfl (enc5_le y0 y1 y2 y3 y4 (by decide)) rfl
theorem Fits.vmerge (y0 : BitVec 5) (y1 : BitVec 5) (y2 : BitVec 5) (y3 : BitVec 3) (y4 : BitVec 3) : Fits.Statement (.vmerge y0 y1 y2 y3 y4) :=
  fits_short rfl (enc5_le y0 y1 y2 y3 y4 (by decide)) rfl
theorem Fits.vfadd (y0 : BitVec 5) (y1 : BitVec 5) (y2 : BitVec 5) (y3 : BitVec 3) (y4 : BitVec 3) : Fits.Statement (.vfadd y0 y1 y2 y3 y4) :=
  fits_short rfl (enc5_le y0 y1 y2 y3 y4 (by decide)) rfl
theorem Fits.vfsub (y0 : BitVec 5) (y1 : BitVec 5) (y2 : BitVec 5) (y3 : BitVec 3) (y4 : BitVec 3) : Fits.Statement (.vfsub y0 y1 y2 y3 y4) :=
  fits_short rfl (enc5_le y0 y1 y2 y3 y4 (by decide)) rfl
theorem Fits.vfmul (y0 : BitVec 5) (y1 : BitVec 5) (y2 : BitVec 5) (y3 : BitVec 3) (y4 : BitVec 3) : Fits.Statement (.vfmul y0 y1 y2 y3 y4) :=
  fits_short rfl (enc5_le y0 y1 y2 y3 y4 (by decide)) rfl
theorem Fits.vfdiv (y0 : BitVec 5) (y1 : BitVec 5) (y2 : BitVec 5) (y3 : BitVec 3) (y4 : BitVec 3) : Fits.Statement (.vfdiv y0 y1 y2 y3 y4) :=
  fits_short rfl (enc5_le y0 y1 y2 y3 y4 (by decide)) rfl
theorem Fits.vfsqrt (y0 : BitVec 5) (y1 : BitVec 5) (y2 : BitVec 3) (y3 : BitVec 3) : Fits.Statement (.vfsqrt y0 y1 y2 y3) :=
  fits_short rfl (enc4_le y0 y1 y2 y3 (by decide)) rfl
theorem Fits.vfmin (y0 : BitVec 5) (y1 : BitVec 5) (y2 : BitVec 5) (y3 : BitVec 3) (y4 : BitVec 3) : Fits.Statement (.vfmin y0 y1 y2 y3 y4) :=
  fits_short rfl (enc5_le y0 y1 y2 y3 y4 (by decide)) rfl
theorem Fits.vfmax (y0 : BitVec 5) (y1 : BitVec 5) (y2 : BitVec 5) (y3 : BitVec 3) (y4 : BitVec 3) : Fits.Statement (.vfmax y0 y1 y2 y3 y4) :=
  fits_short rfl (enc5_le y0 y1 y2 y3 y4 (by decide)) rfl
theorem Fits.vfmac (y0 : BitVec 5) (y1 : BitVec 5) (y2 : BitVec 5) (y3 : BitVec 3) (y4 : BitVec 3) : Fits.Statement (.vfmac y0 y1 y2 y3 y4) :=
  fits_short rfl (enc5_le y0 y1 y2 y3 y4 (by decide)) rfl
theorem Fits.vfmsc (y0 : BitVec 5) (y1 : BitVec 5) (y2 : BitVec 5) (y3 : BitVec 3) (y4 : BitVec 3) : Fits.Statement (.vfmsc y0 y1 y2 y3 y4) :=
  fits_short rfl (enc5_le y0 y1 y2 y3 y4 (by decide)) rfl
theorem Fits.vfnmac (y0 : BitVec 5) (y1 : BitVec 5) (y2 : BitVec 5) (y3 : BitVec 3) (y4 : BitVec 3) : Fits.Statement (.vfnmac y0 y1 y2 y3 y4) :=
  fits_short rfl (enc5_le y0 y1 y2 y3 y4 (by decide)) rfl
theorem Fits.vfabs (y0 : BitVec 5) (y1 : BitVec 5) (y2 : BitVec 3) (y3 : BitVec 3) : Fits.Statement (.vfabs y0 y1 y2 y3) :=
  fits_short rfl (enc4_le y0 y1 y2 y3 (by decide)) rfl
theorem Fits.vfneg (y0 : BitVec 5) (y1 : BitVec 5) (y2 : BitVec 3) (y3 : BitVec 3) : Fits.Statement (.vfneg y0 y1 y2 y3) :=
  fits_short rfl (enc4_le y0 y1 y2 y3 (by decide)) rfl
theorem Fits.vfsgmv (y0 : BitVec 5) (y1 : BitVec 5) (y2 : BitVec 5) (y3 : BitVec 3) (y4 : BitVec 3) : Fits.Statement (.vfsgmv y0 y1 y2 y3 y4) :=
  fits_short rfl (enc5_le y0 y1 y2 y3 y4 (by decide)) rfl
theorem Fits.vfrecip (y0 : BitVec 5) (y1 : BitVec 5) (y2 : BitVec 3) (y3 : BitVec 3) : Fits.Statement (.vfrecip y0 y1 y2 y3) :=
  fits_short rfl (enc4_le y0 y1 y2 y3 (by decide)) rfl
theorem Fits.vfrsqrt (y0 : BitVec 5) (y1 : BitVec 5) (y2 : BitVec 3) (y3 : BitVec 3) : Fits.Statement (.vfrsqrt y0 y1 y2 y3) :=
  fits_short rfl (enc4_le y0 y1 y2 y3 (by decide)) rfl
theorem Fits.vfexp2 (y0 : BitVec 5) (y1 : BitVec 5) (y2 : BitVec 3) (y3 : BitVec 3) : Fits.Statement (.vfexp2 y0 y1 y2 y3) :=
  fits_short rfl (enc4_le y0 y1 y2 y3 (by decide)) rfl
theorem Fits.vflog2 (y0 : BitVec 5) (y1 : BitVec 5) (y2 : BitVec 3) (y3 : BitVec 3) : Fits.Statement (.vflog2 y0 y1 y2 y3) :=
  fits_short rfl (enc4_le y0 y1 y2 y3 (by decide)) rfl
theorem Fits.vfceq (y0 : BitVec 5) (y1 : BitVec 5) (y2 : BitVec 5) (y3 : BitVec 3) (y4 : BitVec 3) : Fits.Statement (.vfceq y0 y1 y2 y3 y4) :=
  fits_short rfl (enc5_le y0 y1 y2 y3 y4 (by decide)) rfl
theorem Fits.vfclt (y0 : BitVec 5) (y1 : BitVec 5) (y2 : BitVec 5) (y3 : BitVec 3) (y4 : BitVec 3) : Fits.Statement (.vfclt y0 y1 y2 y3 y4) :=
  fits_short rfl (enc5_le y0 y1 y2 y3 y4 (by decide)) rfl
theorem Fits.vfcle (y0 : BitVec 5) (y1 : BitVec 5) (y2 : BitVec 5) (y3 : BitVec 3) (y4 : BitVec 3) : Fits.Statement (.vfcle y0 y1 y2 y3 y4) :=
  fits_short rfl (enc5_le y0 y1 y2 y3 y4 (by decide)) rfl
theorem Fits.vfcun (y0 : BitVec 5) (y1 : BitVec 5) (y2 : BitVec 5) (y3 : BitVec 3) (y4 : BitVec 3) : Fits.Statement (.vfcun y0 y1 y2 y3 y4) :=
  fits_short rfl (enc5_le y0 y1 y2 y3 y4 (by decide)) rfl
theorem Fits.vfkind (y0 : BitVec 5) (y1 : BitVec 5) (y2 : BitVec 3) (y3 : BitVec 3) : Fits.Statement (.vfkind y0 y1 y2 y3) :=
  fits_short rfl (enc4_le y0 y1 y2 y3 (by decide)) rfl
theorem Fits.vcvt (y0 : BitVec 5) (y1 : BitVec 5) (y2 : BitVec 3) (y3 : BitVec 3) (y4 : BitVec 3) : Fits.Statement (.vcvt y0 y1 y2 y3 y4) :=
  fits_short rfl (enc5_le y0 y1 y2 y3 y4 (by decide)) rfl
theorem Fits.vcvtSr (y0 : BitVec 5) (y1 : BitVec 5) (y2 : BitVec 3) (y3 : BitVec 3) (y4 : BitVec 3) : Fits.Statement (.vcvtSr y0 y1 y2 y3 y4) :=
  fits_short rfl (enc5_le y0 y1 y2 y3 y4 (by decide)) rfl
theorem Fits.vcvtmWiden (y0 : BitVec 5) (y1 : BitVec 5) (y2 : BitVec 3) (y3 : BitVec 3) (y4 : BitVec 2) : Fits.Statement (.vcvtmWiden y0 y1 y2 y3 y4) :=
  fits_short rfl (enc5_le y0 y1 y2 y3 y4 (by decide)) rfl
theorem Fits.vcvtmNarrow (y0 : BitVec 5) (y1 : BitVec 5) (y2 : BitVec 3) (y3 : BitVec 3) (y4 : BitVec 2) : Fits.Statement (.vcvtmNarrow y0 y1 y2 y3 y4) :=
  fits_short rfl (enc5_le y0 y1 y2 y3 y4 (by decide)) rfl
theorem Fits.vwmul (y0 : BitVec 5) (y1 : BitVec 5) (y2 : BitVec 5) (y3 : BitVec 3) (y4 : BitVec 3) (y5 : BitVec 3) : Fits.Statement (.vwmul y0 y1 y2 y3 y4 y5) :=
  fits_short rfl (enc6_le y0 y1 y2 y3 y4 y5 (by decide)) rfl
theorem Fits.vperm (y0 : BitVec 5) (y1 : BitVec 5) (y2 : BitVec 5) (y3 : BitVec 3) (y4 : BitVec 3) : Fits.Statement (.vperm y0 y1 y2 y3 y4) :=
  fits_short rfl (enc5_le y0 y1 y2 y3 y4 (by decide)) rfl
theorem Fits.velsh (y0 : BitVec 5) (y1 : BitVec 5) (y2 : BitVec 5) (y3 : BitVec 3) (y4 : BitVec 3) : Fits.Statement (.velsh y0 y1 y2 y3 y4) :=
  fits_short rfl (enc5_le y0 y1 y2 y3 y4 (by decide)) rfl
theorem Fits.velrot (y0 : BitVec 5) (y1 : BitVec 5) (y2 : BitVec 5) (y3 : BitVec 3) (y4 : BitVec 3) : Fits.Statement (.velrot y0 y1 y2 y3 y4) :=
  fits_short rfl (enc5_le y0 y1 y2 y3 y4 (by decide)) rfl
theorem Fits.vredsum (y0 : BitVec 5) (y1 : BitVec 5) (y2 : BitVec 3) (y3 : BitVec 3) : Fits.Statement (.vredsum y0 y1 y2 y3) :=
  fits_short rfl (enc4_le y0 y1 y2 y3 (by decide)) rfl
theorem Fits.vredmin (y0 : BitVec 5) (y1 : BitVec 5) (y2 : BitVec 3) (y3 : BitVec 3) : Fits.Statement (.vredmin y0 y1 y2 y3) :=
  fits_short rfl (enc4_le y0 y1 y2 y3 (by decide)) rfl
theorem Fits.vredmax (y0 : BitVec 5) (y1 : BitVec 5) (y2 : BitVec 3) (y3 : BitVec 3) : Fits.Statement (.vredmax y0 y1 y2 y3) :=
  fits_short rfl (enc4_le y0 y1 y2 y3 (by decide)) rfl
theorem Fits.vredminn (y0 : BitVec 5) (y1 : BitVec 5) (y2 : BitVec 3) (y3 : BitVec 3) : Fits.Statement (.vredminn y0 y1 y2 y3) :=
  fits_short rfl (enc4_le y0 y1 y2 y3 (by decide)) rfl
theorem Fits.vredmaxn (y0 : BitVec 5) (y1 : BitVec 5) (y2 : BitVec 3) (y3 : BitVec 3) : Fits.Statement (.vredmaxn y0 y1 y2 y3) :=
  fits_short rfl (enc4_le y0 y1 y2 y3 (by decide)) rfl
theorem Fits.vredand (y0 : BitVec 5) (y1 : BitVec 5) (y2 : BitVec 3) (y3 : BitVec 3) : Fits.Statement (.vredand y0 y1 y2 y3) :=
  fits_short rfl (enc4_le y0 y1 y2 y3 (by decide)) rfl
theorem Fits.vredor (y0 : BitVec 5) (y1 : BitVec 5) (y2 : BitVec 3) (y3 : BitVec 3) : Fits.Statement (.vredor y0 y1 y2 y3) :=
  fits_short rfl (enc4_le y0 y1 y2 y3 (by decide)) rfl
theorem Fits.vscan (y0 : BitVec 5) (y1 : BitVec 5) (y2 : BitVec 3) (y3 : BitVec 3) : Fits.Statement (.vscan y0 y1 y2 y3) :=
  fits_short rfl (enc4_le y0 y1 y2 y3 (by decide)) rfl
theorem Fits.vsegsum (y0 : BitVec 5) (y1 : BitVec 5) (y2 : BitVec 5) (y3 : BitVec 3) (y4 : BitVec 3) : Fits.Statement (.vsegsum y0 y1 y2 y3 y4) :=
  fits_short rfl (enc5_le y0 y1 y2 y3 y4 (by decide)) rfl
theorem Fits.vrand (y0 : BitVec 5) (y1 : BitVec 3) (y2 : BitVec 3) : Fits.Statement (.vrand y0 y1 y2) :=
  fits_short rfl (enc3_le y0 y1 y2 (by decide)) rfl
theorem Fits.vmvx (y0 : BitVec 5) (y1 : BitVec 5) (y2 : BitVec 5) (y3 : BitVec 3) : Fits.Statement (.vmvx y0 y1 y2 y3) :=
  fits_short rfl (enc4_le y0 y1 y2 y3 (by decide)) rfl
theorem Fits.vmvv (y0 : BitVec 5) (y1 : BitVec 5) (y2 : BitVec 5) (y3 : BitVec 3) : Fits.Statement (.vmvv y0 y1 y2 y3) :=
  fits_short rfl (enc4_le y0 y1 y2 y3 (by decide)) rfl
theorem Fits.vbcast (y0 : BitVec 5) (y1 : BitVec 5) (y2 : BitVec 3) (y3 : BitVec 3) : Fits.Statement (.vbcast y0 y1 y2 y3) :=
  fits_short rfl (enc4_le y0 y1 y2 y3 (by decide)) rfl
theorem Fits.vsqueeze (y0 : BitVec 5) (y1 : BitVec 5) (y2 : BitVec 3) (y3 : BitVec 3) : Fits.Statement (.vsqueeze y0 y1 y2 y3) :=
  fits_short rfl (enc4_le y0 y1 y2 y3 (by decide)) rfl
theorem Fits.vindex (y0 : BitVec 5) (y1 : BitVec 5) (y2 : BitVec 5) (y3 : BitVec 3) (y4 : BitVec 3) : Fits.Statement (.vindex y0 y1 y2 y3 y4) :=
  fits_short rfl (enc5_le y0 y1 y2 y3 y4 (by decide)) rfl
theorem Fits.mand (y0 : BitVec 5) (y1 : BitVec 5) (y2 : BitVec 5) : Fits.Statement (.mand y0 y1 y2) :=
  fits_short rfl (enc3_le y0 y1 y2 (by decide)) rfl
theorem Fits.mor (y0 : BitVec 5) (y1 : BitVec 5) (y2 : BitVec 5) : Fits.Statement (.mor y0 y1 y2) :=
  fits_short rfl (enc3_le y0 y1 y2 (by decide)) rfl
theorem Fits.mxor (y0 : BitVec 5) (y1 : BitVec 5) (y2 : BitVec 5) : Fits.Statement (.mxor y0 y1 y2) :=
  fits_short rfl (enc3_le y0 y1 y2 (by decide)) rfl
theorem Fits.mandn (y0 : BitVec 5) (y1 : BitVec 5) (y2 : BitVec 5) : Fits.Statement (.mandn y0 y1 y2) :=
  fits_short rfl (enc3_le y0 y1 y2 (by decide)) rfl
theorem Fits.mnot (y0 : BitVec 5) (y1 : BitVec 5) : Fits.Statement (.mnot y0 y1) :=
  fits_short rfl (enc2_le y0 y1 (by decide)) rfl
theorem Fits.mset (y0 : BitVec 5) : Fits.Statement (.mset y0) := fits_short rfl (enc1_le y0 (by decide)) rfl
theorem Fits.mclr (y0 : BitVec 5) : Fits.Statement (.mclr y0) := fits_short rfl (enc1_le y0 (by decide)) rfl
theorem Fits.mcnt (y0 : BitVec 5) (y1 : BitVec 5) : Fits.Statement (.mcnt y0 y1) :=
  fits_short rfl (enc2_le y0 y1 (by decide)) rfl
theorem Fits.many (y0 : BitVec 5) (y1 : BitVec 5) : Fits.Statement (.many y0 y1) :=
  fits_short rfl (enc2_le y0 y1 (by decide)) rfl
theorem Fits.mfirst (y0 : BitVec 5) (y1 : BitVec 5) : Fits.Statement (.mfirst y0 y1) :=
  fits_short rfl (enc2_le y0 y1 (by decide)) rfl
theorem Fits.vaddVx (y0 : BitVec 5) (y1 : BitVec 5) (y2 : BitVec 5) (y3 : BitVec 3) (y4 : BitVec 3) (y5 : BitVec 1) : Fits.Statement (.vaddVx y0 y1 y2 y3 y4 y5) :=
  fits_short rfl (enc6_le y0 y1 y2 y3 y4 y5 (by decide)) rfl
theorem Fits.vsubVx (y0 : BitVec 5) (y1 : BitVec 5) (y2 : BitVec 5) (y3 : BitVec 3) (y4 : BitVec 3) (y5 : BitVec 1) : Fits.Statement (.vsubVx y0 y1 y2 y3 y4 y5) :=
  fits_short rfl (enc6_le y0 y1 y2 y3 y4 y5 (by decide)) rfl
theorem Fits.vrsubVx (y0 : BitVec 5) (y1 : BitVec 5) (y2 : BitVec 5) (y3 : BitVec 3) (y4 : BitVec 3) (y5 : BitVec 1) : Fits.Statement (.vrsubVx y0 y1 y2 y3 y4 y5) :=
  fits_short rfl (enc6_le y0 y1 y2 y3 y4 y5 (by decide)) rfl
theorem Fits.vmulVx (y0 : BitVec 5) (y1 : BitVec 5) (y2 : BitVec 5) (y3 : BitVec 3) (y4 : BitVec 3) (y5 : BitVec 1) : Fits.Statement (.vmulVx y0 y1 y2 y3 y4 y5) :=
  fits_short rfl (enc6_le y0 y1 y2 y3 y4 y5 (by decide)) rfl
theorem Fits.vandVx (y0 : BitVec 5) (y1 : BitVec 5) (y2 : BitVec 5) (y3 : BitVec 3) (y4 : BitVec 3) (y5 : BitVec 1) : Fits.Statement (.vandVx y0 y1 y2 y3 y4 y5) :=
  fits_short rfl (enc6_le y0 y1 y2 y3 y4 y5 (by decide)) rfl
theorem Fits.vorVx (y0 : BitVec 5) (y1 : BitVec 5) (y2 : BitVec 5) (y3 : BitVec 3) (y4 : BitVec 3) (y5 : BitVec 1) : Fits.Statement (.vorVx y0 y1 y2 y3 y4 y5) :=
  fits_short rfl (enc6_le y0 y1 y2 y3 y4 y5 (by decide)) rfl
theorem Fits.vxorVx (y0 : BitVec 5) (y1 : BitVec 5) (y2 : BitVec 5) (y3 : BitVec 3) (y4 : BitVec 3) (y5 : BitVec 1) : Fits.Statement (.vxorVx y0 y1 y2 y3 y4 y5) :=
  fits_short rfl (enc6_le y0 y1 y2 y3 y4 y5 (by decide)) rfl
theorem Fits.vsllVx (y0 : BitVec 5) (y1 : BitVec 5) (y2 : BitVec 5) (y3 : BitVec 3) (y4 : BitVec 3) (y5 : BitVec 1) : Fits.Statement (.vsllVx y0 y1 y2 y3 y4 y5) :=
  fits_short rfl (enc6_le y0 y1 y2 y3 y4 y5 (by decide)) rfl
theorem Fits.vsrlVx (y0 : BitVec 5) (y1 : BitVec 5) (y2 : BitVec 5) (y3 : BitVec 3) (y4 : BitVec 3) (y5 : BitVec 1) : Fits.Statement (.vsrlVx y0 y1 y2 y3 y4 y5) :=
  fits_short rfl (enc6_le y0 y1 y2 y3 y4 y5 (by decide)) rfl
theorem Fits.vsraVx (y0 : BitVec 5) (y1 : BitVec 5) (y2 : BitVec 5) (y3 : BitVec 3) (y4 : BitVec 3) (y5 : BitVec 1) : Fits.Statement (.vsraVx y0 y1 y2 y3 y4 y5) :=
  fits_short rfl (enc6_le y0 y1 y2 y3 y4 y5 (by decide)) rfl
theorem Fits.vminVx (y0 : BitVec 5) (y1 : BitVec 5) (y2 : BitVec 5) (y3 : BitVec 3) (y4 : BitVec 3) (y5 : BitVec 1) : Fits.Statement (.vminVx y0 y1 y2 y3 y4 y5) :=
  fits_short rfl (enc6_le y0 y1 y2 y3 y4 y5 (by decide)) rfl
theorem Fits.vmaxVx (y0 : BitVec 5) (y1 : BitVec 5) (y2 : BitVec 5) (y3 : BitVec 3) (y4 : BitVec 3) (y5 : BitVec 1) : Fits.Statement (.vmaxVx y0 y1 y2 y3 y4 y5) :=
  fits_short rfl (enc6_le y0 y1 y2 y3 y4 y5 (by decide)) rfl
theorem Fits.vfaddVx (y0 : BitVec 5) (y1 : BitVec 5) (y2 : BitVec 5) (y3 : BitVec 3) (y4 : BitVec 3) : Fits.Statement (.vfaddVx y0 y1 y2 y3 y4) :=
  fits_short rfl (enc5_le y0 y1 y2 y3 y4 (by decide)) rfl
theorem Fits.vfmulVx (y0 : BitVec 5) (y1 : BitVec 5) (y2 : BitVec 5) (y3 : BitVec 3) (y4 : BitVec 3) : Fits.Statement (.vfmulVx y0 y1 y2 y3 y4) :=
  fits_short rfl (enc5_le y0 y1 y2 y3 y4 (by decide)) rfl
theorem Fits.vfmacVx (y0 : BitVec 5) (y1 : BitVec 5) (y2 : BitVec 5) (y3 : BitVec 3) (y4 : BitVec 3) : Fits.Statement (.vfmacVx y0 y1 y2 y3 y4) :=
  fits_short rfl (enc5_le y0 y1 y2 y3 y4 (by decide)) rfl
theorem Fits.vceqVx (y0 : BitVec 5) (y1 : BitVec 5) (y2 : BitVec 5) (y3 : BitVec 3) (y4 : BitVec 3) (y5 : BitVec 1) : Fits.Statement (.vceqVx y0 y1 y2 y3 y4 y5) :=
  fits_short rfl (enc6_le y0 y1 y2 y3 y4 y5 (by decide)) rfl
theorem Fits.mop (y0 : BitVec 3) (y1 : BitVec 5) (y2 : BitVec 5) (y3 : BitVec 3) (y4 : BitVec 3) (y5 : BitVec 5) : Fits.Statement (.mop y0 y1 y2 y3 y4 y5) :=
  fits_short rfl (enc6_le y0 y1 y2 y3 y4 y5 (by decide)) rfl
theorem Fits.mops (y0 : BitVec 3) (y1 : BitVec 5) (y2 : BitVec 5) (y3 : BitVec 3) (y4 : BitVec 3) (y5 : BitVec 5) : Fits.Statement (.mops y0 y1 y2 y3 y4 y5) :=
  fits_short rfl (enc6_le y0 y1 y2 y3 y4 y5 (by decide)) rfl
theorem Fits.mopx (y0 : BitVec 3) (y1 : BitVec 5) (y2 : BitVec 5) (y3 : BitVec 3) (y4 : BitVec 3) (y5 : BitVec 5) : Fits.Statement (.mopx y0 y1 y2 y3 y4 y5) :=
  fits_short rfl (enc6_le y0 y1 y2 y3 y4 y5 (by decide)) rfl
theorem Fits.mopxs (y0 : BitVec 3) (y1 : BitVec 5) (y2 : BitVec 5) (y3 : BitVec 3) (y4 : BitVec 3) (y5 : BitVec 5) : Fits.Statement (.mopxs y0 y1 y2 y3 y4 y5) :=
  fits_short rfl (enc6_le y0 y1 y2 y3 y4 y5 (by decide)) rfl
theorem Fits.mopsp (y0 : BitVec 3) (y1 : BitVec 5) (y2 : BitVec 5) (y3 : BitVec 3) (y4 : BitVec 3) (y5 : BitVec 5) : Fits.Statement (.mopsp y0 y1 y2 y3 y4 y5) :=
  fits_short rfl (enc6_le y0 y1 y2 y3 y4 y5 (by decide)) rfl
theorem Fits.mopi (y0 : BitVec 3) (y1 : BitVec 5) (y2 : BitVec 5) (y3 : BitVec 3) (y4 : BitVec 3) (y5 : BitVec 5) : Fits.Statement (.mopi y0 y1 y2 y3 y4 y5) :=
  fits_short rfl (enc6_le y0 y1 y2 y3 y4 y5 (by decide)) rfl
theorem Fits.mopiSat (y0 : BitVec 3) (y1 : BitVec 5) (y2 : BitVec 5) (y3 : BitVec 3) (y4 : BitVec 3) (y5 : BitVec 5) : Fits.Statement (.mopiSat y0 y1 y2 y3 y4 y5) :=
  fits_short rfl (enc6_le y0 y1 y2 y3 y4 y5 (by decide)) rfl
theorem Fits.acczero (y0 : BitVec 3) : Fits.Statement (.acczero y0) := fits_short rfl (enc1_le y0 (by decide)) rfl
theorem Fits.accrd (y0 : BitVec 3) (y1 : BitVec 5) (y2 : BitVec 5) : Fits.Statement (.accrd y0 y1 y2) :=
  fits_short rfl (enc3_le y0 y1 y2 (by decide)) rfl
theorem Fits.accwr (y0 : BitVec 3) (y1 : BitVec 5) (y2 : BitVec 5) : Fits.Statement (.accwr y0 y1 y2) :=
  fits_short rfl (enc3_le y0 y1 y2 (by decide)) rfl
theorem Fits.accpro (y0 : BitVec 3) (y1 : BitVec 2) (y2 : BitVec 5) (y3 : BitVec 5) (y4 : BitVec 5) : Fits.Statement (.accpro y0 y1 y2 y3 y4) :=
  fits_short rfl (enc5_le y0 y1 y2 y3 y4 (by decide)) rfl
theorem Fits.accld (y0 : BitVec 3) (y1 : BitVec 5) : Fits.Statement (.accld y0 y1) :=
  fits_short rfl (enc2_le y0 y1 (by decide)) rfl
theorem Fits.accst (y0 : BitVec 3) (y1 : BitVec 5) : Fits.Statement (.accst y0 y1) :=
  fits_short rfl (enc2_le y0 y1 (by decide)) rfl
theorem Fits.accmov (y0 : BitVec 3) (y1 : BitVec 3) : Fits.Statement (.accmov y0 y1) :=
  fits_short rfl (enc2_le y0 y1 (by decide)) rfl
theorem Fits.accadd (y0 : BitVec 3) (y1 : BitVec 2) (y2 : BitVec 3) : Fits.Statement (.accadd y0 y1 y2) :=
  fits_short rfl (enc3_le y0 y1 y2 (by decide)) rfl
theorem Fits.accsave (y0 : BitVec 5) : Fits.Statement (.accsave y0) := fits_short rfl (enc1_le y0 (by decide)) rfl
theorem Fits.accrest (y0 : BitVec 5) : Fits.Statement (.accrest y0) := fits_short rfl (enc1_le y0 (by decide)) rfl
theorem Fits.cpy (y0 : BitVec 5) (y1 : BitVec 5) (y2 : BitVec 5) (y3 : BitVec 4) (y4 : BitVec 2) (y5 : BitVec 2) : Fits.Statement (.cpy y0 y1 y2 y3 y4 y5) :=
  fits_short rfl (enc6_le y0 y1 y2 y3 y4 y5 (by decide)) rfl
theorem Fits.cpy2 (y0 : BitVec 5) (y1 : BitVec 5) (y2 : BitVec 5) (y3 : BitVec 4) (y4 : BitVec 2) (y5 : BitVec 2) : Fits.Statement (.cpy2 y0 y1 y2 y3 y4 y5) :=
  fits_short rfl (enc6_le y0 y1 y2 y3 y4 y5 (by decide)) rfl
theorem Fits.cpyxG (y0 : BitVec 5) (y1 : BitVec 5) (y2 : BitVec 5) (y3 : BitVec 4) (y4 : BitVec 2) : Fits.Statement (.cpyxG y0 y1 y2 y3 y4) :=
  fits_short rfl (enc5_le y0 y1 y2 y3 y4 (by decide)) rfl
theorem Fits.cpyxS (y0 : BitVec 5) (y1 : BitVec 5) (y2 : BitVec 5) (y3 : BitVec 4) (y4 : BitVec 2) : Fits.Statement (.cpyxS y0 y1 y2 y3 y4) :=
  fits_short rfl (enc5_le y0 y1 y2 y3 y4 (by decide)) rfl
theorem Fits.cpyM (y0 : BitVec 5) (y1 : BitVec 5) (y2 : BitVec 5) (y3 : BitVec 4) (y4 : BitVec 2) (y5 : BitVec 2) : Fits.Statement (.cpyM y0 y1 y2 y3 y4 y5) :=
  fits_short rfl (enc6_le y0 y1 y2 y3 y4 y5 (by decide)) rfl
theorem Fits.cpy2M (y0 : BitVec 5) (y1 : BitVec 5) (y2 : BitVec 5) (y3 : BitVec 4) (y4 : BitVec 2) (y5 : BitVec 2) : Fits.Statement (.cpy2M y0 y1 y2 y3 y4 y5) :=
  fits_short rfl (enc6_le y0 y1 y2 y3 y4 y5 (by decide)) rfl
theorem Fits.cpyxGM (y0 : BitVec 5) (y1 : BitVec 5) (y2 : BitVec 5) (y3 : BitVec 4) (y4 : BitVec 2) : Fits.Statement (.cpyxGM y0 y1 y2 y3 y4) :=
  fits_short rfl (enc5_le y0 y1 y2 y3 y4 (by decide)) rfl
theorem Fits.ccwait (y0 : BitVec 5) (y1 : BitVec 4) (y2 : BitVec 2) : Fits.Statement (.ccwait y0 y1 y2) :=
  fits_short rfl (enc3_le y0 y1 y2 (by decide)) rfl
theorem Fits.ccrd (y0 : BitVec 5) (y1 : BitVec 4) (y2 : BitVec 2) : Fits.Statement (.ccrd y0 y1 y2) :=
  fits_short rfl (enc3_le y0 y1 y2 (by decide)) rfl
theorem Fits.ccset (y0 : BitVec 5) (y1 : BitVec 4) (y2 : BitVec 2) : Fits.Statement (.ccset y0 y1 y2) :=
  fits_short rfl (enc3_le y0 y1 y2 (by decide)) rfl
theorem Fits.sgbind (y0 : BitVec 5) (y1 : BitVec 4) (y2 : BitVec 2) (y3 : BitVec 2) : Fits.Statement (.sgbind y0 y1 y2 y3) :=
  fits_short rfl (enc4_le y0 y1 y2 y3 (by decide)) rfl
theorem Fits.sgunbind (y0 : BitVec 4) (y1 : BitVec 2) : Fits.Statement (.sgunbind y0 y1) :=
  fits_short rfl (enc2_le y0 y1 (by decide)) rfl
theorem Fits.subscribe (y0 : BitVec 5) (y1 : BitVec 5) (y2 : BitVec 5) (y3 : BitVec 4) (y4 : BitVec 2) : Fits.Statement (.subscribe y0 y1 y2 y3 y4) :=
  fits_short rfl (enc5_le y0 y1 y2 y3 y4 (by decide)) rfl
theorem Fits.unsub (y0 : BitVec 4) (y1 : BitVec 2) : Fits.Statement (.unsub y0 y1) :=
  fits_short rfl (enc2_le y0 y1 (by decide)) rfl
theorem Fits.unsubPub (y0 : BitVec 4) (y1 : BitVec 2) : Fits.Statement (.unsubPub y0 y1) :=
  fits_short rfl (enc2_le y0 y1 (by decide)) rfl
theorem Fits.subflush (y0 : BitVec 2) : Fits.Statement (.subflush y0) := fits_short rfl (enc1_le y0 (by decide)) rfl
theorem Fits.barrArrive (y0 : BitVec 5) : Fits.Statement (.barrArrive y0) := fits_short rfl (enc1_le y0 (by decide)) rfl
theorem Fits.barrWait (y0 : BitVec 5) : Fits.Statement (.barrWait y0) := fits_short rfl (enc1_le y0 (by decide)) rfl
theorem Fits.barrArriveSpan (y0 : BitVec 5) : Fits.Statement (.barrArriveSpan y0) :=
  fits_short rfl (enc1_le y0 (by decide)) rfl
theorem Fits.barrWaitSpan (y0 : BitVec 5) : Fits.Statement (.barrWaitSpan y0) :=
  fits_short rfl (enc1_le y0 (by decide)) rfl
theorem Fits.barrArriveGang : Fits.Statement (.barrArriveGang) := fits_short (w := 0xC8000004) rfl (by decide) rfl
theorem Fits.barrWaitGang : Fits.Statement (.barrWaitGang) := fits_short (w := 0xC8000005) rfl (by decide) rfl
theorem Fits.pause (y0 : BitVec 15) : Fits.Statement (.pause y0) := fits_short rfl (enc1_le y0 (by decide)) rfl
theorem Fits.recv (y0 : BitVec 5) (y1 : BitVec 5) : Fits.Statement (.recv y0 y1) :=
  fits_short rfl (enc2_le y0 y1 (by decide)) rfl
theorem Fits.launch (y0 : BitVec 5) (y1 : BitVec 5) : Fits.Statement (.launch y0 y1) :=
  fits_short rfl (enc2_le y0 y1 (by decide)) rfl
theorem Fits.launchR (y0 : BitVec 5) (y1 : BitVec 5) (y2 : BitVec 5) : Fits.Statement (.launchR y0 y1 y2) :=
  fits_short rfl (enc3_le y0 y1 y2 (by decide)) rfl
theorem Fits.join (y0 : BitVec 5) : Fits.Statement (.join y0) := fits_short rfl (enc1_le y0 (by decide)) rfl
theorem Fits.gexit : Fits.Statement (.gexit) := fits_short (w := 0xC8000013) rfl (by decide) rfl
theorem Fits.yield : Fits.Statement (.yield) := fits_short (w := 0xC8000014) rfl (by decide) rfl
theorem Fits.rdctl (y0 : BitVec 5) (y1 : BitVec 12) : Fits.Statement (.rdctl y0 y1) :=
  fits_short rfl (enc2_le y0 y1 (by decide)) rfl
theorem Fits.wrctl (y0 : BitVec 5) (y1 : BitVec 12) : Fits.Statement (.wrctl y0 y1) :=
  fits_short rfl (enc2_le y0 y1 (by decide)) rfl
theorem Fits.setctl (y0 : BitVec 5) (y1 : BitVec 12) : Fits.Statement (.setctl y0 y1) :=
  fits_short rfl (enc2_le y0 y1 (by decide)) rfl
theorem Fits.clrctl (y0 : BitVec 5) (y1 : BitVec 12) : Fits.Statement (.clrctl y0 y1) :=
  fits_short rfl (enc2_le y0 y1 (by decide)) rfl
theorem Fits.setvl (y0 : BitVec 5) (y1 : BitVec 5) (y2 : BitVec 3) : Fits.Statement (.setvl y0 y1 y2) :=
  fits_short rfl (enc3_le y0 y1 y2 (by decide)) rfl
theorem Fits.setml (y0 : BitVec 5) (y1 : BitVec 5) : Fits.Statement (.setml y0 y1) :=
  fits_short rfl (enc2_le y0 y1 (by decide)) rfl
theorem Fits.trap (y0 : BitVec 12) : Fits.Statement (.trap y0) := fits_short rfl (enc1_le y0 (by decide)) rfl
theorem Fits.eret : Fits.Statement (.eret) := fits_short (w := 0xE0000007) rfl (by decide) rfl
theorem Fits.fenceI : Fits.Statement (.fenceI) := fits_short (w := 0xE0000008) rfl (by decide) rfl
theorem Fits.preempt : Fits.Statement (.preempt) := fits_short (w := 0xE0000009) rfl (by decide) rfl
theorem Fits.gkill (y0 : BitVec 5) : Fits.Statement (.gkill y0) := fits_short rfl (enc1_le y0 (by decide)) rfl
theorem Fits.sfqpop (y0 : BitVec 5) : Fits.Statement (.sfqpop y0) := fits_short rfl (enc1_le y0 (by decide)) rfl
theorem Fits.tlbinv (y0 : BitVec 5) : Fits.Statement (.tlbinv y0) := fits_short rfl (enc1_le y0 (by decide)) rfl
theorem Fits.hinv (y0 : BitVec 5) : Fits.Statement (.hinv y0) := fits_short rfl (enc1_le y0 (by decide)) rfl
theorem Fits.ebreak : Fits.Statement (.ebreak) := fits_short (w := 0xE000000E) rfl (by decide) rfl
theorem Fits.halt : Fits.Statement (.halt) := fits_short (w := 0xE000000F) rfl (by decide) rfl
theorem Fits.evStoreBufferDrain (y0 : Nat) : Fits.Statement (.evStoreBufferDrain y0) := fits_event rfl rfl
theorem Fits.evStoreFaultReport (y0 : Nat) : Fits.Statement (.evStoreFaultReport y0) := fits_event rfl rfl
theorem Fits.evCopyErrorReport (y0 : Nat) : Fits.Statement (.evCopyErrorReport y0) := fits_event rfl rfl
theorem Fits.evDeadlineReport (y0 : Nat) : Fits.Statement (.evDeadlineReport y0) := fits_event rfl rfl
theorem Fits.evUncorrectableReport (y0 : Nat) : Fits.Statement (.evUncorrectableReport y0) := fits_event rfl rfl
theorem Fits.evRead (y0 : Nat) : Fits.Statement (.evRead y0) := fits_event rfl rfl
theorem Fits.evWrite (y0 : Nat) : Fits.Statement (.evWrite y0) := fits_event rfl rfl
theorem Fits.evAtomic (y0 : Nat) : Fits.Statement (.evAtomic y0) := fits_event rfl rfl
theorem Fits.evReduce (y0 : Nat) : Fits.Statement (.evReduce y0) := fits_event rfl rfl
theorem Fits.evResp (y0 : Nat) : Fits.Statement (.evResp y0) := fits_event rfl rfl
theorem Fits.evTimedArrival (y0 : Nat) : Fits.Statement (.evTimedArrival y0) := fits_event rfl rfl
theorem Fits.evTimedEntryGrant (y0 : Nat) : Fits.Statement (.evTimedEntryGrant y0) := fits_event rfl rfl
theorem Fits.evTimedInstant (y0 : Nat) : Fits.Statement (.evTimedInstant y0) := fits_event rfl rfl
theorem Fits.evQueueEnqueue (y0 : Nat) (y1 : BitVec 512) (y2 : Sender) : Fits.Statement (.evQueueEnqueue y0 y1 y2) :=
  fits_event rfl rfl
theorem Fits.evBadwrite (y0 : Nat) : Fits.Statement (.evBadwrite y0) := fits_event rfl rfl
theorem Fits.evContRetry (y0 : Nat) : Fits.Statement (.evContRetry y0) := fits_event rfl rfl
theorem Fits.evJoinApply (y0 : Nat) : Fits.Statement (.evJoinApply y0) := fits_event rfl rfl
theorem Fits.evRingDelivery (y0 : Nat) : Fits.Statement (.evRingDelivery y0) := fits_event rfl rfl
theorem Fits.evContribution (y0 : Nat) : Fits.Statement (.evContribution y0) := fits_event rfl rfl
theorem Fits.evSpanRelease (y0 : Nat) : Fits.Statement (.evSpanRelease y0) := fits_event rfl rfl
theorem Fits.evSpanWaitExit (y0 : Nat) : Fits.Statement (.evSpanWaitExit y0) := fits_event rfl rfl
theorem Fits.evPauseExpiry (y0 : Nat) : Fits.Statement (.evPauseExpiry y0) := fits_event rfl rfl
theorem Fits.evPreemptStop (y0 : Nat) : Fits.Statement (.evPreemptStop y0) := fits_event rfl rfl
theorem Fits.evPreemptNotice (y0 : Nat) : Fits.Statement (.evPreemptNotice y0) := fits_event rfl rfl
theorem Fits.evNoticeTimeout (y0 : Nat) : Fits.Statement (.evNoticeTimeout y0) := fits_event rfl rfl
theorem Fits.evParkComplete (y0 : Nat) : Fits.Statement (.evParkComplete y0) := fits_event rfl rfl
theorem Fits.evGangResume (y0 : Nat) : Fits.Statement (.evGangResume y0) := fits_event rfl rfl
theorem Fits.evCopyAccept (y0 : Nat) : Fits.Statement (.evCopyAccept y0) := fits_event rfl rfl
theorem Fits.evPendingReserve (y0 : Nat) : Fits.Statement (.evPendingReserve y0) := fits_event rfl rfl
theorem Fits.evGraphFrame (y0 : Nat) : Fits.Statement (.evGraphFrame y0) := fits_event rfl rfl
theorem Fits.evChunkComplete (y0 : Nat) (y1 : Nat) : Fits.Statement (.evChunkComplete y0 y1) := fits_event rfl rfl
theorem Fits.evBatchTimeout (y0 : Nat) (y1 : Nat) (y2 : Nat) : Fits.Statement (.evBatchTimeout y0 y1 y2) :=
  fits_event rfl rfl
theorem Fits.evSubscriptionUpdate (y0 : Nat) : Fits.Statement (.evSubscriptionUpdate y0) := fits_event rfl rfl
theorem Fits.evRelockEnd (y0 : Nat) : Fits.Statement (.evRelockEnd y0) := fits_event rfl rfl
theorem Fits.evPowerControlTick (y0 : Nat) (y1 : Nat) (y2 : Nat) : Fits.Statement (.evPowerControlTick y0 y1 y2) :=
  fits_event rfl rfl
theorem Fits.evTctlThrottleTick (y0 : Nat) (y1 : Nat) : Fits.Statement (.evTctlThrottleTick y0 y1) := fits_event rfl rfl
theorem Fits.evDieOver105c (y0 : Nat) : Fits.Statement (.evDieOver105c y0) := fits_event rfl rfl
theorem Fits.evThermalTrip (y0 : Nat) (y1 : Nat) : Fits.Statement (.evThermalTrip y0 y1) := fits_event rfl rfl
theorem Fits.evHbmOver85c (y0 : Nat) : Fits.Statement (.evHbmOver85c y0) := fits_event rfl rfl
theorem Fits.evHbmOver95c (y0 : Nat) : Fits.Statement (.evHbmOver95c y0) := fits_event rfl rfl
theorem Fits.evTelemetryUpdate (y0 : List Nat) (y1 : List Nat) : Fits.Statement (.evTelemetryUpdate y0 y1) :=
  fits_event rfl rfl
theorem Fits.evPcapWrite (y0 : Agent) (y1 : BitVec 64) : Fits.Statement (.evPcapWrite y0 y1) := fits_event rfl rfl
theorem Fits.evTctlWrite (y0 : Agent) (y1 : BitVec 64) : Fits.Statement (.evTctlWrite y0 y1) := fits_event rfl rfl
theorem Fits.evStepmaxWrite (y0 : Agent) (y1 : Nat) (y2 : BitVec 64) : Fits.Statement (.evStepmaxWrite y0 y1 y2) :=
  fits_event rfl rfl
theorem Fits.evRegisterWrite (y0 : Agent) (y1 : Nat) (y2 : BitVec 64) : Fits.Statement (.evRegisterWrite y0 y1 y2) :=
  fits_event rfl rfl
theorem Fits.evPrtEntryWrite (y0 : Agent) (y1 : Nat) (y2 : Nat) (y3 : BitVec 64) : Fits.Statement (.evPrtEntryWrite y0 y1 y2 y3) :=
  fits_event rfl rfl
theorem Fits.evQcfgWrite (y0 : Agent) (y1 : Nat) (y2 : BitVec 64) : Fits.Statement (.evQcfgWrite y0 y1 y2) :=
  fits_event rfl rfl
theorem Fits.evQrelWrite (y0 : Agent) (y1 : Nat) (y2 : BitVec 64) : Fits.Statement (.evQrelWrite y0 y1 y2) :=
  fits_event rfl rfl
theorem Fits.evQpop (y0 : Agent) (y1 : Nat) (y2 : BitVec 64) : Fits.Statement (.evQpop y0 y1 y2) := fits_event rfl rfl
theorem Fits.evScfgWrite (y0 : Agent) (y1 : Nat) (y2 : Nat) (y3 : BitVec 64) : Fits.Statement (.evScfgWrite y0 y1 y2 y3) :=
  fits_event rfl rfl
theorem Fits.evPreqWrite (y0 : Agent) (y1 : Nat) (y2 : BitVec 64) : Fits.Statement (.evPreqWrite y0 y1 y2) :=
  fits_event rfl rfl
theorem Fits.evMigrationEntryWrite (y0 : Agent) (y1 : Nat) (y2 : Nat) (y3 : BitVec 64) : Fits.Statement (.evMigrationEntryWrite y0 y1 y2 y3) :=
  fits_event rfl rfl
theorem Fits.evMigrationPull (y0 : Nat) (y1 : Nat) : Fits.Statement (.evMigrationPull y0 y1) := fits_event rfl rfl
theorem Fits.evKeyctlWrite (y0 : Agent) (y1 : Nat) (y2 : BitVec 64) : Fits.Statement (.evKeyctlWrite y0 y1 y2) :=
  fits_event rfl rfl
theorem Fits.evKeydataWrite (y0 : Agent) (y1 : Nat) (y2 : Nat) (y3 : BitVec 64) : Fits.Statement (.evKeydataWrite y0 y1 y2 y3) :=
  fits_event rfl rfl
theorem Fits.evTrapBlockWrite (y0 : Agent) (y1 : Nat) (y2 : Nat) (y3 : BitVec 64) : Fits.Statement (.evTrapBlockWrite y0 y1 y2 y3) :=
  fits_event rfl rfl
theorem Fits.evOffreqWrite (y0 : Agent) (y1 : BitVec 64) (y2 : List (List Nat)) : Fits.Statement (.evOffreqWrite y0 y1 y2) :=
  fits_event rfl rfl
theorem Fits.evEvacBlockMove (y0 : Nat) : Fits.Statement (.evEvacBlockMove y0) := fits_event rfl rfl
theorem Fits.evRlenWrite (y0 : Agent) (y1 : BitVec 64) (y2 : BootImage) : Fits.Statement (.evRlenWrite y0 y1 y2) :=
  fits_event rfl rfl
theorem Fits.evHostBar4Read (y0 : Nat) (y1 : Nat) : Fits.Statement (.evHostBar4Read y0 y1) := fits_event rfl rfl
theorem Fits.evHostBar4Write (y0 : Nat) (y1 : List (BitVec 8)) : Fits.Statement (.evHostBar4Write y0 y1) :=
  fits_event rfl rfl
theorem Fits.evPtpSync (y0 : Int) : Fits.Statement (.evPtpSync y0) := fits_event rfl rfl
theorem Fits.evSyncTimeout : Fits.Statement (.evSyncTimeout) := fits_event rfl rfl
theorem Fits.evLaneRepair (y0 : Nat) (y1 : Nat) : Fits.Statement (.evLaneRepair y0 y1) := fits_event rfl rfl
theorem Fits.evPortFailure (y0 : Nat) : Fits.Statement (.evPortFailure y0) := fits_event rfl rfl
theorem Fits.evDebugHaltEnd (y0 : Nat) : Fits.Statement (.evDebugHaltEnd y0) := fits_event rfl rfl
theorem Fits.evRetentionEnter (y0 : Nat) : Fits.Statement (.evRetentionEnter y0) := fits_event rfl rfl
theorem Fits.evRetentionLeave (y0 : Nat) : Fits.Statement (.evRetentionLeave y0) := fits_event rfl rfl
theorem Fits.evDramScrub (y0 : List (Nat × Nat × Nat)) (y1 : List Nat) : Fits.Statement (.evDramScrub y0 y1) :=
  fits_event rfl rfl
theorem Fits.evMscScrub (y0 : List (Nat × Nat × Nat)) (y1 : List Nat) : Fits.Statement (.evMscScrub y0 y1) :=
  fits_event rfl rfl
theorem Fits.evRemapReload (y0 : Nat) (y1 : Nat) (y2 : List Nat) (y3 : Bool) : Fits.Statement (.evRemapReload y0 y1 y2 y3) :=
  fits_event rfl rfl
theorem Fits.evRowSparing (y0 : Nat) (y1 : Nat) (y2 : List Nat) (y3 : Bool) : Fits.Statement (.evRowSparing y0 y1 y2 y3) :=
  fits_event rfl rfl
theorem Fits.evClusterFailure (y0 : Nat) (y1 : Nat) (y2 : List Nat) : Fits.Statement (.evClusterFailure y0 y1 y2) :=
  fits_event rfl rfl
theorem Fits.evColdReset (y0 : BootImage) (y1 : List (Nat × Nat)) (y2 : Nat) (y3 : List Nat) (y4 : BitVec 64) (y5 : Bool) : Fits.Statement (.evColdReset y0 y1 y2 y3 y4 y5) :=
  fits_event rfl rfl
theorem Fits.evWarmReset : Fits.Statement (.evWarmReset) := fits_event rfl rfl
theorem Fits.evSpdmRequest (y0 : Nat) : Fits.Statement (.evSpdmRequest y0) := fits_event rfl rfl
theorem Fits.evBlackBoxRead (y0 : Nat) (y1 : Nat) (y2 : Nat) : Fits.Statement (.evBlackBoxRead y0 y1 y2) :=
  fits_event rfl rfl
theorem Fits.evImageCheck (y0 : Nat) (y1 : CheckedImage) : Fits.Statement (.evImageCheck y0 y1) := fits_event rfl rfl
theorem Fits.evTenantConfigRequest (y0 : Nat) (y1 : List Nat) : Fits.Statement (.evTenantConfigRequest y0 y1) :=
  fits_event rfl rfl
theorem Fits.evIllegalInsn (y0 : BitVec 32) : Fits.Statement (.evIllegalInsn y0) := fits_event rfl rfl
theorem Fits.evFetchFault (y0 : BitVec 64) : Fits.Statement (.evFetchFault y0) := fits_event rfl rfl
theorem Fits.evEndOf105cAction (y0 : Nat) : Fits.Statement (.evEndOf105cAction y0) := fits_event rfl rfl
theorem Fits.evStandbyPowerLoss : Fits.Statement (.evStandbyPowerLoss) := fits_event rfl rfl
theorem Fits.evRemapRebuildEnd (y0 : Nat) (y1 : Nat) (y2 : Bool) : Fits.Statement (.evRemapRebuildEnd y0 y1 y2) :=
  fits_event rfl rfl
theorem Fits.evRetentionEntered (y0 : Nat) : Fits.Statement (.evRetentionEntered y0) := fits_event rfl rfl
theorem Fits.evResumeEntryMove (y0 : Nat) (y1 : Nat) : Fits.Statement (.evResumeEntryMove y0 y1) := fits_event rfl rfl
theorem Fits.evHaltOnBreak (y0 : Nat) (y1 : Bool) : Fits.Statement (.evHaltOnBreak y0 y1) := fits_event rfl rfl

end Sys2Proof.Laws
end

