-- ==== Sys2Proof/Laws/Words.lean ====
section
/-! SUPPORT. The static check and the meaning of a word by its fields (Static.lean, RunWord.lean) are those of the
instruction that Decode.lean reads from it. -/

namespace Sys2Proof.Machine

set_option linter.unreachableTactic false
set_option linter.unusedTactic false

/-- What a decoder reads agrees with a test `ok` and a meaning `run`: the test passes where an instruction is read that
passes its static check, and the meaning is then that instruction's. -/
def Agrees (d : Except Reject Instr) (ok : Bool) (run : State → Out) : Prop :=
  match d with
  | .ok i => ok = i.check.isNone ∧ ∀ s, run s = exec i s
  | .error _ => ok = false

theorem needs_isNone (c : Bool) (r : Reject) : (needs c r).isNone = c := by cases c <;> rfl

theorem orElse_isNone (a b : Option Reject) : (orElse a b).isNone = (a.isNone && b.isNone) := by cases a <;> cases b <;> rfl

theorem checks_two (a b : Bool) (r q : Reject) : (orElse (needs a r) (needs b q)).isNone = (a && b) := by
  cases a <;> cases b <;> rfl

theorem checks_three (a b c : Bool) (r q p : Reject) :
    (orElse (needs a r) (orElse (needs b q) (needs c p))).isNone = (a && b && c) := by
  cases a <;> cases b <;> cases c <;> rfl

theorem agrees_error {r : Reject} {run : State → Out} : Agrees (.error r) false run := rfl

theorem agrees_error_of {r : Reject} {ok : Bool} {run : State → Out} (h : ok = false) : Agrees (.error r) ok run := h

theorem agrees_ok {i : Instr} {ok : Bool} {run : State → Out} (h : i.check.isNone = ok) (e : ∀ s, run s = exec i s) :
    Agrees (.ok i) ok run := ⟨h.symm, e⟩

theorem agrees_if {c : Prop} [Decidable c] {i : Instr} {r : Reject} {run : State → Out} (h : i.check.isNone = true)
    (e : ∀ s, c → run s = exec i s) : Agrees (if c then .ok i else .error r) (decide c) run := by
  by_cases g : c
  · rw [if_pos g, decide_eq_true g]; exact ⟨h.symm, fun s => e s g⟩
  · rw [if_neg g, decide_eq_false g]; rfl

theorem agrees_ite {c : Prop} [Decidable c] {d e : Except Reject Instr} {a b : Bool} {f g : State → Out}
    (h : Agrees d a f) (k : Agrees e b g) :
    Agrees (if c then d else e) (if c then a else b) fun s => if c then f s else g s := by
  by_cases x : c
  · simpa only [if_pos x] using h
  · simpa only [if_neg x] using k

theorem agrees_if_and {c : Prop} [Decidable c] {i : Instr} {ok : Bool} {r : Reject} {run : State → Out}
    (h : i.check.isNone = ok) (e : ∀ s, c → run s = exec i s) :
    Agrees (if c then .ok i else .error r) (decide c && ok) run := by
  by_cases g : c
  · rw [if_pos g, decide_eq_true g]; exact ⟨h.symm, fun s => e s g⟩
  · rw [if_neg g, decide_eq_false g]; rfl

theorem op01_agrees (w : Nat) : Agrees (decodeOp01 w) (okOp01 w) (runOp01 w) := by
  unfold decodeOp01 okOp01
  generalize hn : w % 256 = n
  split
  all_goals try simp only
  all_goals first
    | exact agrees_if (by rfl) fun s _ => (by unfold runOp01; rw [hn]; rfl)
    | exact agrees_ok (by first | rfl | exact needs_isNone _ _ | exact checks_two _ _ _ _ | exact checks_three _ _ _ _ _ _) fun s => (by unfold runOp01; rw [hn]; first | rfl | (split <;> first | rfl | contradiction))
    | exact agrees_if_and (by first | rfl | exact needs_isNone _ _ | exact checks_two _ _ _ _ | exact checks_three _ _ _ _ _ _) fun s _ => (by unfold runOp01; rw [hn]; rfl)
    | exact agrees_error

theorem op02_agrees (w : Nat) : Agrees (decodeOp02 w) true (runOp02 w) := ⟨rfl, fun _ => rfl⟩

theorem op03_agrees (w : Nat) : Agrees (decodeOp03 w) true (runOp03 w) := ⟨rfl, fun _ => rfl⟩

theorem op04_agrees (w : Nat) : Agrees (decodeOp04 w) true (runOp04 w) := ⟨rfl, fun _ => rfl⟩

theorem op05_agrees (w : Nat) : Agrees (decodeOp05 w) true (runOp05 w) := ⟨rfl, fun _ => rfl⟩

theorem op06_agrees (w : Nat) : Agrees (decodeOp06 w) true (runOp06 w) := ⟨rfl, fun _ => rfl⟩

theorem op07_agrees (w : Nat) : Agrees (decodeOp07 w) true (runOp07 w) := ⟨rfl, fun _ => rfl⟩

theorem op08_agrees (w : Nat) : Agrees (decodeOp08 w) (okOp08 w) (runOp08 w) := by
  change Agrees _ _ fun s => runOp08 w s
  unfold decodeOp08 okOp08 runOp08
  repeat' refine agrees_ite ?_ ?_
  all_goals first
    | exact agrees_error
    | exact agrees_ok
        (by first | rfl | exact needs_isNone _ _ | exact checks_two _ _ _ _ | exact checks_three _ _ _ _ _ _)
        fun s => rfl

theorem op09_agrees (w : Nat) : Agrees (decodeOp09 w) (okOp09 w) (runOp09 w) := by
  change Agrees _ _ fun s => runOp09 w s
  unfold decodeOp09 okOp09 runOp09
  repeat' refine agrees_ite ?_ ?_
  all_goals first
    | exact agrees_error
    | exact agrees_ok
        (by first | rfl | exact needs_isNone _ _ | exact checks_two _ _ _ _ | exact checks_three _ _ _ _ _ _)
        fun s => rfl

theorem op0A_agrees (w : Nat) : Agrees (decodeOp0A w) (okOp0A w) (runOp0A w) := by
  unfold decodeOp0A okOp0A
  generalize hn : w % 256 = n
  split
  all_goals try simp only
  all_goals first
    | exact agrees_if (by rfl) fun s _ => (by unfold runOp0A; rw [hn]; rfl)
    | exact agrees_ok (by first | rfl | exact needs_isNone _ _ | exact checks_two _ _ _ _ | exact checks_three _ _ _ _ _ _) fun s => (by unfold runOp0A; rw [hn]; first | rfl | (split <;> first | rfl | contradiction))
    | exact agrees_if_and (by first | rfl | exact needs_isNone _ _ | exact checks_two _ _ _ _ | exact checks_three _ _ _ _ _ _) fun s _ => (by unfold runOp0A; rw [hn]; rfl)
    | exact agrees_error

theorem op0B_agrees (w : Nat) : Agrees (decodeOp0B w) (okOp0B w) (runOp0B w) := by
  unfold decodeOp0B okOp0B
  generalize hn : w % 128 = n
  split
  all_goals try simp only
  all_goals first
    | exact agrees_if (by rfl) fun s _ => (by unfold runOp0B; rw [hn]; rfl)
    | exact agrees_ok (by first | rfl | exact needs_isNone _ _ | exact checks_two _ _ _ _ | exact checks_three _ _ _ _ _ _) fun s => (by unfold runOp0B; rw [hn]; first | rfl | (split <;> first | rfl | contradiction))
    | exact agrees_if_and (by first | rfl | exact needs_isNone _ _ | exact checks_two _ _ _ _ | exact checks_three _ _ _ _ _ _) fun s _ => (by unfold runOp0B; rw [hn]; rfl)
    | exact agrees_error

theorem op0C_agrees (w : Nat) : Agrees (decodeOp0C w) (okOp0C w) (runOp0C w) := by
  change Agrees _ _ fun s => runOp0C w s
  unfold decodeOp0C okOp0C runOp0C
  repeat' refine agrees_ite ?_ ?_
  all_goals first
    | exact agrees_error
    | exact agrees_ok
        (by first | rfl | exact needs_isNone _ _ | exact checks_two _ _ _ _ | exact checks_three _ _ _ _ _ _)
        fun s => rfl

theorem op10_agrees (w : Nat) : Agrees (decodeOp10 w) (okOp10 w) (runOp10 w) := by
  change Agrees _ _ fun s => runOp10 w s
  unfold decodeOp10 okOp10 runOp10
  repeat' refine agrees_ite ?_ ?_
  all_goals first
    | exact agrees_error
    | exact agrees_ok
        (by first | rfl | exact needs_isNone _ _ | exact checks_two _ _ _ _ | exact checks_three _ _ _ _ _ _)
        fun s => rfl

theorem op11_agrees (w : Nat) : Agrees (decodeOp11 w) (okOp11 w) (runOp11 w) := by
  change Agrees _ _ fun s => runOp11 w s
  unfold decodeOp11 okOp11 runOp11
  repeat' refine agrees_ite ?_ ?_
  all_goals first
    | exact agrees_error
    | exact agrees_ok
        (by first | rfl | exact needs_isNone _ _ | exact checks_two _ _ _ _ | exact checks_three _ _ _ _ _ _)
        fun s => rfl

theorem op12_agrees (w : Nat) : Agrees (decodeOp12 w) (okOp12 w) (runOp12 w) := by
  change Agrees _ _ fun s => runOp12 w s
  unfold decodeOp12 okOp12 runOp12
  repeat' refine agrees_ite ?_ ?_
  all_goals first
    | exact agrees_error
    | exact agrees_ok
        (by first | rfl | exact needs_isNone _ _ | exact checks_two _ _ _ _ | exact checks_three _ _ _ _ _ _)
        fun s => rfl

theorem op13_agrees (w : Nat) : Agrees (decodeOp13 w) (okOp13 w) (runOp13 w) := by
  change Agrees _ _ fun s => runOp13 w s
  unfold decodeOp13 okOp13 runOp13
  repeat' refine agrees_ite ?_ ?_
  all_goals first
    | exact agrees_error
    | exact agrees_ok
        (by first | rfl | exact needs_isNone _ _ | exact checks_two _ _ _ _ | exact checks_three _ _ _ _ _ _)
        fun s => rfl

theorem op14_agrees (w : Nat) : Agrees (decodeOp14 w) true (runOp14 w) := ⟨rfl, fun _ => rfl⟩

theorem op15_agrees (w : Nat) : Agrees (decodeOp15 w) true (runOp15 w) := ⟨rfl, fun _ => rfl⟩

theorem op16_agrees (w : Nat) : Agrees (decodeOp16 w) (okOp16 w) (runOp16 w) := by
  unfold decodeOp16 okOp16
  generalize hn : w % 32 = n
  split
  all_goals try simp only
  all_goals first
    | exact agrees_if (by rfl) fun s _ => (by unfold runOp16; rw [hn]; rfl)
    | exact agrees_ok (by first | rfl | exact needs_isNone _ _ | exact checks_two _ _ _ _ | exact checks_three _ _ _ _ _ _) fun s => (by unfold runOp16; rw [hn]; first | rfl | (split <;> first | rfl | contradiction))
    | exact agrees_if_and (by first | rfl | exact needs_isNone _ _ | exact checks_two _ _ _ _ | exact checks_three _ _ _ _ _ _) fun s _ => (by unfold runOp16; rw [hn]; rfl)
    | exact agrees_error

theorem op17_agrees (w : Nat) : Agrees (decodeOp17 w) (okOp17 w) (runOp17 w) := by
  unfold decodeOp17 okOp17
  generalize hn : w % 32 = n
  split
  all_goals try simp only
  all_goals first
    | exact agrees_if (by rfl) fun s _ => (by unfold runOp17; rw [hn]; rfl)
    | exact agrees_ok (by first | rfl | exact needs_isNone _ _ | exact checks_two _ _ _ _ | exact checks_three _ _ _ _ _ _) fun s => (by unfold runOp17; rw [hn]; first | rfl | (split <;> first | rfl | contradiction))

theorem op18_agrees (w : Nat) : Agrees (decodeOp18 w) true (runOp18 w) := ⟨rfl, fun _ => rfl⟩

theorem op19_agrees (w : Nat) : Agrees (decodeOp19 w) true (runOp19 w) := ⟨rfl, fun _ => rfl⟩

theorem op1A_agrees (w : Nat) : Agrees (decodeOp1A w) true (runOp1A w) := ⟨rfl, fun _ => rfl⟩

theorem op1B_agrees (w : Nat) : Agrees (decodeOp1B w) true (runOp1B w) := ⟨rfl, fun _ => rfl⟩

theorem op1C_agrees (w : Nat) : Agrees (decodeOp1C w) true (runOp1C w) := ⟨rfl, fun _ => rfl⟩

theorem op1D_agrees (w : Nat) : Agrees (decodeOp1D w) true (runOp1D w) := ⟨rfl, fun _ => rfl⟩

theorem op1E_agrees (w : Nat) : Agrees (decodeOp1E w) true (runOp1E w) := ⟨rfl, fun _ => rfl⟩

theorem op1F_agrees (w : Nat) : Agrees (decodeOp1F w) true (runOp1F w) := ⟨rfl, fun _ => rfl⟩

theorem op20_agrees (w : Nat) : Agrees (decodeOp20 w) (okOp20 w) (runOp20 w) := by
  unfold decodeOp20 okOp20
  generalize hn : w % 32 = n
  split
  all_goals try simp only
  all_goals first
    | exact agrees_if (by rfl) fun s _ => (by unfold runOp20; rw [hn]; rfl)
    | exact agrees_ok (by first | rfl | exact needs_isNone _ _ | exact checks_two _ _ _ _ | exact checks_three _ _ _ _ _ _) fun s => (by unfold runOp20; rw [hn]; first | rfl | (split <;> first | rfl | contradiction))
    | exact agrees_if_and (by first | rfl | exact needs_isNone _ _ | exact checks_two _ _ _ _ | exact checks_three _ _ _ _ _ _) fun s _ => (by unfold runOp20; rw [hn]; rfl)
    | exact agrees_error

theorem op21_agrees (w : Nat) : Agrees (decodeOp21 w) (okOp21 w) (runOp21 w) := by
  unfold decodeOp21 okOp21
  generalize hn : w % 32 = n
  split
  all_goals try simp only
  all_goals first
    | exact agrees_if (by rfl) fun s _ => (by unfold runOp21; rw [hn]; rfl)
    | exact agrees_ok (by first | rfl | exact needs_isNone _ _ | exact checks_two _ _ _ _ | exact checks_three _ _ _ _ _ _) fun s => (by unfold runOp21; rw [hn]; first | rfl | (split <;> first | rfl | contradiction))
    | exact agrees_if_and (by first | rfl | exact needs_isNone _ _ | exact checks_two _ _ _ _ | exact checks_three _ _ _ _ _ _) fun s _ => (by unfold runOp21; rw [hn]; rfl)
    | exact agrees_error

theorem op22_agrees (w : Nat) : Agrees (decodeOp22 w) (okOp22 w) (runOp22 w) := by
  unfold decodeOp22 okOp22
  generalize hn : w / 2 ^ 3 % 4 = n
  split
  all_goals try simp only
  all_goals first
    | exact agrees_if (by rfl) fun s _ => (by unfold runOp22; rw [hn]; rfl)
    | exact agrees_ok (by first | rfl | exact needs_isNone _ _ | exact checks_two _ _ _ _ | exact checks_three _ _ _ _ _ _) fun s => (by unfold runOp22; rw [hn]; first | rfl | (split <;> first | rfl | contradiction))
    | exact agrees_if_and (by first | rfl | exact needs_isNone _ _ | exact checks_two _ _ _ _ | exact checks_three _ _ _ _ _ _) fun s _ => (by unfold runOp22; rw [hn]; rfl)
    | exact agrees_error
    | (split <;> first | exact agrees_error | contradiction)
    | (change Agrees _ _ fun s => runOp22 w s
       unfold runOp22
       rw [hn]
       repeat' refine agrees_ite ?_ ?_
       all_goals first
         | exact agrees_error
         | exact agrees_ok (by first | rfl | exact needs_isNone _ _ | exact checks_two _ _ _ _ | exact checks_three _ _ _ _ _ _) fun s => rfl)

theorem op23_agrees (w : Nat) : Agrees (decodeOp23 w) (okOp23 w) (runOp23 w) := by
  unfold decodeOp23 okOp23
  generalize hn : w % 32 = n
  split
  all_goals try simp only
  all_goals first
    | exact agrees_if (by rfl) fun s _ => (by unfold runOp23; rw [hn]; rfl)
    | exact agrees_ok (by first | rfl | exact needs_isNone _ _ | exact checks_two _ _ _ _ | exact checks_three _ _ _ _ _ _) fun s => (by unfold runOp23; rw [hn]; first | rfl | (split <;> first | rfl | contradiction))
    | exact agrees_if_and (by first | rfl | exact needs_isNone _ _ | exact checks_two _ _ _ _ | exact checks_three _ _ _ _ _ _) fun s _ => (by unfold runOp23; rw [hn]; rfl)
    | exact agrees_error

theorem op24_agrees (w : Nat) : Agrees (decodeOp24 w) (okOp24 w) (runOp24 w) := by
  unfold decodeOp24 okOp24
  generalize hn : w % 32 = n
  split
  all_goals try simp only
  all_goals first
    | exact agrees_if (by rfl) fun s _ => (by unfold runOp24; rw [hn]; rfl)
    | exact agrees_ok (by first | rfl | exact needs_isNone _ _ | exact checks_two _ _ _ _ | exact checks_three _ _ _ _ _ _) fun s => (by unfold runOp24; rw [hn]; first | rfl | (split <;> first | rfl | contradiction))
    | exact agrees_if_and (by first | rfl | exact needs_isNone _ _ | exact checks_two _ _ _ _ | exact checks_three _ _ _ _ _ _) fun s _ => (by unfold runOp24; rw [hn]; rfl)
    | exact agrees_error

theorem op25_agrees (w : Nat) : Agrees (decodeOp25 w) (okOp25 w) (runOp25 w) := by
  unfold decodeOp25 okOp25
  generalize hn : w % 16 = n
  split
  all_goals try simp only
  all_goals first
    | exact agrees_if (by rfl) fun s _ => (by unfold runOp25; rw [hn]; rfl)
    | exact agrees_ok (by first | rfl | exact needs_isNone _ _ | exact checks_two _ _ _ _ | exact checks_three _ _ _ _ _ _) fun s => (by unfold runOp25; rw [hn]; first | rfl | (split <;> first | rfl | contradiction))
    | exact agrees_if_and (by first | rfl | exact needs_isNone _ _ | exact checks_two _ _ _ _ | exact checks_three _ _ _ _ _ _) fun s _ => (by unfold runOp25; rw [hn]; rfl)
    | exact agrees_error

theorem op28_agrees (w : Nat) : Agrees (decodeOp28 w) (okOp28 w) (runOp28 w) := by
  unfold decodeOp28 okOp28
  generalize hn : w / 2 ^ 21 % 4 = n
  split
  all_goals try simp only
  all_goals first
    | exact agrees_if (by rfl) fun s _ => (by unfold runOp28; rw [hn]; rfl)
    | exact agrees_ok (by first | rfl | exact needs_isNone _ _ | exact checks_two _ _ _ _ | exact checks_three _ _ _ _ _ _) fun s => (by unfold runOp28; rw [hn]; first | rfl | (split <;> first | rfl | contradiction))
    | exact agrees_if_and (by first | rfl | exact needs_isNone _ _ | exact checks_two _ _ _ _ | exact checks_three _ _ _ _ _ _) fun s _ => (by unfold runOp28; rw [hn]; rfl)
    | exact agrees_error

theorem op29_agrees (w : Nat) : Agrees (decodeOp29 w) (okOp29 w) (runOp29 w) := by
  unfold decodeOp29 okOp29
  generalize hn : w / 2 ^ 21 % 4 = n
  split
  all_goals try simp only
  all_goals first
    | exact agrees_if (by rfl) fun s _ => (by unfold runOp29; rw [hn]; rfl)
    | exact agrees_ok (by first | rfl | exact needs_isNone _ _ | exact checks_two _ _ _ _ | exact checks_three _ _ _ _ _ _) fun s => (by unfold runOp29; rw [hn]; first | rfl | (split <;> first | rfl | contradiction))
    | exact agrees_if_and (by first | rfl | exact needs_isNone _ _ | exact checks_two _ _ _ _ | exact checks_three _ _ _ _ _ _) fun s _ => (by unfold runOp29; rw [hn]; rfl)
    | exact agrees_error

theorem op2A_agrees (w : Nat) : Agrees (decodeOp2A w) (okOp2A w) (runOp2A w) := by
  unfold decodeOp2A okOp2A
  generalize hn : w / 2 ^ 21 % 4 = n
  split
  all_goals try simp only
  all_goals first
    | exact agrees_if (by rfl) fun s _ => (by unfold runOp2A; rw [hn]; rfl)
    | exact agrees_ok (by first | rfl | exact needs_isNone _ _ | exact checks_two _ _ _ _ | exact checks_three _ _ _ _ _ _) fun s => (by unfold runOp2A; rw [hn]; first | rfl | (split <;> first | rfl | contradiction))
    | exact agrees_if_and (by first | rfl | exact needs_isNone _ _ | exact checks_two _ _ _ _ | exact checks_three _ _ _ _ _ _) fun s _ => (by unfold runOp2A; rw [hn]; rfl)
    | exact agrees_error

theorem op2B_agrees (w : Nat) : Agrees (decodeOp2B w) (okOp2B w) (runOp2B w) := by
  unfold decodeOp2B okOp2B
  generalize hn : w % 32 = n
  split
  all_goals try simp only
  all_goals first
    | exact agrees_if (by rfl) fun s _ => (by unfold runOp2B; rw [hn]; rfl)
    | exact agrees_ok (by first | rfl | exact needs_isNone _ _ | exact checks_two _ _ _ _ | exact checks_three _ _ _ _ _ _) fun s => (by unfold runOp2B; rw [hn]; first | rfl | (split <;> first | rfl | contradiction))
    | exact agrees_if_and (by first | rfl | exact needs_isNone _ _ | exact checks_two _ _ _ _ | exact checks_three _ _ _ _ _ _) fun s _ => (by unfold runOp2B; rw [hn]; rfl)
    | exact agrees_error

theorem op30_agrees (w : Nat) : Agrees (decodeOp30 w) (okOp30 w) (runOp30 w) := by
  unfold decodeOp30 okOp30
  generalize hn : w / 2 ^ 4 % 8 = n
  split
  all_goals try simp only
  all_goals first
    | exact agrees_if (by rfl) fun s _ => (by unfold runOp30; rw [hn]; rfl)
    | exact agrees_ok (by first | rfl | exact needs_isNone _ _ | exact checks_two _ _ _ _ | exact checks_three _ _ _ _ _ _) fun s => (by unfold runOp30; rw [hn]; first | rfl | (split <;> first | rfl | contradiction))
    | exact agrees_if_and (by first | rfl | exact needs_isNone _ _ | exact checks_two _ _ _ _ | exact checks_three _ _ _ _ _ _) fun s _ => (by unfold runOp30; rw [hn]; rfl)
    | exact agrees_error

theorem op31_agrees (w : Nat) : Agrees (decodeOp31 w) (okOp31 w) (runOp31 w) := by
  unfold decodeOp31 okOp31
  generalize hn : w / 2 ^ 4 % 8 = n
  split
  all_goals try simp only
  all_goals first
    | exact agrees_if (by rfl) fun s _ => (by unfold runOp31; rw [hn]; rfl)
    | exact agrees_ok (by first | rfl | exact needs_isNone _ _ | exact checks_two _ _ _ _ | exact checks_three _ _ _ _ _ _) fun s => (by unfold runOp31; rw [hn]; first | rfl | (split <;> first | rfl | contradiction))
    | exact agrees_if_and (by first | rfl | exact needs_isNone _ _ | exact checks_two _ _ _ _ | exact checks_three _ _ _ _ _ _) fun s _ => (by unfold runOp31; rw [hn]; rfl)
    | exact agrees_error
    | (split <;> first | exact agrees_error | contradiction)
    | (change Agrees _ _ fun s => runOp31 w s
       unfold runOp31
       rw [hn]
       repeat' refine agrees_ite ?_ ?_
       all_goals first
         | exact agrees_error
         | exact agrees_ok (by first | rfl | exact needs_isNone _ _ | exact checks_two _ _ _ _ | exact checks_three _ _ _ _ _ _) fun s => rfl)

theorem op32_agrees (w : Nat) : Agrees (decodeOp32 w) (okOp32 w) (runOp32 w) := by
  unfold decodeOp32 okOp32
  generalize hn : w % 256 = n
  split
  all_goals try simp only
  all_goals first
    | exact agrees_if (by rfl) fun s _ => (by unfold runOp32; rw [hn]; rfl)
    | exact agrees_ok (by first | rfl | exact needs_isNone _ _ | exact checks_two _ _ _ _ | exact checks_three _ _ _ _ _ _) fun s => (by unfold runOp32; rw [hn]; first | rfl | (split <;> first | rfl | contradiction))
    | exact agrees_if_and (by first | rfl | exact needs_isNone _ _ | exact checks_two _ _ _ _ | exact checks_three _ _ _ _ _ _) fun s _ => (by unfold runOp32; rw [hn]; rfl)
    | exact agrees_error

theorem op38_agrees (w : Nat) : Agrees (decodeOp38 w) (okOp38 w) (runOp38 w) := by
  unfold decodeOp38 okOp38
  generalize hn : w % 16 = n
  split
  all_goals try simp only
  all_goals first
    | exact agrees_if (by rfl) fun s _ => (by unfold runOp38; rw [hn]; rfl)
    | exact agrees_ok (by first | rfl | exact needs_isNone _ _ | exact checks_two _ _ _ _ | exact checks_three _ _ _ _ _ _) fun s => (by unfold runOp38; rw [hn]; first | rfl | (split <;> first | rfl | contradiction))
    | exact agrees_if_and (by first | rfl | exact needs_isNone _ _ | exact checks_two _ _ _ _ | exact checks_three _ _ _ _ _ _) fun s _ => (by unfold runOp38; rw [hn]; rfl)
    | exact agrees_error

theorem op3F_agrees (w v : Nat) : Agrees (decodeOp3F w v) (okOp3F w v) (runOp3F w v) := by
  unfold decodeOp3F okOp3F
  generalize hn : w / 256 % 256 = n
  split
  all_goals try simp only
  all_goals first
    | exact agrees_if (by rfl) fun s _ => (by unfold runOp3F; rw [hn]; rfl)
    | exact agrees_ok (by first | rfl | exact needs_isNone _ _ | exact checks_two _ _ _ _ | exact checks_three _ _ _ _ _ _) fun s => (by unfold runOp3F; rw [hn]; first | rfl | (split <;> first | rfl | contradiction))
    | exact agrees_if_and (by first | rfl | exact needs_isNone _ _ | exact checks_two _ _ _ _ | exact checks_three _ _ _ _ _ _) fun s _ => (by unfold runOp3F; rw [hn]; rfl)
    | exact agrees_error

/-- The decoder, the static check and the meaning of a word agree. -/
theorem word_agrees (w v : Nat) : Agrees (decodeFields w v) (okWord w v) (runWord w v) := by
  unfold decodeFields okWord runWord
  generalize w / 2 ^ 26 = n
  split
  all_goals first
    | exact agrees_error
    | exact agrees_error_of (by split <;> first | rfl | contradiction)
    | exact op01_agrees w
    | exact op02_agrees w
    | exact op03_agrees w
    | exact op04_agrees w
    | exact op05_agrees w
    | exact op06_agrees w
    | exact op07_agrees w
    | exact op08_agrees w
    | exact op09_agrees w
    | exact op0A_agrees w
    | exact op0B_agrees w
    | exact op0C_agrees w
    | exact op10_agrees w
    | exact op11_agrees w
    | exact op12_agrees w
    | exact op13_agrees w
    | exact op14_agrees w
    | exact op15_agrees w
    | exact op16_agrees w
    | exact op17_agrees w
    | exact op18_agrees w
    | exact op19_agrees w
    | exact op1A_agrees w
    | exact op1B_agrees w
    | exact op1C_agrees w
    | exact op1D_agrees w
    | exact op1E_agrees w
    | exact op1F_agrees w
    | exact op20_agrees w
    | exact op21_agrees w
    | exact op22_agrees w
    | exact op23_agrees w
    | exact op24_agrees w
    | exact op25_agrees w
    | exact op28_agrees w
    | exact op29_agrees w
    | exact op2A_agrees w
    | exact op2B_agrees w
    | exact op30_agrees w
    | exact op31_agrees w
    | exact op32_agrees w
    | exact op38_agrees w
    | exact op3F_agrees w v

/-- A word that decodes passes the test, and its meaning is the instruction's. -/
theorem decodeWord_ok {w v : Nat} {i : Instr} (h : decodeWord w v = .ok i) :
    okWord w v = true ∧ i.check = none ∧ ∀ s, runWord w v s = exec i s := by
  have a := word_agrees w v
  unfold decodeWord at h
  cases d : decodeFields w v with
  | error r => rw [d] at h; cases h
  | ok j =>
    rw [d] at h a
    simp only [passChecks] at h
    cases c : j.check with
    | some r => rw [c] at h; cases h
    | none =>
      rw [c] at h
      cases h
      exact ⟨by rw [a.1, c]; rfl, c, a.2⟩

/-- A word that passes the test decodes. -/
theorem decodeWord_of_ok {w v : Nat} (h : okWord w v = true) : ∃ i, decodeWord w v = .ok i := by
  have a := word_agrees w v
  unfold decodeWord
  cases d : decodeFields w v with
  | error r => rw [d] at a; rw [show okWord w v = false from a] at h; cases h
  | ok j =>
    rw [d] at a
    have c : j.check.isNone = true := a.1 ▸ h
    exact ⟨j, by simp only [passChecks]; rw [Option.isNone_iff_eq_none.mp c]⟩

end Sys2Proof.Machine
end

