-- ==== Sys2Proof/Tests/Slice0.lean ====
section
/-! SUPPORT. The package's own tests: words of the spec's examples decode as it lists them; each static check refuses a
term; for each statement with hypotheses a state that meets them; single steps on values of the spec's examples. -/

namespace Sys2Proof.Tests

set_option Elab.async false

open Sys2Proof Sys2Proof.Machine

/-! ### Decoding: the words are those that the spec's examples give -/

/-- The word decodes to the instruction, as a test. -/
noncomputable def isWord (e : Nat × Nat × Instr) : Bool :=
  match decodeWord e.1 e.2.1 with
  | .ok i => i == e.2.2
  | .error _ => false

/-- A list of words, their second words, and the instructions that they are. -/
theorem words_read {l : List (Nat × Nat × Instr)} (h : l.all isWord = true) :
    ∀ e ∈ l, decodeWord e.1 e.2.1 = .ok e.2.2 := fun e he => by
  have := List.all_eq_true.mp h e he
  unfold isWord at this
  split at this
  · rename_i i hi; rw [hi, eq_of_beq this]
  · cases this

/-- The word decodes to nothing for this reason, as a test. -/
noncomputable def isRefused (e : Nat × Reject) : Bool :=
  match decodeWord e.1 0 with
  | .ok _ => false
  | .error r => r == e.2

/-- A list of words, and why they are no instruction. -/
theorem words_refused {l : List (Nat × Reject)} (h : l.all isRefused = true) :
    ∀ e ∈ l, decodeWord e.1 0 = .error e.2 := fun e he => by
  have := List.all_eq_true.mp h e he
  unfold isRefused at this
  split at this
  · cases this
  · rename_i r hr; rw [hr, eq_of_beq this]

/-- 06: example words of the scalar families. -/
theorem test_decode_scalar :
    ∀ e ∈ ([(0x08A6FFFC, 0, .addi 5 6 0xFFFC), (0x20801234, 0, .lui 4 0x1234), (0x24E70203, 0, .srai 7 7 3),
      (0x04220018, 0, .clz 1 2), (0x29095005, 0, .divn 8 9 10), (0x2D8D7087, 0, .fmac 12 13 14 1),
      (0x30640016, 0, .fcvtI64F32 3 4), (0x10A08000, 0, .ori 5 0 0x8000), (0xFC200000, 0x80000000, .lim 1 0x80000000)] : List (Nat × Nat × Instr)),
      decodeWord e.1 e.2.1 = .ok e.2.2 := words_read (by decide +kernel)

/-- 16: example words of the control and work families. -/
theorem test_decode_control :
    ∀ e ∈ ([(0x68C7FFFE, 0, .blt 6 7 0xFFFE), (0x78200040, 0, .jal 1 0x40), (0x7C010000, 0, .jalr 0 1 0),
      (0xFC200200, 0x40, .callFar 1 0x40), (0xC8030000, 0, .barrArrive 3), (0xC8050003, 0, .barrWaitSpan 5),
      (0xC8000004, 0, .barrArriveGang), (0xC8032008, 0, .pause 100), (0xC8A60009, 0, .recv 5 6),
      (0xC80A2810, 0, .launch 10 5), (0xC92A4811, 0, .launchR 9 10 9), (0xC80B0012, 0, .join 11),
      (0xC8000013, 0, .gexit), (0xC8000014, 0, .yield)] : List (Nat × Nat × Instr)),
      decodeWord e.1 e.2.1 = .ok e.2.2 := words_read (by decide +kernel)

/-- 11: example words of the memory families. -/
theorem test_decode_memory :
    ∀ e ∈ ([(0x44E2FFEC, 0, .st 7 2 0x7FF 3 0), (0x508A041C, 0, .vld 4 10 32 7 0), (0x48AB1012, 0, .ldAcq 5 11 2 2),
      (0x482B1016, 0, .stRel 1 11 2 2), (0x482AA05A, 0, .stAt 1 10 20 6 2), (0x48002833, 0, .fenceSc 5),
      (0x48003039, 0, .rfence 6), (0x4CA73003, 0, .amoadd 5 7 6 1), (0x4E8A28D8, 0, .redOrdAddF32 20 10 5 6),
      (0x588D7340, 0, .vlds 4 13 14 3 2), (0x584A0185, 0, .vstm 2 10 1 4), (0x5CCAA0F7, 0, .vredOrdAdd 6 10 20 0 7 0x17),
      (0x57300414, 0, .vst 25 16 32 5 0), (0x5915C0E3, 0, .vstx 8 21 24 0 7)] : List (Nat × Nat × Instr)),
      decodeWord e.1 e.2.1 = .ok e.2.2 := words_read (by decide +kernel)

/-- 04, 07: example words of the vector and mask families. -/
theorem test_decode_vector :
    ∀ e ∈ ([(0x848862A7, 0, .vfmac 4 8 12 2 5), (0x8064305A, 0, .vclt 3 4 6 0 2), (0x890830FD, 0, .vwmul 8 8 6 0 7 5),
      (0x888200B3, 0, .vcvtmWiden 4 2 0 5 3), (0x9442E850, 0, .vaddVx 2 2 0b11101 0 2 1), (0x8C2801E3, 0, .vredsum 1 8 1 7),
      (0x90E30007, 0, .mcnt 7 3), (0x8F048040, 0, .vperm 24 4 16 0 2), (0x94AC005F, 0, .vceqVx 5 12 0 0 2 1),
      (0x8D8820EB, 0, .vsegsum 12 8 4 0 7), (0x8CC628AE, 0, .vmvv 6 6 5 5), (0x8A540085, 0, .vcvt 18 20 0 4 5)] : List (Nat × Nat × Instr)),
      decodeWord e.1 e.2.1 = .ok e.2.2 := words_read (by decide +kernel)

/-- 04, 08: example words of the matrix families. -/
theorem test_decode_matrix :
    ∀ e ∈ ([(0xA0021800, 0, .mop 0 2 3 0 0 0), (0xA4885002, 0, .mopx 1 8 10 0 0 2), (0xA3A21920, 0, .mops 7 2 3 1 1 0),
      (0xA8044A62, 0, .mopsp 0 4 9 2 3 2), (0xAAC11008, 0, .mopiSat 5 1 2 0 0 8), (0xAD94AA43, 0, .accpro 3 0 20 21 9),
      (0xAF001006, 0, .accmov 6 2), (0xAC000807, 0, .accadd 0 0 1), (0xAC0B0005, 0, .accst 0 11),
      (0xAC080008, 0, .accsave 8), (0xAC080009, 0, .accrest 8), (0xAC000000, 0, .acczero 0)] : List (Nat × Nat × Instr)),
      decodeWord e.1 e.2.1 = .ok e.2.2 := words_read (by decide +kernel)

/-- 07, 08, 21: example words of the copy and system families. -/
theorem test_decode_system :
    ∀ e ∈ ([(0xC2F8D150, 0, .cpy2M 23 24 26 2 0 0), (0xC28A9081, 0, .cpy 20 10 18 1 0 1), (0xC5E00230, 0, .sgbind 15 4 0 0),
      (0xC4150080, 0, .ccwait 21 1 0), (0xE0050012, 0, .setctl 5 1), (0xE0A60034, 0, .setvl 5 6 3),
      (0xE0A60005, 0, .setml 5 6), (0xE0064141, 0, .wrctl 6 0x414), (0xE0A08030, 0, .rdctl 5 0x803),
      (0xE0000007, 0, .eret)] : List (Nat × Nat × Instr)),
      decodeWord e.1 e.2.1 = .ok e.2.2 := words_read (by decide +kernel)

/-- The words of the statement about decoding, and words that are no instruction (R54, R55, R71, R73). -/
theorem test_decode_refused :
    ∀ e ∈ ([(0, .reservedOp), (0x34000000, .reservedOp), (0x04221900, .unusedField), (0x0422180D, .reservedFn),
      (0x2800000D, .reservedFn), (0xE0A60015, .unusedField)] : List (Nat × Reject)), decodeWord e.1 0 = .error e.2 :=
  words_refused (by decide +kernel)

/-- The encoder gives the spec's words, and the bytes of a word come least significant first (R52). -/
theorem test_encode :
    encode (.addi 5 6 0xFFFC) = [0x08A6FFFC] ∧ encode (.lim 1 7) = [0xFC200000, 7] ∧
    bytesOfWord 0x08A6FFFC = [0xFC, 0xFF, 0xA6, 0x08] ∧ decodeTableWord 32 0x7C010000 = some (.jalr 0 1 0) := by
  decide +kernel

/-! ### Static checks: one ill-formed term for each -/

/-- Reserved scope codes, type, size, format and stream codes, registers outside their class, CSR numbers that no table
assigns, a target off a word boundary, a barrier group past the last (R55 to R68). -/
theorem test_ill_formed :
    (Instr.ldAcq 1 2 11 0).check = some .reservedScope ∧ (Instr.fenceRel 31).check = some .reservedScope ∧
    (Instr.vfadd 1 2 3 0 0).check = some .reservedType ∧ (Instr.vcvtSr 1 2 0 7 7).check = some .reservedType ∧
    (Instr.vwmul 1 2 3 0 0 3).check = some .reservedType ∧ (Instr.ld 1 2 0 7 0).check = some .reservedSize ∧
    (Instr.mop 0 1 2 0 0 31).check = some .reservedFormat ∧ (Instr.cpy 1 2 4 0 0 2).check = some .reservedStream ∧
    (Instr.mand 16 0 0).check = some .badRegister ∧ (Instr.cpy 1 2 3 0 0 0).check = some .badRegister ∧
    (Instr.rdctl 1 0x002).check = some .unassignedRegister ∧ (Instr.callFar 1 2).check = some .badTarget ∧
    (Instr.barrArriveSpan 16).check = some .reservedGroup := by decide +kernel

/-- The same fields within their ranges. -/
theorem test_well_formed :
    (Instr.ldAcq 1 2 10 0).WellFormed ∧ (Instr.vfadd 1 2 3 0 5).WellFormed ∧ (Instr.mop 0 1 2 0 0 0).WellFormed ∧
    (Instr.cpy 1 2 4 0 0 1).WellFormed ∧ (Instr.mand 15 0 0).WellFormed ∧ (Instr.rdctl 1 0x419).WellFormed ∧
    (Instr.callFar 1 4).WellFormed ∧ (Instr.barrArriveSpan 15).WellFormed := by decide +kernel

/-! ### States for the witnesses -/

/-- The meaning ends with a value and a state of which `p` holds. -/
def runs {α : Type} (m : M α) (s : State) (p : α → State → Bool) : Bool :=
  match m s with
  | .ok (a, t) => p a t
  | .error _ => false

/-- Such an end exists. -/
theorem ends_of {α : Type} {m : M α} {s : State} {p : α → State → Bool} (h : runs m s p = true) :
    ∃ a t, Ends m s a t ∧ p a t = true := by
  unfold runs at h
  split at h
  · rename_i a t e; exact ⟨a, t, e, h⟩
  · cases h

/-- The meaning raises a trap of which `p` holds. -/
def raises {α : Type} (m : M α) (s : State) (p : Trap → Bool) : Bool :=
  match m s with
  | .error (.trap k _) => p k
  | _ => false

/-- The outcome is a next state of which `p` holds. -/
def goes (o : Out) (p : State → Bool) : Bool :=
  match o with
  | .next t => p t
  | _ => false

/-- A hart on core 0, in user privilege, its program at address 0 of DRAM; its RNG key is 0. -/
def placed : State :=
  let s := ({ State.reset with h := { State.reset.h with rngkey := Vector.replicate 4 0 } } : State)
  s.withFetchWord 32 0x04221800

/-- The same with the first granule of its private scratchpad and the core's accumulators its own, VL 4. -/
def ready : State :=
  let s := placed
  { s with
    h := { s.h with vl := 4 }
    core := { s.core with tags := [(0, s.h.tag)], accen := 1, accown := 0x10000 } }

/-- The same on a core of die 1, to which all of the program's DRAM is remote. -/
def afar : State := let s := ready; { s with core := { s.core with id := 400 } }

/-- Its state with a word in X[r]. -/
def at_ (r : BitVec 5) (v : Nat) : State := ready.setX r (BitVec.ofNat 64 v)

/-- The same hart in another privilege. -/
def as_ (p : Priv) : State := let s := ready; { s with h := { s.h with priv := p } }

/-! ### Scalar statements: states that meet their hypotheses -/

theorem witness_reserved_divide_code : 0x2800000D / 2 ^ 26 = 0x0A ∧ 0x0D ≤ 0x2800000D % 2 ^ 8 := by decide

theorem witness_setml_word : 0xE0A60015 / 2 ^ 26 = 0x38 ∧ 0xE0A60015 % 16 = 5 ∧ 0xE0A60015 / 2 ^ 4 % 2 ^ 12 ≠ 0 := by
  decide

theorem witness_jalr :
    ((at_ 1 8).x 1 + (0 : BitVec 16).signExtend 64).toNat % 4 = 0 ∧
    ((at_ 1 6).x 1 + (0 : BitVec 16).signExtend 64).toNat % 4 ≠ 0 := by decide +kernel

/-- With FTE 0 every result is quiet. -/
theorem witness_quiet (fl : Flags) : State.reset.quiet fl := by
  have h : State.reset.fte = 0 := by decide +kernel
  simp [State.quiet, h]

/-- FSQRT of -1 with NV enabled. -/
def strict : State := let s := at_ 1 0xBF800000; { s with h := { s.h with fcsr := 0x7C00 } }

theorem witness_enabled_flag :
    strict.h.xSettled = true ∧ ¬strict.quiet (Fmt.f32.root strict.rm strict.sat (Fmt.f32.value ((strict.x 1).toNat % 2 ^ 32))).2 := by
  unfold State.quiet; decide +kernel

/-- Element 1 adds +∞ and -∞, element 0 adds zeros; every flag is enabled. -/
def strictV : State :=
  let s := strict
  { s with h := { s.h with v := (s.h.v.set 1 0x7F80000000000000).set 2 0xFF80000000000000 } }

theorem witness_enabled_element :
    let r (i : Nat) := Fmt.f32.sum 0 false [Fmt.f32.value (strictV.elem 1 32 i), Fmt.f32.value (strictV.elem 2 32 i)]
    groupsOk strictV.vlen (some (3, 32)) [(1, 32), (2, 32)] = true ∧ strictV.h.vdq = [] ∧ strictV.vFree = true ∧
    strictV.h.xSettled = true ∧ 1 ∈ strictV.active 0 ∧ strictV.fte = 0x1F ∧ (r 0).2 = 0 ∧ (r 1).2 ≠ 0 := by decide +kernel

/-- The own private scratchpad, at its first dword and at the last of its first granule: nothing stands in the way. -/
theorem witness_own :
    ready.Own windowBase 8 ∧ ready.OwnWrite windowBase 8 ∧ ready.OwnWrite (windowBase + 4092) 4 ∧ ready.h.placing = false ∧
    Memory.wf ready.mem = true := by
  unfold State.OwnWrite State.Own State.here; decide +kernel

/-- Loads: performed in the step that issues them, of the own scratchpad and of the program's own word, with acquire and
without; and one whose home is another die's. -/
theorem witness_loads :
    let here (s : State) (scope : Option Nat) (va n : Nat) (p : List Byte → Bool) : Bool :=
      runs (leavingLoad false (BitVec.ofNat 64 va) va n) s fun ts u =>
        ts.isEmpty && runs (loadBytes scope (BitVec.ofNat 64 va) va n) u fun bs _ => p bs
    here ready none windowBase 8 (· == List.replicate 8 0) = true ∧
    here ready (some 2) (windowBase + 4088) 8 (·.length == 8) = true ∧
    here ready none 0 4 (natOf · == 0x04221800) = true ∧
    (∀ i < 4, windowOf ready.h (ready.gang? ready.h.gang) i = .outside) ∧ ready.pkg.migrating = false ∧
    runs (leavingLoad false 0x1000 0x1000 8) afar (fun ts _ => ts.length == 1) = true ∧
    goes (exec (.ld 3 1 0 3 0) (afar.setX 1 0x1000)) (fun t => t.pkg.net.length == 1 && t.h.pend.length == 1 && t.h.pc == 4) = true := by
  decide +kernel

theorem witness_store_room : ready.h.sb.length < 32 ∧ ready.h.placing = false ∧ (ready.x 0).toNat % 8 = 0 := by decide +kernel

theorem witness_fences : ready.applied ∧ ready.batchesClosed ∧ ready.h.pend = [] := by
  unfold State.applied State.settled State.batchesClosed; decide +kernel

/-- Timed loads, atomics, reductions and ordered reductions of DRAM: each access resolves, to a home of the package. -/
theorem witness_resolved :
    let free (n : Nat) (t : Target) (u : State) : Bool :=
      decide (t.loc < 2 ^ 63) && t.spot.isNone && u.clearOf u.h.ident t.loc n
    runs (resolve ready.who .load 0x06 0x4000 0x4000) ready (free 4) = true ∧
    runs (resolve ready.who .atomic 0x08 0x4000 0x4000) ready (free 4) = true ∧ ready.h.sb = [] ∧
    goes (exec (.ldNb 3 1 0 2) (at_ 1 0x4000)) (fun t => t.pkg.net.length == 1 && t.h.pend.length == 1) = true ∧
    goes (exec (.redadd 1 0 0) (at_ 1 0x4000)) (fun t => t.pkg.net.length == 1) = true := by decide +kernel

/-- Atomics performed in the step that issues them, an integer sum that wraps and a floating one that raises nothing; and
one whose home is another die's. -/
theorem witness_atomics :
    let here (o : AtomicOp) (va v : Nat) (p : Nat × Flags → Bool) : Bool :=
      runs (resolveAtomic o (BitVec.ofNat 64 va) va) ready fun x u => !u.sendsOff x 4 &&
        runs (atomicHere o u.seen (BitVec.ofNat 64 va) x va v 0) u fun r _ => p r
    here (ready.atomicOp 1 0) windowBase 0xFFFFFFFF (· == (0, 0)) = true ∧ bit ready.h.fcsr 20 = false ∧
    here (ready.ndet.atomicOp 10 0) (windowBase + 8) 0x3F800000 (·.2 == 0) = true ∧
    runs (resolveAtomic (ready.atomicOp 1 0) 0x1000 0x1000) afar (fun x u => u.sendsOff x 4) = true ∧
    goes (exec (.amoadd 3 1 1 0) (afar.setX 1 0x1000)) (fun t => t.pkg.net.length == 1) = true ∧
    goes (exec (.amoadd 3 1 1 0) (at_ 1 windowBase)) (fun t => t.h.pc == 4 && t.pkg.net.isEmpty) = true := by decide +kernel

/-- Reductions in the own scratchpad, plain and ordered. -/
theorem witness_reductions :
    runs (reduce (ready.atomicOp 1 1) false ready.seen (BitVec.ofNat 64 windowBase) 5) ready (fun r _ => r == 0) = true ∧
    runs (reduceOrdered ⟨1, false, 32, false, 0, false⟩ 6 (BitVec.ofNat 64 windowBase) (BitVec.ofNat 64 windowBase) 0 100 5)
      ready (fun _ t => t.pkg.net.length == 1) = true := by decide +kernel

/-! ### Control registers, traps, barriers, work -/

/-- Each class of CSR access: permitted, above the map, above the privilege, of a register that nobody writes. -/
theorem witness_csr :
    csrRefusal 0x001 false .user = none ∧ csrRefusal 0x001 true .user = none ∧ csrRefusal 0x804 true .supervisor = none ∧
    ready.h.vdq = [] ∧ bit ready.core.accen 0 = true ∧ bit ready.core.accown 16 = true ∧
    bits ready.core.accown 0 16 = bits ready.h.ctxid 0 16 ∧ ready.h.xSettled = true ∧ ready.h.priv = .user ∧
    (as_ .supervisor).h.priv ≠ .machine := by decide +kernel

/-- Trap entries from user and from supervisor privilege: the frames lie in DRAM of the package. -/
theorem witness_trap_entry :
    ∀ p ∈ [Priv.user, .supervisor], let s := as_ p
    s.h.priv ≠ .machine ∧ s.h.xSettled = true ∧ Memory.wf s.mem = true ∧
    (s.putDwords (s.frameAt (p != .user)) s.h.frame).isSome = true ∧
    ∀ i < 288, s.pkg.ownDram (s.frameAt (p != .user) + i) = some (dramLoc 0 0 + s.frameAt (p != .user) + i) := by
  decide +kernel

theorem witness_trap_value : ((0x0F : Nat) < 256) ∧ (ready.pkg.die 0).haltOnBreak = false ∧
    (((ready.pkg.onDie 0 fun d => { d with haltOnBreak := true }).die 0).haltOnBreak = true) := by decide +kernel

/-- The frames of both privileges are DRAM of the package, where trap and ebreak enter. -/
theorem witness_trap_instructions :
    ∀ p ∈ [Priv.user, .supervisor], let s := as_ p
    s.h.priv ≠ .machine ∧ s.h.xSettled = true ∧ s.pkg.migrating = false ∧
    ∀ i < 36, (s.pkg.ownDram (s.frameAt (s.h.priv != .user) + 8 * i)).isSome = true := by decide +kernel

/-- A return from supervisor and from machine privilege. -/
theorem witness_eret :
    ∀ p ∈ [Priv.supervisor, .machine], let s := as_ p
    s.h.priv ≠ .user ∧ bits s.h.estat 0 2 ≤ s.h.priv.code ∧ s.applied ∧ s.h.vdq = [] ∧
    s.h.xSettled = true ∧ s.h.dying = false ∧ (s.physDwords (s.frameAt (p == .machine)) 36).isSome = true := by
  unfold State.applied State.settled; decide +kernel

/-- Misaligned addresses; user privilege; a core that is no member; leads of 0 and of 3; a group of registers that does
not fit; accumulators disabled, not owned, another context's. -/
theorem witness_misuse :
    ((at_ 1 9).x 1).toNat % 2 ≠ 0 ∧ ((at_ 1 12).x 1).toNat % 8 ≠ 0 ∧ ready.h.xSettled = true ∧
    maskHas (ready.group 5).members ready.core.id = false ∧ ready.h.arr 48 = ready.h.wt 48 ∧
    (let s := ready; let h := ((s.h.arrived 48).arrived 48).arrived 48; (h.arr 48 + 4 - h.wt 48) % 4 = 3) ∧
    groupsOk 256 (some (31, 32)) [(1, 32), (2, 32)] = false ∧
    bit (0 : Dword) 0 = false ∧ bit placed.core.accown 16 = false ∧ bits (0x10001 : Dword) 0 16 ≠ bits ready.h.ctxid 0 16 := by
  decide +kernel

/-- The core a member of group 3 and of spanning group 5, which the die knows. -/
def member : State :=
  let s := ready
  let p := ((s.pkg.setCtl (offSpan 0 5 0) 3).setCtl (offSpan 0 5 1) 1).setCtl (offSpan 0 5 2) 0x1000000000001
  let p := p.onDie 0 fun d => { d with groups := [(3, ⟨0x1000000000001, 0x1000000000001, [], 0, [], []⟩)] }
  { s with pkg := p }

theorem witness_arrivals :
    let s := member
    (s.h.arr 3 + 4 - s.h.wt 3) % 4 ≠ 3 ∧ (s.h.arr 37 + 4 - s.h.wt 37) % 4 ≠ 3 ∧ (s.h.arr 48 + 4 - s.h.wt 48) % 4 ≠ 3 ∧
    s.h.vdq = [] ∧ s.settled ∧ s.batchesClosed ∧ s.h.pend = [] ∧
    maskHas (s.group 3).members s.core.id = true ∧ s.pkg.spanMember s.core.id 5 = true := by
  unfold State.settled State.batchesClosed; decide +kernel

/-- Group 3, spanning group 5 and the gang, each with phase 0 complete and the hart's arrival at it made. -/
def released : State :=
  let s := member
  let p := s.pkg.onDie 0 fun d => { d with
    groups := [(3, ⟨0x1000000000001, 0x1000000000001, [], 1, [(0, 0)], []⟩)]
    spans := [(5, ⟨[], [], [], [(0, 0)], 1, 1, []⟩)] }
  let p := { p with time := 990, gangs := p.gangs.map fun g => { g with phases := 1, doneAt := [(0, 0)] } }
  { s with pkg := p, h := ((s.h.arrived 3).arrived 37).arrived 48 }

theorem witness_waits :
    let s := released
    let d := s.pkg.die (dieOfCore s.core.id)
    maskHas (s.group 3).members s.core.id = true ∧ s.h.arr 3 ≠ s.h.wt 3 ∧ phaseDone (s.group 3).phases (s.h.wt 3) = true ∧
    tableGet (s.group 3).doneAt (phaseBack (s.group 3).phases (s.h.wt 3)) = some 0 ∧ 0 < s.pkg.time ∧
    ((s.gang? s.h.gang).any fun x => phaseDone x.phases (s.h.wt 48) &&
      tableGet x.doneAt (phaseBack x.phases (s.h.wt 48)) == some 0) = true ∧ s.h.arr 48 ≠ s.h.wt 48 ∧
    s.pkg.spanMember s.core.id 5 = true ∧ s.h.arr 37 ≠ s.h.wt 37 ∧ phaseDone (d.span 5).phases (s.h.wt 37) = true ∧
    (tableGet (d.span 5).releases (phaseBack (d.span 5).phases (s.h.wt 37))).getD 0 = 0 ∧
    s.pkg.time < 990 * 0 - s.pkg.gtShift + stepPeriod d.step := by decide +kernel

/-- The hart at its wait, where no phase of group 3 and of the gang is complete: it goes on waiting. -/
theorem witness_waiting :
    let s : State := { member with h := { (member.h.arrived 3).arrived 48 with atWait := true } }
    s.h.arr 3 ≠ s.h.wt 3 ∧ phaseDone (s.group 3).phases (s.h.wt 3) = false ∧ s.h.arr 48 ≠ s.h.wt 48 ∧
    ((s.gang? s.h.gang).any fun x => !phaseDone x.phases (s.h.wt 48)) = true ∧
    goes (exec (.barrWait 3) s) (fun t => decide (t = s)) = true ∧
    goes (exec .barrWaitGang s) (fun t => decide (t = s)) = true := by decide +kernel

/-- Queue 0 of die 0 enabled with a ring of 16 records, a record for one hart at 64 in the scratchpad and the page of
queue 0 at 2^30, a join block with count 5 at 0x4000 of DRAM, a partition of 64 KiB with TAIL 1 and HEAD 0. -/
def open_ : State :=
  let s := ready
  let own := s.pkg.number * 2 ^ 42
  let p := (s.pkg.setCtl (offQueue 0 0) (BitVec.ofNat 64 (own + 2 ^ 30 + 0x900000))).setCtl (offQueue 0 1) 0x43
  let p := { p with
    gangs := p.gangs.map fun g => { g with part := 1, units := [0], gslot := some 0 }
    clusters := [(0, ⟨[(0, ⟨0, 0, false⟩)], [0], []⟩)] }
  let s : State := { s with pkg := p }
  let s := s.putBytes (privLoc 0 102) [1]
  let s := s.putBytes (clusLoc 0 0) [1]
  let s := s.putBytes (dramLoc 0 0x4000) (bytesOf 8 5)
  s.putBytes (dramLoc 0 (2 ^ 30 + 0x801008)) (bytesOf 8 (0x1E1 + own + queueWindow))

/-- A trap at machine privilege, where the gang can be ended, and where the hart that is placed next has its save area out
of reach. -/
theorem witness_double_trap :
    let u (s : State) : State := { s with
      pkg := s.pkg.logEvent (dieOfCore s.core.id) 0x0E s.core.id 0 0, h := { s.h with status := .exited, dying := true } }
    let s := as_ .machine
    let q := open_.putBytes (dramLoc 0 (2 ^ 30 + 0x900000)) (recBytes (BitVec.ofNat 512 (2 ^ 304)))
    let t : State := { q with
      h := { q.h with priv := .machine }, pkg := (q.pkg.setCtl (offTrap 0 false 2) 0x7000000000000).setCtl (offQueue 0 3) 1 }
    s.h.priv = .machine ∧ ((u s).killGang s.h.gang none).isSome = true ∧ t.h.priv = .machine ∧
    ((u t).killGang t.h.gang none).isNone = true := by decide +kernel

theorem witness_recv :
    windowOf open_.h (open_.gang? open_.h.gang) partitionBase = .spot (.part 1 0) ∧
    (∃ x t, Ends (loadBytes (some 3) (BitVec.ofNat 64 partitionBase) partitionBase 8) open_ x t ∧
      (natOf x % 2 ^ 32 == 1) = true) ∧
    (∃ y u, Ends (loadBytes none (BitVec.ofNat 64 partitionBase + 8) (partitionBase + 8) 8) open_ y u ∧
      (natOf y % 2 ^ 32 == 0) = true) :=
  ⟨by decide +kernel, ends_of (by decide +kernel), ends_of (by decide +kernel)⟩

/-- The partition's first granule is the gang's, and nothing stands in the way of TAIL and HEAD. -/
theorem witness_recv_own :
    let s := open_.setX 1 (BitVec.ofNat 64 partitionBase)
    let loc := clusLoc 0 0
    partitionBase % 64 = 0 ∧ s.h.sb = [] ∧ s.mine s.h.ident = [] ∧ s.pkg.held? loc 16 = false ∧ s.pkg.poisoned loc 16 = false ∧
    ((s.gang? s.h.gang).any fun g => decide (16 ≤ g.partSize) && g.partLoc 0 == loc &&
      tableGet (s.pkg.cluster g.cluster).tags ((g.partLoc 0 - clusLoc g.cluster 0) / 4096) == some g.tagOf) = true ∧
    partitionBase + 16 ≤ windowBase + 2 ^ 32 ∧ natOf (s.getBytes loc 8) ≠ natOf (s.getBytes (loc + 8) 8) ∧
    goes (exec (.recv 5 1) s) (fun t => t.x 5 == 1) = true := by decide +kernel

/-- A record in the own scratchpad for queue 0, which admits it; the L1 TLB holds the queue's page and a page of DRAM. -/
def mapped : State := (((open_.translate open_.who .store (2 ^ 30)).2.translate open_.who .atomic 0x4000).2.setX 1
  (BitVec.ofNat 64 (windowBase + 64))).setX 2 (2 ^ 30)

theorem witness_launch :
    let s := mapped
    let maps (want : Want) (va : Nat) (at_ : Place) : Bool := (s.core.tlb.find? (·.covers s.who va)).any fun e =>
      !e.rc && s.pkg.place (e.pbase + (va - e.vbase)) == at_ &&
      match s.checkAccess s.who e want (e.pbase + (va - e.vbase)) with
      | .ok _ => true
      | .error _ => false
    (∀ i < 8, s.Own (windowBase + 64 + 8 * i) 8) ∧ maps .store (2 ^ 30) (.queue s.pkg.number 0) = true ∧
    maps .atomic 0x4000 (.dram (dramLoc 0 0x4000) 0) = true ∧
    (let t := s.ownRead (windowBase + 64) 8
     let r := BitVec.ofNat 512 (natOf ((List.range 8).flatMap fun i => s.getBytes (s.ownLoc (windowBase + 64 + 8 * i)) 8))
     t.h.pend = [] ∧ t.settled ∧ bits (t.pkg.qcfg 0) 16 12 = bits t.h.tid 0 12 ∧ t.pkg.qcheck 0 r false = 0 ∧
     ((({ t with h := t.h.released } : State).accept 0 r t.h.released.clock).select 0).isSome = true) ∧
    goes (exec (.launch 1 5) s) (fun t => t.x 5 == 0 && t.pkg.gangs.length == 2) = true ∧
    goes (exec (.launchR 2 1 5) s) (fun t => t.pkg.gangs.length == 2) = true := by
  unfold State.Own State.settled; decide +kernel

theorem witness_launch_read :
    runs (readRecord (BitVec.ofNat 64 (windowBase + 64))) open_ (fun r t => t.pkg.qcheck 0 r false == 0) = true ∧
    windowOf open_.h (open_.gang? open_.h.gang) (2 ^ 30) = .outside ∧
    (match (open_.translate open_.who .store (2 ^ 30)).1 with
      | .ok (pa, _) => open_.pkg.place pa == .queue open_.pkg.number 0
      | .error _ => false) = true := by decide +kernel

theorem witness_join :
    let s := mapped.setX 3 0x4000
    let loc := dramLoc 0 0x4000
    loc < 2 ^ 42 ∧ s.pkg.migrating = false ∧ s.h.pend = [] ∧ s.settled ∧ s.pkg.held? loc 16 = false ∧
    s.pkg.held? (loc + 64) 64 = false ∧ s.joinPoison loc = none ∧ Memory.wf s.mem = true ∧
    1 < signExtend (natOf (s.getBytes loc 8)) 64 ∧
    (({ s with h := s.h.released } : State).joinAt (bits s.h.tid 0 12) s.core.secure loc s.h.released.clock).isSome = true ∧
    goes (exec (.join 3) s) (fun t => t.getBytes loc 8 == bytesOf 8 4 && t.h.pc == 4) = true := by
  unfold State.settled; decide +kernel

/-- A second hart of the gang, on core 1, whose window the first subscribes to. -/
def pair : State :=
  let s := ready
  let h := { s.h with gidx := 1, slot := 1 }
  { s with rest := [({ s.core with id := 1, tags := [(0, h.tag)] }, h)] }

/-- A hart that ends, alone in its gang and with another of the gang still there. -/
theorem witness_gexit :
    ∀ s ∈ [ready, pair],
    s.h.sb = [] ∧ s.h.subs = Vector.replicate 16 none ∧ s.h.pubs = Vector.replicate 16 none ∧ s.mine s.h.ident = [] ∧
    s.owed s.h.ident = 0 ∧ s.h.vdq = [] ∧ s.pkg.copies = [] ∧
    (((({ s with h := { s.h with status := .exited, instret := s.h.instret + 1 } } : State).settleBarrier
      s.h.gang).settleGang s.h.gang)).isSome = true ∧
    goes (exec .gexit s) (fun t => t.pkg.gangs.length + t.rest.length ≤ 2) = true ∧
    (∀ e ∈ pair.rest, e.1.id ≠ pair.core.id ∧ e.2.present = true ∧ e.2.gang = pair.h.gang ∧ e.2.status ≠ .exited) := by
  decide +kernel

theorem witness_sub :
    let s := pair
    let b : Dword := BitVec.ofNat 64 ((s.h.hartid + 1) * 2 ^ 24)
    let a : Dword := BitVec.ofNat 64 windowBase
    ∃ pub, s.harts.find? (fun k => k.hartid == bits b 24 35) = some pub ∧
      s.h.vdq = [] ∧ s.subOwn 0 a b 64 = 0 ∧ s.localRegion a 64 = some (false, 0) ∧ pub.hartid ≠ s.h.hartid ∧
      bits pub.tid 0 12 = bits s.h.tid 0 12 ∧ pub.poolSecure = s.h.poolSecure ∧
      bits b 0 22 + 64 ≤ s.windowSize pub (bit b 22) ∧ pub.pubFor (bit b 22) 0 64 = some 0 ∧
      ∃ x t, Ends (snapshot pub s.h (bit b 22) 0 false 0 1) s x t ∧
        ((t.onHart pub.ident (Hart.addSubscriber 0 (bit b 22) 0 64 ⟨s.h.ident, 0, none, false⟩)).isSome) = true :=
  ⟨{ ready.h with gidx := 1, slot := 1 }, by decide +kernel, by decide +kernel, by decide +kernel, by decide +kernel,
    by decide +kernel, by decide +kernel, by decide +kernel, by decide +kernel, by decide +kernel, ends_of (by decide +kernel)⟩

/-- A subscription to the other hart of the gang and one of its own, with nothing open and no update on its way. -/
theorem witness_unsub :
    let y : SubEntry := ⟨false, 64, 64, 9, false, 0⟩
    let e : PubEntry := ⟨false, 0, 64, [⟨9, 3, none, false⟩]⟩
    let s : State := { pair with h := { pair.h with subs := pair.h.subs.set 0 (some y), pubs := pair.h.pubs.set 0 (some e) } }
    s.here ∧ (s.coreOf 9).isSome = true ∧ s.updatesTo s.h.ident 0 = false ∧ s.updatesOf e = false ∧
    ((s.hart? 9).any fun p => p.pubs == Vector.replicate 16 none) = true ∧
    goes (exec (.unsub 0 0) s) (fun t => t.h.subs == Vector.replicate 16 none && t.h.pc == 4) = true ∧
    goes (exec (.unsubPub 0 0) s) (fun t => t.h.pubs == Vector.replicate 16 none && t.h.pc == 4) = true := by
  unfold State.here; decide +kernel

theorem witness_subs_quiet :
    let s := ready
    s.h.subs.getD 0 none = none ∧ s.h.pubs.getD 15 none = none ∧ s.h.vdq = [] ∧ s.h.sb = [] ∧ s.batchesClosed ∧
    s.updatesOut s.h.ident = false := by unfold State.batchesClosed; decide +kernel

theorem witness_vdq_room : ready.h.vdq.length < 32 ∧ bit ready.h.fcsr 20 = false ∧ ready.vFree = true := by decide +kernel

/-- A graph image of one node that passes i32 elements on, at 0x8000 of DRAM (R283, R286). -/
def imageWord : Nat := 1 + 16 * 2 ^ 8 + 63 * 2 ^ 14 + 4 * 2 ^ 20
def graphed : State := (ready.putBytes (dramLoc 0 0x8000) (bytesOf 8 imageWord)).putBytes (dramLoc 0 0x8080) [4]
def image : BitVec 2048 := BitVec.ofNat 2048 (imageWord + 4 * 2 ^ 1024)

/-- A counter that is reached, and a stream image read from DRAM that a read and a write graph may be. -/
theorem witness_counters :
    graphed.h.vdq = [] ∧ (bits (graphed.h.cc.getD 0 0) 0 32 + 2 ^ 32 - 0) % 2 ^ 32 < 2 ^ 31 ∧
    ((0x8000 : Nat) % 256 = 0 ∧ (graphOf image).valid 0 = true ∧ (graphOf image).valid 1 = true) ∧
    (∃ bs t, Ends ((List.range 32).mapM fun i => loadBytes none (0x8000 + BitVec.ofNat 64 (8 * i))
      (0x8000 + 8 * i) 8) graphed bs t ∧ (BitVec.ofNat 2048 (natOf bs.flatten) == image) = true) :=
  ⟨by decide +kernel, by decide +kernel, by decide +kernel, ends_of (by decide +kernel)⟩

/-- The same image at the start of the own scratchpad. -/
theorem witness_own_image :
    let s := ((ready.putBytes (privLoc 0 0) (bytesOf 8 imageWord)).putBytes (privLoc 0 128) [4]).setX 1 (BitVec.ofNat 64 windowBase)
    windowBase % 256 = 0 ∧ (∀ i < 32, s.Own (windowBase + 8 * i) 8) ∧ s.h.vdq = [] ∧
    BitVec.ofNat 2048 (natOf ((List.range 32).flatMap fun i => s.getBytes (s.ownLoc (windowBase + 8 * i)) 8)) = image ∧
    goes (exec (.sgbind 1 2 0 0) s) (fun t => (tableGet t.pkg.streams 0).any fun l => l.map (·.1) == [2]) = true := by
  unfold State.Own; decide +kernel

/-! ### System instructions -/

/-- In supervisor privilege, with a notice on the gang's core and without; with the CTXID word of its own context. -/
theorem witness_preempt_gkill :
    let s := as_ .supervisor
    let t : State := { s with h := { s.h with notice := true } }
    s.h.priv ≠ .user ∧ (∀ e ∈ s.cores, e.2.present = true → e.2.gang = s.h.gang → e.2.notice = false) ∧
    (∃ e ∈ t.cores, e.2.present = true ∧ e.2.gang = t.h.gang ∧ e.2.notice = true) ∧
    (t.retire.clearNotice t.h.gang).isSome = true ∧
    (s.contextDesc 0).any (fun c => c.tid == bits s.h.tid 0 12) = true ∧
    s.named 0xFFFFFFFF = [] ∧ (s.named 0).map (fun g => g.killed) = [false] ∧
    ((s.killGang 1 (some 0)).any fun w => (w.named 0).all fun k => !k.discard && k.phase != .parking && !w.issuing k) = true := by decide +kernel

theorem witness_system :
    let s := as_ .machine
    s.h.vdq = [] ∧ s.applied ∧ s.h.sb = [] ∧ s.h.placing = false ∧ s.h.sfq = [] ∧ s.h.pend = [] ∧ s.h.priv = .machine ∧
    ((invalOf 0).any fun k => (s.dropTranslations k).noneUses k) = true ∧
    bits (5 : Dword) 0 16 < 0xFFF0 ∧ bits (5 : Dword) 17 15 = 0 ∧ s.pkg.copies = [] := by
  unfold State.applied State.settled; decide +kernel

/-! ### Vector and matrix instructions -/

/-- Groups of each width at VL 4 and at VL 256, and the largest group that fits (R69); VL is 128 at most for dwords. -/
theorem witness_groups :
    (∀ w ∈ [4, 6, 8, 16, 32, 64], groupsOk ready.vlen (some (1, w)) [(2, w), (3, w)] = true ∧ oneOk ready.vlen 1 [(2, w)] = true) ∧
    groupsOk 256 (some (8, 32)) [(0, 32), (24, 32)] = true ∧ groupsOk 128 (some (8, 64)) [(16, 64)] = true ∧
    groupsOk 256 none [(0, 16), (28, 16)] = true ∧ ready.h.vdq = [] ∧ ready.vFree = true ∧
    ready.active 0 = [0, 1, 2, 3] ∧ ready.vstartN = 0 := by decide +kernel

/-- The trees of the reductions over lists with and without absent leaves. -/
theorem witness_leaves :
    (List.replicate 256 (some 3)).length = 256 ∧ (List.replicate 256 (none : Option Nat)).length = 256 ∧ 3 < 2 ^ 8 := by
  decide +kernel

/-- Draws from a seeded generator and, with DET 0, from one that is not. -/
theorem witness_draws : bit ready.h.rngctr 63 = false ∧ bit ready.h.fcsr 20 = false := by decide +kernel

/-- The VDQ holds an entry, so that a vector instruction passes into it. -/
theorem witness_queues :
    let s : State := { ready with h := { ready.h with vdq := [.ccset 0 0] } }
    groupsOk s.vlen (some (1, 32)) [(2, 32)] = true ∧ s.h.head = none ∧ s.h.vdq ≠ [] ∧ s.h.vdq.length < 32 ∧
    goes (exec (.vld 1 2 0 2 0) s) (fun t => t.h.vdq.length == 2 && t.h.pc == 4 && t.h.instret == 1) = true ∧
    goes (exec (.vst 1 2 0 2 0) s) (fun t => t.h.vdq.length == 2 && t.h.pc == 4) = true := by decide +kernel

/-- Elements moved to and from the own scratchpad, plain, timed, gathered and packed, each after its checks. -/
theorem witness_vector_memory :
    let va : Dword := BitVec.ofNat 64 windowBase
    let whole (chk : Nat → M Unit) (m : Nat → Nat → M Unit) : Bool :=
      runs (vecElems chk (m ready.seen) (ready.active 0)) ready fun r _ => r.isNone
    let time (want : Want) (cause i : Nat) : M Unit := checkTimed want cause 32 (contiguous 0x4000 4 i)
    ready.h.sb = [] ∧
    whole (checkElem .load 0x06 (contiguous va 4) 4) (loadElem 1 32 (contiguous va 4)) = true ∧
    whole (checkElem .store 0x07 (strided va 8) 4) (storeElem 1 32 (strided va 8)) = true ∧
    whole (checkElem .load 0x06 (nibbleAddr va) 1) (loadNibble 1 va) = true ∧
    whole (checkElem .store 0x07 (nibbleAddr va) 1) (storeNibble 1 va) = true ∧
    whole (time .load 0x06) (sendLoadElem 1 32 0x4000 50) = true ∧
    whole (time .store 0x07) (sendStoreElem 1 32 6 0x4000 50) = true ∧
    whole (time .atomic 0x08) (sendReduceElem (ready.vecAtomicOp 1 2) 6 1 0x4000 50) = true ∧
    goes (exec (.vld 2 1 0 2 0) (at_ 1 windowBase)) (fun t => t.h.pc == 4 && t.h.vdq.isEmpty) = true := by decide +kernel

/-- An append pointer at the window's start that holds the address of its ninth byte; no element active. -/
def appending : State := ready.putBytes (privLoc 0 0) (bytesOf 8 (windowBase + 64))

theorem witness_append :
    windowEnd appending.h (appending.gang? appending.h.gang) windowBase = some (windowBase, windowBase + privateSize) ∧
    appending.active 1 = [] ∧ appending.active 0 ≠ [] ∧ windowBase % 8 = 0 ∧
    (∃ r t, Ends (atomic ⟨1, false, 64, false, 0, false⟩ (BitVec.ofNat 64 windowBase) windowBase 16 0) appending r t ∧
      (r.1 == windowBase + 64) = true) ∧
    (∃ x t, Ends (appendElems 1 32 appending.seen (BitVec.ofNat 64 (windowBase + 64)) 0 [0, 1, 2, 3]) appending x t ∧ true = true) :=
  ⟨by decide +kernel, by decide +kernel, by decide +kernel, by decide +kernel, ends_of (by decide +kernel),
    ends_of (by decide +kernel)⟩

/-- Vector atomics of the own scratchpad, with results and without; and of another die, which are sent. -/
theorem witness_vector_atomics :
    let addr := ready.indexed (BitVec.ofNat 64 windowBase) 4
    let o := ready.vecAtomicOp 1 2
    groupsOk ready.vlen (some (1, 32)) [(4, 32)] = true ∧ groupsOk ready.vlen none [(1, 32), (4, 32)] = true ∧
    runs (atomicElems o false addr (amoElem o 1 addr) [0, 1]) ready (fun x t => x == (0, none) && t.h.waitTags.isEmpty) = true ∧
    runs (atomicElems o true addr (redElem o 1 addr) [0, 1]) ready (fun x _ => x == (0, none)) = true ∧
    (let far := afar.indexed 0x1000 4
     runs (atomicElems o false far (amoElem o 1 far) [0, 1]) afar (fun x t => x == (0, none) && t.h.waitTags.length == 2) = true) := by
  decide +kernel

/-- A vector in the first granule, up to its last byte. -/
theorem witness_vector_scratchpad :
    let s := ready
    let off := 4096 - 4 * s.vlen
    off % 4096 + 4 * s.vlen ≤ 4096 ∧ (windowBase + off) % 4 = 0 ∧ windowBase + off + 4 * s.vlen ≤ windowBase + privateSize ∧
    s.vlen ≤ 256 ∧ tableGet s.core.tags (off / 4096) = some s.h.tag ∧ s.pkg.held? (privLoc 0 off) 4 = false ∧
    s.pkg.pending = [] ∧ s.pkg.poison = [] ∧ s.here ∧ s.h.armed = [] ∧ s.pkg.l1bad = [] ∧ s.h.ahead = false ∧
    s.h.pubs = Vector.replicate 16 none ∧ Memory.wf s.mem = true ∧ s.h.sb = [] ∧ s.mine s.h.ident = [] := by
  unfold State.here; decide +kernel

theorem witness_accumulators :
    let s := ready
    s.AccReady ∧ s.mxte = 0 ∧ s.h.xSettled = true ∧ s.h.restart = none ∧ (s.x 0).toNat % 4096 = 0 ∧ s.h.vdq.length < 32 ∧
    (s.mreg 0).getLsbD 0 = true ∧ (s.mreg 1).getLsbD 0 = false := by
  unfold State.AccReady State.OwnsAcc; decide +kernel

/-- The oldest instruction of the VDQ: it has placed or read none of its rows, some, and all; tile 0 is live. -/
def head (done : Nat) (rows : List Vec) : Head := ⟨done, rows, false, 0, false⟩
def atHead (done : Nat) (rows : List Vec) : State :=
  let s := at_ 1 0x10000
  { s with h := { s.h with head := some (head done rows) }, core := s.core.putTile 0 (List.replicate 32 5) }

theorem witness_tiles :
    let named := (atHead 1 [1])
    (atHead 0 []).h.sb.length < 32 ∧ (atHead 0 []).h.placing = false ∧ (atHead 0 []).h.pend = [] ∧
    goes (exec (.accld 0 1) (at_ 1 0x10000)) (fun t => t.h.vdq.length == 1 && t.h.instret == 1) = true ∧
    goes (exec (.accst 0 1) (atHead 0 [])) (fun t => t.h.sb.length == 32 && t.h.head == some (head 32 []) &&
      t.h.sb.head?.map (fun e => (e.va, e.data)) == some (0x10000, 5)) = true ∧
    goes (exec (.accst 0 1) (atHead 511 [])) (fun t => t.h.sb.length == 1) = true ∧
    goes (exec (.accsave 1) (atHead 0 [])) (fun t => t.h.sb.head?.map (fun e => (e.va, e.data)) == some (0x18000, 1)) = true ∧
    runs (readRow 0 0x10000 16) (atHead 0 []) (fun r _ => r == 0) = true ∧
    goes (exec (.accld 0 1) (atHead 0 [])) (fun t => t.h.head == some (head 1 [0])) = true ∧
    goes (exec (.accld 0 1) (atHead 32 (List.replicate 32 7))) (fun t => t.core.row 0 31 == 7) = true ∧
    runs (readRow 0 0x18000 1) (atHead 0 []) (fun r _ => r == 0) = true ∧
    goes (exec (.accrest 1) (atHead 0 [])) (fun t => t.h.head == some (head 1 [0])) = true ∧
    goes (exec (.accrest 1) named) (fun t => t.h.head == some (head 2 [1, 0])) = true ∧
    goes (exec (.accrest 1) (atHead 1 [0])) (fun t => t.core.acclive == 0) = true := by decide +kernel

/-! ### Events: states that meet the hypotheses, and what the event leaves there -/

/-- The hart has message bodies on their way to DRAM of its package. -/
def sending (bodies : List MsgBody) : State :=
  let s := ready
  let m (b : MsgBody) : Msg :=
    { owner := s.h.ident, hartid := s.h.hartid, core := 0, dst := 0, tid := 0, secure := false, sent := 0, va := 0x4000, body := b
      clock := [], race := false, rels := [], spot := none, ack := none }
  { s with pkg := { s.pkg with net := bodies.map m } }

/-- The event leaves exactly the state that `m` leaves from `s`. -/
def leaves (i : Instr) (s : State) (m : M Unit) (from_ : State) : Bool :=
  runs m from_ fun _ t => goes (exec i s) fun u => decide (u = t)

/-- Each kind of message in order and admitted at a home that is free. -/
theorem witness_messages :
    let loc := dramLoc 0 0x4000
    let w := sending [.write (cellsOf loc [1, 2, 3])]
    let a := sending [.atomic ⟨1, false, 64, false, 0, false⟩ loc 5 0 (.x 3) 9]
    let r := sending [.reduce [⟨⟨1, false, 32, false, 0, false⟩, loc, 7, 0x4000⟩]]
    let j := sending [.join loc 0x4000]
    let d := sending [.read loc 8 (.x 3) 9]
    (∀ s ∈ [w, a, r, j, d], (s.pkg.net.all fun m => s.inOrder 0 m && s.admits m.tid.toNat m.secure loc && !s.pkg.racesFor m loc) = true ∧
      s.pkg.held? loc 128 = false ∧ s.pkg.poisoned loc 8 = false ∧ s.joinPoison loc = none ∧ s.pkg.migrating = false) ∧ Memory.wf w.mem = true ∧
    leaves (.evWrite 0) w (settleOwner 8) ((w.unsend 0).writeCells (cellsOf loc [1, 2, 3])) = true ∧
    goes (exec (.evWrite 0) w) (fun t => t.getBytes loc 4 == [1, 2, 3, 0]) = true ∧
    goes (exec (.evAtomic 0) a) (fun t => t.getBytes loc 8 == bytesOf 8 5) = true ∧
    goes (exec (.evReduce 0) r) (fun t => t.getBytes loc 4 == bytesOf 4 7) = true ∧
    goes (exec (.evJoinApply 0) j) (fun t => t.getBytes loc 8 == bytesOf 8 (2 ^ 64 - 1)) = true ∧
    leaves (.evRead 0) d (settleOwner 8)
      (let u := d.unsend 0; { u with pkg := u.pkg.reply 8 8 0 (.load 9 0 (.x 3) []) none }) = true := by decide +kernel

/-- A read of another tenant's page, sent from outside, and a write behind one to the same granule. -/
theorem witness_messages_held :
    let loc := dramLoc 0 0x4000
    let s := sending [.write (cellsOf loc [1]), .write (cellsOf loc [2])]
    let t : State := { s with pkg := ({ s.pkg with
      net := s.pkg.net.map fun m => { m with owner := 0, tid := 5, body := .read loc 8 (.x 3) 9 } } : Pkg).setCtl (offPrt 0 2) 0x201 }
    (s.pkg.net.drop 1).map (s.inOrder 1) = [false] ∧ leaves (.evWrite 1) s (pure ()) s = true ∧
    (t.pkg.net.take 1).map (fun m => (m.owner, t.inOrder 0 m, t.admits m.tid.toNat m.secure loc)) = [(0, true, false)] ∧
    goes (exec (.evRead 0) t) (fun u => u.pkg.outputs == [.answer 0 0 (.refused 0x4000 (some 9)) none]) = true := by
  decide +kernel

/-- A batch for a subscriber, and responses that reach the hart, one with a miss. -/
theorem witness_updates_and_responses :
    let s := sending [.update 8 0 [(4, 0xAB)] []]
    let e : SubEntry := ⟨false, 64, 64, 9, false, 0⟩
    let s : State := { s with h := { s.h with subs := s.h.subs.set 0 (some e) } }
    let r : State := { s with
      h := { s.h with pend := [(9, .x 3)] }, pkg := { s.pkg with resps := [⟨8, .load 9 77 (.x 3) [], (0, 0), some (0x40, 1, 5)⟩] } }
    (s.hart? 8).isSome = true ∧ s.coreOf 8 = some 0 ∧ s.pkg.tenantOf 0 0 = 0 ∧ r.h.pend.any (·.1 == 9) = true ∧
    s.pkg.stopped 0 = false ∧ (r.reportMiss 8 0 0x40 1 5).isSome = true ∧
    goes (exec (.evSubscriptionUpdate 0) s) (fun t => t.getBytes (privLoc 0 68) 1 == [0xAB]) = true ∧
    goes (exec (.evResp 0) r) (fun t => decide (t.x 3 = 77) && t.h.pend.isEmpty && t.h.tlate != 0) = true := by
  decide +kernel

/-- A timed store of the hart to DRAM, due at 100. -/
def timedStore : Timed :=
  { owner := 8, hart := 8, instret := 0, elem := 0, va := 0x4000, asked := 100, time := 100, guard := 20, key := dramLoc 0 0x4000
    spot := none, body := .store [1, 2], issued := 0, stamp := 0, debug := false, cls := 0, late := 0, ordered := false
    clock := [] }

/-- It arrives in time; one that waited obtains an entry; at its instant it is applied, its reduction after it. -/
theorem witness_timed :
    let s := sending [.timed timedStore]
    let w : State := { s with pkg := { s.pkg with net := [], waiting := [timedStore] } }
    let red : Timed := { timedStore with elem := 1, body := .reduce ⟨1, false, 32, false, 0, false⟩ 5 }
    let h : State := { s with pkg := { s.pkg with net := [], held := [red, timedStore], time := 990 * 200 } }
    let now := [red, timedStore]
    s.admits 0 false timedStore.key = true ∧ s.pkg.roomFor timedStore = true ∧ h.pkg.pendingAt timedStore.key = false ∧
    leaves (.evTimedArrival 0) s (settleOwner 8) (let u := s.unsend 0; { u with pkg := u.pkg.obtain timedStore false }) = true ∧
    leaves (.evTimedEntryGrant 0) w (settleOwner 8)
      { w with pkg := ({ w.pkg with waiting := [] } : Pkg).obtain timedStore true } = true ∧
    leastBy (·.time) (h.pkg.due timedStore.home) = some red ∧ sortTimed now = [timedStore, red] ∧
    leaves (.evTimedInstant timedStore.home) h
      (do
        [timedStore, red].forM applyTimed
        settleOwner 8)
      { h with pkg := ({ h.pkg with held := [] } : Pkg).keyDups [timedStore, red] } = true ∧
    goes (exec (.evTimedInstant timedStore.home) h) (fun t => t.getBytes timedStore.key 4 == bytesOf 4 (0x0201 + 5)) = true ∧
    timedStore.judge false 0 = (0, 0) ∧ ({ timedStore with stamp := 81 } : Timed).judge false 0 = (1, 1) ∧
    timedStore.judge true 81 = (2, 0) := by decide +kernel

/-- Spanning group 5 rooted on die 0 with two contributors. -/
theorem witness_spanning :
    let s := sending [.contribution 5 0 40 0 0]
    let root (num : Nat) : State := { s with pkg := ((s.pkg.setCtl (offSpan 0 5 0) 0x100003).setCtl (offSpan 0 5 1) (BitVec.ofNat 64 num)).setCtl (offSpan 0 5 2) 0x1000000000001 }
    let rel := sending [.release 5 0 70 0]
    goes (exec (.evContribution 0) s) (fun t => ((t.pkg.die 0).bbox.map Event.code) == [0x0C]) = true ∧
    goes (exec (.evContribution 0) (root 2)) (fun t => ((t.pkg.die 0).span 5).held == [(0, 0, 40)] && t.pkg.net.isEmpty) = true ∧
    goes (exec (.evContribution 0) (root 1)) (fun t => t.pkg.net.map (·.body) == [.release 5 0 56 0]) = true ∧
    goes (exec (.evSpanRelease 0) rel) (fun t =>
      decide (t.pkg.ctl (offSpan 0 5 3) = 70) && tableGet ((t.pkg.die 0).span 5).releases 0 == some 70) = true := by
  decide +kernel

/-- A hart at a barr.wait.span 5 whose release has come. -/
theorem witness_span_wait :
    let s := released.putBytes (dramLoc 0 0) (bytesOf 4 0xC8050003)
    s.pkg.stopped 0 = false ∧ (s.coreAt 0).2.present = true ∧ s.h.status = .running ∧ s.h.report = none ∧
    s.h.launchAt = none ∧ 0xC8050003 / 2 ^ 20 = 0xC80 ∧ 0xC8050003 % 2 ^ 16 = 3 ∧
    (match fetchPair s with
      | .ok ((w, _), x) => w == 0xC8050003 && x.h.pc == 0
      | .error _ => false) = true ∧
    runs (waitSpan 0xC8050003 5) s (fun _ u => goes (exec (.evSpanWaitExit 0) s) fun t => decide (t = u.retire.focus 0)) = true := by
  decide +kernel

/-- A record of one hart for the open queue. -/
def record : BitVec 512 := BitVec.ofNat 512 (2 ^ 304)

/-- Records from the host and from another package for an open queue and a closed one; a ring write after the last. -/
theorem witness_enqueue :
    let s := open_
    (∀ m ∈ s.pkg.net, m.owner = 0 → m.hartid = 5 → m.posted = false) ∧ (s.enqueue 0 record []).map (fun e => e.2) = some 0 ∧
    s.pkg.qcheck 1 record false = 1 ∧ bits (s.pkg.qcfg 0) 16 12 = 0 ∧ s.pkg.route 0 1 = some 1 ∧ s.pkg.portAdmits 1 0 = true ∧
    goes (exec (.evQueueEnqueue 0 record .host) s) (fun t => t.pkg.gangs.length == 2) = true ∧
    goes (exec (.evQueueEnqueue 0 record (.fabric 1 5 0 false)) s) (fun t => t.pkg.outputs == [.answer 5 0 (.launched 0) none]) = true ∧
    (s.enqueue 1 record []).all (fun e => e.2 == 1) = true ∧
    goes (exec (.evBadwrite 3) s) (fun t => bit (t.pkg.ctl (offQueue 3 6)) 4) = true := by decide +kernel

/-- A held continuation whose time has come, and one that has not. -/
theorem witness_cont_retry :
    let s := open_
    let s : State := { s with pkg := s.pkg.onDie 0 fun d => { d with conts := [⟨0, 0, record, 0, 0, [], 0, false, 0, false⟩], contAt := some 0 } }
    ((s.pkg.die 0).conts.foldl (fun r c => r.bind fun x => x.retryCont 0 c) (some s)).isSome = true ∧
    goes (exec (.evContRetry 0) s) (fun t => (t.pkg.die 0).conts.isEmpty && (t.pkg.die 0).contAt.isNone &&
      t.pkg.gangs.length == 2) = true := by decide +kernel

/-- Queue 0 in ring mode with a record, its ring of 4 slots at the start of the partition. -/
def ringed : State :=
  let s := open_
  let g := bits s.h.gangid 0 32
  let p := ((s.pkg.setCtl (offQueue 0 1) 0x45).setCtl (offQueue 0 3) 1).setCtl (offQueue 0 5) (BitVec.ofNat 64 (g * 2 ^ 22))
  let s : State := { s with pkg := p }
  s.putBytes (clusLoc 0 0) (bytesOf 8 0 ++ bytesOf 8 0 ++ bytesOf 8 4)

theorem witness_ring :
    let s := ringed
    bit (s.pkg.qcfg 0) 0 = true ∧ bit (s.pkg.qcfg 0) 2 = true ∧ s.pkg.qcount 0 = 1 ∧ slotsOf 4 = some 4 ∧
    (s.pkg.gangs.find? fun g => g.tag.toNat == bits (s.pkg.ctl (offQueue 0 5)) 22 32).isSome = true ∧
    runs (peekSpot (.part 1 0) 24) s (fun r u => r.1 == bytesOf 8 0 ++ bytesOf 8 0 ++ bytesOf 8 4 && r.2.isNone && !u.pkg.physHeld (s.pkg.qslot 0 0) 64) = true ∧
    goes (exec (.evRingDelivery 0) s) (fun t => t.pkg.qhead 0 == 1 && t.getBytes (clusLoc 0 0) 8 == bytesOf 8 1 &&
      t.getBytes (clusLoc 0 64) 64 == recBytes (s.queueRecord 0 0)) = true := by decide +kernel

/-- QCFG set and cleared, QREL, QPOP; BASE of a closed queue that may not be enabled. -/
theorem witness_queue_writes :
    let s := open_
    let a : Agent := .supervisor false
    let q : State := { s with pkg := (s.pkg.setCtl (offQueue 0 1) 0x40).setCtl (offQueue 0 3) 1 }
    supervises a = true ∧ supervises (.user false) = false ∧ bit (s.pkg.qcfg 0) 0 = true ∧ bit (s.pkg.qcfg 1) 0 = false ∧
    s.pkg.qbaseOk (s.pkg.ctl (offQueue 0 0)).toNat 4 = true ∧ s.pkg.qbaseOk 1 4 = false ∧
    goes (exec (.evQcfgWrite a 0 0) s) (fun t => t.pkg.qcfg 0 == 0x40) = true ∧
    goes (exec (.evQcfgWrite a 1 0x11) s) (fun t => decide (t = s)) = true ∧
    goes (exec (.evQcfgWrite a 0 0x41) q) (fun t => bit (t.pkg.qcfg 0) 0) = true ∧
    goes (exec (.evQrelWrite a 0 7) s) (fun t => t.pkg.ctl (offQueue 0 4) == 7) = true ∧
    goes (exec (.evQpop a 0 1) q) (fun t => t.pkg.qhead 0 == 1) = true := by decide +kernel

/-! ### Events of harts, copies, clocks, the control block, reliability, Markhor -/

/-- A store in the buffer that lands, and one whose page is not there; a pause in its last cycle; each report owed. -/
theorem witness_hart_events :
    let s := (ready.pushStore (BitVec.ofNat 64 windowBase) 4 0xAABB .plain)
    let f := (ready.pushStore 0x7F0000FFFFF0 4 0 .plain)
    let p : State := { ready with h := { ready.h with pauseLeft := 1 } }
    s.pkg.stopped 0 = false ∧ (s.coreAt 0).2.present = true ∧ s.h.sfq.length < 8 ∧ s.h.sb.length = 1 ∧ s.h.xSettled = true ∧
    goes (exec (.evStoreBufferDrain 0) s) (fun t => t.h.sb.isEmpty && t.getBytes (privLoc 0 0) 4 == [0xBB, 0xAA, 0, 0]) = true ∧
    goes (exec (.evStoreBufferDrain 0) f) (fun t => t.h.sb.isEmpty && t.h.sfq.map (·.cause) == [0x07]) = true ∧
    goes (exec (.evPauseExpiry 0) p) (fun t => decide (t = { p with h := { p.h with pauseLeft := 0 } })) = true := by decide +kernel

theorem witness_reports :
    let with_ (f : Hart → Hart) : State := { ready with h := f ready.h }
    let r : SfRecord := ⟨0x40, 0, 0xF, 0x07⟩
    let fault := with_ fun h => { h with sfq := [r] }
    let copy := with_ fun h => { h with copyErrs := [3] }
    let late := with_ fun h => { h with deadline := some 4 }
    let bad := with_ fun h => { h with uncorrectable := some 5 }
    let note := with_ fun h => { h with noticeWord := some 6 }
    let cause (o : Out) (c : Nat) : Bool := goes o fun t => t.h.ecause.toNat == c && t.h.priv == .supervisor
    fault.h.report = some (.fault r) ∧ copy.h.report = some (.copy 3) ∧ late.h.report = some (.deadline 4) ∧
    bad.h.report = some (.uncorrectable 5) ∧ note.h.report = some (.notice 6) ∧
    cause (exec (.evStoreFaultReport 0) fault) 0x07 = true ∧ cause (exec (.evCopyErrorReport 0) copy) 0x0D = true ∧
    cause (exec (.evDeadlineReport 0) late) 0x0C = true ∧
    goes (exec (.evDeadlineReport 0) (with_ fun h => { h with deadline := some 4, further := true }))
      (fun t => t.h.deadline == some 4 && !t.h.further) = true ∧ cause (exec (.evUncorrectableReport 0) bad) 0x13 = true ∧
    cause (exec (.evPreemptNotice 0) note) 0x11 = true := by decide +kernel

/-- A gang told to park: its hart stops; with an empty buffer it is saved, and the gang is parked; then it resumes. -/
theorem witness_parking :
    let s : State := { ready with
      h := { ready.h with preempt := true }, pkg := { ready.pkg with gangs := ready.pkg.gangs.map fun g => { g with phase := .parking } } }
    let p : State := { s with h := { s.h with status := .parking } }
    s.h.report = some .park ∧
    goes (exec (.evPreemptStop 0) s) (fun t => t.h.status == .parking && !t.h.preempt) = true ∧
    (p.saveCsa { p.h with preempt := false } 2 (p.owed 8)).isSome = true ∧
    goes (exec (.evParkComplete 0) p) (fun t => (t.gang? 1).any fun g => g.saved.length == 1) = true := by decide +kernel

/-- A notice that is not heeded within 20 µs; a preemption request with and without EVAL's notice bit. -/
theorem witness_notices :
    let s : State := { ready with pkg := { ready.pkg with time := nanoseconds 20000, gangs := ready.pkg.gangs.map fun g => { g with noticeAt := some 0 } } }
    (s.clearNotice 1).isSome = true ∧ 0 + nanoseconds 20000 ≤ s.pkg.time ∧
    goes (exec (.evNoticeTimeout 1) s) (fun t => t.h.preempt) = true ∧
    goes (exec (.evPreqWrite (.supervisor false) 0 0) ready) (fun t => t.h.preempt) = true ∧
    goes (exec (.evPreqWrite (.supervisor false) 0 0x1000000000000) ready) (fun t => t.h.noticeWord == some 0x1000000000000) = true ∧
    goes (exec (.evPreqWrite (.user false) 0 0) ready) (fun t => decide (t = ready)) = true := by decide +kernel

/-- A gang in the resume list, moved to another die; one whose harts come back to the core held for it. -/
theorem witness_resume :
    let g := (ready.gang? 1).map fun g => { g with phase := .parked, saved := [ready.h], die := 0 }
    let parked : State := { ready with
      h := Hart.reset 0, core := Core.reset 0, pkg := { ready.pkg with gangs := g.toList } }
    let busy : State := { parked with pkg := (parked.pkg.setCtl (offDiestat 0) 2).setCtl (offDiestat 1) 2 }
    goes (exec (.evResumeEntryMove 1 1) busy) (fun t => (t.gang? 1).any fun g => g.die == 1) = true ∧
    goes (exec (.evResumeEntryMove 1 0) parked) (fun t => (t.gang? 1).any fun g => g.phase == .resuming) = true ∧
    goes (exec (.evResumeEntryMove 1 0) parked) (fun t => goes (exec (.evGangResume 1) t) fun u =>
      (u.gang? 1).any (fun g => g.phase == .resident) && u.cores.any fun e => e.2.present && e.2.gang == 1 && e.2.status == .running) = true := by
  decide +kernel

/-- A copy of 64 bytes within the private scratchpad at the head of the VDQ, its source bytes set. -/
def request : CopyReq := ⟨0, 0xFFFE000000000080, 0xFFFE000000000000, 64, 0, [], 1, false, 0, 0, 0⟩
def copying : State :=
  let s : State := { ready with h := { ready.h with vdq := [.copy request] } }
  s.putBytes (privLoc 0 0) [7, 8, 9]

/-- The state after the engine has taken it. -/
def accepted : State :=
  match execEvCopyAccept 0 copying with
  | .next t => t
  | _ => copying

theorem witness_copy_accept :
    let s := copying
    let cc : State := { s with h := { s.h with vdq := [.ccset 3 5] } }
    let bad : State := { s with h := { s.h with vdq := [.copy { request with s0 := 2 ^ 31 }] } }
    s.engineFree = true ∧ runs (acceptCopy request) { s with h := { s.h with vdq := [] } } (fun _ _ => true) = true ∧
    (match (bad.issuedUnder { request with s0 := 2 ^ 31 }).judge { request with s0 := 2 ^ 31 } with
      | .error c => c == 4
      | .ok _ => false) = true ∧
    accepted.h.vdq = [] ∧ accepted.pkg.copies.length = 1 ∧
    goes (exec (.evCopyAccept 0) cc) (fun t => t.h.vdq.isEmpty && t.h.cc.getD 3 0 == 5) = true ∧
    goes (exec (.evCopyAccept 0) bad) (fun t => t.h.vdq.isEmpty && t.h.copyErrs.length == 1 && bit (t.h.cc.getD 1 0) 32) = true := by
  decide +kernel

/-- Its chunk performed, counted, and the copy ended; the same where the destination may not be reached. -/
theorem witness_chunk :
    let s := accepted
    let away (c : CopyRun) : CopyRun := { c with dst := { c.dst with space := 2, base := 2 ^ 55 } }
    let t : State := { s with pkg := { s.pkg with copies := s.pkg.copies.map away } }
    s.pkg.copies.map (fun c => (c.id, c.stopped, c.req.chunks, c.mayStart 0)) = [(1, false, 1, true)] ∧
    s.pkg.copies.all (fun c => runs (performChunk c 0) s (fun r _ => r == none) &&
      (c.req.segs 0).all fun g => !s.publishes c c.dst g.dst g.len) = true ∧
    t.pkg.copies.all (fun c => runs (performChunk c 0) t fun r _ => r == some 7) = true ∧
    goes (exec (.evChunkComplete 1 0) s) (fun u => u.pkg.copies.isEmpty && u.h.cc.getD 1 0 == 1 &&
      u.getBytes (privLoc 0 128) 3 == [7, 8, 9]) = true ∧
    goes (exec (.evChunkComplete 1 0) t) (fun u => u.pkg.copies.isEmpty && u.h.copyErrs.length == 1) = true := by decide +kernel

/-- A copy from DRAM through the bound graph of one node, two frames, and one in the other direction that reserves. -/
def streaming (dir : Nat) : State :=
  let s := ready
  let far : Endpoint := ⟨2, s.pkg.number * 2 ^ 42 + 0x8000, 4096, 0, some 0, false, 0, 0⟩
  let near : Endpoint := ⟨0, s.h.ident, privateSize, 0, none, false, 0, 0⟩
  let c : CopyRun := { id := 0, core := 0, hart := s.h.ident, ctx := 0, tid := 0, secure := false
                       req := ⟨0, 0, 0, 128, 0, [], 1, true, 0, 0, 0⟩
                       src := if dir = 0 then far else near
                       dst := if dir = 0 then near else far
                       statusAt := none, graph := some (dir, image), snapshot := none, reserve := [], reserved := [], frames := 0
                       written := [], done := [], failed := [], crc := 0, nonzero := 0, gflags := 0, dataBad := false
                       stopped := false, clock := [] }
  let s : State := { s with pkg := { s.pkg with copies := [c], nextCopy := 1 } }
  (s.putBytes (dramLoc 0 0x8000) [1, 2]).putBytes (privLoc 0 0) [3, 4]

theorem witness_graph_frames :
    ∀ dir ∈ [0, 1], let s := streaming dir
    let c := s.pkg.copies.head?
    c.map (fun c => (c.frameCount ((graphOf image).frameBits dir), c.frames)) = some (2, 0) ∧
    c.any (fun c => runs (runFrame c dir (graphOf image)) s fun u _ => u.frames == 1 &&
      goes (exec (.evGraphFrame 0) s) fun t => t.pkg.copies.map (·.frames) == [1]) = true := by decide +kernel

theorem witness_graph_chunk :
    let past (dir n : Nat) : State :=
      { streaming dir with pkg := { (streaming dir).pkg with copies := (streaming dir).pkg.copies.map fun c => { c with frames := n } } }
    let two : State := { past 0 64 with pkg := { (past 0 64).pkg with copies := (past 0 64).pkg.copies.map fun c =>
      { c with req := { c.req with s0 := 8192 } } } }
    goes (exec (.evChunkComplete 0 0) two) (fun t => t.pkg.copies.map (·.done) == [[0]] && t.h.cc.getD 1 0 == 1) = true ∧
    goes (exec (.evChunkComplete 0 0) (past 1 2)) (fun t => t.pkg.copies.isEmpty && t.h.cc.getD 1 0 == 1) = true := by
  decide +kernel

theorem witness_reserve :
    let s := streaming 1
    let r : State := { s with pkg := { s.pkg with copies := s.pkg.copies.map fun c => { c with reserve := [(3, 5)] } } }
    goes (exec (.evPendingReserve 0) r) (fun t => t.pkg.copies.map (fun c => (c.reserve, c.reserved)) == [([], [(3, 5)])]) = true := by
  decide +kernel

/-- A batch open for 20 ns. -/
theorem witness_batch :
    let e : PubEntry := ⟨false, 0, 64, [⟨9, 0, some ⟨0, [(0, 5)], [], 0⟩, false⟩]⟩
    let s : State := { ready with h := { ready.h with pubs := ready.h.pubs.set 0 (some e) }, pkg := { ready.pkg with time := nanoseconds 20 } }
    (s.flushBatches s.h.ident fun j y => j == 0 && y.hart == 9 && y.entry == 0).isSome = true ∧
    goes (exec (.evBatchTimeout 0 0 0) s) (fun t => t.pkg.net.map (·.body) == [.update 9 0 [(0, 5)] []]) = true := by decide +kernel

/-- A relock that ends; power above the cap and well below it; temperatures; a step that is taken. -/
theorem witness_clock_events :
    let s : State := { ready with pkg := ready.pkg.setCtl offPcap 2000 }
    let at_ (f : Die → Die) : State := { s with pkg := s.pkg.onDie 0 f }
    let cap := bits (s.pkg.ctl offPcap) 0 16
    let relock := at_ fun d => { d with relockEnd := some 0 }
    let slow := at_ fun d => { d with step := 3 }
    let halted := at_ fun d => { d with halted := true }
    (∀ d : Nat, d < 4 → (s.pkg.die d).lastPower = none ∧ (s.pkg.die d).relockEnd = none) ∧ s.pkg.ceiling 0 = 0 ∧
    (s.pkg.die 0).step < 5 ∧ cap < cap + 1 ∧ 0 * 100 ≤ cap * 95 ∧ slow.pkg.ceiling 0 < 3 ∧ cap * 95 < cap * 100 ∧
    8 * bits (s.pkg.ctl offTctl) 0 7 < 900 ∧ s.pkg.tripped = false ∧
    (halted.select 0).isSome = true ∧ bit (s.pkg.ctl offTimectl) 0 = false ∧
    goes (exec (.evRelockEnd 0) relock) (fun t => (t.pkg.die 0).relockEnd.isNone) = true ∧
    goes (exec (.evPowerControlTick 0 0 (cap + 1)) s) (fun t => (t.pkg.die 0).step == 1) = true ∧
    goes (exec (.evPowerControlTick 0 0 0) slow) (fun t => (t.pkg.die 0).step == 2) = true ∧
    goes (exec (.evThermalTrip 0 950) s) (fun t => t.pkg.tripped && t.pkg.stopped 2) = true := by decide +kernel

/-- A throttle that may act and one that acted less than 1 ms ago; a Sync that came and one that has not for 8 intervals; a
lane repaired for the first time. -/
theorem witness_limits :
    let s : State := ready
    let hot (last : Option Nat) : State := { s with pkg := s.pkg.onDie 0 fun d => { d with lastTctl := last } }
    let follows (time : Nat) : State := { s with pkg :=
      { s.pkg.setCtl offTimestat 2 with lastSync := some 0, time := time } }
    let late := 8 * nanoseconds (125000 * 2 ^ bits (s.pkg.ctl offTimectl) 4 4)
    (s.pkg.die 0).lastTctl = none ∧ 0 < 0 + nanoseconds 1000000 ∧ bit (s.pkg.ctl offTimectl) 0 = false ∧
    goes (exec (.evTctlThrottleTick 0 900) s) (fun t => (t.pkg.die 0).tctlStep == 1 && (t.pkg.die 0).step == 1) = true ∧
    goes (exec (.evTctlThrottleTick 0 900) (hot (some 0))) (fun t => decide (t = hot (some 0))) = true ∧
    goes (exec .evSyncTimeout (follows late)) (fun t => t.pkg.timeState == 3) = true ∧
    goes (exec .evSyncTimeout (follows (late - 1))) (fun t => t.pkg.timeState == 2) = true ∧
    goes (exec (.evLaneRepair 1 1023) s) (fun t => t.pkg.lanes == [(2047, ⟨true, 1, 0⟩)]) = true := by decide +kernel

/-- Who may write what, and each register with its entry valid and not. -/
theorem witness_control_block :
    let s := ready
    let p := s.pkg
    let m : Agent := .machine false
    let base : Dword := BitVec.ofNat 64 (200 * 2 ^ 30)
    commands (.user false) = false ∧ supervises (.user false) = false ∧ holdsKeys (.user false) = false ∧
    commands m = true ∧ supervises m = true ∧ holdsKeys (.machine true) = true ∧
    bit (p.ctl (offPrt 0 0)) 0 = true ∧ bit (p.ctl (offPrt 1 0)) 0 = false ∧
    p.prtOk 0 (onlyBits 1 12 30) = true ∧ p.prtOk 1 (onlyBits base 12 30) = false ∧
    (p.die 1).slotsUsed false = [] ∧ (p.die 1).gslotsUsed false = [] ∧ (p.die 0).slotsUsed false ≠ [] ∧
    bit (member.pkg.ctl (offSpan 0 5 0)) 0 = true ∧ bit (p.ctl (offSpan 0 5 0)) 0 = false ∧ p.spanOk 0 5 3 = false ∧
    bits (p.ctl (offMigration 3 0)) 1 2 ≠ 1 ∧ bit (p.ctl (offKeyctl 7)) 0 = false := by decide +kernel

/-- A migration entry that pulls; the host's window within and outside what tenant 0 may reach. -/
theorem witness_pull_and_window :
    let s := ready
    let p := (((s.pkg.setCtl (offMigration 3 1) (BitVec.ofNat 64 (s.pkg.number * 2 ^ 42 + 2 ^ 31))).setCtl (offMigration 3 2)
      (BitVec.ofNat 64 (s.pkg.number * 2 ^ 42 + 2 ^ 32))).setCtl (offMigration 3 0) 3)
    let q : State := { s with pkg := p }
    bits (q.pkg.ctl (offMigration 3 0)) 1 2 = 1 ∧ 0 < migrationSize (bits (q.pkg.ctl (offMigration 3 0)) 3 3) / 64 ∧
    q.pkg.presentLines 3 = [] ∧ (q.pkg.ownDram (q.pkg.ctl (offMigration 3 1)).toNat).isSome = true ∧
    goes (exec (.evMigrationPull 3 0) q) (fun t => decide (t = q.pullNow 3 0) && decide (t = q.pullLine 3 0) && t.pkg.presentLines 3 == [0]) = true ∧
    (∀ i < 4, s.hostAdmits (0x5000 + i) = true) ∧ s.hostAdmits (2 ^ 39) = false ∧ (s.pkg.offLocs 0x5000 4).Nodup ∧
    goes (exec (.evHostBar4Write 0x5000 [1, 2, 3, 4]) s) (fun t => goes (exec (.evHostBar4Read 0x5000 4) t) fun u =>
      u.pkg.outputs == [.bar4Data [1, 2, 3, 4] false]) = true ∧
    s.pkg.hostWork = [] ∧ s.pkg.tripped = false ∧
    (let t : State := { s with pkg := { s.pkg with pending := [⟨dramLoc 0 0x5000 / 64, [3]⟩] } }
     (t.pkg.offLocs 0x5000 4).any (fun l => t.pkg.held? l 1) = true ∧
     goes (exec (.evHostBar4Read 0x5000 4) t) (fun u => u.pkg.hostWork == [.read 0x5000 4]) = true ∧
     goes (exec (.evHostBar4Write 0x5000 [1]) t) (fun u => u.pkg.hostWork == [.write 0x5000 [1]]) = true) ∧
    goes (exec (.evHostBar4Read (2 ^ 39) 4) s) (fun t => t.pkg.outputs == [.bar4Unsupported]) = true := by decide +kernel

/-- Arrays idle long enough, a remap table, a failed cluster, a die that may leave, a block that may move. -/
theorem witness_reliability :
    let s : State := { ready with pkg := { ready.pkg with time := nanoseconds 1000000 } }
    let r (x : Retention) : State := { s with pkg := ({ s.pkg with retention := [(1400, x)] } : Pkg) }
    let e : EvacRegion := ⟨1, 0, 1, 0, 0, 0, .restripe⟩
    let v : State := { s with pkg := { s.pkg with evac := [e] } }
    tableGet s.pkg.retention 1400 = none ∧ s.arrayIdle 1400 = true ∧
    s.pkg.arraySinceOf 1400 + nanoseconds 1000000 ≤ s.pkg.time ∧
    (r .entering).pkg.retentionDue 1400 .entering = true ∧ (r .turning).pkg.retentionDue 1400 .turning = true ∧ (r .leaving).pkg.retentionDue 1400 .leaving = true ∧
    goes (exec (.evRetentionEnter 1400) s) (fun t => tableGet t.pkg.retention 1400 == some .entering) = true ∧
    goes (exec (.evRetentionEntered 1400) (r .entering)) (fun t => tableGet t.pkg.retention 1400 == some .retained) = true ∧
    goes (exec (.evRetentionLeave 1400) (r .leaving)) (fun t => (tableGet t.pkg.retention 1400).isNone) = true ∧
    goes (exec (.evRemapReload 30 1 [5] true) s) (fun t => t.pkg.rebuilding == [(30, 1, [5], s.pkg.time + nanoseconds 20000)]) = true ∧
    goes (exec (.evRemapReload 30 1 [5] false) s) (fun t => bit (t.pkg.ctl (offFenced 1)) 38 && t.pkg.poisoned (rowLoc 30 1 5) 256) = true ∧
    (∀ g ∈ s.pkg.gangs, g.cluster ≠ 48 + 7) ∧ s.pkg.retained (s.ownedArrays 55) = [] ∧ (s.emptyArrays 55 []).isSome = true ∧
    goes (exec (.evClusterFailure 1 7 []) s) (fun t => bit (t.pkg.ctl (offDiestat 1)) 23) = true ∧
    s.pkg.mayLeave 3 = true ∧ (∀ g ∈ s.pkg.gangs, g.die ≠ 3) ∧
    goes (exec (.evOffreqWrite (.machine false) 7 []) s) (fun t => bits (t.pkg.ctl (offDiestat 3)) 0 2 == 3 || bits (t.pkg.ctl (offDiestat 3)) 0 2 == 2) = true ∧
    bit (v.pkg.ctl (offPrt 0 0)) 0 = true ∧ e.moved < v.pkg.blocksOf e ∧ v.blockFree 0 e = true := by decide +kernel

/-- Images good and bad in each way, in RECOVERY and not; an image whose one section is placed; TIDs of one rectangle. -/
theorem witness_markhor :
    let s := ready
    let good : BootImage := ⟨true, true, 3, 2, true, true⟩
    let rec_ : State := { s with pkg := s.pkg.setCtl offBootstat 4 }
    let text : CheckedImage := ⟨[⟨0, 4⟩], [], []⟩
    imageFault good = 0 ∧ imageFault { good with rsaGood := false } = 1 ∧ imageFault { good with slhGood := false } = 2 ∧
    imageFault { good with version := 1 } = 3 ∧ bits (s.pkg.ctl offBootstat) 0 3 ≠ 4 ∧ bits (rec_.pkg.ctl offBootstat) 0 3 = 4 ∧
    (Agent.machine false ≠ .host) ∧ s.placed 0 ⟨0, 4⟩ = true ∧ s.pkg.configs = [] ∧ s.pkg.changedBy 0 (List.replicate 48 0) = [] ∧ s.checkImage 0 text = none ∧
    s.checkImage 0 ⟨[⟨0, 8⟩], [], []⟩ = none ∧ (s.checkImage 0 ⟨[⟨0x8000, 4⟩], [⟨0, 0, 0x8002, 0x8000, 4, false, 0, 0⟩], []⟩).isSome = true ∧
    tenantsOk (List.replicate 48 0) = true ∧ s.mayChange 0 = false ∧ s.mayChange 1 = true ∧ s.h.present = true ∧
    goes (exec (.evColdReset good [] 5 [5] 0 false) s) (fun t => bits (t.pkg.ctl offBootstat) 0 3 == 3 && t.pkg.number == 5) = true ∧
    goes (exec (.evColdReset { good with rsaGood := false } [] 5 [5] 0 false) s) (fun t => bits (t.pkg.ctl offBootstat) 0 8 == 4 + 8) = true ∧
    goes (exec (.evRlenWrite .host 0 { good with version := 1 }) rec_) (fun t => bits (t.pkg.ctl offBootstat) 0 8 == 4 + 24) = true ∧
    goes (exec (.evRlenWrite .host 0 good) rec_) (fun t => bits (t.pkg.ctl offBootstat) 0 3 == 3) = true := by decide +kernel

/-! ### More hypotheses: traps of flags, refusals of CSRs, homes that hold nothing -/

/-- The outcome is an entry to supervisor privilege with this cause and value. -/
def enters (o : Out) (cause : Nat) (v : Dword) : Bool :=
  goes o fun t => t.h.ecause.toNat == cause && t.h.eval == v && t.h.priv == .supervisor

/-- NV from a comparison with a NaN, from the root of a reduction, from a scan and a comparison of vectors, and from an
atomic, which is performed first. -/
theorem witness_flags_enabled :
    let nan := strict.setX 1 0x7FC00000
    let w : State := { strictV with h := { strictV.h with v := (strictV.h.v.set 1 0xFF8000007F800000).set 4 0x7FC00000 } }
    let inf : State := strict.setX 1 (BitVec.ofNat 64 windowBase)
    let a : State := (inf.setX 2 0xFF800000).putBytes (privLoc 0 0) (bytesOf 4 0x7F800000)
    ¬nan.quiet flagNV ∧ enters (exec (.flt 3 1 1 0) nan) 0x09 0 = true ∧
    w.VecReady (fun vl => oneOk vl 3 [(1, 32)]) ∧ enters (exec (.vredsum 3 1 0 5) w) 0x09 0 = true ∧
    enters (exec (.vscan 3 1 0 5) w) 0x09 0 = true ∧ enters (exec (.vfclt 3 4 4 0 5) w) 0x09 0 = true ∧
    a.h.xSettled = true ∧ bit a.h.fcsr 20 = false ∧
    enters (exec (.amofadd 3 1 2 0) a) 0x09 0 = true ∧
    goes (exec (.amofadd 3 1 2 0) a) (fun t => t.x 3 == 0x7F800000 && t.h.instret == 1 && t.h.epc == 4) = true := by
  unfold State.quiet State.VecReady; decide +kernel

/-- A number outside the map, privilege below the register's own, registers that nobody and that a higher privilege
writes, each by wrctl, setctl and clrctl; a set with x0 is a read. -/
theorem witness_csr_refused :
    ready.h.xSettled = true ∧ enters (exec (.rdctl 5 0x002) ready) 0x01 0xE0A00020 = true ∧
    enters (exec (.rdctl 5 0x808) ready) 0x02 0xE0A08080 = true ∧ enters (exec (.wrctl 6 0x840) ready) 0x02 0xE0068401 = true ∧
    enters (exec (.setctl 6 0x408) ready) 0x01 0xE0064082 = true ∧ enters (exec (.clrctl 6 0x415) ready) 0x02 0xE0064153 = true ∧
    goes (exec (.setctl 0 0x408) ready) (fun t => t.h.pc == 4) = true ∧ ¬placed.OwnsAcc ∧
    enters (exec (.rdctl 5 0x00C) placed) 0x0A 0 = true := by unfold State.OwnsAcc; decide +kernel

/-- A key is written; a TLATE, an ESTAT with the reserved code, and a group's members between arrivals. -/
theorem witness_csr_writes :
    let s := member
    (s.group 3).arrived = [] ∧ s.core.id < 1536 ∧
    (({ s with pkg := s.pkg.onDie 0 fun d => { d with groups := [(3, ⟨3, 3, [(0, 0)], 0, [], []⟩)] } } : State).group 3).arrived ≠ [] ∧
    maskCount (s.group 3).members ≠ 0 ∧ (s.writeCsr 0x804 7).csr 0x804 = 4 ∧ (s.writeCsr 0x011 7).csr 0x014 = 2 ^ 63 := by
  decide +kernel

/-- A frame without poison; a hart that is dying, whose gang ends with it. -/
theorem witness_dying :
    let s : State := { as_ .supervisor with h := { (as_ .supervisor).h with dying := true } }
    runs framePoison (as_ .supervisor) (fun _ t => decide (t = as_ .supervisor)) = true ∧ s.applied ∧ s.h.vdq = [] ∧
    s.h.subs = Vector.replicate 16 none ∧ s.h.pubs = Vector.replicate 16 none ∧ s.owed s.h.ident = 0 ∧
    ((({ s with h := { s.h with status := .exited, instret := s.h.instret + 1 } } : State).settleBarrier
      s.h.gang).settleGang s.h.gang).isSome = true ∧
    goes (exec .eret s) (fun t => t.pkg.gangs.isEmpty) = true := by
  unfold State.applied State.settled; decide +kernel

/-- A double trap of the hart of the state, and what becomes of the hart. -/
theorem witness_ended :
    (as_ .machine).here ∧ ((as_ .machine).endHartNow (as_ .machine).h.ident).isSome = true := by
  unfold State.here; decide +kernel

/-- Rows of an accld in the own scratchpad, which no read of can trap, and in a page that is not there. -/
theorem witness_gathers :
    let row : Dword := BitVec.ofNat 64 windowBase
    (ready.h.sb = [] ∧ ready.h.placing = false ∧ ready.pkg.poison = []) ∧
    (match windowOf ready.h (ready.gang? ready.h.gang) row.toNat with
      | .spot _ => true
      | _ => false) = true ∧
    runs (rowsMayTrap [row]) ready (fun h _ => !h) = true ∧ raises (rowsMayTrap [0x7F0000FFFF80]) ready (·.cause == 0x06) = true ∧
    goes (exec (.accld 0 1) (at_ 1 windowBase)) (fun t => t.h.vdq.length == 1) = true := by decide +kernel

/-- No contribution of the hart is on its way, and the root lies in the package. -/
theorem witness_contributes :
    member.pkg.contributes member.h.ident = false ∧
    (bits (member.pkg.ctl (offSpan 0 5 0)) 32 10 = member.pkg.number ∨ (member.pkg.route 0 0).isSome = true) ∧
    goes (exec (.barrArriveSpan 5) member) (fun t => t.h.pc == 4) = true := by decide +kernel

/-- Messages for the first granule of the hart's private scratchpad, and a nibble for DRAM. -/
theorem witness_spot_messages :
    let there (b : MsgBody) : State :=
      let s := sending [b]
      { s with pkg := { s.pkg with net := s.pkg.net.map fun m => { m with spot := some (.priv 8 0) } } }
    let w := there (.write (cellsOf (privLoc 0 0) [5, 6]))
    let n := sending [.nibble (dramLoc 0 0x4000) 1 9]
    runs (awaitSpot (.priv 8 0)) w (fun _ t => decide (t = w)) = true ∧
    runs (readSpot (.priv 8 0) 8) (w.unsend 0) (fun r _ => !r.2) = true ∧
    runs (writeSpot (.priv 8 0) [5, 6] false) (w.unsend 0) (fun _ _ => true) = true ∧
    goes (exec (.evWrite 0) w) (fun t => t.getBytes (privLoc 0 0) 2 == [5, 6] && t.pkg.net.isEmpty) = true ∧
    goes (exec (.evAtomic 0) (there (.atomic ⟨1, false, 64, false, 0, false⟩ (privLoc 0 0) 5 0 (.x 3) 9)))
      (fun t => t.getBytes (privLoc 0 0) 8 == bytesOf 8 5) = true ∧
    goes (exec (.evRead 0) (there (.read (privLoc 0 0) 8 (.x 3) 9))) (fun t => t.pkg.resps.length == 1) = true ∧
    goes (exec (.evWrite 0) n) (fun t => t.getBytes (dramLoc 0 0x4000) 1 == [0x90]) = true := by decide +kernel

/-- A report whose key comes before that of the miss taken in the same cycle waits; one of a later key does not. A
refusal that another package's home answers leaves its event in the sender's die. -/
theorem witness_responses :
    let miss (key : Nat × Nat) : Resp := ⟨8, .done none, key, some (0x40, 1, 5)⟩
    let s : State := { ready with h := { ready.h with missAt := some (0, (2, 0)) } }
    let d : State := { ready with pkg := { ready.pkg with resps := [⟨8, .dropped 0 0x40, (0, 0), none⟩] } }
    (s.pkg.die 0).edgeAt = 0 ∧ s.missPassed (miss (1, 0)) = true ∧ s.missPassed (miss (3, 0)) = false ∧
    runs (awaitArea 8) d (fun _ t => decide (t = d)) = true ∧ d.turnDue 8 = false ∧
    goes (exec (.evResp 0) d) (fun t => (t.pkg.die 0).bbox.length == 1 && t.pkg.resps.isEmpty) = true := by decide +kernel

/-- The slot after the last, a save area, the descriptors of a copy, and the walk of an address wait for nothing; a store
has no instruction before it that reads rows; no record lies in a save area; the status record may be written. -/
theorem witness_nothing_held :
    let s := open_
    s.pkg.physHeld (s.pkg.qslot 0 (s.pkg.qtail 0)) 64 = false ∧ s.areaWaits s.h = false ∧ s.entriesHeld request = false ∧
    s.savedFaults s.h = some [] ∧ s.h.rowsBefore 0 = false ∧ s.pkg.stalled timedStore.key = false ∧
    runs (awaitWalk s.who (2 ^ 30)) s (fun _ t => decide (t = s)) = true ∧
    (streaming 1).pkg.copies.all (fun c => runs (awaitStatus c) (streaming 1) fun _ t => decide (t = streaming 1)) = true ∧
    s.textPoison 0 ⟨0, 4⟩ = none ∧ s.rowsRead := by
  unfold State.rowsRead; decide +kernel

/-- A record of the save area moves into the queue as sfqpop takes the oldest one out (R390). -/
theorem witness_saved_faults :
    let r : SfRecord := ⟨0x40, 0, 0xF, 0x07⟩
    let s : State := { as_ .supervisor with h := { (as_ .supervisor).h with sfq := [r] } }
    (match s.putFaults s.h [r] with
      | some u => u.savedFaults u.h == some [r] && goes (exec (.sfqpop 3) u) fun t => t.h.sfq == [r] && t.h.eval == 0x40 &&
          t.savedFaults t.h == some []
      | none => false) = true := by decide +kernel

/-- A limit that is raised leaves the die at its step, as the power controller's until it takes the next one; a die goes
up to its limit; remap tables rebuilt; a queue that becomes a candidate again. -/
theorem witness_second_clock :
    let s := ready
    let slow : State := { s with pkg := (s.pkg.setCtl (offStepmax 0) 4).onDie 0 fun d => { d with step := 4 } }
    let i : QueueInfo := { open_.pkg.queueInfo 0 with passed := 3 }
    let p := ((open_.pkg.setCtl (offQueue 0 1) 0x41).setCtl (offQueue 0 3) 1).setQueueInfo 0 i
    let q : State := { open_ with pkg := p }
    let t : State := { q with pkg := q.pkg.setCtl (offQueue 0 1) 0x43 }
    goes (exec (.evStepmaxWrite (.machine false) 0 0) slow) (fun t => t.pkg.ceiling 0 == 0 && (t.pkg.die 0).powerStep == 4) = true ∧
    s.selectAll.isSome = true ∧ (q.pkg.queueInfo 0).guardAt = none ∧ q.pkg.eligible 0 = false ∧ t.pkg.eligible 0 = true ∧
    ((t.pkg.candidateAnew q.pkg 0).queueInfo 0).passed = 0 := by decide +kernel

/-- The two events that stand for what no word can say enter their handlers. -/
theorem witness_fetch_events :
    ready.h.present = true ∧ ready.h.priv ≠ .machine ∧ ready.h.xSettled = true ∧ ready.pkg.migrating = false ∧
    (∀ i < 36, (ready.pkg.ownDram (ready.frameAt (ready.h.priv != .user) + 8 * i)).isSome = true) ∧
    enters (exec (.evIllegalInsn 7) ready) 0x01 7 = true ∧ enters (exec (.evFetchFault 0x40) ready) 0x04 0x40 = true := by
  decide +kernel

/-! ### Steps -/

/-- A hart with this word at its PC meets what the statements about a step ask: nothing comes before its edge, it runs,
the word and the next are fetched, its operands are there. -/
def stepReady (w : Nat) : Bool :=
  let s := State.reset.withFetchWord 32 w
  let e := (s.advance s.edge).atEdge
  s.agenda.isEmpty && s.event.isNone && s.instantBefore s.edge == none && e.h.status == .running &&
  !e.pkg.stopped (dieOfCore e.core.id) && e.h.answer.isNone && e.h.report.isNone && e.h.mayIssue &&
  match fetchPair e with
  | .ok ((v, _), t) => v == w && t.operandsReady w
  | .error _ => false

/-- A word that decodes, one that does not, and a setml with a csr field that is not 0. -/
theorem witness_step : stepReady 0x04221800 = true ∧ stepReady 0 = true ∧ stepReady 0xE0A60015 = true := by decide +kernel

/-- A fetch at address 0, below the windows, of a line that the instruction cache does not hold. -/
theorem witness_fetch :
    (0 : Nat) % 4 = 0 ∧ (0 : Nat) < windowBase ∧ windowBase + 2 ^ 32 ≤ 2 ^ 63 ∧
    ∃ t u, Ends (resolve placed.who .fetch 0x04 0 0) placed t u ∧
      ((tableGet u.core.icache (t.loc / 64)).isNone && decide (t.loc % 64 ≤ 60) && !u.pkg.held? t.loc 4 &&
        !u.pkg.poisoned t.loc 4 && !u.pkg.migrating) = true :=
  ⟨by decide, by decide, by decide, ends_of (by decide +kernel)⟩

/-- An event of the agenda, an instruction that is well-formed, a word and what it decodes to, a state with the invariant
that has a next state. -/
theorem witness_words_and_steps :
    isEvent .evWarmReset = true ∧ isEvent (.add 1 2 3) = false ∧ (Instr.add 1 2 3).check = none ∧
    isWord (0x04221800, 0, .add 1 2 3) = true ∧ Memory.wf placed.mem = true ∧ placed.pkg.pendMem = [] ∧
    goes (step placed) (fun t => decide (t.h.pc = 4)) = true := by decide +kernel

/-! ### Single steps on values of the spec's examples -/

/-- R111's table of quotients and remainders of 2^63. -/
theorem test_divide :
    let s := (at_ 1 (2 ^ 63)).setX 2 (BitVec.allOnes 64)
    goes (exec (.div 3 1 0) s) (fun t => t.x 3 == BitVec.allOnes 64) = true ∧
    goes (exec (.div 3 1 2) s) (fun t => t.x 3 == 0x8000000000000000) = true ∧
    goes (exec (.rem 3 1 2) s) (fun t => t.x 3 == 0) = true ∧
    goes (exec (.divn 3 1 2) s) (fun t => t.x 3 == 0) = true ∧
    goes (exec (.divnw 3 1 0) s) (fun t => t.x 3 == BitVec.allOnes 64) = true ∧
    goes (exec (.div 3 1 2) (s.setX 2 3)) (fun t => t.x 3 == 0xD555555555555556) = true ∧
    goes (exec (.rem 3 1 2) (s.setX 2 3)) (fun t => t.x 3 == BitVec.ofInt 64 (-2)) = true := by decide +kernel

/-- R120's and R126's examples: lim is sign-extended; setvl with 300 gives 128 for dwords, 256 for f32. -/
theorem test_constants :
    goes (exec (.lim 5 0x92345678) ready) (fun t => t.x 5 == 0xFFFFFFFF92345678 && t.h.pc == 8) = true ∧
    goes (exec (.setvl 5 6 3) (at_ 6 300)) (fun t => t.x 5 == 128 && t.h.vl == 128) = true ∧
    goes (exec (.setvl 5 6 7) (at_ 6 300)) (fun t => t.h.vl == 256) = true := by decide +kernel

/-- R74, R322: a jump to the word after the next links and goes; a write of x0 is dropped. -/
theorem test_jump :
    goes (exec (.jal 1 2) ready) (fun t => t.x 1 == 4 && t.h.pc == 8) = true ∧
    goes (exec (.jal 0 2) ready) (fun t => t.x 0 == 0 && t.h.pc == 8) = true ∧
    goes (exec (.blt 1 0 0xFFFE) (at_ 1 (2 ^ 63))) (fun t => t.h.pc == BitVec.ofInt 64 (-8)) = true := by decide +kernel

/-- R218: a store is seen by the hart's own load before it leaves the buffer, and by memory after. -/
theorem test_store_then_load :
    let s := (at_ 1 windowBase).setX 2 0x1122334455667788
    goes (exec (.st 2 1 1 2 0) s) (fun t => t.getBytes (privLoc 0 4) 1 == [0] &&
      goes (exec (.ld 3 1 4 0 0) t) (fun u => u.x 3 == BitVec.ofInt 64 (-120)) &&
      goes (exec (.evStoreBufferDrain 0) t) fun u => u.getBytes (privLoc 0 4) 4 == [0x88, 0x77, 0x66, 0x55]) = true := by
  decide +kernel

/-- R375, R394: trap 5 from user privilege enters the supervisor with 5 in EVAL; eret goes back. -/
theorem test_trap_and_return :
    goes (exec (.trap 5) ready) (fun t => t.h.priv == .supervisor && t.h.ecause == 0x0F && t.h.eval == 5 && t.h.epc == 0 &&
      goes (exec .eret t) fun u => u.h.priv == .user && u.h.pc == 0) = true := by decide +kernel

/-- FP32: 1 + 1 is 2, 1 / 3 rounds to even and is inexact, the root of -1 is the canonical NaN. -/
theorem test_float :
    let s := (at_ 1 0x3F800000).setX 2 0x40400000
    goes (exec (.fadd 3 1 1 0) s) (fun t => t.x 3 == 0x40000000) = true ∧
    goes (exec (.fdiv 3 1 2 0) s) (fun t => t.x 3 == 0x3EAAAAAB && t.h.fcsr == 0x100) = true ∧
    goes (exec (.fsqrt 3 1 0) (at_ 1 0xBF800000)) (fun t => t.x 3 == 0x7FC00000 && t.h.fcsr == 0x10) = true := by decide +kernel

/-- R127: bytes wrap one by one, and the bytes past VL stay. -/
theorem test_vector_add :
    let s : State := { ready with h := { ready.h with v := ready.h.v.set 1 0x01FF02FF03 } }
    goes (exec (.vadd 2 1 1 0 0) s) (fun t => t.h.v.getD 2 0 == 0xFE04FE06) = true := by decide +kernel

/-- R152: one cell of an outer product of BF16 pairs: 1 x 1 + 2 x 2 = 5. -/
theorem test_outer_product :
    let s : State := { ready with h := { ready.h with v := (ready.h.v.set 1 0x40003F80).set 2 0x40003F80, mvl := 1, mvc := 1 } }
    goes (exec (.mop 0 1 2 0 0 0) s) (fun t => t.core.cell 0 0 0 == 0x40A00000 && t.core.cell 0 0 1 == 0) = true := by
  decide +kernel

end Sys2Proof.Tests
end

section
/-! SUPPORT. Writes of the package control block by agents (R5, R179, R329, R361, R371, R376), and the host's window
onto DRAM (R186): what each does to the state, one lemma for each case of its rule. -/

namespace Sys2Proof.Machine

/-! ### Single bits of written values (R4, R5) -/

theorem bit_eq_getLsbD (v : Dword) (i : Nat) : bit v i = v.getLsbD i := by
  simp only [bit, bits, BitVec.getLsbD, Nat.testBit_eq_decide_div_mod_eq]
  rfl

/-- The bits of a field that is set are the number's; every other bit stays. -/
theorem bit_setBits (v : Dword) {lo n : Nat} (x i : Nat) (h : lo + n ≤ 64) :
    bit (setBits v lo n x) i = if lo ≤ i ∧ i < lo + n then x.testBit (i - lo) else bit v i := by
  have e : v.toNat % 2 ^ lo + x % 2 ^ n * 2 ^ lo + v.toNat / 2 ^ (lo + n) * 2 ^ (lo + n) =
      2 ^ lo * (2 ^ n * (v.toNat / 2 ^ (lo + n)) + x % 2 ^ n) + v.toNat % 2 ^ lo := by
    rw [Nat.pow_add]; ring
  have hx : x % 2 ^ n < 2 ^ n := Nat.mod_lt _ (Nat.two_pow_pos n)
  have hv : v.toNat % 2 ^ lo < 2 ^ lo := Nat.mod_lt _ (Nat.two_pow_pos lo)
  have out : 64 ≤ i → v.toNat.testBit i = false := fun hi =>
    Nat.testBit_eq_false_of_lt (v.isLt.trans_le (Nat.pow_le_pow_right (by omega) hi))
  rw [bit_eq_getLsbD, bit_eq_getLsbD, setBits, e, BitVec.getLsbD_ofNat, Nat.testBit_two_pow_mul_add _ hv, BitVec.getLsbD]
  by_cases below : i < lo
  · simp [below, show i < 64 by omega, show ¬lo ≤ i by omega, Nat.testBit_mod_two_pow]
  · rw [if_neg below, Nat.testBit_two_pow_mul_add _ hx]
    by_cases inside : i - lo < n
    · simp [inside, show i < 64 by omega, show lo ≤ i by omega, show i < lo + n by omega, Nat.testBit_mod_two_pow]
    · simp only [inside, if_false, Nat.testBit_div_two_pow, show ¬(lo ≤ i ∧ i < lo + n) by omega,
        show i - lo - n + (lo + n) = i by omega]
      by_cases hi : i < 64
      · simp [hi]
      · simp [out (by omega)]

/-- A written value has its bits in the field that is no reserved one, and 0 elsewhere. -/
theorem bit_onlyBits (v : Dword) {lo n : Nat} (i : Nat) (h : lo + n ≤ 64) :
    bit (onlyBits v lo n) i = (decide (lo ≤ i ∧ i < lo + n) && bit v i) := by
  rw [onlyBits, bit_setBits _ _ _ h]
  by_cases inside : lo ≤ i ∧ i < lo + n
  · obtain ⟨k, rfl⟩ := Nat.exists_eq_add_of_le inside.1
    simp [inside, bits, bit_eq_getLsbD, BitVec.getLsbD, Nat.testBit_mod_two_pow, Nat.testBit_div_two_pow,
      show k < n by omega, Nat.add_comm k lo]
  · simp [inside, bit_eq_getLsbD]

theorem bit_or (v w : Dword) (i : Nat) : bit (v ||| w) i = (bit v i || bit w i) := by
  simp [bit_eq_getLsbD]

/-! ### One register written -/

/-- A write of one register changes nothing else of the control block, and nothing beside it. -/
theorem setReg_effect (s : State) (off : Nat) (w : Dword) :
    (s.setReg off w).pkg.ctl off = w ∧ (∀ o, o ≠ off → (s.setReg off w).pkg.ctl o = s.pkg.ctl o) ∧
      OnlyPackage s (s.setReg off w) := by
  refine ⟨by simp, fun o ne => by simp [ne], rfl⟩

section
variable {a : Agent} (n d : Nat) (v : Dword) (s : State)

/-! ### Agents without the right -/

theorem prtWrite_refused (h : commands a = false) : prtWrite a n d v s = s := by simp [prtWrite, h]

theorem trapBlockWrite_refused (h : commands a = false) : trapBlockWrite a n d v s = s := by simp [trapBlockWrite, h]

theorem scfgWrite_refused (h : supervises a = false) : scfgWrite a d n v s = s := by simp [scfgWrite, h]

theorem migrationWrite_refused (h : supervises a = false) : migrationWrite a n d v s = s := by simp [migrationWrite, h]

theorem keyctlWrite_refused (h : holdsKeys a = false) : keyctlWrite a n v s = s := by simp [keyctlWrite, h]

theorem keydataWrite_refused (h : holdsKeys a = false) : keydataWrite a n d v s = s := by simp [keydataWrite, h]

/-! ### Registers without a row of their own (R5) -/

theorem registerWrite_tentbase :
    registerWrite a offTentbase v s = s.guarded (commands a) (s.setReg offTentbase (onlyBits v 12 40)) := rfl

theorem registerWrite_ctxtbase :
    registerWrite a offCtxtbase v s = s.guarded (commands a) (s.setReg offCtxtbase (onlyBits v 12 40)) := rfl

theorem registerWrite_secmask :
    registerWrite a offSecmask v s = s.guarded (commands a) (s.setReg offSecmask v) := rfl

theorem registerWrite_timectl :
    registerWrite a offTimectl v s = s.guarded (commands a) (s.setReg offTimectl (timectlNew (s.pkg.ctl offTimectl) v)) := rfl

/-! ### The physical region table (R179) -/

/-- Of a valid entry only V changes. -/
theorem prtWrite_valid (c : commands a = true) (hn : n < 64) (e : bit (s.pkg.ctl (offPrt n 0)) 0 = true) :
    prtWrite a n d v s =
      if d = 0 then s.setReg (offPrt n 0) (setBits (s.pkg.ctl (offPrt n 0)) 0 1 (bits v 0 1)) else s := by
  simp [prtWrite, c, hn, e]

/-- An entry that is not valid becomes so only with a layout that R179 allows. -/
theorem prtWrite_first (c : commands a = true) (hn : n < 64) (e : bit (s.pkg.ctl (offPrt n 0)) 0 = false) :
    prtWrite a n 0 v s =
      if bit v 0 = false then s.setReg (offPrt n 0) (onlyBits v 12 30)
      else if s.pkg.prtOk n (onlyBits v 12 30) = true then s.setReg (offPrt n 0) (setBits (onlyBits v 12 30) 0 1 1)
      else s := by
  simp [prtWrite, c, hn, e]

theorem prtWrite_size (c : commands a = true) (hn : n < 64) (e : bit (s.pkg.ctl (offPrt n 0)) 0 = false) :
    prtWrite a n 1 v s = s.setReg (offPrt n 1) (onlyBits v 12 30) := by
  simp [prtWrite, c, hn, e]

theorem prtWrite_layout (c : commands a = true) (hn : n < 64) (e : bit (s.pkg.ctl (offPrt n 0)) 0 = false) :
    prtWrite a n 2 v s = s.setReg (offPrt n 2) (onlyBits v 0 9 ||| onlyBits v 12 28) := by
  simp [prtWrite, c, hn, e]

/-! ### Trap blocks (R376) -/

/-- Does a pool of a trap block have a slot that is allocated? -/
def Pkg.poolUsed (p : Pkg) (block : Nat) : Bool :=
  let die := p.die (block / 2)
  let secure := block % 2 == 1
  !(die.slotsUsed secure).isEmpty || !(die.gslotsUsed secure).isEmpty

/-- What a trap-block register takes of a written value: none past the seventh. -/
def trapValue (v : Dword) : Nat → Option Dword
  | 0 => some (onlyBits v 2 62)
  | 1 => some (onlyBits v 2 62)
  | 2 => some (onlyBits v 16 48)
  | 3 => some (onlyBits v 0 16)
  | 4 => some (onlyBits v 22 42)
  | 5 => some (onlyBits v 0 16)
  | 6 => some (onlyBits v 16 48)
  | _ => none

/-- The vectors can be written at any time, the pools while no slot of theirs is allocated. -/
theorem trapBlockWrite_eq (c : commands a = true) (hn : n < 8) :
    trapBlockWrite a n d v s =
      if 2 ≤ d ∧ s.pkg.poolUsed n = true then s
      else (trapValue v d).elim s (s.setReg (offTrap (n / 2) (n % 2 == 1) d)) := by
  unfold trapBlockWrite trapValue
  simp only [c, Bool.not_true, Bool.false_or, decide_eq_true_eq, show ¬8 ≤ n by omega, if_false]
  split <;> simp [Pkg.poolUsed]

theorem poolUsed_of_slots {p : Pkg} {n : Nat} (h : (p.die (n / 2)).slotsUsed (n % 2 == 1) ≠ []) : p.poolUsed n = true := by
  simp [Pkg.poolUsed, h]

theorem poolUsed_of_free {p : Pkg} {n : Nat} (h : (p.die (n / 2)).slotsUsed (n % 2 == 1) = [])
    (g : (p.die (n / 2)).gslotsUsed (n % 2 == 1) = []) : p.poolUsed n = false := by
  simp [Pkg.poolUsed, h, g]

/-! ### Spanning groups (R329) -/

/-- SCFG as a write leaves it while EN = 0. -/
def scfgNew (old v : Dword) : Dword := setBits (onlyBits v 0 2 ||| onlyBits v 16 28) 2 2 (bits old 2 2)

/-- EN and ROOT are the written ones. -/
theorem bit_scfgNew (old v : Dword) {i : Nat} (h : i < 2) : bit (scfgNew old v) i = bit v i := by
  rw [scfgNew, bit_setBits _ _ _ (by omega), if_neg (by omega), bit_or, bit_onlyBits _ _ (by omega),
    bit_onlyBits _ _ (by omega)]
  simp [h, show ¬16 ≤ i by omega]

/-- Only an enabled root can be alone in its group. -/
theorem rootAlone_of_not_root {p : Pkg} {d n : Nat}
    (h : bit (p.ctl (offSpan d n 0)) 0 = false ∨ bit (p.ctl (offSpan d n 0)) 1 = false) : p.rootAlone d n = p := by
  rcases h with h | h <;> simp [Pkg.rootAlone, h]

theorem scfgWrite_enabled (c : supervises a = true) (hd : d < 4) (hn : n < 16)
    (e : bit (s.pkg.ctl (offSpan d n 0)) 0 = true) :
    scfgWrite a d n v s = s.setReg (offSpan d n 0) (setBits (s.pkg.ctl (offSpan d n 0)) 0 1 (bits v 0 1)) := by
  simp [scfgWrite, c, hd, hn, e]

theorem scfgWrite_disabled (c : supervises a = true) (hd : d < 4) (hn : n < 16)
    (e : bit (s.pkg.ctl (offSpan d n 0)) 0 = false) :
    scfgWrite a d n v s =
      let t := s.setReg (offSpan d n 0) (scfgNew (s.pkg.ctl (offSpan d n 0)) v)
      if bit v 0 = true ∧ s.pkg.spanOk d n (scfgNew (s.pkg.ctl (offSpan d n 0)) v) = false then s
      else { t with pkg := t.pkg.rootAlone d n } := by
  simp [scfgWrite, scfgNew, c, Nat.not_le.2 hd, Nat.not_le.2 hn, e] <;> rfl

/-! ### The migration table (R361) -/

/-- An entry that pulls lines stands. -/
theorem migrationWrite_pulling (e : bits (s.pkg.ctl (offMigration n 0)) 1 2 = 1) : migrationWrite a n d v s = s := by
  simp [migrationWrite, e]

theorem migrationWrite_new (c : supervises a = true) (hn : n < 64) (e : bits (s.pkg.ctl (offMigration n 0)) 1 2 ≠ 1) :
    migrationWrite a n 1 v s = s.setReg (offMigration n 1) v := by
  simp [migrationWrite, c, hn, e]

theorem migrationWrite_old (c : supervises a = true) (hn : n < 64) (e : bits (s.pkg.ctl (offMigration n 0)) 1 2 ≠ 1) :
    migrationWrite a n 2 v s = s.setReg (offMigration n 2) v := by
  simp [migrationWrite, c, hn, e]

theorem migrationWrite_state (c : supervises a = true) (hn : n < 64) (e : bits (s.pkg.ctl (offMigration n 0)) 1 2 ≠ 1)
    (w : bits v 1 2 ≠ 1) : migrationWrite a n 0 v s = s.setReg (offMigration n 0) (onlyBits v 0 15) := by
  simp [migrationWrite, c, hn, e, w]

/-- An entry starts to pull with no line present. -/
theorem migrationWrite_start (c : supervises a = true) (hn : n < 64) (e : bits (s.pkg.ctl (offMigration n 0)) 1 2 ≠ 1)
    (w : bits v 1 2 = 1) (ok : s.pkg.migrationOk n (onlyBits v 0 15) = true) :
    let p := (s.pkg.setCtl (offMigration n 0) (onlyBits v 0 15)).setCtl (offMigration n 3) 0
    migrationWrite a n 0 v s = { s with pkg := { p with present := tableSet p.present n [] } } := by
  simp [migrationWrite, c, hn, e, w, ok]

/-! ### Keys (R371) -/

theorem keyctlWrite_valid (c : holdsKeys a = true) (hn : n < 256) (e : bit (s.pkg.ctl (offKeyctl n)) 0 = true) :
    keyctlWrite a n v s = s.setReg (offKeyctl n) (setBits (s.pkg.ctl (offKeyctl n)) 0 1 (bits v 0 1)) := by
  simp [keyctlWrite, c, hn, e]

theorem keyctlWrite_invalid (c : holdsKeys a = true) (hn : n < 256) (e : bit (s.pkg.ctl (offKeyctl n)) 0 = false) :
    keyctlWrite a n v s = s.setReg (offKeyctl n) (onlyBits v 0 2 ||| onlyBits v 8 16) := by
  simp [keyctlWrite, c, hn, e]

theorem keydataWrite_valid (e : bit (s.pkg.ctl (offKeyctl n)) 0 = true) : keydataWrite a n d v s = s := by
  simp [keydataWrite, e]

theorem keydataWrite_invalid (c : holdsKeys a = true) (hn : n < 256) (hd : d < 8)
    (e : bit (s.pkg.ctl (offKeyctl n)) 0 = false) : keydataWrite a n d v s = s.setReg (offKeydata n d) v := by
  simp [keydataWrite, c, hn, hd, e]

end

/-! ### Pulled lines (R362) -/

theorem mem_of_tableGet {α : Type} {l : List (Nat × α)} {k : Nat} {v : α} (h : tableGet l k = some v) : (k, v) ∈ l := by
  induction l with
  | nil => cases h
  | cons e r ih =>
    obtain ⟨j, w⟩ := e
    simp only [tableGet] at h
    split at h
    · next eq => cases h; simp [eq]
    · exact List.mem_cons_of_mem _ (ih h)

/-- A register that does not hold its reset value is listed. -/
theorem ctl_mem_regs {p : Pkg} {off : Nat} (h : p.ctl off ≠ ctlReset off) : (off, p.ctl off) ∈ p.regs := by
  unfold Pkg.ctl at h ⊢
  cases e : tableGet p.regs off with
  | none => simp [e] at h
  | some v => exact mem_of_tableGet e

theorem ctlReset_migration {n : Nat} (hn : n < 64) (d : Nat) (hd : d < 4) : ctlReset (offMigration n d) = 0 := by
  unfold ctlReset offMigration offTimectl offPcap offTctl
  repeat rw [if_neg (by omega)]

/-- The package looks for pulls once an entry has STATE = 1. -/
theorem migrating_of_state {p : Pkg} {n : Nat} (hn : n < 64) (h : bits (p.ctl (offMigration n 0)) 1 2 = 1) :
    p.migrating = true := by
  have listed : (offMigration n 0, p.ctl (offMigration n 0)) ∈ p.regs := by
    refine ctl_mem_regs fun e => ?_
    rw [e, ctlReset_migration hn 0 (by omega)] at h
    exact absurd h (by decide)
  refine List.any_eq_true.2 ⟨_, listed, ?_⟩
  simp only [h]
  simp [offMigration]
  omega

/-- A line that no longer waits for a pull is not pulled again. -/
theorem pulledBy_of_free {s : State} {loc : Nat} (h : s.pkg.pullOf loc = none) (fuel : Nat) : s.pulledBy loc fuel = s := by
  cases fuel with
  | zero => rfl
  | succ fuel => simp [State.pulledBy, h]

/-- Where the bytes of OLD wait for no pull themselves, a pull is that of the one line. -/
theorem pulled_eq_pullLine {s : State} {loc n line : Nat} (m : s.pkg.migrating = true)
    (h : s.pkg.pullOf loc = some (n, line))
    (f : ∀ old, s.pkg.oldLoc n line = some old → s.pkg.pullOf old = none ∧ s.pkg.pullOf (old + 63) = none) :
    s.pulled loc = s.pullLine n line := by
  rw [State.pulled, if_pos m, State.pulledBy, h]
  cases e : s.pkg.oldLoc n line with
  | none => simp [e]
  | some old =>
    obtain ⟨first, last⟩ := f old e
    simp [e, pulledBy_of_free first, pulledBy_of_free last]

theorem pullNow_eq_pulled {s : State} {n line loc : Nat}
    (h : s.pkg.ownDram ((s.pkg.ctl (offMigration n 1)).toNat + 64 * line) = some loc) : s.pullNow n line = s.pulled loc := by
  simp [State.pullNow, h]

/-- A line that is not present, and whose controller is free, is pulled. -/
theorem migrationPull_line {s : State} {n line loc : Nat} (hn : n < 64) (e : bits (s.pkg.ctl (offMigration n 0)) 1 2 = 1)
    (hl : line < migrationSize (bits (s.pkg.ctl (offMigration n 0)) 3 3) / 64) (new : line ∉ s.pkg.presentLines n)
    (h : s.pkg.ownDram ((s.pkg.ctl (offMigration n 1)).toNat + 64 * line) = some loc) (free : s.pkg.held? loc 64 = false) :
    migrationPull n line s = s.pullNow n line := by
  simp [migrationPull, hn, e, hl, new, h, free]

/-! ### The host's window (R186) -/

theorem noHostWork_self {s : State} (h : s.pkg.hostWork = []) :
    ({ s with pkg := { s.pkg with hostWork := [] } } : State) = s := by
  rw [← h]

/-- The one access of the host is performed as it arrives, or stays where it must wait. -/
theorem exec_bar4Read {s : State} (w : s.pkg.hostWork = []) (t : s.pkg.tripped = false) (off n : Nat) :
    exec (.evHostBar4Read off n) s =
      .next ((bar4Read off n s).getD { s with pkg := { s.pkg with hostWork := [.read off n] } }) := by
  refine finishAt_ok (m := hostArrives (.read off n)) ?_
  simp only [Ends, hostArrives, hostStep, run_get_bind, run_modify_bind, w, List.isEmpty_nil, if_true, List.nil_append,
    noHostWork_self w]
  simp [t]

theorem exec_bar4Write {s : State} (w : s.pkg.hostWork = []) (t : s.pkg.tripped = false) (off : Nat) (bs : List Byte) :
    exec (.evHostBar4Write off bs) s =
      .next ((bar4Write off bs s).getD { s with pkg := { s.pkg with hostWork := [.write off bs] } }) := by
  refine finishAt_ok (m := hostArrives (.write off bs)) ?_
  simp only [Ends, hostArrives, hostStep, run_get_bind, run_modify_bind, w, List.isEmpty_nil, if_true, List.nil_append,
    noHostWork_self w]
  simp [t]

theorem foldl_pulled_of_noPulls {s : State} (h : s.noPulls) (ls : List Nat) : ls.foldl State.pulled s = s := by
  induction ls with
  | nil => rfl
  | cons l r ih => rw [List.foldl_cons, pulled_of_noPulls h, ih]

section
variable {s : State} {off : Nat}

theorem bar4Read_admitted (q : s.noPulls) {n : Nat} (ok : ∀ i < n, s.hostAdmits (off + i) = true)
    (free : ∀ l ∈ s.pkg.offLocs off n, s.pkg.held? l 1 = false)
    (clean : ∀ l ∈ s.pkg.offLocs off n, s.pkg.poisoned l 1 = false) :
    bar4Read off n s = some { s with pkg := { s.pkg with
      outputs := s.pkg.outputs ++ [.bar4Data ((s.pkg.offLocs off n).flatMap fun l => s.getBytes l 1) false] } } := by
  have admitted : ((List.range n).all fun i => s.hostAdmits (off + i)) = true := by simpa using ok
  have unheld : ((s.pkg.offLocs off n).any fun l => s.pkg.held? l 1) = false := by simpa using free
  have unpoisoned : ((s.pkg.offLocs off n).any fun l => s.pkg.poisoned l 1) = false := by simpa using clean
  have none_bad : ((s.pkg.offLocs off n).find? fun l => s.pkg.poisoned l 1) = none := by simpa using clean
  simp [bar4Read, admitted, unheld, foldl_pulled_of_noPulls q, unpoisoned, none_bad]

theorem bar4Read_held {n : Nat} (ok : ∀ i < n, s.hostAdmits (off + i) = true)
    (busy : ∃ l ∈ s.pkg.offLocs off n, s.pkg.held? l 1 = true) : bar4Read off n s = none := by
  have admitted : ((List.range n).all fun i => s.hostAdmits (off + i)) = true := by simpa using ok
  have held : ((s.pkg.offLocs off n).any fun l => s.pkg.held? l 1) = true := by simpa using busy
  simp [bar4Read, admitted, held]

theorem bar4Read_refused {n : Nat} (no : ∃ i < n, s.hostAdmits (off + i) = false) :
    bar4Read off n s = some { s with
      pkg := { s.pkg.hostDrop off with outputs := s.pkg.outputs ++ [.bar4Unsupported] } } := by
  have refused : ((List.range n).all fun i => s.hostAdmits (off + i)) = false := by simpa using no
  simp only [bar4Read, refused]
  rfl

theorem bar4Write_admitted (q : s.noPulls) {bs : List Byte} (ok : ∀ i < bs.length, s.hostAdmits (off + i) = true)
    (free : ∀ l ∈ s.pkg.offLocs off bs.length, s.pkg.held? l 1 = false) :
    bar4Write off bs s =
      some ((runsFrom ((s.pkg.offLocs off bs.length).zip bs)).foldl (fun s r => s.writeHome r.1 r.2) s) := by
  have admitted : ((List.range bs.length).all fun i => s.hostAdmits (off + i)) = true := by simpa using ok
  have unheld : ((s.pkg.offLocs off bs.length).any fun l => s.pkg.held? l 1) = false := by simpa using free
  simp [bar4Write, admitted, unheld, foldl_pulled_of_noPulls q]

theorem bar4Write_held {bs : List Byte} (ok : ∀ i < bs.length, s.hostAdmits (off + i) = true)
    (busy : ∃ l ∈ s.pkg.offLocs off bs.length, s.pkg.held? l 1 = true) : bar4Write off bs s = none := by
  have admitted : ((List.range bs.length).all fun i => s.hostAdmits (off + i)) = true := by simpa using ok
  have held : ((s.pkg.offLocs off bs.length).any fun l => s.pkg.held? l 1) = true := by simpa using busy
  simp [bar4Write, admitted, held]

theorem bar4Write_refused {bs : List Byte} (no : ∃ i < bs.length, s.hostAdmits (off + i) = false) :
    bar4Write off bs s = some { s with pkg := s.pkg.hostDrop off } := by
  have refused : ((List.range bs.length).all fun i => s.hostAdmits (off + i)) = false := by simpa using no
  simp [bar4Write, refused]

end

/-! ### Bytes written in runs -/

/-- Cells written run by run are the cells written one by one. -/
theorem foldl_write_runsFrom (cs : List Host.Cell) (m : List Host.Cell) :
    (runsFrom cs).foldl (fun m r => Memory.write m r.1 r.2) m = Memory.writeCells m cs := by
  induction cs generalizing m with
  | nil => rfl
  | cons c r ih =>
    obtain ⟨l, b⟩ := c
    rw [Memory.writeCells, ← ih, runsFrom]
    split
    · next k bs t e =>
      rw [e]
      split
      · next eq => subst eq; rfl
      · rfl
    · next e => rw [e]; rfl

theorem Memory.get_writeCells_other {cs : List Host.Cell} {l : Nat} (h : l ∉ cs.map (·.1)) (m : List Host.Cell) :
    Memory.get (Memory.writeCells m cs) l = Memory.get m l := by
  induction cs generalizing m with
  | nil => rfl
  | cons c r ih =>
    simp only [List.map_cons, List.mem_cons, not_or] at h
    rw [Memory.writeCells, ih h.2, Memory.get_set_other h.1]

/-- Each of several cells at different locations is found as it was written. -/
theorem Memory.get_writeCells_same {cs : List Host.Cell} (nd : (cs.map (·.1)).Nodup) {m : List Host.Cell}
    (wf : Memory.wf m = true) {c : Host.Cell} (h : c ∈ cs) : Memory.get (Memory.writeCells m cs) c.1 = c.2 := by
  induction cs generalizing m with
  | nil => cases h
  | cons d r ih =>
    obtain ⟨fresh, nd⟩ := List.nodup_cons.1 nd
    rw [Memory.writeCells]
    rcases List.mem_cons.1 h with rfl | h
    · rw [Memory.get_writeCells_other fresh, Memory.get_set_same _ _ wf]
    · exact ih nd (Memory.wf_set _ _ wf) h

/-- Writes at homes change memory by their bytes, and no hart and no core, where no page migrates. -/
theorem foldl_writeHome (rs : List (Nat × List Byte)) {s : State} (q : s.noPulls) :
    let t := rs.foldl (fun s r => s.writeHome r.1 r.2) s
    t.mem = rs.foldl (fun m r => Memory.write m r.1 r.2) s.mem ∧ t.h = s.h ∧ t.core = s.core ∧ t.rest = s.rest := by
  induction rs generalizing s with
  | nil => exact ⟨rfl, rfl, rfl, rfl⟩
  | cons r rs ih =>
    have first : s.writeHome r.1 r.2 =
        { s.putBytes r.1 r.2 with pkg := (s.putBytes r.1 r.2).pkg.overwritten r.1 r.2.length } := by
      simp only [State.writeHome, pulled_of_noPulls q]
    rw [List.foldl_cons, List.foldl_cons, first]
    exact ih (s := { s.putBytes r.1 r.2 with pkg := (s.putBytes r.1 r.2).pkg.overwritten r.1 r.2.length }) q

theorem offLocs_length_le (p : Pkg) (off n : Nat) : (p.offLocs off n).length ≤ n := by
  simpa [Pkg.offLocs] using List.length_filterMap_le (fun i => (p.prtFind (off + i)).map (p.prtLoc (off + i))) (List.range n)

/-- A write of the host that is performed puts each byte at its location, and no byte elsewhere. -/
theorem bar4Write_bytes {s : State} (q : s.noPulls) (wf : Memory.wf s.mem = true) {locs : List Nat} {bs : List Byte}
    (le : locs.length ≤ bs.length) (nd : locs.Nodup) :
    let t := (runsFrom (locs.zip bs)).foldl (fun s r => s.writeHome r.1 r.2) s
    (∀ i < bs.length, ∀ l, locs[i]? = some l → Memory.get t.mem l = bs.getD i 0) ∧
    (∀ l, l ∉ locs → Memory.get t.mem l = Memory.get s.mem l) ∧ t.h = s.h ∧ t.core = s.core ∧ t.rest = s.rest := by
  obtain ⟨mem, kept⟩ := foldl_writeHome (runsFrom (locs.zip bs)) q
  have keys : (locs.zip bs).map (·.1) = locs := List.map_fst_zip le
  rw [foldl_write_runsFrom] at mem
  refine ⟨fun i hi l hl => ?_, fun l hl => ?_, kept⟩
  · have cell : (l, bs.getD i 0) ∈ locs.zip bs :=
      List.mem_of_getElem? (i := i) (List.getElem?_zip_eq_some.2 ⟨hl, by simp [List.getD, hi]⟩)
    rw [mem]
    exact Memory.get_writeCells_same (by rw [keys]; exact nd) wf cell
  · rw [mem, Memory.get_writeCells_other (by rw [keys]; exact hl)]

/-! ### The writes of each kind of register as events -/

/-- An instruction or event that answers a state answers whatever equals it. -/
theorem exec_of_next {i : Instr} {s t u : State} (h : exec i s = .next t) (e : t = u) : exec i s = .next u := e ▸ h

section
variable {a : Agent} (n d : Nat) (v : Dword) (s : State)

/-- R186: without machine privilege no region, no trap block and no table base is written. -/
theorem exec_writes_without_command (h : commands a = false) :
    exec (.evPrtEntryWrite a n d v) s = .next s ∧ exec (.evTrapBlockWrite a n d v) s = .next s ∧
    exec (.evRegisterWrite a offTentbase v) s = .next s ∧ exec (.evRegisterWrite a offCtxtbase v) s = .next s ∧
    exec (.evRegisterWrite a offSecmask v) s = .next s ∧ exec (.evRegisterWrite a offTimectl v) s = .next s := by
  refine ⟨exec_of_next rfl (prtWrite_refused n d v s h), exec_of_next rfl (trapBlockWrite_refused n d v s h),
    exec_of_next rfl ?_, exec_of_next rfl ?_, exec_of_next rfl ?_, exec_of_next rfl ?_⟩
  · simp [registerWrite_tentbase, State.guarded, h]
  · simp [registerWrite_ctxtbase, State.guarded, h]
  · simp [registerWrite_secmask, State.guarded, h]
  · simp [registerWrite_timectl, State.guarded, h]

theorem exec_registerWrite_commanded (c : commands a = true) :
    exec (.evRegisterWrite a offTentbase v) s = .next (s.setReg offTentbase (onlyBits v 12 40)) ∧
    exec (.evRegisterWrite a offCtxtbase v) s = .next (s.setReg offCtxtbase (onlyBits v 12 40)) ∧
    exec (.evRegisterWrite a offSecmask v) s = .next (s.setReg offSecmask v) ∧
    exec (.evRegisterWrite a offTimectl v) s = .next (s.setReg offTimectl (setBits (onlyBits v 0 2) 4 4
      (if 7 < bits v 4 4 then bits (s.pkg.ctl offTimectl) 4 4 else bits v 4 4))) := by
  refine ⟨exec_of_next rfl ?_, exec_of_next rfl ?_, exec_of_next rfl ?_, exec_of_next rfl ?_⟩
  · simp [registerWrite_tentbase, State.guarded, c]
  · simp [registerWrite_ctxtbase, State.guarded, c]
  · simp [registerWrite_secmask, State.guarded, c]
  · simp [registerWrite_timectl, State.guarded, c, timectlNew]

theorem exec_prtWrite_commanded (c : commands a = true) (hn : n < 64) :
    let old := s.pkg.ctl (offPrt n 0)
    (bit old 0 = true →
      exec (.evPrtEntryWrite a n 0 v) s = .next (s.setReg (offPrt n 0) (setBits old 0 1 (bits v 0 1))) ∧
      (d ≠ 0 → exec (.evPrtEntryWrite a n d v) s = .next s)) ∧
    (bit old 0 = false →
      exec (.evPrtEntryWrite a n 1 v) s = .next (s.setReg (offPrt n 1) (onlyBits v 12 30)) ∧
      exec (.evPrtEntryWrite a n 2 v) s = .next (s.setReg (offPrt n 2) (onlyBits v 0 9 ||| onlyBits v 12 28)) ∧
      (bit v 0 = false → exec (.evPrtEntryWrite a n 0 v) s = .next (s.setReg (offPrt n 0) (onlyBits v 12 30))) ∧
      (bit v 0 = true → s.pkg.prtOk n (onlyBits v 12 30) = true →
        exec (.evPrtEntryWrite a n 0 v) s = .next (s.setReg (offPrt n 0) (setBits (onlyBits v 12 30) 0 1 1))) ∧
      (bit v 0 = true → s.pkg.prtOk n (onlyBits v 12 30) = false → exec (.evPrtEntryWrite a n 0 v) s = .next s)) := by
  refine ⟨fun e => ⟨exec_of_next rfl ?_, fun ne => exec_of_next rfl ?_⟩, fun e =>
    ⟨exec_of_next rfl (prtWrite_size n v s c hn e), exec_of_next rfl (prtWrite_layout n v s c hn e),
      fun w => exec_of_next rfl ?_, fun w ok => exec_of_next rfl ?_, fun w bad => exec_of_next rfl ?_⟩⟩
  · rw [prtWrite_valid n 0 v s c hn e, if_pos rfl]
  · rw [prtWrite_valid n d v s c hn e, if_neg ne]
  · rw [prtWrite_first n v s c hn e, if_pos w]
  · rw [prtWrite_first n v s c hn e, if_neg (by simp [w]), if_pos ok]
  · rw [prtWrite_first n v s c hn e, if_neg (by simp [w]), if_neg (by simp [bad])]

theorem exec_trapBlockWrite_commanded (c : commands a = true) (hn : n < 8) :
    let secure := n % 2 == 1
    let off (d : Nat) : Nat := offTrap (n / 2) secure d
    let die := s.pkg.die (n / 2)
    let puts (d : Nat) (w : Dword) : Prop := exec (.evTrapBlockWrite a n d v) s = .next (s.setReg (off d) w)
    puts 0 (onlyBits v 2 62) ∧ puts 1 (onlyBits v 2 62) ∧
    (die.slotsUsed secure = [] → die.gslotsUsed secure = [] →
      puts 2 (onlyBits v 16 48) ∧ puts 3 (onlyBits v 0 16) ∧ puts 4 (onlyBits v 22 42) ∧ puts 5 (onlyBits v 0 16) ∧
      puts 6 (onlyBits v 16 48)) ∧
    (die.slotsUsed secure ≠ [] → 2 ≤ d → exec (.evTrapBlockWrite a n d v) s = .next s) := by
  intro secure off die puts
  have vector (d : Nat) (hd : d < 2) (w : Dword) (e : trapValue v d = some w) : puts d w := by
    refine exec_of_next rfl ?_
    rw [trapBlockWrite_eq n d v s c hn, if_neg (by omega), e]
    rfl
  have pool (free : s.pkg.poolUsed n = false) (d : Nat) (w : Dword) (e : trapValue v d = some w) : puts d w := by
    refine exec_of_next rfl ?_
    rw [trapBlockWrite_eq n d v s c hn, if_neg (by simp [free]), e]
    rfl
  refine ⟨vector 0 (by omega) _ rfl, vector 1 (by omega) _ rfl, fun slots gslots => ?_, fun used hd => exec_of_next rfl ?_⟩
  · have free : s.pkg.poolUsed n = false := poolUsed_of_free slots gslots
    exact ⟨pool free 2 _ rfl, pool free 3 _ rfl, pool free 4 _ rfl, pool free 5 _ rfl, pool free 6 _ rfl⟩
  · rw [trapBlockWrite_eq n d v s c hn, if_pos ⟨hd, poolUsed_of_slots used⟩]

theorem exec_scfgWrite_supervised (c : supervises a = true) (hd : d < 4) (hn : n < 16) :
    let old := s.pkg.ctl (offSpan d n 0)
    let new := scfgNew old v
    (bit old 0 = true →
      exec (.evScfgWrite a d n v) s = .next (s.setReg (offSpan d n 0) (setBits old 0 1 (bits v 0 1)))) ∧
    (bit old 0 = false → bit v 0 = false ∨ s.pkg.spanOk d n new = true →
      let t := s.setReg (offSpan d n 0) new
      exec (.evScfgWrite a d n v) s = .next { t with pkg := t.pkg.rootAlone d n } ∧
      (bit v 0 = false ∨ bit v 1 = false → exec (.evScfgWrite a d n v) s = .next (s.setReg (offSpan d n 0) new))) ∧
    (bit old 0 = false → bit v 0 = true → s.pkg.spanOk d n new = false → exec (.evScfgWrite a d n v) s = .next s) := by
  intro old new
  refine ⟨fun e => exec_of_next rfl (scfgWrite_enabled n d v s c hd hn e), fun e ok => ?_,
    fun e w bad => exec_of_next rfl ?_⟩
  · intro t
    have written : exec (.evScfgWrite a d n v) s = .next { t with pkg := t.pkg.rootAlone d n } := by
      refine exec_of_next rfl ?_
      rw [scfgWrite_disabled n d v s c hd hn e]
      refine if_neg fun ⟨w, bad⟩ => ?_
      rcases ok with w' | ok
      · simp [w] at w'
      · exact absurd (bad.symm.trans ok) (by decide)
    refine ⟨written, fun noRoot => written.trans ?_⟩
    have stays : t.pkg.rootAlone d n = t.pkg := by
      refine rootAlone_of_not_root ?_
      rw [show t.pkg.ctl (offSpan d n 0) = new from ctl_setCtl_same _ _ _, bit_scfgNew _ _ (by omega),
        bit_scfgNew _ _ (by omega)]
      exact noRoot
    rw [stays]
  · rw [scfgWrite_disabled n d v s c hd hn e]
    exact if_pos ⟨w, bad⟩

theorem exec_migrationWrite_supervised (c : supervises a = true) (hn : n < 64) :
    let old := s.pkg.ctl (offMigration n 0)
    (bits old 1 2 = 1 → exec (.evMigrationEntryWrite a n d v) s = .next s) ∧
    (bits old 1 2 ≠ 1 →
      exec (.evMigrationEntryWrite a n 1 v) s = .next (s.setReg (offMigration n 1) v) ∧
      exec (.evMigrationEntryWrite a n 2 v) s = .next (s.setReg (offMigration n 2) v) ∧
      (bits v 1 2 ≠ 1 → exec (.evMigrationEntryWrite a n 0 v) s = .next (s.setReg (offMigration n 0) (onlyBits v 0 15))) ∧
      (bits v 1 2 = 1 → s.pkg.migrationOk n (onlyBits v 0 15) = true →
        Gives (.evMigrationEntryWrite a n 0 v) s fun t => OnlyPackage s t ∧
          t.pkg.ctl (offMigration n 0) = onlyBits v 0 15 ∧ t.pkg.presentLines n = [])) := by
  intro old
  refine ⟨fun e => exec_of_next rfl (migrationWrite_pulling n d v s e), fun e =>
    ⟨exec_of_next rfl (migrationWrite_new n v s c hn e), exec_of_next rfl (migrationWrite_old n v s c hn e),
      fun w => exec_of_next rfl (migrationWrite_state n v s c hn e w), fun w ok => ?_⟩⟩
  refine ⟨_, exec_of_next rfl (migrationWrite_start n v s c hn e w ok), rfl, ?_, by simp [Pkg.presentLines]⟩
  have apart : offMigration n 0 ≠ offMigration n 3 := by simp [offMigration]
  exact (ctl_setCtl_other _ apart _).trans (ctl_setCtl_same _ _ _)

theorem exec_keyWrite_held (c : holdsKeys a = true) (hn : n < 256) :
    let old := s.pkg.ctl (offKeyctl n)
    (bit old 0 = true →
      exec (.evKeyctlWrite a n v) s = .next (s.setReg (offKeyctl n) (setBits old 0 1 (bits v 0 1))) ∧
      exec (.evKeydataWrite a n d v) s = .next s) ∧
    (bit old 0 = false →
      exec (.evKeyctlWrite a n v) s = .next (s.setReg (offKeyctl n) (onlyBits v 0 2 ||| onlyBits v 8 16)) ∧
      (d < 8 → exec (.evKeydataWrite a n d v) s = .next (s.setReg (offKeydata n d) v))) :=
  ⟨fun e => ⟨exec_of_next rfl (keyctlWrite_valid n v s c hn e), exec_of_next rfl (keydataWrite_valid n d v s e)⟩,
    fun e => ⟨exec_of_next rfl (keyctlWrite_invalid n v s c hn e),
      fun hd => exec_of_next rfl (keydataWrite_invalid n d v s c hn hd e)⟩⟩

end

/-- Settles O50: each clause is the lemma about its register's write; a line pulled in the background is that of its
location; the host's bytes are written in runs, which is byte by byte at distinct locations. -/
theorem controlBlockWritesComplete : Obligations.ControlBlockWritesComplete := by
  unfold Obligations.ControlBlockWritesComplete
  refine ⟨fun a n d v s => ?_, fun n line loc s hn e hl new own free => ?_, fun off n s q => ?_, fun off bs s q => ?_⟩
  · exact ⟨setReg_effect s, exec_writes_without_command n d v s,
      fun h => ⟨exec_of_next rfl (scfgWrite_refused n d v s h), exec_of_next rfl (migrationWrite_refused n d v s h)⟩,
      fun h => ⟨exec_of_next rfl (keyctlWrite_refused n v s h), exec_of_next rfl (keydataWrite_refused n d v s h)⟩,
      fun c => by
        obtain ⟨tentbase, ctxtbase, secmask, timectl⟩ := exec_registerWrite_commanded v s c
        exact ⟨tentbase, ctxtbase, secmask, timectl, exec_prtWrite_commanded n d v s c,
          exec_trapBlockWrite_commanded n d v s c⟩,
      exec_scfgWrite_supervised n d v s, exec_migrationWrite_supervised n d v s, exec_keyWrite_held n d v s⟩
  · refine ⟨exec_of_next rfl (migrationPull_line hn e hl new own free), fun waits clear => ?_⟩
    rw [pullNow_eq_pulled own]
    exact pulled_eq_pullLine (migrating_of_state hn e) waits clear
  · intro locs idle live
    refine ⟨fun ok free clean => ?_, fun ok busy => ?_, fun no => ?_⟩
    · rw [exec_bar4Read idle live, bar4Read_admitted q ok free clean]; rfl
    · rw [exec_bar4Read idle live, bar4Read_held ok busy]; rfl
    · rw [exec_bar4Read idle live, bar4Read_refused no]; rfl
  · intro locs idle live
    refine ⟨fun ok busy => ?_, fun ok free nd wf => ⟨_, ?_, bar4Write_bytes q wf (offLocs_length_le _ _ _) nd⟩,
      fun no => ?_⟩
    · rw [exec_bar4Write idle live, bar4Write_held ok busy]; rfl
    · rw [exec_bar4Write idle live, bar4Write_admitted q ok free]; rfl
    · rw [exec_bar4Write idle live, bar4Write_refused no]; rfl

end Sys2Proof.Machine
end

section
/-! SUPPORT. STATE of the timebase across a warm reset (R6, R239), for a table of registers in which an offset stands
twice. -/

namespace Sys2Proof.Machine

/-- The machine just after cold reset, but with TIMESTAT listed twice in the table of registers: with its reset value, and
behind that with STATE = 1. The keys of a table that registers are set in from cold reset on rise (`keys_tableSet`), so no
run comes by this one; the statement, which has no hypothesis on the table, speaks of it all the same. -/
def doubledTimestat : State :=
  { State.reset with pkg := { Pkg.reset with regs := [(offTimestat, 0), (offTimestat, 1)] } }

/-- A read finds the first of the two entries. -/
theorem timeState_doubledTimestat : doubledTimestat.pkg.timeState = 0 := by decide +kernel

/-- A warm reset leaves out the first entry, which holds the reset value, and so brings the second one to light. -/
theorem timeState_warm_doubledTimestat : doubledTimestat.pkg.warm.timeState = 1 := by decide +kernel

/-- Refutes O52: of a table of registers that lists TIMESTAT twice, the reset value first, a warm reset drops the entry
that reads find, and TIMESTAT.STATE changes from 0 to 1, where the statement has it kept. -/
theorem not_markhorEventsComplete : ¬ Obligations.MarkhorEventsComplete := by
  unfold Obligations.MarkhorEventsComplete
  intro complete
  obtain ⟨-, ⟨-, -, -, -, -, -, -, -, -, -, kept, -⟩, -⟩ := complete doubledTimestat
  rw [timeState_warm_doubledTimestat, timeState_doubledTimestat] at kept
  exact absurd kept (by decide)

end Sys2Proof.Machine
end

section
/-! SUPPORT. Vector memory instructions (R222 to R235): how an instruction at its turn, or behind other entries of the
VDQ, comes to its elements, and what their end makes of it. -/

namespace Sys2Proof.Machine

/-! ### The turn of a vector instruction (R14, R125) -/

/-- A computation that begins by looking at the state ends as its rest does there. -/
theorem ends_get_bind {α : Type} {f : State → M α} {s t : State} {a : α} (h : Ends (f s) s a t) :
    Ends (get >>= f) s a t := h

section
variable {word : Nat} {ok : Nat → Bool} {s t : State}

/-- R69, R70: register groups that stand let the instruction go on. -/
theorem needGroups_stands (h : ok s.vlen = true) : Ends (needGroups word ok) s () s := by
  simp [Ends, needGroups, h]

/-- R40: only an instruction that traps is counted as it enters the VDQ; one that ends is as it was. -/
theorem entered_ok {m : M Unit} (h : Ends m s () t) : Ends (entered m) s () t := by
  simp [Ends, entered, show m s = _ from h]

/-- With the VDQ empty and no vector load outstanding, a vector instruction is at its turn. -/
theorem vecRun_ready {body : M Unit} (r : s.VecReady ok) (h : Ends body s () t) : Ends (vecRun word ok body) s () t := by
  obtain ⟨groups, vdq, head, free⟩ := r
  refine ends_bind (needGroups_stands groups) ?_
  simpa [Ends, head, vdq, free] using entered_ok h

/-- R14, R40: behind other entries, or an outstanding vector load, it retires into the VDQ, whatever its effect will be. -/
theorem finish_vecRun_queues (q : s.VecQueues ok) (body : M Unit) :
    finish (vecRun word ok body) s = .next (s.inVdq word false) := by
  obtain ⟨groups, head, waits, room⟩ := q
  have behind : (s.h.vdq.isEmpty && s.vFree) = false := by
    rcases waits with h | h <;> simp [h]
  have passes : vecRun word ok body s = enterVdq word false s := by
    rw [vecRun, run_bind_ok (needGroups_stands groups)]
    simp only [run_get_bind, head, Option.isSome_none, behind, Bool.false_eq_true, if_false]
  have queued : enterVdq word false s = .error (.queued
      { s with h := { s.h with vdq := s.h.vdq ++ [.insn { s.captured word with holds := (s.captured word).holds || false }] } }) := by
    simp only [enterVdq, run_get_bind, room, decide_true]
    rfl
  simp only [finish, passes, queued]
  rfl

/-- R221: at its turn, with every older store out of the buffer, a vector memory instruction comes to its elements. -/
theorem vecMemRun_ready {body : M Unit} (r : s.VecReady ok) (sb : s.h.sb = []) (h : Ends body s () t) :
    Ends (vecMemRun word ok body) s () t := by
  have ⟨_, vdq, _, _⟩ := r
  refine vecRun_ready r (ends_bind (awaitBuffer_empty sb (placing_of_empty vdq)) ?_)
  show (if s.h.ahead then body else allOrNothing body) s = _
  split
  · exact h
  · exact allOrNothing_ok h

end

/-! ### Loads and stores of elements (R222) -/

/-- R222: a vector memory instruction of which no element traps clears VSTART. -/
theorem vecEnd_none (s : State) : Ends (vecEnd none) s () s.endElems := rfl

/-- R209: acquiring at one point after another moves the hart's clock and nothing else. -/
theorem foldl_acquired (point : Nat → List (Nat × Nat)) (ks : List Nat) (h : Hart) :
    ∃ c, ks.foldl (fun h k => h.acquired (point k)) h = { h with clock := c } := by
  induction ks generalizing h with
  | nil => exact ⟨h.clock, rfl⟩
  | cons k ks ih =>
    obtain ⟨c, e⟩ := ih (h.acquired (point k))
    exact ⟨c, e⟩

theorem acquireMask_eq (s : State) (r : Nat) : ∃ c, s.acquireMask r = { s with h := { s.h with clock := c } } := by
  obtain ⟨c, e⟩ := foldl_acquired (fun b => s.pkg.countedClock (maskKey s.h.ident r b))
    ((List.range 256).filter fun b => (s.h.m.getD r 0).getLsbD b) s.h
  exact ⟨c, congrArg (fun h => { s with h := h }) e⟩

@[simp] theorem State.acquireMask_seen (s : State) (r : Nat) : (s.acquireMask r).seen = s.seen := by
  obtain ⟨c, e⟩ := acquireMask_eq s r
  rw [e]; rfl

@[simp] theorem State.acquireMask_active (s : State) (r : Nat) (p : BitVec 3) :
    (s.acquireMask r).active p = s.active p := by
  obtain ⟨c, e⟩ := acquireMask_eq s r
  rw [e]; rfl

/-- The state in which a vector load comes to its elements: the chunks that its mask register shows acquired (R209). -/
def State.gathering (s : State) (p : BitVec 3) : State := if p = 0 then s else s.acquireMask p.toNat

theorem State.gathering_seen (s : State) (p : BitVec 3) : (s.gathering p).seen = s.seen := by
  unfold State.gathering; split <;> simp

theorem State.gathering_active (s : State) (p : BitVec 3) : (s.gathering p).active p = s.active p := by
  unfold State.gathering; split <;> simp

section
variable {word : Nat} {ok : Nat → Bool} {p : BitVec 3} {chk : Nat → M Unit} {m : Nat → Nat → M Unit} {i : Instr} {s : State}

/-- R122, R222: a vector store or a timed form, at its turn and in the VDQ. -/
theorem vecMem_completes (is : exec i s = finish (vecMem word ok p chk m) s) (t : State) :
    (s.VecReady ok → s.h.sb = [] → Ends (vecElems chk (m s.seen) (s.active p)) s none t →
      exec i s = .next t.endElems.retire) ∧
    (s.VecQueues ok → ∃ word, exec i s = .next (s.inVdq word false)) := by
  refine ⟨fun r sb h => is.trans (finish_ok (vecMemRun_ready r sb ?_)), fun q => ⟨word, is.trans (finish_vecRun_queues q _)⟩⟩
  exact ends_get_bind (ends_bind h (vecEnd_none t))

/-- R122, R209, R222: a vector load, which acquires before its elements, at its turn and in the VDQ. -/
theorem vecGather_completes (is : exec i s = finish (vecGather word ok p chk m) s) (t : State) :
    (s.VecReady ok → s.h.sb = [] → Ends (vecElems chk (m s.seen) (s.active p)) (s.gathering p) none t →
      exec i s = .next t.endElems.retire) ∧
    (s.VecQueues ok → ∃ word, exec i s = .next (s.inVdq word false)) := by
  refine ⟨fun r sb h => is.trans (finish_ok (vecMemRun_ready r sb ?_)), fun q => ⟨word, is.trans (finish_vecRun_queues q _)⟩⟩
  show (vecElems chk (m (s.gathering p).seen) ((s.gathering p).active p) >>= vecEnd) (s.gathering p) = _
  rw [s.gathering_seen, s.gathering_active]
  exact ends_bind h (vecEnd_none t)

end

/-! R225: vldm and vstm move nibbles with code 4, and whole elements with every other. -/

section
variable (d a : BitVec 5) (p : BitVec 3) {e : BitVec 3} (s : State)

theorem exec_vldm_elements (h : e ≠ 4) : exec (.vldm d a p e) s =
    finish (vecLoad (enc4 0x58000004 d 21 a 16 p 8 e 5) d e p [] (contiguous (s.x a) (widthOf e / 8))) s :=
  congrArg (finish · s) (if_neg h)

theorem exec_vldm_nibbles (h : e = 4) : exec (.vldm d a p e) s =
    finish (vecGather (enc4 0x58000004 d 21 a 16 p 8 e 5) (fun vl => groupsOk vl (some (d, 4)) []) p
      (checkElem .load causeLoadFault (nibbleAddr (s.x a)) 1) (loadNibble d.toNat (s.x a))) s :=
  congrArg (finish · s) (if_pos h)

theorem exec_vstm_elements (h : e ≠ 4) : exec (.vstm d a p e) s =
    finish (vecStore (enc4 0x58000005 d 21 a 16 p 8 e 5) d e p [] (contiguous (s.x a) (widthOf e / 8))) s :=
  congrArg (finish · s) (if_neg h)

theorem exec_vstm_nibbles (h : e = 4) : exec (.vstm d a p e) s =
    finish (vecMem (enc4 0x58000005 d 21 a 16 p 8 e 5) (fun vl => groupsOk vl none [(d, 4)]) p
      (checkElem .store causeStoreFault (nibbleAddr (s.x a)) 1) (storeNibble d.toNat (s.x a))) s :=
  congrArg (finish · s) (if_pos h)

end

/-! ### vappend (R226) -/

/-- R226: with no active element nothing is added and nothing stored. -/
theorem vecAppend_empty {word : Nat} {d : BitVec 5} {e p : BitVec 3} {ptr : Dword} {s : State}
    (r : s.VecReady fun vl => groupsOk vl none [(d, widthOf e)]) (sb : s.h.sb = []) (idle : s.active p = []) :
    Ends (vecAppend word d e p ptr) s () s.clearVstart := by
  refine vecMemRun_ready r sb ?_
  simp [Ends, idle]

/-- R226: the pointer advanced by the bytes of the active elements, which are stored from its old value. -/
theorem vecAppend_stores {word : Nat} {d : BitVec 5} {e p : BitVec 3} {ptr : Dword} {s t u : State} {lo hi old : Nat} {fl : Flags}
    (r : s.VecReady fun vl => groupsOk vl none [(d, widthOf e)]) (sb : s.h.sb = []) (some_active : s.active p ≠ [])
    (first : s.h.amid = none) (aligned : ptr.toNat % 8 = 0)
    (window : windowEnd s.h (s.gang? s.h.gang) ptr.toNat = some (lo, hi))
    (adds : Ends (atomic ⟨1, false, 64, false, 0, false⟩ ptr ptr.toNat ((s.active p).length * (widthOf e / 8)) 0) s (old, fl) t)
    (fits : old % (widthOf e / 8) = 0) (above : lo ≤ old) (below : old + (s.active p).length * (widthOf e / 8) ≤ hi)
    (stores : Ends (appendElems d.toNat (widthOf e) s.seen (BitVec.ofNat 64 old) 0 (s.active p)) t () u) :
    Ends (vecAppend word d e p ptr) s () u.endElems := by
  refine vecMemRun_ready r sb ?_
  have room : (old % (widthOf e / 8) != 0 || decide (old < lo) ||
      decide (hi < old + (s.active p).length * (widthOf e / 8))) = false := by
    simp [fits, above, below]
  have nonempty : (s.active p).isEmpty = false := by simpa using some_active
  simp only [Ends, run_get_bind, nonempty, first, aligned, window, bne_self_eq_false, Bool.false_eq_true, if_false]
  rw [run_bind_ok adds]
  simp only [room, Bool.false_eq_true, if_false]
  exact ends_bind stores rfl

/-! ### Vector atomics (R233) -/

/-- R106: with DET clear a nondeterministic instruction goes on. -/
theorem detCheck_clear {s : State} (h : bit s.h.fcsr 20 = false) : Ends detCheck s () s := by
  simp [Ends, detCheck, h]

/-- The state in which the elements of a vector atomic begin: NDET set by a floating one with an active element (R106). -/
def State.ndetBy (s : State) (e p : BitVec 3) : State := if 4 ≤ e.toNat ∧ s.active p ≠ [] then s.ndet else s

/-- R106: a floating vector atomic with an active element sets NDET, unless DET forbids it. -/
theorem vecNdet_ends {s : State} {e p : BitVec 3}
    (det : 4 ≤ e.toNat ∧ s.active p ≠ [] → bit s.h.fcsr 20 = false) :
    Ends (vecNdet e (s.active p)) s () (s.ndetBy e p) := by
  unfold vecNdet issueFloat State.ndetBy
  have floats : (isFloat e && !(s.active p).isEmpty) = true ↔ 4 ≤ e.toNat ∧ s.active p ≠ [] := by simp [isFloat]
  by_cases nd : 4 ≤ e.toNat ∧ s.active p ≠ []
  · rw [if_pos (floats.mpr nd), if_pos nd]
    exact ends_bind (detCheck_clear (det nd)) rfl
  · rw [if_neg (mt floats.mp nd), if_neg nd]
    rfl

/-- SetFlag leaves FTE (R35). -/
theorem fte_setFlags (s : State) (fl : Flags) : (s.setFlags fl).fte = s.fte := by
  have low : (fl.zeroExtend 64 <<< 4).toNat / 2 ^ 10 = 0 := by
    have := fl.isLt
    rw [BitVec.toNat_shiftLeft, BitVec.toNat_setWidth, Nat.shiftLeft_eq]
    omega
  simp only [State.fte, State.setFlags, fcsrFlags, bits, BitVec.toNat_or, Nat.or_div_two_pow, low, Nat.or_zero]

/-- R233: flags none of which is enabled end an instruction that keeps its effects. -/
theorem retireWithFlags_quiet {s : State} {fl : Flags} (q : s.quiet fl) :
    Ends (retireWithFlags fl) s () (s.setFlags fl).retire := by
  have unraised : fl &&& (s.setFlags fl).retire.fte = 0 := (congrArg (fl &&& ·) (fte_setFlags s fl)).trans q
  simp only [Ends, retireWithFlags, run_modify_bind, run_get_bind, unraised, if_true]
  rfl

section
variable {word op : Nat} {d b : BitVec 5} {e p : BitVec 3} {base : Dword} {s t : State} {fl : Flags} (sb : s.h.sb = [])
  (det : 4 ≤ e.toNat ∧ s.active p ≠ [] → bit s.h.fcsr 20 = false)
include sb det

/-- R233, R234: with every element performed, a vector atomic ends with its flags, none of them enabled. -/
theorem vecAmo_performed (r : s.Groups d (widthOf e) [(b, 32)])
    (h : Ends (atomicElems (s.vecAtomicOp op e) false (s.indexed base b)
      (amoElem (s.vecAtomicOp op e) d.toNat (s.indexed base b)) (s.active p)) (s.ndetBy e p) (fl, none) t)
    (tags : t.h.waitTags = []) (trap : t.h.waitTrap = none) (q : t.quiet fl) :
    Ends (vecAmo word op d b e p base) s () (t.endElems.setFlags fl).retire := by
  refine vecMemRun_ready r sb (ends_get_bind (ends_bind (vecNdet_ends det) (ends_bind h (ends_bind (vecEnd_none t) ?_))))
  have done : (t.endElems.h.waitTags.isEmpty && t.endElems.h.waitTrap.isNone) = true := by
    show (t.h.waitTags.isEmpty && t.h.waitTrap.isNone) = true
    simp [tags, trap]
  refine ends_get_bind ?_
  rw [if_pos done]
  exact retireWithFlags_quiet q

/-- R234: with elements on their way, it retires and waits for them. -/
theorem vecAmo_sent (r : s.Groups d (widthOf e) [(b, 32)])
    (h : Ends (atomicElems (s.vecAtomicOp op e) false (s.indexed base b)
      (amoElem (s.vecAtomicOp op e) d.toNat (s.indexed base b)) (s.active p)) (s.ndetBy e p) (fl, none) t)
    (tags : t.h.waitTags ≠ []) :
    Ends (vecAmo word op d b e p base) s ()
      { t.endElems.retire with h := { t.endElems.retire.h with waitFlags := fl } } := by
  refine vecMemRun_ready r sb (ends_get_bind (ends_bind (vecNdet_ends det) (ends_bind h (ends_bind (vecEnd_none t) ?_))))
  have waits : ¬(t.endElems.h.waitTags.isEmpty && t.endElems.h.waitTrap.isNone) = true := by
    show ¬(t.h.waitTags.isEmpty && t.h.waitTrap.isNone) = true
    simp [tags]
  refine ends_get_bind ?_
  rw [if_neg waits]
  rfl

/-- R231, R233: a return-free vector reduction ends once its elements have been sent. -/
theorem vecRed_sent (r : s.VecReady fun vl => groupsOk vl none [(d, widthOf e), (b, 32)])
    (h : Ends (atomicElems (s.vecAtomicOp op e) true (s.indexed base b)
      (redElem (s.vecAtomicOp op e) d.toNat (s.indexed base b)) (s.active p)) (s.ndetBy e p) (fl, none) t) :
    Ends (vecRed word op d b e p base) s () t.endElems :=
  vecMemRun_ready r sb (ends_get_bind (ends_bind (vecNdet_ends det) (ends_bind h (vecEnd_none t))))

end

/-- Settles O38: loads are `vecGather`, stores, timed stores and the ordered form `vecMem`, indexed atomics `vecAmo` and
`vecRed`, each with its address function; what each of them and vappend comes to is proved once above. -/
theorem vectorMemoryCompletes : Obligations.VectorMemoryCompletes := by
  unfold Obligations.VectorMemoryCompletes
  refine ⟨fun d a b o p e h k f s t => ?_, fun d a p e s => ?_, fun d a b p e s t fl => ?_⟩
  · intro w n v u load store ld st x time
    exact ⟨vecGather_completes rfl t, vecGather_completes rfl t, vecGather_completes rfl t,
      fun other => vecGather_completes (exec_vldm_elements d a p s other) t,
      fun nibbles => vecGather_completes (exec_vldm_nibbles d a p s nibbles) t, vecGather_completes rfl t,
      vecMem_completes rfl t, vecMem_completes rfl t, vecMem_completes rfl t,
      fun other => vecMem_completes (exec_vstm_elements d a p s other) t,
      fun nibbles => vecMem_completes (exec_vstm_nibbles d a p s nibbles) t, vecMem_completes rfl t,
      vecMem_completes rfl t⟩
  · intro w es ptr bytes r sb
    exact ⟨fun idle => finish_ok (vecAppend_empty r sb idle),
      fun lo hi old fl t u some_active first aligned window adds fits above below stores =>
        finish_ok (vecAppend_stores r sb some_active first aligned window adds fits above below stores)⟩
  · intro w es nd u addr amo red sb det
    have returns (i : Instr) (word op : Nat) (is : exec i s = finishAt (vecAmo word op d b e p (s.x a)) s) : amo i op := by
      intro r o h
      refine ⟨fun tags trap q => is.trans (finishAt_ok (vecAmo_performed sb det r h tags trap q)), fun tags => ?_⟩
      exact ⟨_, is.trans (finishAt_ok (vecAmo_sent sb det r h tags)), rfl, rfl, rfl, rfl, rfl, rfl⟩
    have reduces (i : Instr) (word op : Nat) (is : exec i s = finish (vecRed word op d b e p (s.x a)) s) : red i op := by
      intro r o h
      exact is.trans (finish_ok (vecRed_sent sb det r h))
    exact ⟨returns _ _ 0 rfl, returns _ _ 1 rfl, returns _ _ 2 rfl, returns _ _ 3 rfl, returns _ _ 4 rfl, returns _ _ 5 rfl,
      returns _ _ 6 rfl, returns _ _ 7 rfl, returns _ _ 8 rfl, reduces _ _ 1 rfl, reduces _ _ 2 rfl, reduces _ _ 3 rfl,
      reduces _ _ 4 rfl, reduces _ _ 5 rfl, reduces _ _ 6 rfl, reduces _ _ 7 rfl, reduces _ _ 8 rfl⟩

end Sys2Proof.Machine
end

section
/-! SUPPORT. Clocks, power and time (R21, R23 to R27, R239 to R257): what a frequency step, a lowered ceiling, published
telemetry and a measured offset do to the package, and each event of them. -/

namespace Sys2Proof.Machine

/-! ### What a change of one die leaves -/

/-- What `g` reads of a die is the same in every die, where the change of die `d` leaves it. -/
theorem Pkg.onDie_keeps {α : Type} (g : Die → α) {f : Die → Die} (h : ∀ x, g (f x) = g x) (p : Pkg) (d k : Nat) :
    g ((p.onDie d f).die k) = g (p.die k) := by
  by_cases same : k = d
  · subst same
    by_cases hk : k < 4
    · rw [Pkg.die_onDie_same _ _ _ hk, h]
    · simp [Pkg.die, Pkg.onDie, Vector.getD, hk]
  · rw [Pkg.die_onDie_other _ _ same]

/-- A record in a black box leaves the rest of every die. -/
theorem Pkg.logEvent_keeps {α : Type} (g : Die → α) (h : ∀ x b n, g { x with bbox := b, seq := n } = g x) (p : Pkg)
    (d code src data0 data1 k : Nat) : g ((p.logEvent d code src data0 data1).die k) = g (p.die k) :=
  Pkg.onDie_keeps g (fun x => h x _ _) p d k

/-- What the power and thermal control remembers of a die. -/
def Die.control (d : Die) : Nat × Nat × Bool × Option Nat × Option Nat :=
  (d.powerStep, d.tctlStep, d.hot, d.lastPower, d.lastTctl)

/-- A ceiling is made of STEPMAX and of the two thermal actions (R24). -/
theorem ceiling_congr {p q : Pkg} {die : Nat} (regs : q.regs = p.regs) (tctl : (q.die die).tctlStep = (p.die die).tctlStep)
    (hot : (q.die die).hot = (p.die die).hot) : q.ceiling die = p.ceiling die := by
  simp only [Pkg.ceiling, Pkg.stepmax, Pkg.ctl, regs, tctl, hot]

/-! ### Frequency steps (R256, R257) -/

/-- A die whose next edge starts a relock to the step `new`, with `fs` the newest of its records. -/
def Die.relocking (new : Nat) (fs : FStep) (d : Die) : Die :=
  { d with
    cycle := (d.cycle + 1) % 2 ^ 64
    ncyc := (d.ncyc + stepRatio d.step) % (792 * 2 ^ 64)
    fstep := (fs :: d.fstep).take 4
    step := new
    relockEnd := some (d.nextEdge + relockTime) }

section
variable {p : Pkg} {die new : Nat}

theorem freqStep_eq (hd : die < 4) (idle : (p.die die).relockEnd = none) (ne : new ≠ (p.die die).step) :
    ∃ fs w, p.freqStep die new = (p.onDie die (Die.relocking new fs)).logEvent die 0x13 0xFFFF w 0 :=
  ⟨_, _, if_neg (by simp [idle, ne, hd])⟩

variable (p die new) in
/-- A step is taken, or nothing changes. -/
theorem freqStep_cases : p.freqStep die new = p ∨
    ∃ fs w, p.freqStep die new = (p.onDie die (Die.relocking new fs)).logEvent die 0x13 0xFFFF w 0 := by
  by_cases h : 4 ≤ die ∨ (p.die die).relockEnd.isSome ∨ new = (p.die die).step
  · exact .inl (if_pos h)
  · exact .inr ⟨_, _, if_neg h⟩

@[simp] theorem freqStep_regs : (p.freqStep die new).regs = p.regs := by
  rcases freqStep_cases p die new with e | ⟨fs, w, e⟩ <;> simp [e]

theorem freqStep_time : (p.freqStep die new).time = p.time := by
  rcases freqStep_cases p die new with e | ⟨fs, w, e⟩ <;> simp [e]

theorem freqStep_control (k : Nat) : ((p.freqStep die new).die k).control = (p.die k).control := by
  rcases freqStep_cases p die new with e | ⟨fs, w, e⟩
  · rw [e]
  · rw [e, Pkg.logEvent_keeps Die.control fun _ _ _ => rfl, Pkg.onDie_keeps (f := Die.relocking new fs) Die.control fun _ => rfl]

/-- R256, R257: the step is the new one, and the relock ends 6,000 gt after the next edge, which is counted. -/
theorem freqStep_clock (hd : die < 4) (idle : (p.die die).relockEnd = none) (ne : new ≠ (p.die die).step) :
    ((p.freqStep die new).die die).step = new ∧
    ((p.freqStep die new).die die).relockEnd = some ((p.die die).nextEdge + relockTime) ∧
    ((p.freqStep die new).die die).cycle = ((p.die die).cycle + 1) % 2 ^ 64 := by
  obtain ⟨fs, w, e⟩ := freqStep_eq hd idle ne
  rw [e, Pkg.logEvent_keeps Die.step fun _ _ _ => rfl, Pkg.logEvent_keeps Die.relockEnd fun _ _ _ => rfl,
    Pkg.logEvent_keeps Die.cycle fun _ _ _ => rfl, Pkg.die_onDie_same _ _ _ hd]
  exact ⟨rfl, rfl, rfl⟩

theorem freqStep_other {d : Nat} (ne : d ≠ die) : (p.freqStep die new).die d = p.die d := by
  rcases freqStep_cases p die new with e | ⟨fs, w, e⟩ <;> rw [e]
  rw [Pkg.logEvent, Pkg.die_onDie_other _ _ ne, Pkg.die_onDie_other _ _ ne]

end

/-! ### Ceilings (R23, R24) -/

section
variable {p : Pkg} {die : Nat}

/-- A die at or above the number of its ceiling stays. -/
theorem lowerTo_within (h : p.ceiling die ≤ (p.die die).step) : p.lowerTo die = p := if_neg (by omega)

theorem lowerTo_cases (p : Pkg) (die : Nat) : p.lowerTo die = p ∨ p.lowerTo die = p.freqStep die (p.ceiling die) := by
  by_cases h : (p.die die).step < p.ceiling die
  · exact .inr (if_pos h)
  · exact .inl (if_neg h)

@[simp] theorem lowerTo_regs : (p.lowerTo die).regs = p.regs := by
  rcases lowerTo_cases p die with e | e <;> rw [e]
  exact freqStep_regs

theorem lowerTo_time : (p.lowerTo die).time = p.time := by
  rcases lowerTo_cases p die with e | e <;> rw [e]
  exact freqStep_time

theorem lowerTo_control : ((p.lowerTo die).die die).control = (p.die die).control := by
  rcases lowerTo_cases p die with e | e <;> rw [e]
  exact freqStep_control die

/-- R23: a die whose clock runs is brought to its ceiling. -/
theorem lowerTo_step (hd : die < 4) (idle : (p.die die).relockEnd = none) :
    p.ceiling die ≤ ((p.lowerTo die).die die).step := by
  by_cases h : (p.die die).step < p.ceiling die
  · rw [show p.lowerTo die = _ from if_pos h, (freqStep_clock hd idle (by omega)).1]
  · rw [lowerTo_within (by omega)]
    omega

@[simp] theorem holdStep_regs : (p.holdStep die).regs = p.regs := by
  unfold Pkg.holdStep
  split <;> rfl

/-- Only the step that the power control allows is held. -/
theorem holdStep_keeps {α : Type} (g : Die → α) (h : ∀ x n, g { x with powerStep := n } = g x) (k : Nat) :
    g ((p.holdStep die).die k) = g (p.die k) := by
  unfold Pkg.holdStep
  split
  · exact Pkg.onDie_keeps g (fun x => h x _) p die k
  · rfl

theorem holdStep_powerStep (hd : die < 4) (h : p.ceiling die < (p.die die).step) :
    ((p.holdStep die).die die).powerStep = (p.die die).step := by
  rw [show p.holdStep die = _ from if_pos h, Pkg.die_onDie_same _ _ _ hd]

end

/-! ### Telemetry (R27) -/

section
variable (s b : State)

/-- Telling what changed adds to the outputs alone. -/
theorem tell_eq : ∃ out, s.tell b = { s with pkg := { s.pkg with outputs := out } } := by
  unfold State.tell
  split
  · exact ⟨s.pkg.outputs, rfl⟩
  · exact ⟨_, rfl⟩

@[simp] theorem tell_die (k : Nat) : (s.tell b).pkg.die k = s.pkg.die k := by
  obtain ⟨out, e⟩ := tell_eq s b
  rw [e]; rfl

@[simp] theorem tell_regs : (s.tell b).pkg.regs = s.pkg.regs := by
  obtain ⟨out, e⟩ := tell_eq s b
  rw [e]

theorem onlyPackage_tell (p : Pkg) : OnlyPackage s (({ s with pkg := p } : State).tell b) := by
  obtain ⟨out, e⟩ := tell_eq { s with pkg := p } b
  rw [e]; rfl

end

/-! What is done at most once in a time `n` comes late enough after the last time, or too early (R23, R25). -/

theorem any_early_true {last : Option Nat} {time n : Nat} (h : ∃ t0, last = some t0 ∧ time < t0 + n) :
    last.any (fun t => time < t + n) = true := by
  obtain ⟨t0, rfl, early⟩ := h
  simpa using early

theorem any_early_false {last : Option Nat} {time n : Nat} (h : ∀ t0, last = some t0 → t0 + n ≤ time) :
    last.any (fun t => time < t + n) = false := by
  cases last with
  | none => rfl
  | some t0 => simpa using h t0 rfl

/-! ### The events of a die (R23 to R25, R253, R256) -/

/-- A die whose relock ended at `e`, an edge that is not counted, its nominal cycles counted by `count` (R256). -/
def Die.relocked (count : Nat → Nat) (e : Nat) (d : Die) : Die :=
  { d with relockEnd := none, ncyc := count d.ncyc, nextEdge := e + stepPeriod d.step }

/-- Counting edges changes neither the step nor a relock. -/
theorem catchUp_keeps (t : Nat) (d : Die) : (d.catchUp t).step = d.step ∧ (d.catchUp t).relockEnd = d.relockEnd := by
  unfold Die.catchUp
  split <;> exact ⟨rfl, rfl⟩

/-- The state once the power control has moved a die to the step `new`, noted with its time (R23). -/
def State.powerMoved (s : State) (die new : Nat) : State :=
  let q := s.pkg.onDie die fun d => { d with powerStep := new, lastPower := some s.pkg.time }
  ({ s with pkg := q.freqStep die new } : State).tell s

/-- A die whose link delays have been calibrated once more (R241). -/
def Die.recalibrated (d : Die) : Die := { d with calibrations := d.calibrations + 1 }

section
variable {die : Nat} {s : State} (hd : die < 4)
include hd

theorem relockEnds_done {e : Nat} (ends : (s.pkg.die die).relockEnd = some e) (due : e ≤ s.pkg.time)
    (within : s.pkg.ceiling die ≤ (s.pkg.die die).step) :
    OnlyPackage s (relockEnds die s) ∧ ((relockEnds die s).pkg.die die).relockEnd = none ∧
      ((relockEnds die s).pkg.die die).step = (s.pkg.die die).step := by
  obtain ⟨count, run⟩ : ∃ count, relockEnds die s =
      ({ s with pkg := ((s.pkg.onDie die (Die.relocked count e)).lowerTo die).onDie die (Die.catchUp s.pkg.time) } : State).tell s := by
    refine ⟨fun n => (n + 3750 * 792) % (792 * 2 ^ 64), ?_⟩
    simp only [relockEnds, ends, if_neg (Nat.not_lt.mpr due), lowerTo_time]
    rfl
  have resumed : (s.pkg.onDie die (Die.relocked count e)).die die = (s.pkg.die die).relocked count e :=
    Pkg.die_onDie_same _ _ _ hd
  have stays : (s.pkg.onDie die (Die.relocked count e)).lowerTo die = s.pkg.onDie die (Die.relocked count e) := by
    refine lowerTo_within ?_
    rw [ceiling_congr (p := s.pkg) (q := s.pkg.onDie die (Die.relocked count e)) rfl (by rw [resumed]; rfl)
      (by rw [resumed]; rfl), resumed]
    exact within
  rw [run, stays]
  refine ⟨onlyPackage_tell s s _, ?_⟩
  rw [tell_die, Pkg.die_onDie_same _ _ _ hd, (catchUp_keeps _ _).1, (catchUp_keeps _ _).2, resumed]
  exact ⟨rfl, rfl⟩

theorem powerMoved_die {new : Nat} (idle : (s.pkg.die die).relockEnd = none) (ne : new ≠ (s.pkg.die die).step) :
    OnlyPackage s (s.powerMoved die new) ∧ ((s.powerMoved die new).pkg.die die).step = new ∧
      ((s.powerMoved die new).pkg.die die).powerStep = new ∧
      ((s.powerMoved die new).pkg.die die).lastPower = some s.pkg.time := by
  let q := s.pkg.onDie die fun d => { d with powerStep := new, lastPower := some s.pkg.time }
  have noted : q.die die = { s.pkg.die die with powerStep := new, lastPower := some s.pkg.time } :=
    Pkg.die_onDie_same _ _ _ hd
  have control := freqStep_control (p := q) (die := die) (new := new) die
  simp only [Die.control, noted, Prod.mk.injEq] at control
  obtain ⟨power, -, -, last, -⟩ := control
  refine ⟨onlyPackage_tell s s _, ?_⟩
  rw [State.powerMoved, tell_die]
  exact ⟨(freqStep_clock hd (by rw [noted]; exact idle) (by rw [noted]; exact ne)).1, power, last⟩

/-- R25: a die above TCTL goes down a step, or stays where it is lower. -/
theorem tctlTick_above {temp : Nat} (hot : 8 * bits (s.pkg.ctl offTctl) 0 7 < temp)
    (idle : (s.pkg.die die).relockEnd = none)
    (rested : ∀ t0, (s.pkg.die die).lastTctl = some t0 → t0 + nanoseconds 1000000 ≤ s.pkg.time) :
    OnlyPackage s (tctlTick die temp s) ∧
      ((tctlTick die temp s).pkg.die die).tctlStep = min 5 ((s.pkg.die die).step + 1) ∧
      min 5 ((s.pkg.die die).step + 1) ≤ ((tctlTick die temp s).pkg.die die).step ∧
      ((tctlTick die temp s).pkg.die die).lastTctl = some s.pkg.time := by
  let act (d : Die) : Die := { d with tctlStep := min 5 (d.step + 1), lastTctl := some s.pkg.time }
  have acted : (s.pkg.onDie die act).die die = act (s.pkg.die die) := Pkg.die_onDie_same _ _ _ hd
  have run : tctlTick die temp s = ({ s with pkg := (s.pkg.onDie die act).lowerTo die } : State).tell s := by
    simp [tctlTick, hd, hot, idle, any_early_false rested, act]
  have control := lowerTo_control (p := s.pkg.onDie die act) (die := die)
  simp only [Die.control, acted, Prod.mk.injEq] at control
  obtain ⟨-, tctl, -, -, last⟩ := control
  have lowered := lowerTo_step (p := s.pkg.onDie die act) hd (by rw [acted]; exact idle)
  have ceiling : min 5 ((s.pkg.die die).step + 1) ≤ (s.pkg.onDie die act).ceiling die := by
    simp only [Pkg.ceiling, acted, act]
    omega
  rw [run, tell_die]
  exact ⟨onlyPackage_tell s s _, tctl, ceiling.trans lowered, last⟩

omit hd in
/-- R25: it goes down at most once a millisecond. -/
theorem tctlTick_early {temp : Nat} (hot : 8 * bits (s.pkg.ctl offTctl) 0 7 < temp)
    (early : ∃ t0, (s.pkg.die die).lastTctl = some t0 ∧ s.pkg.time < t0 + nanoseconds 1000000) : tctlTick die temp s = s := by
  simp [tctlTick, hot, any_early_true early]

/-- R25: at TCTL or below it the action ends, and the die stays at its step. -/
theorem tctlTick_below {temp : Nat} (cool : temp ≤ 8 * bits (s.pkg.ctl offTctl) 0 7) :
    OnlyPackage s (tctlTick die temp s) ∧ ((tctlTick die temp s).pkg.die die).tctlStep = 0 ∧
      ((tctlTick die temp s).pkg.die die).step = (s.pkg.die die).step := by
  have run : tctlTick die temp s =
      ({ s with pkg := (s.pkg.onDie die fun d => { d with tctlStep := 0 }).holdStep die } : State).tell s := by
    simp [tctlTick, hd, Nat.not_lt.mpr cool]
  rw [run, tell_die, holdStep_keeps Die.tctlStep fun _ _ => rfl, holdStep_keeps Die.step fun _ _ => rfl,
    Pkg.die_onDie_same _ _ _ hd]
  exact ⟨onlyPackage_tell s s _, rfl, rfl⟩

/-- R25: at 105 °C the die is brought to 0.9 GHz. -/
theorem over105_lowers (idle : (s.pkg.die die).relockEnd = none) :
    OnlyPackage s (over105 die s) ∧ ((over105 die s).pkg.die die).hot = true ∧ 5 ≤ ((over105 die s).pkg.die die).step := by
  have noted : (s.pkg.onDie die fun d => { d with hot := true }).die die = { s.pkg.die die with hot := true } :=
    Pkg.die_onDie_same _ _ _ hd
  have control := lowerTo_control (p := s.pkg.onDie die fun d => { d with hot := true }) (die := die)
  simp only [Die.control, noted, Prod.mk.injEq] at control
  obtain ⟨-, -, hot, -, -⟩ := control
  have lowered := lowerTo_step (p := s.pkg.onDie die fun d => { d with hot := true }) hd (by rw [noted]; exact idle)
  have ceiling : 5 ≤ (s.pkg.onDie die fun d => { d with hot := true }).ceiling die := by
    simp [Pkg.ceiling, noted]
  refine ⟨onlyPackage_tell s s _, ?_⟩
  rw [over105, tell_die]
  exact ⟨hot, ceiling.trans lowered⟩

/-- R23: as the action ends, the die stays at its step. -/
theorem end105_stays : OnlyPackage s (end105 die s) ∧ ((end105 die s).pkg.die die).hot = false ∧
    ((end105 die s).pkg.die die).step = (s.pkg.die die).step := by
  refine ⟨onlyPackage_tell s s _, ?_⟩
  rw [end105, tell_die, holdStep_keeps Die.hot fun _ _ => rfl, holdStep_keeps Die.step fun _ _ => rfl,
    Pkg.die_onDie_same _ _ _ hd]
  exact ⟨rfl, rfl⟩

/-- R23: what the power control does in a tick that does not come too early. -/
theorem powerTick_cases {average1 average10 : Nat} (idle : (s.pkg.die die).relockEnd = none)
    (rested : ∀ t0, (s.pkg.die die).lastPower = some t0 → t0 + nanoseconds 1000000 ≤ s.pkg.time) :
    let cap := bits (s.pkg.ctl offPcap) 0 16
    let d := s.pkg.die die
    let above := cap < average10 ∨ cap * 12 < average1 * 10
    (above → d.step < 5 → powerTick die average1 average10 s = s.powerMoved die (d.step + 1)) ∧
    (¬above → average10 * 100 ≤ cap * 95 → s.pkg.ceiling die < d.step →
      powerTick die average1 average10 s = s.powerMoved die (d.step - 1)) ∧
    (¬above → cap * 95 < average10 * 100 → powerTick die average1 average10 s = s) := by
  intro cap d above
  have goes : ¬(4 ≤ die ∨ (s.pkg.die die).lastPower.any (fun t => s.pkg.time < t + nanoseconds 1000000) = true ∨
      (s.pkg.die die).relockEnd.isSome = true) := by
    simp [any_early_false rested, idle, hd]
  have limit : (decide (cap < average10) || decide (cap * 12 < average1 * 10)) = true ↔ above := by simp [above]
  refine ⟨fun hot low => ?_, fun cool room slow => ?_, fun cool full => ?_⟩ <;> simp only [powerTick, if_neg goes]
  · exact (if_pos (limit.mpr hot)).trans (if_pos low)
  · exact (if_neg (mt limit.mp cool)).trans (if_pos (by simpa using And.intro room slow))
  · exact (if_neg (mt limit.mp cool)).trans (if_neg (by simpa using fun room => absurd full (Nat.not_lt.mpr room)))

/-- R21, R241: a repaired lane is noted, and both ends of its link are calibrated again. -/
theorem laneRepair_notes {lane : Nat} (hl : lane < 1024) :
    let t := laneRepair die lane s
    OnlyPackage s t ∧ (t.pkg.die die).calibrations = (s.pkg.die die).calibrations + 1 ∧
      (t.pkg.die ((die + 1) % 4)).calibrations = (s.pkg.die ((die + 1) % 4)).calibrations + 1 ∧
      t.pkg.lanes = tableSet s.pkg.lanes (laneName die lane)
        { s.pkg.lane die lane with repaired := true, repairs := (s.pkg.lane die lane).repairs + 1 } := by
  have next : (die + 1) % 4 ≠ die := by omega
  have here : ¬(4 ≤ die ∨ 1024 ≤ lane) := by omega
  let q := (s.pkg.onDie die Die.recalibrated).onDie ((die + 1) % 4) Die.recalibrated
  have both : q.die die = (s.pkg.die die).recalibrated ∧ q.die ((die + 1) % 4) = (s.pkg.die ((die + 1) % 4)).recalibrated := by
    rw [Pkg.die_onDie_other _ _ next.symm, Pkg.die_onDie_same _ _ _ hd, Pkg.die_onDie_same _ _ _ (Nat.mod_lt _ (by omega)),
      Pkg.die_onDie_other _ _ next]
    exact ⟨rfl, rfl⟩
  let l : Lane := { s.pkg.lane die lane with repaired := true, repairs := (s.pkg.lane die lane).repairs + 1 }
  have run : laneRepair die lane s =
      { s with pkg := { q with lanes := tableSet s.pkg.lanes (laneName die lane) l } } := if_neg here
  intro t
  rw [show t = _ from run]
  exact ⟨rfl, congrArg Die.calibrations both.1, congrArg Die.calibrations both.2, rfl⟩

/-- R23, R24: STEPMAX written brings a die to a lower ceiling, and leaves one that a higher ceiling holds no more. -/
theorem stepmaxWrite_ceiling {a : Agent} {v : Dword} (c : supervises a = true) (le : v.toNat % 8 ≤ 5) :
    let t := stepmaxWrite a die v s
    OnlyPackage s t ∧ t.pkg.ctl (offStepmax die) = BitVec.ofNat 64 (v.toNat % 8) ∧
      ((s.pkg.die die).relockEnd = none → v.toNat % 8 ≤ (t.pkg.die die).step) ∧
      (t.pkg.ceiling die < (s.pkg.die die).step →
        (t.pkg.die die).step = (s.pkg.die die).step ∧ (t.pkg.die die).powerStep = (s.pkg.die die).step) := by
  have value : bits v 0 3 = v.toNat % 8 := by simp [bits]
  let p := s.pkg.setCtl (offStepmax die) (BitVec.ofNat 64 (v.toNat % 8))
  have written : p.ctl (offStepmax die) = BitVec.ofNat 64 (v.toNat % 8) := ctl_setCtl_same _ _ _
  have above : v.toNat % 8 ≤ p.ceiling die := by
    have : p.stepmax die = v.toNat % 8 := by
      rw [Pkg.stepmax, written, bits, BitVec.toNat_ofNat]
      omega
    rw [Pkg.ceiling, this]
    omega
  have run : stepmaxWrite a die v s = ({ s with pkg := (p.lowerTo die).holdStep die } : State).tell s := by
    simp [stepmaxWrite, c, hd, value, le, p]
  intro t
  have regs : t.pkg.regs = p.regs := by simp only [t, run, tell_regs, holdStep_regs, lowerTo_regs]
  have step : (t.pkg.die die).step = ((p.lowerTo die).die die).step := by
    simp only [t, run, tell_die, holdStep_keeps Die.step fun _ _ => rfl]
  refine ⟨?_, ?_, fun idle => ?_, fun free => ?_⟩
  · rw [show t = _ from run]
    exact onlyPackage_tell s s _
  · rw [Pkg.ctl, regs]
    exact written
  · rw [step]
    exact above.trans (lowerTo_step hd idle)
  · have control := lowerTo_control (p := p) (die := die)
    simp only [Die.control, Prod.mk.injEq] at control
    obtain ⟨-, tctl, hot, -, -⟩ := control
    have same : t.pkg.ceiling die = p.ceiling die := by
      refine ceiling_congr regs ?_ ?_
      · simp only [t, run, tell_die, holdStep_keeps Die.tctlStep fun _ _ => rfl, tctl]
      · simp only [t, run, tell_die, holdStep_keeps Die.hot fun _ _ => rfl, hot]
    rw [same] at free
    have stays : p.lowerTo die = p := lowerTo_within (Nat.le_of_lt free)
    rw [step, stays]
    refine ⟨rfl, ?_⟩
    simp only [t, run, tell_die, stays]
    exact holdStep_powerStep hd free

end

/-- R253: the end of a debug halt is noted, and the scheduler places gangs again. -/
theorem haltEnds_selects {die : Nat} {s t : State} (halted : (s.pkg.die die).halted = true)
    (selects : ({ s with pkg := s.pkg.onDie die fun d =>
      { d with halted := false, halts := d.halts ++ [(d.haltSince, s.pkg.time)] } } : State).select die = some t) :
    Ends (haltEnds die) s () t := by
  refine ends_get_bind ?_
  rw [if_pos halted]
  exact run_orStop selects

/-! ### The events of the package (R23 to R25) -/

theorem mem_setInsert (l : List Nat) (a : Nat) : a ∈ setInsert l a := by
  induction l with
  | nil => simp [setInsert]
  | cons k r ih =>
    simp only [setInsert]
    split
    · simp
    · split
      · simp_all
      · exact List.mem_cons_of_mem _ ih

/-- R25: at 115 °C the supplies go, and every die stands still. -/
theorem thermalTrip_stops {sensor temp : Nat} {s : State} (hot : 920 ≤ temp) (live : s.pkg.tripped = false) :
    let t := thermalTrip sensor temp s
    OnlyPackage s t ∧ t.pkg.tripped = true ∧ t.pkg.outputs = s.pkg.outputs ++ [.tripOutput] ∧
      ∀ die, t.pkg.stopped die = true := by
  have goes : ¬(temp < 920 ∨ s.pkg.tripped = true) := by simp [hot, live]
  intro t
  rw [show t = _ from if_neg goes]
  exact ⟨rfl, rfl, rfl, fun die => by simp [Pkg.stopped]⟩

theorem pcapWrite_held {a : Agent} {v : Dword} {s : State} (c : supervises a = true) :
    pcapWrite a v s = s.setReg offPcap (BitVec.ofNat 64 (max 1200 (min Config.powerLimit (v.toNat % 2 ^ 16)))) := by
  simp [pcapWrite, c, clampNat, bits, State.setReg]

theorem tctlWrite_held {a : Agent} {v : Dword} {s : State} (c : supervises a = true) :
    tctlWrite a v s = s.setReg offTctl (BitVec.ofNat 64 (max 70 (min 100 (v.toNat % 2 ^ 7)))) := by
  simp [tctlWrite, c, clampNat, bits, State.setReg]

/-! ### Fields of written registers (R4) -/

theorem testBit_bits (v : Dword) (lo n j : Nat) : (bits v lo n).testBit j = (decide (j < n) && bit v (lo + j)) := by
  rw [bits, Nat.testBit_mod_two_pow, Nat.testBit_div_two_pow, bit_eq_getLsbD, BitVec.getLsbD, Nat.add_comm]

/-- A field that was written reads as the number written, as far as it has room. -/
theorem bits_setBits_same (v : Dword) {lo n : Nat} (x : Nat) (h : lo + n ≤ 64) :
    bits (setBits v lo n x) lo n = x % 2 ^ n := by
  refine Nat.eq_of_testBit_eq fun j => ?_
  rw [testBit_bits, bit_setBits v x _ h, Nat.testBit_mod_two_pow]
  by_cases inside : j < n <;> simp [inside]

/-- A field apart from the one written reads as before. -/
theorem bits_setBits_apart (v : Dword) {lo n lo' n' : Nat} (x : Nat) (h : lo + n ≤ 64) (apart : lo' + n' ≤ lo ∨ lo + n ≤ lo') :
    bits (setBits v lo n x) lo' n' = bits v lo' n' := by
  refine Nat.eq_of_testBit_eq fun j => ?_
  rw [testBit_bits, testBit_bits, bit_setBits v x _ h]
  by_cases inside : j < n'
  · rw [if_neg (by omega)]
  · simp [inside]

/-! ### The timebase (R242) -/

section
variable (p : Pkg) (new : Nat)

/-- A change of STATE writes STATE, and where it enters HOLDOVER the count of entries. -/
theorem toTimeState_writes :
    ∃ v, (v = setBits (p.ctl offTimestat) 0 2 new ∨ ∃ n, v = setBits (setBits (p.ctl offTimestat) 0 2 new) 32 32 n) ∧
      (p.toTimeState new).ctl offTimestat = v := by
  let v := setBits (p.ctl offTimestat) 0 2 new
  refine ⟨if new = 3 ∧ p.timeState ≠ 3 then setBits v 32 32 (min (2 ^ 32 - 1) (bits v 32 32 + 1)) else v, ?_, ?_⟩
  · split
    · exact .inr ⟨_, rfl⟩
    · exact .inl rfl
  · unfold Pkg.toTimeState
    dsimp only
    split <;> exact ctl_setCtl_same p offTimestat _

theorem timeState_toTimeState : (p.toTimeState new).timeState = new % 4 := by
  obtain ⟨v, rfl | ⟨n, rfl⟩, e⟩ := toTimeState_writes p new <;> rw [Pkg.timeState, e]
  · exact bits_setBits_same _ _ (by omega)
  · exact (bits_setBits_apart _ _ (by omega) (by omega)).trans (bits_setBits_same _ _ (by omega))

theorem offset_toTimeState : bits ((p.toTimeState new).ctl offTimestat) 16 16 = bits (p.ctl offTimestat) 16 16 := by
  obtain ⟨v, rfl | ⟨n, rfl⟩, e⟩ := toTimeState_writes p new <;> rw [e]
  · exact bits_setBits_apart _ _ (by omega) (by omega)
  · exact (bits_setBits_apart _ _ (by omega) (by omega)).trans (bits_setBits_apart _ _ (by omega) (by omega))

theorem lastSync_toTimeState : (p.toTimeState new).lastSync = p.lastSync := by
  unfold Pkg.toTimeState
  dsimp only
  split <;> rfl

end

/-- The package with OFFSET written as measured (R242, R243). -/
def Pkg.withOffset (p : Pkg) (offset : Int) : Pkg :=
  p.setCtl offTimestat (setBits (p.ctl offTimestat) 16 16 (wrap (clampInt (-32767) 32767 offset) 16))

section
variable (p : Pkg) (offset : Int) (s : State)

theorem offset_withOffset :
    bits ((p.withOffset offset).ctl offTimestat) 16 16 = ((max (-32767) (min 32767 offset)) % 65536).toNat := by
  rw [Pkg.withOffset, ctl_setCtl_same, bits_setBits_same _ _ (by omega), wrap]
  have clamp : clampInt (-32767) 32767 offset = max (-32767) (min 32767 offset) := by
    unfold clampInt
    split
    · omega
    · split <;> omega
  rw [clamp]
  omega

theorem timeState_withOffset : (p.withOffset offset).timeState = p.timeState := by
  rw [Pkg.timeState, Pkg.withOffset, ctl_setCtl_same]
  exact bits_setBits_apart _ _ (by omega) (by omega)

theorem master_withOffset : (p.withOffset offset).master = p.master := by
  rw [Pkg.master, Pkg.withOffset, ctl_setCtl_other _ (by decide)]
  rfl

end

/-- The package once it has heard of an offset of this size: good ones counted, STATE changed (R242). -/
def Pkg.heard (p : Pkg) (size : Nat) : Pkg :=
  let good := if size ≤ 16 then p.goodSyncs + 1 else 0
  if p.master then p
  else
    match p.timeState with
    | 1 => if 8 ≤ good then p.toTimeState 2 else { p with goodSyncs := good }
    | 2 => if 24 < size then p.toTimeState 1 else p
    | 3 => p.toTimeState (if size ≤ 16 then 2 else 1)
    | _ => p

theorem offsetMeasured_eq (offset : Int) (s : State) :
    offsetMeasured offset s = { s with pkg := (s.pkg.withOffset offset).heard offset.natAbs } := rfl

/-- The STATE that an offset of this size brings a package that follows a grandmaster to (R242). -/
def Pkg.followed (p : Pkg) (size : Nat) : Nat :=
  match p.timeState with
  | 1 => if size ≤ 16 ∧ 7 ≤ p.goodSyncs then 2 else 1
  | 2 => if 24 < size then 1 else 2
  | 3 => if size ≤ 16 then 2 else 1
  | x => x

section
variable (p : Pkg) (size : Nat)

theorem heard_cases : (∃ g, p.heard size = { p with goodSyncs := g }) ∨ ∃ n, p.heard size = p.toTimeState n := by
  unfold Pkg.heard
  generalize (if size ≤ 16 then p.goodSyncs + 1 else 0) = good
  dsimp only
  split
  · exact .inl ⟨p.goodSyncs, rfl⟩
  · split
    · split
      · exact .inr ⟨2, rfl⟩
      · exact .inl ⟨_, rfl⟩
    · split
      · exact .inr ⟨1, rfl⟩
      · exact .inl ⟨p.goodSyncs, rfl⟩
    · exact .inr ⟨_, rfl⟩
    · exact .inl ⟨p.goodSyncs, rfl⟩

theorem heard_frame : (p.heard size).lastSync = p.lastSync ∧
    bits ((p.heard size).ctl offTimestat) 16 16 = bits (p.ctl offTimestat) 16 16 := by
  obtain ⟨g, e⟩ | ⟨n, e⟩ := heard_cases p size <;> rw [e]
  · exact ⟨rfl, rfl⟩
  · exact ⟨lastSync_toTimeState p n, offset_toTimeState p n⟩

theorem timeState_heard : (p.heard size).timeState = if p.master then p.timeState else p.followed size := by
  have bound : p.timeState < 4 := Nat.mod_lt _ (by decide)
  have state : p.timeState = 0 ∨ p.timeState = 1 ∨ p.timeState = 2 ∨ p.timeState = 3 := by omega
  unfold Pkg.heard
  dsimp only
  split
  · rfl
  · rcases state with h | h | h | h <;> simp only [Pkg.followed, h]
    · have enough : 8 ≤ (if size ≤ 16 then p.goodSyncs + 1 else 0) ↔ size ≤ 16 ∧ 7 ≤ p.goodSyncs := by
        split <;> omega
      simp only [enough]
      split
      · exact timeState_toTimeState p 2
      · exact h
    · split
      · exact timeState_toTimeState p 1
      · exact h
    · rw [timeState_toTimeState]
      split <;> rfl

end

section
variable (s : State)

/-- R242: what a Sync with its offset leaves. -/
theorem ptpSync_measures (offset : Int) :
    let t := ptpSync offset s
    OnlyPackage s t ∧ t.pkg.lastSync = some s.pkg.time ∧
      bits (t.pkg.ctl offTimestat) 16 16 = ((max (-32767) (min 32767 offset)) % 65536).toNat ∧
      t.pkg.timeState = if s.pkg.master then s.pkg.timeState else s.pkg.followed offset.natAbs := by
  let p : Pkg := { s.pkg with lastSync := some s.pkg.time }
  obtain ⟨last, field⟩ := heard_frame (p.withOffset offset) offset.natAbs
  intro t
  rw [show t = _ from offsetMeasured_eq offset { s with pkg := p }]
  refine ⟨rfl, last, field.trans (offset_withOffset p offset), (timeState_heard (p.withOffset offset) _).trans ?_⟩
  rw [master_withOffset, timeState_withOffset, Pkg.followed, timeState_withOffset]
  rfl

/-- R242: 8 intervals without a Sync lose it. -/
theorem syncTimeout_lost {t0 : Nat} (last : s.pkg.lastSync = some t0) :
    let lost := s.pkg.master = false ∧ (s.pkg.timeState = 1 ∨ s.pkg.timeState = 2) ∧ t0 + 8 * s.pkg.syncInterval ≤ s.pkg.time
    (lost → OnlyPackage s (syncTimeout s) ∧ (syncTimeout s).pkg.timeState = 3) ∧ (¬lost → syncTimeout s = s) := by
  intro lost
  have due : s.pkg.syncEnd.any (· ≤ s.pkg.time) = true ↔ lost := by
    unfold Pkg.syncEnd
    by_cases follows : s.pkg.master = false ∧ (s.pkg.timeState = 1 ∨ s.pkg.timeState = 2)
    · rw [if_neg (by rcases follows.2 with h | h <;> simp [follows.1, h])]
      simp [last, lost, follows]
    · rw [if_pos (by simpa [or_iff_not_imp_left] using follows)]
      simp [lost, ← and_assoc, follows]
  refine ⟨fun h => ?_, fun h => if_neg (mt due.mp h)⟩
  rw [show syncTimeout s = _ from if_pos (due.mpr h)]
  exact ⟨rfl, timeState_toTimeState _ _⟩

end

/-! ### The obligation -/

/-- R23: what a tick of the power control leaves, as an event. -/
theorem exec_powerTick {die : Nat} {s : State} (hd : die < 4) (a1 a10 : Nat)
    (rested : ∀ t0, (s.pkg.die die).lastPower = some t0 → t0 + nanoseconds 1000000 ≤ s.pkg.time)
    (idle : (s.pkg.die die).relockEnd = none) :
    let d := s.pkg.die die
    let cap := bits (s.pkg.ctl offPcap) 0 16
    let above := cap < a10 ∨ cap * 12 < a1 * 10
    (above → d.step < 5 → Gives (.evPowerControlTick die a1 a10) s fun t => OnlyPackage s t ∧
      (t.pkg.die die).step = d.step + 1 ∧ (t.pkg.die die).powerStep = d.step + 1 ∧
      (t.pkg.die die).lastPower = some s.pkg.time) ∧
    (¬above → a10 * 100 ≤ cap * 95 → s.pkg.ceiling die < d.step → Gives (.evPowerControlTick die a1 a10) s fun t =>
      OnlyPackage s t ∧ (t.pkg.die die).step = d.step - 1 ∧ (t.pkg.die die).powerStep = d.step - 1) ∧
    (¬above → cap * 95 < a10 * 100 → exec (.evPowerControlTick die a1 a10) s = .next s) := by
  intro d cap above
  obtain ⟨down, up, stay⟩ := powerTick_cases hd (average1 := a1) (average10 := a10) idle rested
  refine ⟨fun hot low => ⟨_, exec_of_next rfl (down hot low), powerMoved_die hd idle (by omega)⟩, fun cool room slow => ?_,
    fun cool full => exec_of_next rfl (stay cool full)⟩
  have lower : d.step - 1 ≠ d.step := by omega
  obtain ⟨frame, step, power, -⟩ := powerMoved_die hd idle lower
  exact ⟨_, exec_of_next rfl (up cool room slow), frame, step, power⟩

/-- Settles O49: each clause is the lemma about its event; what lies beneath most of them is the frequency step, which
changes one die's clock and leaves what its control remembers. -/
theorem clockEventsComplete : Obligations.ClockEventsComplete := by
  unfold Obligations.ClockEventsComplete
  refine ⟨⟨fun die s hd => ?_, fun s n temp power temps => ?_, fun a v die s => ?_, fun off s => ?_⟩,
    fun p die new hd idle ne => ?_⟩
  · intro p d here
    exact ⟨fun e ends due within => ⟨_, rfl, relockEnds_done hd ends due within⟩, exec_powerTick hd,
      fun temp => ⟨fun hot idle rested => ⟨_, rfl, tctlTick_above hd hot idle rested⟩,
        fun hot early => exec_of_next rfl (tctlTick_early hot early), fun cool => ⟨_, rfl, tctlTick_below hd cool⟩⟩,
      fun idle => ⟨_, rfl, over105_lowers hd idle⟩, ⟨_, rfl, end105_stays hd⟩,
      fun on => ⟨_, rfl, rfl, congrArg Die.haltOnBreak (Pkg.die_onDie_same _ _ _ hd)⟩,
      fun t halted selects => finishAt_ok (haltEnds_selects halted selects),
      fun lane hl => ⟨_, rfl, laneRepair_notes hd hl⟩⟩
  · intro p
    exact ⟨fun hot live => ⟨_, rfl, thermalTrip_stops hot live⟩, fun cool => exec_of_next rfl (if_pos (.inl cool)),
      ⟨_, rfl, rfl, mem_setInsert _ _⟩, ⟨_, rfl, rfl, mem_setInsert _ _⟩, rfl⟩
  · intro p
    refine ⟨fun c => ⟨exec_of_next rfl ?_, exec_of_next rfl ?_, exec_of_next rfl ?_⟩,
      fun c => ⟨exec_of_next rfl (pcapWrite_held c), exec_of_next rfl (tctlWrite_held c), fun big => exec_of_next rfl ?_,
        fun hd le => ⟨_, rfl, stepmaxWrite_ceiling hd c le⟩⟩⟩
    · simp [pcapWrite, c]
    · simp [tctlWrite, c]
    · simp [stepmaxWrite, c]
    · simp [stepmaxWrite, bits, big]
  · intro p free size
    refine ⟨⟨_, rfl, ptpSync_measures s off⟩, fun t0 last => ?_⟩
    obtain ⟨timesOut, stays⟩ := syncTimeout_lost s last
    exact ⟨fun lost => ⟨_, rfl, timesOut lost⟩, fun kept => exec_of_next rfl (stays kept)⟩
  · intro q
    obtain ⟨step, relock, cycle⟩ := freqStep_clock hd idle ne
    exact ⟨step, relock, cycle, by simp [Pkg.stopped, q, relock], freqStep_time, freqStep_regs,
      fun d _ other => freqStep_other other⟩

end Sys2Proof.Machine
end

section
/-! SUPPORT. How meanings run past their waits and to their traps; registers (R28), reset (R408) and copies entering the VDQ
(R261, R262, R268). -/

namespace Sys2Proof.Machine

/-! ### Meanings run step by step -/

section
variable {α β : Type} {m : M α} {f : α → M β} {s t u : State} {a : α} {b : β} {k : Trap}

theorem ends_await_bind {c : Bool} {g : Unit → M β} (h : c = true) (rest : Ends (g ()) s b t) : Ends (await c >>= g) s b t := by
  subst h
  exact rest

/-- A trap raised once the first part of a sequence has ended. -/
theorem traps_bind (first : Ends m s a t) (rest : Traps (f a) t k u) : Traps (m >>= f) s k u :=
  (run_bind_ok first f).trans rest

/-- A trap raised by the first part of a sequence. -/
theorem traps_bind_left (first : Traps m s k t) : Traps (m >>= f) s k t := by
  unfold Traps at first ⊢
  rw [run_bind, first]

theorem traps_get_bind {f : State → M α} (h : Traps (f s) s k t) : Traps (get >>= f) s k t := h

end

/-! ### Registers -/

/-- Settles O5: what the laws of the x registers say of a write, read through the state. -/
theorem registerZeroIsHardwired : Obligations.RegisterZeroIsHardwired := fun s _ _ v =>
  ⟨rfl, rfl, Hart.getX_setX_same s.h v, Hart.getX_setX_other s.h v⟩

/-! ### Reset (R408) -/

/-- No queue is configured at reset (R303), and its ring holds nothing. -/
theorem queue_reset : ∀ q < 64, State.reset.pkg.qcfg q = 0 ∧ State.reset.pkg.qcount q = 0 := by decide

/-- No entry of the region table is valid at reset (R178). -/
theorem prt_reset : ∀ n < 64, bit (State.reset.pkg.ctl (offPrt n 0)) 0 = false := by decide

/-- m0 reads all ones at reset, every other mask register 0 (R28). -/
theorem mreg_reset : ∀ k < 16, State.reset.mreg k = if k = 0 then BitVec.allOnes 256 else 0 := by decide

/-- The tiles are 0 at reset (R28). -/
theorem tiles_reset (k : Nat) : State.reset.core.tiles.getD k (Vector.replicate 32 0) = Vector.replicate 32 0 := by
  change (Array.replicate 8 (Vector.replicate 32 0 : Vector Vec 32)).getD k _ = _
  rw [Array.getD_eq_getD_getElem?, Array.getElem?_replicate]
  split <;> rfl

/-- No die has counted a cycle at reset (R257). -/
theorem cycle_reset : ∀ d < 4, (State.reset.pkg.die d).cycle = 0 := by decide

/-- Settles O57: every register by its reset value, the tables entry by entry. -/
theorem resetLeavesTheRulesValues : Obligations.ResetLeavesTheRulesValues := by
  unfold Obligations.ResetLeavesTheRulesValues
  have csrs : State.reset.csr 0x001 = 0 ∧ State.reset.csr 0x008 = 0 ∧ State.reset.csr 0x009 = 0 ∧
      State.reset.csr 0x00A = 32 ∧ State.reset.csr 0x00B = 32 ∧ State.reset.csr 0x00C = 0 ∧
      State.reset.csr 0x018 = BitVec.ofNat 64 (16 + 20 * 2 ^ 16 + 80 * 2 ^ 32) ∧ State.reset.csr 0x019 = 0 :=
    ⟨rfl, rfl, rfl, rfl, rfl, rfl, rfl, rfl⟩
  obtain ⟨fcsr, vl, vstart, mvl, mvc, live, guard, late⟩ := csrs
  exact ⟨rfl, rfl, rfl, mreg_reset, fcsr, vl, vstart, mvl, mvc, live, guard, late, rfl, rfl, rfl, rfl, rfl, rfl, rfl, rfl,
    rfl, rfl, rfl, rfl, queue_reset, prt_reset, fun k _ => tiles_reset k, cycle_reset, rfl, rfl⟩

/-! ### Copies (R261, R262, R268) -/

/-- The copy that a hart asks for at this moment (R34, R261). -/
def State.copyReq (s : State) (a b c : BitVec 5) (form cc : Nat) (index : List Nat) (stream : Bool) : CopyReq :=
  ⟨form, s.x a, s.x b, s.x c, s.x (c + 1), index, cc, stream, s.h.pc, s.h.ctxid, s.h.tid⟩

/-- The state with an entry at the end of its VDQ. -/
def State.queued (s : State) (e : VdqEntry) : State := { s with h := { s.h with vdq := s.h.vdq ++ [e] } }

section
variable {s : State} (a b c : BitVec 5) (n : BitVec 4)

/-- A copy without an index vector enters the VDQ where it has room, but for one of a stream while DET = 1. -/
theorem copy_enters (room : s.h.vdq.length < 32) {form : Nat} (plain : (form == 2 || form == 3 || form == 6) = false)
    {stream : Bool} (free : (stream && bit s.h.fcsr 20) = false) :
    Ends (copy form a b c n stream) s () (s.queued (.copy (s.copyReq a b c form n.toNat [] stream))) := by
  refine ends_get_bind (ends_await_bind (decide_eq_true room) (ends_await_bind (by simp [plain]) ?_))
  rw [if_neg (ne_true_of_eq_false free), if_neg (ne_true_of_eq_false plain)]
  rfl

/-- An indexed copy enters with its index vector, once no vector instruction ahead may still write it (R107). -/
theorem indexedCopy_enters (room : s.h.vdq.length < 32) {form : Nat} (indexed : (form == 2 || form == 3 || form == 6) = true)
    (free : s.vFree = true) (noInsn : ∀ q, VdqEntry.insn q ∉ s.h.vdq) :
    let ix := (List.range (min 256 (bits (s.x c) 32 16))).map (s.elem (bits (s.x c) 56 5) 32)
    Ends (copy form a b c n false) s () (s.queued (.copy (s.copyReq a b c form n.toNat ix false))) := by
  refine ends_get_bind (ends_await_bind (decide_eq_true room) (ends_await_bind ?_ ?_))
  · simp only [indexed, free, Bool.not_true, Bool.false_or, Bool.true_and]
    refine List.all_eq_true.mpr fun e he => ?_
    cases e with
    | insn q => exact absurd he (noInsn q)
    | copy _ => rfl
    | ccset _ _ => rfl
  · rw [if_pos indexed]
    rfl

/-- ccset enters the VDQ where it has room. -/
theorem setCounter_enters (room : s.h.vdq.length < 32) (cc : Nat) (v : Dword) :
    Ends (setCounter cc v) s () (s.queued (.ccset cc (BitVec.ofNat 32 v.toNat))) :=
  ends_get_bind (ends_await_bind (decide_eq_true room) rfl)

end

/-- Settles O27: each form is a copy that enters. -/
theorem copiesEnterTheVdq : Obligations.CopiesEnterTheVdq := by
  unfold Obligations.CopiesEnterTheVdq
  intro a b c n h x s room req ix queued
  refine ⟨fun det => ?_, fun free noInsn => ?_, finish_ok (setCounter_enters room _ _)⟩
  · have free : ((x == 1) && bit s.h.fcsr 20) = false := by rcases det with d | d <;> simp_all
    have enters {form : Nat} (plain : (form == 2 || form == 3 || form == 6) = false) :=
      finish_ok (allOrNothing_ok (copy_enters a b c n room plain free))
    exact ⟨enters (by decide), enters (by decide), enters (by decide), enters (by decide)⟩
  · have enters {form : Nat} (indexed : (form == 2 || form == 3 || form == 6) = true) :=
      finish_ok (indexedCopy_enters a b c n room indexed free noInsn)
    exact ⟨enters (by decide), enters (by decide), enters (by decide)⟩

end Sys2Proof.Machine
end

section
/-! SUPPORT. Control and status registers: what a write leaves (R33 to R48), and who may read and write them (R31, R32, R393). -/

namespace Sys2Proof.Machine

/-! ### Fields of a written register (R4, R33) -/

/-- A dword with a field replaced, as a number: the bits below it, the field, the bits above it. -/
theorem toNat_setBits (v : Dword) {lo n : Nat} (x : Nat) (h : lo + n ≤ 64) :
    (setBits v lo n x).toNat = v.toNat % 2 ^ lo + x % 2 ^ n * 2 ^ lo + v.toNat / 2 ^ (lo + n) * 2 ^ (lo + n) := by
  obtain ⟨k, hk⟩ := Nat.exists_eq_add_of_le h
  have low : v.toNat % 2 ^ lo < 2 ^ lo := Nat.mod_lt _ (Nat.two_pow_pos lo)
  have field : x % 2 ^ n + 1 ≤ 2 ^ n := Nat.mod_lt _ (Nat.two_pow_pos n)
  have top : v.toNat / 2 ^ (lo + n) + 1 ≤ 2 ^ k := by
    refine Nat.div_lt_of_lt_mul ?_
    rw [← Nat.pow_add, ← hk]
    exact v.isLt
  have upper := Nat.mul_le_mul_right (2 ^ lo) field
  have whole := Nat.mul_le_mul_right (2 ^ (lo + n)) top
  rw [← Nat.pow_add, Nat.add_comm n lo, Nat.add_mul, Nat.one_mul] at upper
  rw [← Nat.pow_add, Nat.add_comm k, ← hk, Nat.add_mul, Nat.one_mul] at whole
  rw [setBits, BitVec.toNat_ofNat, Nat.mod_eq_of_lt (by omega)]

/-- A field put in a register of its own. -/
theorem toNat_ofNat_bits (v : Dword) (lo : Nat) {n : Nat} (h : n ≤ 64) : (BitVec.ofNat 64 (bits v lo n)).toNat = bits v lo n := by
  rw [BitVec.toNat_ofNat, Nat.mod_eq_of_lt]
  exact (Nat.mod_lt _ (Nat.two_pow_pos n)).trans_le (Nat.pow_le_pow_right (by omega) h)

section
variable (old v : Dword)

/-- R35: a reserved rounding code leaves RM. -/
theorem toNat_fcsrWrite : (fcsrWrite old v).toNat =
    (if v.toNat % 8 < 4 then v.toNat % 8 else old.toNat % 8) + v.toNat / 8 % 2 ^ 19 * 8 := by
  simp only [fcsrWrite, bits, BitVec.toNat_ofNat, Nat.pow_zero, Nat.div_one, Nat.reducePow]
  split <;> omega

/-- R42: a guard below its floor takes the floor. -/
theorem toNat_tguardWrite : (tguardWrite v).toNat =
    v.toNat % 2 ^ 16 + max 4 (v.toNat / 2 ^ 16 % 2 ^ 16) * 2 ^ 16 + max 64 (v.toNat / 2 ^ 32 % 2 ^ 16) * 2 ^ 32 := by
  simp only [tguardWrite, bits, BitVec.toNat_ofNat]
  omega

/-- R43: CLASS and LATEBY stay. -/
theorem toNat_tlateWrite : (tlateWrite old v).toNat =
    v.toNat % 2 ^ 32 + old.toNat / 2 ^ 32 % 2 ^ 4 * 2 ^ 32 + v.toNat / 2 ^ 36 % 2 * 2 ^ 36 + old.toNat / 2 ^ 37 * 2 ^ 37 := by
  rw [tlateWrite, toNat_setBits _ _ (by omega), toNat_setBits _ _ (by omega)]
  simp only [bits]
  omega

/-- R45: the reserved code of PPRIV leaves it. -/
theorem toNat_estatWrite : (estatWrite old v).toNat =
    (if v.toNat % 4 = 3 then old.toNat % 4 else v.toNat % 4) + v.toNat / 4 % 8 * 4 := by
  simp only [estatWrite, bits, BitVec.toNat_ofNat, Nat.pow_zero, Nat.div_one, Nat.reducePow]
  split <;> omega

/-- R36: a matrix length is 1 to 32. -/
theorem toNat_clampLen : (BitVec.ofNat 64 (clampLen v.toNat)).toNat = max 1 (min v.toNat 32) := by
  simp only [clampLen, BitVec.toNat_ofNat]
  omega

end

/-! ### Local groups (R48) -/

section
variable {s : State} (on : s.core.id < 1536) (k : Nat) (f : LocalGroup → LocalGroup)
include on

theorem dieOfCore_lt : dieOfCore s.core.id < 4 := by
  unfold dieOfCore
  omega

theorem group_onGroup_same : (s.onGroup k f).group k = f (s.group k) := by
  change ((s.pkg.onDie (dieOfCore s.core.id) _).die (dieOfCore s.core.id)).group k = _
  rw [Pkg.die_onDie_same _ _ _ (dieOfCore_lt on), Die.group, tableGet_set_same]
  rfl

theorem group_onGroup_other {j : Nat} (ne : j ≠ k) : (s.onGroup k f).group j = s.group j := by
  change ((s.pkg.onDie (dieOfCore s.core.id) _).die (dieOfCore s.core.id)).group j = _
  rw [Pkg.die_onDie_same _ _ _ (dieOfCore_lt on), Die.group, tableGet_set_other _ ne]
  rfl

end

section
variable {s : State} {n : Nat} (lo : 0x840 ≤ n) (hi : n ≤ 0x85F)
include lo hi

theorem csr_group : s.csr n = (s.group (n - 0x840)).mask := by
  unfold State.csr
  dsimp only
  rw [if_neg (by omega), if_pos ⟨lo, hi⟩]
  rfl

theorem writeCsr_group (v : Dword) : s.writeCsr n v = s.onGroup (n - 0x840) fun g => g.writeMask v := if_pos ⟨lo, hi⟩

/-- R48: BMASK is what was written; with an arrival and a member the membership waits for the phase's end. -/
theorem writeCsr_group_effect (on : s.core.id < 1536) (v : Dword) :
    let t := s.writeCsr n v
    (t.csr n).toNat = v.toNat % 2 ^ 56 ∧
    ((s.group (n - 0x840)).arrived ≠ [] → maskCount (s.group (n - 0x840)).members ≠ 0 →
      (t.group (n - 0x840)).members = (s.group (n - 0x840)).members) ∧
    ∀ m, 0x840 ≤ m → m ≤ 0x85F → m ≠ n → t.csr m = s.csr m ∧ t.group (m - 0x840) = s.group (m - 0x840) := by
  rw [writeCsr_group lo hi]
  refine ⟨?_, fun arrived counted => ?_, fun m mlo mhi ne => ?_⟩
  · rw [csr_group lo hi, group_onGroup_same on]
    exact (toNat_ofNat_bits v 0 (by omega)).trans (congrArg (· % 2 ^ 56) (Nat.div_one _))
  · rw [group_onGroup_same on]
    simp [LocalGroup.writeMask, arrived, counted]
  · have stays := group_onGroup_other on (n - 0x840) (fun g => g.writeMask v) (j := m - 0x840) (by omega)
    rw [csr_group mlo mhi, csr_group mlo mhi, stays]
    exact ⟨rfl, rfl⟩

end

/-! ### The key of the generator (R39) -/

section
variable {s : State} {n : Nat} (lo : 0x010 ≤ n) (hi : n ≤ 0x013)
include lo hi

theorem csr_key : s.csr n = s.h.rngkey.getD (n - 0x010) 0 := by
  unfold State.csr
  dsimp only
  rw [if_neg (by omega), if_neg (by omega), if_pos ⟨lo, hi⟩]

/-- R39: a write of a word of the key sets SEEDED, and leaves CTR and the other words. -/
theorem writeCsr_key_effect (v : Dword) :
    let t := s.writeCsr n v
    (t.csr n).toNat = v.toNat ∧ (t.csr 0x014).toNat = (s.csr 0x014).toNat % 2 ^ 63 + 2 ^ 63 ∧
      ∀ m, 0x010 ≤ m → m ≤ 0x013 → m ≠ n → t.csr m = s.csr m := by
  have write : s.writeCsr n v = { s with h := { s.h with
      rngkey := s.h.rngkey.setIfInBounds (n - 0x010) v, rngctr := setBits s.h.rngctr 63 1 1 } } := by
    unfold State.writeCsr
    dsimp only
    rw [if_neg (by omega), if_pos ⟨lo, hi⟩]
  rw [write]
  refine ⟨?_, ?_, fun m mlo mhi ne => ?_⟩
  · rw [csr_key lo hi]
    exact congrArg BitVec.toNat (vector_getD_set_same _ _ _ (by omega))
  · refine (toNat_setBits _ _ (by omega)).trans ?_
    have := s.h.rngctr.isLt
    show _ = s.h.rngctr.toNat % _ + _
    omega
  · rw [csr_key mlo mhi, csr_key mlo mhi]
    exact vector_getD_set_other _ _ _ (by omega)

end

/-! ### What a write leaves -/

/-- A write of CSR `n`, of none of the local groups, updates one register, whatever it puts there; one of a number
without a register of its own updates none. -/
inductive CsrUpdate (s : State) : Nat → State → Prop
  | fcsr (a : Dword) : CsrUpdate s 0x001 { s with h := { s.h with fcsr := a } }
  | vl (a : Dword) : CsrUpdate s 0x008 { s with h := { s.h with vl := a } }
  | vstart (a : Dword) : CsrUpdate s 0x009 { s with h := { s.h with vstart := a } }
  | mvl (a : Dword) : CsrUpdate s 0x00A { s with h := { s.h with mvl := a } }
  | mvc (a : Dword) : CsrUpdate s 0x00B { s with h := { s.h with mvc := a } }
  | acclive (ts : Vector (Vector Vec 32) 8) (a : Dword) : CsrUpdate s 0x00C { s with core := { s.core with tiles := ts, acclive := a } }
  | rngkey (n : Nat) (ks : Vector Dword 4) (a : Dword) : CsrUpdate s n { s with h := { s.h with rngkey := ks, rngctr := a } }
  | rngctr (a : Dword) : CsrUpdate s 0x014 { s with h := { s.h with rngctr := a } }
  | tguard (a : Dword) : CsrUpdate s 0x018 { s with h := { s.h with tguard := a } }
  | tlate (a : Dword) : CsrUpdate s 0x019 { s with h := { s.h with tlate := a } }
  | ctxid (a : Dword) : CsrUpdate s 0x414 { s with h := { s.h with ctxid := a } }
  | tid (a : Dword) : CsrUpdate s 0x415 { s with h := { s.h with tid := a } }
  | secure (b : Bool) : CsrUpdate s 0x416 { s with core := { s.core with secure := b } }
  | epc (a : Dword) : CsrUpdate s 0x800 { s with h := { s.h with epc := a } }
  | ecause (a : Dword) : CsrUpdate s 0x801 { s with h := { s.h with ecause := a } }
  | eval (a : Dword) : CsrUpdate s 0x802 { s with h := { s.h with eval := a } }
  | eslice (a : Dword) : CsrUpdate s 0x803 { s with h := { s.h with eslice := a } }
  | estat (a : Dword) : CsrUpdate s 0x804 { s with h := { s.h with estat := a } }
  | accown (a : Dword) : CsrUpdate s 0x808 { s with core := { s.core with accown := a } }
  | accen (a : Dword) : CsrUpdate s 0x809 { s with core := { s.core with accen := a } }
  | none (n : Nat) : CsrUpdate s n s

theorem writeCsr_updates (s : State) {n : Nat} (v : Dword) (out : n < 0x840 ∨ 0x85F < n) : CsrUpdate s n (s.writeCsr n v) := by
  unfold State.writeCsr
  dsimp only
  rw [if_neg (by omega)]
  split
  · exact .rngkey n _ _
  · split <;> constructor

/-- R39: SEEDED is kept by a write of the counter. -/
theorem toNat_rngctrWrite (old v : Dword) :
    (setBits v 63 1 (bits old 63 1)).toNat = v.toNat % 2 ^ 63 + old.toNat / 2 ^ 63 * 2 ^ 63 := by
  rw [toNat_setBits _ _ (by omega), bits]
  omega

/-- The world of a core as its register reads (R47). -/
theorem toNat_world (v : Dword) : (BitVec.ofNat 64 (bitOf (bit v 0))).toNat = v.toNat % 2 := by
  have two : bits v 0 1 = v.toNat % 2 := congrArg (· % 2) (Nat.div_one _)
  rw [bit, two]
  rcases Nat.mod_two_eq_zero_or_one v.toNat with h | h <;> rw [h] <;> rfl

/-- Settles O17: each register by the number that its write leaves; for the rest, a write of one register is an update of
one field. -/
theorem csrWritesStayInTheirRegister : Obligations.CsrWritesStayInTheirRegister := by
  unfold Obligations.CsrWritesStayInTheirRegister
  refine ⟨fun s v => ?_, fun s n v out => ?_⟩
  · have low (n : Nat) (h : n ≤ 64) : (BitVec.ofNat 64 (bits v 0 n)).toNat = v.toNat % 2 ^ n :=
      (toNat_ofNat_bits v 0 h).trans (congrArg (· % 2 ^ n) (Nat.div_one _))
    have vl : (BitVec.ofNat 64 (min v.toNat 256)).toNat = min v.toNat 256 := by
      rw [BitVec.toNat_ofNat]
      omega
    have epc : (setBits v 0 2 0).toNat = v.toNat / 4 * 4 := by
      rw [toNat_setBits _ _ (by omega)]
      omega
    exact ⟨toNat_fcsrWrite _ _, vl, low 8 (by omega), toNat_clampLen v, toNat_clampLen v, low 8 (by omega),
      toNat_rngctrWrite _ _, toNat_tguardWrite v, toNat_tlateWrite _ _, low 16 (by omega), low 12 (by omega), toNat_world v, epc,
      low 8 (by omega), rfl, low 5 (by omega), toNat_estatWrite _ _, low 17 (by omega), low 1 (by omega),
      fun n lo hi => writeCsr_key_effect lo hi v, fun n lo hi on => writeCsr_group_effect lo hi on v⟩
  · intro t
    have updates : CsrUpdate s n t := writeCsr_updates s v out
    clear_value t
    cases updates <;> simp

/-! ### Accumulators that are not the hart's own -/

/-- R38: accumulators that are not the hart's own. -/
theorem needAcc_foreign {s : State} (h : ¬s.OwnsAcc) :
    Traps needAcc s { cause := causeAcc, value := BitVec.ofNat 64 (bits s.core.accown 0 17) } s := by
  have foreign : (!s.accMine (bits s.h.ctxid 0 16)) = true := by
    rw [Bool.not_eq_true', Bool.eq_false_iff]
    intro mine
    simp only [State.accMine, Bool.and_eq_true, beq_iff_eq] at mine
    exact h ⟨mine.1.1, mine.1.2, mine.2⟩
  refine traps_get_bind ?_
  rw [foreign]
  rfl

/-! ### The map of the CSRs (R31, R32) -/

/-- Numbers that every privilege reads and writes. -/
def CsrShared (n : Nat) : Prop :=
  n = 0x001 ∨ (0x008 ≤ n ∧ n ≤ 0x00C) ∨ (0x010 ≤ n ∧ n ≤ 0x014) ∨ n = 0x018 ∨ n = 0x019
/-- Numbers that every privilege reads and nobody writes. -/
def CsrFixed (n : Nat) : Prop := (0x400 ≤ n ∧ n ≤ 0x403) ∨ (0x408 ≤ n ∧ n ≤ 0x413) ∨ (0x417 ≤ n ∧ n ≤ 0x419)
/-- Numbers that every privilege reads and a supervisor writes. -/
def CsrGroup (n : Nat) : Prop := n = 0x414 ∨ (0x840 ≤ n ∧ n ≤ 0x85F)
/-- Numbers that every privilege reads and machine privilege writes. -/
def CsrOwner (n : Nat) : Prop := n = 0x415 ∨ n = 0x416
/-- Numbers that a supervisor reads and writes. -/
def CsrSystem (n : Nat) : Prop := (0x800 ≤ n ∧ n ≤ 0x804) ∨ n = 0x808 ∨ n = 0x809

section
variable {n : Nat}

theorem csrAccess_shared (h : CsrShared n) : csrAccess n = some ⟨.user, some .user⟩ := if_pos h

theorem csrAccess_fixed (h : CsrFixed n) : csrAccess n = some ⟨.user, none⟩ := by
  unfold CsrFixed at h
  exact (if_neg (by omega)).trans (if_pos h)

theorem csrAccess_group (h : CsrGroup n) : csrAccess n = some ⟨.user, some .supervisor⟩ := by
  unfold CsrGroup at h
  exact (if_neg (by omega)).trans ((if_neg (by omega)).trans (if_pos h))

theorem csrAccess_owner (h : CsrOwner n) : csrAccess n = some ⟨.user, some .machine⟩ := by
  unfold CsrOwner at h
  exact (if_neg (by omega)).trans ((if_neg (by omega)).trans ((if_neg (by omega)).trans (if_pos h)))

theorem csrAccess_system (h : CsrSystem n) : csrAccess n = some ⟨.supervisor, some .supervisor⟩ := by
  unfold CsrSystem at h
  exact (if_neg (by omega)).trans ((if_neg (by omega)).trans ((if_neg (by omega)).trans ((if_neg (by omega)).trans (if_pos h))))

theorem csrAccess_unlisted (h : ¬(CsrShared n ∨ CsrFixed n ∨ CsrGroup n ∨ CsrOwner n ∨ CsrSystem n)) : csrAccess n = none := by
  simp only [not_or] at h
  obtain ⟨shared, fixed, group, owner, system⟩ := h
  exact (if_neg shared).trans ((if_neg fixed).trans ((if_neg group).trans ((if_neg owner).trans (if_neg system))))

variable {p r w : Priv}

theorem csrRefusal_unlisted (h : csrAccess n = none) (write : Bool) : csrRefusal n write p = some causeIllegal := by
  simp [csrRefusal, h]

theorem csrRefusal_read {x : Option Priv} (h : csrAccess n = some ⟨r, x⟩) (ok : r.code ≤ p.code) : csrRefusal n false p = none := by
  simp [csrRefusal, h, Nat.not_lt.mpr ok]

theorem csrRefusal_write (h : csrAccess n = some ⟨r, some w⟩) (ok : r.code ≤ p.code) (wok : w.code ≤ p.code) (write : Bool) :
    csrRefusal n write p = none := by
  simp [csrRefusal, h, Nat.not_lt.mpr ok, Nat.not_lt.mpr wok]

theorem csrRefusal_below {x : Option Priv} (h : csrAccess n = some ⟨r, x⟩) (below : p.code < r.code) (write : Bool) :
    csrRefusal n write p = some causePriv := by
  simp [csrRefusal, h, below]

theorem csrRefusal_fixed (h : csrAccess n = some ⟨r, none⟩) (ok : r.code ≤ p.code) : csrRefusal n true p = some causeIllegal := by
  simp [csrRefusal, h, Nat.not_lt.mpr ok]

theorem csrRefusal_higher (h : csrAccess n = some ⟨r, some w⟩) (ok : r.code ≤ p.code) (below : p.code < w.code) :
    csrRefusal n true p = some causePriv := by
  simp [csrRefusal, h, Nat.not_lt.mpr ok, below]

end

/-- The order of the privileges (R374). -/
theorem code_user_le (p : Priv) : Priv.user.code ≤ p.code := Nat.zero_le _

theorem code_supervisor_le {p : Priv} (h : p ≠ .user) : Priv.supervisor.code ≤ p.code := by
  cases p with
  | user => exact absurd rfl h
  | supervisor => decide
  | machine => decide

theorem code_lt_machine {p : Priv} (h : p ≠ .machine) : p.code < Priv.machine.code := by
  cases p with
  | user => decide
  | supervisor => decide
  | machine => exact absurd rfl h

/-- Who may read a register (R31, R32). -/
theorem csrRefusal_reads {n : Nat} {p : Priv}
    (h : CsrShared n ∨ CsrFixed n ∨ CsrGroup n ∨ CsrOwner n ∨ (p ≠ .user ∧ CsrSystem n)) : csrRefusal n false p = none := by
  obtain shared | fixed | group | owner | ⟨up, system⟩ := h
  · exact csrRefusal_read (csrAccess_shared shared) (code_user_le p)
  · exact csrRefusal_read (csrAccess_fixed fixed) (code_user_le p)
  · exact csrRefusal_read (csrAccess_group group) (code_user_le p)
  · exact csrRefusal_read (csrAccess_owner owner) (code_user_le p)
  · exact csrRefusal_read (csrAccess_system system) (code_supervisor_le up)

/-- Who may write a register. -/
theorem csrRefusal_writes {n : Nat} {p : Priv}
    (h : CsrShared n ∨ (p ≠ .user ∧ (CsrGroup n ∨ CsrSystem n)) ∨ (p = .machine ∧ CsrOwner n)) : csrRefusal n true p = none := by
  obtain shared | ⟨up, group | system⟩ | ⟨rfl, owner⟩ := h
  · exact csrRefusal_write (csrAccess_shared shared) (code_user_le p) (code_user_le p) true
  · exact csrRefusal_write (csrAccess_group group) (code_user_le p) (code_supervisor_le up) true
  · exact csrRefusal_write (csrAccess_system system) (code_supervisor_le up) (code_supervisor_le up) true
  · exact csrRefusal_write (csrAccess_owner owner) (code_user_le _) le_rfl true

/-! ### The checks before an access -/

section
variable {s : State} {n : Nat} {write : Bool} (word : Nat)

/-- Nothing but a refusal stands before an access: the VDQ is empty where it must be, and the accumulators are the
hart's (R34, R38). -/
def State.csrFree (s : State) (n : Nat) : Prop := (n = 0x001 ∨ n = 0x009 ∨ n = 0x00C → s.h.vdq = []) ∧ (n = 0x00C → s.OwnsAcc)

theorem csrReady_permitted (ok : csrRefusal n write s.h.priv = none) (free : s.csrFree n) : Ends (csrReady word n write) s () s := by
  obtain ⟨empty, own⟩ := free
  refine ends_get_bind ?_
  rw [ok]
  have vdq : Ends (if n = 0x001 ∨ n = 0x009 ∨ n = 0x00C then awaitVdq else pure ()) s () s := by
    split
    · next e => exact awaitVdq_empty (empty e)
    · rfl
  change Ends (if n = 0x00C then needAcc >>= fun _ => _ else _) s () s
  split
  · next e =>
    obtain ⟨enabled, owned, ctx⟩ := own e
    exact ends_bind (needAcc_own enabled owned ctx) vdq
  · exact vdq

theorem csrReady_refused {c : Nat} (no : csrRefusal n write s.h.priv = some c) :
    Traps (csrReady word n write) s { cause := c, value := BitVec.ofNat 64 word } s := by
  refine traps_get_bind ?_
  rw [no]
  rfl

theorem csrReady_foreign (ok : csrRefusal 0x00C write s.h.priv = none) (foreign : ¬s.OwnsAcc) :
    Traps (csrReady word 0x00C write) s { cause := causeAcc, value := BitVec.ofNat 64 (bits s.core.accown 0 17) } s := by
  refine traps_get_bind ?_
  rw [ok]
  exact traps_bind_left (needAcc_foreign foreign)

variable {c : BitVec 12}

/-- Where the check of an access lets it through, the four instructions do what they do. -/
theorem exec_rdctl_permitted (d : BitVec 5) (h : ∀ word, Ends (csrReady word c.toNat false) s () s) :
    exec (.rdctl d c) s = .next (s.doneX d (s.csr c.toNat)) := finish_ok (ends_bind (h _) rfl)

theorem exec_wrctl_permitted (a : BitVec 5) (h : ∀ word, Ends (csrReady word c.toNat true) s () s) :
    exec (.wrctl a c) s = .next (s.writeCsr c.toNat (s.x a)).retire := finish_ok (ends_bind (h _) rfl)

theorem changeCsr_permitted {a : BitVec 5} (ne : a ≠ 0) (h : Ends (csrReady word n true) s () s) (f : Dword → Dword → Dword) :
    Ends (changeCsr word n a f) s () (s.writeCsr n (f (s.csr n) (s.x a))) := by
  have write : (a != 0) = true := bne_iff_ne.mpr ne
  unfold changeCsr
  rw [write]
  refine ends_bind h ?_
  rw [if_neg ne]
  rfl

theorem changeCsr_zero (h : Ends (csrReady word n false) s () s) (f : Dword → Dword → Dword) :
    Ends (changeCsr word n 0 f) s () s := ends_bind h rfl

end

/-! ### Accesses that trap -/

section
variable {s : State} (settled : s.h.xSettled = true) {k : Trap} (d a : BitVec 5) (c : BitVec 12)
include settled

theorem exec_rdctl_traps (h : Traps (csrReady (enc2 0xE0000000 d 21 c 4) c.toNat false) s k s) :
    exec (.rdctl d c) s = takeTrap k s := finish_trap (traps_bind_left h) (entryWaits_of_settled settled)

theorem exec_wrctl_traps (h : Traps (csrReady (enc2 0xE0000001 a 16 c 4) c.toNat true) s k s) :
    exec (.wrctl a c) s = takeTrap k s := finish_trap (traps_bind_left h) (entryWaits_of_settled settled)

theorem exec_setctl_traps (h : Traps (csrReady (enc2 0xE0000002 a 16 c 4) c.toNat (a != 0)) s k s) :
    exec (.setctl a c) s = takeTrap k s := finish_trap (traps_bind_left h) (entryWaits_of_settled settled)

theorem exec_clrctl_traps (h : Traps (csrReady (enc2 0xE0000003 a 16 c 4) c.toNat (a != 0)) s k s) :
    exec (.clrctl a c) s = takeTrap k s := finish_trap (traps_bind_left h) (entryWaits_of_settled settled)

end

/-- Settles O16: by the map, each class of numbers is permitted or refused; an access permitted does its work, and one
refused traps at its check. -/
theorem csrAccessCompletes : Obligations.CsrAccessCompletes := by
  unfold Obligations.CsrAccessCompletes
  refine ⟨fun d a c s => ?_, fun d a c s settled => ?_⟩
  · intro n ready shared fixed group owner system free
    refine ⟨fun permitted => ?_, fun permitted => ?_⟩
    · have reads (word : Nat) := csrReady_permitted word (csrRefusal_reads permitted) free
      exact ⟨exec_rdctl_permitted d reads, finish_ok (changeCsr_zero _ (reads _) _), finish_ok (changeCsr_zero _ (reads _) _)⟩
    · have writes (word : Nat) := csrReady_permitted word (csrRefusal_writes permitted) free
      exact ⟨exec_wrctl_permitted a writes, fun ne =>
        ⟨finish_ok (changeCsr_permitted _ ne (writes _) _), finish_ok (changeCsr_permitted _ ne (writes _) _)⟩⟩
  · intro n trap rd wr shared fixed group owner system writes all
    have refused_all {cause : Nat} (no : ∀ write, csrRefusal n write s.h.priv = some cause) : all cause :=
      ⟨exec_rdctl_traps settled d c (csrReady_refused _ (no _)), exec_wrctl_traps settled a c (csrReady_refused _ (no _)),
        exec_setctl_traps settled a c (csrReady_refused _ (no _)), exec_clrctl_traps settled a c (csrReady_refused _ (no _))⟩
    have refused_writes {cause : Nat} (no : csrRefusal n true s.h.priv = some cause) : writes cause := by
      refine ⟨exec_wrctl_traps settled a c (csrReady_refused _ no), fun ne => ?_⟩
      have write : (a != 0) = true := bne_iff_ne.mpr ne
      exact ⟨exec_setctl_traps settled a c (csrReady_refused _ (by rw [write]; exact no)),
        exec_clrctl_traps settled a c (csrReady_refused _ (by rw [write]; exact no))⟩
    refine ⟨fun unlisted => refused_all (csrRefusal_unlisted (csrAccess_unlisted unlisted)), fun user sys => ?_,
      fun fix => refused_writes (csrRefusal_fixed (csrAccess_fixed fix) (code_user_le _)), fun user grp => ?_, fun low own => ?_,
      fun acclive foreign => ?_⟩
    · exact refused_all (csrRefusal_below (csrAccess_system sys) (by rw [user]; decide))
    · exact refused_writes (csrRefusal_higher (csrAccess_group grp) (code_user_le _) (by rw [user]; decide))
    · exact refused_writes (csrRefusal_higher (csrAccess_owner own) (code_user_le _) (code_lt_machine low))
    · have ready (word : Nat) (write : Bool) : Traps (csrReady word n write) s
          { cause := causeAcc, value := BitVec.ofNat 64 (bits s.core.accown 0 17) } s := by
        rw [acclive]
        exact csrReady_foreign word
          (csrRefusal_write (csrAccess_shared (by unfold CsrShared; omega)) (code_user_le _) (code_user_le _) write) foreign
      exact ⟨exec_rdctl_traps settled d c (ready _ _), exec_wrctl_traps settled a c (ready _ _),
        exec_setctl_traps settled a c (ready _ _), exec_clrctl_traps settled a c (ready _ _)⟩

end Sys2Proof.Machine
end

section
/-! SUPPORT. Misuse that traps: misaligned and privileged accesses, barriers, register groups and accumulators (R38, R69 to
R71, R215, R325, R326, R374). -/

namespace Sys2Proof.Machine

section
variable {α : Type} {s t : State} {k : Trap}

theorem traps_await_bind {c : Bool} {g : Unit → M α} (h : c = true) (rest : Traps (g ()) s k t) :
    Traps (await c >>= g) s k t := by
  subst h
  exact rest

theorem traps_trapIf {b : Bool} (h : b = true) (cause : Nat) (value : Dword) :
    Traps (trapIf b cause value) s { cause := cause, value := value } s := by
  subst h
  rfl

theorem traps_illegal (word : Nat) :
    Traps (illegal (α := α) word) s { cause := causeIllegal, value := BitVec.ofNat 64 word } s := rfl

end

/-! ### Misaligned accesses (R215) -/

section
variable {s : State} (d a b : BitVec 5) (w : BitVec 1)

/-- An address that is no multiple of the size of the access. -/
theorem misaligned {va n : Nat} (h : va % n ≠ 0) : (va % n != 0) = true := bne_iff_ne.mpr h

/-- The check of an atomic's alignment comes before its translation. -/
theorem resolveAtomic_misaligned {o : AtomicOp} {va : Nat} (h : va % (o.width / 8) ≠ 0) (val : Dword) :
    Traps (resolveAtomic o val va) s { cause := causeAtomicFault, value := val } s :=
  traps_bind_left (traps_trapIf (misaligned h) _ _)

/-- The bytes of a scalar atomic. -/
theorem atomicOp_bytes (op : Nat) : (s.atomicOp op w).width / 8 = if w = 0 then 4 else 8 := by
  change (if w = 0 then 32 else 64) / 8 = _
  split <;> rfl

/-- Nothing older is left to place. -/
theorem awaitPlaced_done (h : s.h.placing = false) : Ends awaitPlaced s () s := by
  simp [Ends, awaitPlaced, h]

/-- Nothing older is left to read. -/
theorem awaitRead_done (h : s.rowsRead) : Ends awaitRead s () s := by
  refine ends_get_bind ?_
  rw [h]
  rfl

theorem issueFloat_integer {op : Nat} (h : op < 10) : Ends (issueFloat (s.atomicOp op w).floating) s () s := by
  rw [show (s.atomicOp op w).floating = false from decide_eq_false (Nat.not_le.mpr h)]
  rfl

section
variable (h : (s.x a).toNat % (if w = 0 then 4 else 8) ≠ 0) (rows : s.rowsRead) {op : Nat} (int : op < 10)
include h rows int

theorem amo_misaligned (placed : s.h.placing = false) :
    Traps (amo op d a b w) s { cause := causeAtomicFault, value := s.x a } s := by
  refine traps_bind (awaitPlaced_done placed) (traps_bind (awaitRead_done rows) (traps_get_bind ?_))
  refine traps_bind (issueFloat_integer w int) (traps_bind_left ?_)
  exact resolveAtomic_misaligned (by rwa [atomicOp_bytes]) _

theorem red_misaligned : Traps (red op a b w) s { cause := causeAtomicFault, value := s.x a } s := by
  refine traps_bind (awaitRead_done rows) (traps_get_bind (traps_bind (issueFloat_integer w int) (traps_bind_left ?_)))
  exact traps_bind_left (resolveAtomic_misaligned (by rwa [atomicOp_bytes]) _)

end
end

/-! ### Barriers (R325, R326) -/

section
variable {s : State} (word : Nat) {i : Nat} {member : Bool}

/-- A hart that is no member and has not waited yet, or whose lead is 3, may not arrive. -/
theorem arriveReady_refused (h : member = false ∧ s.h.atWait = false ∨ (s.h.arr i + 4 - s.h.wt i) % 4 = 3) :
    Traps (arriveReady word i member) s { cause := causeIllegal, value := BitVec.ofNat 64 word } s := by
  have refused : ((!member && !s.h.atWait) || (s.h.arr i + 4 - s.h.wt i) % 4 == 3) = true := by
    rcases h with ⟨out, fresh⟩ | lead
    · simp [out, fresh]
    · simp [lead]
  refine traps_get_bind ?_
  change Traps (if _ then _ else _) _ _ _
  rw [if_pos refused]
  rfl

/-- A hart that is no member and has not waited yet, or that has not arrived, may not wait. -/
theorem waitReady_refused (h : member = false ∧ s.h.atWait = false ∨ s.h.arr i = s.h.wt i) :
    Traps (waitReady word i member) s { cause := causeIllegal, value := BitVec.ofNat 64 word } s := by
  have refused : ((!member && !s.h.atWait) || s.h.arr i == s.h.wt i) = true := by
    rcases h with ⟨out, fresh⟩ | none
    · simp [out, fresh]
    · simp [none]
  refine traps_get_bind ?_
  rw [if_pos refused]
  rfl

end

/-! ### Register groups (R69 to R71) -/

/-- Groups that do not stand are refused before the instruction enters the VDQ. -/
theorem vecRun_misgrouped {s : State} {word : Nat} {ok : Nat → Bool} (h : ok s.vlen = false) (body : M Unit) :
    Traps (vecRun word ok body) s { cause := causeIllegal, value := BitVec.ofNat 64 word } s :=
  traps_bind_left (traps_get_bind (traps_trapIf (by rw [h]; rfl) _ _))

/-! ### Accumulators (R38, R164) -/

section
variable {s : State} (acc : ¬s.OwnsAcc) (fresh : s.h.head = none)

/-- The trap of an accumulator instruction whose accumulators are not the hart's own. -/
def State.accTrap (s : State) : Trap := { cause := causeAcc, value := BitVec.ofNat 64 (bits s.core.accown 0 17) }

include acc fresh

theorem accRun_foreign (word : Nat) (body : M Unit) : Traps (accRun word body) s s.accTrap s := by
  refine traps_get_bind ?_
  rw [fresh]
  exact traps_bind_left (needAcc_foreign acc)

/-- A sliced instruction looks at its accumulators once a pending restart lets it issue. -/
theorem sliced_foreign (issues : s.h.restart = none ∨ (s.h.vdq = [] ∧ s.vFree = true)) (word t : Nat)
    (row : State → Nat → Option RowResult) : Traps (sliced word t row) s s.accTrap s := by
  refine traps_get_bind (traps_get_bind (traps_get_bind (traps_await_bind ?_ (accRun_foreign acc fresh _ _))))
  rcases issues with none | ⟨empty, free⟩
  · simp [none]
  · simp [empty, free]

theorem accMemory_foreign (word : Nat) (aligned : Bool) (cause : Nat) (va : Dword) (ready : M Bool)
    (body : Nat → List Vec → M Unit) : Traps (accMemory word aligned cause va ready body) s s.accTrap s := by
  refine traps_get_bind ?_
  rw [fresh]
  exact traps_bind_left (needAcc_foreign acc)

end

/-- Accumulators that are disabled, no hart's, or another context's. -/
theorem not_ownsAcc {s : State} (h : bit s.core.accen 0 = false ∨ bit s.core.accown 16 = false ∨
    bits s.core.accown 0 16 ≠ bits s.h.ctxid 0 16) : ¬s.OwnsAcc := by
  rintro ⟨enabled, owned, own⟩
  rcases h with off | free | foreign
  · simp [enabled] at off
  · simp [owned] at free
  · exact foreign own

/-! ### Every misuse -/

section
variable {s : State} (settled : s.h.xSettled = true)
include settled

theorem finish_takes {m : M Unit} {k : Trap} (h : Traps m s k s) : finish m s = takeTrap k s :=
  finish_trap h (entryWaits_of_settled settled)

theorem finishAt_takes {m : M Unit} {k : Trap} (h : Traps m s k s) : finishAt m s = takeTrap k s :=
  finishAt_trap h (entryWaits_of_settled settled)

end

/-- Settles O21: each check is the first thing its instruction does. -/
theorem misuseTraps : Obligations.MisuseTraps := by
  unfold Obligations.MisuseTraps
  refine ⟨?misaligned, ?privileged, ?barrier, ?groups, ?accumulators⟩
  case misaligned =>
    intro d a b sc y k w s settled placed rows trap
    refine ⟨fun mis => ?_, fun mis => ?_⟩
    · have check (cause : Nat) := traps_trapIf (s := s) (misaligned mis) cause (s.x a)
      exact ⟨finish_takes settled (traps_bind_left (check _)), finish_takes settled (traps_bind_left (check _)),
        finish_takes settled (traps_bind_left (check _)), finish_takes settled (traps_bind_left (check _))⟩
    · exact ⟨finishAt_takes settled (amo_misaligned d a b w mis rows (by decide) placed),
        finishAt_takes settled (amo_misaligned d a b w mis rows (by decide) placed),
        finish_takes settled (red_misaligned a b w mis rows (by decide))⟩
  case privileged =>
    intro r s settled trap
    refine ⟨fun user => ?_, fun below => ?_⟩
    · have check (word : Nat) : Traps (needPriv .supervisor word) s _ s :=
        needPriv_below (by rw [user]; decide) word
      exact ⟨finishAt_takes settled (traps_bind_left (check _)), finishAt_takes settled (traps_bind_left (check _)),
        finish_takes settled (traps_bind_left (check _)), finish_takes settled (traps_bind_left (check _)),
        finish_takes settled (traps_bind_left (check _)), finish_takes settled (traps_bind_left (check _))⟩
    · exact finishAt_takes settled (traps_bind_left (needPriv_below (code_lt_machine below) _))
  case barrier =>
    intro g s settled trap n
    refine ⟨fun h => ?_, fun h => ?_, fun h => ?_, fun h => ?_⟩
    · exact finish_takes settled (traps_get_bind (traps_bind_left (arriveReady_refused _ h)))
    · exact finish_takes settled (traps_get_bind (traps_bind_left (waitReady_refused _ h)))
    · exact finish_takes settled (traps_bind_left (arriveReady_refused _ (.inr h)))
    · exact finish_takes settled (traps_bind_left (waitReady_refused _ (.inr h)))
  case groups =>
    intro d a b p e s settled apart low
    have word (m : Nat) : enc5 m d 21 a 16 b 11 p 8 e 5 = m + low := by
      simp only [enc5, enc4, enc3, enc2, enc1, place, low, Nat.add_assoc]
    rw [← word, ← word]
    exact ⟨finish_takes settled (vecRun_misgrouped apart _), finish_takes settled (vecRun_misgrouped apart _)⟩
  case accumulators =>
    intro t u y a b r c f s settled fresh issues foreign trap
    have acc := not_ownsAcc foreign
    have run (word : Nat) (body : M Unit) := finish_takes settled (accRun_foreign acc fresh word body)
    have slice (word t : Nat) (row : State → Nat → Option RowResult) :=
      finish_takes settled (sliced_foreign acc fresh issues word t row)
    have memory (word : Nat) (aligned : Bool) (cause : Nat) (va : Dword) (ready : M Bool) (body : Nat → List Vec → M Unit) :=
      finish_takes settled (accMemory_foreign acc fresh word aligned cause va ready body)
    exact ⟨slice _ _ _, slice _ _ _, slice _ _ _, slice _ _ _, slice _ _ _, run _ _, run _ _, run _ _, run _ _, run _ _,
      run _ _, memory _ _ _ _ _ _, memory _ _ _ _ _ _, run _ _, slice _ _ _, memory _ _ _ _ _ _, memory _ _ _ _ _ _⟩

end Sys2Proof.Machine
end

section
/-! SUPPORT. Elements and bits written to vector and mask registers (R28, R69, R121, R122), and the flags of an instruction
with the trap of an enabled one (R35, R113, R124). -/

namespace Sys2Proof.Machine

/-! ### Vector registers as one row of bits -/

/-- A field put in place is read back, and every other bit stays. -/
theorem testBit_putField (old lo w v k : Nat) :
    (putField old lo w v).testBit k = if lo ≤ k ∧ k < lo + w then v.testBit (k - lo) else old.testBit k := by
  have low : old % 2 ^ lo < 2 ^ lo := Nat.mod_lt _ (Nat.two_pow_pos _)
  have split : putField old lo w v = 2 ^ lo * (2 ^ w * (old / 2 ^ (lo + w)) + v % 2 ^ w) + old % 2 ^ lo := by
    rw [putField, Nat.pow_add]; ring
  rw [split, Nat.testBit_two_pow_mul_add _ low]
  by_cases h : k < lo
  · rw [if_pos h, if_neg (by omega), Nat.testBit_mod_two_pow]
    simp [h]
  · rw [if_neg h, Nat.testBit_two_pow_mul_add _ (Nat.mod_lt _ (Nat.two_pow_pos _))]
    by_cases h' : k - lo < w
    · rw [if_pos h', if_pos (by omega), Nat.testBit_mod_two_pow]
      simp [h']
    · rw [if_neg h', if_neg (by omega), Nat.testBit_div_two_pow]
      congr 1; omega

/-- A bit of the register file after a register has been written. -/
theorem fileBit_setV (s : State) {r : Nat} (h : r < 32) (x : Nat) (k : Nat) :
    fileBit (s.setV r (BitVec.ofNat 1024 x)).h.v k =
      if k / 1024 = r then x.testBit (k % 1024) else fileBit s.h.v k := by
  unfold fileBit State.setV
  split
  next same =>
    rw [same, vector_getD_set_same _ _ _ h, BitVec.getLsbD_ofNat]
    simp [Nat.mod_lt]
  next other => rw [vector_getD_set_other _ _ _ other]

/-- Bit `k` of a register with the one after it. -/
theorem testBit_vreg_pair (s : State) (r k : Nat) :
    ((s.vreg r).toNat + (s.vreg (r + 1)).toNat * 2 ^ 1024).testBit k =
      if k < 1024 then (s.vreg r).getLsbD k else (s.vreg (r + 1)).getLsbD (k - 1024) := by
  rw [Nat.add_comm, Nat.mul_comm, Nat.testBit_two_pow_mul_add _ (s.vreg r).isLt]
  rfl

/-- An element written changes its own bits of the register file. -/
theorem fileBit_putElem (s : State) {r w e : Nat} (v : Nat) (pos : 0 < w) (small : w ≤ 1024)
    (fits : 1024 * r + w * e + w ≤ 32768) (k : Nat) :
    fileBit (s.putElem r w e v).h.v k =
      if 1024 * r + w * e ≤ k ∧ k < 1024 * r + w * e + w then v.testBit (k - (1024 * r + w * e)) else fileBit s.h.v k := by
  obtain ⟨q, hq⟩ : ∃ q, r + w * e / 1024 = q := ⟨_, rfl⟩
  obtain ⟨o, ho⟩ : ∃ o, w * e % 1024 = o := ⟨_, rfl⟩
  have place : 1024 * r + w * e = 1024 * q + o := by omega
  have off : o < 1024 := by omega
  rw [place] at fits ⊢
  unfold State.putElem
  simp only [hq, ho]
  split
  next one =>
    have reads (h : k / 1024 = q) : (s.vreg q).toNat.testBit (k % 1024) = fileBit s.h.v k := by subst h; rfl
    rw [fileBit_setV s (by omega), testBit_putField]
    by_cases here : k / 1024 = q
    · rw [if_pos here, reads here, show k % 1024 - o = k - (1024 * q + o) by omega]
      exact if_congr (by omega) rfl rfl
    · rw [if_neg here, if_neg (by omega)]
  next two =>
    have low (h : k / 1024 = q) : (s.vreg q).getLsbD (k % 1024) = fileBit s.h.v k := by subst h; rfl
    have high (h : k / 1024 = q + 1) : (s.vreg (q + 1)).getLsbD (k % 1024) = fileBit s.h.v k := by
      rw [← h]; rfl
    rw [fileBit_setV _ (by omega), fileBit_setV s (by omega), Nat.testBit_div_two_pow]
    simp only [testBit_putField, testBit_vreg_pair]
    by_cases second : k / 1024 = q + 1
    · rw [if_pos second, if_neg (by omega : ¬k % 1024 + 1024 < 1024), Nat.add_sub_cancel, high second,
        show k % 1024 + 1024 - o = k - (1024 * q + o) by omega]
      exact if_congr (by omega) rfl rfl
    · rw [if_neg second]
      by_cases first : k / 1024 = q
      · rw [if_pos first, if_pos (by omega : k % 1024 < 1024), low first, show k % 1024 - o = k - (1024 * q + o) by omega]
        exact if_congr (by omega) rfl rfl
      · rw [if_neg first, if_neg (by omega)]

/-- Elements that lie apart do not share a bit. -/
theorem elements_apart {w e e' k : Nat} (h : e ≠ e') (i : w * e ≤ k) (i' : k < w * e + w) : ¬(w * e' ≤ k ∧ k < w * e' + w) := by
  rintro ⟨j, j'⟩
  rcases Nat.lt_or_gt_of_ne h with less | more
  · have := Nat.mul_le_mul_left w less
    rw [Nat.mul_succ] at this
    omega
  · have := Nat.mul_le_mul_left w more
    rw [Nat.mul_succ] at this
    omega

/-- Distinct elements written are read back, and every other bit of the register file stays. -/
theorem elementsSet_putElems {r w : Nat} (pos : 0 < w) (small : w ≤ 1024) (f : Nat → Nat) (s : State) (es : List Nat)
    (distinct : es.Nodup) (fits : ∀ e ∈ es, 1024 * r + w * e + w ≤ 32768) :
    ElementsSet s.h.v (s.putElems r w (es.map fun e => (e, f e))).h.v r w es f := by
  induction es generalizing s with
  | nil => exact ⟨fun _ h => absurd h List.not_mem_nil, fun _ _ _ => rfl⟩
  | cons e es ih =>
    obtain ⟨fresh, distinct⟩ := List.nodup_cons.mp distinct
    obtain ⟨read, stay⟩ := ih (s.putElem r w e (f e)) distinct fun e' h => fits e' (.tail _ h)
    have first := fileBit_putElem s (f e) pos small (fits e (.head _))
    refine ⟨fun e' h i iw => ?_, fun k kb away => ?_⟩
    · rcases List.mem_cons.mp h with rfl | later
      · refine (stay _ (by have := fits _ h; omega) fun e'' h'' => ?_).trans ?_
        · have differ : e' ≠ e'' := fun same => fresh (same ▸ h'')
          have := elements_apart (w := w) (k := w * e' + i) differ (by omega) (by omega)
          omega
        · rw [first, if_pos (by omega), show 1024 * r + w * e' + i - (1024 * r + w * e') = i by omega]
      · exact read e' later i iw
    · refine (stay k kb fun e' h => away e' (.tail _ h)).trans ?_
      rw [first, if_neg (away e (.head _))]

/-- Writing elements changes the vector registers alone. -/
theorem putElem_eq (s : State) (r w e v : Nat) :
    s.putElem r w e v = { s with h := { s.h with v := (s.putElem r w e v).h.v } } := by
  unfold State.putElem
  dsimp only
  split <;> rfl

theorem putElems_eq (s : State) (r w : Nat) (vs : List (Nat × Nat)) :
    s.putElems r w vs = { s with h := { s.h with v := (s.putElems r w vs).h.v } } := by
  induction vs generalizing s with
  | nil => rfl
  | cons v vs ih =>
    have rest := ih (s.putElem r w v.1 v.2)
    obtain ⟨v', first⟩ : ∃ v', s.putElem r w v.1 v.2 = { s with h := { s.h with v := v' } } := ⟨_, putElem_eq s r w v.1 v.2⟩
    change (s.putElem r w v.1 v.2).putElems r w vs = { s with h := { s.h with v := ((s.putElem r w v.1 v.2).putElems r w vs).h.v } }
    rw [first] at rest ⊢
    exact rest

/-- A group that stands lies within the register file (R69). -/
theorem groupAt_fits {vl w g : Nat} {d : BitVec 5} {k : Nat} (h : groupAt vl (d, w) = some (k, g)) {e : Nat} (below : e < vl) :
    1024 * d.toNat + w * e + w ≤ 32768 := by
  have room := Nat.mul_le_mul_left w below
  rw [Nat.mul_succ, Nat.mul_comm w vl] at room
  have := d.isLt
  simp only [groupAt, groupSize] at h
  split at h
  · contradiction
  · rename_i g' size
    split at h
    · rename_i aligned
      split at size
      · contradiction
      · split_ifs at size <;> cases size <;> omega
    · contradiction

/-- The destination of groups that stand lies within the register file (R69). -/
theorem groupsOk_fits {vl w : Nat} {d : BitVec 5} {src : List (BitVec 5 × Nat)} (h : groupsOk vl (some (d, w)) src = true)
    {e : Nat} (below : e < vl) : 1024 * d.toNat + w * e + w ≤ 32768 := by
  unfold groupsOk at h
  split at h
  · contradiction
  · dsimp only at h
    split at h
    · contradiction
    · rename_i g at_
      exact groupAt_fits at_ below

/-- The active elements lie below VL, in order (R122). -/
theorem active_lt {s : State} {p : BitVec 3} {e : Nat} (h : e ∈ s.active p) : e < s.vlen :=
  List.mem_range.mp (List.mem_of_mem_filter h)

theorem active_sorted (s : State) (p : BitVec 3) : (s.active p).Pairwise (· < ·) :=
  List.pairwise_lt_range.filter _

/-! ### Mask registers -/

/-- Bit `i` of a number with single bits written. -/
theorem testBit_putBits (f : Nat → Bool) (i : Nat) (es : List Nat) (m : Nat) :
    (((es.map fun e => (e, f e)).foldl (fun m b => putField m b.1 1 (bitOf b.2)) m).testBit i) =
      if i ∈ es then f i else m.testBit i := by
  induction es generalizing m with
  | nil => rfl
  | cons e es ih =>
    rw [List.map_cons, List.foldl_cons, ih, testBit_putField]
    by_cases later : i ∈ es
    · rw [if_pos later, if_pos (.tail _ later)]
    · rw [if_neg later]
      by_cases here : i = e
      · subst here
        rw [if_pos (by omega), if_pos (.head _), Nat.sub_self]
        exact (by decide : ∀ b, (bitOf b).testBit 0 = b) _
      · rw [if_neg (by omega), if_neg]
        simp [here, later]

/-! ### Flags and their traps (R35, R113) -/

/-- A set of flags that is not empty has a lowest one. -/
theorem lowestFlag_lowest {fl : Flags} (h : fl ≠ 0) : LowestFlag fl (lowestFlag fl) := by
  unfold lowestFlag
  cases found : (List.range 5).find? fun i => fl.getLsbD i with
  | none =>
    refine absurd (BitVec.eq_of_getLsbD_eq fun i hi => ?_) h
    have := List.find?_eq_none.mp found i (List.mem_range.mpr hi)
    simpa using this
  | some c =>
    obtain ⟨set, mem, below⟩ := List.find?_range_eq_some.mp found
    exact ⟨List.mem_range.mp mem, set, fun j hj => by simpa using below j hj⟩

/-- Flags set one after the other are set together. -/
theorem setFlags_setFlags (s : State) (fl fl' : Flags) : (s.setFlags fl).setFlags fl' = s.setFlags (fl ||| fl') := by
  have together : fcsrFlags (fcsrFlags s.h.fcsr fl) fl' = fcsrFlags s.h.fcsr (fl ||| fl') := by
    simp only [fcsrFlags, BitVec.zeroExtend, BitVec.setWidth_or, BitVec.shiftLeft_or_distrib, BitVec.or_assoc]
  exact congrArg (fun f => ({ s with h := { s.h with fcsr := f } } : State)) together

/-- FP_ENABLED of enabled flags. -/
def fpTrap (enabled : Flags) : Trap := { cause := causeFp, value := BitVec.ofNat 64 (lowestFlag enabled) }

theorem fpTrap_of_takes {o : Out} {enabled : Flags} {t : State} (some_enabled : enabled ≠ 0) (h : o = takeTrap (fpTrap enabled) t) :
    FpTrap o enabled t := ⟨lowestFlag enabled, lowestFlag_lowest some_enabled, h⟩

/-- R113: an enabled flag of a scalar result traps with all its flags set, before X[d] is written. -/
theorem floatResult_enabled {s : State} {r : Nat × Flags} (settled : s.h.xSettled = true) (loud : ¬s.quiet r.2) (d : BitVec 5) :
    FpTrap (finish (floatResult d r) s) (r.2 &&& s.fte) (s.setFlags r.2) := by
  refine fpTrap_of_takes loud (finish_trap (traps_bind_left ?_) (entryWaits_of_settled settled))
  have raised : ¬(r.2 &&& (s.setFlags r.2).fte) = 0 := by rw [fte_setFlags]; exact loud
  simp only [Traps, raiseFlags, run_modify_bind, run_get_bind]
  rw [if_neg raised, fte_setFlags]
  rfl

/-! ### Flags of element-wise instructions (R124) -/

/-- The trap of an instruction at its turn in the VDQ, which has been counted as it entered (R40). -/
theorem vecRun_traps {s t : State} {word : Nat} {ok : Nat → Bool} {body : M Unit} {k : Trap} (r : s.VecReady ok)
    (h : Traps body s k t) (uncounted : t.h.instret = s.h.instret) :
    Traps (vecRun word ok body) s k { t with h := { t.h with instret := t.h.instret + 1 } } := by
  obtain ⟨groups, vdq, head, free⟩ := r
  refine traps_bind (needGroups_stands groups) (traps_get_bind ?_)
  have turn : (s.h.vdq.isEmpty && s.vFree) = true := by simp [vdq, free]
  rw [head, turn]
  simp [Traps, entered, show body s = _ from h, uncounted]

/-- The results below the first that raises an enabled flag, and that one. -/
theorem cutAt_loud {fte : Flags} {below : List ElemResult} {r : ElemResult} (rest : List ElemResult)
    (quiet : ∀ q ∈ below, q.flags &&& fte = 0) (loud : ¬r.flags &&& fte = 0) :
    cutAt fte (below ++ r :: rest) = (below, some r) := by
  induction below with
  | nil => rw [List.nil_append, cutAt, if_neg loud]
  | cons q below ih =>
    rw [List.cons_append, cutAt, if_pos (quiet q (.head _)), ih fun q' h => quiet q' (.tail _ h)]

/-- The state in which an element-wise instruction stops at element `k` with the flags `fl`. -/
def State.stopAt (s : State) (k : Nat) (fl : Flags) : State :=
  { s with h := { s.h with vstart := BitVec.ofNat 64 k } }.setFlags fl

/-- R124: the results below the first that raises an enabled flag are put in place with their flags; its own are set too,
and it traps with VSTART at its element. -/
theorem settleElems_stops {s : State} {put : State → List (Nat × Nat) → State} {below rest : List ElemResult} {r : ElemResult}
    (quiet : ∀ q ∈ below, s.quiet q.flags) (loud : ¬s.quiet r.flags)
    (keeps : (put s (below.map fun q => (q.e, q.value))).h.fcsr = s.h.fcsr) :
    Traps (settleElems put (below ++ r :: rest)) s (fpTrap (r.flags &&& s.fte))
      ((put s (below.map fun q => (q.e, q.value))).stopAt r.e (allFlags (below.map (·.flags)) ||| r.flags)) := by
  have unchanged : (put s (below.map fun q => (q.e, q.value))).fte = s.fte := by rw [State.fte, keeps, State.fte]
  refine traps_get_bind ?_
  rw [cutAt_loud rest quiet loud, State.stopAt, allFlags, List.foldl_map, ← setFlags_setFlags]
  change Traps (set _ >>= fun _ => fpEnabled _) _ _ _
  rw [fte_setFlags, fte_setFlags, unchanged]
  rfl

/-- The elements listed in order, cut at one of them. -/
theorem filter_lt_split {es : List Nat} (sorted : es.Pairwise (· < ·)) {k : Nat} (h : k ∈ es) :
    ∃ above, es = es.filter (fun i => decide (i < k)) ++ k :: above := by
  induction es with
  | nil => exact absurd h List.not_mem_nil
  | cons e es ih =>
    obtain ⟨least, sorted⟩ := List.pairwise_cons.mp sorted
    rcases List.mem_cons.mp h with rfl | later
    · have none : es.filter (fun i => decide (i < k)) = [] :=
        List.filter_eq_nil_iff.mpr fun i hi => by have := least i hi; simp; omega
      exact ⟨es, by simp [none]⟩
    · obtain ⟨above, split⟩ := ih sorted later
      refine ⟨above, ?_⟩
      rw [List.filter_cons, if_pos (decide_eq_true (least k later)), List.cons_append, ← split]

/-- The result of element `i`, its value and flags. -/
def elemResult (f : Nat → Nat × Flags) (i : Nat) : ElemResult := ⟨i, (f i).1, (f i).2⟩

/-- The first element that raises an enabled flag stops the instruction. -/
theorem settleElems_map_stops {t : State} {put : State → List (Nat × Nat) → State} {es : List Nat} {f : Nat → Nat × Flags}
    (sorted : es.Pairwise (· < ·)) {k : Nat} (mem : k ∈ es) {below : List Nat} (at_ : below = es.filter fun i => decide (i < k))
    (keeps : (put t (below.map fun i => (i, (f i).1))).h.fcsr = t.h.fcsr) (quiet : ∀ i ∈ below, t.quiet (f i).2)
    (loud : ¬t.quiet (f k).2) :
    Traps (settleElems put (es.map (elemResult f))) t (fpTrap ((f k).2 &&& t.fte))
      ((put t (below.map fun i => (i, (f i).1))).stopAt k (allFlags (below.map fun i => (f i).2) ||| (f k).2)) := by
  obtain ⟨above, split⟩ := filter_lt_split sorted mem
  rw [split, ← at_, List.map_append, List.map_cons]
  have values : (below.map (elemResult f)).map (fun q => (q.e, q.value)) = below.map fun i => (i, (f i).1) := List.map_map
  have flags : (below.map (elemResult f)).map (·.flags) = below.map fun i => (f i).2 := List.map_map
  have stops := settleElems_stops (s := t) (put := put) (below := below.map (elemResult f)) (r := elemResult f k)
    (rest := above.map (elemResult f)) (List.forall_mem_map.mpr quiet) loud (by rw [values]; exact keeps)
  rw [values, flags] at stops
  exact stops

section
variable {s t : State} {word : Nat} {ok : Nat → Bool} {body : M Unit} {es : List Nat} (r : s.VecReady ok)
  (settled : t.h.xSettled = true) (sorted : es.Pairwise (· < ·)) (same : t.h.instret = s.h.instret)
include r settled sorted same

/-- R40, R124: an element-wise instruction whose results are put in place in the state `t` traps at the first element that
raises an enabled flag. -/
theorem vecRun_settles {put : State → List (Nat × Nat) → State} {f : Nat → Nat × Flags}
    (begins : ∀ {k u}, Traps (settleElems put (es.map (elemResult f))) t k u → Traps body s k u)
    {k : Nat} (mem : k ∈ es) {below : List Nat} (at_ : below = es.filter fun i => decide (i < k)) {u : State}
    (puts : put t (below.map fun i => (i, (f i).1)) = u) (keeps : ∃ v m, u = { t with h := { t.h with v := v, m := m } })
    (quiet : ∀ i ∈ below, t.quiet (f i).2) (loud : ¬t.quiet (f k).2) :
    FpTrap (finish (vecRun word ok body) s) ((f k).2 &&& t.fte)
      (u.atElement k (allFlags (below.map fun i => (f i).2) ||| (f k).2)) := by
  obtain ⟨v, m, rfl⟩ := keeps
  have stops := settleElems_map_stops (put := put) sorted mem at_ (by rw [puts]) quiet loud
  rw [puts] at stops
  exact fpTrap_of_takes loud (finish_trap (vecRun_traps r (begins stops) same) (entryWaits_of_settled settled))

/-- The same of elements written to the group at `d`. -/
theorem floatTrap_settles {d w : Nat} (pos : 0 < w) (small : w ≤ 1024) (fits : ∀ e ∈ es, 1024 * d + w * e + w ≤ 32768)
    {f : Nat → Nat × Flags}
    (begins : ∀ {k u}, Traps (settleElems (fun s vs => s.putElems d w vs) (es.map (elemResult f))) t k u → Traps body s k u) :
    FloatTrap t (finish (vecRun word ok body) s) d w es f := by
  intro k mem below quiet loud
  have set := elementsSet_putElems pos small (fun i => (f i).1) t below ((sorted.imp Nat.ne_of_lt).filter _)
    fun e h => fits e (List.mem_of_mem_filter h)
  have only := putElems_eq t d w (below.map fun i => (i, (f i).1))
  generalize vs_eq : (t.putElems d w (below.map fun i => (i, (f i).1))).h.v = vs at set only
  exact ⟨vs, set, vecRun_settles r settled sorted same begins mem rfl only ⟨vs, t.h.m, rfl⟩ quiet loud⟩

/-- The same of bits written to mask register `d`. -/
theorem maskTrap_settles {d : Nat} {g : Nat → Bool} {fl : Nat → Flags}
    (begins : ∀ {k u}, Traps (settleElems (fun s vs => s.putMaskBits d (vs.map fun v => (v.1, v.2 == 1)))
      (es.map (elemResult fun i => (bitOf (g i), fl i)))) t k u → Traps body s k u) :
    MaskTrap t (finish (vecRun word ok body) s) d es g fl := by
  intro k mem below quiet loud
  have bits : (below.map fun i => (i, bitOf (g i))).map (fun v => (v.1, v.2 == 1)) = below.map fun i => (i, g i) := by
    rw [List.map_map]
    exact List.map_congr_left fun i _ => congrArg (Prod.mk i) ((by decide : ∀ b, (bitOf b == 1) = b) (g i))
  refine ⟨_, fun i hi => ?_, vecRun_settles r settled sorted same begins mem rfl (congrArg (t.putMaskBits d) bits) ?_ quiet loud⟩
  · rw [BitVec.getLsbD_ofNat, testBit_putBits]
    simp [hi]
    rfl
  · unfold State.setM
    split
    · exact ⟨_, _, rfl⟩
    · exact ⟨_, _, rfl⟩

end

end Sys2Proof.Machine
end

section
/-! SUPPORT. An enabled flag of a scalar instruction or at a vector element traps (R113, R117, R119, R124). -/

namespace Sys2Proof.Machine

/-! ### Enabled flags at a vector element -/

theorem widthOf_pos (e : BitVec 3) : 0 < widthOf e := by revert e; decide

theorem widthOf_le (e : BitVec 3) : widthOf e ≤ 1024 := by revert e; decide

section
variable {s : State} {word w : Nat} {d : BitVec 5} {src : List (BitVec 5 × Nat)} {p : BitVec 3} (settled : s.h.xSettled = true)
  (pos : 0 < w) (small : w ≤ 1024)
include settled pos small

/-- An element-wise instruction with a group as destination. -/
theorem vecMapF_enabled {f : State → Nat → Nat × Flags} (r : s.Groups d w src) :
    FloatTrap s (finish (vecMapF word (fun vl => groupsOk vl (some (d, w)) src) p d.toNat w f) s) d.toNat w (s.active p) (f s) :=
  floatTrap_settles r settled (active_sorted s p) rfl pos small (fun _ h => groupsOk_fits r.1 (active_lt h)) fun h => traps_get_bind h

end

/-- The results of a scan are those of its active elements, in order (R138). -/
theorem scanFrom_elements (heads active : Nat → Bool) (input : Nat → Nat) (f : Nat → Nat → Flagged) (vstart : Nat)
    (es : List Nat) (run : Option Nat) (restart : Bool) :
    (scanFrom heads active input f vstart es run restart).map (·.e) = es.filter active := by
  induction es generalizing run restart with
  | nil => rfl
  | cons e es ih =>
    unfold scanFrom
    by_cases h : active e = true
    · simp [h, ih]
    · simp [h, ih]

/-- What a scan leaves at an element. -/
def scanAt (rs : List ElemResult) (i : Nat) : Nat × Flags :=
  ((rs.find? fun r => r.e == i).map fun r => (r.value, r.flags)).getD (0, 0)

/-- Results of distinct elements, by their elements. -/
theorem results_eq_map {rs : List ElemResult} (distinct : (rs.map (·.e)).Nodup) :
    rs = (rs.map (·.e)).map (elemResult (scanAt rs)) := by
  induction rs with
  | nil => rfl
  | cons r rs ih =>
    obtain ⟨fresh, distinct⟩ := List.nodup_cons.mp distinct
    have first : elemResult (scanAt (r :: rs)) r.e = r := by simp [elemResult, scanAt]
    have rest : ∀ e ∈ rs.map (·.e), elemResult (scanAt (r :: rs)) e = elemResult (scanAt rs) e := by
      intro e h
      have other : (r.e == e) = false := by
        rw [beq_eq_false_iff_ne]
        rintro rfl
        exact fresh h
      simp [elemResult, scanAt, other]
    rw [List.map_cons, List.map_cons, first, List.map_congr_left rest, ← ih distinct]

section
variable {s : State} {word : Nat} {d a b : BitVec 5} {p e : BitVec 3} (settled : s.h.xSettled = true)
include settled

/-- A comparison to a mask (R130). -/
theorem vecFloatTest_enabled {f : Num → Num → Bool}
    (r : s.VecReady fun vl => groupsOk vl none [(a, widthOf e), (b, widthOf e)]) :
    let v (q : BitVec 5) (i : Nat) : Num := (fmtOf e.toNat).value (s.elem q.toNat (widthOf e) i)
    MaskTrap s (finish (vecFloatTest word d a b p e true f) s) d.toNat (s.active p) (fun i => f (v a i) (v b i))
      (fun i => if (v a i).isNan || (v b i).isNan then flagNV else 0) :=
  maskTrap_settles r settled (active_sorted s p) rfl fun h => traps_get_bind h

/-- A scan (R138): its results are those of the active elements. -/
theorem vecScan_enabled {heads : State → Nat → Bool} (r : s.Groups d (widthOf e) [(a, widthOf e)]) :
    let before := (s.activeFrom 0 p).filter fun i => decide (i < s.vstartN)
    let rs := scanFrom (heads s) (s.active p).contains (s.elem a.toNat (widthOf e)) (sumOf e s) s.vstartN (List.range s.vlen)
      (before.getLast?.map fun i => s.elem d.toNat (widthOf e) i) false
    FloatTrap s (finish (vecScan word d a p e heads) s) d.toNat (widthOf e) (s.active p) (scanAt rs) := by
  intro before rs
  have elements : rs.map (·.e) = s.active p := by
    refine (scanFrom_elements ..).trans (List.filter_congr fun i below => ?_)
    rw [Bool.eq_iff_iff, List.contains_iff_mem, State.active, State.activeFrom, List.mem_filter]
    exact and_iff_right below
  have results : rs = (s.active p).map (elemResult (scanAt rs)) := by
    rw [← elements]
    exact results_eq_map (by rw [elements]; exact (active_sorted s p).imp Nat.ne_of_lt)
  refine floatTrap_settles r settled (active_sorted s p) rfl (widthOf_pos e) (widthOf_le e)
    (fun _ h => groupsOk_fits r.1 (active_lt h)) fun h => traps_get_bind ?_
  rw [← results] at h
  exact h

omit settled in
/-- R106, R134: a draw from a generator that software has not seeded sets NDET, unless DET forbids it. -/
theorem drawNdet_ends {es : List Nat} (some_active : es ≠ []) (det : bit s.h.rngctr 63 = true ∨ bit s.h.fcsr 20 = false) :
    Ends (drawNdet es) s () (if bit s.h.rngctr 63 = true then s else s.ndet) := by
  have active : (!es.isEmpty) = true := by simp [some_active]
  refine ends_get_bind ?_
  rw [active, Bool.and_true]
  split
  next unseeded =>
    have unseeded : bit s.h.rngctr 63 = false := by simpa using unseeded
    rw [unseeded, if_neg (by simp)]
    exact ends_bind (detCheck_clear (det.resolve_left (by simp [unseeded]))) rfl
  next seeded =>
    rw [if_pos (by simpa using seeded)]
    rfl

/-- vcvt.sr (R134): NDET has been set for a generator that software has not seeded, which has not moved. -/
theorem vecConvertSr_enabled {t : BitVec 3} (r : s.Groups d (widthOf e) [(a, widthOf t)])
    (det : bit s.h.rngctr 63 = true ∨ bit s.h.fcsr 20 = false) :
    FloatTrap (if bit s.h.rngctr 63 = true then s else s.ndet) (finish (vecConvertSr word d a p e t) s) d.toNat (widthOf e)
      (s.active p) (fun i => (fmtOf e.toNat).stochastic s.sat (s.draw i)
        ((fmtOf t.toNat).value (s.elem a.toNat (widthOf t) i))) := by
  intro k mem
  have draws := drawNdet_ends (List.ne_nil_of_mem mem) det
  generalize t_eq : (if bit s.h.rngctr 63 = true then s else s.ndet) = u at draws ⊢
  have same : u.h.xSettled = s.h.xSettled ∧ u.h.instret = s.h.instret := by
    subst t_eq
    split <;> exact ⟨rfl, rfl⟩
  exact floatTrap_settles r (same.1.trans settled) (active_sorted s p) same.2 (widthOf_pos e) (widthOf_le e)
    (fun _ h => groupsOk_fits r.1 (active_lt h)) (fun h => traps_get_bind (traps_bind draws (traps_bind_left h))) k mem

/-- vredsum (R137): the flags of its whole tree are set, and nothing is written. -/
theorem vecReduce_enabled {identity : Nat} {f : State → Nat → Nat → Flagged}
    (r : s.VecReady fun vl => oneOk vl d [(a, widthOf e)]) :
    let leaf (i : Nat) : Option Flagged := if i < s.vlen ∧ (s.mreg p.toNat).getLsbD i = true then some (s.elem a.toNat (widthOf e) i, 0) else none
    let tree := (treeRoot (f s) 8 ((List.range 256).map leaf)).getD (identity, 0)
    ¬s.quiet tree.2 → FpTrap (finish (vecReduce word d a p e identity f) s) (tree.2 &&& s.fte)
      (({ s with h := { s.h with vstart := 0, instret := s.h.instret + 1 } } : State).setFlags tree.2) := by
  intro leaf tree loud
  have leaves : (fun i => if (s.activeFrom 0 p).contains i then some (s.elem a.toNat (widthOf e) i, 0) else none) = leaf := by
    funext i
    refine if_congr ?_ rfl rfl
    rw [List.contains_iff_mem, State.activeFrom, List.mem_filter, List.mem_range]
    simp
  refine fpTrap_of_takes loud (finish_trap (vecRun_traps (t := (s.setFlags tree.2).clearVstart) r (traps_get_bind ?_) rfl)
    (entryWaits_of_settled settled))
  dsimp only
  rw [leaves]
  change Traps (set _ >>= fun _ => if tree.2 &&& (s.setFlags tree.2).fte = 0 then _ else _) _ _ _
  rw [fte_setFlags, if_neg (show ¬tree.2 &&& s.fte = 0 from loud)]
  rfl
end

section
variable {s : State} {word : Nat} {d a b : BitVec 5} {p e t : BitVec 3} (settled : s.h.xSettled = true)
include settled

/-- vwmul of floats (R136). -/
theorem vecWideMul_enabled (r : s.Groups d (widthOf e) [(a, widthOf e), (b, widthOf t)]) (float : 4 ≤ e.toNat) :
    FloatTrap s (finish (vecWideMul word d a b p e t) s) d.toNat (widthOf e) (s.active p) (fun i =>
      (fmtOf e.toNat).prod s.rm s.sat ((fmtOf e.toNat).value (s.elem a.toNat (widthOf e) i))
        ((fmtOf t.toNat).value (s.elem b.toNat (widthOf t) i))) := by
  have enabled := vecMapF_enabled (word := word) (p := p) settled (widthOf_pos e) (widthOf_le e) r (f := fun s i =>
    if isFloat e then (fmtOf e.toNat).prod s.rm s.sat ((fmtOf e.toNat).value (s.elem a.toNat (widthOf e) i))
      ((fmtOf t.toNat).value (s.elem b.toNat (widthOf t) i))
    else (wrap (signExtend (s.elem a.toNat (widthOf e) i) (widthOf e) *
      signExtend (s.elem b.toNat (widthOf t) i) (widthOf t)) (widthOf e), 0))
  have is_float : isFloat e = true := decide_eq_true float
  simp only [is_float, if_true] at enabled
  unfold vecWideMul
  simp only [is_float, if_true]
  exact enabled

end

/-- A scalar comparison to which a NaN raises NV (R117). -/
theorem floatCompare_enabled {s : State} (settled : s.h.xSettled = true) (d a b : BitVec 5) (t : BitVec 1) (g : Num → Num → Bool) :
    let f := scalarFmt t.toNat
    let v (r : BitVec 5) : Num := f.value (fpRead (s.x r) f)
    let nan : Flags := if (v a).isNan || (v b).isNan then flagNV else 0
    ¬s.quiet nan → FpTrap (floatCompare d a b t true g s) (nan &&& s.fte) (s.setFlags nan) := by
  intro f v nan loud
  unfold floatCompare
  simp only [Bool.and_true]
  exact floatResult_enabled (r := (_, nan)) settled loud d

/-- A dword is its own encoding in f64. -/
theorem fpRead_f64 (v : Dword) : fpRead v .f64 = v.toNat := Nat.mod_eq_of_lt v.isLt

theorem fmt_width (f : Nat) : 0 < (fmtOf f).width ∧ (fmtOf f).width ≤ 1024 := by
  unfold fmtOf
  split <;> decide

theorem packed_width (c : Nat) : 0 < (packedFmt c).width ∧ (packedFmt c).width ≤ 1024 := by
  unfold packedFmt
  split <;> decide

/-- Settles O8: a scalar instruction is `floatResult`, a vector one `vecMapF`, a comparison, a draw, a reduction or a scan. -/
theorem enabledFlagsTrap : Obligations.EnabledFlagsTrap := by
  unfold Obligations.EnabledFlagsTrap
  refine ⟨?scalar, ?vector⟩
  case scalar =>
    intro d a b t s f v nan traps settled
    have result {r : Nat × Flags} (loud : ¬s.quiet r.2) := floatResult_enabled settled loud d
    have narrowed : traps (.fcvtF32F64 d a) (Fmt.f64.convert .f32 s.rm s.sat (s.x a).toNat).2 := by
      rw [← fpRead_f64]
      exact result
    have compared := floatCompare_enabled settled d a b t
    exact ⟨result, result, result, result, result, result, result, compared Num.lt, compared (fun x y => x.lt y || x.eq y), narrowed, result, result, result, result,
      result, result, result, result, result, result⟩
  case vector =>
    intro d a b p e t c s w f pk es x y z v u k m nan two one test before rs scan leaf tree seeded settled
    have map {src : List (BitVec 5 × Nat)} {word : Nat} {g : State → Nat → Nat × Flags} :=
      vecMapF_enabled (d := d) (src := src) (word := word) (p := p) (f := g) settled (widthOf_pos e) (widthOf_le e)
    exact ⟨map, map, map, map, map, map, map, map, map, map, map, map, map, map, map, vecFloatTest_enabled settled, vecFloatTest_enabled settled, map,
      vecConvertSr_enabled settled, vecMapF_enabled settled (fmt_width _).1 (fmt_width _).2,
      vecMapF_enabled settled (packed_width c.toNat).1 (packed_width c.toNat).2, vecWideMul_enabled settled, vecReduce_enabled settled,
      vecScan_enabled settled, vecScan_enabled settled⟩

end Sys2Proof.Machine
end

section
/-! SUPPORT. The own scratchpad of a core whose number lies beyond the package's (R12, R49). -/

namespace Sys2Proof.Machine

/-- A core beyond those of the package (R12), whose hart owns the first granule of its own scratchpad. -/
def farCore : State :=
  let s := State.reset
  { s with core := { s.core with id := 2000, tags := [(0, s.h.tag)] } }

/-- Nothing stands in the way of a read there. -/
theorem farCore_own : farCore.Own windowBase 8 := by
  unfold State.Own
  decide +kernel

/-- The load leaves as a message all the same. -/
theorem farCore_leaves :
    (leavingLoad false (BitVec.ofNat 64 windowBase) windowBase 8 farCore).toOption.map (fun r => r.1.length) = some 1 := by
  decide +kernel

/-- Refutes O10: nothing in its hypotheses bounds the core's number. The home of the own scratchpad of core 2000 is that of a
cluster's array (`homeOf` counts the scratchpads of cores from 100 and those of clusters from 2000), which lies on another
die than `dieOfCore` gives the core, so a load there leaves as a message. -/
theorem not_ownScratchpadIsAccessed : ¬ Obligations.OwnScratchpadIsAccessed := by
  unfold Obligations.OwnScratchpadIsAccessed
  rintro ⟨reads, -, -⟩
  obtain ⟨-, stays, -⟩ := reads farCore (BitVec.ofNat 64 windowBase) 8 (by decide) farCore_own
  have leaves := farCore_leaves
  rw [show leavingLoad false (BitVec.ofNat 64 windowBase) windowBase 8 farCore = _ from stays] at leaves
  exact absurd leaves (by decide)

end Sys2Proof.Machine
end

section
/-! SUPPORT. Messages performed at their homes and responses that reach their harts (R188, R189, R201, R251, R369). -/

namespace Sys2Proof.Machine

/-- What a change of one die leaves in every die of it stays in all of them. -/
theorem die_onDie_field {β : Type} (g : Die → β) (p : Pkg) (d k : Nat) {f : Die → Die} (h : ∀ x, g (f x) = g x) :
    g ((p.onDie d f).die k) = g (p.die k) := by
  by_cases same : k = d
  · subst same
    by_cases there : k < 4
    · rw [Pkg.die_onDie_same _ _ _ there, h]
    · simp [Pkg.die, Pkg.onDie, Vector.getD, there]
  · rw [Pkg.die_onDie_other _ _ same]

/-! ### A message off the way -/

/-- The state in which message `k` is performed at a location of its home: it is off the way, and the home has kept the
descriptor of another package's tenant. -/
def State.served (s : State) (k : Nat) (m : Msg) (loc : Nat) : State :=
  if m.owner = 0 ∧ loc < 2 ^ 56 then (s.unsend k).keepTenant (dieOfHome (homeOf loc)) m.tid.toNat else s.unsend k

/-- What stays as it was when only what is on its way and the walk caches of the dies change. -/
theorem served_eq (s : State) (k : Nat) (m : Msg) (loc : Nat) : ∃ net dies,
    s.served k m loc = { s with pkg := { s.pkg with net := net, dies := dies } } ∧
    ∀ d, (dies.getD d Die.reset).relockEnd = (s.pkg.die d).relockEnd := by
  unfold State.served
  split
  · unfold State.keepTenant
    extract_lets a es
    split
    · exact ⟨_, _, rfl, fun d => die_onDie_field (f := fun x =>
        { x with walks := (es.filter fun e => !x.walks.contains e) ++ x.walks }) Die.relockEnd (s.unsend k).pkg _ d fun _ => rfl⟩
    · exact ⟨_, _, rfl, fun _ => rfl⟩
  · exact ⟨_, _, rfl, fun _ => rfl⟩

section
variable {s : State} {k : Nat} {m : Msg} {loc : Nat}

theorem served_mem : (s.served k m loc).mem = s.mem := by
  obtain ⟨net, dies, eq, -⟩ := served_eq s k m loc
  rw [eq]

theorem served_noPulls (q : s.noPulls) : (s.served k m loc).noPulls := by
  obtain ⟨net, dies, eq, -⟩ := served_eq s k m loc
  rw [eq]
  exact q

theorem served_poisoned (a n : Nat) : (s.served k m loc).pkg.poisoned a n = s.pkg.poisoned a n := by
  obtain ⟨net, dies, eq, -⟩ := served_eq s k m loc
  rw [eq]
  rfl

theorem served_racesFor (a : Nat) : (s.served k m loc).pkg.racesFor m a = s.pkg.racesFor m a := by
  obtain ⟨net, dies, eq, -⟩ := served_eq s k m loc
  rw [eq]
  rfl

theorem served_releasesAt (a n : Nat) : (s.served k m loc).pkg.releasesAt a n = s.pkg.releasesAt a n := by
  obtain ⟨net, dies, eq, -⟩ := served_eq s k m loc
  rw [eq]
  rfl

theorem served_held (a n : Nat) : (s.served k m loc).pkg.held? a n = s.pkg.held? a n := by
  obtain ⟨net, dies, eq, relock⟩ := served_eq s k m loc
  have stalled : (s.served k m loc).pkg.stalled a = s.pkg.stalled a := by
    rw [eq]
    unfold Pkg.stalled
    split
    · exact congrArg (fun r => s.pkg.tripped || (_ || Option.isSome r)) (relock _)
    · rfl
  unfold Pkg.held?
  rw [stalled, eq]
  rfl

end

/-! ### Order, delivery, home -/

section
variable {s w t v : State} {k loc n : Nat} {m : Msg} {act : M Unit} {p : Spot}

/-- A message in its order, whose home admits it and is free. -/
theorem performAt_ends (order : s.inOrder k m = true) (q : s.noPulls)
    (free : s.admits m.tid.toNat m.secure loc = true ∧ s.pkg.held? loc n = false) (acts : Ends act (s.served k m loc) () w)
    (settles : Ends (settleOwner m.owner) { w with pkg := w.pkg.acknowledge m } () t) :
    Ends (performAt k m loc n act) s () t := by
  refine ends_get_bind ?_
  rw [order, free.1]
  have home : Ends (awaitHome loc n) s () s := by simpa only [pulled_of_noPulls q] using awaitHome_free free.2
  refine ends_bind home (ends_bind (t := s.unsend k) rfl ?_)
  unfold State.served at acts
  by_cases foreign : m.owner = 0 ∧ loc < 2 ^ 56
  · rw [if_pos foreign] at acts ⊢
    exact ends_bind rfl (ends_bind acts (ends_bind rfl settles))
  · rw [if_neg foreign] at acts ⊢
    exact ends_bind acts (ends_bind rfl settles)

theorem performSpot_ends (order : s.inOrder k m = true) (free : Ends (awaitSpot p) s () s) (acts : Ends act (s.unsend k) () w)
    (settles : Ends (settleOwner m.owner) { w with pkg := w.pkg.acknowledge m } () t) :
    Ends (performSpot k m p act) s () t := by
  refine ends_get_bind ?_
  rw [order]
  exact ends_bind free (ends_bind (t := s.unsend k) rfl (ends_bind acts (ends_bind rfl settles)))

/-- R189: a message that must wait for an earlier one stays. -/
theorem performAt_behind (order : s.inOrder k m = false) : Ends (performAt k m loc n act) s () s := by
  refine ends_get_bind ?_
  rw [order]
  rfl

theorem performSpot_behind (order : s.inOrder k m = false) : Ends (performSpot k m p act) s () s := by
  refine ends_get_bind ?_
  rw [order]
  rfl

end

end Sys2Proof.Machine
end

section
/-! SUPPORT. What each message does at its home. -/

namespace Sys2Proof.Machine

/-! ### Cells -/

@[simp] theorem cellsOf_length (loc : Nat) (bs : List Byte) : (cellsOf loc bs).length = bs.length := by simp [cellsOf]

/-- The cells of bytes begin at their location. -/
theorem cellsOf_first {bs : List Byte} (loc : Nat) (h : bs ≠ []) : ((cellsOf loc bs).head?.map (·.1)).getD 0 = loc := by
  obtain ⟨b, r, rfl⟩ := List.exists_cons_of_ne_nil h
  simp [cellsOf, List.range_succ_eq_map]

/-- The cells of bytes hold them. -/
@[simp] theorem cellsOf_bytes (loc : Nat) (bs : List Byte) : (cellsOf loc bs).map (·.2) = bs := by
  refine List.ext_getElem (by simp) fun i h h' => ?_
  simp [cellsOf, h']

/-- The cells of a run of bytes are written as one (R197). -/
theorem writeCells_run (s : State) {loc : Nat} {bs : List Byte} (h : bs ≠ []) :
    s.writeCells (cellsOf loc bs) = s.writeHome loc bs := by
  unfold State.writeCells
  extract_lets l b
  have first : l = loc := cellsOf_first loc h
  have bytes : b = bs := cellsOf_bytes loc bs
  rw [first, bytes, if_pos rfl]

/-- A free home is not waited for. -/
theorem awaitHomes_free {es : List RedElem} {u : State} (q : u.noPulls)
    (free : ∀ x ∈ es, u.pkg.held? x.key (x.op.width / 8) = false) :
    Ends (es.forM fun e => awaitHome e.key (e.op.width / 8)) u () u := by
  induction es with
  | nil => rfl
  | cons e es ih =>
    have first : Ends (awaitHome e.key (e.op.width / 8)) u () u := by
      simpa only [pulled_of_noPulls q] using awaitHome_free (free e (.head _))
    exact ends_bind first (ih fun x h => free x (.tail _ h))

section
variable {s w t v : State} {k : Nat} {m : Msg}

/-- A home that admits a message's access to `n` bytes and is free (R368). -/
def State.serves (s : State) (m : Msg) (loc n : Nat) : Prop :=
  s.admits m.tid.toNat m.secure loc = true ∧ s.pkg.held? loc n = false

/-- The end of a message performed in the state `w`. -/
def Acknowledged (m : Msg) (w t : State) : Prop := Ends (settleOwner m.owner) { w with pkg := w.pkg.acknowledge m } () t

section
variable (at_ : s.pkg.net[k]? = some m) (order : s.inOrder k m = true) (q : s.noPulls) (settles : Acknowledged m w t)
include at_ order settles

section
include q

/-- A plain read at a home answers with the bytes found. -/
theorem readMsg_home {key n tag : Nat} {dest : Dest} (spot : m.spot = none) (body : m.body = .read key n dest tag)
    (free : s.serves m key n) (clean : s.pkg.poisoned key n = false) (plain : m.rels = [])
    (ordered : s.pkg.racesFor m key = false)
    (noted : (let u := s.served k m key
      ({ u with pkg := u.pkg.replyTo m (.load tag (natOf (s.getBytes key n)) dest []) } : State).onHart m.owner
        (Hart.noted (s.pkg.releasesAt key n))) = some w) : Ends (readMsg k) s () t := by
  refine ends_get_bind ?_
  simp only [at_, body, spot]
  refine performAt_ends order q free (ends_get_bind ?_) settles
  have bytes : (s.served k m key).getBytes key n = s.getBytes key n := congrArg (Memory.read · key n) served_mem
  rw [served_poisoned, served_racesFor, served_releasesAt, clean, ordered, bytes, plain]
  exact ends_bind rfl (ends_orStop.mpr noted)

/-- A write at a home leaves its bytes. -/
theorem writeMsg_home {loc : Nat} {bs : List Byte} (spot : m.spot = none) (some_bytes : bs ≠ []) (body : m.body = .write (cellsOf loc bs))
    (free : s.serves m loc bs.length) (ordered : s.pkg.racesFor m loc = false)
    (writes : w = (let x := (s.served k m loc).writeCells (cellsOf loc bs)
      { x with pkg := (x.pkg.markFor m loc).leaveFor m loc bs.length })) : Ends (writeMsg k) s () t := by
  refine ends_get_bind ?_
  simp only [at_, body, spot]
  rw [cellsOf_first loc some_bytes, cellsOf_length]
  refine performAt_ends order q free ?_ settles
  subst writes
  have unraced := (served_racesFor (s := s) (k := k) (m := m) (loc := loc) loc).trans ordered
  simp only [Ends, run_modify, unraced]
  rfl

/-- A store of a nibble leaves its byte. -/
theorem writeMsg_nibble {key hi n : Nat} (body : m.body = .nibble key hi n) (free : s.serves m key 1)
    (ordered : s.pkg.racesFor m key = false)
    (writes : w = (let x := (s.served k m key).writeHome key (mergeNibble (s.getBytes key 1) hi n)
      { x with pkg := (x.pkg.markFor m key).leaveFor m key 1 })) : Ends (writeMsg k) s () t := by
  refine ends_get_bind ?_
  simp only [at_, body]
  refine performAt_ends order q free ?_ settles
  have bytes : (s.served k m key).getBytes key 1 = s.getBytes key 1 := congrArg (Memory.read · key 1) served_mem
  subst writes
  rw [← bytes]
  have unraced := (served_racesFor (s := s) (k := k) (m := m) (loc := key) key).trans ordered
  simp only [Ends, run_modify, unraced]
  rfl

/-- An atomic at a home changes its bytes and answers with the old ones. -/
theorem atomicMsg_home {op : AtomicOp} {key x e tag : Nat} {dest : Dest} (spot : m.spot = none)
    (body : m.body = .atomic op key x e dest tag) (free : s.serves m key (op.width / 8))
    (clean : s.pkg.poisoned key (op.width / 8) = false)
    (noted : (let old := natOf (s.getBytes key (op.width / 8))
      let r := op.apply old x e
      let y := (s.served k m key).putBytes key (bytesOf (op.width / 8) r.1)
      ({ y with pkg := (y.pkg.leaveFor m key (op.width / 8)).replyTo m (.amo tag old dest r.2) } : State).onHart m.owner
        (Hart.noted (s.pkg.releasesAt key (op.width / 8)))) = some w) : Ends (atomicMsg k) s () t := by
  refine ends_get_bind ?_
  simp only [at_, body, spot]
  refine performAt_ends order q free (ends_get_bind ?_) settles
  have bytes : (s.served k m key).getBytes key (op.width / 8) = s.getBytes key (op.width / 8) :=
    congrArg (Memory.read · key _) served_mem
  rw [served_poisoned, served_releasesAt, clean]
  simp only [State.atomicAt, pulled_of_noPulls (served_noPulls q), bytes]
  exact ends_bind rfl (ends_orStop.mpr noted)

/-- A reduction at its homes applies its elements and answers with their flags. -/
theorem reduceMsg_home {e : RedElem} {es : List RedElem} (body : m.body = .reduce (e :: es))
    (free : s.serves m e.key (e.op.width / 8)) (others : ∀ x ∈ es, s.pkg.held? x.key (x.op.width / 8) = false)
    (applies : w = (let r := (e :: es).foldl (State.reduceElem m) (s.served k m e.key, 0)
      { r.1 with pkg := r.1.pkg.replyTo m (.flags r.2) })) : Ends (reduceMsg k) s () t := by
  refine ends_get_bind ?_
  simp only [at_, body]
  refine performAt_ends order q free (ends_bind (awaitHomes_free (served_noPulls q) fun x h => ?_) ?_) settles
  · rw [served_held]
    rcases List.mem_cons.mp h with rfl | later
    · exact free.2
    · exact others x later
  · subst applies
    rfl

/-- A join at the home of its block counts it down and is answered. -/
theorem joinMsg_home {loc tag : Nat} (body : m.body = .join loc tag) (free : s.serves m loc 16)
    (parent : s.pkg.held? (loc + 64) 64 = false) (clean : (s.served k m loc).joinPoison loc = none)
    (counts : (s.served k m loc).joinAt m.tid.toNat m.secure loc m.clock = some v)
    (answers : w = { v with pkg := v.pkg.replyTo m (.done (some tag)) }) : Ends (joinMsg k) s () t := by
  refine ends_get_bind ?_
  simp only [at_, body]
  have second : Ends (awaitHome (loc + 64) 64) (s.served k m loc) () (s.served k m loc) := by
    simpa only [pulled_of_noPulls (served_noPulls q)] using awaitHome_free ((served_held _ _).trans parent)
  refine performAt_ends order q free (ends_bind second (ends_get_bind ?_)) settles
  rw [clean]
  subst answers
  exact ends_bind (ends_orStop.mpr counts) rfl

end

/-! ### Messages to a scratchpad, wherever its bytes lie by then (R388) -/

section
variable {p : Spot} (spot : m.spot = some p) (free : Ends (awaitSpot p) s () s)
include spot free

theorem readMsg_spot {key n tag : Nat} {dest : Dest} {bs : List Byte} (body : m.body = .read key n dest tag) (plain : m.rels = [])
    (reads : Ends (readSpot p n) (s.unsend k) (bs, false) v)
    (noted : ({ v with pkg := v.pkg.replyTo m (.load tag (natOf bs) dest []) } : State).onHart m.owner
      (Hart.noted ((s.unsend k).spotReleases p n)) = some w) : Ends (readMsg k) s () t := by
  refine ends_get_bind ?_
  simp only [at_, body, spot]
  refine performSpot_ends order free (ends_get_bind (ends_bind reads ?_)) settles
  rw [plain]
  exact ends_bind rfl (ends_orStop.mpr noted)

theorem writeMsg_spot {loc : Nat} {bs : List Byte} (body : m.body = .write (cellsOf loc bs))
    (writes : Ends (writeSpot p bs false) (s.unsend k) () v)
    (forwards : ({ v with pkg := (v.spotLocs p).foldl (fun q l => q.leaveFor m l bs.length) v.pkg } : State).forwardSpot
      m.owner p bs false = some w) : Ends (writeMsg k) s () t := by
  refine ends_get_bind ?_
  simp only [at_, body, spot]
  rw [cellsOf_bytes, cellsOf_length]
  exact performSpot_ends order free (ends_bind writes (ends_bind rfl (ends_orStop.mpr forwards))) settles

theorem atomicMsg_spot {op : AtomicOp} {key x e tag : Nat} {dest : Dest} (body : m.body = .atomic op key x e dest tag)
    (acts : Ends (atomicSpot m p op x e dest tag) (s.unsend k) () w) : Ends (atomicMsg k) s () t := by
  refine ends_get_bind ?_
  simp only [at_, body, spot]
  exact performSpot_ends order free acts settles

end

end

/-! ### Batches (R278) -/

/-- A batch for a subscriber of its own tenant is written into the subscriber's copy. -/
theorem updateMsg_writes {id entry : Nat} {bytes : List (Nat × Byte)} {bad : List Nat} {h : Hart} {e : SubEntry} {x : State}
    (at_ : s.pkg.net[k]? = some m) (order : s.inOrder k m = true) (body : m.body = .update id entry bytes bad)
    (hart : s.hart? id = some h) (sub : h.subs.getD entry none = some e)
    (own : ∀ c, s.coreOf id = some c → s.pkg.tenantOf (clusterOfCore c / 48) (clusterOfCore c % 48) = m.tid.toNat)
    (writes : Ends ((updateRuns bad bytes).forM fun r => do
      awaitSpot (h.spot e.cluster (e.off + r.1))
      writeSpot (h.spot e.cluster (e.off + r.1)) r.2.2 r.2.1) (s.unsend k) () w)
    (publisher : Ends (settleOwner m.owner) w () t) (subscriber : Ends (settleOwner id) t () x) :
    Ends (updateMsg k) s () x := by
  have same : (((s.coreOf id).map clusterOfCore).any fun c => s.pkg.tenantOf (c / 48) (c % 48) != m.tid.toNat) = false := by
    cases core : s.coreOf id with
    | none => rfl
    | some c => simp [own c core]
  refine ends_get_bind ?_
  simp only [at_, body, order, hart, sub, same, Bool.not_true, Bool.false_eq_true, if_false, Option.bind_some, Option.map_some]
  exact ends_bind (t := s.unsend k) rfl (ends_bind writes (ends_bind publisher subscriber))

/-! ### Messages that stay, and those refused (R189, R369) -/

section
variable (at_ : s.pkg.net[k]? = some m) (order : s.inOrder k m = false)
include at_ order

theorem readMsg_behind {key n tag : Nat} {dest : Dest} (body : m.body = .read key n dest tag) : Ends (readMsg k) s () s := by
  refine ends_get_bind ?_
  simp only [at_, body]
  split
  · exact performSpot_behind order
  · exact performAt_behind order

theorem writeMsg_behind {cells : List Host.Cell} (body : m.body = .write cells) : Ends (writeMsg k) s () s := by
  refine ends_get_bind ?_
  simp only [at_, body]
  split
  · exact performSpot_behind order
  · exact performAt_behind order

theorem nibble_behind {key hi n : Nat} (body : m.body = .nibble key hi n) : Ends (writeMsg k) s () s := by
  refine ends_get_bind ?_
  simp only [at_, body]
  exact performAt_behind order

theorem atomicMsg_behind {op : AtomicOp} {key x e tag : Nat} {dest : Dest} (body : m.body = .atomic op key x e dest tag) :
    Ends (atomicMsg k) s () s := by
  refine ends_get_bind ?_
  simp only [at_, body]
  split
  · exact performSpot_behind order
  · exact performAt_behind order

theorem reduceMsg_behind {e : RedElem} {es : List RedElem} (body : m.body = .reduce (e :: es)) : Ends (reduceMsg k) s () s := by
  refine ends_get_bind ?_
  simp only [at_, body]
  exact performAt_behind order

end

section
variable (at_ : s.pkg.net[k]? = some m) (order : s.inOrder k m = true) (foreign : m.owner = 0) (spot : m.spot = none)
  (unacknowledged : m.ack = none)
include at_ order foreign spot unacknowledged

/-- A read of another package that its home refuses is answered with the refusal. -/
theorem readMsg_refused {key n tag : Nat} {dest : Dest} (body : m.body = .read key n dest tag)
    (refused : s.admits m.tid.toNat m.secure key = false) :
    Ends (readMsg k) s () { s.unsend k with pkg := (s.unsend k).pkg.replyTo m (.refused m.va (some tag)) } := by
  refine ends_get_bind ?_
  simp only [at_, body, spot]
  refine ends_get_bind ?_
  rw [order, refused]
  have told : m.untold = false := by simp [Msg.untold, Msg.tag?, body]
  have answered : m.answered = true := by simp [Msg.answered, body]
  have tag_eq : m.tag? = some tag := by simp [Msg.tag?, body]
  have settled : settleOwner m.owner = pure () := by rw [foreign]; rfl
  simp only [Ends, refuse, told, answered, tag_eq, settled, Pkg.acknowledge, unacknowledged]
  rfl

/-- A write of another package that its home refuses leaves an event alone. -/
theorem writeMsg_refused {loc : Nat} {bs : List Byte} (some_bytes : bs ≠ []) (body : m.body = .write (cellsOf loc bs))
    (refused : s.admits m.tid.toNat m.secure loc = false) :
    Ends (writeMsg k) s () { s.unsend k with
      pkg := (s.unsend k).pkg.tenantDrop (dieOfHome (homeOf loc)) (sourceOf loc) m.tid.toNat ((s.unsend k).pkg.addressOf loc) } := by
  refine ends_get_bind ?_
  simp only [at_, body, spot]
  rw [cellsOf_first loc some_bytes, cellsOf_length]
  refine ends_get_bind ?_
  rw [order, refused]
  have untold : m.untold = true := by simp [Msg.untold, Msg.tag?, body]
  have unanswered : m.answered = false := by simp [Msg.answered, body, unacknowledged]
  have settled : settleOwner m.owner = pure () := by rw [foreign]; rfl
  have home : ¬(m.owner ≠ 0 ∧ dieOfCore m.core ≠ dieOfHome (homeOf loc)) := fun h => h.1 foreign
  simp only [Ends, refuse, untold, unanswered, settled, home, Pkg.acknowledge, unacknowledged]
  rfl

end
end

end Sys2Proof.Machine
end

section
/-! SUPPORT. Responses that reach their harts (R33, R228, R230, R251). -/

namespace Sys2Proof.Machine

/-! ### What leaves the cores as they are -/

theorem cores_pkg (s : State) (p : Pkg) : ({ s with pkg := p } : State).cores = s.cores := rfl

theorem cores_poisonBytes (s : State) (loc n : Nat) : (s.poisonBytes loc n).cores = s.cores := rfl

theorem cores_putBytes (s : State) (loc : Nat) (bs : List Byte) : (s.putBytes loc bs).cores = s.cores := rfl

theorem cores_foldl {α : Type} {f : State → α → State} (h : ∀ s a, (f s a).cores = s.cores) (l : List α) (s : State) :
    (l.foldl f s).cores = s.cores := by
  induction l generalizing s with
  | nil => rfl
  | cons a l ih => exact (ih _).trans (h s a)

theorem cores_putLine (s : State) (dst src : Nat) (keyed : Bool) (data : List Byte) :
    (s.putLine dst src keyed data).cores = s.cores := by
  unfold State.putLine
  split
  · exact cores_putBytes s dst data
  · exact (cores_pkg _ _).trans ((cores_foldl (fun s b => cores_poisonBytes s _ _) _ _).trans (cores_putBytes s dst data))

theorem cores_pullLine (s : State) (n line : Nat) : (s.pullLine n line).cores = s.cores := by
  unfold State.pullLine
  extract_lets
  split
  · rfl
  · split
    · exact (cores_pkg _ _).trans (cores_poisonBytes _ _ _)
    · exact (cores_pkg _ _).trans (cores_putLine _ _ _ _ _)

theorem cores_pulledBy (s : State) (loc fuel : Nat) : (s.pulledBy loc fuel).cores = s.cores := by
  induction fuel generalizing s loc with
  | zero => rfl
  | succ fuel ih =>
    simp only [State.pulledBy]
    split
    · rfl
    · split
      · exact (cores_pullLine _ _ _).trans ((ih _ _).trans (ih _ _))
      · exact cores_pullLine _ _ _

theorem cores_pulled (s : State) (loc : Nat) : (s.pulled loc).cores = s.cores := by
  unfold State.pulled
  split
  · exact cores_pulledBy _ _ _
  · rfl

theorem cores_putPhys {s t : State} {pa : Nat} {bs : List (List Byte)} (h : s.putPhys pa bs = some t) : t.cores = s.cores := by
  induction bs generalizing s pa with
  | nil => cases h; rfl
  | cons b r ih =>
    simp only [State.putPhys] at h
    split at h
    · cases h
    · exact (ih h).trans ((cores_putBytes _ _ _).trans (cores_pulled s _))

theorem cores_putAreas {s t : State} {base : Nat} {as : List (Nat × List Dword)} (h : s.putAreas base as = some t) :
    t.cores = s.cores := by
  induction as generalizing s with
  | nil => cases h; rfl
  | cons a r ih =>
    simp only [State.putAreas] at h
    split at h
    · cases h
    · rename_i u put
      exact (ih h).trans (cores_putPhys put)

/-- What is done to a parked hart leaves the cores. -/
theorem cores_onParked {s t : State} {g : Gang} {h : Hart} {f : Hart → Hart} (done : s.onParked g h f = some t) :
    t.cores = s.cores := by
  have read : (s.areaRead h).cores = s.cores := by
    unfold State.areaRead
    split
    · exact cores_pkg _ _
    · rfl
  unfold State.onParked at done
  split at done
  · cases done
  · exact (cores_putAreas done).trans ((cores_pkg _ _).trans read)

/-! ### The edge of a cycle -/

/-- The edge of the cycle in which the core of a hart stands. -/
def State.hartEdge (s : State) (p : Pkg) (id : Nat) : Nat := ((s.coreOf id).map fun c => (p.die (dieOfCore c)).edgeAt).getD 0

theorem edgeAt_logEvent (p : Pkg) (d code src a b k : Nat) : ((p.logEvent d code src a b).die k).edgeAt = (p.die k).edgeAt :=
  die_onDie_field Die.edgeAt p d k fun _ => rfl

theorem pkg_focus (s : State) (c : Nat) : (s.focus c).pkg = s.pkg := by
  unfold State.focus
  split <;> rfl

/-- What is done to a hart on a core changes no die; what is done to a parked one leaves it without a core. -/
theorem hartEdge_onHart {s t : State} {id : Nat} {f : Hart → Hart} (done : s.onHart id f = some t) :
    t.hartEdge t.pkg id = t.hartEdge s.pkg id := by
  unfold State.onHart at done
  split at done
  next c core =>
    obtain rfl := Option.some.inj done
    have same : (s.onCore c fun s => { s with h := f s.h }).pkg = s.pkg := (pkg_focus _ _).trans (pkg_focus s c)
    rw [same]
  next gone =>
    have cores : t.cores = s.cores := by
      split at done
      · exact cores_onParked done
      · exact congrArg State.cores (Option.some.inj done).symm
    have parked : t.coreOf id = none := by rw [← gone, State.coreOf, State.coreOf, cores]
    rw [State.hartEdge, State.hartEdge, parked]
    rfl

/-- A miss reported to a hart moves no clock edge of its core. -/
theorem hartEdge_reportMiss {s t : State} {id die cls late : Nat} {va : Dword} (done : s.reportMiss id die va cls late = some t) :
    t.hartEdge t.pkg id = t.hartEdge s.pkg id := by
  refine (hartEdge_onHart done).trans ?_
  unfold State.hartEdge
  split
  · simp only [edgeAt_logEvent]
  · rfl

/-! ### Responses -/

/-- The state in which response `k` has left what is on its way. -/
def State.unanswer (s : State) (k : Nat) (r : Resp) : State :=
  { s with pkg := { s.pkg.launchAnswered r with resps := s.pkg.resps.eraseIdx k } }

/-- A refusal of an untold access leaves its event on the die of its hart (R369). -/
def State.dropTold (s : State) (r : Resp) : State :=
  match r.body with
  | .dropped tid addr => { s with pkg := s.pkg.tenantDrop (s.dieOf r.owner) ((s.coreOf r.owner).getD 0xFFFF) tid addr }
  | _ => s

/-- A response given to its hart, after the miss that it reports; `s` is the state whose clock edges count. -/
def deliverResp (s : State) (r : Resp) : M Unit := do
  match r.miss with
  | some (va, cls, late) =>
    orStop fun x => x.reportMiss r.owner (x.dieOf r.owner) va cls late
    orStop fun y => y.onHart r.owner (Hart.missTaken (y.hartEdge s.pkg r.owner) r.key)
  | none => pure ()
  orStop fun v => v.deliver r
  settleOwner r.owner

theorem deliverResp_ends {s x v w t : State} {r : Resp} (edges : ∀ d, (x.pkg.die d).edgeAt = (s.pkg.die d).edgeAt)
    (quiet : r.miss = none → v = x)
    (missed : ∀ va c l, r.miss = some (va, c, l) → ∃ y, x.reportMiss r.owner (x.dieOf r.owner) va c l = some y ∧
      y.onHart r.owner (Hart.missTaken (y.hartEdge y.pkg r.owner) r.key) = some v)
    (delivers : v.deliver r = some w) (settles : Ends (settleOwner r.owner) w () t) : Ends (deliverResp s r) x () t := by
  have last : Ends (orStop (fun v => v.deliver r) >>= fun _ => settleOwner r.owner) v () t :=
    ends_bind (ends_orStop.mpr delivers) settles
  unfold deliverResp
  cases miss : r.miss with
  | none =>
    rw [← quiet miss]
    exact last
  | some m =>
    obtain ⟨va, c, l⟩ := m
    obtain ⟨y, reports, takes⟩ := missed va c l miss
    have edge : y.hartEdge y.pkg r.owner = y.hartEdge s.pkg r.owner := by
      rw [hartEdge_reportMiss reports]
      simp only [State.hartEdge, edges]
    rw [edge] at takes
    exact ends_bind (ends_orStop.mpr reports) (ends_bind (ends_orStop.mpr takes) last)

theorem respond_ends {s v w t : State} {k : Nat} {r : Resp} (at_ : s.pkg.resps[k]? = some r)
    (runs : ∀ c, s.coreOf r.owner = some c → s.pkg.stopped (dieOfCore c) = false) (turn : s.turnDue r.owner = false)
    (first : s.missPassed r = false) (owner : r.owner ≠ 0) (area : Ends (awaitArea r.owner) s () s)
    (quiet : r.miss = none → v = (s.unanswer k r).dropTold r)
    (missed : ∀ va c l, r.miss = some (va, c, l) → ∃ y,
      ((s.unanswer k r).dropTold r).reportMiss r.owner (((s.unanswer k r).dropTold r).dieOf r.owner) va c l = some y ∧
      y.onHart r.owner (Hart.missTaken (y.hartEdge y.pkg r.owner) r.key) = some v)
    (delivers : v.deliver r = some w) (settles : Ends (settleOwner r.owner) w () t) : Ends (respond k) s () t := by
  have stands : ((s.coreOf r.owner).any (fun c => s.pkg.stopped (dieOfCore c)) || s.turnDue r.owner || s.missPassed r) = false := by
    cases core : s.coreOf r.owner with
    | none => simp [turn, first]
    | some c => simp [turn, first, runs c core]
  refine ends_get_bind ?_
  simp only [at_, stands, Bool.false_eq_true, if_false]
  refine ends_bind area (ends_bind (t := s.unanswer k r) rfl ?_)
  have rest := deliverResp_ends (s := s) (x := (s.unanswer k r).dropTold r) (v := v) ?_ quiet missed delivers settles
  · split
    next zero _ => exact absurd zero owner
    next zero _ => exact absurd zero owner
    next tid addr body =>
      refine ends_bind (a := ()) (t := (s.unanswer k r).dropTold r) ?_ rest
      rw [State.dropTold, body]
      rfl
    next other _ _ =>
      have told : (s.unanswer k r).dropTold r = s.unanswer k r := by
        unfold State.dropTold
        split
        next body => exact absurd body (other _ _)
        next => rfl
      rw [told] at rest
      exact rest
  · intro d
    have unmoved : ((s.unanswer k r).pkg.die d).edgeAt = (s.pkg.die d).edgeAt := by
      change ((s.pkg.launchAnswered r).die d).edgeAt = _
      unfold Pkg.launchAnswered
      split <;> rfl
    unfold State.dropTold
    split
    · exact (edgeAt_logEvent _ _ _ _ _ _ d).trans unmoved
    · exact unmoved

end Sys2Proof.Machine
end

section
/-! SUPPORT. Every message and every response (R188, R189, R251). -/

namespace Sys2Proof.Machine

/-- The end of an event that is all or nothing. -/
theorem event_ends {m : M Unit} {s t : State} (h : Ends m s () t) : finishAt (allOrNothing m) s = .next t :=
  finishAt_ok (allOrNothing_ok h)

/-- A write at a home leaves its bytes there, and no others. -/
theorem served_writes {s : State} {k : Nat} {m : Msg} {loc : Nat} {bs : List Byte} (q : s.noPulls) (some_bytes : bs ≠ [])
    (wf : Memory.wf s.mem = true) :
    let x := (s.served k m loc).writeCells (cellsOf loc bs)
    x.getBytes loc bs.length = bs ∧ ∀ l, l < loc ∨ loc + bs.length ≤ l → Memory.get x.mem l = Memory.get s.mem l := by
  intro x
  have mem : x.mem = ((s.served k m loc).putBytes loc bs).mem := by
    simp only [x, writeCells_run _ some_bytes, State.writeHome, pulled_of_noPulls (served_noPulls q)]
  refine ⟨?_, fun l outside => ?_⟩
  · exact (congrArg (Memory.read · loc bs.length) mem).trans (getBytes_putBytes _ _ _ (by rw [served_mem]; exact wf))
  · rw [mem, get_putBytes_other _ outside, served_mem]

/-- A load that is owed writes its destination, and is owed no longer (R228). -/
theorem load_apply {h : Hart} {tag v d : Nat} {clock : List (Nat × Nat)} (pos : 0 < d) (reg : d < 32)
    (owed : h.pend.any (·.1 == tag) = true) :
    let g := (RespBody.load tag v (.x d) clock).apply h
    g.x.getD d 0 = BitVec.ofNat 64 v ∧ (∀ r, r ≠ d → g.x.getD r 0 = h.x.getD r 0) ∧
    g.pend = h.pend.filter (·.1 != tag) ∧ g.pc = h.pc ∧ g.instret = h.instret := by
  intro g
  have dest : (h.destOf tag).isSome = true := by
    simpa [Hart.destOf] using owed
  have g_eq : g = ((h.unpend tag).setX (BitVec.ofNat 5 d) (BitVec.ofNat 64 v)).acquiredAt tag clock := if_pos dest
  have acquired (f : Hart) : (f.acquiredAt tag clock).x = f.x ∧ (f.acquiredAt tag clock).pend = f.pend ∧
      (f.acquiredAt tag clock).pc = f.pc ∧ (f.acquiredAt tag clock).instret = f.instret := by
    unfold Hart.acquiredAt
    split
    · exact ⟨rfl, rfl, rfl, rfl⟩
    · exact ⟨rfl, rfl, rfl, rfl⟩
  obtain ⟨x, pend, pc, instret⟩ := acquired ((h.unpend tag).setX (BitVec.ofNat 5 d) (BitVec.ofNat 64 v))
  have number : (BitVec.ofNat 5 d).toNat = d := Nat.mod_eq_of_lt reg
  have named : BitVec.ofNat 5 d ≠ 0 := fun zero => by
    have := congrArg BitVec.toNat zero
    rw [number] at this
    exact absurd this (by simp; omega)
  have file : ((h.unpend tag).setX (BitVec.ofNat 5 d) (BitVec.ofNat 64 v)).x = h.x.setIfInBounds d (BitVec.ofNat 64 v) := by
    rw [Hart.setX, if_neg named, number]
    rfl
  rw [g_eq]
  refine ⟨?_, fun r other => ?_, ?_, ?_, ?_⟩
  · rw [x, file]
    exact vector_getD_set_same h.x _ _ reg
  · rw [x, file]
    exact vector_getD_set_other h.x _ _ other
  · rw [pend]
    simp [Hart.unpend]
  · rw [pc]
    simp [Hart.unpend]
  · rw [instret]
    simp [Hart.unpend]

/-- Settles O43: each message and each response by the lemma about it. -/
theorem messagesArePerformed : Obligations.MessagesArePerformed := by
  unfold Obligations.MessagesArePerformed
  refine ⟨?performed, ?refused, ?responses⟩
  case performed =>
    intro k m s w t v at_ order q u free from_ noted ends
    refine ⟨fun spot => ⟨?_, ?_, ?_⟩, ?_, fun p spot awake => ⟨?_, ?_, ?_⟩, ?_, ?_, ?_⟩
    · exact fun key n dest tag body free clean plain ordered noted settles =>
        event_ends (readMsg_home at_ order q settles spot body free clean plain ordered noted)
    · intro loc bs some_bytes body free ordered x writes
      subst writes
      exact ⟨fun settles => event_ends (writeMsg_home at_ order q settles spot some_bytes body free ordered rfl),
        served_writes q some_bytes⟩
    · exact fun op key x e dest tag body free clean noted settles =>
        event_ends (atomicMsg_home at_ order q settles spot body free clean noted)
    · exact fun key hi n body free ordered writes settles =>
        event_ends (writeMsg_nibble at_ order q settles body free ordered writes)
    · exact fun key n dest tag bs body plain reads noted settles =>
        event_ends (readMsg_spot at_ order settles spot awake body plain reads noted)
    · exact fun loc bs _ body writes forwards settles =>
        event_ends (writeMsg_spot at_ order settles spot awake body writes forwards)
    · exact fun op key x e dest tag body acts settles => event_ends (atomicMsg_spot at_ order settles spot awake body acts)
    · exact fun e es body free others applies settles =>
        event_ends (reduceMsg_home at_ order q settles body free others applies)
    · exact fun loc tag body free parent clean counts answers settles =>
        event_ends (joinMsg_home at_ order q settles body free parent clean counts answers)
    · exact fun id entry bytes bad h e body hart sub own writes publisher subscriber =>
        event_ends (updateMsg_writes at_ order body hart sub own writes publisher subscriber)
  case refused =>
    intro k m s at_ u
    refine ⟨fun foreign spot ack order => ⟨?_, ?_⟩, fun order => ⟨?_, ?_, ?_, ?_, ?_⟩⟩
    · exact fun key n dest tag body refused => event_ends (readMsg_refused at_ order foreign spot ack body refused)
    · exact fun loc bs some_bytes body refused =>
        event_ends (writeMsg_refused at_ order foreign spot ack some_bytes body refused)
    · exact fun key n dest tag body => event_ends (readMsg_behind at_ order body)
    · exact fun cells body => event_ends (writeMsg_behind at_ order body)
    · exact fun key hi v body => event_ends (nibble_behind at_ order body)
    · exact fun op key v e dest tag body => event_ends (atomicMsg_behind at_ order body)
    · exact fun e es body => event_ends (reduceMsg_behind at_ order body)
  case responses =>
    refine ⟨?_, fun h tag v d clock => load_apply, fun h fl va => ⟨rfl, rfl⟩⟩
    intro k r s v w t at_ runs turn first owner area u x edge quiet missed delivers settles
    exact event_ends (respond_ends at_ runs turn first owner area quiet missed delivers settles)

end Sys2Proof.Machine
end

section
/-! SUPPORT. Words and their fields (R54): a word put together from fixed bits and fields has each field and every other
bit as it was put there; a word that has these fixed bits is put together from them and its own fields. -/

namespace Sys2Proof.Machine

/-! ### Fields and the bits beside them -/

/-- The bits of `w / p % q` lie outside each field listed, by its place and width. -/
def outside (p q : Nat) (fs : List (Nat × Nat)) : Bool :=
  fs.all fun f => 2 ^ f.1 % (p * q) == 0 || p % 2 ^ (f.1 + f.2) == 0

/-- The word `w` has the bits of `m` outside the fields listed. -/
def FixedBits (w m : Nat) (fs : List (Nat × Nat)) : Prop := ∀ p q, outside p q fs = true → w / p % q = m / p % q

/-- The fields listed, the last one first, lie apart and over bits of `m` that are 0. -/
def free (m : Nat) : List (Nat × Nat) → Bool
  | [] => true
  | f :: fs => m / 2 ^ f.1 % 2 ^ f.2 == 0 && outside (2 ^ f.1) (2 ^ f.2) fs && free m fs

/-- A field at its place in a word. -/
structure Field where
  {width : Nat}
  lo : Nat
  value : BitVec width

/-- Where a field lies. -/
def Field.at_ (f : Field) : Nat × Nat := (f.lo, f.width)

/-- The word `w` is put together from the fixed bits `m` and the fields listed. -/
structure Holds (w m : Nat) (fs : List Field) : Prop where
  fixed : FixedBits w m (fs.map Field.at_)
  field : ∀ f ∈ fs, fieldOf w f.lo f.width = f.value

section Placing

variable {w m p q l k : Nat} {fs : List (Nat × Nat)} (x : BitVec k)

theorem FixedBits.low (h : FixedBits w m fs) (o : outside 1 q fs = true) : w % q = m % q := by
  simpa only [Nat.div_one] using h 1 q o

theorem FixedBits.top (h : FixedBits w m fs) (o : outside p 0 fs = true) : w / p = m / p := by
  simpa only [Nat.mod_zero] using h p 0 o

theorem outside_cons {f : Nat × Nat} :
    outside p q (f :: fs) = true ↔ (2 ^ f.1 % (p * q) = 0 ∨ p % 2 ^ (f.1 + f.2) = 0) ∧ outside p q fs = true := by
  simp [outside]

/-- A field above a slice of a word does not meet it. -/
theorem slice_place_above (h : 2 ^ l % (p * q) = 0) : (w + place x l) / p % q = w / p % q := by
  obtain ⟨c, hc⟩ := Nat.dvd_of_mod_eq_zero h
  rw [← Nat.mod_mul_right_div_self, ← Nat.mod_mul_right_div_self, place, hc, Nat.mul_left_comm,
    Nat.add_mul_mod_self_left]

/-- Nor does a field below it, where the word has zeros: no carry leaves the field. -/
theorem slice_place_below (z : w / 2 ^ l % 2 ^ k = 0) (h : p % 2 ^ (l + k) = 0) : (w + place x l) / p = w / p := by
  obtain ⟨c, rfl⟩ := Nat.dvd_of_mod_eq_zero h
  have zeros : w / 2 ^ l = 2 ^ k * (w / 2 ^ l / 2 ^ k) := by
    have := Nat.div_add_mod (w / 2 ^ l) (2 ^ k)
    omega
  have whole : (w + place x l) / 2 ^ l / 2 ^ k = w / 2 ^ l / 2 ^ k := by
    rw [place, Nat.add_mul_div_right _ _ (Nat.two_pow_pos l), zeros, Nat.mul_add_div (Nat.two_pow_pos k),
      Nat.div_eq_of_lt x.isLt, Nat.mul_div_cancel_left _ (Nat.two_pow_pos k), Nat.add_zero]
  rw [Nat.pow_add, ← Nat.div_div_eq_div_mul, ← Nat.div_div_eq_div_mul, ← Nat.div_div_eq_div_mul,
    ← Nat.div_div_eq_div_mul, whole]

theorem slice_place (z : w / 2 ^ l % 2 ^ k = 0) (h : 2 ^ l % (p * q) = 0 ∨ p % 2 ^ (l + k) = 0) :
    (w + place x l) / p % q = w / p % q := by
  rcases h with h | h
  · exact slice_place_above x h
  · rw [slice_place_below x z h]

/-- A field placed over zeros reads back. -/
theorem fieldOf_place_same (z : w / 2 ^ l % 2 ^ k = 0) : fieldOf (w + place x l) l k = x := by
  apply BitVec.eq_of_toNat_eq
  rw [fieldOf, BitVec.toNat_ofNat, place, Nat.add_mul_div_right _ _ (Nat.two_pow_pos l), Nat.add_mod, z, Nat.zero_add,
    Nat.mod_mod, Nat.mod_eq_of_lt x.isLt]

/-- Another field is left as it was. -/
theorem fieldOf_place_other {lo n : Nat} (z : w / 2 ^ l % 2 ^ k = 0)
    (h : 2 ^ lo % (2 ^ l * 2 ^ k) = 0 ∨ 2 ^ l % 2 ^ (lo + n) = 0) :
    fieldOf (w + place x l) lo n = fieldOf w lo n := by
  apply BitVec.eq_of_toNat_eq
  rw [fieldOf, fieldOf, BitVec.toNat_ofNat, BitVec.toNat_ofNat]
  refine slice_place x z ?_
  rw [← Nat.pow_add] at h ⊢
  exact h.symm

theorem Holds.nil (m : Nat) : Holds m m [] := ⟨fun _ _ _ => rfl, by simp⟩

/-- One more field, apart from the others and over zeros. -/
theorem Holds.place {gs : List Field} (h : Holds w m gs) (o : free m ((l, k) :: gs.map Field.at_) = true) :
    Holds (w + place x l) m (⟨l, x⟩ :: gs) := by
  simp only [free, Bool.and_eq_true, beq_iff_eq] at o
  obtain ⟨⟨mz, apart⟩, -⟩ := o
  have z : w / 2 ^ l % 2 ^ k = 0 := (h.fixed _ _ apart).trans mz
  refine ⟨fun p q o => ?_, ?_⟩
  · obtain ⟨here, rest⟩ := outside_cons.mp o
    exact (slice_place x z here).trans (h.fixed p q rest)
  · rw [List.forall_mem_cons]
    refine ⟨fieldOf_place_same x z, fun f hf => (fieldOf_place_other x z ?_).trans (h.field f hf)⟩
    simpa [Field.at_] using List.all_eq_true.mp apart f.at_ (List.mem_map_of_mem hf)

end Placing

section Encoded

variable {n1 n2 n3 n4 n5 n6 m l1 l2 l3 l4 l5 l6 v : Nat} {x1 : BitVec n1} {x2 : BitVec n2} {x3 : BitVec n3}
  {x4 : BitVec n4} {x5 : BitVec n5} {x6 : BitVec n6}

theorem free_of_cons {f : Nat × Nat} {fs : List (Nat × Nat)} (h : free m (f :: fs) = true) : free m fs = true := by
  simp only [free, Bool.and_eq_true] at h
  exact h.2

theorem holds_enc1 (o : free m [(l1, n1)] = true) : Holds (enc1 m x1 l1) m [⟨l1, x1⟩] := (Holds.nil m).place x1 o

theorem holds_enc2 (o : free m [(l2, n2), (l1, n1)] = true) :
    Holds (enc2 m x1 l1 x2 l2) m [⟨l2, x2⟩, ⟨l1, x1⟩] := (holds_enc1 (free_of_cons o)).place x2 o

theorem holds_enc3 (o : free m [(l3, n3), (l2, n2), (l1, n1)] = true) :
    Holds (enc3 m x1 l1 x2 l2 x3 l3) m [⟨l3, x3⟩, ⟨l2, x2⟩, ⟨l1, x1⟩] := (holds_enc2 (free_of_cons o)).place x3 o

theorem holds_enc4 (o : free m [(l4, n4), (l3, n3), (l2, n2), (l1, n1)] = true) :
    Holds (enc4 m x1 l1 x2 l2 x3 l3 x4 l4) m [⟨l4, x4⟩, ⟨l3, x3⟩, ⟨l2, x2⟩, ⟨l1, x1⟩] :=
  (holds_enc3 (free_of_cons o)).place x4 o

theorem holds_enc5 (o : free m [(l5, n5), (l4, n4), (l3, n3), (l2, n2), (l1, n1)] = true) :
    Holds (enc5 m x1 l1 x2 l2 x3 l3 x4 l4 x5 l5) m [⟨l5, x5⟩, ⟨l4, x4⟩, ⟨l3, x3⟩, ⟨l2, x2⟩, ⟨l1, x1⟩] :=
  (holds_enc4 (free_of_cons o)).place x5 o

theorem holds_enc6 (o : free m [(l6, n6), (l5, n5), (l4, n4), (l3, n3), (l2, n2), (l1, n1)] = true) :
    Holds (enc6 m x1 l1 x2 l2 x3 l3 x4 l4 x5 l5 x6 l6) m
      [⟨l6, x6⟩, ⟨l5, x5⟩, ⟨l4, x4⟩, ⟨l3, x3⟩, ⟨l2, x2⟩, ⟨l1, x1⟩] :=
  (holds_enc5 (free_of_cons o)).place x6 o

/-! What the decoder reads from every word with the fixed bits of a row, it reads from the row's encoding. -/

theorem reads_enc1 {f : BitVec n1 → Instr} (o : free m [(l1, n1)] = true)
    (h : ∀ w, FixedBits w m [(l1, n1)] → decodeFields w v = .ok (f (fieldOf w l1 n1))) :
    decodeFields (enc1 m x1 l1) v = .ok (f x1) := by
  obtain ⟨fixed, field⟩ := holds_enc1 (x1 := x1) o
  simp only [List.forall_mem_cons] at field
  rw [h _ fixed, field.1]

theorem reads_enc2 {f : BitVec n1 → BitVec n2 → Instr} (o : free m [(l2, n2), (l1, n1)] = true)
    (h : ∀ w, FixedBits w m [(l2, n2), (l1, n1)] → decodeFields w v = .ok (f (fieldOf w l1 n1) (fieldOf w l2 n2))) :
    decodeFields (enc2 m x1 l1 x2 l2) v = .ok (f x1 x2) := by
  obtain ⟨fixed, field⟩ := holds_enc2 (x1 := x1) (x2 := x2) o
  simp only [List.forall_mem_cons] at field
  obtain ⟨f2, f1, -⟩ := field
  rw [h _ fixed, f1, f2]

theorem reads_enc3 {f : BitVec n1 → BitVec n2 → BitVec n3 → Instr} (o : free m [(l3, n3), (l2, n2), (l1, n1)] = true)
    (h : ∀ w, FixedBits w m [(l3, n3), (l2, n2), (l1, n1)] →
      decodeFields w v = .ok (f (fieldOf w l1 n1) (fieldOf w l2 n2) (fieldOf w l3 n3))) :
    decodeFields (enc3 m x1 l1 x2 l2 x3 l3) v = .ok (f x1 x2 x3) := by
  obtain ⟨fixed, field⟩ := holds_enc3 (x1 := x1) (x2 := x2) (x3 := x3) o
  simp only [List.forall_mem_cons] at field
  obtain ⟨f3, f2, f1, -⟩ := field
  rw [h _ fixed, f1, f2, f3]

theorem reads_enc4 {f : BitVec n1 → BitVec n2 → BitVec n3 → BitVec n4 → Instr}
    (o : free m [(l4, n4), (l3, n3), (l2, n2), (l1, n1)] = true)
    (h : ∀ w, FixedBits w m [(l4, n4), (l3, n3), (l2, n2), (l1, n1)] →
      decodeFields w v = .ok (f (fieldOf w l1 n1) (fieldOf w l2 n2) (fieldOf w l3 n3) (fieldOf w l4 n4))) :
    decodeFields (enc4 m x1 l1 x2 l2 x3 l3 x4 l4) v = .ok (f x1 x2 x3 x4) := by
  obtain ⟨fixed, field⟩ := holds_enc4 (x1 := x1) (x2 := x2) (x3 := x3) (x4 := x4) o
  simp only [List.forall_mem_cons] at field
  obtain ⟨f4, f3, f2, f1, -⟩ := field
  rw [h _ fixed, f1, f2, f3, f4]

theorem reads_enc5 {f : BitVec n1 → BitVec n2 → BitVec n3 → BitVec n4 → BitVec n5 → Instr}
    (o : free m [(l5, n5), (l4, n4), (l3, n3), (l2, n2), (l1, n1)] = true)
    (h : ∀ w, FixedBits w m [(l5, n5), (l4, n4), (l3, n3), (l2, n2), (l1, n1)] →
      decodeFields w v =
        .ok (f (fieldOf w l1 n1) (fieldOf w l2 n2) (fieldOf w l3 n3) (fieldOf w l4 n4) (fieldOf w l5 n5))) :
    decodeFields (enc5 m x1 l1 x2 l2 x3 l3 x4 l4 x5 l5) v = .ok (f x1 x2 x3 x4 x5) := by
  obtain ⟨fixed, field⟩ := holds_enc5 (x1 := x1) (x2 := x2) (x3 := x3) (x4 := x4) (x5 := x5) o
  simp only [List.forall_mem_cons] at field
  obtain ⟨f5, f4, f3, f2, f1, -⟩ := field
  rw [h _ fixed, f1, f2, f3, f4, f5]

theorem reads_enc6 {f : BitVec n1 → BitVec n2 → BitVec n3 → BitVec n4 → BitVec n5 → BitVec n6 → Instr}
    (o : free m [(l6, n6), (l5, n5), (l4, n4), (l3, n3), (l2, n2), (l1, n1)] = true)
    (h : ∀ w, FixedBits w m [(l6, n6), (l5, n5), (l4, n4), (l3, n3), (l2, n2), (l1, n1)] →
      decodeFields w v = .ok (f (fieldOf w l1 n1) (fieldOf w l2 n2) (fieldOf w l3 n3) (fieldOf w l4 n4)
        (fieldOf w l5 n5) (fieldOf w l6 n6))) :
    decodeFields (enc6 m x1 l1 x2 l2 x3 l3 x4 l4 x5 l5 x6 l6) v = .ok (f x1 x2 x3 x4 x5 x6) := by
  obtain ⟨fixed, field⟩ := holds_enc6 (x1 := x1) (x2 := x2) (x3 := x3) (x4 := x4) (x5 := x5) (x6 := x6) o
  simp only [List.forall_mem_cons] at field
  obtain ⟨f6, f5, f4, f3, f2, f1, -⟩ := field
  rw [h _ fixed, f1, f2, f3, f4, f5, f6]

end Encoded

/-! ### A word from its slices -/

/-- The `n` bits of a word from bit `lo` on. -/
def slice (w : Nat) : Nat → Nat → Nat
  | 0, n => w % 2 ^ n
  | lo + 1, n => w / 2 ^ (lo + 1) % 2 ^ n

theorem slice_eq (w lo n : Nat) : slice w lo n = w / 2 ^ lo % 2 ^ n := by
  cases lo with
  | zero => rw [slice, Nat.pow_zero, Nat.div_one]
  | succ lo => rfl

/-- The slices listed of a word, each at its place. -/
def gather (w : Nat) (ps : List (Nat × Nat)) : Nat := (ps.map fun p => slice w p.1 p.2 * 2 ^ p.1).sum

/-- Where slices end that follow one another from bit `lo` on; none where they do not. -/
def reach : Nat → List (Nat × Nat) → Option Nat
  | lo, [] => some lo
  | lo, p :: ps => if p.1 = lo then reach (lo + p.2) ps else none

/-- The slices listed, in some order, are the bits below the major opcode. -/
def tiles (ps : List (Nat × Nat)) : Bool := reach 0 (ps.insertionSort fun a b => a.1 ≤ b.1) == some 26

/-- The slices listed of `w` are those of `m`. -/
def Known (w m : Nat) : List (Nat × Nat) → Prop
  | [] => True
  | p :: ps => slice w p.1 p.2 = slice m p.1 p.2 ∧ Known w m ps

section Slices

variable {w m v : Nat} {fs ks : List (Nat × Nat)}

theorem gather_reach {lo hi : Nat} {ps : List (Nat × Nat)} (h : reach lo ps = some hi) :
    w / 2 ^ hi * 2 ^ hi + gather w ps = w / 2 ^ lo * 2 ^ lo := by
  induction ps generalizing lo with
  | nil => cases h; rfl
  | cons p ps ih =>
    obtain ⟨l, n⟩ := p
    simp only [reach] at h
    split at h
    · subst l
      have rest := ih h
      have cut : w / 2 ^ lo / 2 ^ n * 2 ^ n + w / 2 ^ lo % 2 ^ n = w / 2 ^ lo := Nat.div_add_mod' _ _
      rw [Nat.div_div_eq_div_mul, ← Nat.pow_add] at cut
      calc w / 2 ^ hi * 2 ^ hi + gather w ((lo, n) :: ps)
        _ = (w / 2 ^ hi * 2 ^ hi + gather w ps) + w / 2 ^ lo % 2 ^ n * 2 ^ lo := by
          simp only [gather, List.map_cons, List.sum_cons, slice_eq]; omega
        _ = (w / 2 ^ (lo + n) * 2 ^ n + w / 2 ^ lo % 2 ^ n) * 2 ^ lo := by
          rw [rest, Nat.add_mul, Nat.mul_assoc _ (2 ^ n), ← Nat.pow_add, Nat.add_comm n]
        _ = w / 2 ^ lo * 2 ^ lo := by rw [cut]
    · cases h

/-- A word is its major opcode and slices that are all the bits below it. -/
theorem gather_tiles {ps : List (Nat × Nat)} (h : tiles ps = true) (w : Nat) : w / 2 ^ 26 * 2 ^ 26 + gather w ps = w := by
  have perm : (ps.insertionSort fun a b => a.1 ≤ b.1).Perm ps := List.perm_insertionSort _ _
  have sum : gather w (ps.insertionSort fun a b => a.1 ≤ b.1) = gather w ps := (perm.map _).sum_eq
  rw [← sum, gather_reach (eq_of_beq h), Nat.pow_zero, Nat.div_one, Nat.mul_one]

theorem gather_known (h : Known w m ks) : gather w ks = gather m ks := by
  induction ks with
  | nil => rfl
  | cons p ps ih =>
    obtain ⟨here, rest⟩ := h
    simp only [gather, List.map_cons, List.sum_cons, here] at ih ⊢
    rw [ih rest]

/-- The fields and the known slices are all the bits below the major opcode, and `m` has zeros in the fields. -/
def covers (m : Nat) (fs ks : List (Nat × Nat)) : Bool := tiles (fs ++ ks) && gather m fs == 0

/-- A word is put together from its fields and the fixed bits that it is known to have, where these are all its bits. -/
theorem word_of_known (t : covers m fs ks = true) (o : w / 2 ^ 26 = m / 2 ^ 26) (k : Known w m ks) :
    m + gather w fs = w := by
  simp only [covers, Bool.and_eq_true, beq_iff_eq] at t
  obtain ⟨t, zeros⟩ := t
  have of_w := gather_tiles t w
  have of_m := gather_tiles t m
  have known := gather_known k
  simp only [gather, List.map_append, List.sum_append] at of_w of_m known zeros ⊢
  rw [o] at of_w
  omega

variable {n1 n2 n3 n4 n5 n6 l1 l2 l3 l4 l5 l6 : Nat}

theorem word_eq_enc0 (ks : List (Nat × Nat))
    (t : covers m [] ks = true) (o : w / 2 ^ 26 = m / 2 ^ 26) (k : Known w m ks) : m = w :=
  word_of_known t o k

theorem word_eq_enc1 (ks : List (Nat × Nat))
    (t : covers m [(l1, n1)] ks = true) (o : w / 2 ^ 26 = m / 2 ^ 26) (k : Known w m ks) :
    enc1 m (fieldOf w l1 n1) l1 = w := by
  refine Eq.trans ?_ (word_of_known t o k)
  simp only [gather, List.map_cons, List.map_nil, List.sum_cons, List.sum_nil, slice_eq, ← Nat.add_assoc]
  rfl

theorem word_eq_enc2 (ks : List (Nat × Nat))
    (t : covers m [(l1, n1), (l2, n2)] ks = true) (o : w / 2 ^ 26 = m / 2 ^ 26) (k : Known w m ks) :
    enc2 m (fieldOf w l1 n1) l1 (fieldOf w l2 n2) l2 = w := by
  refine Eq.trans ?_ (word_of_known t o k)
  simp only [gather, List.map_cons, List.map_nil, List.sum_cons, List.sum_nil, slice_eq, ← Nat.add_assoc]
  rfl

theorem word_eq_enc3 (ks : List (Nat × Nat))
    (t : covers m [(l1, n1), (l2, n2), (l3, n3)] ks = true) (o : w / 2 ^ 26 = m / 2 ^ 26) (k : Known w m ks) :
    enc3 m (fieldOf w l1 n1) l1 (fieldOf w l2 n2) l2 (fieldOf w l3 n3) l3 = w := by
  refine Eq.trans ?_ (word_of_known t o k)
  simp only [gather, List.map_cons, List.map_nil, List.sum_cons, List.sum_nil, slice_eq, ← Nat.add_assoc]
  rfl

theorem word_eq_enc4 (ks : List (Nat × Nat))
    (t : covers m [(l1, n1), (l2, n2), (l3, n3), (l4, n4)] ks = true) (o : w / 2 ^ 26 = m / 2 ^ 26) (k : Known w m ks) :
    enc4 m (fieldOf w l1 n1) l1 (fieldOf w l2 n2) l2 (fieldOf w l3 n3) l3 (fieldOf w l4 n4) l4 = w := by
  refine Eq.trans ?_ (word_of_known t o k)
  simp only [gather, List.map_cons, List.map_nil, List.sum_cons, List.sum_nil, slice_eq, ← Nat.add_assoc]
  rfl

theorem word_eq_enc5 (ks : List (Nat × Nat))
    (t : covers m [(l1, n1), (l2, n2), (l3, n3), (l4, n4), (l5, n5)] ks = true) (o : w / 2 ^ 26 = m / 2 ^ 26)
    (k : Known w m ks) :
    enc5 m (fieldOf w l1 n1) l1 (fieldOf w l2 n2) l2 (fieldOf w l3 n3) l3 (fieldOf w l4 n4) l4 (fieldOf w l5 n5) l5 = w := by
  refine Eq.trans ?_ (word_of_known t o k)
  simp only [gather, List.map_cons, List.map_nil, List.sum_cons, List.sum_nil, slice_eq, ← Nat.add_assoc]
  rfl

theorem word_eq_enc6 (ks : List (Nat × Nat))
    (t : covers m [(l1, n1), (l2, n2), (l3, n3), (l4, n4), (l5, n5), (l6, n6)] ks = true)
    (o : w / 2 ^ 26 = m / 2 ^ 26) (k : Known w m ks) :
    enc6 m (fieldOf w l1 n1) l1 (fieldOf w l2 n2) l2 (fieldOf w l3 n3) l3 (fieldOf w l4 n4) l4 (fieldOf w l5 n5) l5
      (fieldOf w l6 n6) l6 = w := by
  refine Eq.trans ?_ (word_of_known t o k)
  simp only [gather, List.map_cons, List.map_nil, List.sum_cons, List.sum_nil, slice_eq, ← Nat.add_assoc]
  rfl

end Slices

end Sys2Proof.Machine
end

section
/-! SUPPORT. A word that decodes is the word of its instruction (R55, R71), opcode by opcode. -/

namespace Sys2Proof.Machine

/-- An instruction that is read has the word `w`, and `x` as its second word. -/
def Canonical (w : Nat) (x : Option Nat) (d : Except Reject Instr) : Prop :=
  ∀ i, d = .ok i → encodeWord i = w ∧ secondWord i = x

section Canonical

variable {w v : Nat} {x : Option Nat} {i : Instr} {d e : Except Reject Instr} {c : Prop} [Decidable c]

theorem Canonical.error (r : Reject) : Canonical w x (.error r) := fun _ h => nomatch h

theorem Canonical.ok (s : secondWord i = x) (h : encodeWord i = w) : Canonical w x (.ok i) := by
  rintro _ ⟨⟩
  exact ⟨h, s⟩

theorem Canonical.ite (h : c → Canonical w x d) (k : Canonical w x e) : Canonical w x (if c then d else e) := by
  split
  · exact h ‹c›
  · exact k

theorem Canonical.if {r : Reject} (s : secondWord i = x) (h : c → encodeWord i = w) :
    Canonical w x (if c then .ok i else .error r) := .ite (fun y => .ok s (h y)) (.error r)

/-! Each row is read under conditions that fix every bit of the word outside its fields. -/

theorem op01_canonical (o : w / 2 ^ 26 = 0x01) : Canonical w none (decodeOp01 w) := by
  unfold decodeOp01
  split <;> rename_i n
  case h_22 | h_23 | h_24 | h_25 | h_26 | h_27 | h_28 | h_29 =>
    exact .if rfl fun z => word_eq_enc2 [(0, 8), (8, 8)] rfl o ⟨n, z, trivial⟩
  case h_35 => exact .error _
  all_goals exact .if rfl fun z => word_eq_enc3 [(0, 8), (8, 3)] rfl o ⟨n, z, trivial⟩

theorem op08_canonical (o : w / 2 ^ 26 = 0x08) : Canonical w none (decodeOp08 w) := by
  unfold decodeOp08
  refine .ite (fun z => .ok rfl (word_eq_enc2 [(16, 5)] rfl o ⟨z, trivial⟩)) ?_
  exact .error _

theorem op09_canonical (o : w / 2 ^ 26 = 0x09) : Canonical w none (decodeOp09 w) := by
  unfold decodeOp09
  iterate 4 refine .ite (fun z => .ok rfl (word_eq_enc3 [(6, 10)] rfl o ⟨z, trivial⟩)) ?_
  iterate 3 refine .ite (fun z => .ok rfl (word_eq_enc3 [(5, 11)] rfl o ⟨z, trivial⟩)) ?_
  exact .error _

theorem op0A_canonical (o : w / 2 ^ 26 = 0x0A) : Canonical w none (decodeOp0A w) := by
  unfold decodeOp0A
  split <;> rename_i n
  case h_14 => exact .error _
  all_goals exact .if rfl fun z => word_eq_enc3 [(0, 8), (8, 3)] rfl o ⟨n, z, trivial⟩

theorem op0B_canonical (o : w / 2 ^ 26 = 0x0B) : Canonical w none (decodeOp0B w) := by
  unfold decodeOp0B
  split <;> rename_i n
  case h_5 | h_10 | h_11 => exact .if rfl fun z => word_eq_enc3 [(0, 7), (8, 8)] rfl o ⟨n, z, trivial⟩
  case h_13 => exact .error _
  all_goals exact .if rfl fun z => word_eq_enc4 [(0, 7), (8, 3)] rfl o ⟨n, z, trivial⟩

theorem op0C_canonical (o : w / 2 ^ 26 = 0x0C) : Canonical w none (decodeOp0C w) := by
  unfold decodeOp0C
  iterate 3 refine .ite (fun ⟨y, z⟩ => .ok rfl (word_eq_enc4 [(0, 2), (3, 8)] rfl o ⟨y, z, trivial⟩)) ?_
  refine .ite (fun ⟨y, z⟩ => .ok rfl (word_eq_enc3 [(0, 2), (3, 13)] rfl o ⟨y, z, trivial⟩)) ?_
  iterate 14 refine .ite (fun z => .ok rfl (word_eq_enc2 [(0, 16)] rfl o ⟨z, trivial⟩)) ?_
  exact .error _

theorem op11_canonical (o : w / 2 ^ 26 = 0x11) : Canonical w none (decodeOp11 w) := by
  unfold decodeOp11
  refine .ite (fun z => .ok rfl (word_eq_enc5 [(4, 1)] rfl o ⟨z, trivial⟩)) ?_
  exact .error _

theorem op12_canonical (o : w / 2 ^ 26 = 0x12) : Canonical w none (decodeOp12 w) := by
  unfold decodeOp12
  refine .ite (fun z => .ok rfl (word_eq_enc4 [(3, 8)] rfl o ⟨z, trivial⟩)) ?_
  iterate 3 refine .ite (fun z => .ok rfl (word_eq_enc4 [(2, 9)] rfl o ⟨z, trivial⟩)) ?_
  iterate 4 refine .ite (fun ⟨y, z⟩ => .ok rfl (word_eq_enc1 [(0, 11), (16, 10)] rfl o ⟨y, z, trivial⟩)) ?_
  refine .ite (fun z => .ok rfl (word_eq_enc0 [(0, 26)] rfl o ⟨z, trivial⟩)) ?_
  refine .ite (fun ⟨y, z⟩ => .ok rfl (word_eq_enc1 [(0, 11), (16, 10)] rfl o ⟨y, z, trivial⟩)) ?_
  refine .ite (fun z => .ok rfl (word_eq_enc5 [(6, 5)] rfl o ⟨z, trivial⟩)) ?_
  refine .ite (fun z => .ok rfl (word_eq_enc4 [(2, 9)] rfl o ⟨z, trivial⟩)) ?_
  exact .error _

theorem op13_canonical (o : w / 2 ^ 26 = 0x13) : Canonical w none (decodeOp13 w) := by
  unfold decodeOp13
  iterate 13 refine .ite (fun z => .ok rfl (word_eq_enc4 [(1, 10)] rfl o ⟨z, trivial⟩)) ?_
  iterate 11 refine .ite (fun ⟨y, z⟩ => .ok rfl (word_eq_enc3 [(1, 10), (21, 5)] rfl o ⟨y, z, trivial⟩)) ?_
  iterate 4 refine .ite (fun ⟨y, z⟩ => .ok rfl (word_eq_enc4 [(0, 2), (6, 5)] rfl o ⟨y, z, trivial⟩)) ?_
  exact .error _

theorem op16_canonical (o : w / 2 ^ 26 = 0x16) : Canonical w none (decodeOp16 w) := by
  unfold decodeOp16
  split <;> rename_i n
  case h_5 | h_6 | h_7 => exact .if rfl fun z => word_eq_enc4 [(0, 5), (11, 5)] rfl o ⟨n, z, trivial⟩
  case h_1 | h_2 | h_3 | h_4 | h_8 => exact .ok rfl (word_eq_enc5 [(0, 5)] rfl o ⟨n, trivial⟩)
  case h_25 => exact .error _
  all_goals
    have kind : w / 2 ^ 4 % 2 ^ 1 = 1 := by omega
    exact .ok rfl (word_eq_enc6 [(4, 1)] rfl o ⟨kind, trivial⟩)

theorem op17_canonical (o : w / 2 ^ 26 = 0x17) : Canonical w none (decodeOp17 w) := by
  unfold decodeOp17
  split <;> rename_i n
  case h_18 => exact .ok rfl (word_eq_enc6 [] rfl o trivial)
  all_goals exact .ok rfl (word_eq_enc5 [(0, 5)] rfl o ⟨n, trivial⟩)

theorem op20_canonical (o : w / 2 ^ 26 = 0x20) : Canonical w none (decodeOp20 w) := by
  unfold decodeOp20
  split <;> rename_i n
  case h_20 | h_21 | h_22 | h_23 =>
    exact .if rfl fun z => word_eq_enc4 [(0, 5), (11, 5)] rfl o ⟨n, z, trivial⟩
  case h_31 => exact .error _
  all_goals exact .ok rfl (word_eq_enc5 [(0, 5)] rfl o ⟨n, trivial⟩)

theorem op21_canonical (o : w / 2 ^ 26 = 0x21) : Canonical w none (decodeOp21 w) := by
  unfold decodeOp21
  split <;> rename_i n
  case h_5 | h_11 | h_12 | h_14 | h_15 | h_16 | h_17 | h_22 =>
    exact .if rfl fun z => word_eq_enc4 [(0, 5), (11, 5)] rfl o ⟨n, z, trivial⟩
  case h_23 => exact .error _
  all_goals exact .ok rfl (word_eq_enc5 [(0, 5)] rfl o ⟨n, trivial⟩)

theorem op22_canonical (o : w / 2 ^ 26 = 0x22) : Canonical w none (decodeOp22 w) := by
  unfold decodeOp22
  split <;> rename_i n
  case h_3 =>
    refine .ite (fun ⟨y, z⟩ => .ok rfl (word_eq_enc5 [(3, 2), (2, 1), (11, 5)] rfl o ⟨n, y, z, trivial⟩)) ?_
    refine .ite (fun ⟨y, z⟩ => .ok rfl (word_eq_enc5 [(3, 2), (2, 1), (11, 5)] rfl o ⟨n, y, z, trivial⟩)) ?_
    exact .error _
  case h_4 => exact .ok rfl (word_eq_enc6 [(3, 2)] rfl o ⟨n, trivial⟩)
  case h_5 => exact .error _
  all_goals exact .if rfl fun z => word_eq_enc5 [(3, 2), (11, 5)] rfl o ⟨n, z, trivial⟩

theorem op23_canonical (o : w / 2 ^ 26 = 0x23) : Canonical w none (decodeOp23 w) := by
  unfold decodeOp23
  split <;> rename_i n
  case h_1 | h_2 | h_3 | h_12 | h_18 => exact .ok rfl (word_eq_enc5 [(0, 5)] rfl o ⟨n, trivial⟩)
  case h_13 => exact .if rfl fun z => word_eq_enc3 [(0, 5), (11, 10)] rfl o ⟨n, z, trivial⟩
  case h_14 | h_15 => exact .if rfl fun z => word_eq_enc4 [(0, 5), (8, 3)] rfl o ⟨n, z, trivial⟩
  case h_19 => exact .error _
  all_goals exact .if rfl fun z => word_eq_enc4 [(0, 5), (11, 5)] rfl o ⟨n, z, trivial⟩

theorem op24_canonical (o : w / 2 ^ 26 = 0x24) : Canonical w none (decodeOp24 w) := by
  unfold decodeOp24
  split <;> rename_i n
  case h_5 | h_8 | h_9 | h_10 => exact .if rfl fun z => word_eq_enc2 [(0, 5), (5, 11)] rfl o ⟨n, z, trivial⟩
  case h_6 | h_7 => exact .if rfl fun z => word_eq_enc1 [(0, 5), (5, 16)] rfl o ⟨n, z, trivial⟩
  case h_11 => exact .error _
  all_goals exact .if rfl fun z => word_eq_enc3 [(0, 5), (5, 6)] rfl o ⟨n, z, trivial⟩

theorem op25_canonical (o : w / 2 ^ 26 = 0x25) : Canonical w none (decodeOp25 w) := by
  unfold decodeOp25
  split <;> rename_i n
  case h_13 | h_14 | h_15 => exact .if rfl fun z => word_eq_enc5 [(0, 4), (4, 1)] rfl o ⟨n, z, trivial⟩
  case h_17 => exact .error _
  all_goals exact .ok rfl (word_eq_enc6 [(0, 4)] rfl o ⟨n, trivial⟩)

theorem op28_canonical (o : w / 2 ^ 26 = 0x28) : Canonical w none (decodeOp28 w) := by
  unfold decodeOp28
  split <;> rename_i n
  case h_3 => exact .error _
  all_goals exact .ok rfl (word_eq_enc6 [(21, 2)] rfl o ⟨n, trivial⟩)

theorem op29_canonical (o : w / 2 ^ 26 = 0x29) : Canonical w none (decodeOp29 w) := by
  unfold decodeOp29
  split <;> rename_i n
  case h_3 => exact .error _
  all_goals exact .ok rfl (word_eq_enc6 [(21, 2)] rfl o ⟨n, trivial⟩)

theorem op2A_canonical (o : w / 2 ^ 26 = 0x2A) : Canonical w none (decodeOp2A w) := by
  unfold decodeOp2A
  split <;> rename_i n
  case h_4 => exact .error _
  all_goals exact .ok rfl (word_eq_enc6 [(21, 2)] rfl o ⟨n, trivial⟩)

theorem op2B_canonical (o : w / 2 ^ 26 = 0x2B) : Canonical w none (decodeOp2B w) := by
  unfold decodeOp2B
  split <;> rename_i n
  case h_1 => exact .if rfl fun z => word_eq_enc1 [(0, 5), (5, 18)] rfl o ⟨n, z, trivial⟩
  case h_4 => exact .if rfl fun z => word_eq_enc5 [(0, 5), (5, 1)] rfl o ⟨n, z, trivial⟩
  case h_5 | h_6 =>
    exact .if rfl fun ⟨y, z⟩ => word_eq_enc2 [(0, 5), (5, 11), (21, 2)] rfl o ⟨n, y, z, trivial⟩
  case h_7 => exact .if rfl fun ⟨y, z⟩ => word_eq_enc2 [(0, 5), (5, 6), (14, 9)] rfl o ⟨n, y, z, trivial⟩
  case h_8 => exact .if rfl fun ⟨y, z⟩ => word_eq_enc3 [(0, 5), (5, 6), (14, 7)] rfl o ⟨n, y, z, trivial⟩
  case h_9 | h_10 =>
    exact .if rfl fun ⟨y, z⟩ => word_eq_enc1 [(0, 5), (5, 11), (21, 5)] rfl o ⟨n, y, z, trivial⟩
  case h_11 => exact .error _
  all_goals exact .if rfl fun ⟨y, z⟩ => word_eq_enc3 [(0, 5), (5, 6), (21, 2)] rfl o ⟨n, y, z, trivial⟩

theorem op30_canonical (o : w / 2 ^ 26 = 0x30) : Canonical w none (decodeOp30 w) := by
  unfold decodeOp30
  split <;> rename_i n
  case h_3 | h_4 | h_7 => exact .if rfl fun z => word_eq_enc5 [(4, 3), (0, 2)] rfl o ⟨n, z, trivial⟩
  case h_8 => exact .error _
  all_goals exact .ok rfl (word_eq_enc6 [(4, 3)] rfl o ⟨n, trivial⟩)

theorem op31_canonical (o : w / 2 ^ 26 = 0x31) : Canonical w none (decodeOp31 w) := by
  unfold decodeOp31
  split <;> rename_i n
  case h_2 => exact .if rfl fun ⟨y, z⟩ => word_eq_enc3 [(4, 3), (0, 2), (11, 10)] rfl o ⟨n, y, z, trivial⟩
  case h_4 => exact .if rfl fun z => word_eq_enc4 [(4, 3), (11, 10)] rfl o ⟨n, z, trivial⟩
  case h_5 => exact .if rfl fun ⟨y, z⟩ => word_eq_enc2 [(4, 3), (0, 2), (11, 15)] rfl o ⟨n, y, z, trivial⟩
  case h_6 => exact .if rfl fun z => word_eq_enc5 [(4, 3), (0, 2)] rfl o ⟨n, z, trivial⟩
  case h_7 =>
    refine .ite (fun ⟨y, z⟩ => .ok rfl (word_eq_enc2 [(4, 3), (0, 2), (11, 15)] rfl o ⟨n, y, z, trivial⟩)) ?_
    refine .ite (fun ⟨y, z⟩ => .ok rfl (word_eq_enc2 [(4, 3), (0, 2), (11, 15)] rfl o ⟨n, y, z, trivial⟩)) ?_
    exact .error _
  case h_8 => exact .if rfl fun ⟨y, z⟩ => word_eq_enc1 [(4, 3), (0, 2), (7, 19)] rfl o ⟨n, y, z, trivial⟩
  case h_9 => exact .error _
  all_goals exact .if rfl fun ⟨y, z, u⟩ =>
    word_eq_enc3 [(4, 3), (0, 2), (11, 5), (21, 5)] rfl o ⟨n, y, z, u, trivial⟩

theorem op32_canonical (o : w / 2 ^ 26 = 0x32) : Canonical w none (decodeOp32 w) := by
  unfold decodeOp32
  split <;> rename_i n
  case h_5 | h_6 | h_12 | h_13 => exact .if rfl fun z => word_eq_enc0 [(0, 8), (8, 18)] rfl o ⟨n, z, trivial⟩
  case h_7 => exact .if rfl fun z => word_eq_enc1 [(0, 8), (8, 3)] rfl o ⟨n, z, trivial⟩
  case h_8 => exact .if rfl fun z => word_eq_enc2 [(0, 8), (8, 8)] rfl o ⟨n, z, trivial⟩
  case h_9 => exact .if rfl fun ⟨y, z⟩ => word_eq_enc2 [(0, 8), (8, 3), (21, 5)] rfl o ⟨n, y, z, trivial⟩
  case h_10 => exact .if rfl fun z => word_eq_enc3 [(0, 8), (8, 3)] rfl o ⟨n, z, trivial⟩
  case h_14 => exact .error _
  all_goals exact .if rfl fun ⟨y, z⟩ => word_eq_enc1 [(0, 8), (8, 8), (21, 5)] rfl o ⟨n, y, z, trivial⟩

theorem op38_canonical (o : w / 2 ^ 26 = 0x38) : Canonical w none (decodeOp38 w) := by
  unfold decodeOp38
  split <;> rename_i n
  case h_1 => exact .if rfl fun z => word_eq_enc2 [(0, 4), (16, 5)] rfl o ⟨n, z, trivial⟩
  case h_2 | h_3 | h_4 => exact .if rfl fun z => word_eq_enc2 [(0, 4), (21, 5)] rfl o ⟨n, z, trivial⟩
  case h_5 => exact .if rfl fun z => word_eq_enc3 [(0, 4), (7, 9)] rfl o ⟨n, z, trivial⟩
  case h_6 => exact .if rfl fun z => word_eq_enc2 [(0, 4), (4, 12)] rfl o ⟨n, z, trivial⟩
  case h_7 => exact .if rfl fun z => word_eq_enc1 [(0, 4), (16, 10)] rfl o ⟨n, z, trivial⟩
  case h_11 | h_13 | h_14 =>
    exact .if rfl fun ⟨y, z⟩ => word_eq_enc1 [(0, 4), (4, 12), (21, 5)] rfl o ⟨n, y, z, trivial⟩
  case h_12 => exact .if rfl fun z => word_eq_enc1 [(0, 4), (4, 17)] rfl o ⟨n, z, trivial⟩
  case h_17 => exact .error _
  all_goals exact .if rfl fun z => word_eq_enc0 [(0, 4), (4, 22)] rfl o ⟨n, z, trivial⟩

theorem op3F_canonical (long : v < 2 ^ 32) (o : w / 2 ^ 26 = 0x3F) : Canonical w (some v) (decodeOp3F w v) := by
  have second : some (fieldOf v 0 32).toNat = some v := by
    rw [fieldOf, BitVec.toNat_ofNat, Nat.pow_zero, Nat.div_one, Nat.mod_eq_of_lt long]
  unfold decodeOp3F
  split <;> rename_i n
  case h_4 => exact .error _
  all_goals exact .if second fun ⟨y, z⟩ => word_eq_enc1 [(8, 8), (16, 5), (0, 8)] rfl o ⟨n, y, z, trivial⟩

/-- R55, R71: what the decoder reads from a word is an instruction with that word, and with the word after it where it is a
long form. -/
theorem decodeFields_canonical (long : v < 2 ^ 32) :
    Canonical w (if w / 2 ^ 26 = 0x3F then some v else none) (decodeFields w v) := by
  generalize second : (if w / 2 ^ 26 = 0x3F then some v else none) = x
  unfold decodeFields
  split <;> rename_i o
  case h_44 => exact .error _
  all_goals rw [o] at second; obtain rfl := second
  case h_27 => exact .ok rfl (word_eq_enc2 [] rfl o trivial)
  case h_2 | h_3 | h_4 | h_5 | h_6 | h_7 | h_21 | h_22 | h_23 | h_24 | h_25 | h_26 | h_28 =>
    exact .ok rfl (word_eq_enc3 [] rfl o trivial)
  case h_13 | h_17 | h_18 => exact .ok rfl (word_eq_enc5 [] rfl o trivial)
  case h_1 => exact op01_canonical o
  case h_8 => exact op08_canonical o
  case h_9 => exact op09_canonical o
  case h_10 => exact op0A_canonical o
  case h_11 => exact op0B_canonical o
  case h_12 => exact op0C_canonical o
  case h_14 => exact op11_canonical o
  case h_15 => exact op12_canonical o
  case h_16 => exact op13_canonical o
  case h_19 => exact op16_canonical o
  case h_20 => exact op17_canonical o
  case h_29 => exact op20_canonical o
  case h_30 => exact op21_canonical o
  case h_31 => exact op22_canonical o
  case h_32 => exact op23_canonical o
  case h_33 => exact op24_canonical o
  case h_34 => exact op25_canonical o
  case h_35 => exact op28_canonical o
  case h_36 => exact op29_canonical o
  case h_37 => exact op2A_canonical o
  case h_38 => exact op2B_canonical o
  case h_39 => exact op30_canonical o
  case h_40 => exact op31_canonical o
  case h_41 => exact op32_canonical o
  case h_42 => exact op38_canonical o
  case h_43 => exact op3F_canonical long o

/-- What decodes was read from the word's fields and passes its static check. -/
theorem decodeWord_eq_ok : decodeWord w v = .ok i ↔ decodeFields w v = .ok i ∧ i.check = none := by
  constructor
  · intro h
    unfold decodeWord passChecks at h
    split at h
    case h_1 j d =>
      split at h
      case h_1 c => cases h; exact ⟨d, c⟩
      case h_2 => cases h
    case h_2 => cases h
  · rintro ⟨d, c⟩
    rw [decodeWord, d]
    show passChecks i = .ok i
    rw [passChecks, c]

end Canonical

/-- Settles O55: each row of the decoder fixes all bits outside its fields, so the instruction read has the word it was
read from. The word 0 is not assigned, so that word is not an event's. -/
theorem decodedWordsAreCanonical : Obligations.DecodedWordsAreCanonical := by
  unfold Obligations.DecodedWordsAreCanonical
  intro w v i _ long h
  obtain ⟨d, check⟩ := decodeWord_eq_ok.mp h
  obtain ⟨word, second⟩ := decodeFields_canonical long i d
  have assigned : w ≠ 0 := by
    rintro rfl
    exact nomatch d
  refine ⟨word, check, ?_, ?_, ?_⟩
  · simpa [isEvent, word] using assigned
  · intro x h
    rw [h] at second
    split at second
    · exact Option.some.inj second
    · cases second
  · rw [second]
    split
    case isTrue o => exact ⟨fun _ => o, fun _ => rfl⟩
    case isFalse o => exact ⟨nofun, fun p => absurd p o⟩

end Sys2Proof.Machine
end

section
/-! SUPPORT. Every well-formed instruction decodes from its own words (R52 to R68). -/

namespace Sys2Proof.Machine

/-- The fixed bits `m` beside the fields listed have the major opcode `n`. -/
def hasMajor (m : Nat) (fs : List (Nat × Nat)) (n : Nat) : Bool := outside (2 ^ 26) 0 fs && m / 2 ^ 26 == n

section Opcodes

/-! Which decoder reads a word with these fixed bits. -/

variable {w m v n : Nat} {fs : List (Nat × Nat)} (h : FixedBits w m fs)
include h

theorem FixedBits.mid (p q : Nat) (o : outside p q fs = true) : w / p % q = m / p % q := h p q o

theorem FixedBits.major (o : hasMajor m fs n = true) : w / 2 ^ 26 = n := by
  simp only [hasMajor, Bool.and_eq_true, beq_iff_eq] at o
  exact (h.top o.1).trans o.2

theorem FixedBits.op01 (o : hasMajor m fs 0x01) : decodeFields w v = decodeOp01 w := by rw [decodeFields, h.major o]; rfl
theorem FixedBits.op02 (o : hasMajor m fs 0x02) : decodeFields w v = decodeOp02 w := by rw [decodeFields, h.major o]; rfl
theorem FixedBits.op03 (o : hasMajor m fs 0x03) : decodeFields w v = decodeOp03 w := by rw [decodeFields, h.major o]; rfl
theorem FixedBits.op04 (o : hasMajor m fs 0x04) : decodeFields w v = decodeOp04 w := by rw [decodeFields, h.major o]; rfl
theorem FixedBits.op05 (o : hasMajor m fs 0x05) : decodeFields w v = decodeOp05 w := by rw [decodeFields, h.major o]; rfl
theorem FixedBits.op06 (o : hasMajor m fs 0x06) : decodeFields w v = decodeOp06 w := by rw [decodeFields, h.major o]; rfl
theorem FixedBits.op07 (o : hasMajor m fs 0x07) : decodeFields w v = decodeOp07 w := by rw [decodeFields, h.major o]; rfl
theorem FixedBits.op08 (o : hasMajor m fs 0x08) : decodeFields w v = decodeOp08 w := by rw [decodeFields, h.major o]; rfl
theorem FixedBits.op09 (o : hasMajor m fs 0x09) : decodeFields w v = decodeOp09 w := by rw [decodeFields, h.major o]; rfl
theorem FixedBits.op0A (o : hasMajor m fs 0x0A) : decodeFields w v = decodeOp0A w := by rw [decodeFields, h.major o]; rfl
theorem FixedBits.op0B (o : hasMajor m fs 0x0B) : decodeFields w v = decodeOp0B w := by rw [decodeFields, h.major o]; rfl
theorem FixedBits.op0C (o : hasMajor m fs 0x0C) : decodeFields w v = decodeOp0C w := by rw [decodeFields, h.major o]; rfl
theorem FixedBits.op10 (o : hasMajor m fs 0x10) : decodeFields w v = decodeOp10 w := by rw [decodeFields, h.major o]; rfl
theorem FixedBits.op11 (o : hasMajor m fs 0x11) : decodeFields w v = decodeOp11 w := by rw [decodeFields, h.major o]; rfl
theorem FixedBits.op12 (o : hasMajor m fs 0x12) : decodeFields w v = decodeOp12 w := by rw [decodeFields, h.major o]; rfl
theorem FixedBits.op13 (o : hasMajor m fs 0x13) : decodeFields w v = decodeOp13 w := by rw [decodeFields, h.major o]; rfl
theorem FixedBits.op14 (o : hasMajor m fs 0x14) : decodeFields w v = decodeOp14 w := by rw [decodeFields, h.major o]; rfl
theorem FixedBits.op15 (o : hasMajor m fs 0x15) : decodeFields w v = decodeOp15 w := by rw [decodeFields, h.major o]; rfl
theorem FixedBits.op16 (o : hasMajor m fs 0x16) : decodeFields w v = decodeOp16 w := by rw [decodeFields, h.major o]; rfl
theorem FixedBits.op17 (o : hasMajor m fs 0x17) : decodeFields w v = decodeOp17 w := by rw [decodeFields, h.major o]; rfl
theorem FixedBits.op18 (o : hasMajor m fs 0x18) : decodeFields w v = decodeOp18 w := by rw [decodeFields, h.major o]; rfl
theorem FixedBits.op19 (o : hasMajor m fs 0x19) : decodeFields w v = decodeOp19 w := by rw [decodeFields, h.major o]; rfl
theorem FixedBits.op1A (o : hasMajor m fs 0x1A) : decodeFields w v = decodeOp1A w := by rw [decodeFields, h.major o]; rfl
theorem FixedBits.op1B (o : hasMajor m fs 0x1B) : decodeFields w v = decodeOp1B w := by rw [decodeFields, h.major o]; rfl
theorem FixedBits.op1C (o : hasMajor m fs 0x1C) : decodeFields w v = decodeOp1C w := by rw [decodeFields, h.major o]; rfl
theorem FixedBits.op1D (o : hasMajor m fs 0x1D) : decodeFields w v = decodeOp1D w := by rw [decodeFields, h.major o]; rfl
theorem FixedBits.op1E (o : hasMajor m fs 0x1E) : decodeFields w v = decodeOp1E w := by rw [decodeFields, h.major o]; rfl
theorem FixedBits.op1F (o : hasMajor m fs 0x1F) : decodeFields w v = decodeOp1F w := by rw [decodeFields, h.major o]; rfl
theorem FixedBits.op20 (o : hasMajor m fs 0x20) : decodeFields w v = decodeOp20 w := by rw [decodeFields, h.major o]; rfl
theorem FixedBits.op21 (o : hasMajor m fs 0x21) : decodeFields w v = decodeOp21 w := by rw [decodeFields, h.major o]; rfl
theorem FixedBits.op22 (o : hasMajor m fs 0x22) : decodeFields w v = decodeOp22 w := by rw [decodeFields, h.major o]; rfl
theorem FixedBits.op23 (o : hasMajor m fs 0x23) : decodeFields w v = decodeOp23 w := by rw [decodeFields, h.major o]; rfl
theorem FixedBits.op24 (o : hasMajor m fs 0x24) : decodeFields w v = decodeOp24 w := by rw [decodeFields, h.major o]; rfl
theorem FixedBits.op25 (o : hasMajor m fs 0x25) : decodeFields w v = decodeOp25 w := by rw [decodeFields, h.major o]; rfl
theorem FixedBits.op28 (o : hasMajor m fs 0x28) : decodeFields w v = decodeOp28 w := by rw [decodeFields, h.major o]; rfl
theorem FixedBits.op29 (o : hasMajor m fs 0x29) : decodeFields w v = decodeOp29 w := by rw [decodeFields, h.major o]; rfl
theorem FixedBits.op2A (o : hasMajor m fs 0x2A) : decodeFields w v = decodeOp2A w := by rw [decodeFields, h.major o]; rfl
theorem FixedBits.op2B (o : hasMajor m fs 0x2B) : decodeFields w v = decodeOp2B w := by rw [decodeFields, h.major o]; rfl
theorem FixedBits.op30 (o : hasMajor m fs 0x30) : decodeFields w v = decodeOp30 w := by rw [decodeFields, h.major o]; rfl
theorem FixedBits.op31 (o : hasMajor m fs 0x31) : decodeFields w v = decodeOp31 w := by rw [decodeFields, h.major o]; rfl
theorem FixedBits.op32 (o : hasMajor m fs 0x32) : decodeFields w v = decodeOp32 w := by rw [decodeFields, h.major o]; rfl
theorem FixedBits.op38 (o : hasMajor m fs 0x38) : decodeFields w v = decodeOp38 w := by rw [decodeFields, h.major o]; rfl
theorem FixedBits.op3F (o : hasMajor m fs 0x3F) : decodeFields w v = decodeOp3F w v := by rw [decodeFields, h.major o]; rfl

end Opcodes

section Rows

/-! The rows that more than one value of the field of operations chooses, or that earlier tests overlap. -/

variable {w m : Nat}

theorem decodeOp13_of_redOrd (h : w / 2 ^ 6 % 32 = 3) :
    decodeOp13 w =
      let read (f : BitVec 5 → BitVec 5 → BitVec 5 → BitVec 4 → Instr) : Except Reject Instr :=
        .ok (f (fieldOf w 21 5) (fieldOf w 16 5) (fieldOf w 11 5) (fieldOf w 2 4))
      if w % 4 = 0 then read .redOrdAddF32
      else if w % 4 = 1 then read .redOrdAddI32
      else if w % 4 = 2 then read .redOrdMinF32
      else if w % 4 = 3 then read .redOrdMaxF32
      else .error .reservedFn := by
  rw [decodeOp13]
  iterate 24 rw [if_neg (by omega)]
  simp only [h, and_true]

theorem decodeOp16_of_vstAt (h : w / 2 ^ 4 % 2 = 1) :
    decodeOp16 w = .ok (.vstAt (fieldOf w 21 5) (fieldOf w 16 5) (fieldOf w 11 5) (fieldOf w 8 3) (fieldOf w 5 3)
      (fieldOf w 0 4)) := by
  obtain ⟨low, high⟩ : 16 ≤ w % 32 ∧ w % 32 < 32 := by omega
  rw [decodeOp16]
  generalize w % 32 = kind at low high
  interval_cases kind <;> rfl

theorem decodeOp17_of_vredOrdAdd (h : 16 < w % 32) :
    decodeOp17 w = .ok (.vredOrdAdd (fieldOf w 21 5) (fieldOf w 16 5) (fieldOf w 11 5) (fieldOf w 8 3) (fieldOf w 5 3)
      (fieldOf w 0 5)) := by
  rw [decodeOp17]
  split
  case h_18 => rfl
  all_goals omega

theorem fieldOf_toNat (x : BitVec 32) : fieldOf x.toNat 0 32 = x := by simp [fieldOf]

theorem reads_long {f : BitVec 5 → BitVec 32 → Instr} {x : BitVec 5} {i : BitVec 32} (o : free m [(21, 5)] = true)
    (h : ∀ w, FixedBits w m [(21, 5)] → ∀ v, decodeFields w v = .ok (f (fieldOf w 21 5) (fieldOf v 0 32))) :
    decodeFields (enc1 m x 21) i.toNat = .ok (f x i) := by
  have reads := reads_enc1 (f := fun x => f x (fieldOf i.toNat 0 32)) (x1 := x) o fun w fixed => h w fixed i.toNat
  rwa [fieldOf_toNat] at reads

end Rows

/-- The decoder reads the instruction back from its own words. -/
def ReadsBack (i : Instr) : Prop := decodeFields (encodeWord i) ((secondWord i).getD 0) = .ok i

section OrderedReduction

variable {d a b : BitVec 5} {p e : BitVec 3} {f : BitVec 5}

theorem kind_of_check_vredOrdAdd (ok : (Instr.vredOrdAdd d a b p e f).check = none) : 16 < f.toNat := by
  change orElse (needs (16 < f.toNat && f.toNat < 28) _) _ = none at ok
  simp only [← Option.isNone_iff_eq_none, orElse_isNone, needs_isNone, Bool.and_eq_true, decide_eq_true_eq] at ok
  obtain ⟨⟨low, -⟩, -⟩ := ok
  exact low

/-- The kinds below 17 are other instructions. -/
theorem readsBack_vredOrdAdd (kind : 16 < f.toNat) : ReadsBack (.vredOrdAdd d a b p e f) := by
  have holds : Holds (encodeWord (.vredOrdAdd d a b p e f)) 0x5C000000
      [⟨0, f⟩, ⟨5, e⟩, ⟨8, p⟩, ⟨11, b⟩, ⟨16, a⟩, ⟨21, d⟩] := holds_enc6 rfl
  unfold ReadsBack
  generalize encodeWord (.vredOrdAdd d a b p e f) = w at holds
  obtain ⟨fixed, field⟩ := holds
  replace fixed : FixedBits w 0x5C000000 [(0, 5), (5, 3), (8, 3), (11, 5), (16, 5), (21, 5)] := fixed
  simp only [List.forall_mem_cons] at field
  obtain ⟨f6, f5, f4, f3, f2, f1, -⟩ := field
  have low : w % 32 = f.toNat := by simpa [fieldOf] using congrArg BitVec.toNat f6
  rw [fixed.op17 rfl, decodeOp17_of_vredOrdAdd (by omega), f1, f2, f3, f4, f5, f6]

end OrderedReduction

/-- The fixed bits of an instruction's word choose its row of the decoder, whatever its fields hold. -/
theorem readsBack (i : Instr) (h : isEvent i = false) (ok : i.check = none) : ReadsBack i := by
  cases i
  case add | sub | and | or | xor | andn | orn | xnor | sll | srl | sra | rol | ror | slt | sltn | seq | sne | min |
      max | minn | maxn | addw | subw | sllw | srlw | sraw =>
    exact reads_enc3 rfl fun w h => by rw [h.op01 rfl, decodeOp01, h.low rfl]; exact if_pos (h _ _ rfl)
  case clz | ctz | popc | bswap | sextB | sextH | sextW | zextW =>
    exact reads_enc2 rfl fun w h => by rw [h.op01 rfl, decodeOp01, h.low rfl]; exact if_pos (h _ _ rfl)
  case addi => exact reads_enc3 rfl fun w h => h.op02 rfl
  case andi => exact reads_enc3 rfl fun w h => h.op03 rfl
  case ori => exact reads_enc3 rfl fun w h => h.op04 rfl
  case xori => exact reads_enc3 rfl fun w h => h.op05 rfl
  case slti => exact reads_enc3 rfl fun w h => h.op06 rfl
  case sltni => exact reads_enc3 rfl fun w h => h.op07 rfl
  case lui => exact reads_enc2 rfl fun w h => by rw [h.op08 rfl, decodeOp08]; exact if_pos (h _ _ rfl)
  case mul | mulh | mulhn | mulhsn | div | divn | rem | remn | mulw | divw | divnw | remw | remnw =>
    exact reads_enc3 rfl fun w h => by rw [h.op0A rfl, decodeOp0A, h.low rfl]; exact if_pos (h _ _ rfl)
  case fadd | fsub | fmul | fdiv | fmin | fmax | fmac | fmsc | fsgmv =>
    exact reads_enc4 rfl fun w h => by rw [h.op0B rfl, decodeOp0B, h.low rfl]; exact if_pos (h _ _ rfl)
  case fsqrt | fabs | fneg =>
    exact reads_enc3 rfl fun w h => by rw [h.op0B rfl, decodeOp0B, h.low rfl]; exact if_pos (h _ _ rfl)
  case ld => exact reads_enc5 rfl fun w h => h.op10 rfl
  case st => exact reads_enc5 rfl fun w h => by rw [h.op11 rfl, decodeOp11]; exact if_pos (h _ _ rfl)
  case vld => exact reads_enc5 rfl fun w h => h.op14 rfl
  case vst => exact reads_enc5 rfl fun w h => h.op15 rfl
  case vlds | vsts | vldx | vstx | vldNb =>
    exact reads_enc5 rfl fun w h => by rw [h.op16 rfl, decodeOp16, h.low rfl]; rfl
  case vldm | vstm | vappend =>
    exact reads_enc4 rfl fun w h => by rw [h.op16 rfl, decodeOp16, h.low rfl]; exact if_pos (h _ _ rfl)
  case vamoswap | vamoadd | vamoand | vamoor | vamoxor | vamomin | vamomax | vamominn | vamomaxn | vredaddIdx |
      vredandIdx | vredorIdx | vredxorIdx | vredminIdx | vredmaxIdx | vredminnIdx | vredmaxnIdx =>
    exact reads_enc5 rfl fun w h => by rw [h.op17 rfl, decodeOp17, h.low rfl]; rfl
  case beq => exact reads_enc3 rfl fun w h => h.op18 rfl
  case bne => exact reads_enc3 rfl fun w h => h.op19 rfl
  case blt => exact reads_enc3 rfl fun w h => h.op1A rfl
  case bge => exact reads_enc3 rfl fun w h => h.op1B rfl
  case bltn => exact reads_enc3 rfl fun w h => h.op1C rfl
  case bgen => exact reads_enc3 rfl fun w h => h.op1D rfl
  case jal => exact reads_enc2 rfl fun w h => h.op1E rfl
  case jalr => exact reads_enc3 rfl fun w h => h.op1F rfl
  case vadd | vsub | vmul | vmulh | vmulhn | vand | vor | vxor | vsll | vsrl | vsra | vmin | vmax | vminn | vmaxn |
      vadds | vaddsn | vsubs | vsubsn | vceq | vcne | vclt | vcle | vcltn | vclen | vmerge =>
    exact reads_enc5 rfl fun w h => by rw [h.op20 rfl, decodeOp20, h.low rfl]; rfl
  case vabs | vneg | vclz | vpopc =>
    exact reads_enc4 rfl fun w h => by rw [h.op20 rfl, decodeOp20, h.low rfl]; exact if_pos (h _ _ rfl)
  case vfadd | vfsub | vfmul | vfdiv | vfmin | vfmax | vfmac | vfmsc | vfnmac | vfsgmv | vfceq | vfclt | vfcle | vfcun
      =>
    exact reads_enc5 rfl fun w h => by rw [h.op21 rfl, decodeOp21, h.low rfl]; rfl
  case vfsqrt | vfabs | vfneg | vfrecip | vfrsqrt | vfexp2 | vflog2 | vfkind =>
    exact reads_enc4 rfl fun w h => by rw [h.op21 rfl, decodeOp21, h.low rfl]; exact if_pos (h _ _ rfl)
  case vcvt | vcvtSr =>
    exact reads_enc5 rfl fun w h => by rw [h.op22 rfl, decodeOp22, h.mid (2 ^ 3) 4 rfl]; exact if_pos (h _ _ rfl)
  case vwmul => exact reads_enc6 rfl fun w h => by rw [h.op22 rfl, decodeOp22, h.mid (2 ^ 3) 4 rfl]; rfl
  case vperm | velsh | velrot | vsegsum | vindex =>
    exact reads_enc5 rfl fun w h => by rw [h.op23 rfl, decodeOp23, h.low rfl]; rfl
  case vredsum | vredmin | vredmax | vredminn | vredmaxn | vredand | vredor | vscan | vmvx | vmvv | vbcast | vsqueeze
      =>
    exact reads_enc4 rfl fun w h => by rw [h.op23 rfl, decodeOp23, h.low rfl]; exact if_pos (h _ _ rfl)
  case vrand => exact reads_enc3 rfl fun w h => by rw [h.op23 rfl, decodeOp23, h.low rfl]; exact if_pos (h _ _ rfl)
  case mand | mor | mxor | mandn =>
    exact reads_enc3 rfl fun w h => by rw [h.op24 rfl, decodeOp24, h.low rfl]; exact if_pos (h _ _ rfl)
  case mnot | mcnt | many | mfirst =>
    exact reads_enc2 rfl fun w h => by rw [h.op24 rfl, decodeOp24, h.low rfl]; exact if_pos (h _ _ rfl)
  case mset | mclr =>
    exact reads_enc1 rfl fun w h => by rw [h.op24 rfl, decodeOp24, h.low rfl]; exact if_pos (h _ _ rfl)
  case vaddVx | vsubVx | vrsubVx | vmulVx | vandVx | vorVx | vxorVx | vsllVx | vsrlVx | vsraVx | vminVx | vmaxVx |
      vceqVx =>
    exact reads_enc6 rfl fun w h => by rw [h.op25 rfl, decodeOp25, h.low rfl]; rfl
  case vfaddVx | vfmulVx | vfmacVx =>
    exact reads_enc5 rfl fun w h => by rw [h.op25 rfl, decodeOp25, h.low rfl]; exact if_pos (h _ _ rfl)
  case mop | mops => exact reads_enc6 rfl fun w h => by rw [h.op28 rfl, decodeOp28, h.mid (2 ^ 21) 4 rfl]; rfl
  case mopx | mopxs => exact reads_enc6 rfl fun w h => by rw [h.op29 rfl, decodeOp29, h.mid (2 ^ 21) 4 rfl]; rfl
  case mopsp | mopi | mopiSat =>
    exact reads_enc6 rfl fun w h => by rw [h.op2A rfl, decodeOp2A, h.mid (2 ^ 21) 4 rfl]; rfl
  case acczero => exact reads_enc1 rfl fun w h => by rw [h.op2B rfl, decodeOp2B, h.low rfl]; exact if_pos (h _ _ rfl)
  case accrd | accwr | accadd =>
    exact reads_enc3 rfl fun w h => by rw [h.op2B rfl, decodeOp2B, h.low rfl]; exact if_pos ⟨h _ _ rfl, h _ _ rfl⟩
  case accpro => exact reads_enc5 rfl fun w h => by rw [h.op2B rfl, decodeOp2B, h.low rfl]; exact if_pos (h _ _ rfl)
  case accld | accst | accmov =>
    exact reads_enc2 rfl fun w h => by rw [h.op2B rfl, decodeOp2B, h.low rfl]; exact if_pos ⟨h _ _ rfl, h _ _ rfl⟩
  case accsave | accrest =>
    exact reads_enc1 rfl fun w h => by rw [h.op2B rfl, decodeOp2B, h.low rfl]; exact if_pos ⟨h _ _ rfl, h _ _ rfl⟩
  case cpy | cpy2 | cpyM | cpy2M =>
    exact reads_enc6 rfl fun w h => by rw [h.op30 rfl, decodeOp30, h.mid (2 ^ 4) 8 rfl]; rfl
  case cpyxG | cpyxS | cpyxGM =>
    exact reads_enc5 rfl fun w h => by rw [h.op30 rfl, decodeOp30, h.mid (2 ^ 4) 8 rfl]; exact if_pos (h.low rfl)
  case ccwait | ccset =>
    exact reads_enc3 rfl fun w h => by
      rw [h.op31 rfl, decodeOp31, h.mid (2 ^ 4) 8 rfl]
      exact if_pos ⟨h.low rfl, h _ _ rfl, h _ _ rfl⟩
  case ccrd =>
    exact reads_enc3 rfl fun w h => by
      rw [h.op31 rfl, decodeOp31, h.mid (2 ^ 4) 8 rfl]
      exact if_pos ⟨h.low rfl, h _ _ rfl⟩
  case sgbind =>
    exact reads_enc4 rfl fun w h => by rw [h.op31 rfl, decodeOp31, h.mid (2 ^ 4) 8 rfl]; exact if_pos (h _ _ rfl)
  case sgunbind =>
    exact reads_enc2 rfl fun w h => by
      rw [h.op31 rfl, decodeOp31, h.mid (2 ^ 4) 8 rfl]
      exact if_pos ⟨h.low rfl, h _ _ rfl⟩
  case subscribe =>
    exact reads_enc5 rfl fun w h => by rw [h.op31 rfl, decodeOp31, h.mid (2 ^ 4) 8 rfl]; exact if_pos (h.low rfl)
  case subflush =>
    exact reads_enc1 rfl fun w h => by
      rw [h.op31 rfl, decodeOp31, h.mid (2 ^ 4) 8 rfl]
      exact if_pos ⟨h.low rfl, h _ _ rfl⟩
  case barrArrive | barrWait | barrArriveSpan | barrWaitSpan | join =>
    exact reads_enc1 rfl fun w h => by rw [h.op32 rfl, decodeOp32, h.low rfl]; exact if_pos ⟨h _ _ rfl, h _ _ rfl⟩
  case pause => exact reads_enc1 rfl fun w h => by rw [h.op32 rfl, decodeOp32, h.low rfl]; exact if_pos (h _ _ rfl)
  case recv => exact reads_enc2 rfl fun w h => by rw [h.op32 rfl, decodeOp32, h.low rfl]; exact if_pos (h _ _ rfl)
  case launch =>
    exact reads_enc2 rfl fun w h => by rw [h.op32 rfl, decodeOp32, h.low rfl]; exact if_pos ⟨h _ _ rfl, h _ _ rfl⟩
  case launchR => exact reads_enc3 rfl fun w h => by rw [h.op32 rfl, decodeOp32, h.low rfl]; exact if_pos (h _ _ rfl)
  case rdctl | wrctl | setctl | clrctl | setml =>
    exact reads_enc2 rfl fun w h => by rw [h.op38 rfl, decodeOp38, h.low rfl]; exact if_pos (h _ _ rfl)
  case setvl => exact reads_enc3 rfl fun w h => by rw [h.op38 rfl, decodeOp38, h.low rfl]; exact if_pos (h _ _ rfl)
  case trap | sfqpop =>
    exact reads_enc1 rfl fun w h => by rw [h.op38 rfl, decodeOp38, h.low rfl]; exact if_pos (h _ _ rfl)
  case gkill | tlbinv | hinv =>
    exact reads_enc1 rfl fun w h => by rw [h.op38 rfl, decodeOp38, h.low rfl]; exact if_pos ⟨h _ _ rfl, h _ _ rfl⟩
  -- Chains of tests: those before the row's own one fail on its fixed bits.
  case fenceAcq | fenceRel | fenceAr | fenceSc =>
    exact reads_enc1 rfl fun w h => by
      simp (disch := decide) only [h.op12, decodeOp12, ↓reduceIte, h.mid, h.low, Nat.reducePow, Nat.reduceDiv,
        Nat.reduceMod, Nat.reduceEqDiff, false_and, and_self]
  case fcvtF64F32 | fcvtF32F64 | fcvtF32I64 | fcvtF32N64 | fcvtF64I64 | fcvtF64N64 | fcvtI64F32 | fcvtN64F32 |
      fcvtI64F64 | fcvtN64F64 | fcvtF32Bf16 | fcvtBf16F32 | fcvtF32F16 | fcvtF16F32 | unsub | unsubPub =>
    exact reads_enc2 rfl fun w h => by
      simp (disch := decide) only [h.op0C, decodeOp0C, h.op31, decodeOp31, ↓reduceIte, h.mid, h.low, Nat.reducePow,
        Nat.reduceDiv, Nat.reduceMod, Nat.reduceEqDiff, and_false, false_and, and_self]
  case slli | srli | srai | rori | slliw | srliw | sraiw | fkind | redadd | redand | redor | redxor | redmin | redmax
      | redminn | redmaxn | redfadd | redfmin | redfmax =>
    exact reads_enc3 rfl fun w h => by
      simp (disch := decide) only [h.op09, decodeOp09, h.op0C, decodeOp0C, h.op13, decodeOp13, ↓reduceIte, h.mid,
        h.low, Nat.reducePow, Nat.reduceDiv, Nat.reduceMod, Nat.reduceEqDiff, false_and, and_self]
  case feq | flt | fle | ldx | stx | ldAcq | stRel | amoswap | amoadd | amoand | amoor | amoxor | amomin | amomax |
      amominn | amomaxn | amocas | amofadd | amofmin | amofmax =>
    exact reads_enc4 rfl fun w h => by
      simp (disch := decide) only [h.op0C, decodeOp0C, h.op12, decodeOp12, h.op13, decodeOp13, ↓reduceIte, h.mid,
        h.low, Nat.reducePow, Nat.reduceDiv, Nat.reduceMod, Nat.reduceEqDiff, false_and, and_self]
  case vcvtmWiden | vcvtmNarrow =>
    exact reads_enc5 rfl fun w h => by
      simp (disch := decide) only [h.op22, decodeOp22, ↓reduceIte, h.mid, Nat.reducePow, Nat.reduceDiv, Nat.reduceMod,
        Nat.reduceEqDiff, false_and, and_self]
  -- Rows whose fields lie under an earlier test: the row's own fixed bits exclude it.
  case rfence =>
    exact reads_enc1 rfl fun w h => by
      have not_sdrain : w % 67108864 ≠ 56 := by
        have := h.low (q := 2048) rfl
        omega
      simp (disch := decide) only [h.op12, decodeOp12, not_sdrain, ↓reduceIte, h.mid, h.low, Nat.reducePow,
        Nat.reduceDiv, Nat.reduceMod, Nat.reduceEqDiff, false_and, and_self]
  case stAt =>
    exact reads_enc5 rfl fun w h => by
      have row : w / 2 ^ 6 % 32 = 1 := h _ _ rfl
      rw [h.op12 rfl, decodeOp12]
      iterate 10 rw [if_neg (by omega)]
      exact if_pos row
  case ldNb =>
    exact reads_enc4 rfl fun w h => by
      have row : w / 2 ^ 2 % 512 = 32 := h _ _ rfl
      rw [h.op12 rfl, decodeOp12]
      iterate 11 rw [if_neg (by omega)]
      exact if_pos row
  case redOrdAddF32 | redOrdAddI32 | redOrdMinF32 | redOrdMaxF32 =>
    exact reads_enc4 rfl fun w h => by rw [h.op13 rfl, decodeOp13_of_redOrd (h _ _ rfl), h.low rfl]; rfl
  case vstAt => exact reads_enc6 rfl fun w h => by rw [h.op16 rfl, decodeOp16_of_vstAt (h _ _ rfl)]
  case vredOrdAdd => exact readsBack_vredOrdAdd (kind_of_check_vredOrdAdd ok)
  -- Words without a field.
  case barrArriveGang | barrWaitGang | gexit | yield | eret | fenceI | preempt | ebreak | halt | sdrain => rfl
  -- Long forms.
  case lim | lea | callFar =>
    exact reads_long rfl fun w h v => by
      rw [h.op3F rfl, decodeOp3F, h.mid 256 256 rfl]
      exact if_pos ⟨h _ _ rfl, h.low rfl⟩
  all_goals cases h

end Sys2Proof.Machine
end

section
/-! SUPPORT. The words and the bytes of an instruction (R52, R53), and what decodes from them. -/

namespace Sys2Proof.Machine

section Decoding

variable {w v : Nat} {i : Instr}

/-- No major opcode has more than six bits. -/
theorem word_lt_of_decodes (h : decodeFields w v = .ok i) : w < 2 ^ 32 := by
  unfold decodeFields at h
  split at h
  case h_44 => cases h
  all_goals omega

theorem secondWord_lt {x : Nat} (h : secondWord i = some x) : x < 2 ^ 32 := by
  unfold secondWord at h
  split at h
  case h_4 => cases h
  all_goals
    cases h
    exact BitVec.isLt _

theorem secondWord_getD_lt (i : Instr) : (secondWord i).getD 0 < 2 ^ 32 := by
  cases h : secondWord i with
  | none => decide
  | some x => exact secondWord_lt h

/-- The four bytes of a word make up the word. -/
theorem wordOfBytes_bytesOfWord (h : w < 2 ^ 32) :
    wordOfBytes (.ofNat 8 w) (.ofNat 8 (w / 2 ^ 8)) (.ofNat 8 (w / 2 ^ 16)) (.ofNat 8 (w / 2 ^ 24)) = w := by
  simp only [wordOfBytes, BitVec.toNat_ofNat]
  omega

theorem decode_short (lt : w < 2 ^ 32) (short : w / 2 ^ 26 ≠ 0x3F) : decode (bytesOfWord w) = decodeWord w 0 := by
  unfold decode bytesOfWord
  simp only [wordOfBytes_bytesOfWord lt, isLong, beq_false_of_ne short, Bool.false_eq_true, if_false]

theorem decode_long (lt : w < 2 ^ 32) (lt' : v < 2 ^ 32) (long : w / 2 ^ 26 = 0x3F) :
    decode (bytesOfWord w ++ bytesOfWord v) = decodeWord w v := by
  unfold decode bytesOfWord
  simp only [List.cons_append, List.nil_append, wordOfBytes_bytesOfWord lt, wordOfBytes_bytesOfWord lt', isLong, long, BEq.rfl,
    if_true]

end Decoding

/-- Settles O54: the decoder reads the instruction back from its own words, and the bytes make up the words; that the
second word belongs to the major opcode 0x3F is what the decoder's own reading says of the word. -/
theorem encodedInstructionsDecode : Obligations.EncodedInstructionsDecode := by
  unfold Obligations.EncodedInstructionsDecode
  intro i real check
  have reads := readsBack i real check
  have decodes : decodeWord (encodeWord i) ((secondWord i).getD 0) = .ok i := decodeWord_eq_ok.mpr ⟨reads, check⟩
  have lt := word_lt_of_decodes reads
  obtain ⟨-, second⟩ := decodeFields_canonical (secondWord_getD_lt i) i reads
  refine ⟨lt, decodes, ?_⟩
  rw [encode, real]
  by_cases long : encodeWord i / 2 ^ 26 = 0x3F
  · rw [if_pos long] at second ⊢
    rw [second]
    refine ⟨?_, rfl⟩
    rw [← decodes]
    exact decode_long lt (secondWord_getD_lt i) long
  · rw [if_neg long] at second ⊢
    rw [second] at decodes ⊢
    exact ⟨(decode_short lt long).trans decodes, rfl⟩

/-- Settles O53: the words are evaluated. -/
theorem wordsDecodeAsWritten : Obligations.WordsDecodeAsWritten :=
  ⟨rfl, rfl, rfl, rfl, rfl, rfl, rfl, rfl, rfl, rfl, rfl, rfl, rfl, rfl, rfl⟩

end Sys2Proof.Machine
end

section
/-! SUPPORT. What an instruction or event answers (R71, R375): a next state, or the fault of a save area that cannot be
reached (log entry 20). -/

namespace Sys2Proof.Machine

/-- A next state or the model's one fault. -/
def Answered (o : Out) : Prop := Safe o ∨ o = .fault .csaUnreachable

section Answers

variable (s : State)

theorem Answered.next (t : State) : Answered (.next t) := .inl ⟨t, rfl⟩

theorem Answered.ite {c : Prop} [Decidable c] {o p : Out} (h : Answered o) (k : Answered p) :
    Answered (if c then o else p) := by
  split
  · exact h
  · exact k

/-- A computation at another core, after which this core is looked at again. -/
theorem focused_answered (core : Nat) (m : M Unit) :
    Answered (match finishAt m (s.focus core) with | .next t => .next (t.focus s.core.id) | o => o) := by
  have answered := finishAt_safe m (s.focus core)
  obtain ⟨t, h⟩ | h := answered <;> rw [h]
  · exact .next _
  · exact .inr rfl

theorem atCore_answered (core : Nat) (m : M Unit) : Answered (s.atCore core m) :=
  .ite (.next s) (focused_answered s core m)

theorem jumpRegister_answered (d a : BitVec 5) (i : BitVec 16) : Answered (jumpRegister d a i s) :=
  .ite (.next _) (takeTrap_cases _ s)

theorem breakpoint_answered : Answered (breakpoint s) := .ite (.next _) (takeTrap_cases _ s)

end Answers

/-- Settles O60, by the form of each meaning: a next state written out, a trap, or a computation whose ends are
answered. -/
theorem nothingIsRefused : Obligations.NothingIsRefused := by
  unfold Obligations.NothingIsRefused
  intro i s
  change Answered (exec i s)
  cases i
  case add | sub | and | or | xor | andn | orn | xnor | sll | srl | sra | rol | ror | slt | sltn | seq | sne | min |
      max | minn | maxn | clz | ctz | popc | bswap | sextB | sextH | sextW | zextW | addw | subw | sllw | srlw | sraw
      | addi | andi | ori | xori | slti | sltni | lui | slli | srli | srai | rori | slliw | srliw | sraiw | mul | mulh
      | mulhn | mulhsn | div | divn | rem | remn | mulw | divw | divnw | remw | remnw | fmin | fmax | fabs | fneg |
      fsgmv | fkind | lim | lea | callFar | beq | bne | blt | bge | bltn | bgen | jal | pause | yield | setvl | setml
      | evBadwrite | evRelockEnd | evPowerControlTick | evTctlThrottleTick | evDieOver105c | evThermalTrip |
      evHbmOver85c | evHbmOver95c | evTelemetryUpdate | evPcapWrite | evTctlWrite | evStepmaxWrite | evRegisterWrite |
      evPrtEntryWrite | evQpop | evScfgWrite | evMigrationEntryWrite | evMigrationPull | evKeyctlWrite |
      evKeydataWrite | evTrapBlockWrite | evEvacBlockMove | evRlenWrite | evPtpSync | evSyncTimeout | evLaneRepair |
      evPortFailure | evRetentionEnter | evDramScrub | evMscScrub | evRemapReload | evRowSparing | evColdReset |
      evSpdmRequest | evBlackBoxRead | evImageCheck | evEndOf105cAction | evStandbyPowerLoss | evRetentionEntered |
      evHaltOnBreak =>
    exact .next _
  case amoswap | amoadd | amoand | amoor | amoxor | amomin | amomax | amominn | amomaxn | amocas | amofadd | amofmin |
      amofmax | vamoswap | vamoadd | vamoand | vamoor | vamoxor | vamomin | vamomax | vamominn | vamomaxn | gexit |
      eret | preempt | halt | evRead | evWrite | evAtomic | evReduce | evResp | evTimedArrival | evTimedEntryGrant |
      evTimedInstant | evQueueEnqueue | evContRetry | evJoinApply | evRingDelivery | evContribution | evSpanRelease |
      evNoticeTimeout | evGangResume | evPendingReserve | evGraphFrame | evChunkComplete | evSubscriptionUpdate |
      evQcfgWrite | evQrelWrite | evPreqWrite | evOffreqWrite | evHostBar4Read | evHostBar4Write | evDebugHaltEnd |
      evRetentionLeave | evClusterFailure | evTenantConfigRequest | evRemapRebuildEnd | evResumeEntryMove =>
    exact finishAt_safe _ _
  case evStoreBufferDrain | evStoreFaultReport | evCopyErrorReport | evDeadlineReport | evUncorrectableReport |
      evSpanWaitExit | evPreemptNotice | evParkComplete | evCopyAccept =>
    exact atCore_answered s _ _
  case evWarmReset => exact finishAt_safe warmReset s
  case evPauseExpiry => exact atCore_answered s _ pauseExpiry
  case jalr => exact jumpRegister_answered s _ _ _
  case trap => exact takeTrap_cases _ s
  case ebreak => exact breakpoint_answered s
  case evPreemptStop | evBatchTimeout => exact .ite (.next s) (focused_answered s _ _)
  case evIllegalInsn | evFetchFault => exact .ite (takeTrap_cases _ s) (.next s)
  all_goals exact finish_safe _ s

end Sys2Proof.Machine
end

section
/-! SUPPORT. A package that is lost (R405) lets an event pass by: a step is then not the event's own meaning. -/

namespace Sys2Proof.Machine

/-- After reset, with the die 0 of the package lost and an event on the agenda that halts that die at a breakpoint. -/
noncomputable def State.lostWithEvent : State :=
  { State.reset with pkg := { State.reset.pkg with lost := true }, agenda := [.event (.evHaltOnBreak 0 true)] }

/-- Does the die 0 halt at a breakpoint in the state answered? -/
def Out.haltsOnBreak : Out → Bool
  | .next t => (t.pkg.die 0).haltOnBreak
  | _ => false

theorem step_lostWithEvent : step State.lostWithEvent = .next { State.lostWithEvent with agenda := [] } := rfl

/-- Refutes O56: a lost package lets every event but a reset pass by (R405), so the step on `State.lostWithEvent` leaves
the register of the die that the event's own meaning sets. -/
theorem not_stepRunsDecodedInstruction : ¬ Obligations.StepRunsDecodedInstruction := by
  unfold Obligations.StepRunsDecodedInstruction
  rintro ⟨-, -, event⟩
  have runs := event State.lostWithEvent (.evHaltOnBreak 0 true) [] rfl rfl
  rw [step_lostWithEvent] at runs
  have halts : false = true := congrArg Out.haltsOnBreak runs
  cases halts

end Sys2Proof.Machine
end

section
/-! SUPPORT. Vector instructions whose results raise no enabled flag complete: element-wise ones (R122, R124), conversions
(R102, R133 to R136) and draws (R103, R134, R143). -/

namespace Sys2Proof.Machine

/-! ### Results put in place (R122, R124) -/

/-- Distinct elements put in place change those elements of the vector registers, and nothing else. -/
theorem putElems_sets (s : State) {d w : Nat} {es : List Nat} (f : Nat → Nat) (pos : 0 < w) (small : w ≤ 1024)
    (distinct : es.Nodup) (fits : ∀ e ∈ es, 1024 * d + w * e + w ≤ 32768) :
    ∃ vs, ElementsSet s.h.v vs d w es f ∧
      s.putElems d w (es.map fun e => (e, f e)) = { s with h := { s.h with v := vs } } :=
  ⟨_, elementsSet_putElems pos small f s es distinct fits, putElems_eq s d w _⟩

/-- Results of which none raises an enabled flag are not cut. -/
theorem cutAt_quiet {fte : Flags} {rs : List ElemResult} (quiet : ∀ r ∈ rs, r.flags &&& fte = 0) : cutAt fte rs = (rs, none) := by
  induction rs with
  | nil => rfl
  | cons r rs ih => rw [cutAt, if_pos (quiet r (.head _)), ih fun q h => quiet q (.tail _ h)]

/-- R124: they are all put in place with their flags, and VSTART becomes 0. -/
theorem settleElems_completes {s : State} {put : State → List (Nat × Nat) → State} {rs : List ElemResult}
    (quiet : ∀ r ∈ rs, s.quiet r.flags) :
    Ends (settleElems put rs) s ()
      ((put s (rs.map fun r => (r.e, r.value))).setFlags (allFlags (rs.map (·.flags)))).clearVstart := by
  refine ends_get_bind ?_
  rw [cutAt_quiet quiet, allFlags, List.foldl_map]
  rfl

/-- The same of the results `f` of distinct elements of the group at `d`. -/
theorem settleElems_sets {s : State} {d w : Nat} {es : List Nat} {f : Nat → Nat × Flags} (pos : 0 < w) (small : w ≤ 1024)
    (distinct : es.Nodup) (fits : ∀ e ∈ es, 1024 * d + w * e + w ≤ 32768) (quiet : ∀ e ∈ es, s.quiet (f e).2) :
    ∃ vs, ElementsSet s.h.v vs d w es (fun e => (f e).1) ∧
      Ends (settleElems (fun s vs => s.putElems d w vs) (es.map (elemResult f))) s ()
        ((({ s with h := { s.h with v := vs } } : State).setFlags (allFlags (es.map fun e => (f e).2))).clearVstart) := by
  obtain ⟨vs, set, puts⟩ := putElems_sets s (fun e => (f e).1) pos small distinct fits
  have settled := settleElems_completes (s := s) (put := fun s vs => s.putElems d w vs) (rs := es.map (elemResult f))
    (List.forall_mem_map.mpr quiet)
  have values : (es.map (elemResult f)).map (fun r => (r.e, r.value)) = es.map fun e => (e, (f e).1) := List.map_map
  have flags : (es.map (elemResult f)).map (·.flags) = es.map fun e => (f e).2 := List.map_map
  rw [values, flags, puts] at settled
  exact ⟨vs, set, settled⟩

theorem active_distinct (s : State) (p : BitVec 3) : (s.active p).Nodup := (active_sorted s p).imp Nat.ne_of_lt

section
variable {s : State} {word d w : Nat} {ok : Nat → Bool} {body : M Unit} {es : List Nat} {f : Nat → Nat × Flags}
  (pos : 0 < w) (small : w ≤ 1024)
include pos small

/-- R124: an instruction at its turn that puts the results `f` of distinct elements in place. -/
theorem floatResult_settles (r : s.VecReady ok) (distinct : es.Nodup) (fits : ∀ e ∈ es, 1024 * d + w * e + w ≤ 32768)
    (begins : ∀ {u}, Ends (settleElems (fun s vs => s.putElems d w vs) (es.map (elemResult f))) s () u → Ends body s () u) :
    FloatResult s (finish (vecRun word ok body) s) d w es f := by
  intro quiet
  obtain ⟨vs, set, settled⟩ := settleElems_sets pos small distinct fits quiet
  exact ⟨vs, finish_ok (vecRun_ready r (begins settled)), set⟩

/-- R124: an element-wise instruction of which no active element raises an enabled flag. -/
theorem vecMapF_completes {d : BitVec 5} {src : List (BitVec 5 × Nat)} {p : BitVec 3} {f : State → Nat → Nat × Flags}
    (r : s.Groups d w src) :
    FloatResult s (finish (vecMapF word (fun vl => groupsOk vl (some (d, w)) src) p d.toNat w f) s) d.toNat w
      (s.active p) (f s) :=
  floatResult_settles pos small r (active_distinct s p) (fun _ h => groupsOk_fits r.1 (active_lt h)) fun h => ends_get_bind h

end

/-! ### Conversions and mixed-width products (R133, R135, R136) -/

/-- R136: a mixed-width product is an integer's for the codes of integers, and a float's for the others. -/
theorem vecWideMul_completes {s : State} {word : Nat} {d a b : BitVec 5} {p e t : BitVec 3}
    (r : s.Groups d (widthOf e) [(a, widthOf e), (b, widthOf t)]) :
    FloatResult s (finish (vecWideMul word d a b p e t) s) d.toNat (widthOf e) (s.active p) (fun i =>
      let x := s.elem a.toNat (widthOf e) i
      let y := s.elem b.toNat (widthOf t) i
      if e.toNat < 4 then (wrap (signExtend x (widthOf e) * signExtend y (widthOf t)) (widthOf e), 0)
      else (fmtOf e.toNat).prod s.rm s.sat ((fmtOf e.toNat).value x) ((fmtOf t.toNat).value y)) := by
  have kind {α : Type} (x y : α) : (if e.toNat < 4 then x else y) = if isFloat e then y else x := by
    by_cases integer : e.toNat < 4
    · rw [if_pos integer, if_neg (by simpa [isFloat] using integer)]
    · rw [if_neg integer, if_pos (by simpa [isFloat] using integer)]
  simp only [kind]
  exact vecMapF_completes (widthOf_pos e) (widthOf_le e) r

/-- Settles O33: a conversion or mixed-width product is an element-wise instruction with a function of its own. -/
theorem vectorConversionsComplete : Obligations.VectorConversionsComplete := by
  unfold Obligations.VectorConversionsComplete
  intro d a b p e t c s w pk f
  exact ⟨vecMapF_completes (widthOf_pos e) (widthOf_le e), vecMapF_completes (fmt_width _).1 (fmt_width _).2,
    vecMapF_completes (packed_width c.toNat).1 (packed_width c.toNat).2, vecWideMul_completes⟩

/-! ### Draws (R103, R106, R134, R143) -/

/-- FCSR as a draw for the elements `es` leaves it: NDET is set where software has not seeded the generator. -/
def State.drawnFcsr (s : State) (es : List Nat) : Dword :=
  if bit s.h.rngctr 63 = false ∧ es ≠ [] then setBits s.h.fcsr 9 1 1 else s.h.fcsr

/-- The state in which a draw for the elements `es` begins. -/
def State.drawing (s : State) (es : List Nat) : State := { s with h := { s.h with fcsr := s.drawnFcsr es } }

/-- RNGCTR past `n` positions, where one of the elements `es` was active. -/
def State.drawnCtr (s : State) (es : List Nat) (n : Nat) : Dword :=
  if es = [] then s.h.rngctr else setBits s.h.rngctr 0 63 (s.rngCtr + (n + 31) / 32)

/-- NDET is none of the bits of FTE (R35). -/
theorem fte_drawing (s : State) (es : List Nat) : (s.drawing es).fte = s.fte := by
  show BitVec.ofNat 5 (bits (s.drawnFcsr es) 10 5) = _
  unfold State.drawnFcsr
  split
  · rw [bits_setBits_apart _ _ (by omega) (by omega)]; rfl
  · rfl

/-- A draw goes on where the generator is seeded, none is made, or DET is 0. -/
theorem drawNdet_completes {s : State} {es : List Nat}
    (det : bit s.h.rngctr 63 = false ∧ es ≠ [] → bit s.h.fcsr 20 = false) :
    Ends (drawNdet es) s () (s.drawing es) := by
  refine ends_get_bind ?_
  have free : (!bit s.h.rngctr 63 && !es.isEmpty) = true ↔ bit s.h.rngctr 63 = false ∧ es ≠ [] := by simp
  unfold State.drawing State.drawnFcsr
  by_cases nd : bit s.h.rngctr 63 = false ∧ es ≠ []
  · rw [if_pos (free.mpr nd), if_pos nd]
    exact ends_bind (detCheck_clear (det nd)) rfl
  · rw [if_neg (mt free.mp nd), if_neg nd]
    rfl

theorem advanceRng_completes (s : State) (es : List Nat) (n : Nat) :
    Ends (advanceRng es n) s () { s with h := { s.h with rngctr := s.drawnCtr es n } } := by
  unfold advanceRng State.drawnCtr
  cases es <;> rfl

section
variable {s : State} {word : Nat} {d a : BitVec 5} {p e t : BitVec 3}
  (det : bit s.h.rngctr 63 = false ∧ s.active p ≠ [] → bit s.h.fcsr 20 = false)
include det

/-- R134: vcvt.sr, with the generator advanced past VL positions. -/
theorem vecConvertSr_completes (g : s.Groups d (widthOf e) [(a, widthOf t)]) {r : Nat → Nat × Flags}
    (rounds : r = fun i => (fmtOf e.toNat).stochastic s.sat (s.draw i) ((fmtOf t.toNat).value (s.elem a.toNat (widthOf t) i)))
    (quiet : ∀ i ∈ s.active p, s.quiet (r i).2) :
    ∃ vs, ElementsSet s.h.v vs d.toNat (widthOf e) (s.active p) (fun i => (r i).1) ∧
      finish (vecConvertSr word d a p e t) s = .next ((({ s with h := { s.h with
        v := vs, fcsr := s.drawnFcsr (s.active p), vstart := 0, rngctr := s.drawnCtr (s.active p) s.vlen } } : State).setFlags
          (allFlags ((s.active p).map fun i => (r i).2))).retire) := by
  subst rounds
  obtain ⟨vs, set, settled⟩ := settleElems_sets (s := s.drawing (s.active p)) (widthOf_pos e) (widthOf_le e)
    (active_distinct s p) (fun _ h => groupsOk_fits g.1 (active_lt h)) fun i h => by
      rw [State.quiet, fte_drawing]; exact quiet i h
  exact ⟨vs, set, finish_ok (vecRun_ready g (ends_get_bind (ends_bind (drawNdet_completes det) (ends_bind settled
    (advanceRng_completes _ _ _)))))⟩

/-- R143: vrand, with the generator advanced past the draws of VL elements. -/
theorem vecRand_completes (g : s.Groups d (widthOf e) []) :
    let q := max 1 (widthOf e / 16)
    ∃ vs, ElementsSet s.h.v vs d.toNat (widthOf e) (s.active p)
        (fun i => ((List.range q).map fun j => s.draw (q * i + j) * 2 ^ (16 * j)).sum) ∧
      finish (vecRand word d p e) s = .next (({ s with h := { s.h with
        v := vs, fcsr := s.drawnFcsr (s.active p), vstart := 0
        rngctr := s.drawnCtr (s.active p) (q * s.vlen) } } : State).retire) := by
  intro q
  obtain ⟨vs, set, puts⟩ := putElems_sets (s.drawing (s.active p))
    (fun i => ((List.range q).map fun j => s.draw (q * i + j) * 2 ^ (16 * j)).sum) (widthOf_pos e) (widthOf_le e)
    (active_distinct s p) fun _ h => groupsOk_fits g.1 (active_lt h)
  refine ⟨vs, set, finish_ok (vecRun_ready g (ends_get_bind (ends_bind (drawNdet_completes det) ?_)))⟩
  simp only [List.sum_eq_foldl] at puts
  rw [Ends, run_modify_bind, puts]
  exact advanceRng_completes _ _ _

end

/-- Settles O34: the draw's NDET first, then the elements, then the generator. -/
theorem randomInstructionsComplete : Obligations.RandomInstructionsComplete := by
  unfold Obligations.RandomInstructionsComplete
  intro d a p e t s w es free q fcsr ctr r drawn det
  exact ⟨fun groups quiet => vecConvertSr_completes det groups rfl quiet, fun groups => vecRand_completes det groups⟩

end Sys2Proof.Machine
end

section
/-! SUPPORT. Reductions and scans whose results raise no enabled flag complete (R100, R101, R137, R138), and what the fixed
tree and the running sums come to over integers. -/

namespace Sys2Proof.Machine

/-! ### Reductions to an element (R100, R137) -/

/-- The leaves of a reduction: the elements below VL that the predicate selects, VSTART ignored. -/
theorem reduction_leaf (s : State) (p : BitVec 3) (x : Nat → Nat) :
    (fun i => if (s.activeFrom 0 p).contains i then some (x i, (0 : Flags)) else none) =
      fun i => if i < s.vlen ∧ (s.mreg p.toNat).getLsbD i = true then some (x i, 0) else none := by
  funext i
  refine if_congr ?_ rfl rfl
  rw [List.contains_iff_mem, State.activeFrom, List.mem_filter, List.mem_range]
  simp

/-- R137: element 0 gets the root, whose flags are set. -/
theorem vecReduce_completes {s : State} {word identity : Nat} {d a : BitVec 5} {p e : BitVec 3} {f : State → Nat → Nat → Flagged}
    (r : s.VecReady fun vl => oneOk vl d [(a, widthOf e)]) :
    let leaf (i : Nat) : Option Flagged :=
      if i < s.vlen ∧ (s.mreg p.toNat).getLsbD i = true then some (s.elem a.toNat (widthOf e) i, 0) else none
    let root := (treeRoot (f s) 8 ((List.range 256).map leaf)).getD (identity, 0)
    s.quiet root.2 →
      VectorResult s (finish (vecReduce word d a p e identity f) s) d.toNat (widthOf e) [0] (fun _ => root.1) root.2 := by
  intro leaf root quiet
  have small := widthOf_le e
  obtain ⟨vs, written, puts⟩ := putElems_sets (s.setFlags root.2).clearVstart (d := d.toNat) (fun _ => root.1) (widthOf_pos e)
    small (List.nodup_singleton 0) fun i h => by
      have := d.isLt
      rw [List.mem_singleton.mp h]
      omega
  refine ⟨vs, finish_ok (vecRun_ready r (ends_get_bind ?_)), written⟩
  dsimp only
  rw [reduction_leaf]
  change Ends (set _ >>= fun _ => if root.2 &&& (s.setFlags root.2).fte = 0 then _ else _) _ _ _
  rw [fte_setFlags, if_pos (show root.2 &&& s.fte = 0 from quiet), Ends, run_set_bind, run_modify]
  exact congrArg (fun u => Except.ok ((), u)) puts

/-! ### The fixed tree over integers (R100, R101) -/

section
variable {w : Nat} {g : Nat → Nat → Nat} {identity : Nat}

/-- What the present leaves come to, combined one after the other. -/
def leafTotal (g : Nat → Nat → Nat) (identity : Nat) (l : List (Option Nat)) : Nat := (l.filterMap id).foldr g identity

/-- A leaf of the tree without flags. -/
def plainLeaf (x : Option Nat) : Option Flagged := x.map fun v => (v, 0)

/-- The level of the tree on leaves without flags. -/
def pairUp (g : Nat → Nat → Nat) : List (Option Nat) → List (Option Nat)
  | some x :: some y :: r => some (g x y) :: pairUp g r
  | some x :: none :: r => some x :: pairUp g r
  | none :: y :: r => y :: pairUp g r
  | [x] => [x]
  | [] => []

theorem treeLevel_plain (l : List (Option Nat)) :
    treeLevel (fun x y => (g x y, 0)) (l.map plainLeaf) = (pairUp g l).map plainLeaf := by
  induction l using pairUp.induct with
  | case1 x y r ih => simpa [treeLevel, pairUp, plainLeaf] using ih
  | case2 x r ih => simpa [treeLevel, pairUp, plainLeaf] using ih
  | case3 y r ih => simpa [treeLevel, pairUp, plainLeaf] using ih
  | case4 x => cases x <;> rfl
  | case5 => rfl

theorem length_pairUp (l : List (Option Nat)) : (pairUp g l).length = (l.length + 1) / 2 := by
  induction l using pairUp.induct with
  | case1 x y r ih | case2 x r ih | case3 y r ih => simp only [pairUp, List.length_cons, ih]; omega
  | case4 x => cases x <;> simp [pairUp]
  | case5 => rfl

/-- Pairing neighbours keeps what the leaves come to, for an associative combination. -/
theorem leafTotal_pairUp (assoc : ∀ x y z, g (g x y) z = g x (g y z)) (l : List (Option Nat)) :
    leafTotal g identity (pairUp g l) = leafTotal g identity l := by
  induction l using pairUp.induct with
  | case1 x y r ih => simpa [leafTotal, pairUp, assoc] using congrArg (fun z => g x (g y z)) ih
  | case2 x r ih => simpa [leafTotal, pairUp] using congrArg (g x) ih
  | case3 y r ih =>
    cases y with
    | none => simpa [leafTotal, pairUp] using ih
    | some y => simpa [leafTotal, pairUp] using congrArg (g y) ih
  | case4 x => cases x <;> rfl
  | case5 => rfl

/-- Pairing neighbours keeps a bound that the combination keeps. -/
theorem pairUp_below {b : Nat} (closed : ∀ x y, x < b → y < b → g x y < b) (l : List (Option Nat))
    (below : ∀ y ∈ l, ∀ x, y = some x → x < b) : ∀ y ∈ pairUp g l, ∀ x, y = some x → x < b := by
  induction l using pairUp.induct with
  | case1 x y r ih =>
    obtain ⟨hx, hy, hr⟩ := List.forall_mem_cons.mp below |>.imp_right List.forall_mem_cons.mp
    refine List.forall_mem_cons.mpr ⟨fun z e => ?_, ih hr⟩
    cases e
    exact closed x y (hx x rfl) (hy y rfl)
  | case2 x r ih =>
    obtain ⟨hx, -, hr⟩ := List.forall_mem_cons.mp below |>.imp_right List.forall_mem_cons.mp
    exact List.forall_mem_cons.mpr ⟨hx, ih hr⟩
  | case3 y r ih =>
    obtain ⟨-, hy, hr⟩ := List.forall_mem_cons.mp below |>.imp_right List.forall_mem_cons.mp
    exact List.forall_mem_cons.mpr ⟨hy, ih hr⟩
  | case4 x => cases x <;> exact below
  | case5 => exact below

/-- R100: over an associative combination, with an identity for what the leaves can be, the root of the fixed tree is what
the present leaves come to, whatever leaves are absent. -/
theorem treeRoot_plain {b : Nat} (assoc : ∀ x y z, g (g x y) z = g x (g y z)) (closed : ∀ x y, x < b → y < b → g x y < b)
    (neutral : ∀ x, x < b → g x identity = x) (n : Nat) (l : List (Option Nat)) (len : l.length = 2 ^ n)
    (below : ∀ y ∈ l, ∀ x, y = some x → x < b) :
    (treeRoot (fun x y => (g x y, 0)) n (l.map plainLeaf)).getD (identity, 0) = (leafTotal g identity l, 0) := by
  induction n generalizing l with
  | zero =>
    obtain ⟨x, rfl⟩ := List.length_eq_one_iff.mp len
    cases x with
    | none => rfl
    | some x => exact congrArg (fun z => (z, (0 : Flags))) (neutral x (below _ (.head _) x rfl)).symm
  | succ n ih =>
    have half : (pairUp g l).length = 2 ^ n := by
      rw [length_pairUp, len, Nat.pow_succ]
      omega
    rw [treeRoot, treeLevel_plain, ih (pairUp g l) half (pairUp_below closed l below), leafTotal_pairUp assoc]

end

/-- Sums reduced at every step are the sum reduced once. -/
theorem foldr_elemAdd (w : Nat) (l : List Nat) : l.foldr (elemAdd w) 0 = l.sum % 2 ^ w := by
  induction l with
  | nil => rw [List.foldr_nil, List.sum_nil, Nat.zero_mod]
  | cons x l ih => rw [List.foldr_cons, ih, elemAdd, List.sum_cons, Nat.add_mod_mod]

theorem elemAdd_assoc (w x y z : Nat) : elemAdd w (elemAdd w x y) z = elemAdd w x (elemAdd w y z) := by
  simp only [elemAdd, Nat.mod_add_mod, Nat.add_mod_mod, Nat.add_assoc]

/-- R101: over integers of width `w` the tree gives the plain sum, minimum and maximum. -/
theorem treeRoot_integers {w : Nat} {l : List (Option Nat)} (len : l.length = 256) (below : ∀ x, some x ∈ l → x < 2 ^ w) :
    let leaves : List (Option Flagged) := l.map fun x => x.map fun v => (v, 0)
    let present := l.filterMap id
    (treeRoot (fun x y => (elemAdd w x y, 0)) 8 leaves).getD (0, 0) = (present.sum % 2 ^ w, 0) ∧
    (treeRoot (fun x y => (min x y, 0)) 8 leaves).getD (2 ^ w - 1, 0) = (present.foldl min (2 ^ w - 1), 0) ∧
    (treeRoot (fun x y => (max x y, 0)) 8 leaves).getD (0, 0) = (present.foldl max 0, 0) := by
  intro leaves present
  have plain : leaves = l.map plainLeaf := rfl
  have below : ∀ y ∈ l, ∀ x, y = some x → x < 2 ^ w := fun y mem x e => below x (e ▸ mem)
  rw [plain]
  refine ⟨?sum, ?min, ?max⟩
  case sum =>
    rw [treeRoot_plain (elemAdd_assoc w) (fun x y _ _ => Nat.mod_lt _ (Nat.two_pow_pos w))
      (fun _ h => Nat.mod_eq_of_lt h : ∀ x, x < 2 ^ w → elemAdd w x 0 = x) 8 l len below, leafTotal, foldr_elemAdd]
  case min =>
    rw [treeRoot_plain Nat.min_assoc (fun x y hx _ => by omega) (fun x h => by omega) 8 l len below, leafTotal,
      List.foldl_eq_foldr]
  case max =>
    rw [treeRoot_plain Nat.max_assoc (fun x y hx hy => by omega) (fun x _ => Nat.max_zero x) 8 l len below, leafTotal,
      List.foldl_eq_foldr]

/-- Settles O35: each reduction is `vecReduce` with its combination and identity; over integers the combinations are
associative, and the identities are neutral to every leaf. -/
theorem reductionsToElementComplete : Obligations.ReductionsToElementComplete := by
  unfold Obligations.ReductionsToElementComplete
  refine ⟨fun d a p e s => ?_, fun w l len below => treeRoot_integers len below⟩
  intro w leaf root ends
  have reduces {i : Instr} {word : Nat} (identity : Nat) (f : State → Nat → Nat → Flagged)
      (is : exec i s = finish (vecReduce word d a p e identity f) s) : ends i (root (f s) identity) := by
    intro ready quiet
    rw [is]
    exact vecReduce_completes ready quiet
  exact ⟨reduces 0 (sumOf e) rfl, reduces _ (fun _ => extremeOf e false) rfl, reduces _ (fun _ => extremeOf e true) rfl,
    reduces _ (fun _ x y => (min x y, 0)) rfl, reduces _ (fun _ x y => (max x y, 0)) rfl,
    reduces _ (fun _ x y => (x &&& y, 0)) rfl, reduces _ (fun _ x y => (x ||| y, 0)) rfl⟩

/-! ### Scans (R138) -/

theorem filter_active (s : State) (p : BitVec 3) : (List.range s.vlen).filter (s.active p).contains = s.active p := by
  refine List.filter_congr fun i below => ?_
  rw [Bool.eq_iff_iff, List.contains_iff_mem, State.active, State.activeFrom, List.mem_filter]
  exact and_iff_right below

/-- The elements at which a scan leaves results are the active ones. -/
theorem scanFrom_active (s : State) (p : BitVec 3) (heads : Nat → Bool) (x : Nat → Nat) (f : Nat → Nat → Flagged) (vstart : Nat)
    (run : Option Nat) (restart : Bool) :
    (scanFrom heads (s.active p).contains x f vstart (List.range s.vlen) run restart).map (·.e) = s.active p := by
  rw [scanFrom_elements, filter_active]

section
variable {s : State} {word : Nat} {d a : BitVec 5} {p e : BitVec 3} {heads : State → Nat → Bool}

/-- The results of a scan (R138). -/
def State.scanResults (s : State) (d a : BitVec 5) (p e : BitVec 3) (heads : Nat → Bool) : List ElemResult :=
  let before := (s.activeFrom 0 p).filter fun i => decide (i < s.vstartN)
  scanFrom heads (s.active p).contains (s.elem a.toNat (widthOf e)) (sumOf e s) s.vstartN (List.range s.vlen)
    (before.getLast?.map fun i => s.elem d.toNat (widthOf e) i) false

/-- R124, R138: a scan or segmented sum of which no running sum raises an enabled flag. -/
theorem vecScan_completes (r : s.Groups d (widthOf e) [(a, widthOf e)]) {rs : List ElemResult}
    (results : rs = s.scanResults d a p e (heads s)) (quiet : ∀ q ∈ rs, s.quiet q.flags) :
    VectorResult s (finish (vecScan word d a p e heads) s) d.toNat (widthOf e) (rs.map fun q => q.e)
      (fun i => ((rs.find? fun q => q.e == i).map fun q => q.value).getD 0) (allFlags (rs.map fun q => q.flags)) := by
  have elements : rs.map (·.e) = s.active p := by rw [results]; exact scanFrom_active ..
  have distinct : (rs.map (·.e)).Nodup := by rw [elements]; exact active_distinct s p
  have by_element := results_eq_map distinct
  have at_ (i : Nat) : (scanAt rs i).1 = ((rs.find? fun q => q.e == i).map fun q => q.value).getD 0 := by
    unfold scanAt
    cases rs.find? fun q => q.e == i <;> rfl
  have flags : ((rs.map (·.e)).map (elemResult (scanAt rs))).map (fun q => q.flags) =
      (rs.map (·.e)).map fun i => (scanAt rs i).2 := List.map_map
  rw [← by_element] at flags
  have settled : FloatResult s (finish (vecScan word d a p e heads) s) d.toNat (widthOf e) (rs.map (·.e)) (scanAt rs) := by
    refine floatResult_settles (widthOf_pos e) (widthOf_le e) r distinct (fun i h => ?_) fun {u} h => ends_get_bind ?_
    · rw [elements] at h
      exact groupsOk_fits r.1 (active_lt h)
    · rw [← by_element, results] at h
      exact h
  rw [flags, ← funext at_]
  refine settled fun i h => ?_
  have mem : elemResult (scanAt rs) i ∈ (rs.map (·.e)).map (elemResult (scanAt rs)) := List.mem_map_of_mem h
  rw [← by_element] at mem
  exact quiet _ mem

end

section
variable {w vstart : Nat} {active : Nat → Bool} {x : Nat → Nat} (small : ∀ i, x i < 2 ^ w)
include small

/-- A scan over integers, one element on: an active element leaves the sum reduced so far. -/
theorem scanFrom_cons_sum (e : Nat) (es : List Nat) (run : Option Nat) :
    scanFrom (fun _ => false) active x (fun y z => (elemAdd w y z, 0)) vstart (e :: es) run false =
      if active e then
        let sum := (run.getD 0 + x e) % 2 ^ w
        ⟨e, sum, 0⟩ :: scanFrom (fun _ => false) active x (fun y z => (elemAdd w y z, 0)) vstart es (some sum) false
      else scanFrom (fun _ => false) active x (fun y z => (elemAdd w y z, 0)) vstart es run false := by
  cases run with
  | none => simp [scanFrom, Nat.mod_eq_of_lt (small e)]
  | some y => simp [scanFrom, elemAdd]

/-- R101: over integers, the running sum at each active element is that of the active elements up to it. -/
theorem scanFrom_sums {es : List Nat} (sorted : es.Pairwise (· < ·)) (run : Option Nat) :
    ∀ q ∈ scanFrom (fun _ => false) active x (fun y z => (elemAdd w y z, 0)) vstart es run false, q.e ∈ es ∧ q.flags = 0 ∧
      q.value = (run.getD 0 + ((es.filter fun j => decide (j ≤ q.e) && active j).map x).sum) % 2 ^ w := by
  induction es generalizing run with
  | nil => simp [scanFrom]
  | cons e es ih =>
    obtain ⟨least, sorted⟩ := List.pairwise_cons.mp sorted
    intro q mem
    rw [scanFrom_cons_sum small] at mem
    by_cases here : active e = true
    · rw [if_pos here] at mem
      rcases List.mem_cons.mp mem with rfl | later
      · have above : (es.filter fun j => decide (j ≤ e) && active j) = [] :=
          List.filter_eq_nil_iff.mpr fun j hj => by have := least j hj; simp; omega
        exact ⟨.head _, rfl, by simp [here, above]⟩
      · obtain ⟨mem_es, flags, value⟩ := ih sorted _ q later
        have before : e ≤ q.e := (least _ mem_es).le
        exact ⟨.tail _ mem_es, flags, by simp [value, here, before, Nat.add_assoc]⟩
    · rw [if_neg here] at mem
      obtain ⟨mem_es, flags, value⟩ := ih sorted run q mem
      exact ⟨.tail _ mem_es, flags, by simp [value, here]⟩

end

/-- Flags none of which is set come to none. -/
theorem allFlags_zero {fs : List Flags} (none_set : ∀ fl ∈ fs, fl = 0) : allFlags fs = 0 := by
  unfold allFlags
  induction fs with
  | nil => rfl
  | cons f fs ih =>
    rw [List.foldl_cons, none_set f (.head _)]
    exact ih fun fl h => none_set fl (.tail _ h)

/-- An element has no bit beyond its width. -/
theorem elem_lt (s : State) (r w i : Nat) : s.elem r w i < 2 ^ w := Nat.mod_lt _ (Nat.two_pow_pos w)

/-- The outcome says no more of `f` than its values at the elements listed. -/
theorem VectorResult.congr {s : State} {o : Out} {d w : Nat} {es : List Nat} {f g : Nat → Nat} {fl : Flags}
    (h : VectorResult s o d w es f fl) (same : ∀ e ∈ es, f e = g e) : VectorResult s o d w es g fl := by
  obtain ⟨vs, is, set, stay⟩ := h
  exact ⟨vs, is, fun e mem i iw => by rw [← same e mem]; exact set e mem i iw, stay⟩

/-- R101, R138: a scan over integers from VSTART 0. -/
theorem vecScan_integers {s : State} {word : Nat} {d a : BitVec 5} {p e : BitVec 3}
    (r : s.Groups d (widthOf e) [(a, widthOf e)]) (integer : e.toNat < 4) (start : s.vstartN = 0) :
    VectorResult s (finish (vecScan word d a p e fun _ _ => false) s) d.toNat (widthOf e) (s.active p)
      (fun i => (((s.active p).filter fun j => decide (j ≤ i)).map (s.elem a.toNat (widthOf e))).sum % 2 ^ widthOf e) 0 := by
  have sums : sumOf e s = fun y z => (elemAdd (widthOf e) y z, 0) := by
    funext y z
    exact if_neg (by simpa [isFloat] using integer)
  have results : s.scanResults d a p e (fun _ => false) = scanFrom (fun _ => false) (s.active p).contains
      (s.elem a.toNat (widthOf e)) (fun y z => (elemAdd (widthOf e) y z, 0)) s.vstartN (List.range s.vlen) none false := by
    unfold State.scanResults
    rw [sums, start]
    simp
  have sums_at := scanFrom_sums (vstart := s.vstartN) (active := (s.active p).contains) (elem_lt s a.toNat (widthOf e))
    (List.pairwise_lt_range (n := s.vlen)) none
  rw [← results] at sums_at
  obtain ⟨rs, rs_eq⟩ : ∃ rs, rs = s.scanResults d a p e fun _ => false := ⟨_, rfl⟩
  rw [← rs_eq] at sums_at
  have elements : rs.map (·.e) = s.active p := by rw [rs_eq]; exact scanFrom_active ..
  have no_flags := allFlags_zero (List.forall_mem_map.mpr fun q h => (sums_at q h).2.1)
  have completes := vecScan_completes (word := word) (heads := fun _ _ => false) r rs_eq fun q h => by
    rw [(sums_at q h).2.1]
    exact BitVec.zero_and
  rw [no_flags, elements] at completes
  refine completes.congr fun i mem => ?_
  rw [← elements] at mem
  obtain ⟨q, found⟩ : ∃ q, rs.find? (fun q => q.e == i) = some q := by
    obtain ⟨q, q_mem, rfl⟩ := List.mem_map.mp mem
    exact Option.isSome_iff_exists.mp (List.find?_isSome.mpr ⟨q, q_mem, beq_self_eq_true _⟩)
  have at_i : q.e = i := by simpa using List.find?_some found
  obtain ⟨-, -, value⟩ := sums_at q (List.mem_of_find?_eq_some found)
  rw [← List.filter_filter, filter_active, at_i] at value
  simpa [found] using value

/-- Settles O36: vscan has no heads, vsegsum those of its mask; over integers the running sums are sums of elements. -/
theorem scansComplete : Obligations.ScansComplete := by
  unfold Obligations.ScansComplete
  intro d a b p e s w x es before rs ends groups
  exact ⟨fun quiet => vecScan_completes groups rfl quiet, fun quiet => vecScan_completes groups rfl quiet,
    fun integer start => vecScan_integers groups integer start⟩

end Sys2Proof.Machine
end

section
/-! SUPPORT. Instructions that change a tile row by row (R149 to R155, R159, R164): what the rows and cells of a tile are
after each, and that they complete where no row raises an enabled flag. -/

namespace Sys2Proof.Machine

/-! ### Rows of a tile (R30, R146) -/

/-- A bit that is set is set again. -/
theorem setBits_of_bit {v : Dword} {t : Nat} (h : t < 64) (one : bit v t = true) : setBits v t 1 1 = v := by
  refine BitVec.eq_of_getLsbD_eq fun i _ => ?_
  rw [← bit_eq_getLsbD, ← bit_eq_getLsbD, bit_setBits _ _ _ (by omega)]
  split
  next here => rw [show i = t by omega, one, Nat.sub_self]; rfl
  next => rfl

section
variable (c : Core) {t : Nat} (h : t < 8)

theorem Core.makeLive_of_live {c : Core} {t : Nat} (live : c.live t = true) : c.makeLive t = c := if_pos live

/-- The other tiles stay as one is made live. -/
theorem Core.tiles_makeLive (c : Core) {t k : Nat} (away : k ≠ t) :
    (c.makeLive t).tiles.getD k (Vector.replicate 32 0) = c.tiles.getD k (Vector.replicate 32 0) := by
  unfold Core.makeLive
  split
  · rfl
  · exact vector_getD_set_other _ _ _ away

/-- Making a tile live changes tiles and what is live, nothing else of the core. -/
theorem Core.rest_makeLive (c : Core) (t : Nat) :
    ({ c.makeLive t with tiles := c.tiles, acclive := c.acclive } : Core) = c := by
  unfold Core.makeLive
  split <;> rfl

include h

theorem Core.acclive_makeLive : (c.makeLive t).acclive = setBits c.acclive t 1 1 := by
  unfold Core.makeLive
  split
  next live => exact (setBits_of_bit (by omega) live).symm
  next => rfl

theorem Core.live_makeLive : (c.makeLive t).live t = true := by
  unfold Core.live
  rw [c.acclive_makeLive h, bit_setBits _ _ _ (by omega), if_pos (by omega), Nat.sub_self]
  rfl

/-- R30, R146: a tile made live reads as it did, as zero if it was not live. -/
theorem Core.row_makeLive (k i : Nat) : (c.makeLive t).row k i = c.row k i := by
  by_cases live : c.live t = true
  · rw [Core.makeLive_of_live live]
  · unfold Core.row
    by_cases here : k = t
    · subst here
      rw [if_neg live, if_pos (c.live_makeLive h), Core.makeLive, if_neg live]
      show ((c.tiles.setIfInBounds k _).getD k _).getD i 0 = 0
      rw [vector_getD_set_same _ _ _ h]
      by_cases inside : i < 32 <;> simp [Vector.getD, inside]
    · have lives : (c.makeLive t).live k = c.live k := by
        unfold Core.live
        rw [c.acclive_makeLive h, bit_setBits _ _ _ (by omega), if_neg (by omega)]
      rw [lives, Core.makeLive, if_neg live]
      show (if c.live k then ((c.tiles.setIfInBounds t _).getD k _).getD i 0 else 0) = _
      rw [vector_getD_set_other _ _ _ here]

/-- R30: a row put in a live tile is read back, and every other row stays. -/
theorem Core.row_putRow {c : Core} (live : c.live t = true) (i : Nat) (v : Vec) (k j : Nat) :
    (c.putRow t i v).row k j = if k = t ∧ j = i ∧ i < 32 then v else c.row k j := by
  rw [Core.putRow, Core.makeLive_of_live live]
  show (if c.live k then ((c.tiles.setIfInBounds t _).getD k _).getD j 0 else 0) = _
  by_cases tile : k = t
  · subst tile
    rw [if_pos live, vector_getD_set_same _ _ _ h, Core.row, if_pos live]
    by_cases here : j = i
    · subst here
      by_cases inside : j < 32
      · rw [vector_getD_set_same _ _ _ inside, if_pos ⟨rfl, rfl, inside⟩]
      · simp [Vector.getD, inside]
    · rw [vector_getD_set_other _ _ _ here, if_neg fun all => here all.2.1]
  · rw [vector_getD_set_other _ _ _ tile, if_neg fun all : k = t ∧ _ => tile all.1]
    rfl

omit h in
theorem Core.acclive_putRow {c : Core} {t : Nat} (live : c.live t = true) (i : Nat) (v : Vec) :
    (c.putRow t i v).acclive = c.acclive := by
  rw [Core.putRow, Core.makeLive_of_live live]

end

/-- `c'` is the core `c` with rows of its live tile `t` replaced: each row listed by what `new` gives for it, if anything. -/
structure RowsReplaced (t : Nat) (rows : List Nat) (new : Nat → Option Vec) (c c' : Core) : Prop where
  listed : ∀ i ∈ rows, i < 32 → c'.row t i = (new i).getD (c.row t i)
  other : ∀ k i, i ∉ rows → c'.row k i = c.row k i
  tiles : ∀ k, k ≠ t → c'.tiles.getD k (Vector.replicate 32 0) = c.tiles.getD k (Vector.replicate 32 0)
  live : c'.acclive = c.acclive
  rest : ({ c' with tiles := c.tiles } : Core) = c

section
variable {t i : Nat} {rows : List Nat} {new new' : Nat → Option Vec} {c c' : Core}

/-- A row that gets nothing stays as it is. -/
theorem RowsReplaced.cons_none (fresh : i ∉ rows) (nothing : new i = none) (r : RowsReplaced t rows new c c') :
    RowsReplaced t (i :: rows) new c c' where
  listed j mem inside := by
    rcases List.mem_cons.mp mem with rfl | later
    · rw [nothing, r.other t j fresh]; rfl
    · exact r.listed j later inside
  other k j away := r.other k j (List.not_mem_of_not_mem_cons away)
  tiles := r.tiles
  live := r.live
  rest := r.rest

/-- One row put in place before the others. -/
theorem RowsReplaced.cons_putRow (h : t < 8) (live : c.live t = true) (fresh : i ∉ rows) {v : Vec} (put : new i = some v)
    (same : ∀ j ∈ rows, new' j = new j) (r : RowsReplaced t rows new' (c.putRow t i v) c') :
    RowsReplaced t (i :: rows) new c c' where
  listed j mem inside := by
    rcases List.mem_cons.mp mem with rfl | later
    · rw [r.other t j fresh, Core.row_putRow h live, if_pos ⟨rfl, rfl, inside⟩, put]; rfl
    · have differ : j ≠ i := fun e => fresh (e ▸ later)
      rw [r.listed j later inside, same j later, Core.row_putRow h live, if_neg fun all => differ all.2.1]
  other k j away := by
    rw [r.other k j (List.not_mem_of_not_mem_cons away), Core.row_putRow h live,
      if_neg fun all => List.ne_of_not_mem_cons away all.2.1]
  tiles k away := by
    rw [r.tiles k away, Core.putRow, Core.makeLive_of_live live]
    exact vector_getD_set_other _ _ _ away
  live := r.live.trans (Core.acclive_putRow live i v)
  rest := by
    have rest := congrArg (fun k : Core => ({ k with tiles := c.tiles } : Core)) r.rest
    rw [Core.putRow, Core.makeLive_of_live live] at rest
    exact rest

end

/-! ### Flags set on the way (R164) -/

/-- The flags of FCSR lie in its bits 4 to 8; the other fields stay as flags are set (R35). -/
theorem bits_fcsrFlags (fcsr : Dword) (fl : Flags) {lo n : Nat} (apart : lo + n ≤ 4 ∨ 9 ≤ lo) :
    bits (fcsrFlags fcsr fl) lo n = bits fcsr lo n := by
  refine Nat.eq_of_testBit_eq fun j => ?_
  rw [testBit_bits, testBit_bits, fcsrFlags, bit_or]
  by_cases inside : j < n
  · have none : bit (fl.zeroExtend 64 <<< 4) (lo + j) = false := by
      rw [bit_eq_getLsbD, BitVec.getLsbD_shiftLeft]
      rcases apart with low | high
      · simp [show lo + j < 4 by omega]
      · rw [BitVec.getLsbD_setWidth, BitVec.getLsbD_of_ge fl _ (by omega)]
        simp
    rw [none, Bool.or_false]
  · simp [inside]

@[simp] theorem fcsrFlags_zero (fcsr : Dword) : fcsrFlags fcsr 0 = fcsr := by simp [fcsrFlags]

theorem zero_or_flags (f : Flags) : 0 ||| f = f := BitVec.zero_or

theorem allFlags_cons (f : Flags) (fs : List Flags) : allFlags (f :: fs) = f ||| allFlags fs := by
  rw [allFlags, List.foldl_cons, BitVec.or_comm, List.foldl_assoc]
  rfl

theorem allFlags_append (fs gs : List Flags) : allFlags (fs ++ gs) = allFlags fs ||| allFlags gs := by
  induction fs with
  | nil => exact (zero_or_flags _).symm
  | cons f fs ih => rw [List.cons_append, allFlags_cons, ih, allFlags_cons, BitVec.or_assoc]

/-- The part of a set of flags none of which is enabled. -/
theorem quietM_of_or {s : State} {fl fl' : Flags} (h : s.quietM (fl ||| fl')) : s.quietM fl ∧ s.quietM fl' := by
  unfold State.quietM at *
  rw [BitVec.and_or_distrib_right] at h
  exact BitVec.or_eq_zero_iff.mp h

/-! ### Slices (R149, R164) -/

/-- The state on the way through the rows of a tile: the core `c`, flags `fl` set, and what is pending of the restart. -/
def State.atSlice (s : State) (c : Core) (fl : Flags) (restart : Option Nat) : State :=
  { s with core := c, h := { s.h with fcsr := fcsrFlags s.h.fcsr fl, restart := restart } }

theorem atSlice_start (s : State) (c : Core) : s.atSlice c 0 s.h.restart = { s with core := c } := by
  unfold State.atSlice
  rw [fcsrFlags_zero]

theorem atSlice_atSlice (s : State) (c c' : Core) (fl fl' : Flags) (re re' : Option Nat) :
    (s.atSlice c fl re).atSlice c' fl' re' = s.atSlice c' (fl ||| fl') re' := by
  have together := congrArg (fun u : State => u.h.fcsr) (setFlags_setFlags s fl fl')
  exact congrArg (fun f => { s with core := c', h := { s.h with fcsr := f, restart := re' } }) together

theorem sat_atSlice (s : State) (c : Core) (fl : Flags) (re : Option Nat) : (s.atSlice c fl re).sat = s.sat :=
  congrArg (· == 1) (bits_fcsrFlags s.h.fcsr fl (by omega))

theorem mxte_setFlags (s : State) (fl : Flags) : (s.setFlags fl).mxte = s.mxte :=
  congrArg (BitVec.ofNat 5) (bits_fcsrFlags s.h.fcsr fl (by omega))

/-- A rule for rows that reads of the tiles only the row it makes, and makes each column once. -/
structure RowRule (row : State → Nat → Option RowResult) : Prop where
  own : ∀ s c fl re i, (∀ k, c.row k i = s.core.row k i) → row (s.atSlice c fl re) i = row s i
  once : ∀ s i cs, row s i = some cs → (cs.map fun c => c.1).Nodup

/-- Row `i` of tile `t` as a rule for rows leaves it. -/
def newRow (t : Nat) (row : State → Nat → Option RowResult) (s : State) (i : Nat) : Option Vec :=
  (row s i).map fun cs => rowWith (s.core.row t i) (cs.map fun c => (c.1, c.2.1))

/-- The flags of the row that a rule makes. -/
def rowFlags (row : State → Nat → Option RowResult) (s : State) (i : Nat) : List Flags := ((row s i).getD []).map fun c => c.2.2

section
variable {t i : Nat} {rows : List Nat} {row : State → Nat → Option RowResult} {s : State}

section
variable (rule : RowRule row) {c : Core} (fl : Flags) (re : Option Nat) (stays : ∀ k, c.row k i = s.core.row k i)
include rule stays

/-- On the way, a row still to come raises the flags that it did. -/
theorem RowRule.rowFlags_atSlice : rowFlags row (s.atSlice c fl re) i = rowFlags row s i := by
  rw [rowFlags, rowFlags, rule.own s c fl re i stays]

/-- On the way, a row still to come will be what it would have been. -/
theorem RowRule.newRow_atSlice : newRow t row (s.atSlice c fl re) i = newRow t row s i := by
  rw [newRow, newRow, rule.own s c fl re i stays]
  exact congrArg (fun v => (row s i).map fun cs => rowWith v (cs.map fun c => (c.1, c.2.1))) (stays t)

end

/-- A row that the row predicate leaves out. -/
theorem slices_skip (made : row s i = none) : slices t row (i :: rows) s = slices t row rows s := by
  rw [slices, run_get_bind, made]

/-- R164: a row that raises no enabled flag is committed, and a restart is no longer pending. -/
theorem slices_commit {cs : RowResult} (made : row s i = some cs) (quiet : s.quietM (allFlags (rowFlags row s i))) :
    slices t row (i :: rows) s = slices t row rows (s.atSlice
      (s.core.putRow t i (rowWith (s.core.row t i) (cs.map fun c => (c.1, c.2.1)))) (allFlags (rowFlags row s i)) none) := by
  have flags : cs.foldl (fun (fl : Flags) c => fl ||| c.2.2) 0 = allFlags (rowFlags row s i) := by
    rw [rowFlags, made, Option.getD_some, allFlags, List.foldl_map]
  have none_enabled : allFlags (rowFlags row s i) &&& (s.setFlags (allFlags (rowFlags row s i))).mxte = 0 := by
    rw [mxte_setFlags]
    exact quiet
  rw [slices, run_get_bind, made]
  dsimp only
  rw [flags, run_set_bind, if_pos none_enabled]
  rfl

variable (rule : RowRule row) (h : t < 8)
include rule h

/-- R152, R164: rows of which none raises an enabled flag are all done, with their flags. -/
theorem slices_complete (distinct : rows.Nodup) (live : s.core.live t = true)
    (quiet : s.quietM (allFlags (rows.flatMap (rowFlags row s)))) :
    ∃ c re, Ends (slices t row rows) s () (s.atSlice c (allFlags (rows.flatMap (rowFlags row s))) re) ∧
      RowsReplaced t rows (newRow t row s) s.core c := by
  induction rows generalizing s with
  | nil =>
    refine ⟨s.core, s.h.restart, ?_, ⟨by simp, by simp, fun _ _ => rfl, rfl, rfl⟩⟩
    rw [List.flatMap_nil]
    exact congrArg (fun u => Except.ok ((), u)) (atSlice_start s s.core).symm
  | cons i rows ih =>
    obtain ⟨fresh, distinct⟩ := List.nodup_cons.mp distinct
    rw [List.flatMap_cons, allFlags_append] at quiet ⊢
    obtain ⟨quiet_row, quiet_rest⟩ := quietM_of_or quiet
    cases made : row s i with
    | none =>
      obtain ⟨c, re, ends, replaced⟩ := ih distinct live quiet_rest
      have no_flags : allFlags (rowFlags row s i) = 0 := by rw [rowFlags, made]; rfl
      refine ⟨c, re, ?_, replaced.cons_none fresh (by rw [newRow, made]; rfl)⟩
      rw [no_flags, zero_or_flags]
      exact (slices_skip made).trans ends
    | some cs =>
      obtain ⟨v, v_eq⟩ : ∃ v, v = rowWith (s.core.row t i) (cs.map fun c => (c.1, c.2.1)) := ⟨_, rfl⟩
      have commit := slices_commit (t := t) (rows := rows) made quiet_row
      have put : newRow t row s i = some v := by rw [newRow, made, v_eq]; rfl
      have stays (j : Nat) (mem : j ∈ rows) (k : Nat) : (s.core.putRow t i v).row k j = s.core.row k j := by
        rw [Core.row_putRow h live, if_neg]
        rintro ⟨-, rfl, -⟩
        exact fresh mem
      have flags_same : rows.flatMap (rowFlags row (s.atSlice (s.core.putRow t i v) (allFlags (rowFlags row s i)) none)) =
          rows.flatMap (rowFlags row s) :=
        List.flatMap_congr fun j mem => rule.rowFlags_atSlice _ _ (stays j mem)
      obtain ⟨c, re, ends, replaced⟩ := ih distinct
        (s := s.atSlice (s.core.putRow t i v) (allFlags (rowFlags row s i)) none)
        ((congrArg (bit · t) (Core.acclive_putRow live i v)).trans live) (by
          rw [flags_same]
          exact (congrArg (_ &&& ·) (mxte_setFlags s _)).trans quiet_rest)
      rw [flags_same, atSlice_atSlice] at ends
      rw [← v_eq] at commit
      exact ⟨c, re, commit.trans ends,
        replaced.cons_putRow h live fresh put fun j mem => rule.newRow_atSlice _ _ (stays j mem)⟩

end

end Sys2Proof.Machine
end

section
/-! SUPPORT. Outer products and sums of tiles complete (R99, R149 to R155, R159, R164): the cells of the rows done, and the
rules of the rows. -/

namespace Sys2Proof.Machine

/-! ### Cells of a row (R146) -/

/-- Cell `j` of a row as a number. -/
def cellAt (n j : Nat) : Nat := n / 2 ^ (32 * j) % 2 ^ 32

theorem testBit_cellAt (n j i : Nat) : (cellAt n j).testBit i = (decide (i < 32) && n.testBit (i + 32 * j)) := by
  rw [cellAt, Nat.testBit_mod_two_pow, Nat.testBit_div_two_pow]

/-- A cell put in place is read back, and every other cell stays. -/
theorem cellAt_putField (n x c j : Nat) : cellAt (putField n (32 * c) 32 x) j = if c = j then x % 2 ^ 32 else cellAt n j := by
  refine Nat.eq_of_testBit_eq fun i => ?_
  rw [testBit_cellAt, testBit_putField]
  by_cases here : c = j
  · rw [if_pos here, Nat.testBit_mod_two_pow]
    by_cases inside : i < 32
    · rw [if_pos (by omega), show i + 32 * j - 32 * c = i by omega]
    · simp [inside]
  · rw [if_neg here, testBit_cellAt]
    by_cases inside : i < 32
    · rw [if_neg (by omega)]
    · simp [inside]

/-- The value that results give for a column. -/
def valueAt (cs : List (Nat × Nat)) (j : Nat) : Option Nat := (cs.find? fun c => c.1 == j).map (·.2)

/-- Cells of distinct columns put in place one after the other. -/
theorem cellAt_putCells {cs : List (Nat × Nat)} (distinct : (cs.map (·.1)).Nodup) (n j : Nat) :
    cellAt (cs.foldl (fun n c => putField n (32 * c.1) 32 c.2) n) j = ((valueAt cs j).getD (cellAt n j)) % 2 ^ 32 := by
  have whole (m : Nat) : cellAt m j % 2 ^ 32 = cellAt m j := Nat.mod_mod _ _
  induction cs generalizing n with
  | nil => exact (whole n).symm
  | cons c cs ih =>
    obtain ⟨fresh, distinct⟩ := List.nodup_cons.mp distinct
    rw [List.foldl_cons, ih distinct, cellAt_putField]
    by_cases here : c.1 = j
    · subst here
      have later : valueAt cs c.1 = none := by
        rw [valueAt, Option.map_eq_none_iff, List.find?_eq_none]
        intro q mem same
        exact fresh (List.mem_map.mpr ⟨q, mem, by simpa using same⟩)
      have first : valueAt (c :: cs) c.1 = some c.2 := by simp [valueAt]
      rw [later, first, if_pos rfl, Option.getD_none, Option.getD_some, Nat.mod_mod]
    · have skip : valueAt (c :: cs) j = valueAt cs j := by simp [valueAt, here]
      rw [skip, if_neg here]

/-- The row register holds 32 cells. -/
theorem cellAt_ofNat (n : Nat) {j : Nat} (h : j < 32) : cellAt (BitVec.ofNat 1024 n).toNat j = cellAt n j := by
  refine Nat.eq_of_testBit_eq fun i => ?_
  rw [testBit_cellAt, testBit_cellAt, BitVec.testBit_toNat, BitVec.getLsbD_ofNat]
  by_cases inside : i < 32
  · simp [show i + 32 * j < 1024 by omega]
  · simp [inside]

theorem cellAt_rowWith {cs : List (Nat × Nat)} (distinct : (cs.map (·.1)).Nodup) (v : Vec) {j : Nat} (h : j < 32) :
    cellAt (rowWith v cs).toNat j = ((valueAt cs j).getD (cellAt v.toNat j)) % 2 ^ 32 := by
  rw [rowWith, cellAt_ofNat _ h, cellAt_putCells distinct]

/-- The cells that `cells` names of tile `t` get its values, reduced to 32 bits, and the tile is live; nothing else of the core
changes. -/
def CellsReplaced (t : Nat) (cells : Nat → Nat → Option Nat) (c c' : Core) : Prop :=
  c'.acclive = setBits c.acclive t 1 1 ∧
  (∀ i < 32, ∀ j < 32, c'.cell t i j = (cells i j).getD (c.cell t i j) % 2 ^ 32) ∧
  (∀ k, k ≠ t → c'.tiles.getD k (Vector.replicate 32 0) = c.tiles.getD k (Vector.replicate 32 0)) ∧
  ({ c' with tiles := c.tiles, acclive := c.acclive } : Core) = c

/-! ### Sliced instructions (R149, R152, R164) -/

/-- R38, R125: an accumulator instruction at its turn, of the accumulators' owner. -/
theorem accRun_ready {s t : State} {word : Nat} {body : M Unit} (r : s.AccReady) (h : Ends body s () t) :
    Ends (accRun word body) s () t := by
  obtain ⟨⟨enabled, owned, own⟩, vdq, head, free⟩ := r
  refine ends_get_bind ?_
  rw [head]
  exact ends_bind (needAcc_own enabled owned own) (vecRun_ready ⟨rfl, vdq, head, free⟩ h)

/-- The value that a rule for rows gives a cell, if any. -/
def cellValue (row : State → Nat → Option RowResult) (s : State) (i j : Nat) : Option Nat :=
  ((row s i).bind fun cs => cs.find? fun c => c.1 == j).map fun c => c.2.1

section
variable {t : Nat} {rows : List Nat} {row : State → Nat → Option RowResult} {s : State} {c c' : Core}

/-- The cells of rows replaced by what a rule for rows gives. -/
theorem cell_replaced (rule : RowRule row) (r : RowsReplaced t rows (newRow t row s) c c')
    (same : ∀ i, c.row t i = s.core.row t i) {i j : Nat} (hi : i < 32) (hj : j < 32) :
    c'.cell t i j = (if i ∈ rows then cellValue row s i j else none).getD (s.core.cell t i j) % 2 ^ 32 := by
  have whole : s.core.cell t i j % 2 ^ 32 = s.core.cell t i j := Nat.mod_mod _ _
  show cellAt (c'.row t i).toNat j = _
  split
  next mem =>
    rw [r.listed i mem hi, same, newRow, cellValue]
    cases made : row s i with
    | none => exact whole.symm
    | some cs =>
      have columns : ((cs.map fun c => (c.1, c.2.1)).map (·.1)).Nodup := by rw [List.map_map]; exact rule.once s i cs made
      have value : valueAt (cs.map fun c => (c.1, c.2.1)) j = (cs.find? fun c => c.1 == j).map fun c => c.2.1 := by
        rw [valueAt, List.find?_map, Option.map_map]
        rfl
      show cellAt (rowWith _ _).toNat j = _
      rw [cellAt_rowWith columns _ hj, value]
      rfl
  next away =>
    rw [r.other t i away, same]
    exact whole.symm

variable (rule : RowRule row) (h : t < 8)
include rule h

/-- R146, R152: with its tile made live, the rows of an instruction are all done. -/
theorem liveSlices_complete (distinct : rows.Nodup) (quiet : s.quietM (allFlags (rows.flatMap (rowFlags row s)))) :
    ∃ c re, Ends (slices t row rows) (s.onTiles fun c => c.makeLive t) ()
        (s.atSlice c (allFlags (rows.flatMap (rowFlags row s))) re) ∧
      CellsReplaced t (fun i j => if i ∈ rows then cellValue row s i j else none) s.core c := by
  have begins : (s.onTiles fun c => c.makeLive t) = s.atSlice (s.core.makeLive t) 0 s.h.restart := (atSlice_start s _).symm
  have stays (i k : Nat) : (s.core.makeLive t).row k i = s.core.row k i := s.core.row_makeLive h k i
  have flags_same : rowFlags row (s.onTiles fun c => c.makeLive t) = rowFlags row s := by
    rw [begins]
    exact funext fun i => rule.rowFlags_atSlice _ _ (stays i)
  have new_same : newRow t row (s.onTiles fun c => c.makeLive t) = newRow t row s := by
    rw [begins]
    exact funext fun i => rule.newRow_atSlice _ _ (stays i)
  obtain ⟨c, re, ends, replaced⟩ := slices_complete rule h distinct (s := s.onTiles fun c => c.makeLive t)
    (s.core.live_makeLive h) (by rw [flags_same]; exact quiet)
  rw [flags_same] at ends
  rw [new_same] at replaced
  refine ⟨c, re, ends, replaced.live.trans (s.core.acclive_makeLive h),
    fun i hi j hj => cell_replaced rule replaced (fun i => stays i t) hi hj,
    fun k away => (replaced.tiles k away).trans (s.core.tiles_makeLive away), ?_⟩
  have rest := congrArg (fun k : Core => ({ k with tiles := s.core.tiles, acclive := s.core.acclive } : Core)) replaced.rest
  exact rest.trans (s.core.rest_makeLive t)

/-- R152, R159, R164: a sliced instruction of which no row from the pending restart on raises an enabled flag. -/
theorem sliced_completes (r : s.AccReady) (word : Nat) :
    SlicedResult s (finish (sliced word t row) s) t s.sliceRows (row s) := by
  intro quiet
  have distinct : s.sliceRows.Nodup := List.nodup_range.sublist (List.drop_sublist ..)
  obtain ⟨c, re, ends, replaced⟩ := liveSlices_complete rule h distinct quiet
  refine ⟨c, finish_ok ?_, replaced⟩
  refine ends_get_bind (ends_get_bind (ends_get_bind (ends_await_bind ?_ (accRun_ready r ?_))))
  · obtain ⟨-, vdq, -, free⟩ := r
    simp [vdq, free]
  · refine ends_bind (run_modify _ _) (ends_get_bind (ends_bind ends ?_))
    rfl

end

/-! ### The rules of the rows (R152 to R155, R159) -/

section
variable (s : State) {c : Core} (fl : Flags) (re : Option Nat) {i : Nat} (same : ∀ k, c.row k i = s.core.row k i)
include same

/-- On the way, a cell of a row still to come is as it was. -/
theorem cell_atSlice (t j : Nat) : (s.atSlice c fl re).core.cell t i j = s.core.cell t i j :=
  congrArg (fun v : Vec => cellAt v.toNat j) (same t)

end

/-- The columns below a length that a mask selects are distinct, and each is made once. -/
theorem columns_once (n : Nat) (sel : Nat → Bool) (f : Nat → Nat × Flags) :
    ((((List.range n).filter sel).map fun j => (j, f j)).map fun c => c.1).Nodup := by
  have columns : (fun c : Nat × Nat × Flags => c.1) ∘ (fun j => (j, f j)) = id := rfl
  rw [List.map_map, columns, List.map_id]
  exact List.nodup_range.filter sel

theorem outerRow_rule (t : Nat) (neg : Bool) (r c : BitVec 3) (packA packB : Nat → List (Option Num))
    (scaleA scaleB : Nat → Nat → Option Int) : RowRule (outerRow t neg r c packA packB scaleA scaleB) where
  own s k fl re i same := by
    have cell (j : Nat) := cell_atSlice s fl re same t j
    simp only [outerRow, sat_atSlice, cell]
    rfl
  once s i cs made := by
    unfold outerRow at made
    split at made
    · cases made
      exact columns_once _ _ _
    · cases made

theorem addRow_rule (t u : BitVec 3) (y : BitVec 2) : RowRule (addRow t u y) where
  own s k fl re i same := by
    have cell (t j : Nat) := cell_atSlice s fl re same t j
    simp only [addRow, sat_atSlice, cell]
    rfl
  once s i cs made := by
    have columns : (cs.map fun c => c.1) = List.range s.mvcN := by
      cases made
      rw [List.map_map]
      refine (List.map_congr_left fun j _ => ?_).trans (List.map_id _)
      show (ite (y = 0) _ _ : Nat × Nat × Flags).1 = j
      split <;> rfl
    rw [columns]
    exact List.nodup_range

theorem outerIntRow_rule (t : Nat) (clamp : Bool) (r c : BitVec 3) (na nb : Bool) (va vb : Vec) :
    RowRule (outerIntRow t clamp r c na nb va vb) where
  own s k fl re i same := by
    have cell (j : Nat) := cell_atSlice s fl re same t j
    simp only [outerIntRow, cell]
    rfl
  once s i cs made := by
    unfold outerIntRow at made
    split at made
    · cases made
      exact columns_once _ _ _
    · cases made

/-- R150: every element of a dense pack is there. -/
theorem densePack_getD (f : Fmt) {k kk : Nat} (v : Vec) (i : Nat) (h : kk < k) :
    (densePack f k v i).getD kk none = some (f.value (packElem v k i kk)) := by
  simp [densePack, h]

/-- R99, R152: the terms of a cell of mop are the products of the elements of its two packs, all of them there. -/
theorem mopTerms_eq_products (fa fb : Fmt) (k : Nat) (va vb : Vec) (i j : Nat) :
    let a := densePack fa k va i
    let b := densePack fb k vb j
    (((List.range a.length).filterMap fun kk =>
      cellTerm false (noScale i kk) (noScale j kk) (a.getD kk none) ((b.getD kk none).getD .nan)).map (·.1)) =
    (List.range k).map fun kk => (((fa.value (packElem va k i kk)).mul (fb.value (packElem vb k j kk))).1.scale 0) := by
  intro a b
  have length : a.length = k := by simp [a, densePack]
  have terms : (List.range k).filterMap (fun kk =>
      cellTerm false (noScale i kk) (noScale j kk) (a.getD kk none) ((b.getD kk none).getD .nan)) =
      (List.range k).map fun kk =>
        let product := (fa.value (packElem va k i kk)).mul (fb.value (packElem vb k j kk))
        (product.1.scale 0, product.2) := by
    rw [← List.filterMap_eq_map]
    refine List.filterMap_congr fun kk mem => ?_
    have below := List.mem_range.mp mem
    rw [densePack_getD fa va i below, densePack_getD fb vb j below]
    rfl
  rw [length, terms, List.map_map]
  rfl

/-- Settles O40: each form is `sliced` with a rule that reads of the tiles only the row it makes; in a row of mop every
element of a pack is there, so that a cell's terms are the products of all of them. -/
theorem outerProductsComplete : Obligations.OuterProductsComplete := by
  unfold Obligations.OuterProductsComplete
  refine ⟨fun t u y a b r c f s ready => ?_, fun t a b r c f s i => ?_⟩
  · intro fa fb k pa pb sp sa sb ends
    have rows {i : Instr} {row : State → Nat → Option RowResult} {word : Nat} (rule : RowRule row)
        (is : exec i s = finish (sliced word t.toNat row) s) : ends i row := by
      show SlicedResult s (exec i s) t.toNat s.sliceRows (row s)
      rw [is]
      exact sliced_completes rule t.isLt ready word
    exact ⟨rows (outerRow_rule ..) rfl, rows (outerRow_rule ..) rfl, rows (outerRow_rule ..) rfl, rows (outerRow_rule ..) rfl,
      rows (outerRow_rule ..) rfl, rows (addRow_rule ..) rfl⟩
  · intro fa fb k x y row
    refine ⟨fun out => if_neg (by rw [out]; exact Bool.false_ne_true), fun selected => ⟨_, if_pos selected, ?_, ?_⟩⟩
    · rw [List.map_map]
      exact List.map_id _
    · intro e mem
      obtain ⟨j, -, rfl⟩ := List.mem_map.mp mem
      show (Fmt.f32.sum 0 s.sat (_ :: List.map _ _)).1 = _
      rw [mopTerms_eq_products]

/-! ### Integer outer products (R99, R154) -/

theorem clampInt_eq {lo hi i : Int} (h : lo ≤ hi) : clampInt lo hi i = max lo (min hi i) := by
  unfold clampInt
  omega

section
variable (n : Int)

/-- R99: a sum modulo 2^32, read back as a signed number. -/
theorem signExtend_wrap : signExtend (sum32 false n % 2 ^ 32) 32 = (n + 2 ^ 31) % 2 ^ 32 - 2 ^ 31 := by
  rw [sum32, if_neg Bool.false_ne_true, signExtend, wrap]
  omega

/-- R99: a clamped sum. -/
theorem signExtend_clamp : signExtend (sum32 true n % 2 ^ 32) 32 = max (-2 ^ 31) (min (2 ^ 31 - 1) n) := by
  rw [sum32, if_pos rfl, elemClamp, clampInt_eq (by omega), signExtend, wrap]
  omega

end

/-- The results of columns distinct from one another, by column. -/
theorem find?_column (n : Nat) (sel : Nat → Bool) (f : Nat → Nat × Flags) (j : Nat) :
    (((List.range n).filter sel).map fun j => (j, f j)).find? (fun c => c.1 == j) =
      if j < n ∧ sel j = true then some (j, f j) else none := by
  by_cases chosen : j < n ∧ sel j = true
  · have mem : j ∈ (List.range n).filter sel := List.mem_filter.mpr ⟨List.mem_range.mpr chosen.1, chosen.2⟩
    have made : (j, f j) ∈ ((List.range n).filter sel).map fun j => (j, f j) := List.mem_map_of_mem mem
    obtain ⟨e, found⟩ := Option.isSome_iff_exists.mp (List.find?_isSome (p := fun c : Nat × Nat × Flags => c.1 == j).mpr
      ⟨(j, f j), made, beq_self_eq_true j⟩)
    obtain ⟨k, -, rfl⟩ := List.mem_map.mp (List.mem_of_find?_eq_some found)
    have at_j : (k == j) = true := List.find?_some (p := fun c : Nat × Nat × Flags => c.1 == j) found
    rw [found, if_pos chosen, eq_of_beq at_j]
  · rw [if_neg chosen, List.find?_eq_none]
    intro e mem same
    obtain ⟨k, column, rfl⟩ := List.mem_map.mp mem
    have at_j : k = j := eq_of_beq same
    obtain ⟨below, selected⟩ := List.mem_filter.mp column
    exact chosen (at_j ▸ ⟨List.mem_range.mp below, selected⟩)

/-- R154: an element of an integer operand is a byte, natural or signed. -/
theorem packInt_byte {q : Prop} [Decidable q] {natural : Bool} (h : natural = true ↔ q) (v : Vec) (i kk : Nat) :
    packInt natural v i kk = if q then ((v.toNat / 2 ^ (8 * (4 * i + kk)) % 256 : Nat) : Int)
      else signExtend (v.toNat / 2 ^ (8 * (4 * i + kk)) % 256) 8 := by
  have byte : packElem v 4 i kk = v.toNat / 2 ^ (8 * (4 * i + kk)) % 256 := by
    rw [packElem, show 32 * i + 32 / 4 * kk = 8 * (4 * i + kk) by omega]; rfl
  unfold packInt
  rw [byte]
  exact if_congr h rfl rfl

section
variable {s : State} {t : BitVec 3} {a b : BitVec 5} {r c : BitVec 3} {f : BitVec 5} {clamp : Bool}

/-- The row rule of mopi and mopi.sat on the operands of the state. -/
def intRow (s : State) (clamp : Bool) (t : BitVec 3) (a b : BitVec 5) (r c : BitVec 3) (f : BitVec 5) :
    State → Nat → Option RowResult :=
  outerIntRow t.toNat clamp r c (f = 9 || f = 11) (f = 9 || f = 10) (s.vreg a.toNat) (s.vreg b.toNat)

/-- A cell of an integer outer product and its four products, summed exactly. -/
def intSum (s : State) (t : BitVec 3) (a b f : BitVec 5) (i j : Nat) : Int :=
  signExtend (s.core.cell t.toNat i j) 32 + ((List.range 4).map fun kk =>
    packInt (f = 9 || f = 11) (s.vreg a.toNat) i kk * packInt (f = 9 || f = 10) (s.vreg b.toNat) j kk).foldl (· + ·) 0

/-- R154: a selected row holds the sum for each selected column, and no flag. -/
theorem intRow_eq (i : Nat) : intRow s clamp t a b r c f s i =
    if (s.mreg r.toNat).getLsbD i then some (((List.range s.mvcN).filter (s.mreg c.toNat).getLsbD).map fun j =>
      (j, sum32 clamp (intSum s t a b f i j), 0)) else none := rfl

/-- R154: the cells that an integer outer product makes are those of selected rows and columns. -/
theorem intRow_value (i j : Nat) : cellValue (intRow s clamp t a b r c f) s i j =
    if (s.mreg r.toNat).getLsbD i = true ∧ j < s.mvcN ∧ (s.mreg c.toNat).getLsbD j = true then
      some (sum32 clamp (intSum s t a b f i j)) else none := by
  rw [cellValue, intRow_eq]
  by_cases row : (s.mreg r.toNat).getLsbD i = true
  · rw [if_pos row, Option.bind_some, find?_column _ _ fun j => (sum32 clamp (intSum s t a b f i j), 0)]
    by_cases column : j < s.mvcN ∧ (s.mreg c.toNat).getLsbD j = true
    · rw [if_pos column, if_pos ⟨row, column⟩]; rfl
    · rw [if_neg column, if_neg fun all => column all.2]; rfl
  · rw [if_neg row, if_neg fun all => row all.1]; rfl

/-- An integer outer product raises no flag. -/
theorem intRow_flags (rows : List Nat) : allFlags (rows.flatMap (rowFlags (intRow s clamp t a b r c f) s)) = 0 := by
  refine allFlags_zero fun fl mem => ?_
  obtain ⟨i, -, mem⟩ := List.mem_flatMap.mp mem
  obtain ⟨e, made, rfl⟩ := List.mem_map.mp mem
  rw [intRow_eq] at made
  split at made
  · obtain ⟨j, -, rfl⟩ := List.mem_map.mp made
    rfl
  · exact absurd made List.not_mem_nil

/-- R154: every row below MVL is done. -/
theorem outerInt_completes (ready : s.AccReady) (word : Nat) :
    ∃ (k : Core) (re : Option Nat), finish (outerInt word clamp t a b r c f s) s =
        .next ({ s with core := k, h := { s.h with restart := re } } : State).retire ∧
      CellsReplaced t.toNat (fun i j => if i ∈ List.range s.mvlN then cellValue (intRow s clamp t a b r c f) s i j else none)
        s.core k := by
  have quiet : s.quietM (allFlags ((List.range s.mvlN).flatMap (rowFlags (intRow s clamp t a b r c f) s))) := by
    rw [intRow_flags]
    exact BitVec.zero_and
  obtain ⟨k, re, ends, replaced⟩ := liveSlices_complete (row := intRow s clamp t a b r c f) (outerIntRow_rule ..) t.isLt
    List.nodup_range quiet
  rw [intRow_flags, State.atSlice, fcsrFlags_zero] at ends
  exact ⟨k, re, finish_ok (accRun_ready ready (ends_bind (run_modify _ _) ends)), replaced⟩

end

/-- Settles O41: the rows are those of a rule that raises no flag; a cell read back as a signed number is its sum, reduced
or clamped. -/
theorem integerOuterProductsComplete : Obligations.IntegerOuterProductsComplete := by
  unfold Obligations.IntegerOuterProductsComplete
  intro t a b r c f s ready na nb byte x y sum chosen ends
  have sums (i j : Nat) : intSum s t a b f i j = sum i j := by
    have bytes_a := packInt_byte (natural := f = 9 || f = 11) (q := na) (by simp [na]) (s.vreg a.toNat) i
    have bytes_b := packInt_byte (natural := f = 9 || f = 10) (q := nb) (by simp [nb]) (s.vreg b.toNat) j
    simp only [intSum, bytes_a, bytes_b]
    show _ + (0 + x i 0 * y j 0 + x i 1 * y j 1 + x i 2 * y j 2 + x i 3 * y j 3) =
      _ + x i 0 * y j 0 + x i 1 * y j 1 + x i 2 * y j 2 + x i 3 * y j 3
    ring
  have value (clamp : Bool) : (fun i j => if i ∈ List.range s.mvlN then cellValue (intRow s clamp t a b r c f) s i j else none) =
      fun i j => if chosen i j then some (sum32 clamp (sum i j)) else none := by
    funext i j
    rw [intRow_value, sums, ← ite_and]
    exact if_congr (by simp only [chosen, List.mem_range]; tauto) rfl rfl
  have all {i : Instr} {word : Nat} (clamp : Bool) (g : Int → Int) (reads : ∀ n, signExtend (sum32 clamp n % 2 ^ 32) 32 = g n)
      (is : exec i s = finish (outerInt word clamp t a b r c f s) s) : ends (exec i s) g := by
    obtain ⟨k, re, done, replaced⟩ :=
      outerInt_completes (t := t) (a := a) (b := b) (r := r) (c := c) (f := f) (clamp := clamp) ready word
    rw [value] at replaced
    obtain ⟨live, cells, tiles, rest⟩ := replaced
    refine ⟨k, re, is.trans done, live, fun i hi j hj => ?_, tiles, rest⟩
    have cell : k.cell t.toNat i j = (if chosen i j then some (sum32 clamp (sum i j)) else none).getD (s.core.cell t.toNat i j) %
      2 ^ 32 := cells i hi j hj
    refine ⟨fun yes => ?_, fun no => ?_⟩
    · rw [cell, if_pos yes]
      exact reads _
    · rw [cell, if_neg no]
      exact Nat.mod_mod _ _
  exact ⟨all false _ signExtend_wrap rfl, all true _ signExtend_clamp rfl⟩

end Sys2Proof.Machine
end

section
/-! SUPPORT. Scalar floating instructions complete (R112 to R119): results with their flags, the encodings of the formats
that have infinities and NaNs, and the operations that do not round. -/

namespace Sys2Proof.Machine

/-! ### Results with flags (R113) -/

/-- R113: an instruction that raises no enabled flag sets its flags and writes its result. -/
theorem floatResult_completes {s : State} {r : Nat × Flags} (quiet : s.quiet r.2) (d : BitVec 5) :
    finish (floatResult d r) s = .next (s.doneF d r.1 r.2) := by
  have unraised : r.2 &&& (s.setFlags r.2).fte = 0 := by rw [fte_setFlags]; exact quiet
  have raised : Ends (raiseFlags r.2) s () (s.setFlags r.2) := by
    simp only [Ends, raiseFlags, run_modify_bind, run_get_bind]
    rw [if_pos unraised]
    rfl
  exact finish_ok (ends_bind raised rfl)

/-- R117: feq raises nothing. -/
theorem floatCompare_silent (d a b : BitVec 5) (t : BitVec 1) (g : Num → Num → Bool) (s : State) :
    let f := scalarFmt t.toNat
    let v (r : BitVec 5) : Num := f.value (fpRead (s.x r) f)
    floatCompare d a b t false g s =
      finish (floatResult d (bitOf (!((v a).isNan || (v b).isNan) && g (v a) (v b)), 0)) s := by
  intro f v
  unfold floatCompare
  simp only [Bool.and_false, Bool.false_eq_true, if_false]
  rfl

/-- R117: flt and fle raise NV for a NaN. -/
theorem floatCompare_signalling (d a b : BitVec 5) (t : BitVec 1) (g : Num → Num → Bool) (s : State) :
    let f := scalarFmt t.toNat
    let v (r : BitVec 5) : Num := f.value (fpRead (s.x r) f)
    let nan := (v a).isNan || (v b).isNan
    floatCompare d a b t true g s = finish (floatResult d (bitOf (!nan && g (v a) (v b)), if nan then flagNV else 0)) s := by
  intro f v nan
  unfold floatCompare
  simp only [Bool.and_true]
  rfl

/-! ### The order of values (R97, R115) -/

/-- A value below another is no NaN, and neither equal to it nor above it. -/
theorem Num.lt_excludes {x y : Num} (h : x.lt y = true) :
    x.isNan = false ∧ y.isNan = false ∧ y.lt x = false ∧ x.eq y = false ∧ y.eq x = false := by
  cases x with
  | nan => cases h
  | inf s =>
    cases y with
    | nan => cases h
    | inf t => revert s t; decide
    | fin t n k =>
      have neg : s = true := h
      subst neg
      exact ⟨rfl, rfl, rfl, rfl, rfl⟩
  | fin s m e =>
    cases y with
    | nan => cases h
    | inf t =>
      have pos : t = false := by simpa [Num.lt] using h
      subst pos
      exact ⟨rfl, rfl, rfl, rfl, rfl⟩
    | fin t n k =>
      have below := of_decide_eq_true h
      refine ⟨rfl, rfl, ?_, ?_, ?_⟩
      · rw [Num.lt, min_comm]
        exact decide_eq_false below.not_gt
      · exact beq_false_of_ne below.ne
      · rw [Num.eq, min_comm]
        exact beq_false_of_ne below.ne'

/-! ### Encodings (R89, R90) -/

section
variable {f : Fmt} {v : Nat}

/-- The magnitude of an encoding: every bit but the sign (R89). -/
def Fmt.mag (f : Fmt) (v : Nat) : Nat := v % 2 ^ (f.e + f.m)

theorem sign_eq (h : v < 2 ^ f.width) : f.sign v = decide (2 ^ (f.e + f.m) ≤ v) := by
  rw [Fmt.width, show 1 + f.e + f.m = f.e + f.m + 1 by omega] at h
  by_cases top : 2 ^ (f.e + f.m) ≤ v
  · rw [decide_eq_true top]
    exact Nat.testBit_of_two_pow_le_and_two_pow_add_one_gt top h
  · rw [decide_eq_false top]
    exact Nat.testBit_lt_two_pow (Nat.lt_of_not_le top)

/-- The two zeros (R89). -/
theorem zero_cases (h : v < 2 ^ f.width) (zero : f.mag v = 0) :
    v = 0 ∧ f.sign v = false ∨ v = 2 ^ (f.e + f.m) ∧ f.sign v = true := by
  have parts : 2 ^ (f.e + f.m) * (v / 2 ^ (f.e + f.m)) + f.mag v = v := Nat.div_add_mod ..
  have top : v / 2 ^ (f.e + f.m) < 2 := by
    refine Nat.div_lt_of_lt_mul ?_
    rwa [← Nat.pow_succ, Nat.succ_eq_add_one, show f.e + f.m + 1 = f.width by rw [Fmt.width]; omega]
  have pos := Nat.two_pow_pos (f.e + f.m)
  rw [sign_eq h, decide_eq_false_iff_not, decide_eq_true_eq]
  rcases Nat.le_one_iff_eq_zero_or_eq_one.mp (Nat.le_of_lt_succ top) with none | one
  · rw [none] at parts
    exact .inl (by omega)
  · rw [one] at parts
    exact .inr (by omega)

section
variable (ieee : f.nan = .ieee)
include ieee

/-- R89: the value of an encoding by its exponent and mantissa fields. -/
theorem value_fields : f.value v =
    if f.mag v / 2 ^ f.m = 2 ^ f.e - 1 then (if f.mag v % 2 ^ f.m = 0 then .inf (f.sign v) else .nan)
    else if f.mag v / 2 ^ f.m = 0 then .fin (f.sign v) (f.mag v % 2 ^ f.m) f.qmin
    else .fin (f.sign v) (2 ^ f.m + f.mag v % 2 ^ f.m) (f.qmin + (f.mag v / 2 ^ f.m : Nat) - 1) := by
  simp only [Fmt.value, ieee, beq_self_eq_true, Bool.true_and, beq_iff_eq, Bool.and_eq_true, reduceCtorEq, false_and, if_false]
  rfl

/-- R89: the value of an encoding by its magnitude: above that of infinity lie the NaNs, below 2^m the subnormals. -/
theorem value_ieee : f.value v = if f.infBits < f.mag v then .nan else if f.mag v = f.infBits then .inf (f.sign v)
    else if f.mag v < 2 ^ f.m then .fin (f.sign v) (f.mag v) f.qmin
    else .fin (f.sign v) (2 ^ f.m + f.mag v % 2 ^ f.m) (f.qmin + (f.mag v / 2 ^ f.m : Nat) - 1) := by
  have room := Nat.two_pow_pos f.m
  have parts : f.mag v / 2 ^ f.m * 2 ^ f.m + f.mag v % 2 ^ f.m = f.mag v := Nat.div_add_mod' ..
  have ex_lt : f.mag v / 2 ^ f.m < 2 ^ f.e := by
    refine Nat.div_lt_of_lt_mul ?_
    rw [← Nat.pow_add, Nat.add_comm f.m]
    exact Nat.mod_lt _ (Nat.two_pow_pos _)
  have full : 2 ^ f.e - 1 ≤ f.mag v / 2 ^ f.m ↔ f.infBits ≤ f.mag v := Nat.le_div_iff_mul_le room
  have empty : f.mag v / 2 ^ f.m = 0 ↔ f.mag v < 2 ^ f.m := by rw [Nat.div_eq_zero_iff]; omega
  rw [value_fields ieee]
  by_cases special : f.mag v / 2 ^ f.m = 2 ^ f.e - 1
  · rw [if_pos special]
    have least := full.mp special.ge
    have inf : f.mag v % 2 ^ f.m = 0 ↔ f.mag v = f.infBits := by
      rw [special] at parts
      rw [Fmt.infBits]
      omega
    by_cases zero : f.mag v = f.infBits
    · rw [if_pos (inf.mpr zero), if_neg zero.not_gt, if_pos zero]
    · rw [if_neg (mt inf.mp zero), if_pos (by omega)]
  · rw [if_neg special]
    have finite : f.mag v < f.infBits := by
      rw [← not_le, ← full]
      omega
    rw [if_neg finite.not_gt, if_neg finite.ne]
    by_cases sub : f.mag v < 2 ^ f.m
    · rw [if_pos (empty.mpr sub), if_pos sub, Nat.mod_eq_of_lt sub]
    · rw [if_neg (mt empty.mp sub), if_neg sub]

/-- R118: KIND by magnitude. -/
theorem kind_ieee (normal : 2 ^ f.m ≤ f.infBits) : f.kind v =
    (if f.mag v = 0 then 0 else if f.mag v < 2 ^ f.m then 1 else if f.mag v < f.infBits then 2
      else if f.mag v = f.infBits then 3 else 4) + if f.sign v then 8 else 0 := by
  have room := Nat.two_pow_pos f.m
  unfold Fmt.kind
  rw [value_ieee ieee]
  refine congrArg (· + _) ?_
  by_cases nan : f.infBits < f.mag v
  · simp only [if_pos nan, if_neg (show ¬f.mag v = 0 by omega), if_neg (show ¬f.mag v < 2 ^ f.m by omega),
      if_neg nan.not_gt, if_neg nan.ne']
  rw [if_neg nan]
  by_cases inf : f.mag v = f.infBits
  · simp only [if_pos inf, if_neg (show ¬f.mag v = 0 by omega), if_neg (show ¬f.mag v < 2 ^ f.m by omega),
      if_neg inf.not_lt]
  rw [if_neg inf]
  by_cases sub : f.mag v < 2 ^ f.m
  · simp only [if_pos sub]
  · simp only [if_neg sub, if_neg (show ¬f.mag v = 0 by omega), if_pos (show f.mag v < f.infBits by omega),
      if_neg (show ¬2 ^ f.m + f.mag v % 2 ^ f.m = 0 by omega), if_neg (show ¬2 ^ f.m + f.mag v % 2 ^ f.m < 2 ^ f.m by omega)]

/-- The zeros keep their sign (R89). -/
theorem value_zero (normal : 2 ^ f.m ≤ f.infBits) (zero : f.mag v = 0) : f.value v = .fin (f.sign v) 0 f.qmin := by
  have room := Nat.two_pow_pos f.m
  rw [value_ieee ieee, zero, if_neg (by omega), if_neg (by omega), if_pos room]

end
end

/-! ### Minimum and maximum (R115) -/

section
variable {f : Fmt} {x y : Nat} (isMax : Bool)

/-- A NaN beside a number is passed over. -/
theorem minMax_nan_left (nx : (f.value x).isNan = true) (ny : (f.value y).isNan = false) : f.minMax isMax x y = y := by
  simp [Fmt.minMax, nx, ny]

theorem minMax_nan_right (nx : (f.value x).isNan = false) (ny : (f.value y).isNan = true) : f.minMax isMax x y = x := by
  simp [Fmt.minMax, nx, ny]

theorem minMax_nans (nx : (f.value x).isNan = true) (ny : (f.value y).isNan = true) : f.minMax isMax x y = f.canonical := by
  simp [Fmt.minMax, nx, ny]

theorem minMax_lt (h : (f.value x).lt (f.value y) = true) : f.minMax isMax x y = if isMax then y else x := by
  obtain ⟨nx, ny, -, -, -⟩ := Num.lt_excludes h
  simp [Fmt.minMax, nx, ny, h]

theorem minMax_gt (h : (f.value y).lt (f.value x) = true) : f.minMax isMax x y = if isMax then x else y := by
  obtain ⟨ny, nx, notLess, -, notEqual⟩ := Num.lt_excludes h
  simp [Fmt.minMax, nx, ny, notLess, notEqual]

/-- Equal operands give themselves. -/
theorem minMax_same (nx : (f.value x).isNan = false) (same : x = y) : f.minMax isMax x y = x := by
  subst same
  simp [Fmt.minMax, nx]

/-- -0 orders below +0. -/
theorem minMax_zeros (ieee : f.nan = .ieee) (normal : 2 ^ f.m ≤ f.infBits) (hx : x < 2 ^ f.width) (hy : y < 2 ^ f.width)
    (zx : f.mag x = 0) (zy : f.mag y = 0) :
    f.minMax isMax x y = f.signBit (if isMax then f.sign x && f.sign y else f.sign x || f.sign y) := by
  have pos := Nat.two_pow_pos (f.e + f.m)
  have less (s t : Bool) : Num.lt (.fin s 0 f.qmin) (.fin t 0 f.qmin) = false := by simp [Num.lt, Num.scaled]
  have equal (s t : Bool) : Num.eq (.fin s 0 f.qmin) (.fin t 0 f.qmin) = true := by simp [Num.eq, Num.scaled]
  have number (s : Bool) : Num.isNan (.fin s 0 f.qmin) = false := rfl
  simp only [Fmt.minMax, value_zero ieee normal zx, value_zero ieee normal zy, number, less, equal]
  rcases zero_cases hx zx with ⟨rfl, sx⟩ | ⟨rfl, sx⟩ <;> rcases zero_cases hy zy with ⟨rfl, sy⟩ | ⟨rfl, sy⟩ <;>
    cases isMax <;> simp [sx, sy, Fmt.signBit]

end

/-! ### The formats of scalar instructions -/

section
variable (t : BitVec 1)

theorem scalarFmt_ieee : (scalarFmt t.toNat).nan = .ieee := by revert t; decide

theorem scalarFmt_normal_le : 2 ^ (scalarFmt t.toNat).m ≤ (scalarFmt t.toNat).infBits := by revert t; decide

theorem scalarFmt_infBits : (scalarFmt t.toNat).infBits = if t = 0 then 0x7F800000 else 0x7FF0000000000000 := by revert t; decide

theorem scalarFmt_leastNormal : 2 ^ (scalarFmt t.toNat).m = if t = 0 then 0x00800000 else 0x0010000000000000 := by revert t; decide

theorem scalarFmt_top : 2 ^ ((scalarFmt t.toNat).e + (scalarFmt t.toNat).m) = 2 ^ ((if t = 0 then 32 else 64) - 1) := by
  revert t
  decide

theorem scalarFmt_width : (scalarFmt t.toNat).width = if t = 0 then 32 else 64 := by revert t; decide

/-- R112, R115, R116: an instruction on encodings completes in every state. -/
theorem floatBits_completes (d a b : BitVec 5) (g : Fmt → Nat → Nat → Nat) (s : State) :
    let read (r : BitVec 5) : Nat := (s.x r).toNat % 2 ^ (if t = 0 then 32 else 64)
    floatBits d a b t g s = .next (s.doneX d (BitVec.ofNat 64 (g (scalarFmt t.toNat) (read a) (read b)))) := by
  intro read
  simp only [floatBits, fpRead, scalarFmt_width]
  rfl

end

/-- Settles O7: a rounding instruction, a comparison or a conversion is `floatResult`; the others compute on encodings. -/
theorem scalarFloatCompletes : Obligations.ScalarFloatCompletes := by
  unfold Obligations.ScalarFloatCompletes
  refine ⟨?rounding, ?bitwise⟩
  case rounding =>
    intro d a b t s f v ends nan
    have result {r : Nat × Flags} (quiet : s.quiet r.2) := floatResult_completes quiet d
    have narrowed : ends (.fcvtF32F64 d a) (Fmt.f64.convert .f32 s.rm s.sat (s.x a).toNat) := by
      rw [← fpRead_f64]
      exact result
    have equal : ends (.feq d a b t) (bitOf (!nan && (v a).eq (v b)), 0) :=
      fun quiet => (floatCompare_silent d a b t Num.eq s).trans (result quiet)
    have ordered {i : Instr} (g : Num → Num → Bool) (is : exec i s = floatCompare d a b t true g s) :
        ends i (bitOf (!nan && g (v a) (v b)), if nan then flagNV else 0) :=
      fun quiet => (is.trans (floatCompare_signalling d a b t g s)).trans (result quiet)
    exact ⟨result, result, result, result, result, result, result, equal, ordered Num.lt rfl,
      ordered (fun x y => x.lt y || x.eq y) rfl, result, narrowed, result, result, result, result, result, result, result,
      result, result, result, result, result⟩
  case bitwise =>
    intro d a b t s w f x y top done signed
    have ieee : f.nan = .ieee := scalarFmt_ieee t
    have normal : 2 ^ f.m ≤ f.infBits := scalarFmt_normal_le t
    have width : f.width = w := scalarFmt_width t
    have top_eq : 2 ^ (f.e + f.m) = top := scalarFmt_top t
    have mag (v : Nat) : f.mag v = v % top := by rw [Fmt.mag, top_eq]
    have below (r : BitVec 5) : (s.x r).toNat % 2 ^ w < 2 ^ f.width := by
      rw [width]
      exact Nat.mod_lt _ (Nat.two_pow_pos w)
    have sign_x : f.sign x = decide (top ≤ x) := by rw [sign_eq (below a), top_eq]
    have sign_y : f.sign y = decide (top ≤ y) := by rw [sign_eq (below b), top_eq]
    have computes {i : Instr} {c : BitVec 5} (g : Fmt → Nat → Nat → Nat) (is : exec i s = floatBits d a c t g s) :
        done i (g f x ((s.x c).toNat % 2 ^ w)) := is.trans (floatBits_completes t d a c g s)
    have placed (neg : Bool) : f.withSign x neg = signed (x % top + if neg then top else 0) := by
      show f.withSign x neg = if _ then _ else _
      rw [Fmt.withSign, Fmt.signBit, top_eq, Nat.add_comm]
    have zeros (isMax : Bool) (zx : x % top = 0) (zy : y % top = 0) : f.minMax isMax x y =
        if (if isMax then decide (top ≤ x) && decide (top ≤ y) else decide (top ≤ x) || decide (top ≤ y)) then top else 0 := by
      rw [← mag] at zx zy
      rw [minMax_zeros isMax ieee normal (below a) (below b) zx zy, Fmt.signBit, top_eq, sign_x, sign_y]
    refine ⟨?positive, ?inverted, ?copied, ?least, ?greatest, ?kind⟩
    case positive =>
      have is := computes (i := .fabs d a t) (c := 0) (fun f x _ => f.withSign x false) rfl
      rwa [placed] at is
    case inverted =>
      have is := computes (i := .fneg d a t) (c := 0) (fun f x _ => f.withSign x !(f.sign x)) rfl
      rw [placed, sign_x] at is
      simpa only [Bool.not_eq_true', decide_eq_false_iff_not, not_le] using is
    case copied =>
      have is := computes (i := .fsgmv d a b t) (c := b) (fun f x y => f.withSign x (f.sign y)) rfl
      rw [placed, sign_y] at is
      simpa only [decide_eq_true_eq, ← not_lt, ite_not] using is
    case least =>
      refine ⟨_, computes (fun f x y => f.minMax false x y) rfl, minMax_nan_left _, fun ny nx => minMax_nan_right _ nx ny,
        minMax_nans _, minMax_lt _, minMax_gt _, minMax_same _, fun zx zy => ?_⟩
      simpa using zeros false zx zy
    case greatest =>
      refine ⟨_, computes (fun f x y => f.minMax true x y) rfl, minMax_nan_left _, fun ny nx => minMax_nan_right _ nx ny,
        minMax_nans _, minMax_lt _, minMax_gt _, minMax_same _, fun zx zy => ?_⟩
      simpa using zeros true zx zy
    case kind =>
      have is := computes (i := .fkind d a t) (c := 0) (fun f x _ => f.kind x) rfl
      rw [kind_ieee ieee normal, sign_x, mag, scalarFmt_infBits, scalarFmt_leastNormal] at is
      simpa only [decide_eq_true_eq, ← not_lt, ite_not] using is

end Sys2Proof.Machine
end

section
/-! SUPPORT. Scalar integer instructions complete (R108 to R111, R120, R126): readings of registers and results of word
forms as bit vectors, counts of bits, quotients and remainders. -/

namespace Sys2Proof.Machine

/-! ### Long constants and the vector length (R120, R126) -/

theorem widthOf_eq_64 (e : BitVec 3) : widthOf e = 64 ↔ e = 3 := by revert e; decide

/-- Settles O3: the meanings are the states named; dwords are the type code 3. -/
theorem constantsAndVectorLengthComplete : Obligations.ConstantsAndVectorLengthComplete := by
  unfold Obligations.ConstantsAndVectorLengthComplete
  refine ⟨fun d i s => ⟨rfl, rfl⟩, fun d a e s => ?_⟩
  have is : exec (.setvl d a e) s = .next (setVl d a e s).retire := rfl
  rw [is]
  simp only [setVl, widthOf_eq_64]
  rfl

/-! ### Comparisons (R109, R110) -/

theorem flagWord_decide (p : Prop) [Decidable p] : flagWord (decide p) = if p then 1 else 0 := by
  by_cases h : p <;> simp [flagWord, h]

theorem flagWord_not_decide (p : Prop) [Decidable p] : flagWord (!decide p) = if p then 0 else 1 := by
  by_cases h : p <;> simp [flagWord, h]

/-- A choice between two operands that equal operands make alike. -/
theorem choose_lt_eq_le {α : Type} [LinearOrder α] {g : Dword → α} (inj : Function.Injective g) {x y p q : Dword}
    (alike : x = y → p = q) : (if decide (g x < g y) then p else q) = if g x ≤ g y then p else q := by
  rcases lt_trichotomy (g x) (g y) with lt | eq | gt
  · simp [lt, lt.le]
  · simp [eq, alike (inj eq)]
  · simp [gt.not_gt, gt.not_ge]

/-! ### Counts of bits (R109) -/

theorem lt_two_pow_bitLength (m : Nat) : m < 2 ^ bitLength m := by
  unfold bitLength
  split
  · omega
  · exact Nat.lt_log2_self

theorem testBit_bitLength {m : Nat} (h : 0 < bitLength m) : m.testBit (bitLength m - 1) = true := by
  unfold bitLength at h ⊢
  split at h
  · omega
  · rw [if_neg ‹_›]
    exact Nat.testBit_log2 ‹_›

theorem bitLength_le {m n : Nat} (h : m < 2 ^ n) : bitLength m ≤ n := by
  unfold bitLength
  split
  · omega
  · exact (Nat.log2_lt ‹_›).mpr h

/-- Above the leading zeros of a dword there is no bit set; below them the first is. -/
theorem leadingZeros_spec (v : Dword) : let n := leadingZeros v.toNat 64
    n ≤ 64 ∧ (∀ i < n, v.getLsbD (63 - i) = false) ∧ (n < 64 → v.getLsbD (63 - n) = true) := by
  intro n
  have length : n = 64 - bitLength v.toNat := by
    show 64 - bitLength (v.toNat % 2 ^ 64) = _
    rw [Nat.mod_eq_of_lt v.isLt]
  have most := bitLength_le v.isLt
  refine ⟨by omega, fun i below => ?_, fun some_set => ?_⟩
  · exact Nat.testBit_eq_false_of_lt ((lt_two_pow_bitLength _).trans_le (Nat.pow_le_pow_right (by omega) (by omega)))
  · rw [show 63 - n = bitLength v.toNat - 1 by omega]
    exact testBit_bitLength (by omega)

/-- Below the trailing zeros of a dword there is no bit set; the next one is. -/
theorem trailingZeros_spec (v : Dword) : let n := trailingZeros v.toNat 64
    n ≤ 64 ∧ (∀ i < n, v.getLsbD i = false) ∧ (n < 64 → v.getLsbD n = true) := by
  unfold trailingZeros
  cases found : (List.range 64).find? v.toNat.testBit with
  | none =>
    rw [List.find?_range_eq_none] at found
    exact ⟨le_rfl, fun i h => by simpa [BitVec.getLsbD] using found i h, fun h => absurd h (lt_irrefl _)⟩
  | some n =>
    obtain ⟨set, below, clear⟩ := List.find?_range_eq_some.mp found
    exact ⟨(List.mem_range.mp below).le, fun i h => by simpa [BitVec.getLsbD] using clear i h, fun _ => set⟩

theorem popcount_eq (v n : Nat) : popcount v n = ((List.range n).filter v.testBit).length := by
  induction n with
  | zero => rfl
  | succ n ih =>
    rw [popcount, ih, List.range_succ, List.filter_append, List.length_append, Nat.add_comm]
    cases h : v.testBit n <;> simp [bitOf, h]

/-! ### Bytes (R4, R109) -/

theorem natOf_lt (l : List Byte) : natOf l < 2 ^ (8 * l.length) := by
  induction l with
  | nil => exact Nat.one_pos
  | cons b l ih =>
    have byte := b.isLt
    rw [natOf, List.length_cons, show 8 * (l.length + 1) = 8 + 8 * l.length by omega, Nat.pow_add]
    omega

/-- Byte `k` of the number that bytes make up. -/
theorem natOf_byte (l : List Byte) (k : Nat) : natOf l / 2 ^ (8 * k) % 2 ^ 8 = (l.getD k 0).toNat := by
  induction l generalizing k with
  | nil => simp [natOf]
  | cons b l ih =>
    have byte := b.isLt
    cases k with
    | zero =>
      show (b.toNat + 256 * natOf l) / 1 % 256 = b.toNat
      omega
    | succ k =>
      rw [natOf, show 8 * (k + 1) = 8 + 8 * k by omega, Nat.pow_add, ← Nat.div_div_eq_div_mul,
        show (b.toNat + 256 * natOf l) / 2 ^ 8 = natOf l by omega, ih]
      rfl

theorem byteSwap_byte (v : Dword) {i : Nat} (h : i < 8) : bits (byteSwap v) (8 * (7 - i)) 8 = bits v (8 * i) 8 := by
  have fits : natOf (bytesOf 8 v.toNat).reverse < 2 ^ 64 := by simpa using natOf_lt (bytesOf 8 v.toNat).reverse
  have byte : (bytesOf 8 v.toNat).reverse.getD (7 - i) 0 = BitVec.ofNat 8 (v.toNat / 2 ^ (8 * i)) := by
    rw [List.getD_eq_getElem _ _ (by simp; omega), List.getElem_reverse]
    simp [bytesOf, show 8 - 1 - (7 - i) = i by omega]
  rw [bits, byteSwap, BitVec.toNat_ofNat, Nat.mod_eq_of_lt fits, natOf_byte, byte, BitVec.toNat_ofNat]
  rfl

/-! ### Word forms (R108) -/

theorem signExtend_toNat {n : Nat} (x : BitVec n) : signExtend x.toNat n = x.toInt := by
  rw [signExtend, BitVec.toInt_eq_toNat_cond, Nat.mod_eq_of_lt x.isLt]
  refine if_congr ?_ rfl rfl
  cases n with
  | zero => simp [BitVec.of_length_zero]
  | succ n => rw [Nat.add_sub_cancel, Nat.pow_succ']; omega

theorem toNat_ofInt_eq_wrap (n : Nat) (i : Int) : (BitVec.ofInt n i).toNat = wrap i n := by
  rw [BitVec.toNat_ofInt]
  rfl

theorem nread_word (v : Dword) : nread v 32 = (v.truncate 32).toNat := by
  rw [BitVec.truncate, BitVec.toNat_setWidth]
  rfl

/-- R108: the signed reading of bits [31:0]. -/
theorem sread_word (v : Dword) : sread v 32 = (v.truncate 32).toInt := by
  rw [← signExtend_toNat, ← nread_word]
  simp only [sread, nread, signExtend, Nat.mod_mod]

/-- R108: a word form writes its 32-bit result sign-extended. -/
theorem wordResult_eq (i : Int) : wordResult i = (BitVec.ofInt 32 i).signExtend 64 := by
  rw [wordResult, ← toNat_ofInt_eq_wrap, signExtend_toNat]
  rfl

theorem ofInt_toInt_sub {n : Nat} (x y : BitVec n) : BitVec.ofInt n (x.toInt - y.toInt) = x - y :=
  BitVec.eq_of_toInt_eq (by rw [BitVec.toInt_ofInt, BitVec.toInt_sub])

theorem ofNat_shiftLeft {n : Nat} (x : BitVec n) (k : Nat) : BitVec.ofNat n (x.toNat * 2 ^ k) = x <<< k :=
  BitVec.eq_of_toNat_eq (by rw [BitVec.toNat_ofNat, BitVec.toNat_shiftLeft, Nat.shiftLeft_eq])

theorem ofNat_ushiftRight {n : Nat} (x : BitVec n) (k : Nat) : BitVec.ofNat n (x.toNat / 2 ^ k) = x >>> k := by
  refine BitVec.eq_of_toNat_eq ?_
  rw [BitVec.toNat_ofNat, BitVec.toNat_ushiftRight, Nat.shiftRight_eq_div_pow]
  exact Nat.mod_eq_of_lt ((Nat.div_le_self ..).trans_lt x.isLt)

theorem ofInt_sshiftRight {n : Nat} (x : BitVec n) (k : Nat) :
    BitVec.ofInt n (x.toInt / (2 ^ k : Nat)) = x.sshiftRight k := by
  rw [← Int.shiftRight_eq_div_pow, ← BitVec.toInt_sshiftRight, BitVec.ofInt_toInt]

/-! ### Quotients and remainders (R111) -/

section
variable {n : Nat} (x y : BitVec n)

theorem toInt_eq_zero_iff : y.toInt = 0 ↔ y = 0 := by
  rw [← BitVec.toInt_zero (w := n)]
  exact BitVec.toInt_inj

theorem toNat_eq_zero_iff : y.toNat = 0 ↔ y = 0 := BitVec.toNat_inj (y := 0)

/-- R111: the most negative number divided by -1 gives itself, which is what truncation gives modulo 2^n. -/
theorem ofInt_sdiv (pos : 0 < n) : BitVec.ofInt n (sdiv n x.toInt y.toInt) =
    if y = 0 then BitVec.allOnes n else BitVec.ofInt n (x.toInt.tdiv y.toInt) := by
  rw [sdiv]
  by_cases zero : y = 0
  · rw [if_pos ((toInt_eq_zero_iff y).mpr zero), if_pos zero, BitVec.ofInt_neg]
    exact BitVec.neg_one_eq_allOnes
  rw [if_neg (mt (toInt_eq_zero_iff y).mp zero), if_neg zero]
  split
  next overflows =>
    have least : x = BitVec.intMin n := BitVec.eq_of_toInt_eq (by rw [overflows.1, BitVec.toInt_intMin_of_pos pos]; norm_cast)
    rw [overflows.2, Int.tdiv_neg, Int.tdiv_one, BitVec.ofInt_neg, BitVec.ofInt_toInt, least, BitVec.neg_intMin]
  next => rfl

theorem ofInt_srem : BitVec.ofInt n (srem n x.toInt y.toInt) =
    if y = 0 then x else BitVec.ofInt n (x.toInt.tmod y.toInt) := by
  rw [srem]
  by_cases zero : y = 0
  · rw [if_pos ((toInt_eq_zero_iff y).mpr zero), if_pos zero, BitVec.ofInt_toInt]
  rw [if_neg (mt (toInt_eq_zero_iff y).mp zero), if_neg zero]
  split
  next overflows => rw [overflows.2, Int.tmod_neg, Int.tmod_one]
  next => rfl

theorem ofNat_ndiv : BitVec.ofNat n (ndiv n x.toNat y.toNat) =
    if y = 0 then BitVec.allOnes n else BitVec.ofNat n (x.toNat / y.toNat) := by
  rw [ndiv]
  by_cases zero : y = 0
  · rw [if_pos ((toNat_eq_zero_iff y).mpr zero), if_pos zero, ← BitVec.toNat_allOnes, BitVec.ofNat_toNat, BitVec.setWidth_eq]
  · rw [if_neg (mt (toNat_eq_zero_iff y).mp zero), if_neg zero]

theorem ofNat_nrem : BitVec.ofNat n (nrem x.toNat y.toNat) =
    if y = 0 then x else BitVec.ofNat n (x.toNat % y.toNat) := by
  rw [nrem]
  by_cases zero : y = 0
  · rw [if_pos ((toNat_eq_zero_iff y).mpr zero), if_pos zero, BitVec.ofNat_toNat, BitVec.setWidth_eq]
  · rw [if_neg (mt (toNat_eq_zero_iff y).mp zero), if_neg zero]

/-! The bit vectors' own division. -/

theorem ofInt_tdiv_toInt : BitVec.ofInt n (x.toInt.tdiv y.toInt) = x.sdiv y :=
  BitVec.eq_of_toInt_eq (by rw [BitVec.toInt_ofInt, BitVec.toInt_sdiv])

theorem ofInt_tmod_toInt : BitVec.ofInt n (x.toInt.tmod y.toInt) = x.srem y := by
  rw [← BitVec.toInt_srem, BitVec.ofInt_toInt]

theorem ofNat_div_toNat : BitVec.ofNat n (x.toNat / y.toNat) = x.udiv y := by
  refine BitVec.eq_of_toNat_eq ?_
  rw [BitVec.toNat_ofNat, Nat.mod_eq_of_lt ((Nat.div_le_self ..).trans_lt x.isLt)]
  exact BitVec.toNat_udiv.symm

theorem ofNat_mod_toNat : BitVec.ofNat n (x.toNat % y.toNat) = x.umod y := by
  refine BitVec.eq_of_toNat_eq ?_
  rw [BitVec.toNat_ofNat, Nat.mod_eq_of_lt ((Nat.mod_le ..).trans_lt x.isLt)]
  exact BitVec.toNat_umod.symm

end

/-! ### Products (R111) -/

theorem highHalf_natCast (m : Nat) : highHalf m = BitVec.ofNat 64 (m / 2 ^ 64) := by
  rw [highHalf, dwordOf, ← Int.natCast_div, BitVec.ofInt_natCast]

/-! ### Reserved function codes (R59) -/

/-- R111: the function codes of OP 0x0A from 0x0D on are reserved. -/
theorem decodeOp0A_reserved {w : Nat} (h : 13 ≤ w % 256) : decodeOp0A w = .error .reservedFn := by
  unfold decodeOp0A
  split
  case h_14 => rfl
  all_goals omega

theorem decodeWord_op0A_reserved {w : Nat} (major : w / 2 ^ 26 = 0x0A) (h : 13 ≤ w % 256) (v : Nat) :
    decodeWord w v = .error .reservedFn := by
  rw [decodeWord, decodeFields, major]
  simp only [decodeOp0A_reserved h]

/-! ### The instructions -/

/-- A meaning that writes X[d] and nothing else completes in every state (R108). -/
theorem exec_result {i : Instr} {s : State} {d : BitVec 5} {v v' : Dword} (is : exec i s = s.result d v) (value : v = v') :
    exec i s = .next (s.doneX d v') := by
  rw [is, value]
  rfl

/-- Settles O1: each instruction is `State.result`; a comparison or a choice is one of the numbers read, and the counts and
bytes are those of the lemmas above. -/
theorem integerInstructionsComplete : Obligations.IntegerInstructionsComplete := by
  unfold Obligations.IntegerInstructionsComplete
  refine ⟨fun d a b s => ?binary, fun d a s => ?unary, fun d a i n s => ?immediate⟩
  case binary =>
    have signed {p q : Dword} (alike : s.x a = s.x b → p = q) :=
      choose_lt_eq_le (g := BitVec.toInt) (fun _ _ => BitVec.eq_of_toInt_eq) alike
    have natural {p q : Dword} (alike : s.x a = s.x b → p = q) :=
      choose_lt_eq_le (g := BitVec.toNat) (fun _ _ => BitVec.eq_of_toNat_eq) alike
    exact ⟨rfl, rfl, rfl, rfl, rfl, rfl, rfl, rfl, rfl, rfl, rfl, rfl, rfl, exec_result rfl (flagWord_decide _),
      exec_result rfl (flagWord_decide _), exec_result rfl (flagWord_decide _), exec_result rfl (flagWord_not_decide _),
      exec_result rfl (signed id), exec_result rfl (signed Eq.symm), exec_result rfl (natural id),
      exec_result rfl (natural Eq.symm)⟩
  case unary =>
    exact ⟨⟨_, rfl, leadingZeros_spec (s.x a)⟩, ⟨_, rfl, trailingZeros_spec (s.x a)⟩,
      exec_result rfl (congrArg (BitVec.ofNat 64) (popcount_eq _ _)), ⟨_, rfl, fun _ => byteSwap_byte _⟩, rfl, rfl, rfl, rfl⟩
  case immediate =>
    have read : (simm i).toInt = i.toInt := BitVec.toInt_signExtend_of_le (by omega)
    have less : flagWord ((s.x a).slt (simm i)) = if (s.x a).toInt < i.toInt then 1 else 0 := by
      rw [← read]
      exact flagWord_decide _
    have upper : zimm i <<< 16 = BitVec.ofNat 64 (i.toNat * 2 ^ 16) := by
      rw [← ofNat_shiftLeft, zimm, BitVec.zeroExtend, BitVec.toNat_setWidth_of_le (by omega)]
    exact ⟨rfl, rfl, rfl, rfl, exec_result rfl less, exec_result rfl (flagWord_decide _), exec_result rfl upper, rfl, rfl, rfl, rfl⟩

/-- Settles O2: a word form computes on the readings of the low words, and its integer taken modulo 2^32 is the bit vectors'
own operation; the forms of 64 bits are `ofInt_sdiv` and the lemmas beside it. -/
theorem wordAndDivideFormsComplete : Obligations.WordAndDivideFormsComplete := by
  unfold Obligations.WordAndDivideFormsComplete
  refine ⟨fun d a b n s => ?word, fun d a b s => ?dword⟩
  case word =>
    intro lo sh
    have signed {i : Instr} {z : Int} {v : BitVec 32} (is : exec i s = s.result d (wordResult z))
        (value : BitVec.ofInt 32 z = v) : exec i s = .next (s.doneX d (v.signExtend 64)) :=
      exec_result is (by rw [wordResult_eq, value])
    have natural {i : Instr} {z : Nat} {v : BitVec 32} (is : exec i s = s.result d (wordResult z))
        (value : BitVec.ofNat 32 z = v) : exec i s = .next (s.doneX d (v.signExtend 64)) :=
      signed is ((BitVec.ofInt_natCast ..).trans value)
    have read (r : BitVec 5) : sread (s.x r) 32 = (lo r).toInt := sread_word _
    have readNat (r : BitVec 5) : nread (s.x r) 32 = (lo r).toNat := nread_word _
    refine ⟨signed rfl ?_, signed rfl ?_, natural rfl ?_, natural rfl ?_, signed rfl ?_, natural rfl ?_, natural rfl ?_,
      signed rfl ?_, signed rfl ?_, signed rfl ?_, natural rfl ?_, signed rfl ?_, natural rfl ?_⟩ <;> simp only [read, readNat]
    · rw [BitVec.ofInt_add, BitVec.ofInt_toInt, BitVec.ofInt_toInt]
    · exact ofInt_toInt_sub ..
    · exact ofNat_shiftLeft ..
    · exact ofNat_ushiftRight ..
    · exact ofInt_sshiftRight ..
    · exact ofNat_shiftLeft ..
    · exact ofNat_ushiftRight ..
    · exact ofInt_sshiftRight ..
    · rw [BitVec.ofInt_mul, BitVec.ofInt_toInt, BitVec.ofInt_toInt]
    · rw [ofInt_sdiv _ _ (by omega), ofInt_tdiv_toInt]
    · rw [ofNat_ndiv, ofNat_div_toNat]
    · rw [ofInt_srem, ofInt_tmod_toInt]
    · rw [ofNat_nrem, ofNat_mod_toNat]
  case dword =>
    intro sa sb na nb
    exact ⟨rfl, rfl, exec_result rfl (highHalf_natCast (na * nb)), rfl, exec_result rfl (ofInt_sdiv _ _ (by omega)),
      exec_result rfl (ofNat_ndiv ..), exec_result rfl (ofInt_srem ..), exec_result rfl (ofNat_nrem ..),
      fun _ v major reserved => decodeWord_op0A_reserved major reserved v⟩

end Sys2Proof.Machine
end

section
/-! SUPPORT. Vector instructions that raise no flag complete at their turn (R14, R122, R125): what they write to elements
and to the bits of mask registers, and the comparisons among those that raise flags (R124). -/

namespace Sys2Proof.Machine

/-! ### Elements and mask bits put in place without flags (R122) -/

/-- No flag set leaves FCSR (R105). -/
theorem setFlags_zero (s : State) : s.setFlags 0 = s := by rw [State.setFlags, fcsrFlags_zero]

/-- Bits put in place change those bits of the mask register and nothing else; m0 keeps its ones (R28). -/
theorem putMaskBits_sets (s : State) (d : Nat) (es : List Nat) (g : Nat → Bool) :
    ∃ v : Mask, (∀ i < 256, v.getLsbD i = if i ∈ es then g i else (s.mreg d).getLsbD i) ∧
      s.putMaskBits d (es.map fun e => (e, g e)) = s.setM d v := by
  refine ⟨_, fun i hi => ?_, rfl⟩
  rw [BitVec.getLsbD_ofNat, testBit_putBits, decide_eq_true hi, Bool.true_and]
  rfl

/-- The bits that a comparison puts in place are those that its results hold as numbers. -/
theorem maskBits_of_results (es : List Nat) (g : Nat → Bool) (fl : Nat → Flags) :
    ((es.map (elemResult fun i => (bitOf (g i), fl i))).map fun r => (r.e, r.value)).map (fun v => (v.1, v.2 == 1)) =
      es.map fun i => (i, g i) := by
  rw [List.map_map, List.map_map]
  exact List.map_congr_left fun i _ => congrArg (Prod.mk i) ((by decide : ∀ b, (bitOf b == 1) = b) (g i))

section
variable {s : State} {word d : Nat} {ok : Nat → Bool} {body : M Unit} {es : List Nat} (r : s.VecReady ok)
include r

/-- An instruction at its turn that writes `f` to distinct elements and clears VSTART. -/
theorem vectorResult_puts {w : Nat} {f : Nat → Nat} (pos : 0 < w) (small : w ≤ 1024) (distinct : es.Nodup)
    (fits : ∀ e ∈ es, 1024 * d + w * e + w ≤ 32768)
    (h : Ends body s () (s.putElems d w (es.map fun e => (e, f e))).clearVstart) :
    VectorResult s (finish (vecRun word ok body) s) d w es f 0 := by
  obtain ⟨vs, set, puts⟩ := putElems_sets s f pos small distinct fits
  rw [puts] at h
  refine ⟨vs, ?_, set⟩
  rw [setFlags_zero]
  exact finish_ok (vecRun_ready r h)

/-- An instruction at its turn that writes the bits `g` and clears VSTART. -/
theorem maskResult_puts {g : Nat → Bool} (h : Ends body s () (s.putMaskBits d (es.map fun e => (e, g e))).clearVstart) :
    MaskResult s (finish (vecRun word ok body) s) d es g 0 := by
  obtain ⟨v, set, puts⟩ := putMaskBits_sets s d es g
  rw [puts] at h
  refine ⟨v, ?_, set⟩
  rw [setFlags_zero]
  exact finish_ok (vecRun_ready r h)

/-- R124: a comparison at its turn of which no element raises an enabled flag. -/
theorem maskResult_settles {g : Nat → Bool} {fl : Nat → Flags} (quiet : ∀ i ∈ es, s.quiet (fl i))
    (begins : ∀ {u}, Ends (settleElems (fun s vs => s.putMaskBits d (vs.map fun v => (v.1, v.2 == 1)))
      (es.map (elemResult fun i => (bitOf (g i), fl i)))) s () u → Ends body s () u) :
    MaskResult s (finish (vecRun word ok body) s) d es g (allFlags (es.map fl)) := by
  obtain ⟨v, set, puts⟩ := putMaskBits_sets s d es g
  have settled := settleElems_completes (s := s) (put := fun s vs => s.putMaskBits d (vs.map fun v => (v.1, v.2 == 1)))
    (rs := es.map (elemResult fun i => (bitOf (g i), fl i))) (List.forall_mem_map.mpr quiet)
  have flags : (es.map (elemResult fun i => (bitOf (g i), fl i))).map (·.flags) = es.map fl := List.map_map
  rw [maskBits_of_results, flags, puts] at settled
  exact ⟨v, finish_ok (vecRun_ready r (begins settled)), set⟩

/-- R125: a read of vector-side state goes on with nothing in the VDQ. -/
theorem vecIssue_ready : Ends (vecIssue word ok) s () s := by
  obtain ⟨groups, vdq, -, free⟩ := r
  refine ends_bind (needGroups_stands groups) (ends_bind (awaitVdq_empty vdq) (ends_get_bind ?_))
  rw [free]
  rfl

end

/-! ### Element-wise instructions and comparisons -/

section
variable {s : State} {word w : Nat} {d : BitVec 5} {p : BitVec 3}

/-- R122: an element-wise instruction that raises no flag. -/
theorem vecMap_completes {src : List (BitVec 5 × Nat)} {f : State → Nat → Nat} (pos : 0 < w) (small : w ≤ 1024)
    (r : s.Groups d w src) :
    VectorResult s (finish (vecMap word (fun vl => groupsOk vl (some (d, w)) src) p d.toNat w f) s) d.toNat w
      (s.active p) (f s) 0 :=
  vectorResult_puts r pos small (active_distinct s p) (fun _ h => groupsOk_fits r.1 (active_lt h)) rfl

/-- R127: a comparison that raises no flag. -/
theorem vecTest_completes {d : Nat} {ok : Nat → Bool} {f : State → Nat → Bool} (r : s.VecReady ok) :
    MaskResult s (finish (vecTest word ok p d f) s) d (s.active p) (f s) 0 :=
  maskResult_puts r rfl

end

end Sys2Proof.Machine
end

section
/-! SUPPORT. Integer element-wise vector instructions (R127) and their forms with a scalar operand (R131). -/

namespace Sys2Proof.Machine

/-! ### The element operations at one width (R127) -/

section
variable {w x y : Nat}

theorem signExtend_inj (hx : x < 2 ^ w) (hy : y < 2 ^ w) (h : signExtend x w = signExtend y w) : x = y := by
  have read {z : Nat} (hz : z < 2 ^ w) : signExtend z w = (BitVec.ofNat w z).toInt := by
    rw [← signExtend_toNat, BitVec.toNat_ofNat, Nat.mod_eq_of_lt hz]
  rw [read hx, read hy] at h
  simpa [Nat.mod_eq_of_lt hx, Nat.mod_eq_of_lt hy] using congrArg BitVec.toNat (BitVec.eq_of_toInt_eq h)

theorem wrap_natCast (n : Nat) : wrap n w = n % 2 ^ w := by
  rw [wrap, ← Int.natCast_emod, Int.toNat_natCast]

theorem elemSub_eq (hy : y < 2 ^ w) : elemSub w x y = (x + (2 ^ w - y)) % 2 ^ w := by
  rw [elemSub, Nat.add_sub_assoc hy.le]

theorem elemMulh_eq : elemMulh w x y = wrap (signExtend x w * signExtend y w / 2 ^ w) w := by
  rw [elemMulh, Nat.cast_pow, Nat.cast_ofNat]

theorem elemSra_eq : elemSra w x y = wrap (signExtend x w / 2 ^ (y % w)) w := by
  rw [elemSra, Nat.cast_pow, Nat.cast_ofNat]

theorem elemMin_eq : elemMin w x y = if signExtend x w ≤ signExtend y w then x else y := by
  unfold elemMin elemLess
  by_cases le : signExtend x w ≤ signExtend y w
  · simp [le, le.not_gt]
  · simp [le, lt_of_not_ge le]

/-- Equal operands give themselves: the reading as a signed number is one to one. -/
theorem elemMax_eq (hx : x < 2 ^ w) (hy : y < 2 ^ w) :
    elemMax w x y = if signExtend x w ≤ signExtend y w then y else x := by
  unfold elemMax elemLess
  rcases lt_trichotomy (signExtend x w) (signExtend y w) with lt | eq | gt
  · simp [lt, lt.le]
  · simp [signExtend_inj hx hy eq]
  · simp [gt.not_gt, gt.not_ge]

theorem elemClamp_eq (n : Int) :
    elemClamp w n = wrap (max (-(2 ^ (w - 1) : Int)) (min (2 ^ (w - 1) - 1) n)) w := by
  have pos : (0 : Int) < 2 ^ (w - 1) := by positivity
  unfold elemClamp
  rw [Nat.cast_pow, Nat.cast_ofNat, clampInt_eq (by omega)]

theorem leadingZeros_eq (hx : x < 2 ^ w) : leadingZeros x w = if x = 0 then w else w - 1 - Nat.log2 x := by
  unfold leadingZeros bitLength
  rw [Nat.mod_eq_of_lt hx]
  split <;> omega

end

/-! ### The scalar operand (R131) -/

/-- An integer read modulo 2^64 first reads the same modulo a smaller power. -/
theorem wrap_eq_ofInt {w : Nat} (small : w ≤ 64) (i : Int) : wrap i w = (BitVec.ofInt 64 i).toNat % 2 ^ w := by
  have nonneg : 0 ≤ i % ((2 ^ 64 : Nat) : Int) := Int.emod_nonneg _ (by decide)
  have divides : ((2 ^ w : Nat) : Int) ∣ ((2 ^ 64 : Nat) : Int) := Int.natCast_dvd_natCast.mpr (Nat.pow_dvd_pow 2 small)
  rw [BitVec.toNat_ofInt, wrap, ← Int.emod_emod_of_dvd i divides, Int.toNat_emod nonneg (by positivity), Int.toNat_natCast]

/-- The scalar operand of the arithmetic and logic forms: sign-extended where it is an immediate. -/
theorem vxOperand_signed (s : State) (b : BitVec 5) (m : BitVec 1) {w : Nat} (small : w ≤ 64) :
    s.vxOperand b m false w = if m = 0 then (s.x b).toNat % 2 ^ w else (b.signExtend 64).toNat % 2 ^ w := by
  unfold State.vxOperand
  rw [signExtend_toNat, wrap_eq_ofInt small]
  rfl

/-- The shift count: an immediate is not sign-extended. -/
theorem vxOperand_shift (s : State) (b : BitVec 5) (m : BitVec 1) (w : Nat) :
    s.vxOperand b m true w = if m = 0 then (s.x b).toNat % 2 ^ w else b.toNat := rfl

theorem widthOf_le_64 (e : BitVec 3) : widthOf e ≤ 64 := by revert e; decide

/-! ### Forms of one operation (R127, R131) -/

section
variable {s : State} {i : Instr} {word : Nat} {d a b : BitVec 5} {p e : BitVec 3} {f : Nat → Nat}

/-- R127: an instruction on two vectors whose operation gives `f` on operands of the width. -/
theorem vecInt_completes {op : Nat → Nat → Nat → Nat} (is : exec i s = finish (vecInt word d a b p e op) s)
    (gives : ∀ k, s.elem a.toNat (widthOf e) k < 2 ^ widthOf e → s.elem b.toNat (widthOf e) k < 2 ^ widthOf e →
      op (widthOf e) (s.elem a.toNat (widthOf e) k) (s.elem b.toNat (widthOf e) k) = f k)
    (r : s.Groups d (widthOf e) [(a, widthOf e), (b, widthOf e)]) :
    VectorResult s (exec i s) d.toNat (widthOf e) (s.active p) f 0 := by
  rw [is]
  exact (vecMap_completes (widthOf_pos e) (widthOf_le e) r).congr fun k _ => gives k (elem_lt ..) (elem_lt ..)

/-- R127: one on a single vector. -/
theorem vecInt1_completes {op : Nat → Nat → Nat} (is : exec i s = finish (vecInt1 word d a p e op) s)
    (gives : ∀ k, s.elem a.toNat (widthOf e) k < 2 ^ widthOf e → op (widthOf e) (s.elem a.toNat (widthOf e) k) = f k)
    (r : s.Groups d (widthOf e) [(a, widthOf e)]) :
    VectorResult s (exec i s) d.toNat (widthOf e) (s.active p) f 0 := by
  rw [is]
  exact (vecMap_completes (widthOf_pos e) (widthOf_le e) r).congr fun k _ => gives k (elem_lt ..)

/-- R131: one on a vector and the scalar operand. -/
theorem vecIntX_completes {m : BitVec 1} {shift : Bool} {op : Nat → Nat → Nat → Nat}
    (is : exec i s = finish (vecIntX word d a b p e m shift op) s)
    (gives : ∀ k, s.elem a.toNat (widthOf e) k < 2 ^ widthOf e →
      op (widthOf e) (s.elem a.toNat (widthOf e) k) (s.vxOperand b m shift (widthOf e)) = f k)
    (r : s.Groups d (widthOf e) [(a, widthOf e)]) :
    VectorResult s (exec i s) d.toNat (widthOf e) (s.active p) f 0 := by
  rw [is]
  exact (vecMap_completes (widthOf_pos e) (widthOf_le e) r).congr fun k _ => gives k (elem_lt ..)

end

/-- Settles O30: each instruction is `vecInt`, `vecInt1` or `vecIntX` with its operation, which gives the stated value on
operands of its width. -/
theorem vectorIntegerComplete : Obligations.VectorIntegerComplete := by
  unfold Obligations.VectorIntegerComplete
  refine ⟨fun d a b p e s => ?vectors, fun d a b p e m s => ?scalar⟩
  case vectors =>
    intro w x y sx sy clamp two one
    exact ⟨vecInt_completes rfl fun _ _ _ => rfl, vecInt_completes rfl fun _ _ hy => elemSub_eq hy,
      vecInt_completes rfl fun _ _ _ => rfl, vecInt_completes rfl fun _ _ _ => elemMulh_eq,
      vecInt_completes rfl fun _ _ _ => rfl, vecInt_completes rfl fun _ _ _ => rfl, vecInt_completes rfl fun _ _ _ => rfl,
      vecInt_completes rfl fun _ _ _ => rfl, vecInt_completes rfl fun _ _ _ => rfl, vecInt_completes rfl fun _ _ _ => rfl,
      vecInt_completes rfl fun _ _ _ => elemSra_eq, vecInt_completes rfl fun _ _ _ => elemMin_eq,
      vecInt_completes rfl fun _ hx hy => elemMax_eq hx hy, vecInt_completes rfl fun _ _ _ => Nat.min_def ..,
      vecInt_completes rfl fun _ _ _ => Nat.max_def .., vecInt_completes rfl fun _ _ _ => elemClamp_eq _,
      vecInt_completes rfl fun _ _ _ => rfl, vecInt_completes rfl fun _ _ _ => elemClamp_eq _,
      vecInt_completes rfl fun _ _ _ => rfl, vecInt1_completes rfl fun _ _ => wrap_natCast _,
      vecInt1_completes rfl fun _ hx => (elemSub_eq hx).trans (by rw [Nat.zero_add]),
      vecInt1_completes rfl fun _ hx => leadingZeros_eq hx, vecInt1_completes rfl fun _ _ => popcount_eq _ _⟩
  case scalar =>
    intro w x y n form
    have operand : s.vxOperand b m false w = y := vxOperand_signed s b m (widthOf_le_64 e)
    have count : s.vxOperand b m true w % w = n := by rw [vxOperand_shift]
    have below : y < 2 ^ w := by
      show (if m = 0 then _ else _) < _
      split <;> exact Nat.mod_lt _ (Nat.two_pow_pos w)
    have plain {i : Instr} {word : Nat} {op : Nat → Nat → Nat → Nat} {f : Nat → Nat}
        (is : exec i s = finish (vecIntX word d a b p e m false op) s)
        (gives : ∀ k, x k < 2 ^ w → op w (x k) y = f k) : form i f :=
      vecIntX_completes is fun k hx => (congrArg (op w (x k)) operand).trans (gives k hx)
    exact ⟨plain rfl fun _ _ => rfl, plain rfl fun _ _ => elemSub_eq below, plain rfl fun _ hx => elemSub_eq hx,
      plain rfl fun _ _ => rfl, plain rfl fun _ _ => rfl, plain rfl fun _ _ => rfl, plain rfl fun _ _ => rfl,
      vecIntX_completes rfl fun _ _ => by rw [elemSll, count], vecIntX_completes rfl fun _ _ => by rw [elemSrl, count],
      vecIntX_completes rfl fun _ _ => by rw [elemSra_eq, count], plain rfl fun _ _ => elemMin_eq,
      plain rfl fun _ hx => elemMax_eq hx below, fun ready => by rw [← operand]; exact vecTest_completes ready⟩

end Sys2Proof.Machine
end

section
/-! SUPPORT. Comparisons to masks (R127, R130), mask logic and the read-outs of mask registers (R144, R145). -/

namespace Sys2Proof.Machine

/-! ### Comparisons (R127, R130) -/

/-- One flag raised at some of the elements is raised by the instruction where it is at any of them. -/
theorem allFlags_of_any (fl : Flags) (q : Nat → Bool) (es : List Nat) :
    allFlags (es.map fun i => if q i then fl else 0) = if es.any q then fl else 0 := by
  induction es with
  | nil => rfl
  | cons e es ih =>
    rw [List.map_cons, allFlags_cons, ih, List.any_cons]
    cases q e <;> cases es.any q <;> simp

/-- R130: a floating comparison of which a NaN raises NV, where `nv` says so, completes where NV is then not enabled. -/
theorem vecFloatTest_completes {s : State} {word : Nat} {d a b : BitVec 5} {p e : BitVec 3} (nv : Bool)
    (f : Num → Num → Bool) (r : s.VecReady fun vl => groupsOk vl none [(a, widthOf e), (b, widthOf e)]) :
    let v (q : BitVec 5) (i : Nat) : Num := (fmtOf e.toNat).value (s.elem q.toNat (widthOf e) i)
    let fl : Flags := if nv && (s.active p).any (fun i => (v a i).isNan || (v b i).isNan) then flagNV else 0
    s.quiet fl →
      MaskResult s (finish (vecFloatTest word d a b p e nv f) s) d.toNat (s.active p) (fun i => f (v a i) (v b i)) fl := by
  intro v fl quiet
  have raised : allFlags ((s.active p).map fun i => if nv && ((v a i).isNan || (v b i).isNan) then flagNV else 0) = fl := by
    rw [allFlags_of_any]
    cases nv <;> simp [fl]
  have each : ∀ i ∈ s.active p, s.quiet (if nv && ((v a i).isNan || (v b i).isNan) then flagNV else 0) := by
    intro i mem
    split
    next nan =>
      obtain ⟨nv, nan⟩ := Bool.and_eq_true_iff.mp nan
      have any : (s.active p).any (fun i => (v a i).isNan || (v b i).isNan) = true := List.any_eq_true.mpr ⟨i, mem, nan⟩
      simpa [fl, nv, any] using quiet
    next => exact BitVec.zero_and
  rw [← raised]
  exact maskResult_settles r each fun h => ends_get_bind h

/-! ### Mask registers (R144, R145) -/

/-- R144: mask logic writes a whole register. -/
theorem maskLogic_completes {s : State} {i : Instr} {word : Nat} {d : BitVec 5} {f : State → Mask} {v : Mask}
    (r : s.VecReady fun _ => true) (is : exec i s = finish (maskLogic word d f) s) (value : f s = v) :
    exec i s = .next (s.setM d.toNat v).retire := by
  subst value
  exact is.trans (finish_ok (vecRun_ready r rfl))

/-- R145: a read-out writes what it makes of the bits below VL. -/
theorem maskRead_completes {s : State} {i : Instr} {word : Nat} {d a : BitVec 5} {f : Nat → Dword} {v : Dword}
    (r : s.VecReady fun _ => true) (is : exec i s = finish (maskRead word d a f) s) (value : f (s.maskBits a) = v) :
    exec i s = .next (s.doneX d v) := by
  subst value
  exact is.trans (finish_ok (ends_bind (vecIssue_ready r) rfl))

/-- The set bits of a mask register below VL. -/
theorem onesOf_maskBits (s : State) (a : BitVec 5) :
    onesOf (s.maskBits a) 256 = (List.range 256).filter fun i => decide (i < s.vlen) && (s.mreg a.toNat).getLsbD i := by
  refine List.filter_congr fun i _ => ?_
  rw [State.maskBits, Nat.testBit_mod_two_pow]
  rfl

theorem onesOf_eq_nil {v n : Nat} (h : v < 2 ^ n) : onesOf v n = [] ↔ v = 0 := by
  refine ⟨fun none_set => Nat.eq_of_testBit_eq fun i => ?_, fun zero => ?_⟩
  · rw [Nat.zero_testBit]
    by_cases below : i < n
    · simpa using List.filter_eq_nil_iff.mp none_set i (List.mem_range.mpr below)
    · exact Nat.testBit_eq_false_of_lt (h.trans_le (Nat.pow_le_pow_right (by omega) (by omega)))
  · simp [onesOf, zero]

theorem maskBits_lt (s : State) (a : BitVec 5) : s.maskBits a < 2 ^ 256 :=
  (Nat.mod_le ..).trans_lt (s.mreg a.toNat).isLt

/-- Settles O31: the comparisons are `vecTest` and `vecFloatTest`, mask logic is `maskLogic`, and a read-out is a function of the
set bits below VL. -/
theorem vectorMasksComplete : Obligations.VectorMasksComplete := by
  unfold Obligations.VectorMasksComplete
  refine ⟨fun d a b p e s => ?comparisons, fun d a b s => ?registers⟩
  case comparisons =>
    intro w x y sx sy v nan int float ready
    have at_most : int (.vcle d a b p e) fun i => decide (sx i ≤ sy i) := by
      have same : (fun i => decide (sx i ≤ sy i)) = fun i => !elemLess w (y i) (x i) := by
        funext i
        rw [elemLess, ← decide_not]
        exact decide_eq_decide.mpr not_lt.symm
      rw [same]
      exact vecTest_completes ready
    have float_test (nv : Bool) (f : Machine.Num → Machine.Num → Bool) {word : Nat} :=
      vecFloatTest_completes (word := word) (d := d) (p := p) nv f ready
    exact ⟨vecTest_completes ready, vecTest_completes ready, vecTest_completes ready, at_most, vecTest_completes ready,
      vecTest_completes ready, float_test false Num.eq, float_test true Num.lt, float_test true fun x y => x.lt y || x.eq y,
      float_test false fun x y => x.isNan || y.isNan⟩
  case registers =>
    intro ready x y set mask
    have ones : onesOf (s.maskBits a) 256 = set := onesOf_maskBits s a
    have count : popcount (s.maskBits a) 256 = set.length := by rw [popcount_eq, ← ones]; rfl
    have empty : s.maskBits a = 0 ↔ set = [] := by rw [← ones, onesOf_eq_nil (maskBits_lt s a)]
    exact ⟨maskLogic_completes ready rfl rfl, maskLogic_completes ready rfl rfl, maskLogic_completes ready rfl rfl,
      maskLogic_completes ready rfl rfl, maskLogic_completes ready rfl rfl, maskLogic_completes ready rfl rfl,
      maskLogic_completes ready rfl rfl,
      maskRead_completes ready rfl (congrArg (BitVec.ofNat 64) count), maskRead_completes ready rfl (if_congr empty rfl rfl),
      maskRead_completes ready rfl (ones ▸ rfl)⟩

end Sys2Proof.Machine
end

section
/-! SUPPORT. Floating element-wise vector instructions (R124, R128 to R131). -/

namespace Sys2Proof.Machine

/-- An instruction that raises no flag is a flag-capable one of which no element raises any. -/
theorem VectorResult.silent {s : State} {o : Out} {d w : Nat} {es : List Nat} {f : Nat → Nat}
    (h : VectorResult s o d w es f 0) : FloatResult s o d w es fun i => (f i, 0) := by
  intro _
  rw [allFlags_zero (List.forall_mem_map.mpr fun _ _ => rfl)]
  exact h

/-- Settles O32: what rounds is `vecMapF`; minimum, maximum, the sign operations and vfkind raise no flag. -/
theorem vectorFloatComplete : Obligations.VectorFloatComplete := by
  unfold Obligations.VectorFloatComplete
  intro d a b p e s w f x y z v u k m two one
  have rounds {src : List (BitVec 5 × Nat)} {word : Nat} {g : State → Nat → Nat × Flags} :=
    vecMapF_completes (word := word) (d := d) (src := src) (p := p) (f := g) (s := s) (widthOf_pos e) (widthOf_le e)
  have on_bits {src : List (BitVec 5 × Nat)} {word : Nat} {g : State → Nat → Nat} (r : s.Groups d w src) :=
    (vecMap_completes (word := word) (p := p) (f := g) (widthOf_pos e) (widthOf_le e) r).silent
  exact ⟨rounds, rounds, rounds, rounds, rounds, on_bits, on_bits, rounds, rounds, rounds, on_bits, on_bits, on_bits,
    rounds, rounds, rounds, rounds, on_bits, rounds, rounds, rounds⟩

end Sys2Proof.Machine
end

section
/-! SUPPORT. Selections, permutes and moves of elements (R132, R139 to R142). -/

namespace Sys2Proof.Machine

/-! ### Elements that VSTART or the predicate does not choose -/

theorem activeFrom_lt {s : State} {from_ e : Nat} {p : BitVec 3} (h : e ∈ s.activeFrom from_ p) : e < s.vlen :=
  List.mem_range.mp (List.mem_of_mem_filter h)

theorem activeFrom_distinct (s : State) (from_ : Nat) (p : BitVec 3) : (s.activeFrom from_ p).Nodup :=
  List.nodup_range.filter _

/-- m0 selects every element that a mask has a bit for (R28, R122). -/
theorem mem_activeFrom_zero {s : State} {from_ e : Nat} :
    e ∈ s.activeFrom from_ 0 ↔ e ∈ (List.range (min s.vlen 256)).filter fun i => decide (from_ ≤ i) := by
  have ones : s.mreg (0 : BitVec 3).toNat = BitVec.allOnes 256 := rfl
  simp only [State.activeFrom, ones, BitVec.getLsbD_allOnes, List.mem_filter, List.mem_range, Bool.and_eq_true, decide_eq_true_eq]
  omega

/-- The outcome names its elements in any order. -/
theorem VectorResult.of_mem {s : State} {o : Out} {d w : Nat} {es es' : List Nat} {f : Nat → Nat} {fl : Flags}
    (h : VectorResult s o d w es f fl) (same : ∀ e, e ∈ es ↔ e ∈ es') : VectorResult s o d w es' f fl := by
  simpa only [VectorResult, ElementsSet, same] using h

/-- A source group that stands lies within the register file (R69), and so does a destination checked as one. -/
theorem groupsOk_source_fits {vl w : Nat} {d : BitVec 5} (h : groupsOk vl none [(d, w)] = true) {e : Nat} (below : e < vl) :
    1024 * d.toNat + w * e + w ≤ 32768 := by
  cases at_ : groupAt vl (d, w) with
  | none => simp [groupsOk, at_] at h
  | some g => exact groupAt_fits at_ below

/-- The codes below 4 are those of the integers (R56). -/
theorem ite_isFloat {α : Type} (e : BitVec 3) (x y : α) : (if isFloat e then x else y) = if e.toNat < 4 then y else x := by
  unfold isFloat
  by_cases integer : e.toNat < 4
  · rw [if_pos integer, if_neg (by simpa using integer)]
  · rw [if_neg integer, if_pos (by simpa using integer)]

/-! ### The instructions -/

section
variable {s : State} {word : Nat} {d a b : BitVec 5} {p e : BitVec 3}

/-- R139, R140: a permute of the elements that the predicate selects, VSTART ignored. -/
theorem vecPermute_completes {w : Nat} {src : List (BitVec 5 × Nat)} {f : State → Nat → Nat} (pos : 0 < w) (small : w ≤ 1024)
    (r : s.Groups d w src) :
    VectorResult s (finish (vecPermute word (fun vl => groupsOk vl (some (d, w)) src) p d.toNat w f) s) d.toNat w
      (s.activeFrom 0 p) (f s) 0 :=
  vectorResult_puts r pos small (activeFrom_distinct s 0 p) (fun _ h => groupsOk_fits r.1 (activeFrom_lt h)) rfl

/-- R132: vmerge writes every element from VSTART on, the mask choosing between its sources. -/
theorem vecMerge_completes (r : s.Groups d (widthOf e) [(a, widthOf e), (b, widthOf e)]) :
    VectorResult s (finish (vecMerge word d a b p e) s) d.toNat (widthOf e)
      ((List.range (min s.vlen 256)).filter fun i => decide (s.vstartN ≤ i))
      (fun i => if (s.mreg p.toNat).getLsbD i then s.elem a.toNat (widthOf e) i else s.elem b.toNat (widthOf e) i) 0 := by
  have written : VectorResult s (finish (vecMerge word d a b p e) s) d.toNat (widthOf e) (s.activeFrom s.vstartN 0)
      (fun i => s.elem (if (s.mreg p.toNat).getLsbD i then a.toNat else b.toNat) (widthOf e) i) 0 :=
    vectorResult_puts r (widthOf_pos e) (widthOf_le e) (activeFrom_distinct s _ 0)
      (fun _ h => groupsOk_fits r.1 (activeFrom_lt h)) rfl
  exact (written.of_mem fun _ => mem_activeFrom_zero).congr fun i _ => apply_ite (fun q => s.elem q (widthOf e) i) ..

/-- R141: vsqueeze writes every element below VL, those past the packed ones 0. -/
theorem vecSqueeze_completes (r : s.Groups d (widthOf e) [(a, widthOf e)]) :
    VectorResult s (finish (vecSqueeze word d a p e) s) d.toNat (widthOf e) (List.range s.vlen)
      (fun i => ((s.activeFrom 0 p).map (s.elem a.toNat (widthOf e))).getD i 0) 0 :=
  vectorResult_puts r (widthOf_pos e) (widthOf_le e) List.nodup_range (fun _ h => groupsOk_fits r.1 (List.mem_range.mp h)) rfl

/-- R142: vmvx reads an element below VL, as a signed number unless the type is floating. -/
theorem vecMoveX_completes (r : s.VecReady fun vl => groupsOk vl none [(a, widthOf e)]) :
    let v := if (s.x b).toNat < s.vlen then s.elem a.toNat (widthOf e) (s.x b).toNat else 0
    finish (vecMoveX word d a b e) s = .next ((s.setX d
      (if e.toNat < 4 then BitVec.ofInt 64 (signExtend v (widthOf e)) else BitVec.ofNat 64 v)).clearVstart).retire := by
  intro v
  rw [← ite_isFloat]
  exact finish_ok (ends_bind (vecIssue_ready r) rfl)

/-- R142: vmvv writes one element, where it lies below VL. -/
theorem vecMoveV_completes (r : s.VecReady fun vl => groupsOk vl none [(d, widthOf e)]) :
    VectorResult s (finish (vecMoveV word d a b e) s) d.toNat (widthOf e)
      (if (s.x b).toNat < s.vlen then [(s.x b).toNat] else []) (fun _ => (s.x a).toNat % 2 ^ widthOf e) 0 := by
  refine vectorResult_puts r (widthOf_pos e) (widthOf_le e) ?distinct (fun k mem => ?fits) ?ends
  case distinct => split <;> simp
  case fits =>
    split at mem
    next below =>
      rw [List.mem_singleton.mp mem]
      exact groupsOk_source_fits r.1 below
    next => exact absurd mem List.not_mem_nil
  case ends =>
    show Except.ok ((), (if (s.x b).toNat < s.vlen then s.putElem d.toNat (widthOf e) (s.x b).toNat _ else s).clearVstart) = _
    split <;> rfl

end

/-- Settles O37: permutes ignore VSTART, vbcast and vindex do not; the selection and the moves have an end of their own each. -/
theorem vectorMovesComplete : Obligations.VectorMovesComplete := by
  unfold Obligations.VectorMovesComplete
  intro d a b p e s w x at_ all packed k
  have permutes {src : List (BitVec 5 × Nat)} (r : s.Groups d w src) {word : Nat} {f : State → Nat → Nat} :=
    vecPermute_completes (word := word) (p := p) (f := f) (widthOf_pos e) (widthOf_le e) r
  have fills (r : s.Groups d w []) {word : Nat} {f : State → Nat → Nat} :=
    vecMap_completes (word := word) (p := p) (f := f) (widthOf_pos e) (widthOf_le e) r
  exact ⟨vecMerge_completes, fun r => permutes r, fun r => ⟨permutes r, permutes r, vecSqueeze_completes r⟩,
    fun r => ⟨fills r, fills r⟩, vecMoveX_completes, vecMoveV_completes⟩

end Sys2Proof.Machine
end

section
/-! SUPPORT. Matrix lengths (R148): what setml writes, its words, and the trap of a fetched word that decodes to nothing
(R71). -/

namespace Sys2Proof.Machine

/-! ### What setml writes -/

/-- The upper half of a dword is all of it above bit 31. -/
theorem bits_upper (v : Dword) : bits v 32 32 = v.toNat / 2 ^ 32 := by
  have := v.isLt
  unfold bits
  omega

/-- R148: the meaning of setml, its lengths taken from the halves of X[a]. -/
theorem exec_setml (d a : BitVec 5) (s : State) :
    exec (.setml d a) s = .next
      (let r := clampLen ((s.x a).toNat % 2 ^ 32)
       let c := clampLen ((s.x a).toNat / 2 ^ 32)
       let t := s.doneX d (BitVec.ofNat 64 (r + c * 2 ^ 32))
       { t with h := { t.h with mvl := BitVec.ofNat 64 r, mvc := BitVec.ofNat 64 c } }) := by
  have low : bits (s.x a) 0 32 = (s.x a).toNat % 2 ^ 32 := by simp [bits]
  show Host.Outcome.next (setMl d a s).retire = _
  rw [setMl, low, bits_upper]
  rfl

/-! ### Words of setml -/

/-- The word of setml, field by field (R59). -/
theorem encodeWord_setml (d a : BitVec 5) :
    encodeWord (.setml d a) = 0xE0000005 + d.toNat * 2 ^ 21 + a.toNat * 2 ^ 16 := rfl

/-- R148: fn 5 of OP 0x38 is setml with csr 0, and no instruction otherwise. -/
theorem decodeOp38_setml {w : Nat} (fn : w % 16 = 5) : decodeOp38 w =
    if w / 2 ^ 4 % 2 ^ 12 = 0 then .ok (.setml (fieldOf w 21 5) (fieldOf w 16 5)) else .error .unusedField := by
  rw [decodeOp38, fn]
  rfl

theorem decodeWord_setml_reserved {w : Nat} (major : w / 2 ^ 26 = 0x38) (fn : w % 16 = 5) (csr : w / 2 ^ 4 % 2 ^ 12 ≠ 0)
    (v : Nat) : decodeWord w v = .error .unusedField := by
  rw [decodeWord, decodeFields, major]
  simp only [decodeOp38_setml fn, if_neg csr]

/-! ### A word that is no instruction (R71) -/

theorem okWord_of_error {w v : Nat} {r : Reject} (h : decodeWord w v = .error r) : okWord w v = false := by
  refine Bool.eq_false_iff.mpr fun passes => ?_
  obtain ⟨i, decodes⟩ := decodeWord_of_ok passes
  cases h.symm.trans decodes

/-- R71: where the hart's turn is to issue a fetched word that decodes to nothing, the step takes ILLEGAL_INSN. -/
theorem step_undecodable {s t : State} {w v : Nat} {r : Reject} (agenda : s.agenda = []) (event : s.event = none)
    (instant : s.instantBefore s.edge = none) (issues : (s.advance s.edge).atEdge.issues)
    (fetch : fetchPair (s.advance s.edge).atEdge = .ok ((w, v), t)) (ready : t.operandsReady w = true)
    (undecodable : decodeWord w v = .error r) :
    step s = mapNext (fun u => u.focus u.nextCore) (takeTrap { cause := causeIllegal, value := BitVec.ofNat 64 w } t) := by
  have issued : issue (s.advance s.edge).atEdge = takeTrap { cause := causeIllegal, value := BitVec.ofNat 64 w } t := by
    simp only [issue, fetch, ready, okWord_of_error undecodable, Bool.not_true, Bool.false_eq_true, if_false]
  obtain ⟨runs, clocked, area, answer, report, free⟩ := issues
  have edge : hartEdge (s.advance s.edge).atEdge = issue (s.advance s.edge).atEdge := by
    simp only [hartEdge, runs, clocked, area, answer, report, free, bne_self_eq_false, Bool.or_self, Bool.false_eq_true,
      if_false, if_true]
  rw [step, agenda]
  simp only [event, Option.getD_none, turn, instant, edge, issued]

/-- Settles O4: setml's meaning and its words; a word with another csr field decodes to nothing, and traps. -/
theorem matrixLengthsAreSet : Obligations.MatrixLengthsAreSet := by
  unfold Obligations.MatrixLengthsAreSet
  refine ⟨exec_setml, fun d a => ?_, rfl, fun w v major fn csr => decodeWord_setml_reserved major fn csr v,
    fun s t w v agenda event instant issues fetch ready major fn csr => ?_⟩
  · have real : isEvent (.setml d a) = false := beq_eq_false_iff_ne.mpr (by rw [encodeWord_setml]; omega)
    obtain ⟨-, decodes, -⟩ := encodedInstructionsDecode (.setml d a) real rfl
    exact decodes
  · exact step_undecodable agenda event instant issues fetch ready (decodeWord_setml_reserved major fn csr v)

end Sys2Proof.Machine
end

section
/-! SUPPORT. Accumulator moves complete (R146, R157 to R161): the moves between tiles and vector registers, and the
instructions that move tiles to or from memory, as they enter the VDQ and as they go on at its head. -/

namespace Sys2Proof.Machine

/-! ### Moves within the core (R157 to R159) -/

/-- R38, R157: a move at its turn, of the accumulators' owner, changes the state as it says. -/
theorem accMove_completes {s : State} (ready : s.AccReady) (word : Nat) (f : State → State) :
    finish (accMove word f) s = .next (f s).retire :=
  finish_ok (accRun_ready ready (run_modify f s))

/-- Element `j` that accpro makes, with its flags (R158). -/
def State.promoted (s : State) (t : BitVec 3) (y : BitVec 2) (c x : BitVec 5) (j : Nat) : Nat × Flags :=
  if j < s.mvcN ∧ s.core.live t.toNat = true then
    let p := productOf3 (Fmt.f32.value (s.core.cell t.toNat (bits (s.x x) 32 5) j)) (Fmt.f32.value ((s.x x).toNat % 2 ^ 32))
      (Fmt.f32.value (s.elem c.toNat 32 j))
    (((promoteFmt y).round 0 s.sat p.1).1, p.2 ||| ((promoteFmt y).round 0 s.sat p.1).2)
  else (0, 0)

/-- The results of accpro are of 16 or of 8 bits, so that 32 of them lie within one register (R158). -/
theorem promoteFmt_width (y : BitVec 2) : 0 < (promoteFmt y).width ∧ (promoteFmt y).width ≤ 32 := by revert y; decide

/-- R164: flags none of which is enabled are set, and the instruction goes on. -/
theorem ends_setFlags_quietM {s t u : State} {fl : Flags} {m m' : M Unit} (quiet : s.quietM fl)
    (rest : Ends m (s.setFlags fl) () t) :
    Ends (set (s.setFlags fl) >>= fun _ => if fl &&& (s.setFlags fl).mxte = 0 then m else m') u () t := by
  have none_enabled : fl &&& (s.setFlags fl).mxte = 0 := by
    rw [mxte_setFlags]
    exact quiet
  rw [if_pos none_enabled]
  exact rest

/-- R158: accpro with no enabled flag raised writes its elements and sets their flags. -/
theorem accPromote_completes {s : State} (ready : s.AccReady) (word : Nat) (t : BitVec 3) (y : BitVec 2) (d c x : BitVec 5) :
    let fl := allFlags ((List.range 32).map fun j => (s.promoted t y c x j).2)
    s.quietM fl → ∃ vs,
      finish (accPromote word t y d c x) s = .next (({ s with h := { s.h with v := vs } } : State).setFlags fl).retire ∧
      ElementsSet s.h.v vs d.toNat (promoteFmt y).width (List.range 32) (fun j => (s.promoted t y c x j).1) := by
  intro fl quiet
  obtain ⟨pos, small⟩ := promoteFmt_width y
  have fits (j : Nat) (mem : j ∈ List.range 32) :
      1024 * d.toNat + (promoteFmt y).width * j + (promoteFmt y).width ≤ 32768 := by
    have below : (promoteFmt y).width * (j + 1) ≤ 32 * 32 := Nat.mul_le_mul small (List.mem_range.mp mem)
    have := d.isLt
    rw [Nat.mul_succ] at below
    omega
  obtain ⟨vs, elements, puts⟩ := putElems_sets (s.setFlags fl) (fun j => (s.promoted t y c x j).1) pos (by omega)
    List.nodup_range fits
  have flags : ((List.range 32).map fun j => (j, s.promoted t y c x j)).foldl (fun (fl : Flags) r => fl ||| r.2.2) 0 = fl := by
    rw [List.foldl_map]
    exact List.foldl_map.symm
  have values : (((List.range 32).map fun j => (j, s.promoted t y c x j)).map fun r => (r.1, r.2.1)) =
      (List.range 32).map fun j => (j, (s.promoted t y c x j).1) := List.map_map
  refine ⟨vs, finish_ok (accRun_ready ready (ends_get_bind ?_)), elements⟩
  simp only [Bool.and_eq_true, decide_eq_true_eq]
  refine ends_setFlags_quietM (fl := List.foldl _ 0 (List.map (fun j => (j, s.promoted t y c x j)) _)) ?quiet ?puts
  case quiet => rw [flags]; exact quiet
  case puts =>
    rw [flags]
    show Except.ok ((), (s.setFlags fl).putElems _ _ (List.map _ (List.map (fun j => (j, s.promoted t y c x j)) _))) = _
    rw [values, puts]
    rfl

/-! ### Into the VDQ (R14, R40, R160, R161) -/

/-- R14, R40: with room an instruction enters the VDQ as it was captured. -/
theorem enterVdq_room {s : State} (room : s.h.vdq.length < 32) (word : Nat) (held : Bool) : enterVdq word held s =
    .error (.queued { s with h := { s.h with
      vdq := s.h.vdq ++ [.insn { s.captured word with holds := (s.captured word).holds || held }] } }) := by
  simp only [enterVdq, run_get_bind, room, decide_true]
  rfl

section
variable {s t : State} {word cause : Nat} {aligned held : Bool} {va : Dword} {ready : M Bool} {body : Nat → List Vec → M Unit}

/-- R38, R160: an instruction of tiles and memory that is ready enters the VDQ, of the accumulators' owner, with its address
aligned. -/
theorem accMemory_enters (own : s.OwnsAcc) (behind : s.h.head = none) (is_aligned : aligned = true)
    (checked : Ends ready s held t) (room : t.h.vdq.length < 32) :
    finish (accMemory word aligned cause va ready body) s = .next (t.inVdq word held) := by
  obtain ⟨enabled, owned, owner⟩ := own
  have enters : accMemory word aligned cause va ready body s = enterVdq word held t := by
    subst is_aligned
    rw [accMemory, run_get_bind, behind]
    dsimp only
    rw [run_bind_ok (needAcc_own enabled owned owner), Bool.not_true, run_bind_ok (run_trapIf_false cause va s),
      run_bind_ok checked]
  rw [finish, enters, enterVdq_room room]
  rfl

/-- At the head of the VDQ it goes on from how far it has come. -/
theorem accMemory_atHead {q : Head} (first : s.h.head = some q) :
    accMemory word aligned cause va ready body s = body q.done q.rows s := by
  rw [accMemory, run_get_bind, first]

end

/-! ### Rows checked before they are read (R160, R375) -/

/-- R49, R375: no read of a row of a scratchpad traps where no byte is poisoned. -/
theorem rowMayTrap_scratchpad {s : State} (clean : s.pkg.poison = []) {va : Dword} {p : Spot}
    (window : windowOf s.h (s.gang? s.h.gang) va.toNat = .spot p) : Ends (rowMayTrap va) s false s := by
  refine ends_get_bind ?_
  have unpoisoned : (((s.find p).bind (·.loc)).any fun loc => s.pkg.poisoned loc 128) = false := by
    simp [Pkg.poisoned, clean]
  rw [window]
  exact congrArg (fun b => Except.ok (b, s)) unpoisoned

theorem rowsMayTrap_scratchpad {s : State} (clean : s.pkg.poison = []) {rows : List Dword}
    (windows : ∀ r ∈ rows, ∃ p, windowOf s.h (s.gang? s.h.gang) r.toNat = .spot p) : Ends (rowsMayTrap rows) s false s := by
  have each : Ends (rows.mapM rowMayTrap) s (rows.map fun _ => false) s := by
    induction rows with
    | nil => rfl
    | cons r rows ih =>
      obtain ⟨p, window⟩ := windows r (.head _)
      rw [List.mapM_cons]
      exact ends_bind (rowMayTrap_scratchpad clean window) (ends_bind (ih fun r mem => windows r (.tail _ mem)) rfl)
  refine ends_bind each ?_
  have none_traps : (rows.map fun _ => false).any id = false := by simp
  rw [none_traps]
  rfl

/-- R193: with the store buffer empty the rows are checked. -/
theorem rowsReady_checks {s t : State} {rows : List Dword} {held : Bool} (sb : s.h.sb = []) (placed : s.h.placing = false)
    (checked : Ends (rowsMayTrap rows) s held t) : Ends (rowsReady rows) s held t :=
  ends_bind (awaitBuffer_empty sb placed) checked

/-! ### At the head of the VDQ (R160, R161) -/

/-- The state with the head of the VDQ come as far as `done`, the rows `rows` read. -/
def State.headAt (s : State) (done : Nat) (rows : List Vec) : State :=
  { s with h := { s.h with head := s.h.head.map fun e => { e with done := done, rows := rows } } }

theorem run_further (done : Nat) (rows : List Vec) (s : State) : further done rows s = .error (.again (s.headAt done rows)) := rfl

/-- An instruction that is not done keeps what it has done so far. -/
theorem finish_again {m : M Unit} {s t : State} (h : m s = .error (.again t)) : finish m s = .next t := by
  rw [finish, h]

/-- R160, R218: as many stores as remain, or as the store buffer has room for, enter it; then the instruction ends or goes on. -/
theorem placeStores_places {s : State} {n done : Nat} (store : Nat → Dword × Nat) (todo : done < n)
    (room : s.h.sb.length < 32) :
    let k := min (n - done) (32 - s.h.sb.length)
    let w := (List.range k).foldl (fun w i =>
      w.pushStore (store (done + i)).1 8 (BitVec.ofNat 64 (store (done + i)).2) .plain) s
    finish (placeStores n store done) s = .next (if done + k < n then w.headAt (done + k) [] else w.retire) := by
  intro k w
  have some_room : (k != 0) = true := bne_iff_ne.mpr (by omega)
  have runs : placeStores n store done s = (if done + k < n then further (done + k) [] else pure ()) w := by
    show (await (k != 0) >>= fun _ => _) s = _
    rw [some_room]
    rfl
  by_cases more : done + k < n
  · rw [if_pos more] at runs ⊢
    exact finish_again runs
  · rw [if_neg more] at runs ⊢
    exact finish_ok runs

/-- A wait whose condition holds. -/
theorem ends_await {c : Bool} {s : State} (h : c = true) : Ends (await c) s () s := by rw [h]; exact rfl

/-- No response still owes a unit of a row of a tile (R188). -/
def State.rowsHere (s : State) : Prop := ∀ e ∈ s.h.pend, ∀ r k, e.2 ≠ .tile r k

/-- R160: then every row asked for has come. -/
theorem awaitRows_here {s : State} (here : s.rowsHere) : Ends awaitRows s () s := by
  refine ends_get_bind (ends_await (List.all_eq_true.mpr fun e mem => ?_))
  obtain ⟨tag, dest⟩ := e
  cases dest
  case tile r k => exact absurd rfl (here _ mem r k)
  all_goals rfl

end Sys2Proof.Machine
end

section
/-! SUPPORT. Tiles and memory (R160, R161): accst, accsave, accld and accrest at the head of the VDQ, and every accumulator
move. -/

namespace Sys2Proof.Machine

/-! ### What accsave stores and accrest reads (R161) -/

/-- The store `i` of accsave: the header, then the units of each live tile (R161). -/
def Core.saveUnit (c : Core) (va : Dword) (i : Nat) : Dword × Nat :=
  let live := bits c.acclive 0 8
  if i = 0 then (va + 0x8000, live)
  else
    let t := (onesOf live 8).getD ((i - 1) / 512) 0
    c.unit t (contiguous va 4096 t) ((i - 1) % 512)

/-- The tiles that the header read by accrest names live. -/
def savedTiles (rows : List Vec) : List Nat := onesOf ((rows.getD 0 0).toNat % 256) 8

/-- Where row `k` of the saved tiles lies. -/
def savedRow (va : Dword) (rows : List Vec) (k : Nat) : Dword :=
  contiguous (contiguous va 4096 ((savedTiles rows).getD (k / 32) 0)) 128 (k % 32)

/-- The core with every saved tile put in place from the rows read. -/
def Core.restored (c : Core) (rows : List Vec) : Core :=
  { (List.range (savedTiles rows).length).foldl
      (fun k i => k.putTile ((savedTiles rows).getD i 0) ((rows.drop (1 + 32 * i)).take 32)) c with
    acclive := BitVec.ofNat 64 ((rows.getD 0 0).toNat % 256) }

/-- accrest once its rows are checked: the next row, or the end. -/
def restoreNext (va : Dword) (done : Nat) (rows : List Vec) : M Unit :=
  if done ≤ 32 * (savedTiles rows).length then do
    let row ← readRow done (savedRow va rows (done - 1)) 16
    further (done + 1) (rows ++ [row])
  else modify fun s => s.onTiles fun c => c.restored rows

/-- The state with the check of its rows noted at the head: whether the scalar pipeline issues nothing past it (R163, R375). -/
def State.rowsChecked (s : State) (word : Nat) (held : Bool) : State :=
  { s with h := { s.h with head := s.h.head.map fun e => { e with holds := s.holdsIssue word || held } } }

/-- The state in which accrest goes on past its header: its rows are checked as it does so for the first time (R375). -/
def State.GoesOn (s : State) (word : Nat) (va : Dword) (q : Head) (u : State) : Prop :=
  if q.done = 1 then
    ∃ v held, Ends (rowsMayTrap ((List.range (32 * (savedTiles q.rows).length)).map (savedRow va q.rows))) s held v ∧
      u = v.rowsChecked word held
  else u = s

section
variable {s w : State} {q : Head} (first : s.h.head = some q) (word : Nat) (t : BitVec 3) (va : Dword)
include first

/-! ### Stores of tiles (R160, R161) -/

/-- R160: accst at the head places the units of its tile. -/
theorem accStore_atHead : finish (accStore word t va) s = finish (placeStores 512 (s.core.unit t.toNat va) q.done) s := by
  rw [finish, accStore, accMemory_atHead first]
  rfl

/-- R161: accsave at the head places the header and the units of the live tiles. -/
theorem accSave_atHead : finish (accSave word va) s =
    finish (placeStores (1 + 512 * (onesOf (bits s.core.acclive 0 8) 8).length) (s.core.saveUnit va) q.done) s := by
  rw [finish, accSave, accMemory_atHead first]
  rfl

/-! ### accld (R160) -/

theorem accLoad_reads {row : Vec} (more : q.done < 32) (read : Ends (readRow q.done (contiguous va 128 q.done) 16) s row w) :
    finish (accLoad word t va) s = .next (w.headAt (q.done + 1) (q.rows ++ [row])) := by
  refine finish_again ?_
  rw [accLoad, accMemory_atHead first, if_pos more]
  exact run_bind_ok read _

theorem accLoad_ends (all : q.done = 32) (here : s.rowsHere) :
    finish (accLoad word t va) s = .next ({ s with core := s.core.putTile t.toNat q.rows } : State).retire := by
  refine finish_ok ?_
  rw [Ends, accLoad, accMemory_atHead first, if_neg (by omega), run_bind_ok (awaitRows_here here)]
  rfl

/-! ### accrest (R161) -/

theorem accRestore_readsHeader {row : Vec} (start : q.done = 0) (read : Ends (readRow 0 (va + 0x8000) 1) s row w) :
    finish (accRestore word va) s = .next (w.headAt 1 [row]) := by
  refine finish_again ?_
  rw [accRestore, accMemory_atHead first, if_pos start]
  exact run_bind_ok read _

/-- R161, R375: past its header accrest goes on from the check of its rows. -/
theorem accRestore_goesOn {u : State} (later : 0 < q.done) (here : s.rowsHere) (checked : s.GoesOn word va q u) :
    accRestore word va s = restoreNext va q.done q.rows u := by
  rw [accRestore, accMemory_atHead first, if_neg (by omega), run_bind_ok (awaitRows_here here)]
  unfold State.GoesOn at checked
  by_cases once : q.done = 1
  · rw [if_pos once] at checked ⊢
    obtain ⟨v, held, checks, rfl⟩ := checked
    exact run_bind_ok checks _
  · rw [if_neg once] at checked ⊢
    rw [checked]
    rfl

theorem accRestore_reads {u : State} {row : Vec} (later : 0 < q.done) (here : s.rowsHere) (checked : s.GoesOn word va q u)
    (more : q.done ≤ 32 * (savedTiles q.rows).length)
    (read : Ends (readRow q.done (savedRow va q.rows (q.done - 1)) 16) u row w) :
    finish (accRestore word va) s = .next (w.headAt (q.done + 1) (q.rows ++ [row])) := by
  refine finish_again ((accRestore_goesOn first word va later here checked).trans ?_)
  rw [restoreNext, if_pos more]
  exact run_bind_ok read _

theorem accRestore_ends {u : State} (later : 0 < q.done) (here : s.rowsHere) (checked : s.GoesOn word va q u)
    (all : 32 * (savedTiles q.rows).length < q.done) :
    finish (accRestore word va) s = .next ({ u with core := u.core.restored q.rows } : State).retire := by
  refine finish_ok ((accRestore_goesOn first word va later here checked).trans ?_)
  rw [restoreNext, if_neg (by omega)]
  rfl

end

/-! ### The obligation -/

section
variable {s : State} {i : Instr} {va : Dword} {al cause word : Nat} {body : Nat → List Vec → M Unit} (own : s.OwnsAcc)
include own

/-- R160: a store of tiles enters the VDQ with its address aligned. -/
theorem accMemory_storeEnters (is : exec i s = finish (accMemory word (va.toNat % al == 0) cause va (pure false) body) s)
    (aligned : va.toNat % al = 0) (behind : s.h.head = none) (room : s.h.vdq.length < 32) :
    exec i s = .next (s.inVdq word false) :=
  is.trans (accMemory_enters own behind (beq_iff_eq.mpr aligned) (run_pure false s) room)

/-- R160, R161, R193: a load of tiles enters it with the store buffer empty and the rows checked that it is known to read;
rows of a scratchpad need no check where no byte is poisoned. -/
theorem accMemory_loadEnters {rows : List Dword} {waits : Bool} {ready : M Bool}
    (is : exec i s = finish (accMemory word (va.toNat % al == 0) cause va ready body) s)
    (checks : ∀ held u, Ends (rowsReady rows) s held u → Ends ready s (held || waits) u)
    (aligned : va.toNat % al = 0) (behind : s.h.head = none) (sb : s.h.sb = []) (placed : s.h.placing = false) :
    (∀ held u, Ends (rowsMayTrap rows) s held u → u.h.vdq.length < 32 → exec i s = .next (u.inVdq word (held || waits))) ∧
    (s.h.vdq.length < 32 → s.pkg.poison = [] →
      (∀ r ∈ rows, ∃ p, windowOf s.h (s.gang? s.h.gang) r.toNat = .spot p) → exec i s = .next (s.inVdq word waits)) := by
  have enters (held : Bool) (u : State) (checked : Ends (rowsMayTrap rows) s held u) (room : u.h.vdq.length < 32) :
      exec i s = .next (u.inVdq word (held || waits)) :=
    is.trans (accMemory_enters own behind (beq_iff_eq.mpr aligned) (checks held u (rowsReady_checks sb placed checked)) room)
  exact ⟨enters, fun room clean windows => enters false s (rowsMayTrap_scratchpad clean windows) room⟩

end

/-- Settles O42: the moves are done at their turn; those of tiles and memory enter the VDQ by `accMemory`, and at its head
each goes on by the lemma of its own. -/
theorem accumulatorMovesComplete : Obligations.AccumulatorMovesComplete := by
  unfold Obligations.AccumulatorMovesComplete
  intro t u y d a b c x s own i va field enters gathers at_ live unit places rowsHere
  refine ⟨fun ready => ?moves, accMemory_loadEnters own rfl ?load, accMemory_loadEnters own rfl ?restore,
    accMemory_storeEnters own rfl, accMemory_storeEnters own rfl, fun q first todo room => ?store, fun q first todo room => ?save,
    fun q first => ?atHead⟩
  case moves =>
    exact ⟨accMove_completes ready _ _, accMove_completes ready _ _, accMove_completes ready _ _, accMove_completes ready _ _,
      accPromote_completes ready _ t y d c x⟩
  case load =>
    intro held u ready
    rw [Bool.or_false]
    exact ready
  case restore =>
    intro held u ready
    rw [Bool.or_true]
    exact ends_bind ready (run_pure true u)
  case store => exact (accStore_atHead first _ t va).trans (placeStores_places _ todo room)
  case save => exact (accSave_atHead first _ va).trans (placeStores_places _ todo room)
  case atHead =>
    exact ⟨fun row w more read => accLoad_reads first _ t va more read, accLoad_ends first _ t va,
      fun row w start read => accRestore_readsHeader first _ va start read, fun later here u checked =>
      ⟨fun row w more read => accRestore_reads first _ va later here checked more read,
        fun all => accRestore_ends first _ va later here checked all⟩⟩

end Sys2Proof.Machine
end

section
/-! SUPPORT. Poison at locations beyond those that a unit's name can hold (R395, R396). -/

namespace Sys2Proof.Machine

/-- The name of a unit holds a location below 2^80, so no unit reaches far beyond that. -/
theorem unitMeets_beyond {loc : Nat} (beyond : 2 ^ 80 + 32 ≤ loc) (u n : Nat) : unitMeets u loc n = false := by
  have base : unitBase u < 2 ^ 80 := Nat.mod_lt _ (Nat.two_pow_pos 80)
  have size : unitSize u ≤ 32 := by
    unfold unitSize
    split <;> decide
  have ends : ¬loc < unitBase u + unitSize u := by omega
  simp [unitMeets, ends]

/-- A location there never counts as poisoned. -/
theorem poisoned_beyond {loc : Nat} (beyond : 2 ^ 80 + 32 ≤ loc) (p : Pkg) (n : Nat) : p.poisoned loc n = false := by
  simp [Pkg.poisoned, unitMeets_beyond beyond]

/-- Refutes O51: nothing bounds the numbers of the remapped rows. Row 2^80 of controller 0 begins at location 24576 * 2^80,
which the name of a unit cannot hold, so the fence of a lost remap table that names it leaves it unpoisoned. -/
theorem not_reliabilityEventsComplete : ¬ Obligations.ReliabilityEventsComplete := by
  unfold Obligations.ReliabilityEventsComplete
  intro h
  obtain ⟨-, -, -, -, -, -, reload, -⟩ := h State.reset
  obtain ⟨-, t, -, -, poisoned⟩ := reload 0 0 [2 ^ 80] (by decide) (by decide)
  have row : t.pkg.poisoned (rowLoc 0 0 (2 ^ 80)) 256 = true := poisoned _ (List.mem_singleton_self _)
  have beyond : 2 ^ 80 + 32 ≤ rowLoc 0 0 (2 ^ 80) := by decide
  rw [poisoned_beyond beyond] at row
  cases row

end Sys2Proof.Machine
end

section
/-! SUPPORT. System instructions (R175, R360, R366, R387, R390, R391, R394): what fence.i, preempt, gkill, sfqpop, tlbinv,
hinv and halt leave once they may run. -/

namespace Sys2Proof.Machine

/-! ### Waits that are over (R198, R236, R379) -/

theorem awaitPerformed_settled {s : State} (h : s.settled) : Ends awaitPerformed s () s := by
  obtain ⟨sb, placing, mine, waiting, resps⟩ := h
  refine ends_bind (awaitBuffer_empty sb placing) (ends_get_bind (ends_await ?_))
  simpa [mine] using ⟨waiting, resps⟩

theorem awaitApplied_applied {s : State} (h : s.applied) : Ends awaitApplied s () s := by
  obtain ⟨settled, held⟩ := h
  refine ends_bind (awaitPerformed_settled settled) (ends_get_bind (ends_await ?_))
  simpa using held

section
variable {s u w : State} {word : Nat} {a : Dword}

/-- A check that finds nothing lets the rest go on. -/
theorem ends_trapIf_bind {β : Type} {b : Bool} {cause : Nat} {value : Dword} {f : Unit → M β} {x : β} (h : b = false)
    (rest : Ends (f ()) s x u) : Ends (trapIf b cause value >>= f) s x u := by
  subst h
  exact rest

/-! ### Fetch coherence and halts (R175, R394) -/

/-- R175: fence.i drops the core's instruction cache, with the errors in it. -/
theorem fenceFetch_ends (vdq : s.h.vdq = []) (settled : s.settled) : Ends fenceFetch s () { s with
    core := { s.core with icache := [] }, pkg := s.pkg.filledL1 s.core.id fun _ => true } :=
  ends_bind (awaitVdq_empty vdq) (ends_bind (awaitPerformed_settled settled) rfl)

/-- R394: halt stops the hart, with an event. -/
theorem haltHart_ends (priv : s.h.priv = .machine) (sb : s.h.sb = []) (placing : s.h.placing = false) :
    Ends (haltHart word) s () { s with
      h := { s.h with status := .halted }
      pkg := s.pkg.logEvent (dieOfCore s.core.id) 0x10 s.core.id s.h.pc.toNat 0 } :=
  ends_bind (needPriv_held (by rw [priv]) word) (ends_bind (awaitBuffer_empty sb placing) rfl)

/-! ### Records of the save area (R381, R390) -/

/-- With none in the save area, the rest of the queue stays. -/
theorem dropFault_queued {r : SfRecord} {rest : List SfRecord} (sfq : s.h.sfq = r :: rest) (saved : s.savedFaults s.h = some []) :
    s.dropFault = some { s with h := { s.h with sfq := rest } } := by
  simp [State.dropFault, saved, sfq]

/-- The oldest of the save area's records moves into the queue. -/
theorem dropFault_refilled {r q : SfRecord} {rest more : List SfRecord} (sfq : s.h.sfq = r :: rest)
    (saved : s.savedFaults s.h = some (q :: more)) :
    s.dropFault = ({ s with h := { s.h with sfq := rest ++ [q] } } : State).putFaults s.h more := by
  simp [State.dropFault, saved, sfq]

section
variable (priv : s.h.priv ≠ .user)
include priv

/-! ### preempt (R387) -/

/-- R387: preempt without a notice only retires. -/
theorem preemptSelf_unnoticed (quiet : ∀ e ∈ s.cores, e.2.present = true → e.2.gang = s.h.gang → e.2.notice = false) :
    Ends (preemptSelf word) s () s.retire := by
  refine ends_bind (needPriv_held (code_supervisor_le priv) word) ?_
  have noticed : (s.cores.any fun e => e.2.present && e.2.gang == s.h.gang && e.2.notice) = false := by
    simpa using quiet
  rw [Ends, run_get_bind, noticed]
  rfl

/-- R387: preempt under a notice clears it and parks the gang. -/
theorem preemptSelf_noticed (noticed : ∃ e ∈ s.cores, e.2.present = true ∧ e.2.gang = s.h.gang ∧ e.2.notice = true)
    (clears : s.retire.clearNotice s.h.gang = some u) : Ends (preemptSelf word) s () (u.preemptGang s.h.gang) := by
  refine ends_bind (needPriv_held (code_supervisor_le priv) word) ?_
  have stands : (s.cores.any fun e => e.2.present && e.2.gang == s.h.gang && e.2.notice) = true := by
    simpa [and_assoc] using noticed
  rw [Ends, run_get_bind, stands]
  exact ends_bind (t := s.retire) rfl (ends_bind (ends_orStop.mpr clears) rfl)

/-! ### gkill (R391) -/

/-- R391: gkill is over once the gangs that it names are killed and none of them goes on. -/
theorem killGangs_ends (legal : bits a 50 14 = 0)
    (own : s.h.priv = .supervisor → ∀ c, s.seenContext (bits a 32 16) = some c → c.tid = bits s.h.tid 0 12)
    (kills : Ends ((s.named a).forM fun g => orStop fun s => s.killGang g.id (some a)) s () w)
    (ended : ∀ k ∈ w.named a, k.discard = false ∧ k.phase ≠ .parking ∧ w.issuing k = false) : Ends (killGangs word a) s () w := by
  have wellFormed : (bits a 50 14 != 0) = false := by simp [legal]
  have stopped : ((w.named a).any fun g => g.discard || g.phase == .parking || w.issuing g) = false := by
    simpa [or_assoc] using ended
  have rest : Ends (do
      (s.named a).forM fun g => orStop fun s => s.killGang g.id (some a)
      let s ← get
      if (s.named a).any fun g => g.discard || g.phase == .parking || s.issuing g then again else pure ()) s () w :=
    ends_bind kills (ends_get_bind (by rw [stopped]; rfl))
  refine ends_bind (needPriv_held (code_supervisor_le priv) word) (ends_trapIf_bind wellFormed (ends_get_bind ?_))
  by_cases supervisor : s.h.priv = .supervisor
  · have tenant : ((s.seenContext (bits a 32 16)).any fun c => c.tid != bits s.h.tid 0 12) = false := by
      simpa [Option.any_eq_false] using own supervisor
    rw [if_pos supervisor]
    exact ends_trapIf_bind tenant rest
  · rw [if_neg supervisor]
    exact rest

/-! ### sfqpop (R390) -/

theorem popFault_empty (d : BitVec 5) (sfq : s.h.sfq = []) : Ends (popFault word d) s () (s.setX d 0) := by
  refine ends_bind (needPriv_held (code_supervisor_le priv) word) (ends_get_bind ?_)
  rw [sfq]
  rfl

/-- R390: the oldest record is in EVAL and X[d] once it has left the queue. -/
theorem popFault_ends (d : BitVec 5) {r : SfRecord} {rest : List SfRecord} (sfq : s.h.sfq = r :: rest)
    (drops : s.dropFault = some u) :
    Ends (popFault word d) s () (({ u with h := { u.h with eval := r.va } } : State).setX d r.word1) := by
  refine ends_bind (needPriv_held (code_supervisor_le priv) word) (ends_get_bind ?_)
  rw [sfq]
  exact ends_bind (ends_orStop.mpr drops) rfl

/-! ### Invalidation (R360, R366) -/

/-- R360: tlbinv is over once no access uses a translation that it has dropped. -/
theorem invalidate_ends {k : Inval} (named : invalOf a = some k) (machine : k.machine = true → s.h.priv = .machine)
    (pend : s.h.pend = []) (applied : s.applied) (unused : (s.dropTranslations k).noneUses k = true) :
    Ends (invalidate word a) s () (s.dropTranslations k) := by
  have permitted : (k.machine && s.h.priv != .machine) = false := by simpa using machine
  have loaded : s.h.pend.isEmpty = true := by rw [pend]; rfl
  refine ends_bind (needPriv_held (code_supervisor_le priv) word) ?_
  rw [named]
  refine ends_get_bind (ends_trapIf_bind permitted (ends_await_bind loaded (ends_bind (awaitApplied_applied applied)
    (ends_bind (t := s.dropTranslations k) rfl (ends_get_bind ?_)))))
  rw [if_pos unused]
  rfl

/-- R366: hinv is over once no copy of the context uses a handle that it names. -/
theorem invalidateHandles_ends (low : bits a 17 15 = 0) (high : bits a 48 16 = 0)
    (number : if bit a 16 then bits a 0 16 = 0 else bits a 0 16 < 0xFFF0) (applied : s.applied)
    (unused : ∀ c ∈ s.pkg.copies, c.ctx = bits a 32 16 → c.uses (if bit a 16 then none else some (bits a 0 16)) = false) :
    Ends (invalidateHandles word a) s () s := by
  have legal : (bits a 17 15 != 0 || bits a 48 16 != 0 ||
      (if bit a 16 then bits a 0 16 != 0 else decide (0xFFF0 ≤ bits a 0 16))) = false := by
    cases all : bit a 16 <;> simpa [low, high, all] using number
  refine ends_bind (needPriv_held (code_supervisor_le priv) word) (ends_trapIf_bind legal
    (ends_bind (awaitApplied_applied applied) (ends_get_bind (ends_await ?_))))
  simpa using unused

end
end

/-- No translation that a descriptor names is left in the core's TLB. -/
theorem dropTranslations_drops (s : State) (k : Inval) : ∀ e ∈ (s.dropTranslations k).core.tlb, k.drops e = false :=
  fun e h => by simpa using (List.mem_filter.mp h).2

/-! ### The obligation -/

/-- Settles O29: each instruction's own computation ends in the state named. -/
theorem systemInstructionsComplete : Obligations.SystemInstructionsComplete := by
  unfold Obligations.SystemInstructionsComplete
  intro d a s
  refine ⟨fun vdq settled => finish_ok (fenceFetch_ends vdq settled), fun priv quiet => finishAt_ok (preemptSelf_unnoticed priv quiet),
    fun u priv noticed clears => finishAt_ok (preemptSelf_noticed priv noticed clears), fun priv legal own => ⟨?_, ?_⟩,
    fun priv => ⟨fun sfq => finish_ok (popFault_empty priv d sfq), fun r rest sfq => ⟨fun saved => ?_, fun q more u saved puts => ?_⟩⟩,
    fun k priv named machine pend applied unused =>
      ⟨finish_ok (invalidate_ends priv named machine pend applied unused), dropTranslations_drops s k⟩,
    fun priv low high number applied unused => finish_ok (invalidateHandles_ends priv low high number applied unused),
    fun priv sb placing => finishAt_ok (haltHart_ends priv sb placing)⟩
  · intro empty
    exact finish_ok (killGangs_ends priv legal own (by rw [empty]; rfl) (by simp [empty]))
  · intro g w one kills ended
    exact finish_ok (killGangs_ends priv legal own (by rw [one]; exact ends_bind (ends_orStop.mpr kills) rfl) ended)
  · exact finish_ok (popFault_ends priv d sfq (dropFault_queued sfq saved))
  · exact finish_ok (popFault_ends priv d sfq ((dropFault_refilled sfq saved).trans puts))

end Sys2Proof.Machine
end

section
/-! SUPPORT. Launch queues (R185, R303 to R306, R315, R316): records that reach a queue, continuations tried again, messages
written into rings, and the registers of a queue. -/

namespace Sys2Proof.Machine

/-! ### Records at a queue (R305, R307) -/

section
variable {q code : Nat} {r : BitVec 512} {s t : State} {c : List (Nat × Nat)}

/-- A record whose slot can be written enters its queue or is refused, with the code that says so. -/
theorem enqueueAt_ends (free : s.pkg.physHeld (s.pkg.qslot q (s.pkg.qtail q)) 64 = false)
    (enters : s.enqueue q r c = some (t, code)) : Ends (enqueueAt q r c) s code t := by
  simp [Ends, enqueueAt, free, enters]

/-- R305: a record that a check refuses leaves its code in the queue's status. -/
theorem enqueue_refused (fails : s.pkg.qcheck q r false = code) (refused : code ≠ 0) :
    s.enqueue q r c = some ({ s with pkg := s.pkg.qrefuse q code }, code) := by
  subst fails
  unfold State.enqueue
  split
  · contradiction
  · rfl

/-- R187: a host's record enters at once where nothing that the host wrote before it is still to be done. -/
theorem queueArrival_host (hq : q < 64) (first : s.pkg.hostWork = [])
    (free : s.pkg.physHeld (s.pkg.qslot q (s.pkg.qtail q)) 64 = false) (enters : s.enqueue q r [] = some (t, code)) :
    Ends (queueArrival q r .host) s () t := by
  rw [queueArrival, if_neg (by omega)]
  refine ends_get_bind ?_
  simp only [first, free, List.isEmpty_nil, Bool.not_false, Bool.and_self, if_true]
  exact ends_bind (enqueueAt_ends free enters) rfl

/-- R307: no posted message of the same pair is still on its way. -/
theorem noPostedBefore {hartid : BitVec 64} (last : ∀ m ∈ s.pkg.net, m.owner = 0 → m.hartid = hartid.toNat → m.posted = false) :
    (s.pkg.net.any fun m => m.owner == 0 && m.hartid == hartid.toNat && m.posted) = false := by
  simpa using last

section
variable {package : Nat} {hartid : BitVec 64} {tid : BitVec 12} (hq : q < 64)
  (last : ∀ m ∈ s.pkg.net, m.owner = 0 → m.hartid = hartid.toNat → m.posted = false)
include hq last

/-- R368: a launch of another package that its port and the queue's page admit is answered with its code. -/
theorem queueArrival_admitted (admits : s.pkg.pageAdmits q package tid.toNat = true)
    (free : s.pkg.physHeld (s.pkg.qslot q (s.pkg.qtail q)) 64 = false) (enters : s.enqueue q r [] = some (t, code)) (x : Bool) :
    Ends (queueArrival q r (.fabric package hartid tid x)) s ()
      { t with pkg := t.pkg.reply 0 hartid.toNat 0 (.launched code) none } := by
  rw [queueArrival, if_neg (by omega)]
  refine ends_get_bind ?_
  rw [noPostedBefore last, admits]
  exact ends_bind (enqueueAt_ends free enters) rfl

/-- R368: one that the port or the page refuses is answered so. -/
theorem queueArrival_unadmitted (refuses : s.pkg.pageAdmits q package tid.toNat = false) (x : Bool) :
    Ends (queueArrival q r (.fabric package hartid tid x)) s ()
      { s with pkg := s.pkg.reply 0 hartid.toNat 0 (.refused 0 none) none } := by
  rw [queueArrival, if_neg (by omega)]
  refine ends_get_bind ?_
  rw [noPostedBefore last, refuses]
  rfl

end

theorem pageAdmits_iff (p : Pkg) (q package tid : Nat) : p.pageAdmits q package tid = true ↔
    (∀ port, p.route (q / 16) package = some port → p.portAdmits port tid = true) ∧ bits (p.qcfg q) 16 12 = tid := by
  simp [Pkg.pageAdmits, Option.all_eq_true]

end

/-! ### Continuations that are held (R305) -/

theorem insertHeld_perm (c : HeldCont) (l : List HeldCont) : (insertHeld c l).Perm (c :: l) := by
  induction l with
  | nil => exact .refl _
  | cons d r ih =>
    simp only [insertHeld]
    split
    · exact .refl _
    · exact (ih.cons d).trans (.swap c d r)

theorem insertHeld_sorted (c : HeldCont) {l : List HeldCont} (h : l.Pairwise fun a b => a.stamp ≤ b.stamp) :
    (insertHeld c l).Pairwise fun a b => a.stamp ≤ b.stamp := by
  induction l with
  | nil => simp [insertHeld]
  | cons d r ih =>
    obtain ⟨least, rest⟩ := List.pairwise_cons.mp h
    simp only [insertHeld]
    split
    · rename_i earlier
      refine List.pairwise_cons.mpr ⟨fun x hx => ?_, h⟩
      rcases List.mem_cons.mp hx with rfl | hx
      · exact earlier.le
      · exact earlier.le.trans (least x hx)
    · rename_i later
      refine List.pairwise_cons.mpr ⟨fun x hx => ?_, ih rest⟩
      rcases List.mem_cons.mp ((insertHeld_perm c r).mem_iff.mp hx) with rfl | hx
      · exact Nat.not_lt.mp later
      · exact least x hx

/-- Records put in place one after the other stand in the order of their stamps, and none is lost. -/
theorem foldl_insertHeld (cs l : List HeldCont) (h : l.Pairwise fun a b => a.stamp ≤ b.stamp) :
    (cs.foldl (fun l c => insertHeld c l) l).Pairwise (fun a b => a.stamp ≤ b.stamp) ∧
      (cs.foldl (fun l c => insertHeld c l) l).Perm (cs ++ l) := by
  induction cs generalizing l with
  | nil => exact ⟨h, .refl _⟩
  | cons c r ih =>
    obtain ⟨sorted, perm⟩ := ih (insertHeld c l) (insertHeld_sorted c h)
    exact ⟨sorted, perm.trans (((insertHeld_perm c l).append_left r).trans List.perm_middle)⟩

/-- R305: once the time of a die's retries has come, its held records are tried in order. -/
theorem contRetry_ends {die t0 : Nat} {s t : State} (at_ : (s.pkg.die die).contAt = some t0) (due : t0 ≤ s.pkg.time)
    (tried : (((s.pkg.die die).conts.filter fun c => !c.out).foldl (fun l c => insertHeld c l) []).foldl
      (fun r c => r.bind fun x => x.retryCont die c) (some { s with pkg := s.pkg.onDie die fun d =>
        { d with conts := (s.pkg.die die).conts.filter (·.out), contAt := none } }) = some t) :
    Ends (contRetry die) s () t := by
  refine ends_get_bind ?_
  rw [at_, if_pos (by simpa using due), List.partition_eq_filter_filter]
  exact ends_orStop.mpr tried

/-! ### Receive rings (R316) -/

/-- The state once the first record of a queue has been delivered; `i` and `info` are what a delivery found as HEAD and in the
model's notes. -/
def State.delivered (s : State) (q i : Nat) (info : QueueInfo) : State :=
  let left := { s.pkg.queueInfo q with stamps := tableDrop info.stamps i, clocks := tableDrop info.clocks i }
  { s with pkg := (s.pkg.setCtl (offQueue q 2) (BitVec.ofNat 64 ((i + 1) % 2 ^ 32))).setQueueInfo q left }

/-- HEAD moved past the record `i` reads so. -/
theorem qhead_advanced (p : Pkg) (q i : Nat) :
    (p.setCtl (offQueue q 2) (BitVec.ofNat 64 ((i + 1) % 2 ^ 32))).qhead q = (i + 1) % 2 ^ 32 := by
  have small : (i + 1) % 2 ^ 32 < 2 ^ 32 := Nat.mod_lt _ (Nat.two_pow_pos 32)
  rw [Pkg.qhead, ctl_setCtl_same]
  simp only [bits, BitVec.toNat_ofNat]
  omega

theorem qhead_delivered (s : State) (q i : Nat) (info : QueueInfo) : (s.delivered q i info).pkg.qhead q = (i + 1) % 2 ^ 32 :=
  qhead_advanced s.pkg q i

/-- A computation goes on with the second branch where the condition fails. -/
theorem ends_else {α : Type} {c : Prop} [Decidable c] {m m' : M α} {s t : State} {a : α} (h : ¬c) (rest : Ends m' s a t) :
    Ends (if c then m else m') s a t := by
  rwa [if_neg h]

theorem awaitPhys_free {s : State} {pa n : Nat} (h : s.pkg.physHeld pa n = false) : Ends (awaitPhys pa n) s () s :=
  ends_get_bind (ends_await (by rw [h]; rfl))

section
variable {q n : Nat} {g : Gang} {hdr : List Byte} {s s1 s2 s3 : State} (hq : q < 64)
  (enabled : bit (s.pkg.qcfg q) 0 = true) (ringMode : bit (s.pkg.qcfg q) 2 = true) (some_record : s.pkg.qcount q ≠ 0)
  (names : s.pkg.gangs.find? (fun g => g.tag.toNat == bits (s.pkg.ctl (offQueue q 5)) 22 32) = some g)
include hq enabled ringMode some_record names

/-- R316: with room in its ring the message is written, the ring's TAIL moved on, and the record taken from the queue. -/
theorem ringDelivery_ends :
    let off := bits (s.pkg.ctl (offQueue q 5)) 0 22
    let word (i : Nat) : Nat := natOf ((hdr.drop (8 * i)).take 8) % 2 ^ 32
    let rec_ := s.pkg.qhead q
    let slot : Spot := .part g.id (off + 64 + 64 * (word 0 % n))
    Ends (awaitSpot (.part g.id off)) s () s → Ends (peekSpot (.part g.id off) 24) s (hdr, none) s1 →
    slotsOf (word 2 % 512) = some n → s1.pkg.physHeld (s.pkg.qslot q rec_) 64 = false →
    off + 64 + 64 * n ≤ g.partSize → (word 0 + 2 ^ 32 - word 1) % 2 ^ 32 < n →
    (g.phase = GangPhase.resident → s.pkg.tenantOf (g.cluster / 48) (g.cluster % 48) = bits (s.pkg.qcfg q) 16 12) →
    Ends (awaitSpot slot) s1 () s1 →
    Ends (writeSpot slot (recBytes (s.queueRecord q rec_)) (s.pkg.slotPoisoned q rec_)) s1 () s2 →
    Ends (advanceTail g off ((word 0 + 1) % 2 ^ 32) ((tableGet (s.pkg.queueInfo q).clocks rec_).getD [])) s2 () s3 →
    Ends (ringDelivery q) s () (s3.delivered q rec_ (s.pkg.queueInfo q)) := by
  intro off word rec_ slot reached header slots free fits room tenant reachedSlot writes advances
  have takes : (decide (64 ≤ q) || !bit (s.pkg.qcfg q) 0 || !bit (s.pkg.qcfg q) 2 || s.pkg.qcount q == 0) = false := by
    simp [enabled, ringMode, some_record, hq]
  have admits : ¬(g.phase = .resident ∧ s.pkg.tenantOf (g.cluster / 48) (g.cluster % 48) ≠ bits (s.pkg.qcfg q) 16 12) :=
    fun h => h.2 (tenant h.1)
  refine ends_get_bind ?_
  dsimp only
  rw [takes, names]
  refine ends_bind reached (ends_bind header ?_)
  rw [show (if (none : Option Nat).isSome then none else slotsOf _) = some n from slots]
  refine ends_else (Nat.not_lt.mpr fits) (ends_else (Nat.not_le.mpr room) (ends_else admits ?_))
  exact ends_bind reachedSlot (ends_bind (awaitPhys_free free) (ends_bind writes (ends_bind advances rfl)))

end

/-! ### Registers of a queue (R303, R304, R306) -/

/-- A register of a queue written, and its first record looked at anew by what the package was before. -/
def State.queueWritten (s : State) (before : Pkg) (q r : Nat) (v : Dword) : State :=
  let t := s.setReg (offQueue q r) v
  { t with pkg := t.pkg.candidateAnew before q }

/-- What a write that sets EN is refused for (R304). -/
theorem queueUnfit_iff {ring part : Nat} {base : Bool} :
    ring < 4 ∨ 64 < part ∨ (!base) = true ↔ ¬(4 ≤ ring ∧ part ≤ 64 ∧ base = true) := by
  rw [not_and_or, not_and_or, not_le, not_le, Bool.not_eq_true', Bool.not_eq_true]

section
variable {a : Agent} {q : Nat} {v : Dword} {s : State}

/-- R304: below supervisor privilege nothing of a queue is written. -/
theorem exec_queueWrites_unsupervised (h : supervises a = false) : exec (.evQcfgWrite a q v) s = .next s ∧
    exec (.evQrelWrite a q v) s = .next s ∧ exec (.evQpop a q v) s = .next s := by
  have qcfg : qcfgWrite a q v s = some s := by simp [qcfgWrite, h]
  have qrel : qrelWrite a q v s = some s := by simp [qrelWrite, h]
  have pop : qpop a q v s = s := by simp [qpop, h]
  exact ⟨finishAt_ok (ends_orStop.mpr qcfg), finishAt_ok (ends_orStop.mpr qrel), exec_of_next rfl pop⟩

section
variable (super : supervises a = true) (hq : q < 64)
include super hq

theorem queueWrite_permitted : (!supervises a || decide (64 ≤ q)) = false := by simp [super, hq]

/-- R304: while EN = 1 a write changes EN and REL only. -/
theorem qcfgWrite_enabled (on : bit (s.pkg.qcfg q) 0 = true) :
    qcfgWrite a q v s = (s.queueWritten s.pkg q 1 (setBits (s.pkg.qcfg q) 0 2 (bits v 0 2))).select (q / 16) := by
  rw [qcfgWrite, queueWrite_permitted super hq]
  dsimp only
  rw [on]
  rfl

/-- R304: while EN = 0 and stays so, every field is written. -/
theorem qcfgWrite_disabled (off : bit (s.pkg.qcfg q) 0 = false) (stays : bit v 0 = false) :
    qcfgWrite a q v s = (s.queueWritten s.pkg q 1 (qcfgNew (commands a) (s.pkg.qcfg q) v)).select (q / 16) := by
  rw [qcfgWrite, queueWrite_permitted super hq]
  dsimp only
  rw [off, stays]
  rfl

/-- R304: EN is set only with a ring of at least 16 records, a partition that a cluster has, and a ring in DRAM. -/
theorem qcfgWrite_enables (off : bit (s.pkg.qcfg q) 0 = false) (on : bit v 0 = true) :
    let new := qcfgNew (commands a) (s.pkg.qcfg q) v
    let stat := setBits (s.pkg.ctl (offQueue q 6)) 16 32 0
    qcfgWrite a q v s =
      if ¬(4 ≤ bits new 4 4 ∧ bits new 8 8 ≤ 64 ∧ s.pkg.qbaseOk (s.pkg.ctl (offQueue q 0)).toNat (bits new 4 4) = true) then some s
      else (({ s with pkg := s.pkg.setCtl (offQueue q 6) stat } : State).queueWritten s.pkg q 1 new).select (q / 16) := by
  intro new stat
  rw [qcfgWrite, queueWrite_permitted super hq]
  dsimp only
  rw [off, on]
  simp only [Bool.not_true, Bool.false_eq_true, if_false]
  exact if_congr queueUnfit_iff rfl rfl

theorem qrelWrite_supervised : qrelWrite a q v s = (s.queueWritten s.pkg q 4 (onlyBits v 0 32)).select (q / 16) := by
  rw [qrelWrite, queueWrite_permitted super hq]
  rfl

/-- R303: QPOP moves HEAD of a disabled queue past its first record. -/
theorem qpop_removes (asks : bit v 0 = true) (off : bit (s.pkg.qcfg q) 0 = false) (some_record : s.pkg.qcount q ≠ 0) :
    OnlyPackage s (qpop a q v s) ∧ (qpop a q v s).pkg.qhead q = (s.pkg.qhead q + 1) % 2 ^ 32 := by
  have pops : (!supervises a || decide (64 ≤ q) || !bit v 0 || bit (s.pkg.qcfg q) 0 || s.pkg.qcount q == 0) = false := by
    simp [super, hq, asks, off, some_record]
  rw [qpop, pops]
  exact ⟨rfl, qhead_advanced s.pkg q _⟩

end
end

section
variable {p before : Pkg} {q : Nat}

/-- A first record that becomes a candidate has been passed over by nothing yet. -/
theorem passed_candidateAnew (free : (p.queueInfo q).guardAt = none) (was : before.eligible q = false)
    (is : p.eligible q = true) : ((p.candidateAnew before q).queueInfo q).passed = 0 := by
  have anew : p.candidateAnew before q = p.setQueueInfo q { p.queueInfo q with passed := 0 } := by
    simp [Pkg.candidateAnew, was, is, free]
  rw [anew, Pkg.queueInfo, Pkg.setQueueInfo, tableGet_set_same]
  rfl

theorem candidateAnew_of_eligible (was : before.eligible q = true) : p.candidateAnew before q = p := by
  simp [Pkg.candidateAnew, was]

end

/-! ### The obligation -/

/-- Settles O46: each event by the lemma about it. -/
theorem queueEventsComplete : Obligations.QueueEventsComplete := by
  unfold Obligations.QueueEventsComplete
  refine ⟨?host, ?fabric, fun q r s code c fails refused => enqueue_refused fails refused, ?bad, ?conts, ?rings, ?registers,
    fun q p before free => ⟨passed_candidateAnew free, candidateAnew_of_eligible⟩⟩
  case host => exact fun q r s t code hq first free enters => finishAt_ok (queueArrival_host hq first free enters)
  case fabric =>
    intro q r s t code package hartid tid c hq last answer admitted
    refine ⟨fun admits free enters => ?_, fun refuses => ?_⟩
    · exact finishAt_ok (queueArrival_admitted hq last ((pageAdmits_iff ..).mpr admits) free enters c)
    · exact finishAt_ok (queueArrival_unadmitted hq last (Bool.eq_false_iff.mpr (mt (pageAdmits_iff ..).mp refuses)) c)
  case bad => exact fun q s hq => exec_of_next rfl (if_pos hq)
  case conts =>
    intro die t0 s t at_ due conts held clear
    obtain ⟨sorted, perm⟩ := foldl_insertHeld (conts.filter fun c => !c.out) [] .nil
    exact ⟨sorted, perm.trans (by rw [List.append_nil]), fun tried => finishAt_ok (contRetry_ends at_ due tried)⟩
  case rings =>
    intro q n g hdr s s1 s2 s3 ring off word hq enabled ringMode some_record names rec_ reached header slots free fits room
      tenant slot reachedSlot writes advances
    exact ⟨_, event_ends (ringDelivery_ends hq enabled ringMode some_record names reached header slots free fits room tenant
      reachedSlot writes advances), rfl, qhead_delivered s3 q rec_ _⟩
  case registers =>
    intro a q v s t hq old put
    refine ⟨exec_queueWrites_unsupervised, fun super => ?_⟩
    have event {f : State → Option State} (h : f s = some t) : finishAt (attempt f) s = .next t := finishAt_ok (ends_orStop.mpr h)
    refine ⟨fun on puts => ?_, fun off stays puts => ?_, fun off on => ⟨fun bad => ?_, fun good puts => ?_⟩, fun puts => ?_,
      fun asks off some_record => ⟨_, rfl, qpop_removes super hq asks off some_record⟩⟩
    · exact event ((qcfgWrite_enabled super hq on).trans puts)
    · exact event ((qcfgWrite_disabled super hq off stays).trans puts)
    · exact finishAt_ok (ends_orStop.mpr ((qcfgWrite_enables super hq off on).trans (if_pos bad)))
    · exact event (((qcfgWrite_enables super hq off on).trans (if_neg (not_not_intro good))).trans puts)
    · exact event ((qrelWrite_supervised super hq).trans puts)

end Sys2Proof.Machine
end

section
/-! SUPPORT. Fences and drains (R199, R236 to R238, R252), and the memory form after reset (log entry 1). -/

namespace Sys2Proof.Machine

/-! ### Waits that are over -/

theorem awaitAcknowledged_settled {s : State} (h : s.settled) (closed : s.batchesClosed) : Ends awaitAcknowledged s () s := by
  have empty : s.h.sb = [] := h.1
  have performed := awaitPerformed_settled h
  unfold State.batchesClosed at closed
  refine ends_get_bind (ends_bind (ends_await (by simp [empty])) ?_)
  simpa [closed] using performed

/-- R199, R236: a fence of kind rel, ar or sc goes on. -/
theorem awaitFence_settled {s : State} (h : s.settled) (closed : s.batchesClosed) (pend : s.h.pend = []) :
    Ends awaitFence s () s :=
  ends_get_bind (ends_bind (ends_await (by simp [pend])) (awaitAcknowledged_settled h closed))

/-- R199, R236, R252: a fence of kind acq acquires what the hart's reads have met. -/
theorem fenceLoads_ends {s : State} (scope : Nat) (sb : s.h.sb = []) (placing : s.h.placing = false) (pend : s.h.pend = [])
    (mine : ∀ m ∈ s.mine s.h.ident, (∀ es, m.body ≠ .reduce es) ∧ ∀ t, m.body ≠ .timed t)
    (waiting : ∀ t ∈ s.pkg.waiting, t.owner ≠ s.h.ident) (resps : ∀ r ∈ s.pkg.resps, r.owner ≠ s.h.ident) :
    Ends (fenceLoads scope) s () (s.acquireOf scope s.h.observed) := by
  refine ends_bind (awaitBuffer_empty sb placing) (ends_get_bind (ends_bind (ends_await ?_) rfl))
  simp only [pend, List.isEmpty_nil, Bool.true_and, Bool.and_eq_true, Bool.not_eq_true', List.any_eq_false, beq_iff_eq]
  refine ⟨⟨fun m hm => ?_, waiting⟩, resps⟩
  obtain ⟨reduce, timed⟩ := mine m hm
  split
  · next t e => exact absurd e (timed t)
  · next es e => exact absurd e (reduce es)
  · exact Bool.false_ne_true

/-- R238: no reduction of the hart is on its way or held at a home. -/
theorem awaitReductions_ends {s : State} (mine : ∀ m ∈ s.mine s.h.ident, (∀ es, m.body ≠ .reduce es) ∧ ∀ t, m.body ≠ .timed t)
    (homes : ∀ t ∈ s.pkg.waiting ++ s.pkg.held, t.owner ≠ s.h.ident) (resps : ∀ r ∈ s.pkg.resps, r.owner ≠ s.h.ident) :
    Ends awaitReductions s () s := by
  refine ends_get_bind (ends_await ?_)
  simp only [Bool.and_eq_true, Bool.not_eq_true', List.any_eq_false, beq_iff_eq]
  have others (t : _) (ht : t ∈ s.pkg.waiting ++ s.pkg.held) : ¬(t.owner = s.h.ident ∧ t.ordered = true) :=
    fun h => homes t ht h.1
  refine ⟨⟨⟨fun m hm => ?_, fun t ht => others t (List.mem_append_left _ ht)⟩,
    fun t ht => others t (List.mem_append_right _ ht)⟩, resps⟩
  obtain ⟨reduce, timed⟩ := mine m hm
  split
  · next es e => exact absurd e (reduce es)
  · next t e => exact absurd e (timed t)
  · exact Bool.false_ne_true

/-! ### The obligations -/

/-- Settles O12: each fence once its wait is over; the clocks are no registers. -/
theorem fencesComplete : Obligations.FencesComplete := by
  unfold Obligations.FencesComplete
  intro sc s acq armed
  refine ⟨fun sb placing => finish_ok (awaitBuffer_empty sb placing),
    fun sb placing pend mine waiting resps => finish_ok (fenceLoads_ends _ sb placing pend mine waiting resps),
    fun settled closed pend => ?_,
    fun mine homes resps => finish_ok (ends_bind (awaitReductions_ends mine homes resps) rfl), ?_, rfl, ?_, rfl⟩
  · have waited := awaitFence_settled settled closed pend
    exact ⟨finish_ok (ends_bind waited rfl), finish_ok (ends_bind waited rfl), finish_ok (ends_bind waited rfl)⟩
  all_goals simp [SameRegisters, acq, State.acquireOf, State.releaseReductions, Hart.acquired, Hart.released]

/-- Settles O58: after reset memory lists nothing, and no controller holds a byte for a copy. -/
theorem invHoldsAtReset : Obligations.InvHoldsAtReset := by
  unfold Obligations.InvHoldsAtReset
  exact ⟨Memory.wf_reset, List.Pairwise.nil⟩

end Sys2Proof.Machine
end

section
/-! SUPPORT. What it is to keep the memory form (log entry 1): a rule for each way in which the model composes states,
partial operations and computations of `M`. -/

namespace Sys2Proof.Machine

variable {α β γ δ : Type}

/-! ### The form, by its parts -/

/-- The bytes that controllers hold for graph copies stand at rising addresses. -/
def Pkg.Inv (p : Pkg) : Prop := (p.pendMem.map (·.1)).Pairwise (· < ·)

/-- The state in which a computation ends early is in form. -/
def Exit.Inv : Exit → Prop
  | .trap _ s | .again s | .queued s => s.Inv
  | .wait | .stop _ => True

/-- The state in which a computation ends is in form. -/
def EndInv : Except Exit (α × State) → Prop
  | .ok (_, t) => t.Inv
  | .error e => e.Inv

/-- Started in form, the computation ends in form. -/
structure Keeps (m : M α) : Prop where
  ends : ∀ s, s.Inv → EndInv (m s)

/-- What a partial operation answers has the property. -/
def Every (P : α → Prop) (o : Option α) : Prop := ∀ x ∈ o, P x

/-- The next state that is answered is in form. -/
def OutInv (o : Out) : Prop := ∀ t, o = .next t → t.Inv

/-! ### States -/

theorem State.Inv.pkg {s : State} (h : s.Inv) : s.pkg.Inv := h.2

theorem State.Inv.kept {s t : State} (h : s.Inv) (k : Kept s t) : t.Inv := by
  obtain ⟨-, -, pend, mem⟩ := k
  exact ⟨mem h.1, pend ▸ h.2⟩

theorem State.Inv.ite {c : Prop} [Decidable c] {s t : State} (h : s.Inv) (k : t.Inv) : (if c then s else t).Inv := by
  split
  · exact h
  · exact k

theorem Pkg.Inv.ite {c : Prop} [Decidable c] {p q : Pkg} (h : p.Inv) (k : q.Inv) : (if c then p else q).Inv := by
  split
  · exact h
  · exact k

theorem State.Inv.foldl {f : State → α → State} (hf : ∀ t a, t.Inv → (f t a).Inv) {s : State} (h : s.Inv) (l : List α) :
    (l.foldl f s).Inv := List.foldlRecOn l f h fun t ht a _ => hf t a ht

theorem Pkg.Inv.foldl {f : Pkg → α → Pkg} (hf : ∀ q a, q.Inv → (f q a).Inv) {p : Pkg} (h : p.Inv) (l : List α) :
    (l.foldl f p).Inv := List.foldlRecOn l f h fun q hq a _ => hf q a hq

/-! ### Partial operations -/

namespace Every

variable {P : α → Prop} {Q : β → Prop}

theorem none : Every P none := by simp [Every]

theorem some {x : α} (h : P x) : Every P (some x) := by simpa [Every]

theorem bind {o : Option α} {f : α → Option β} (h : Every P o) (hf : ∀ x, P x → Every Q (f x)) : Every Q (o.bind f) := by
  cases o with
  | none => exact none
  | some x => exact hf x (h x rfl)

theorem map {o : Option α} {f : α → β} (h : Every P o) (hf : ∀ x, P x → Q (f x)) : Every Q (o.map f) := by
  cases o with
  | none => exact none
  | some x => exact some (hf x (h x rfl))

theorem ite {c : Prop} [Decidable c] {o p : Option α} (h : Every P o) (k : Every P p) : Every P (if c then o else p) := by
  split
  · exact h
  · exact k

theorem getD {o : Option α} {x : α} (h : Every P o) (hx : P x) : P (o.getD x) := by
  cases o with
  | none => exact hx
  | some y => exact h y rfl

/-- A chain of partial operations over a list. -/
theorem foldl {f : Option β → α → Option β} (hf : ∀ o a, Every Q o → Every Q (f o a)) {o : Option β} (h : Every Q o)
    (l : List α) : Every Q (l.foldl f o) := List.foldlRecOn l f h fun p hp a _ => hf p a hp

end Every

/-! ### Computations -/

namespace Keeps

theorem bind {m : M α} {f : α → M β} (h : Keeps m) (hf : ∀ a, Keeps (f a)) : Keeps (m >>= f) := by
  refine ⟨fun s hs => ?_⟩
  have first := h.ends s hs
  rw [run_bind]
  cases e : m s with
  | ok x => rw [e] at first; exact (hf x.1).ends x.2 first
  | error x => rw [e] at first; exact first

theorem pure {a : α} : Keeps (pure a : M α) := ⟨fun _ h => h⟩

/-- The state that a computation looks at is in form. -/
theorem get {f : State → M α} (hf : ∀ s, s.Inv → Keeps (f s)) : Keeps (get >>= f) := ⟨fun s h => (hf s h).ends s h⟩

theorem set {t : State} (h : t.Inv) : Keeps (set t : M PUnit) := ⟨fun _ _ => h⟩

theorem modify {f : State → State} (hf : ∀ s, s.Inv → (f s).Inv) : Keeps (modify f : M PUnit) := ⟨hf⟩

theorem ite {c : Prop} [Decidable c] {m k : M α} (hm : Keeps m) (hk : Keeps k) : Keeps (if c then m else k) := by
  split
  · exact hm
  · exact hk

theorem raise {t : Trap} : Keeps (raise t : M α) := ⟨fun _ h => h⟩

theorem trapOf {c : Nat} {v : Dword} : Keeps (trapOf c v : M α) := raise

theorem hold : Keeps (hold : M α) := ⟨fun _ _ => trivial⟩

theorem again : Keeps (again : M α) := ⟨fun _ h => h⟩

theorem stop {f : Fault} : Keeps (fun _ => .error (.stop f) : M α) := ⟨fun _ _ => trivial⟩

theorem await {b : Bool} : Keeps (await b) := ite pure hold

theorem trapIf {b : Bool} {c : Nat} {v : Dword} : Keeps (trapIf b c v) := ite trapOf pure

theorem orStop {f : State → Option State} (hf : ∀ s, s.Inv → Every State.Inv (f s)) : Keeps (orStop f) := by
  refine ⟨fun s h => ?_⟩
  have every := hf s h
  unfold Machine.orStop
  cases e : f s with
  | none => trivial
  | some t => exact every t e

theorem forM {f : α → M PUnit} {l : List α} (hf : ∀ a, Keeps (f a)) : Keeps (l.forM f) := by
  induction l with
  | nil => exact pure
  | cons a r ih => exact bind (hf a) fun _ => ih

theorem mapM {f : α → M β} {l : List α} (hf : ∀ a, Keeps (f a)) : Keeps (l.mapM f) := by
  rw [← List.mapM'_eq_mapM]
  induction l with
  | nil => exact pure
  | cons a r ih => exact bind (hf a) fun _ => bind ih fun _ => pure

/-- What stays of a computation that has to come again is the retention of arrays. -/
theorem allOrNothing {m : M α} (h : Keeps m) : Keeps (allOrNothing m) := by
  refine ⟨fun s hs => ?_⟩
  have ends := h.ends s hs
  unfold Machine.allOrNothing
  rcases e : m s with (_ | _ | _ | _ | _) | _ <;> rw [e] at ends
  case error.again => exact ⟨hs.1, hs.2⟩
  all_goals exact ends

end Keeps

/-! ### Answers -/

namespace OutInv

theorem next {t : State} (h : t.Inv) : OutInv (.next t) := by rintro _ ⟨⟩; exact h

theorem fault {f : Fault} : OutInv (.fault f) := fun _ e => by cases e

theorem ite {c : Prop} [Decidable c] {o p : Out} (h : OutInv o) (k : OutInv p) : OutInv (if c then o else p) := by
  split
  · exact h
  · exact k

end OutInv

end Sys2Proof.Machine
end

section
/-! SUPPORT. What keeps the memory form: bytes, pulls, translation, cores, save areas. -/

namespace Sys2Proof.Machine

variable {α β : Type} {s : State} {p : Pkg}

/-- Bytes that a controller holds for a copy are entries of a table. -/
theorem Pkg.Inv.tableSets {f : Nat → Nat} {g : Nat → Byte} (h : p.Inv) (l : List Nat) :
    ({ p with pendMem := l.foldl (fun t i => tableSet t (f i) (g i)) p.pendMem } : Pkg).Inv :=
  List.foldlRecOn (motive := fun t => (t.map Prod.fst).Pairwise (· < ·)) l _ h fun t ht i _ => (keys_tableSet t (f i) (g i) ht).1

namespace State.Inv

theorem withPkg {p : Pkg} (h : s.Inv) (hp : p.Inv) : ({ s with pkg := p } : State).Inv := ⟨h.1, hp⟩

theorem putBytes {loc : Nat} {bs : List Byte} (h : s.Inv) : (s.putBytes loc bs).Inv := h.kept (kept_putBytes s loc bs)

theorem poisonBytes {loc n : Nat} (h : s.Inv) : (s.poisonBytes loc n).Inv := h

theorem clearBytes {loc n : Nat} (h : s.Inv) : (s.clearBytes loc n).Inv := h.kept (kept_clearBytes s loc n)

theorem pulled {loc : Nat} (h : s.Inv) : (s.pulled loc).Inv := h.kept (kept_pulled s loc)

theorem pulledLines {loc n : Nat} (h : s.Inv) : (s.pulledLines loc n).Inv := h.kept (kept_pulledLines s loc n)

theorem moveBytes {src dst n : Nat} (h : s.Inv) : (s.moveBytes src dst n).Inv := h.kept (kept_moveBytes s src dst n)

theorem putPhys {pa : Nat} {bs : List (List Byte)} (h : s.Inv) : Every State.Inv (s.putPhys pa bs) :=
  fun _ e => h.kept (putPhys_frame e)

theorem putDwords {pa : Nat} {ds : List Dword} (h : s.Inv) : Every State.Inv (s.putDwords pa ds) := h.putPhys

theorem clearPages {pa n : Nat} (h : s.Inv) : Every State.Inv (s.clearPages pa n) := fun _ e => h.kept (clearPages_frame e)

theorem pullNow {n line : Nat} (h : s.Inv) : (s.pullNow n line).Inv := by
  unfold State.pullNow
  split
  · exact h.pulled
  · exact h

theorem writeHome {loc : Nat} {bs : List Byte} (h : s.Inv) : (s.writeHome loc bs).Inv :=
  have written : ((s.pulled loc).putBytes loc bs).Inv := h.pulled.putBytes
  ⟨written.1, written.2⟩

theorem putHeld {loc : Nat} {bs : List Byte} (h : s.Inv) : (s.putHeld loc bs).Inv := by
  unfold State.putHeld
  split
  · exact ⟨h.1, h.pkg.tableSets _⟩
  · exact h.putBytes

/-! Translation -/

theorem keepTenant {die tid : Nat} (h : s.Inv) : (s.keepTenant die tid).Inv := by
  unfold State.keepTenant
  split <;> exact h

theorem pullWalk {die va : Nat} {w : Who} (h : s.Inv) : (s.pullWalk die w va).Inv :=
  .ite (.foldl (fun t r ht => by cases r.2 <;> [exact ht; exact ht.pulled]) h _) h

theorem lookup {w : Who} {va : Nat} (h : s.Inv) : (s.lookup w va).2.Inv := by
  unfold State.lookup
  split
  · exact h
  · dsimp only
    split
    · exact h
    · split
      · exact h.pullWalk
      · exact h.pullWalk
      · exact h.pullWalk

theorem translate {w : Who} {k : Want} {va : Nat} (h : s.Inv) : (s.translate w k va).2.Inv := by
  rcases translate_frame s w k va with e | e <;> rw [e]
  · exact h
  · exact h.lookup

/-! Cores and harts -/

theorem focus {c : Nat} (h : s.Inv) : (s.focus c).Inv := h.ite h

theorem onCore {c : Nat} {f : State → State} (hf : ∀ t, t.Inv → (f t).Inv) (h : s.Inv) : (s.onCore c f).Inv :=
  (hf _ h.focus).focus

theorem onGang {g : Nat} {f : Gang → Gang} (h : s.Inv) : (s.onGang g f).Inv := h

theorem putAreas {base : Nat} {as : List (Nat × List Dword)} (h : s.Inv) : Every State.Inv (s.putAreas base as) := by
  induction as generalizing s with
  | nil => exact .some h
  | cons a r ih =>
    unfold State.putAreas
    split
    · exact .none
    · next e => exact ih (h.putDwords _ e)

theorem saveCsa {k : Hart} {st out : Nat} (h : s.Inv) : Every State.Inv (s.saveCsa k st out) := h.putAreas

theorem putFaults {k : Hart} {rs : List SfRecord} (h : s.Inv) : Every State.Inv (s.putFaults k rs) := by
  unfold State.putFaults
  split
  · exact h.putAreas
  · exact .none

theorem keepFault {r : SfRecord} (h : s.Inv) : Every State.Inv (s.keepFault r) := by
  unfold State.keepFault
  split
  · exact .some h
  · exact .bind (P := fun _ => True) (fun _ _ => trivial) fun _ _ => h.putFaults

theorem dropFault (h : s.Inv) : Every State.Inv s.dropFault :=
  .bind (P := fun _ => True) (fun _ _ => trivial) fun _ _ => .ite (.some h) (putFaults h)

theorem areaRead {k : Hart} (h : s.Inv) : (s.areaRead k).Inv := by
  unfold State.areaRead
  split
  · exact h
  · exact h

theorem onParked {g : Gang} {k : Hart} {f : Hart → Hart} (h : s.Inv) : Every State.Inv (s.onParked g k f) := by
  unfold State.onParked
  split
  · exact .none
  · exact h.areaRead.onGang.saveCsa

theorem refreshOut {id : Nat} (h : s.Inv) : Every State.Inv (s.refreshOut id) := by
  unfold State.refreshOut
  split
  · exact .some h
  · exact h.putDwords

theorem onHart {id : Nat} {f : Hart → Hart} (h : s.Inv) : Every State.Inv (s.onHart id f) := by
  unfold State.onHart
  split
  · exact .some (h.onCore fun _ ht => ht)
  · split
    · exact h.onParked
    · exact .some h

end State.Inv
end Sys2Proof.Machine
end

section
/-! SUPPORT. What keeps the memory form: scratchpads, loads, stores, atomics, the store buffer. -/

namespace Sys2Proof.Machine

variable {α β : Type} {s : State} {p : Pkg}

namespace Pkg.Inv

theorem startLeave {a : Nat} (h : p.Inv) : (p.startLeave a).Inv := by
  unfold Pkg.startLeave
  split <;> exact h

theorem wake {loc : Nat} (h : p.Inv) : (p.wake loc).Inv := by
  unfold Pkg.wake
  split
  · exact h.startLeave
  · exact h

theorem wakeArrays {as : List Nat} (h : p.Inv) : (p.wakeArrays as).Inv := .foldl (fun _ _ h => h.startLeave) h as

theorem leave {r : Released} (h : p.Inv) : (p.leave r).Inv := h

theorem leaves {f : α → Released} (h : p.Inv) (l : List α) : (l.foldl (fun p a => p.leave (f a)) p).Inv :=
  .foldl (fun _ _ h => h.leave) h l

theorem leaveReduced {owner core tid loc n : Nat} (h : p.Inv) : (p.leaveReduced owner core tid loc n).Inv := by
  unfold Pkg.leaveReduced
  split <;> exact h

end Pkg.Inv

namespace State.Inv

theorem wake {loc : Nat} (h : s.Inv) : ({ s with pkg := s.pkg.wake loc } : State).Inv := ⟨h.1, h.pkg.wake⟩

theorem observe {scope : Option Nat} {loc n : Nat} (h : s.Inv) : (s.observe scope loc n).Inv := by
  unfold State.observe
  split <;> exact h

theorem setPbmp {id i : Nat} (h : s.Inv) : Every State.Inv (s.setPbmp id i) := by
  refine .bind h.onHart fun t ht => ?_
  split
  · exact .some ht
  · exact ht.putDwords

theorem setPtbmp {g i : Nat} (h : s.Inv) : Every State.Inv (s.setPtbmp g i) := by
  unfold State.setPtbmp
  extract_lets t
  have ht : t.Inv := h.onGang
  split
  · exact ht.putDwords
  · exact .some ht

theorem evictPriv {core gran : Nat} {t : Tag} (h : s.Inv) : Every State.Inv (s.evictPriv core gran t) := by
  unfold State.evictPriv
  cases s.tagHart t with
  | none => exact .some h
  | some _ =>
    cases s.pkg.ownDram _ with
    | none => exact .none
    | some _ => exact h.moveBytes.setPbmp

theorem evictPart {cluster gran : Nat} {t : Tag} (h : s.Inv) : Every State.Inv (s.evictPart cluster gran t) := by
  unfold State.evictPart
  obtain ⟨place, e⟩ : ∃ f, f = s.pkg.ownDram := ⟨_, rfl⟩
  rw [← e]
  split
  · exact .some h
  · split
    · exact .some h
    · split
      · exact .none
      · exact h.moveBytes.setPtbmp

theorem markSaved {p : Spot} (h : s.Inv) : Every State.Inv (s.markSaved p) := by
  cases p with
  | priv id off => exact h.setPbmp
  | part g off => exact h.setPtbmp

theorem sendBatches {k : Hart} {bs : List (Subscriber × Batch)} (h : s.Inv) : (s.sendBatches k bs).Inv := h

theorem forward {id off : Nat} {cluster poison : Bool} {bs : List Byte} (h : s.Inv) :
    Every State.Inv (s.forward id cluster off bs poison) := by
  unfold State.forward
  split
  · exact .some h
  · split
    · exact .some h
    · exact h.sendBatches.onHart

theorem forwardSpot {id : Nat} {p : Spot} {bs : List Byte} {poison : Bool} (h : s.Inv) :
    Every State.Inv (s.forwardSpot id p bs poison) := by
  cases p <;> exact .ite h.forward (.some h)

theorem flushBatches {id : Nat} {f : Nat → Subscriber → Bool} (h : s.Inv) : Every State.Inv (s.flushBatches id f) := by
  unfold State.flushBatches
  split
  · exact .some h
  · exact .ite (.some h) h.sendBatches.onHart

theorem send {m : Msg} (h : s.Inv) : (s.send m).Inv := h

theorem armedWrite {spent : Bool} (h : s.Inv) : (s.armedWrite spent).1.Inv := by
  unfold State.armedWrite
  split <;> exact h

theorem atomicAt {o : AtomicOp} {loc v expected : Nat} (h : s.Inv) : (s.atomicAt o loc v expected).1.Inv := h.pulled.putBytes

theorem pushStore {va d : Dword} {n : Nat} {k : StoreKind} (h : s.Inv) : (s.pushStore va n d k).Inv := h

end State.Inv

namespace Keeps

theorem onCoreM {c : Nat} {m : M α} (h : Keeps m) : Keeps (onCoreM c m) :=
  get fun _ _ => bind (modify fun _ hs => hs.focus) fun _ => bind h fun _ => bind (modify fun _ hs => hs.focus) fun _ => pure

theorem awaitArea {id : Nat} : Keeps (awaitArea id) := get fun _ _ => await

theorem awaitPhys {pa n : Nat} : Keeps (awaitPhys pa n) := get fun _ _ => await

/-! Scratchpads (R388) -/

theorem touchPriv {off : Nat} : Keeps (touchPriv off) := by
  refine get fun _ _ => ite pure ?_
  extract_lets mark fill
  have marked u : Keeps (mark u) := modify fun _ h => h
  have filled u : Keeps (fill u) := by
    refine bind awaitPhys fun _ => get fun _ h => ite ?_ (bind (set h.clearBytes) marked)
    split
    · exact bind (orStop fun _ _ => .none) marked
    · exact bind (set h.moveBytes) marked
  split
  · exact bind awaitPhys fun _ => bind (orStop fun _ h => h.evictPriv) filled
  · exact filled ()

theorem touchPart {g : Gang} {off : Nat} : Keeps (touchPart g off) := by
  refine get fun _ _ => ite pure ?_
  extract_lets mark fill
  have marked u : Keeps (mark u) := modify fun _ h => h
  have filled u : Keeps (fill u) := by
    refine bind awaitPhys fun _ => get fun _ h => ite ?_ (bind (set h.clearBytes) marked)
    split
    · exact bind (orStop fun _ _ => .none) marked
    · exact bind (set h.moveBytes) marked
  split
  · have evicted {f : State → Option State} (hf : ∀ s, s.Inv → Every State.Inv (f s)) :=
      bind (orStop hf) filled
    split
    · exact bind awaitPhys fun _ => evicted fun _ h => h.evictPart
    · exact evicted fun _ h => h.evictPart
  · exact filled ()

theorem touch {p : Spot} : Keeps (touch p) := by
  cases p with
  | priv id off => exact bind touchPriv fun _ => get fun _ _ => pure
  | part g off =>
    refine get fun _ _ => ?_
    split
    · exact pure
    · exact bind touchPart fun _ => pure

theorem awaitArray {loc : Option Nat} : Keeps (awaitArray loc) := by
  cases loc with
  | none => exact pure
  | some l => exact get fun _ _ => ite (bind (modify fun _ h => h.wake) fun _ => again) pure

theorem peekSpot {p : Spot} {n : Nat} : Keeps (peekSpot p n) := by
  refine get fun _ _ => ?_
  split
  · exact pure
  · refine bind awaitArray fun _ => ?_
    split
    · exact get fun _ _ => pure
    · refine ite (get fun _ _ => ?_) pure
      split
      · exact bind (modify fun _ h => h.pulled) fun _ => get fun _ _ => pure
      · exact stop

theorem readSpot {p : Spot} {n : Nat} : Keeps (readSpot p n) := by
  refine bind peekSpot fun ⟨bs, bad⟩ => ?_
  cases bad with
  | none => exact pure
  | some l => exact bind (modify fun _ h => h) fun _ => pure

theorem awaitSpot {p : Spot} : Keeps (awaitSpot p) := by
  refine get fun _ _ => ?_
  extract_lets rest
  have woken u : Keeps (rest u) := by
    unfold rest
    split
    · exact pure
    · exact ite (bind (modify fun _ h => h.wake) fun _ => again) pure
  split
  · exact bind awaitPhys woken
  · exact woken ()

theorem writeSpot {p : Spot} {bs : List Byte} {poison : Bool} : Keeps (writeSpot p bs poison) := by
  refine get fun s _ => ?_
  extract_lets put
  have written (t : State) (l : Nat) (h : t.Inv) : (put t l).Inv :=
    have bytes : (t.putBytes l bs).Inv := h.putBytes
    .ite bytes bytes
  split
  · exact pure
  · refine bind awaitArray fun _ => ?_
    extract_lets back
    have backed u : Keeps (back u) := by
      refine ite pure ?_
      split
      · exact stop
      · refine bind (modify fun _ h => h.pulled) fun _ => ite (bind (modify fun _ h => h.clearBytes) fun _ =>
          bind (orStop fun _ h => h.markSaved) fun _ => ?_) ?_
        all_goals exact modify fun _ h => written _ _ h
    split
    · exact bind (modify fun _ h => written _ _ h) backed
    · exact backed ()

/-! Translation and checks of an access -/

theorem awaitWalk {w : Who} {va : Nat} : Keeps (awaitWalk w va) :=
  get fun _ _ => ite (forM fun _ => get fun _ _ => await) pure

theorem resolve {w : Who} {k : Want} {f va : Nat} {v : Dword} : Keeps (resolve w k f v va) := by
  refine get fun s h => ?_
  split
  · exact bind touch fun _ => pure
  · exact trapOf
  · refine bind awaitWalk fun _ => bind (set h.translate) fun _ => ?_
    split
    · exact trapOf
    · split
      · exact trapOf
      · exact trapOf
      · exact pure
      · exact pure
      · split
        · exact hold
        · exact ite pure trapOf

theorem precheck {w : Who} {k : Want} {f va : Nat} {v : Dword} : Keeps (precheck w k f v va) := by
  refine get fun _ _ => ?_
  split
  · exact pure
  · exact bind resolve fun _ => pure

theorem awaitHome {loc n : Nat} : Keeps (awaitHome loc n) :=
  get fun _ _ => ite (bind (modify fun _ h => h.wake) fun _ => again) (modify fun _ h => h.pulled)

theorem checkPoison {loc n : Nat} {v : Dword} : Keeps (checkPoison loc n v) :=
  get fun _ _ => ite (bind (modify fun _ h => h) fun _ => trapOf) pure

theorem checkL1 {code : Bool} {loc n : Nat} {v : Dword} : Keeps (checkL1 code loc n v) :=
  get fun _ h => ite (bind (set h) fun _ => trapOf) pure

theorem checkRace {t : Target} {c : List (Nat × Nat)} {v : Dword} : Keeps (checkRace t c v) := get fun _ _ => trapIf

/-! Loads -/

theorem loadPiece {scope : Option Nat} {seen va n : Nat} {v : Dword} : Keeps (loadPiece scope seen v va n) := by
  refine get fun _ _ => bind resolve fun _ => bind await fun _ => bind awaitHome fun _ => bind await fun _ =>
    bind checkPoison fun _ => bind checkL1 fun _ => ite (bind checkRace fun _ => ?_) ?_
  all_goals exact bind (modify fun _ h => h.observe) fun _ => get fun _ _ => pure

theorem loadBytesOf {scope : Option Nat} {seen va n : Nat} {v : Dword} : Keeps (loadBytesOf scope seen v va n) := by
  refine get fun _ _ => ?_
  split
  · exact bind (forM fun _ => get fun _ _ => precheck) fun _ => pure
  · exact hold
  · exact bind (mapM fun _ => loadPiece) fun _ => pure

theorem loadBytes {scope : Option Nat} {va n : Nat} {v : Dword} : Keeps (loadBytes scope v va n) := get fun _ _ => loadBytesOf

theorem sendAccess {t : Target} {n : Nat} {va : Dword} {dest : Dest} {rels : List Nat} {waits : Bool} {body : Nat → MsgBody} :
    Keeps (sendAccess t n va dest rels waits body) := get fun _ h => set h

theorem leavingLoad {elem : Bool} {va n : Nat} {v : Dword} : Keeps (leavingLoad elem v va n) :=
  get fun _ _ => ite pure (bind (mapM fun _ => bind resolve fun _ => pure) fun _ => get fun _ _ =>
    ite pure (bind await fun _ => pure))

theorem sendLoad {scope : Option Nat} {v : Dword} {size : Nat} {dest : Dest} {ts : List (Target × Nat × Nat)} :
    Keeps (sendLoad scope v size dest ts) := forM fun _ => sendAccess

/-! Stores -/

theorem performWrite {t : Target} {clock : List (Nat × Nat)} {tid : Nat} {rels : List Nat} {plain : Bool} {bs : List Byte} :
    Keeps (performWrite t clock tid rels plain bs) := by
  refine bind (modify fun _ h => h.writeHome) fun _ => ite (bind (modify fun _ h => h) fun _ => ?_) ?_
  all_goals
    refine bind (modify fun _ h => ⟨h.1, h.pkg.leaves _⟩) fun _ => ?_
    split
    · exact orStop fun _ h => h.forwardSpot
    · exact pure

theorem storeTargets {w : Who} {f va : Nat} {v : Dword} {bs : List Byte} : Keeps (storeTargets w f v va bs) :=
  mapM fun _ => bind resolve fun _ => pure

theorem sendWrite {m : Msg} {t : Target} {elem : Bool} : Keeps (sendWrite m t elem) :=
  get fun _ h => ite (set h) (set h)

theorem storeParts {w : Who} {seen : Nat} {v : Dword} {clock : List (Nat × Nat)} {rels : List Nat} {plain elem : Bool}
    {ps : List (Target × List Byte)} : Keeps (storeParts w seen v clock rels plain elem ps) :=
  get fun _ _ => bind
    (forM fun _ => ite (bind await fun _ => bind awaitHome fun _ => ite checkRace pure) pure) fun _ =>
    forM fun _ => ite performWrite (get fun _ _ => sendWrite)

theorem awaitSent : Keeps awaitSent := get fun _ _ => await

theorem storeBytes {f seen va : Nat} {v : Dword} {bs : List Byte} : Keeps (storeBytes f seen v va bs) := by
  refine get fun _ _ => bind storeTargets fun _ => get fun _ h => ite ?_ (bind awaitSent fun _ => ?_)
  all_goals exact bind (set h.armedWrite) fun _ => storeParts

/-! Atomics -/

theorem resolveAtomic {o : AtomicOp} {va : Nat} {v : Dword} : Keeps (resolveAtomic o v va) :=
  bind trapIf fun _ => get fun _ _ => bind resolve fun _ => bind trapIf fun _ => pure

theorem atomicHere {o : AtomicOp} {seen va v expected : Nat} {val : Dword} {t : Target} :
    Keeps (atomicHere o seen val t va v expected) := by
  refine get fun _ _ => bind await fun _ => bind await fun _ => bind awaitHome fun _ => bind checkPoison fun _ =>
    get fun u hu => ?_
  have done : ((u.armedWrite false).1.observe none t.loc (o.width / 8) |>.atomicAt o t.loc v expected).1.Inv :=
    hu.armedWrite.observe.atomicAt
  refine bind (set ⟨done.1, done.pkg.leaves _⟩) fun _ => ?_
  cases t.spot with
  | some p => exact bind (orStop fun _ h => h.forwardSpot) fun _ => pure
  | none => exact pure

theorem atomic {o : AtomicOp} {va v expected : Nat} {val : Dword} : Keeps (atomic o val va v expected) :=
  bind resolveAtomic fun _ => get fun _ _ => atomicHere

theorem sendAtomic {o : AtomicOp} {val : Dword} {t : Target} {va v expected : Nat} {dest : Dest} {waits : Bool} :
    Keeps (sendAtomic o val t va v expected dest waits) :=
  get fun _ h => bind await fun _ => bind (set h.armedWrite) fun _ => sendAccess

theorem noHost {t : Target} {f : Nat} {v : Dword} : Keeps (noHost t f v) := trapIf

/-! The store buffer -/

theorem drainEntry {e : SbEntry} : Keeps (drainEntry e) := by
  unfold Machine.drainEntry
  dsimp only
  split
  · exact bind resolve fun _ => bind noHost fun _ => get fun _ _ => get fun _ _ => bind await fun _ => modify fun _ h => h
  · refine bind storeTargets fun _ => ite ?_ (bind awaitSent fun _ => get fun _ _ => bind await fun _ => ?_)
    all_goals exact get fun _ _ => storeParts

theorem drainOne : Keeps drainOne := by
  refine get fun s h => ?_
  split
  · exact pure
  · next e rest _ =>
    refine ite pure ?_
    have ends := (drainEntry (e := e)).ends { s with h := { s.h with sb := rest } } h
    dsimp only
    split <;> rename_i r <;> rw [r] at ends
    · exact set ends
    · exact bind (set ends) fun _ => orStop fun _ h => h.keepFault
    · exact set ends
    · exact pure
    · exact pure
    · exact stop

theorem queueStore {va d : Dword} {n : Nat} {k : StoreKind} : Keeps (queueStore va n d k) :=
  get fun _ _ => bind await fun _ => modify fun _ h => h

theorem awaitBuffer : Keeps awaitBuffer := get fun _ _ => await

theorem awaitPerformed : Keeps awaitPerformed := bind awaitBuffer fun _ => get fun _ _ => await

theorem awaitApplied : Keeps awaitApplied := bind awaitPerformed fun _ => get fun _ _ => await

end Keeps
end Sys2Proof.Machine
end

section
/-! SUPPORT. What keeps the memory form: queues, dispatch, pre-emption, continuations, joins, the ends of gangs. -/

namespace Sys2Proof.Machine

variable {α β : Type} {s : State} {p : Pkg}

namespace Pkg.Inv

theorem qdrop {q : Nat} (h : p.Inv) : (p.qdrop q).Inv := h

theorem qrefuse {q code : Nat} (h : p.Inv) : (p.qrefuse q code).Inv := h

theorem unreserve {die name : Nat} (h : p.Inv) : (p.unreserve die name).Inv := h

theorem slotEvents {die : Nat} (h : p.Inv) : (p.slotEvents die).Inv := by
  refine .foldl (fun r q hr => .ite ?_ hr) h _
  cases r.ownDram _ <;> exact hr

theorem tenantDrop {die src tid addr : Nat} (h : p.Inv) : (p.tenantDrop die src tid addr).Inv := h

theorem handSpills {die : Nat} (h : p.Inv) : (p.handSpills die).Inv := by
  refine .foldl (fun r d hr => ?_) h _
  split
  · exact .ite hr hr
  · exact hr

end Pkg.Inv

namespace State.Inv

/-! Dispatch and resumption (R308 to R311, R385) -/

theorem accept {q : Nat} {r : BitVec 512} {clock : List (Nat × Nat)} (h : s.Inv) : (s.accept q r clock).Inv :=
  have written := h.putPhys.getD h
  ⟨written.1, written.2⟩

theorem takeUnits {cluster n : Nat} (h : s.Inv) : (s.takeUnits cluster n).1.Inv := h

theorem putHart {core : Nat} {secure : Bool} {k : Hart} (h : s.Inv) : (s.putHart core secure k).Inv := h.onCore fun _ h => h

theorem clearCsa {k : Hart} {gslot : Option Nat} (h : s.Inv) : Every State.Inv (s.clearCsa k gslot) := by
  unfold State.clearCsa
  split
  · exact .none
  · next e => exact (h.clearPages _ e).putDwords

theorem startHarts {secure : Bool} {gslot : Option Nat} {hs : List (Nat × Hart)} (h : s.Inv) :
    Every State.Inv (s.startHarts secure gslot hs) := by
  induction hs generalizing s with
  | nil => exact .some h
  | cons e r ih =>
    unfold State.startHarts
    split
    · exact .none
    · next e => exact ih (h.clearCsa _ e).putHart

theorem dispatchRecord {die cluster : Nat} {c : Cand} (h : s.Inv) : Every State.Inv (s.dispatchRecord die cluster c) := by
  unfold State.dispatchRecord
  exact startHarts ⟨h.1, h.2⟩

theorem evictGang {g : Gang} (h : s.Inv) : Every State.Inv (s.evictGang g) :=
  .map (.foldl (fun _ _ ho => .bind ho fun _ h => h.evictPart) (.some h) _) fun _ h => h

theorem placeResume {g : Gang} {cluster : Nat} (h : s.Inv) : Every State.Inv (s.placeResume g cluster) :=
  .map (.ite (.some h) h.evictGang) fun _ h =>
    have held := State.Inv.foldl (fun _ _ h => putHart h) h.takeUnits _
    ⟨held.1, held.2⟩

theorem passOver {c : Cand} {cs : List Cand} (h : s.Inv) : (s.passOver c cs).Inv := by
  refine .foldl (fun t c ht => .ite ht ?_) h _
  cases c.gang <;> exact ht

theorem reserve {die cluster : Nat} {c : Cand} (h : s.Inv) : (s.reserve die cluster c).Inv := h

theorem preemptGang {g : Nat} (h : s.Inv) : (s.preemptGang g).Inv := by
  unfold State.preemptGang
  split
  · exact h
  · refine .ite h (.foldl (fun _ _ h => ?_) h.onGang _)
    exact h.onCore fun _ h => h

theorem schedulerPreempt {die : Nat} {c : Cand} (h : s.Inv) : (s.schedulerPreempt die c).Inv := by
  refine .ite h ?_
  dsimp only
  split
  · exact h
  · refine .foldl (fun _ _ h => h.preemptGang) ?_ _
    exact h

theorem guardReserve {die : Nat} {cs : List Cand} (h : s.Inv) : (s.guardReserve die cs).Inv := by
  refine .foldl (fun t c ht => ?_) h _
  split
  · exact ht
  · exact ht.reserve

theorem selectFrom {die fuel : Nat} (h : s.Inv) : Every State.Inv (s.selectFrom die fuel) := by
  induction fuel generalizing s with
  | zero => exact .some h
  | succ fuel ih =>
    unfold State.selectFrom
    extract_lets cs t
    have ht : t.Inv := h.guardReserve
    split
    · exact .ite (.some ht) (.some (.foldl (fun _ _ h => h.schedulerPreempt) ht _))
    · next c k _ =>
      have passed : ({ t.passOver c cs with pkg := (t.passOver c cs).pkg.unreserve die c.name } : State).Inv :=
        ⟨ht.passOver.1, ht.passOver.2⟩
      dsimp only
      split
      · exact .some (ht.withPkg ht.pkg.wakeArrays)
      · cases c.gang with
        | some g =>
          dsimp only
          split
          · exact .some passed
          · exact .bind passed.placeResume fun _ h => ih h
        | none =>
          dsimp only
          split
          · exact .none
          · next e => exact ih (passed.dispatchRecord _ e)

theorem select {die : Nat} (h : s.Inv) : Every State.Inv (s.select die) := selectFrom ⟨h.1, h.pkg.slotEvents⟩

theorem selectAll (h : s.Inv) : Every State.Inv s.selectAll :=
  .foldl (fun _ _ ho => .bind ho fun _ h => h.select) (.some h) _

theorem enqueue {q : Nat} {r : BitVec 512} {clock : List (Nat × Nat)} (h : s.Inv) :
    Every (fun x => x.1.Inv) (s.enqueue q r clock) := by
  unfold State.enqueue
  split
  · exact .map h.accept.select fun _ h => h
  · exact .some ⟨h.1, h.2⟩

/-! Continuations and joins (R305, R313, R314) -/

theorem holdCont {die : Nat} {c : HeldCont} (h : s.Inv) : (s.holdCont die c).Inv :=
  .ite h (h.withPkg (Pkg.Inv.ite h.pkg h.pkg))

theorem dropCont {die : Nat} {c : HeldCont} (h : s.Inv) : (s.dropCont die c).Inv :=
  h.withPkg (.ite h.pkg h.pkg)

theorem sendCont {die : Nat} {c : HeldCont} {first : Bool} (h : s.Inv) : (s.sendCont die c first).Inv := by
  unfold State.sendCont
  dsimp only
  split
  · exact h.holdCont
  · exact .ite h h

theorem enqueueCont {die package q addr tid : Nat} {r : BitVec 512} {secure : Bool} {clock : List (Nat × Nat)} (h : s.Inv) :
    Every State.Inv (s.enqueueCont die package q r addr tid secure clock) := by
  unfold State.enqueueCont
  refine .ite (.some (sendCont h)) (.ite (.some h.dropCont) ?_)
  split
  · exact .ite (.some h.holdCont) h.accept.select
  · exact .some (holdCont ⟨h.1, h.2⟩)
  · exact .some ⟨h.1, h.2⟩

theorem joinAt {tid loc : Nat} {secure : Bool} {clock : List (Nat × Nat)} (h : s.Inv) :
    Every State.Inv (s.joinAt tid secure loc clock) := by
  unfold State.joinAt
  extract_lets t key before clk src p u home c w target record package v
  have pulled : t.Inv := h.pulled.pulled
  have hu : u.Inv := pulled.withPkg pulled.pkg
  have hw : w.Inv := hu.putBytes
  have hv : v.Inv := hw.putBytes
  exact .ite (.ite (.some (hw.withPkg hw.pkg)) hw.enqueueCont) (.ite (.some (hv.withPkg hv.pkg)) (.some hw))

/-! The end of a gang (R313, R338, R401) -/

theorem freeSlots {g : Gang} {slots : List Nat} (h : s.Inv) : (s.freeSlots g slots).Inv := h

theorem freePart {g : Gang} (h : s.Inv) : (s.freePart g).Inv := h

theorem emptyCore {core : Nat} (h : s.Inv) : (s.emptyCore core).Inv := h.onCore fun _ h => ⟨h.1, h.2⟩

theorem settleEvac {die : Nat} (h : s.Inv) : (s.settleEvac die).Inv := by
  unfold State.settleEvac
  dsimp only
  split
  · exact h
  · refine .ite h (h.withPkg ?_)
    exact Pkg.Inv.ite (p := (s.pkg.setCtl _ _).logEvent _ _ _ _ _) h.pkg (Pkg.Inv.handSpills h.pkg)

theorem endFault {e : GangEnd} {addr : Nat} (h : s.Inv) : (s.endFault e addr).Inv := h

theorem endPoison {e : GangEnd} {addr loc : Nat} (h : s.Inv) : (s.endPoison e addr loc).Inv := h

theorem endStop {e : GangEnd} {addr : Nat} {p : EndPlace} (h : s.Inv) : Every (fun x => x.1.Inv) (s.endStop e addr p) := by
  unfold State.endStop
  split <;> exact .some h

theorem contStep {e : GangEnd} (h : s.Inv) : Every (fun x => x.1.Inv) (s.contStep e) := by
  unfold State.contStep
  split
  · exact h.endStop
  · next locs _ =>
    split
    · exact .some h.wake
    · have pulled : (locs.foldl State.pulled s).Inv := .foldl (fun _ _ h => h.pulled) h _
      dsimp only
      split
      · exact .some pulled.endPoison
      · exact .map pulled.enqueueCont fun _ h => h

theorem joinStep {e : GangEnd} (h : s.Inv) : Every (fun x => x.1.Inv) (s.joinStep e) := by
  refine .ite h.endStop ?_
  split
  · refine .ite h.endStop (.ite (.some ⟨h.1, h.2⟩) (.ite (.some h.wake) ?_))
    dsimp only
    split
    · exact .some h.pulled.pulled.endPoison
    · exact .map h.pulled.pulled.joinAt fun _ h => h
  · exact h.endStop

theorem endSteps {e : GangEnd} (h : s.Inv) : Every (fun x => x.1.Inv) (s.endSteps e) := by
  have cont : Every (fun x => x.1.Inv) (if e.cont = 0 then some (s, true) else s.contStep e) := .ite (.some h) h.contStep
  unfold State.endSteps
  split
  · exact .none
  · next c => exact .some (cont _ c)
  · next t c =>
    have ht : t.Inv := cont _ c
    have join : Every (fun x => x.1.Inv) (if e.join = 0 then some (t, true) else t.joinStep e) := .ite (.some ht) ht.joinStep
    split
    · exact .none
    · next j => exact .some (join _ j)

theorem retryEnds (h : s.Inv) : Every State.Inv s.retryEnds :=
  .foldl (fun _ _ ho => .bind ho fun _ h => .map h.endSteps fun _ h => ⟨h.1, h.2⟩) (.some ⟨h.1, h.2⟩) _

theorem gangEnd {g : Gang} (h : s.Inv) : Every State.Inv (s.gangEnd g) := by
  unfold State.gangEnd
  extract_lets harts clock cores t u p w w'
  have ht : t.Inv := (State.Inv.foldl (fun _ _ h => h.emptyCore) h _).freeSlots
  have hu : u.Inv := .ite ht ht.freePart
  have hp : p.Inv := .foldl (fun _ _ h => h.unreserve) hu.pkg _
  have hw : w.Inv := ⟨hu.1, hp⟩
  have hw' : Every State.Inv w' := .ite (.some hw) (.map hw.endSteps fun _ h => ⟨h.1, h.2⟩)
  exact .bind hw' fun _ h => h.settleEvac.select

end State.Inv
end Sys2Proof.Machine
end

section
/-! SUPPORT. What keeps the memory form: subscriptions and the ends of harts, registers and flags, the VDQ, copies. -/

namespace Sys2Proof.Machine

variable {α β : Type} {s : State} {p : Pkg}

theorem Pkg.Inv.stopCopies {id : Nat} (h : p.Inv) : (p.stopCopies id).Inv := h

theorem Pkg.Inv.overwritten {loc n : Nat} (h : p.Inv) : (p.overwritten loc n).Inv := h

namespace State.Inv

/-! Subscriptions and the ends of harts (R270, R338, R391) -/

theorem unlinkSub {id e : Nat} {y : SubEntry} (h : s.Inv) : Every State.Inv (s.unlinkSub id e y) :=
  .bind h.flushBatches fun _ h => h.onHart

theorem clearSub {id e : Nat} {y : SubEntry} (h : s.Inv) : Every State.Inv (s.clearSub id e y) :=
  .bind h.onHart fun _ h => h.onHart

theorem clearPub {id e : Nat} {y : PubEntry} (h : s.Inv) : Every State.Inv (s.clearPub id e y) :=
  .bind (.foldl (fun _ _ ho => .bind ho fun _ h => h.onHart) (.some h) _) fun _ h => h.onHart

theorem endSubs {id : Nat} (h : s.Inv) : Every (fun x => x.1.Inv) (s.endSubs id) := by
  unfold State.endSubs
  split
  · exact .some h
  · refine .bind (P := State.Inv) (.bind (P := State.Inv) ?_ fun _ h => h.flushBatches) fun t ht => ?_
    · exact .foldl (fun _ _ ho => .bind ho fun _ h => h.unlinkSub) (.some h) _
    · refine .ite (.some ht) (.map (P := State.Inv) ?_ fun _ h => h)
      refine .foldl (fun _ _ ho => .bind ho fun _ h => h.clearPub) ?_ _
      exact .foldl (fun _ _ ho => .bind ho fun _ h => h.clearSub) (.some ht) _

theorem endSubsOf {ids : List Nat} (h : s.Inv) : Every State.Inv (s.endSubsOf ids) :=
  .foldl (fun _ _ ho => .bind ho fun _ h => .map (P := fun x => x.1.Inv) h.endSubs fun _ h => h) (.some h) _

theorem settleDiscard {id : Nat} (h : s.Inv) : Every State.Inv (s.settleDiscard id) := by
  unfold State.settleDiscard
  split
  · exact .some h
  · refine .bind h.endSubsOf fun t ht => ?_
    split
    · exact .some ht
    · exact .ite (.some ht) (gangEnd ht)

theorem settleGang {id : Nat} (h : s.Inv) : Every State.Inv (s.settleGang id) := by
  unfold State.settleGang
  split
  · exact .some h
  · refine .ite (.ite (.some h) h.settleDiscard) (.ite (.some h) (.bind h.endSubsOf fun t ht => ?_))
    split
    · exact .some ht
    · exact .ite (.some ht) ht.gangEnd

theorem settleBarrierFrom {id n : Nat} (h : s.Inv) : (s.settleBarrierFrom id n).Inv := by
  induction n generalizing s with
  | zero => exact h
  | succ n ih =>
    unfold State.settleBarrierFrom
    split
    · exact h
    · exact .ite (ih h.onGang) h

theorem settleBarrier {id : Nat} (h : s.Inv) : (s.settleBarrier id).Inv := h.settleBarrierFrom

theorem endHartNow {id : Nat} (h : s.Inv) : Every State.Inv (s.endHartNow id) := onHart h

theorem killHart {id : Nat} {entry : Option Dword} (h : s.Inv) : Every State.Inv (s.killHart id entry) := by
  unfold State.killHart
  split
  · exact .some h
  · refine .ite (.some h) ?_
    split
    · exact h.onHart
    · exact .ite (.some h) h.endHartNow

theorem discardGang {g : Gang} (h : s.Inv) : Every State.Inv (s.discardGang g) := by
  have stopped (hs : List Hart) : (hs.foldl (fun p (k : Hart) => p.stopCopies k.ident) s.pkg).Inv :=
    .foldl (fun _ _ h => h.stopCopies) h.pkg hs
  exact settleGang (onGang (h.withPkg (stopped _)))

theorem killGang {id : Nat} {entry : Option Dword} (h : s.Inv) : Every State.Inv (s.killGang id entry) := by
  unfold State.killGang
  split
  · exact .some h
  · split
    · refine .ite (.some h) (.bind (P := State.Inv) ?_ fun _ h => h.settleBarrier.settleGang)
      exact .foldl (fun _ _ ho => .bind ho fun _ h => h.killHart) (.some h.onGang) _
    · exact h.discardGang

/-! Registers and flags -/

theorem withHart {k : Hart} (h : s.Inv) : ({ s with h := k } : State).Inv := h

theorem setX {r : BitVec 5} {v : Dword} (h : s.Inv) : (s.setX r v).Inv := h

theorem setV {r : Nat} {v : Vec} (h : s.Inv) : (s.setV r v).Inv := h

theorem setM {r : Nat} {v : Mask} (h : s.Inv) : (s.setM r v).Inv := .ite h h

theorem retire (h : s.Inv) : s.retire.Inv := h

theorem jumpTo {pc : Dword} (h : s.Inv) : (s.jumpTo pc).Inv := h

theorem setFlags {fl : Flags} (h : s.Inv) : (s.setFlags fl).Inv := h

theorem clearVstart (h : s.Inv) : s.clearVstart.Inv := h

theorem putElem {r w e v : Nat} (h : s.Inv) : (s.putElem r w e v).Inv := .ite h h

theorem putElems {r w : Nat} {vs : List (Nat × Nat)} (h : s.Inv) : (s.putElems r w vs).Inv :=
  .foldl (fun _ _ h => h.putElem) h vs

theorem putMaskBits {r : Nat} {bs : List (Nat × Bool)} (h : s.Inv) : (s.putMaskBits r bs).Inv := h.setM

theorem reportMiss {id die cls late : Nat} {va : Dword} (h : s.Inv) : Every State.Inv (s.reportMiss id die va cls late) :=
  onHart (.ite h h)

/-! Copies -/

theorem holdWrite {id loc : Nat} {bs : List Byte} {poison : Bool} (h : s.Inv) : (s.holdWrite id loc bs poison).Inv := by
  have held := h.pkg.tableSets (f := (loc + ·)) (g := (bs.getD · 0)) (List.range bs.length)
  exact .ite ⟨h.1, held⟩ ⟨h.1, held⟩

theorem stillPoisoned {old : List Nat} {loc n : Nat} (h : s.Inv) : (s.stillPoisoned old loc n).Inv := h

theorem releasePending {id : Nat} (h : s.Inv) : (s.releasePending id).Inv := by
  refine ⟨Memory.wf_writeCells _ h.1, ?_⟩
  have settled (ks : List Nat) : (ks.foldl (fun (p : Pkg) k => p.overwritten (64 * k) 64) s.pkg).Inv :=
    .foldl (fun _ _ h => h.overwritten) h.pkg ks
  exact (settled _).sublist (List.filter_sublist.map _)

theorem markFrames {c : CopyRun} {fb : Nat} (h : s.Inv) : (s.markFrames c fb).Inv := by
  refine .foldl (fun t f ht => ?_) h _
  dsimp only
  split
  · exact .ite ht ht
  · exact ht

theorem issuedUnder {r : CopyReq} (h : s.Inv) : (s.issuedUnder r).Inv := h

end State.Inv

namespace Keeps

theorem illegal {w : Nat} : Keeps (illegal w : M α) := trapOf

theorem needPriv {k : Priv} {w : Nat} : Keeps (needPriv k w) := get fun _ _ => trapIf

theorem awaitVdq : Keeps awaitVdq := get fun _ _ => await

theorem writeX {d : BitVec 5} {v : Dword} : Keeps (writeX d v) := modify fun _ h => h.setX

theorem change {f : State → State} (hf : ∀ s, s.Inv → (f s).Inv) : Keeps (change f) := modify hf

theorem awaitAcknowledged : Keeps awaitAcknowledged :=
  get fun _ _ => bind await fun _ => ite (bind (orStop fun _ h => h.flushBatches) fun _ => again) awaitPerformed

theorem needAcc : Keeps needAcc := get fun _ _ => trapIf

theorem awaitEnd : Keeps awaitEnd :=
  get fun _ _ => bind awaitBuffer fun _ => ite (bind (orStop fun _ h => .map h.endSubs fun _ h => h) fun _ => again) await

theorem endHart : Keeps endHart :=
  bind awaitEnd fun _ => bind (modify fun _ h => h) fun _ => orStop fun _ h => h.settleBarrier.settleGang

theorem framePoison : Keeps framePoison := by
  refine get fun _ h => ?_
  dsimp only
  split
  · exact bind (set h) fun _ => trapOf
  · exact pure

theorem eretBody : Keeps eretBody := by
  refine bind needPriv fun _ => get fun _ _ => bind trapIf fun _ => bind await fun _ => bind awaitApplied fun _ =>
    bind await fun _ => ite endHart (bind framePoison fun _ => ?_)
  split
  · exact stop
  · exact modify fun _ h => h.withHart

theorem fpEnabled {fl : Flags} : Keeps (fpEnabled fl : M α) := trapOf

theorem raiseFlags {fl : Flags} : Keeps (raiseFlags fl) :=
  bind (modify fun _ h => h.setFlags) fun _ => get fun _ _ => ite pure fpEnabled

theorem detCheck : Keeps detCheck := get fun _ _ => trapIf

theorem setNdet : Keeps setNdet := modify fun _ h => h

theorem retireWithFlags {fl : Flags} : Keeps (retireWithFlags fl) :=
  bind (modify fun _ h => h.setFlags.retire) fun _ => get fun _ _ => ite pure raise

/-! The VDQ -/

theorem needGroups {w : Nat} {ok : Nat → Bool} : Keeps (needGroups w ok) := get fun _ _ => trapIf

theorem enterVdq {w : Nat} {held : Bool} : Keeps (enterVdq w held) :=
  get fun _ _ => bind await fun _ => ⟨fun _ h => h⟩

theorem entered {m : M Unit} (h : Keeps m) : Keeps (entered m) := by
  refine ⟨fun s hs => ?_⟩
  have ends := h.ends s hs
  unfold Machine.entered
  rcases e : m s with (_ | _ | _ | _ | _) | _ <;> rw [e] at ends
  case error.trap => exact State.Inv.ite ends ends
  all_goals exact ends

theorem vecRun {w : Nat} {ok : Nat → Bool} {m : M Unit} (h : Keeps m) : Keeps (vecRun w ok m) :=
  bind needGroups fun _ => get fun _ _ => ite (bind await fun _ => h) (ite (entered h) enterVdq)

theorem further {done : Nat} {rows : List Vec} : Keeps (further done rows) := bind (modify fun _ h => h) fun _ => again

theorem vecIssue {w : Nat} {ok : Nat → Bool} : Keeps (vecIssue w ok) :=
  bind needGroups fun _ => bind awaitVdq fun _ => get fun _ _ => await

/-! Copies (R258 to R268, R280 to R302) -/

variable {c : CopyRun}

theorem awaitSites {l : List (Site × Nat)} {write graph : Bool} : Keeps (awaitSites c l write graph) :=
  get fun _ _ => bind await fun _ => ite pure
    (bind (modify fun _ h => h.withPkg (.foldl (fun _ _ h => h.wake) h.pkg _)) fun _ => again)

theorem readRun {e : Endpoint} {pos n : Nat} : Keeps (readRun c e pos n) := by
  refine get fun _ _ => ?_
  split
  · exact pure
  · exact hold
  · exact readSpot
  · refine bind (modify fun _ h => h.pulled) fun _ => get fun _ _ => ite (bind (modify fun _ h => h) fun _ => ?_) ?_
    all_goals exact ite pure pure

theorem readRange {e : Endpoint} {pos n : Nat} : Keeps (readRange c e pos n) := bind (mapM fun _ => readRun) fun _ => pure

theorem writeRun {k : Nat} {e : Endpoint} {pos : Nat} {bs : List Byte} {poison graph : Bool} :
    Keeps (writeRun c k e pos bs poison graph) := by
  have forwards {p : Spot} : Keeps (Machine.orStop fun s => s.forwardSpot c.hart p bs poison) :=
    orStop fun _ h => h.forwardSpot
  have marks {loc : Nat} :
      Keeps (MonadStateOf.modifyGet fun s : State => ((), { s with pkg := s.pkg.raceMark loc c.hart (c.agent k) 1 }) : M PUnit) :=
    modify fun _ h => h
  refine get fun _ _ => ?_
  split
  · exact pure
  · exact hold
  · refine bind writeSpot fun _ => get fun _ _ => ?_
    dsimp only
    split
    · refine ite (bind marks fun _ => ?_) ?_
      · exact forwards
      · exact forwards
    · exact forwards
  · refine bind (modify fun _ h => h.pulled) fun _ => get fun _ _ => ?_
    refine ite (bind (modify fun _ h => h.holdWrite) fun _ => ?_) (bind (modify fun _ h => h.writeHome) fun _ => ?_)
    all_goals
      refine bind (modify fun _ h => h.stillPoisoned) fun _ => ite (bind (modify fun _ h => h.poisonBytes) fun _ => ?_) ?_
      all_goals exact ite pure (ite marks pure)

theorem writeRange {k : Nat} {e : Endpoint} {pos : Nat} {bs : List Byte} {poison graph : Bool} :
    Keeps (writeRange c k e pos bs poison graph) := forM fun _ => writeRun

theorem keepCopy : Keeps (keepCopy c) := modify fun _ h => h

theorem countChunk {k : Nat} : Keeps (countChunk c k) :=
  get fun _ _ => bind (orStop fun _ h => h.onHart) fun _ => bind (modify fun _ h => h) fun _ =>
    ite (modify fun _ h => h) pure

theorem failChunk {k code : Nat} : Keeps (failChunk c k code) :=
  ite (bind (orStop fun _ h => h.onHart) fun _ => pure) pure

theorem endCopy : Keeps (endCopy c) :=
  get fun _ _ => bind (modify fun _ h => h.releasePending.withPkg h.releasePending.pkg) fun _ =>
    bind (orStop fun _ h => h.settleGang) fun _ => ite (orStop fun _ h => h.selectAll) pure

theorem settleCopy : Keeps (settleCopy c) := ite endCopy keepCopy

theorem segBytes {g : Seg} : Keeps (segBytes c g) := by
  unfold Machine.segBytes
  split
  · exact pure
  · exact readRange

theorem performChunk {k : Nat} : Keeps (performChunk c k) :=
  get fun _ _ => ite pure (bind awaitSites fun _ => bind awaitSites fun _ => bind (mapM fun _ => segBytes) fun _ =>
    bind (forM fun _ => writeRange) fun _ => pure)

theorem plainChunk {k : Nat} : Keeps (plainChunk c k) := by
  unfold Machine.plainChunk
  split
  · exact get fun _ _ => ite (bind countChunk fun _ => settleCopy) pure
  · refine ite (ite endCopy pure) (ite pure (bind performChunk fun r => ?_))
    cases r with
    | some code => exact bind failChunk fun _ => settleCopy
    | none => exact get fun _ _ => ite keepCopy (bind countChunk fun _ => settleCopy)

theorem failChunks {code : Nat} {ks : List Nat} : Keeps (failChunks c code ks) := by
  induction ks generalizing c with
  | nil => exact pure
  | cons k r ih => exact bind failChunk fun _ => ih

theorem runFrame {dir : Nat} {g : Graph} : Keeps (runFrame c dir g) := by
  unfold Machine.runFrame
  extract_lets fb f row k lo n far near
  generalize (if dir = 0 then (c.src, c.dst) else (c.dst, c.src)) = ends
  obtain ⟨fe, ne⟩ := ends
  refine get fun _ _ => ite failChunks (bind awaitSites fun _ => bind awaitSites fun _ =>
    ite (bind readRange fun _ => ?_) (bind readRange fun _ => ?_))
  all_goals
    refine ite (bind readRange fun _ => ?_) (bind pure fun _ => ?_)
    all_goals
      refine bind (orStop fun _ h => h.onHart) fun _ => ite
        (bind writeRange fun _ => ite (bind writeRange fun _ => ?_) ?_) (bind writeRange fun _ => ?_)
      all_goals exact ite failChunks pure

theorem writeStatus {dir : Nat} {g : Graph} : Keeps (writeStatus c dir g) := by
  unfold Machine.writeStatus
  split
  · exact writeRange
  · exact pure

theorem awaitStatus : Keeps (awaitStatus c) := get fun _ _ => awaitSites

theorem nextFrame {dir : Nat} {img : BitVec 2048} : Keeps (nextFrame c dir img) := by
  refine ite pure (ite (bind awaitStatus fun _ => ?_) ?_)
  all_goals exact bind runFrame fun _ => ite (bind writeStatus fun _ => keepCopy) keepCopy

theorem countAll {ks : List Nat} : Keeps (countAll c ks) := by
  induction ks generalizing c with
  | nil => exact pure
  | cons k r ih => exact ite ih (bind countChunk fun _ => ih)

theorem graphChunk {dir : Nat} {img : BitVec 2048} {k : Nat} : Keeps (graphChunk c dir img k) := by
  refine ite (get fun _ _ => ite (ite settleCopy (ite endCopy pure)) ?_)
    (ite endCopy (ite (bind awaitStatus fun _ => bind writeStatus fun _ => bind countAll fun _ =>
      bind (modify fun _ h => h.markFrames) fun _ => endCopy) pure))
  dsimp only
  split
  · exact ite keepCopy (bind countChunk fun _ => ite settleCopy keepCopy)
  · exact ite (bind countChunk fun _ => ite settleCopy keepCopy) pure

theorem chunkComplete {id k : Nat} : Keeps (chunkComplete id k) := by
  refine get fun _ _ => ?_
  split
  · exact pure
  · refine bind awaitArea fun _ => get fun _ _ => ite pure ?_
    split
    · exact plainChunk
    · exact graphChunk

theorem refuseChunk {id k : Nat} : Keeps (refuseChunk id k) := by
  refine get fun _ _ => ?_
  split
  · exact pure
  · exact ite pure (bind failChunk fun _ => settleCopy)

theorem graphFrame {id : Nat} : Keeps (graphFrame id) := by
  refine get fun _ _ => ?_
  split
  · split
    · exact bind awaitArea fun _ => get fun _ _ => ite pure nextFrame
    · exact pure
  · exact pure

theorem takeSnapshot : Keeps (takeSnapshot c) :=
  ite (get fun _ _ => bind awaitSites fun _ =>
    bind (mapM fun _ => mapM fun _ => bind readRun fun _ => pure) fun _ => pure) pure

theorem acceptCopy {r : CopyReq} : Keeps (acceptCopy r) := by
  refine get fun _ _ => bind await fun _ => get fun _ _ => ?_
  split
  · exact modify fun _ h => h
  · exact pure
  · refine ite (bind detCheck fun _ => bind setNdet fun _ => ?_) ?_
    all_goals exact bind (modify fun _ h => h) fun _ => get fun _ _ => bind takeSnapshot fun _ => modify fun _ h => h

theorem vdqHead : Keeps vdqHead := by
  refine get fun _ _ => ?_
  split
  · exact pure
  · exact modify fun _ h => h
  · exact ite (bind (modify fun _ h => h) fun _ => acceptCopy) pure
  · exact pure

theorem reserveNext {id : Nat} : Keeps (reserveNext id) := by
  refine get fun _ _ => ?_
  split
  · exact pure
  · split
    · exact pure
    · exact ite keepCopy pure

end Keeps
end Sys2Proof.Machine
end

section
/-! SUPPORT. What keeps the memory form: scalar memory, counters and streams, subscriptions, barriers, work, control
registers, system instructions. -/

namespace Sys2Proof.Machine

variable {α β : Type} {s : State} {p : Pkg}

namespace State.Inv

theorem owes {k : Hart} {p : Pkg} (h : s.Inv) (hp : p.Inv) : ({ s with h := k, pkg := p } : State).Inv := ⟨h.1, hp⟩

theorem inputDrop {i : Nat} (h : s.Inv) : (s.inputDrop i).Inv := h

theorem onGroup {n : Nat} {f : LocalGroup → LocalGroup} (h : s.Inv) : (s.onGroup n f).Inv := h

theorem releaseReductions {scope : Nat} (h : s.Inv) : (s.releaseReductions scope).Inv := h

theorem sendBarrier {m : Msg} (h : s.Inv) : (s.sendBarrier m).Inv := .ite h (.ite h h)

theorem writeCsr {n : Nat} {v : Dword} (h : s.Inv) : (s.writeCsr n v).Inv := by
  by_cases group : 0x840 ≤ n ∧ n ≤ 0x85F
  · rw [writeCsr_group group.1 group.2]
    exact h.onGroup
  · have updates := writeCsr_updates s (n := n) v (by omega)
    generalize s.writeCsr n v = t at updates
    cases updates <;> exact h

theorem markState {k : Hart} {st : Nat} (h : s.Inv) : Every State.Inv (s.markState k st) := by
  unfold State.markState
  split
  · exact h.putDwords
  · exact .none

theorem clearNotice {g : Nat} (h : s.Inv) : Every State.Inv (s.clearNotice g) := by
  refine .foldl (fun _ _ ho => .bind ho fun _ h => markState (h.onCore fun _ h => ?_)) (.some h.onGang) _
  exact h

theorem dropTranslations {k : Inval} (h : s.Inv) : (s.dropTranslations k).Inv := h

end State.Inv

theorem Pkg.Inv.setSpan {d n : Nat} {g : SpanGroup} (h : p.Inv) : (p.setSpan d n g).Inv := h

theorem Pkg.Inv.debugHalt {die : Nat} (h : p.Inv) : (p.debugHalt die).Inv := h

namespace Keeps

/-! Scalar memory (R216 to R252) -/

theorem awaitPlaced : Keeps awaitPlaced := get fun _ _ => await

theorem awaitRead : Keeps awaitRead := get fun _ _ => await

theorem loadScalar {scope : Option Nat} {d : BitVec 5} {z : Nat} {va : Dword} : Keeps (loadScalar scope d z va) := by
  refine bind awaitPlaced fun _ => bind leavingLoad fun ts => ?_
  cases ts with
  | nil => exact bind loadBytes fun _ => writeX
  | cons t ts => exact sendLoad

theorem loadPlain {d : BitVec 5} {z : Nat} {va : Dword} : Keeps (loadPlain d z va) := loadScalar

theorem storePlain {va : Dword} {n : Nat} {v : Dword} : Keeps (storePlain va n v) := queueStore

theorem loadAcquire {d : BitVec 5} {scope z : Nat} {va : Dword} : Keeps (loadAcquire d scope z va) :=
  bind trapIf fun _ => loadScalar

theorem storeRelease {scope n : Nat} {va v : Dword} : Keeps (storeRelease scope n va v) := bind trapIf fun _ => queueStore

theorem fenceAcquire {scope : Nat} : Keeps (fenceAcquire scope) := modify fun _ h => h

theorem awaitFence : Keeps awaitFence := get fun _ _ => bind await fun _ => awaitAcknowledged

theorem fenceRelease {scope : Nat} : Keeps (fenceRelease scope) := modify fun _ h => h

theorem fenceLoads {scope : Nat} : Keeps (fenceLoads scope) :=
  bind awaitBuffer fun _ => get fun _ _ => bind await fun _ => fenceAcquire

theorem awaitReductions : Keeps awaitReductions := get fun _ _ => await

theorem storeTimed {scope n : Nat} {va time v : Dword} : Keeps (storeTimed scope n va time v) :=
  bind trapIf fun _ => get fun _ _ => queueStore

theorem sendTimedLoad {f : Nat} {val va : Dword} {elem n time : Nat} {dest : Dest} :
    Keeps (sendTimedLoad f val va elem n time dest) :=
  bind awaitPlaced fun _ => get fun _ _ => bind await fun _ => bind resolve fun _ => bind noHost fun _ => get fun _ h =>
    bind await fun _ => set h

theorem loadTimed {d : BitVec 5} {n : Nat} {va time : Dword} : Keeps (loadTimed d n va time) :=
  bind trapIf fun _ => sendTimedLoad

/-! Copies, counters and streams -/

theorem copy {form : Nat} {a b c : BitVec 5} {n : BitVec 4} {stream : Bool} : Keeps (copy form a b c n stream) :=
  get fun _ _ => bind await fun _ => bind await fun _ =>
    ite (bind awaitVdq fun _ => bind await fun _ => acceptCopy) (modify fun _ h => h)

theorem waitCounter {cc n : Nat} : Keeps (waitCounter cc n) :=
  bind awaitVdq fun _ => get fun _ _ => bind await fun _ => modify fun _ h => h

theorem readCounter {a : BitVec 5} {cc : Nat} : Keeps (readCounter a cc) := bind awaitVdq fun _ => modify fun _ h => h

theorem setCounter {cc : Nat} {v : Dword} : Keeps (setCounter cc v) :=
  get fun _ _ => bind await fun _ => modify fun _ h => h

theorem bindStream {sid dir : Nat} {va : Dword} : Keeps (bindStream sid dir va) :=
  bind awaitVdq fun _ => bind trapIf fun _ => bind (mapM fun _ => loadBytes) fun _ => get fun _ _ =>
    bind trapIf fun _ => modify fun _ h => h

theorem unbindStream {sid : Nat} : Keeps (unbindStream sid) := bind awaitVdq fun _ => modify fun _ h => h

/-! Subscriptions (R270 to R279) -/

theorem readRegion {pub : Hart} {cluster : Bool} {off n : Nat} : Keeps (readRegion pub cluster off n) :=
  mapM fun _ => bind awaitSpot fun _ => readSpot

theorem snapshot {pub me : Hart} {cluster : Bool} {off : Nat} {mine : Bool} {at_ n : Nat} :
    Keeps (snapshot pub me cluster off mine at_ n) :=
  bind readRegion fun _ => forM fun _ => bind awaitSpot fun _ => writeSpot

theorem subscribe {e : Nat} {a b c : Dword} : Keeps (subscribe e a b c) := by
  refine bind awaitVdq fun _ => get fun _ _ => bind trapIf fun _ => ?_
  dsimp only
  split
  · refine bind trapIf fun _ => bind trapIf fun _ => bind trapIf fun _ => ?_
    split
    · exact trapOf
    · exact bind snapshot fun _ => bind (orStop fun _ h => h.onHart) fun _ => modify fun _ h => h
  · exact trapOf

theorem unsubscribe {e : Nat} : Keeps (unsubscribe e) := by
  refine get fun _ _ => ?_
  split
  · exact pure
  · exact get fun _ _ => bind (orStop fun _ h => h.unlinkSub) fun _ => get fun _ _ =>
      ite again (orStop fun _ h => h.clearSub)

theorem unpublish {e : Nat} : Keeps (unpublish e) := by
  refine get fun _ _ => ?_
  split
  · exact pure
  · exact get fun _ _ => bind (orStop fun _ h => h.flushBatches) fun _ => get fun _ _ =>
      ite again (orStop fun _ h => h.clearPub)

theorem flushUpdates : Keeps flushUpdates :=
  bind awaitVdq fun _ => bind awaitBuffer fun _ => get fun _ _ =>
    ite (bind (orStop fun _ h => h.flushBatches) fun _ => again) await

theorem batchTimeout {entry subscriber : Nat} : Keeps (batchTimeout entry subscriber) := by
  refine get fun _ _ => ?_
  split
  · split
    · exact ite (orStop fun _ h => h.flushBatches) pure
    · exact pure
  · exact pure

/-! Barriers (R315 to R336) -/

theorem standing {m : M Unit} (h : Keeps m) : Keeps (standing m) := by
  refine ⟨fun s hs => ?_⟩
  have ends := h.ends s hs
  unfold Machine.standing
  rcases e : m s with (_ | _ | _ | _ | _) | _ <;> rw [e] at ends
  case error.wait =>
    dsimp only
    split
    · trivial
    · exact hs
  all_goals exact ends

theorem arriveWaits : Keeps arriveWaits := bind awaitVdq fun _ => bind awaitAcknowledged fun _ => get fun _ _ => await

theorem arriveReady {word i : Nat} {member : Bool} : Keeps (arriveReady word i member) := by
  refine get fun _ _ => ite (bind illegal fun _ => ?_) ?_
  all_goals exact bind (standing arriveWaits) fun _ => modify fun _ h => h

theorem waitReady {word i : Nat} {member : Bool} : Keeps (waitReady word i member) := get fun _ _ => ite illegal pure

theorem waitUntil {b : Bool} : Keeps (waitUntil b) :=
  ite (modify fun _ h => h) (get fun _ _ => ite hold (bind (modify fun _ h => h) fun _ => again))

theorem arriveGang {word : Nat} : Keeps (arriveGang word) :=
  bind arriveReady fun _ => modify fun _ h => State.Inv.settleBarrier (State.Inv.ite h.onGang h.inputDrop)

theorem waitGang {word : Nat} : Keeps (waitGang word) := by
  refine bind waitReady fun _ => get fun _ _ => ?_
  split
  · exact hold
  · exact bind waitUntil fun _ => modify fun _ h => h

theorem arriveLocal {word n : Nat} : Keeps (arriveLocal word n) :=
  get fun _ _ => bind arriveReady fun _ => modify fun _ h => State.Inv.ite h.onGroup h.inputDrop

theorem waitLocal {word n : Nat} : Keeps (waitLocal word n) :=
  get fun _ _ => bind waitReady fun _ => bind waitUntil fun _ => modify fun _ h => h

theorem contributionReady {n : Nat} : Keeps (contributionReady n) := get fun _ _ => await

theorem arriveSpan {word n : Nat} : Keeps (arriveSpan word n) :=
  get fun _ _ => bind arriveReady fun _ => bind contributionReady fun _ => modify fun _ h =>
    .ite (.ite (State.Inv.sendBarrier h) h) h

theorem waitSpan {word n : Nat} : Keeps (waitSpan word n) :=
  get fun _ _ => bind waitReady fun _ => bind waitUntil fun _ => bind (modify fun _ h => h) fun _ =>
    ite (orStop fun _ h => h.reportMiss) pure

/-! Work (R302 to R314) -/

theorem receive {d : BitVec 5} {a : Dword} : Keeps (receive d a) := by
  refine bind trapIf fun _ => get fun _ _ => ?_
  split
  · exact bind loadBytes fun _ => bind loadBytes fun _ => bind await fun _ => writeX
  · exact trapOf

theorem readRecord {r : Dword} : Keeps (readRecord r) := bind (mapM fun _ => loadBytes) fun _ => pure

theorem releaseWork : Keeps releaseWork :=
  get fun _ _ => bind await fun _ => bind awaitPerformed fun _ => modify fun _ h => h

theorem offer {q addr : Nat} {r : BitVec 512} : Keeps (offer q addr r) := by
  refine get fun s h => bind trapIf fun _ => bind awaitPhys fun _ => ?_
  have entered := State.Inv.enqueue (q := q) (r := r) (clock := s.h.clock) h
  split
  · exact stop
  · next e => exact bind (set (entered _ e)) fun _ => trapIf

theorem launch {a : Dword} : Keeps (launch a) :=
  bind trapIf fun _ => bind readRecord fun _ => bind releaseWork fun _ => get fun _ _ => offer

theorem launchRemote {d a : Dword} : Keeps (launchRemote d a) := by
  refine bind trapIf fun _ => bind readRecord fun _ => get fun s h => bind trapIf fun _ => ?_
  split
  · refine bind awaitWalk fun _ => bind (set h.translate) fun _ => ?_
    split
    · exact trapOf
    · split
      · refine bind releaseWork fun _ => ite offer (get fun s h => ?_)
        split
        · exact hold
        · exact bind trapIf fun _ => set h
      · exact trapOf
  · exact trapOf

theorem joinBlock {a : Dword} : Keeps (joinBlock a) := by
  refine bind trapIf fun _ => get fun _ _ => ?_
  split
  · refine bind resolve fun _ => bind noHost fun _ => ?_
    refine bind releaseWork fun _ => get fun _ h =>
      ite (set (h.owes h.pkg)) (bind awaitHome fun _ => bind awaitHome fun _ => get fun _ _ => ?_)
    split
    · exact bind checkPoison fun _ => orStop fun _ h => h.joinAt
    · exact orStop fun _ h => h.joinAt
  · exact trapOf

/-! Control registers (R145 to R148) -/

theorem csrReady {word n : Nat} {write : Bool} : Keeps (csrReady word n write) := by
  refine get fun _ _ => ?_
  extract_lets vdq rest
  have hvdq u : Keeps (vdq u) := ite awaitVdq pure
  have hrest u : Keeps (rest u) := ite (bind needAcc hvdq) (hvdq ())
  split
  · exact bind trapOf hrest
  · exact hrest ()

theorem readCsr {word : Nat} {d : BitVec 5} {n : Nat} : Keeps (readCsr word d n) :=
  bind csrReady fun _ => modify fun _ h => h

theorem putCsr {word n : Nat} {v : Dword} : Keeps (putCsr word n v) := bind csrReady fun _ => modify fun _ h => h.writeCsr

theorem changeCsr {word n : Nat} {a : BitVec 5} {f : Dword → Dword → Dword} : Keeps (changeCsr word n a f) :=
  bind csrReady fun _ => ite pure (modify fun _ h => h.writeCsr)

/-! System instructions -/

theorem haltHart {word : Nat} : Keeps (haltHart word) :=
  bind needPriv fun _ => bind awaitBuffer fun _ => modify fun _ h => h

theorem fenceFetch : Keeps fenceFetch := bind awaitVdq fun _ => bind awaitPerformed fun _ => modify fun _ h => h

theorem preemptSelf {word : Nat} : Keeps (preemptSelf word) :=
  bind needPriv fun _ => get fun _ _ => bind (modify fun _ h => h.retire) fun _ =>
    ite (bind (orStop fun _ h => h.clearNotice) fun _ => modify fun _ h => h.preemptGang) pure

theorem killGangs {word : Nat} {a : Dword} : Keeps (killGangs word a) := by
  have kills {l : List Gang} {f : State → Bool} {m : M Unit} (hm : Keeps m) : Keeps (do
      l.forM fun g => Machine.orStop fun s => s.killGang g.id (some a)
      let s ← MonadState.get
      if f s then Machine.again else m) :=
    bind (forM fun _ => orStop fun _ h => h.killGang) fun _ => get fun _ _ => ite again hm
  exact bind needPriv fun _ => bind trapIf fun _ => get fun _ _ => ite (bind trapIf fun _ => kills pure) (kills pure)

theorem popFault {word : Nat} {d : BitVec 5} : Keeps (popFault word d) := by
  refine bind needPriv fun _ => get fun _ _ => ?_
  split
  · exact writeX
  · exact bind (orStop fun _ h => h.dropFault) fun _ => bind (modify fun _ h => h) fun _ => writeX

theorem invalidate {word : Nat} {a : Dword} : Keeps (invalidate word a) := by
  refine bind needPriv fun _ => ?_
  split
  · exact trapOf
  · exact get fun _ _ => bind trapIf fun _ => bind await fun _ => bind awaitApplied fun _ =>
      bind (modify fun _ h => h.dropTranslations) fun _ => get fun _ _ => ite pure again

theorem invalidateHandles {word : Nat} {a : Dword} : Keeps (invalidateHandles word a) :=
  bind needPriv fun _ => bind trapIf fun _ => bind awaitApplied fun _ => get fun _ _ => await

end Keeps
end Sys2Proof.Machine
end

section
/-! SUPPORT. What keeps the memory form: messages and responses, barriers across dies, timed accesses, fetch. -/

namespace Sys2Proof.Machine

variable {α β : Type} {s : State} {p : Pkg}

namespace Pkg.Inv

theorem reply {owner hartid core : Nat} {body : RespBody} {miss : Option (Dword × Nat × Nat)} {key : Nat × Nat} (h : p.Inv) :
    (p.reply owner hartid core body miss key).Inv := .ite h h

theorem replyTo {m : Msg} {body : RespBody} (h : p.Inv) : (p.replyTo m body).Inv := h.reply

theorem acknowledge {m : Msg} (h : p.Inv) : (p.acknowledge m).Inv := by
  unfold Pkg.acknowledge
  split
  · exact h.replyTo
  · exact h

theorem ueEvent {loc : Nat} (h : p.Inv) : (p.ueEvent loc).Inv := h

theorem poisonReply {m : Msg} {loc : Nat} (h : p.Inv) : (p.poisonReply m loc).Inv := h.ueEvent.replyTo

theorem leaveFor {m : Msg} {loc n : Nat} (h : p.Inv) : (p.leaveFor m loc n).Inv := .foldl (fun _ _ h => h.leave) h _

theorem leavesFor {m : Msg} {n : Nat} (h : p.Inv) (l : List Nat) : (l.foldl (fun t k => t.leaveFor m k n) p).Inv :=
  .foldl (fun _ _ h => h.leaveFor) h l

theorem markFor {m : Msg} {loc : Nat} (h : p.Inv) : (p.markFor m loc).Inv := .ite h h

theorem launchAnswered {r : Resp} (h : p.Inv) : (p.launchAnswered r).Inv := .ite h h

theorem obtained {t : Timed} {waited : Bool} (h : p.Inv) : (p.obtain t waited).Inv := .ite (.reply h) h

theorem leaveTimed {t : Timed} {loc : Nat} {before : List (Nat × Nat)} (h : p.Inv) : (p.leaveTimed t loc before).Inv :=
  .ite h h.leave

theorem logEvent {die kind src a b : Nat} (h : p.Inv) : (p.logEvent die kind src a b).Inv := h

theorem keyDups {ts : List Timed} (h : p.Inv) : (p.keyDups ts).Inv := by
  induction ts generalizing p with
  | nil => exact h
  | cons t r ih =>
    cases r with
    | nil => exact h
    | cons u r => exact ih (.ite h.logEvent h)

end Pkg.Inv

namespace State.Inv

theorem ite_fst {c : Prop} [Decidable c] {x y : State × α} (h : x.1.Inv) (k : y.1.Inv) : (if c then x else y).1.Inv := by
  split
  · exact h
  · exact k

theorem unsend {k : Nat} (h : s.Inv) : (s.unsend k).Inv := h

theorem replyTo {m : Msg} {body : RespBody} (h : s.Inv) : ({ s with pkg := s.pkg.replyTo m body } : State).Inv :=
  h.withPkg h.pkg.replyTo

theorem writeCells {cells : List Host.Cell} (h : s.Inv) : (s.writeCells cells).Inv :=
  .ite h.writeHome (.foldl (fun _ _ h => h.writeHome) h _)

theorem reduceElem {m : Msg} {r : State × Flags} {e : RedElem} (h : r.1.Inv) : (State.reduceElem m r e).1.Inv :=
  have changed : (r.1.atomicAt e.op e.key e.value 0).1.Inv := h.atomicAt
  .ite_fst (h.withPkg h.pkg.ueEvent.replyTo) (changed.withPkg changed.pkg.leaveFor.leaveReduced)

theorem contAnswer {tag code : Nat} (h : s.Inv) : (s.contAnswer tag code).Inv := by
  refine .foldl (fun t d ht => ?_) h _
  split
  · exact ht
  · exact .ite (holdCont (withPkg ht ht.pkg)) ht

theorem deliver {r : Resp} (h : s.Inv) : Every State.Inv (s.deliver r) := by
  unfold State.deliver
  split
  · exact .map h.focus.keepFault fun _ h => h.focus
  · exact h.onHart

end State.Inv

namespace Keeps

/-! Messages (R187 to R196, R369) -/

theorem settleOwner {id : Nat} : Keeps (settleOwner id) :=
  ite pure (bind awaitArea fun _ => bind (orStop fun _ h => h.refreshOut) fun _ => orStop fun _ h => h.settleGang)

theorem refuse {k : Nat} {m : Msg} {loc : Nat} : Keeps (refuse k m loc) := by
  refine bind (modify fun s h => ?_) fun _ => settleOwner
  dsimp only
  refine h.withPkg (Pkg.Inv.acknowledge (.ite (.replyTo (.ite (.ite h.pkg h.pkg) h.pkg)) (.ite (.ite h.pkg h.pkg) h.pkg)))

theorem performAt {k : Nat} {m : Msg} {loc n : Nat} {act : M Unit} (h : Keeps act) : Keeps (performAt k m loc n act) := by
  refine get fun _ _ => ite pure (ite refuse (bind awaitHome fun _ => bind (modify fun _ h => h) fun _ =>
    ite (bind (modify fun _ h => h.keepTenant) fun _ => ?_) ?_))
  all_goals exact bind h fun _ => bind (modify fun _ h => h.withPkg h.pkg.acknowledge) fun _ => settleOwner

theorem performSpot {k : Nat} {m : Msg} {a : Spot} {act : M Unit} (h : Keeps act) : Keeps (performSpot k m a act) :=
  get fun _ _ => ite pure (bind awaitSpot fun _ => bind (modify fun _ h => h) fun _ => bind h fun _ =>
    bind (modify fun _ h => h.withPkg h.pkg.acknowledge) fun _ => settleOwner)

theorem readMsg {k : Nat} : Keeps (readMsg k) := by
  refine get fun _ _ => ?_
  split
  · split
    · split
      · refine performSpot (get fun _ _ => bind readSpot fun _ => ite (modify fun _ h => h.replyTo) ?_)
        exact bind (modify fun _ h => h.replyTo) fun _ => ite (orStop fun _ h => h.onHart) pure
      · refine performAt (get fun _ h => ite (set (h.withPkg h.pkg.poisonReply)) (ite (set h.replyTo) ?_))
        exact bind (set h.replyTo) fun _ => ite (orStop fun _ h => h.onHart) pure
    · exact pure
  · exact pure

theorem writeMsg {k : Nat} : Keeps (writeMsg k) := by
  refine get fun _ _ => ?_
  split
  · split
    · refine performAt (modify fun s h => .ite h.replyTo ?_)
      exact h.writeHome.withPkg h.writeHome.pkg.markFor.leaveFor
    · split
      · exact performSpot (bind writeSpot fun _ => bind (modify fun _ h => h.withPkg (h.pkg.leavesFor _)) fun _ =>
          orStop fun _ h => h.forwardSpot)
      · refine performAt (modify fun s h => .ite h.replyTo ?_)
        exact h.writeCells.withPkg h.writeCells.pkg.markFor.leaveFor
    · exact pure
  · exact pure

theorem atomicSpot {m : Msg} {a : Spot} {op : AtomicOp} {v expected : Nat} {dest : Dest} {tag : Nat} :
    Keeps (atomicSpot m a op v expected dest tag) := by
  refine get fun _ _ => bind readSpot fun _ => ite (modify fun _ h => h.replyTo) ?_
  refine bind writeSpot fun _ => bind (orStop fun _ h => h.forwardSpot) fun _ => bind (modify fun s h => ?_) fun _ =>
    orStop fun _ h => h.onHart
  exact h.withPkg (Pkg.Inv.replyTo (.leavesFor (.leaves h.pkg _) _))

theorem atomicMsg {k : Nat} : Keeps (atomicMsg k) := by
  refine get fun _ _ => ?_
  split
  · split
    · extract_lets n act
      have hact : Keeps act := get fun _ h => ite (set (h.withPkg h.pkg.poisonReply))
        (bind (set (h.atomicAt.withPkg h.atomicAt.pkg.leaveFor.replyTo)) fun _ => orStop fun _ h => h.onHart)
      split
      · exact performSpot atomicSpot
      · exact performAt hact
    · exact pure
  · exact pure

theorem reduceMsg {k : Nat} : Keeps (reduceMsg k) := by
  refine get fun _ _ => ?_
  split
  · next m _ =>
    split
    · split
      · exact modify fun _ h => h
      · refine performAt (bind (forM fun _ => awaitHome) fun _ => modify fun s h => ?_)
        have reduced (es : List RedElem) : (es.foldl (State.reduceElem m) (s, 0)).1.Inv :=
          List.foldlRecOn (motive := fun r : State × Flags => r.1.Inv) es _ h fun _ hr _ _ => State.Inv.reduceElem hr
        exact (reduced _).withPkg (reduced _).pkg.replyTo
    · exact pure
  · exact pure

theorem joinMsg {k : Nat} : Keeps (joinMsg k) := by
  refine get fun _ _ => ?_
  split
  · split
    · refine performAt (bind awaitHome fun _ => get fun _ _ => ?_)
      split
      · exact modify fun _ h => h.withPkg h.pkg.poisonReply
      · exact bind (orStop fun _ h => h.joinAt) fun _ => modify fun _ h => h.replyTo
    · exact pure
  · exact pure

theorem updateMsg {k : Nat} : Keeps (updateMsg k) := by
  refine get fun _ _ => ?_
  split
  · split
    · refine ite pure (bind (modify fun _ h => h) fun _ => get fun _ _ => ?_)
      have rest {a b : Nat} : Keeps (do Machine.settleOwner a; Machine.settleOwner b) := bind settleOwner fun _ => settleOwner
      split
      · exact ite (bind (modify fun _ h => h) fun _ => rest)
          (bind (forM fun _ => bind awaitSpot fun _ => writeSpot) fun _ => rest)
      · exact rest
    · exact pure
  · exact pure

theorem respond {k : Nat} : Keeps (respond k) := by
  refine get fun _ _ => ?_
  split
  · exact pure
  · refine ite pure (bind awaitArea fun _ => bind (modify fun _ h => h.withPkg h.pkg.launchAnswered) fun _ => ?_)
    extract_lets delivered edge missed
    have hdelivered u : Keeps (delivered u) := bind (orStop fun _ h => h.deliver) fun _ => settleOwner
    have hmissed u : Keeps (missed u) := by
      dsimp only [missed]
      split
      · exact bind (orStop fun _ h => h.reportMiss) fun _ => bind (orStop fun _ h => h.onHart) hdelivered
      · exact hdelivered ()
    split
    · exact bind (modify fun _ h => h.contAnswer) hmissed
    · exact bind (modify fun _ h => h.contAnswer) hmissed
    · exact bind (modify fun _ h => h) hmissed
    · exact hmissed ()

/-! Barriers across dies (R330 to R336) -/

theorem contribution {k : Nat} : Keeps (contribution k) := by
  refine get fun _ _ => ?_
  split
  · split
    · refine get fun _ _ => get fun _ _ => get fun _ _ => ite pure (modify fun s h => .ite h (.ite h (.ite h ?_)))
      refine .foldl (fun _ _ h => h.sendBarrier) ?_ _
      exact h
    · exact pure
  · exact pure

theorem spanRelease {k : Nat} : Keeps (spanRelease k) := by
  refine get fun _ _ => ?_
  split
  · split
    · exact modify fun s h => .ite h (h.withPkg (.ite h.pkg h.pkg))
    · exact pure
  · exact pure

/-! Timed accesses (R240 to R252) -/

theorem timedArrival {k : Nat} : Keeps (timedArrival k) := by
  refine get fun _ _ => ?_
  split
  · split
    · exact ite refuse (bind (modify fun _ h => h.withPkg (.ite (.obtained h.pkg) h.pkg)) fun _ => settleOwner)
    · exact pure
  · exact pure

theorem entryGrant {k : Nat} : Keeps (entryGrant k) := by
  refine get fun _ _ => ?_
  split
  · exact pure
  · exact ite pure (bind (modify fun _ h => h.withPkg (.obtained h.pkg)) fun _ => settleOwner)

theorem timedWrite {t : Timed} {bs : List Byte} : Keeps (timedWrite t bs) := by
  have left (s : State) (h : s.Inv) (before : List (Nat × Nat)) : ({ s with
      pkg := (s.timedPlaces t).foldl (fun p l => (p.overwritten l bs.length).leaveTimed t l before) s.pkg } : State).Inv :=
    h.withPkg (.foldl (fun _ _ h => h.overwritten.leaveTimed) h.pkg _)
  refine get fun _ _ => ?_
  extract_lets before leaves
  have hleaves u : Keeps (leaves u) := modify fun s h => left s h before
  split
  · exact bind writeSpot fun _ => bind (orStop fun _ h => h.forwardSpot) hleaves
  · exact bind (modify fun _ h => h.pulled.putHeld) hleaves

theorem timedRead {t : Timed} : Keeps (timedRead t) := by
  unfold Machine.timedRead
  split
  · exact readSpot
  · exact bind (modify fun _ h => h.pulled) fun _ => get fun _ h => ite (bind (set h) fun _ => pure) pure

theorem applyTimed {t : Timed} : Keeps (applyTimed t) := by
  unfold Machine.applyTimed
  split
  · exact timedWrite
  · refine bind timedRead fun _ => ite (modify fun _ h => h.withPkg h.pkg.reply)
      (bind timedWrite fun _ => modify fun _ h => h.withPkg (.reply (.foldl (fun _ _ h => h.leaveReduced) h.pkg _)))
  · exact bind timedRead fun _ => get fun _ h => bind (set (h.withPkg h.pkg.reply)) fun _ =>
      ite pure (orStop fun _ h => h.onHart)

theorem timedInstant {home : Nat} : Keeps (timedInstant home) := by
  refine get fun _ _ => ?_
  dsimp only
  split
  · exact pure
  · refine ite (bind (modify fun _ h => h.withPkg (.foldl (fun _ _ h => h.wake) h.pkg _)) fun _ => again) ?_
    exact bind (modify fun _ h => h.withPkg (.keyDups h.pkg)) fun _ => bind (forM fun _ => applyTimed) fun _ =>
      forM fun _ => settleOwner

/-! Fetch (R166 to R175) -/

theorem fetchWord {va : Dword} : Keeps (fetchWord va) := by
  refine bind trapIf fun _ => get fun _ _ => bind resolve fun _ => get fun _ _ => ?_
  split
  · exact bind checkL1 fun _ => pure
  · exact bind awaitHome fun _ => bind checkPoison fun _ => get fun _ h => ite pure (bind (set h) fun _ => pure)

theorem fetchPair : Keeps fetchPair := by
  refine get fun _ _ => ite (bind trapOf fun _ => ?_) ?_
  all_goals exact bind fetchWord fun _ => ite (bind fetchWord fun _ => pure) pure

end Keeps
end Sys2Proof.Machine
end

section
/-! SUPPORT. What keeps the memory form: reports, parking and resuming, queues and rings, the clock and power. -/

namespace Sys2Proof.Machine

variable {α β : Type} {s : State} {p : Pkg}

namespace Pkg.Inv

theorem advance {t : Nat} (h : p.Inv) : (p.advance t).Inv := h

theorem onDie {die : Nat} {f : Die → Die} (h : p.Inv) : (p.onDie die f).Inv := h

theorem setCtl {off : Nat} {v : Dword} (h : p.Inv) : (p.setCtl off v).Inv := h

theorem setQueueInfo {q : Nat} {i : QueueInfo} (h : p.Inv) : (p.setQueueInfo q i).Inv := h

theorem freqStep {die new : Nat} (h : p.Inv) : (p.freqStep die new).Inv := .ite h h

theorem lowerTo {die : Nat} (h : p.Inv) : (p.lowerTo die).Inv := .ite h.freqStep h

theorem holdStep {die : Nat} (h : p.Inv) : (p.holdStep die).Inv := .ite h h

theorem toTimeState {new : Nat} (h : p.Inv) : (p.toTimeState new).Inv := .ite h h

end Pkg.Inv

namespace State.Inv

theorem recallGranules {k : Hart} {core : Nat} (h : s.Inv) : Every State.Inv (s.recallGranules k core) := by
  refine .foldl (fun _ _ ho => .bind ho fun _ h => .map h.evictPriv fun _ h => h.onCore fun _ h => ?_) (.some h) _
  exact h

theorem loadPtbmp {g : Gang} {k : Hart} (h : s.Inv) : Every State.Inv (s.loadPtbmp g k) :=
  .ite (.some h) (.map (P := fun _ => True) (fun _ _ => trivial) fun _ _ => h)

theorem resumeHart {g : Gang} {core : Nat} {k : Hart} (h : s.Inv) : Every State.Inv (s.resumeHart g core k) := by
  refine .bind h.recallGranules fun t ht => ?_
  dsimp only
  split
  · exact .none
  · exact .bind (.bind ht.areaRead.loadPtbmp fun _ h => h.putHart.markState) fun _ h => h.putFaults

theorem retryCont {die : Nat} {c : HeldCont} (h : s.Inv) : Every State.Inv (s.retryCont die c) :=
  .ite (.some h.sendCont) (.ite (.some h.dropCont) (.ite h.accept.select (.some h.holdCont)))

theorem tell {before : State} (h : s.Inv) : (s.tell before).Inv := .ite h h

end State.Inv

namespace Keeps

/-! Reports and parking (R376 to R389) -/

theorem stopHart : Keeps stopHart := bind (orStop fun _ h => h.markState) fun _ => modify fun _ h => h

theorem takeKill {v : Dword} : Keeps (takeKill v) :=
  bind (modify fun _ h => h) fun _ => get fun _ _ =>
    bind (orStop fun _ h => .map (P := fun x => x.1.Inv) h.endSubs fun _ h => h) fun _ => get fun _ _ =>
      ite again (bind (orStop fun _ h => h.markState) fun _ => bind (modify fun _ h => h) fun _ =>
        bind (modify fun _ h => h.settleBarrier) fun _ => trapOf)

theorem takeReport {r : Report} : Keeps (takeReport r) := by
  refine get fun s h => ?_
  cases r with
  | kill v => exact takeKill
  | park => exact stopHart
  | fault f => exact raise
  | notice v => exact bind (set h) fun _ => trapOf
  | copy v => exact bind (set h) fun _ => trapOf
  | uncorrectable v => exact bind (set h) fun _ => trapOf
  | deadline v => exact bind (set h) fun _ => trapOf

theorem reportIf {f : Report → Bool} : Keeps (reportIf f) := by
  refine get fun _ _ => ?_
  split
  · exact ite takeReport pure
  · exact pure

theorem drainStep : Keeps drainStep := bind drainOne fun _ => get fun _ _ => ite (orStop fun _ h => h.settleGang) pure

theorem preemptStop : Keeps preemptStop := get fun _ _ => ite stopHart pure

theorem gangParked {id : Nat} : Keeps (gangParked id) := by
  refine orStop fun s h => ?_
  split
  · exact .some h
  · exact .ite h.onGang.freePart.settleEvac.settleGang h.onGang.freePart.settleEvac.select

theorem parkComplete : Keeps parkComplete := by
  refine get fun _ _ => ?_
  split
  · exact pure
  · refine ite pure (bind (orStop fun _ h => h.flushBatches) fun _ => get fun _ _ => ?_)
    extract_lets _ _ saved
    have hsaved u (k : Hart) : Keeps (saved u k) := bind (orStop fun _ h => h.saveCsa) fun _ =>
      bind (modify fun _ h => h.onGang.emptyCore) fun _ => get fun _ _ => ite pure gangParked
    split
    · exact hsaved () _
    · exact bind (orStop fun _ _ => .none) fun _ => hsaved () _

theorem noticeTimeout {id : Nat} : Keeps (noticeTimeout id) := by
  refine get fun _ _ => ?_
  split
  · exact pure
  · exact ite (bind (orStop fun _ h => h.clearNotice) fun _ => modify fun _ h => h.preemptGang) pure

theorem gangResume {id : Nat} : Keeps (gangResume id) := by
  refine get fun _ _ => ?_
  split
  · exact pure
  · refine ite pure (ite (modify fun _ h => h.withPkg h.pkg.wakeArrays) (bind (orStop fun s h => ?_) fun _ =>
      modify fun _ h => h.onGang))
    refine .foldl (fun o e ho => .bind ho fun t ht => ?_) (.some h) _
    split
    · exact ht.resumeHart
    · exact .some ht

theorem spanWaitExit : Keeps spanWaitExit := by
  refine get fun _ _ => ite pure ?_
  split
  · exact ite (bind waitSpan fun _ => modify fun _ h => h.retire) pure
  · exact pure

theorem pauseExpiry : Keeps pauseExpiry := modify fun _ h => .ite h h

/-! Queues and rings (R303 to R314) -/

theorem enqueueAt {q : Nat} {r : BitVec 512} {clock : List (Nat × Nat)} : Keeps (enqueueAt q r clock) := by
  refine ⟨fun s h => ?_⟩
  have entered := State.Inv.enqueue (q := q) (r := r) (clock := clock) h
  unfold Machine.enqueueAt
  split
  · trivial
  · split
    · next e => exact entered _ e
    · trivial

theorem queueArrival {q : Nat} {r : BitVec 512} {sender : Sender} : Keeps (queueArrival q r sender) := by
  refine ite pure ?_
  cases sender with
  | host => exact get fun _ _ => ite (bind enqueueAt fun _ => pure) (modify fun _ h => h)
  | fabric package hartid tid c =>
    exact get fun _ _ => ite pure (ite (modify fun _ h => h.withPkg h.pkg.reply)
      (bind enqueueAt fun _ => modify fun _ h => h.withPkg h.pkg.reply))

theorem contArrival {q : Nat} {r : BitVec 512} {first : Bool} {clock : List (Nat × Nat)} :
    Keeps (contArrival q r first clock) := by
  refine get fun _ _ => get fun _ _ => bind awaitPhys fun _ => get fun _ _ => ite (bind (orStop fun _ h => h.accept.select) fun _ => pure)
    (ite (bind (ite (modify fun _ h => h) pure) fun _ => pure) (bind (modify fun _ h => h) fun _ => pure))

theorem launchMsg {k : Nat} : Keeps (launchMsg k) := by
  refine get fun _ _ => ?_
  split
  · split
    · refine ite pure (bind (modify fun _ h => h) fun _ => ite (get fun _ h => ?_) ?_)
      · exact modify fun _ h' => h'.withPkg (.replyTo (.ite h.pkg.tenantDrop h.pkg))
      · split
        · exact bind contArrival fun _ => modify fun _ h => h.replyTo
        · exact bind enqueueAt fun _ => modify fun _ h => h.replyTo
    · exact pure
  · exact pure

theorem contRetry {die : Nat} : Keeps (contRetry die) := by
  refine get fun _ _ => ite (orStop fun _ h => ?_) pure
  exact .foldl (fun _ _ ho => .bind ho fun _ h => h.retryCont) (.some (h.withPkg (.onDie h.pkg))) _

theorem ringBad {q die tag off : Nat} {bad : Option Nat} : Keeps (ringBad q die tag off bad) := by
  refine modify fun s h => .ite h (h.withPkg ?_)
  cases bad <;> exact h.pkg

theorem advanceTail {g : Gang} {off tail : Nat} {clock : List (Nat × Nat)} : Keeps (advanceTail g off tail clock) :=
  get fun _ _ => bind writeSpot fun _ => modify fun _ h => h.withPkg (h.pkg.leaves _)

theorem ringDelivery {q : Nat} : Keeps (ringDelivery q) := by
  refine get fun _ _ => ite pure ?_
  split
  · exact pure
  · refine bind awaitSpot fun _ => bind peekSpot fun _ => ?_
    dsimp only
    split
    · refine ite ringBad (ite pure (ite (modify fun _ h => h.withPkg h.pkg) ?_))
      exact bind awaitSpot fun _ => bind awaitPhys fun _ => bind writeSpot fun _ => bind advanceTail fun _ =>
        modify fun _ h => h.withPkg h.pkg
    · exact ringBad

theorem resumeMove {id die : Nat} : Keeps (resumeMove id die) := by
  refine get fun _ _ => ?_
  split
  · exact pure
  · exact ite pure (orStop fun _ h => State.Inv.select (State.Inv.onGang (h.withPkg h.pkg.unreserve)))

end Keeps

/-! The clock, power and time (R339 to R359, R397 to R405) -/

namespace State.Inv

theorem relockEnds {die : Nat} (h : s.Inv) : (relockEnds die s).Inv := by
  unfold Machine.relockEnds
  dsimp only
  split
  · exact h
  · exact .ite h (tell (h.withPkg (.onDie (.lowerTo h.pkg.onDie))))

theorem powerTick {die average1 average10 : Nat} (h : s.Inv) : (powerTick die average1 average10 s).Inv := by
  have moved (new : Nat) : Inv (({ s with pkg := (s.pkg.onDie die fun d =>
      { d with powerStep := new, lastPower := some s.pkg.time }).freqStep die new } : State).tell s) :=
    tell (h.withPkg (.freqStep h.pkg.onDie))
  exact .ite h (.ite (.ite (moved _) h) (.ite (moved _) h))

theorem tctlTick {die temperature : Nat} (h : s.Inv) : (tctlTick die temperature s).Inv :=
  .ite h (.ite (.ite h (tell (h.withPkg (.lowerTo h.pkg.onDie)))) (tell (h.withPkg (.holdStep h.pkg.onDie))))

theorem over105 {die : Nat} (h : s.Inv) : (over105 die s).Inv := tell (h.withPkg (.lowerTo h.pkg.onDie))

theorem end105 {die : Nat} (h : s.Inv) : (end105 die s).Inv := tell (h.withPkg (.holdStep h.pkg.onDie))

theorem packageLost (h : s.Inv) : (packageLost s).Inv := h

theorem thermalTrip {sensor temperature : Nat} (h : s.Inv) : (thermalTrip sensor temperature s).Inv := .ite h h

theorem pcapWrite {a : Agent} {v : Dword} (h : s.Inv) : (pcapWrite a v s).Inv := .ite h h

theorem tctlWrite {a : Agent} {v : Dword} (h : s.Inv) : (tctlWrite a v s).Inv := .ite h h

theorem stepmaxWrite {a : Agent} {die : Nat} {v : Dword} (h : s.Inv) : (stepmaxWrite a die v s).Inv :=
  .ite h (tell (h.withPkg (.holdStep (.lowerTo h.pkg.setCtl))))

theorem offsetMeasured {offset : Int} (h : s.Inv) : (offsetMeasured offset s).Inv := by
  refine h.withPkg (.ite h.pkg ?_)
  split
  · exact .ite (.toTimeState h.pkg) h.pkg
  · exact .ite (.toTimeState h.pkg) h.pkg
  · exact .toTimeState h.pkg
  · exact h.pkg

theorem ptpSync {offset : Int} (h : s.Inv) : (ptpSync offset s).Inv := offsetMeasured (h.withPkg h.pkg)

theorem syncTimeout (h : s.Inv) : (syncTimeout s).Inv := .ite (h.withPkg h.pkg.toTimeState) h

theorem laneErrors {link k n : Nat} (h : s.Inv) : (laneErrors link k n s).Inv := .ite h h

theorem laneRead {link k : Nat} (h : s.Inv) : (laneRead link k s).Inv := .ite h h

theorem laneRepair {link k : Nat} (h : s.Inv) : (laneRepair link k s).Inv := .ite h h

theorem masterSync (h : s.Inv) : (masterSync s).Inv := .ite h h

theorem originKnown {origin : Nat} (h : s.Inv) : (originKnown origin s).Inv := by
  unfold Machine.originKnown
  dsimp only
  split
  · exact h.offsetMeasured.withPkg h.offsetMeasured.pkg
  · exact h

theorem ptpArrives {m : PtpMsg} (h : s.Inv) : (ptpArrives m s).Inv := by
  cases m with
  | sync seq origin =>
    refine .ite h ?_
    split
    · exact originKnown (h.withPkg h.pkg)
    · exact h
  | followUp seq t => exact .ite h h.originKnown
  | delayReq package seq => exact .ite h h
  | delayResp package seq t4 =>
    unfold Machine.ptpArrives
    dsimp only
    split
    · exact .ite h (.ite (offsetMeasured (h.withPkg h.pkg)) h)
    · exact h

end State.Inv

theorem Keeps.haltEnds {die : Nat} : Keeps (haltEnds die) :=
  get fun _ _ => ite (orStop fun _ h => State.Inv.select (h.withPkg (.onDie h.pkg))) pure

end Sys2Proof.Machine
end

section
/-! SUPPORT. What keeps the memory form: the registers of the package, the host, reliability, boot and resets, the check of
an image. -/

namespace Sys2Proof.Machine

variable {α β : Type} {s : State} {p : Pkg}

namespace Pkg.Inv

theorem rootAlone {d n : Nat} (h : p.Inv) : (p.rootAlone d n).Inv := .ite h h

theorem candidateAnew {before : Pkg} {q : Nat} (h : p.Inv) : (p.candidateAnew before q).Inv := .ite h h

theorem setRetention {a : Nat} {r : Option Retention} (h : p.Inv) : (p.setRetention a r).Inv := h

theorem scrubCounts {counts : List (Nat × Nat × Nat)} (h : p.Inv) : (p.scrubCounts counts).Inv :=
  .foldl (fun _ _ h => .ite h.logEvent h) h _

theorem startEvac {die : Nat} {plan : List (List Nat)} (h : p.Inv) : (p.startEvac die plan).Inv := h

theorem settleRegion {r : EvacRegion} (h : p.Inv) : (p.settleRegion r).Inv := by
  unfold Pkg.settleRegion
  split
  · exact .ite h.setCtl h
  · exact h
  · exact h.onDie

theorem selfTest {failed : List (Nat × Nat)} {die : Nat} (h : p.Inv) : (p.selfTest failed die).Inv := by
  unfold Pkg.selfTest
  dsimp only
  split
  · exact h
  · exact h.setCtl.logEvent
  · exact .foldl (fun _ _ h => h.logEvent) h.setCtl _

theorem loadPrt (h : p.Inv) : p.loadPrt.Inv := h

theorem warm : p.warm.Inv := by
  have cleared {q : Pkg} (e : q.pendMem = []) : q.Inv := by
    unfold Pkg.Inv
    rw [e]
    exact .nil
  exact .setCtl (.ite (cleared rfl) (.loadPrt (cleared rfl)))

end Pkg.Inv

namespace State.Inv

/-! Registers (R339 to R375) -/

theorem setReg {off : Nat} {v : Dword} (h : s.Inv) : (s.setReg off v).Inv := h

theorem guarded {ok : Bool} {t : State} (h : s.Inv) (ht : t.Inv) : (s.guarded ok t).Inv := .ite ht h

theorem prtWrite {a : Agent} {n d : Nat} {v : Dword} (h : s.Inv) : (prtWrite a n d v s).Inv := by
  refine .ite h (.ite (.ite h h) ?_)
  split
  · exact .ite h (.ite h h)
  · exact h
  · exact h
  · exact h

theorem qcfgWrite {a : Agent} {q : Nat} {v : Dword} (h : s.Inv) : Every State.Inv (qcfgWrite a q v s) := by
  have put (t : State) (v : Dword) (ht : t.Inv) : Every State.Inv
      (({ t.setReg (offQueue q 1) v with pkg := (t.setReg (offQueue q 1) v).pkg.candidateAnew s.pkg q } : State).select (q / 16)) :=
    select (ht.withPkg ht.setReg.pkg.candidateAnew)
  exact .ite (.some h) (.ite (put _ _ h) (.ite (put _ _ h) (.ite (.some h) (put _ _ (h.withPkg h.pkg.setCtl)))))

theorem qrelWrite {a : Agent} {q : Nat} {v : Dword} (h : s.Inv) : Every State.Inv (qrelWrite a q v s) :=
  .ite (.some h) (select (h.withPkg h.setReg.pkg.candidateAnew))

theorem qpop {a : Agent} {q : Nat} {v : Dword} (h : s.Inv) : (qpop a q v s).Inv := .ite h h

theorem queueReg {q r : Nat} {v : Dword} (h : s.Inv) : (queueReg q r v s).Inv := by
  unfold Machine.queueReg
  split
  · exact .ite h h
  all_goals exact h

theorem scfgWrite {a : Agent} {d n : Nat} {v : Dword} (h : s.Inv) : (scfgWrite a d n v s).Inv :=
  .ite h (.ite h (.ite h (h.withPkg h.setReg.pkg.rootAlone)))

theorem spanReg {d n r : Nat} {v : Dword} (h : s.Inv) : (spanReg d n r v s).Inv := by
  refine .ite h ?_
  split <;> exact h

theorem giveNotice {g : Gang} {word : Dword} (h : s.Inv) : Every State.Inv (s.giveNotice g word) := by
  refine .foldl (fun _ _ ho => .bind ho fun _ h => markState (h.onCore fun _ h => ?_)) (.some h.onGang) _
  exact h

theorem preqWrite {a : Agent} {die : Nat} {v : Dword} (h : s.Inv) : Every State.Inv (preqWrite a die v s) := by
  refine .ite (.some h) (.ite ?_ (.some (.foldl (fun _ _ h => h.preemptGang) h _)))
  exact .foldl (fun _ _ ho => .bind ho fun _ h => h.giveNotice) (.some h) _

theorem migrationWrite {a : Agent} {n d : Nat} {v : Dword} (h : s.Inv) : (migrationWrite a n d v s).Inv := by
  refine .ite h ?_
  split
  · exact .ite h (.ite h h)
  all_goals exact h

theorem migrationPull {n line : Nat} (h : s.Inv) : (migrationPull n line s).Inv := by
  refine .ite h ?_
  split
  · exact .ite h h.pullNow
  · exact h

theorem keyctlWrite {a : Agent} {k : Nat} {v : Dword} (h : s.Inv) : (keyctlWrite a k v s).Inv := .ite h (.ite h h)

theorem keydataWrite {a : Agent} {k d : Nat} {v : Dword} (h : s.Inv) : (keydataWrite a k d v s).Inv := .ite h h

theorem trapBlockWrite {a : Agent} {block d : Nat} {v : Dword} (h : s.Inv) : (trapBlockWrite a block d v s).Inv := by
  refine .ite h ?_
  split
  · exact h
  · exact h
  · exact .ite h h
  · exact .ite h h
  · exact .ite h h
  · exact .ite h h
  · exact .ite h h
  · exact h

theorem tenantReg {d c : Nat} {v : Dword} (h : s.Inv) : (tenantReg d c v s).Inv := h

theorem registerWrite {a : Agent} {off : Nat} {v : Dword} (h : s.Inv) : (registerWrite a off v s).Inv :=
  .ite (h.guarded h.tenantReg) <| .ite h <| .ite (h.guarded h) <| .ite (h.guarded h.queueReg) <| .ite (h.guarded h.spanReg) <|
    .ite (h.guarded h) <| .ite (h.guarded h) <| .ite (h.guarded h) <| .ite (h.guarded h) h

theorem registerRead {a : Agent} {off : Nat} (h : s.Inv) : (registerRead a off s).Inv := h

theorem pageRead {n : Nat} (h : s.Inv) : (pageRead n s).Inv := h

theorem pulledAll (h : s.Inv) (ls : List Nat) : (ls.foldl State.pulled s).Inv := .foldl (fun _ _ h => h.pulled) h ls

theorem bar4Read {off n : Nat} (h : s.Inv) : Every State.Inv (bar4Read off n s) := by
  refine .ite (.some h) (.ite .none (.some ((h.pulledAll _).withPkg ?_)))
  split
  · exact (h.pulledAll _).pkg
  · exact (h.pulledAll _).pkg

theorem bar4Write {off : Nat} {bytes : List Byte} (h : s.Inv) : Every State.Inv (bar4Write off bytes s) :=
  .ite (.some h) (.ite .none (.some (.foldl (fun _ _ h => h.writeHome) (h.pulledAll _) _)))

/-! Reliability (R395 to R404, R360 to R364) -/

theorem retentionEnter {a : Nat} (h : s.Inv) : (retentionEnter a s).Inv := .ite h h

theorem enterIdle (h : s.Inv) : s.enterIdle.Inv := by
  refine .foldl (fun _ _ h => ?_) h _
  exact h

theorem retentionEntered {a : Nat} (h : s.Inv) : (retentionEntered a s).Inv := .ite h (.ite h h)

theorem enteredAll (h : s.Inv) : s.enteredAll.Inv := .foldl (fun _ _ h => h.retentionEntered) h _

theorem fencePseudo {controller pseudo : Nat} {rows : List Nat} (h : s.Inv) : (fencePseudo controller pseudo rows s).Inv :=
  .foldl (fun _ _ h => h.poisonBytes) (h.withPkg (.logEvent h.pkg.setCtl)) _

theorem remapReload {controller pseudo : Nat} {rows : List Nat} {good : Bool} (h : s.Inv) :
    (remapReload controller pseudo rows good s).Inv := .ite h (.ite h h.fencePseudo)

theorem rebuildEnd {controller pseudo : Nat} {good : Bool} (h : s.Inv) : (rebuildEnd controller pseudo good s).Inv :=
  .ite h (fencePseudo h)

theorem rowSparing {controller pseudo : Nat} {rows : List Nat} {spared : Bool} (h : s.Inv) :
    (rowSparing controller pseudo rows spared s).Inv := .ite h h.fencePseudo

theorem upset {loc : Nat} {cached : Bool} (h : s.Inv) : (s.upset loc cached).Inv := .ite h h.poisonBytes

theorem scrub {cached : Bool} {counts : List (Nat × Nat × Nat)} {bad : List Nat} (h : s.Inv) :
    (scrub cached counts bad s).Inv :=
  .foldl (fun _ _ h => h.upset.withPkg h.upset.pkg.ueEvent) (h.withPkg h.pkg.scrubCounts) _

theorem unplace {g : Gang} (h : s.Inv) : (s.unplace g).Inv := onGang (freePart (.foldl (fun _ _ h => h.emptyCore) h _))

theorem rescue {bad : Bool} {loc : Nat} {evict : State → Option State} (h : s.Inv)
    (he : ∀ t : State, t.Inv → Every State.Inv (evict t)) : Every State.Inv (s.rescue bad loc evict) :=
  he _ (.ite h.poisonBytes h)

theorem emptyArrays {cluster : Nat} {unreadable : List Nat} (h : s.Inv) : Every State.Inv (s.emptyArrays cluster unreadable) := by
  refine .map (P := State.Inv) ?_ fun t ht => ?_
  · refine .foldl (fun _ _ ho => .bind ho fun _ h => ?_) ?_ _
    · exact .foldl (fun _ _ ho => .bind ho fun _ h => h.rescue fun _ h => h.evictPriv) (.some h) _
    · exact .foldl (fun _ _ ho => .bind ho fun _ h => h.rescue fun _ h => h.evictPart) (.some h) _
  · extract_lets u c
    have hu : u.Inv := by
      refine .foldl (fun _ _ h => h.onCore fun _ h => ?_) ht _
      exact h
    clear_value u
    exact ⟨hu.1, hu.2⟩

theorem relocate {src dst n : Nat} (h : s.Inv) : (s.relocate src dst n).Inv :=
  have cleared : (s.clearBytes dst n).Inv := h.clearBytes
  ⟨Memory.wf_writeCells _ cleared.1, cleared.2⟩

theorem rekey {f : Nat → Nat} (h : s.Inv) : (s.rekey f).Inv := h

theorem shiftBlock {src dst n : Nat} (h : s.Inv) : (s.shiftBlock src dst n).Inv := h.relocate.rekey

theorem endRegion {k : Nat} {r : EvacRegion} (h : s.Inv) : (s.endRegion k r).Inv :=
  settleEvac (h.withPkg (.logEvent (.settleRegion h.pkg)))

theorem evacMove {k : Nat} (h : s.Inv) : (evacMove k s).Inv := by
  unfold Machine.evacMove
  split
  · exact h
  · next r _ =>
    refine .ite h.endRegion (.ite h ?_)
    generalize s.pkg.blockMove r = move
    obtain ⟨src, dst⟩ := move
    have moved : (s.shiftBlock src dst (s.pkg.strideOf r.entry)).Inv := h.shiftBlock
    exact .ite (endRegion ⟨moved.1, moved.2⟩) ⟨moved.1, moved.2⟩

/-! Boot and resets (R405 to R411) -/

theorem loadTenant (h : s.Inv) : s.loadTenant.Inv :=
  have based := h.withPkg (.setCtl h.pkg)
  (putDwords based).getD based

theorem runImage {i : BootImage} (h : s.Inv) : (s.runImage i).Inv := by
  have tested (ds : List Nat) : (ds.foldl (fun p d => p.selfTest s.pkg.bringUp.failed d) s.pkg).Inv :=
    .foldl (fun _ _ h => h.selfTest) h.pkg ds
  unfold State.runImage
  extract_lets up stat p _ q q1 q2 q3 q4 t
  have hstat (p : Pkg) (phase err : Nat) (h : p.Inv) : (stat p phase err).Inv := h
  have hp : p.Inv := tested _
  have hq1 : q1.Inv := hp
  have hq2 : q2.Inv := hq1.toTimeState
  exact .ite (h.withPkg (hstat _ _ _ h.pkg)) (.ite (h.withPkg (hstat _ _ _ hp)) (loadTenant ⟨h.1, hq2⟩))

theorem tryImage {i : BootImage} (h : s.Inv) : (s.tryImage i).Inv := by
  unfold State.tryImage
  split
  · exact h.runImage
  · exact h

theorem coldReset {i : BootImage} {up : BringUp} : (coldReset i up s).Inv :=
  tryImage ⟨Memory.wf_reset, .nil⟩

theorem rlenWrite {a : Agent} {v : Dword} {i : BootImage} (h : s.Inv) : (rlenWrite a v i s).Inv := .ite h (tryImage h)

/-! Images (R179 to R186) -/

theorem openEntries {k : Walker} {td : TenantDesc} {text : Bool} {ipas : List Nat} (h : s.Inv) :
    (s.openEntries k td text ipas).Inv := by
  refine .foldl (fun t ipa ht => ?_) h _
  split
  · exact ht.pulled.putBytes
  · exact ht

theorem openPages {k : Walker} {td : TenantDesc} {cd : ContextDesc} {text : Bool} {hi fuel va : Nat} (h : s.Inv) :
    (s.openPages k td cd text hi fuel va).Inv := by
  induction fuel generalizing s va with
  | zero => exact h
  | succ fuel ih =>
    refine .ite h ?_
    split
    · exact ih h
    · exact ih h.openEntries

theorem openSections {k : Walker} {td : TenantDesc} {cd : ContextDesc} {text : Bool} {ts : List TextSection} (h : s.Inv) :
    (s.openSections k td cd text ts).Inv := .foldl (fun _ _ h => h.openPages) h _

theorem openImage {ctx : Nat} {i : CheckedImage} (h : s.Inv) : (s.openImage ctx i).Inv := by
  unfold State.openImage
  split
  · exact h
  · split
    · exact h
    · extract_lets k t u
      have ht : t.Inv := h.openSections.openSections
      exact ht.dropTranslations

theorem imageCheck {ctx : Nat} {i : CheckedImage} (h : s.Inv) : (imageCheck ctx i s).Inv := by
  refine .ite h ?_
  split
  · exact h
  · split
    · exact h
    · exact h.openImage.withPkg h.openImage.pkg

theorem say {o : Output} (h : s.Inv) : (s.say o).Inv := h

end State.Inv

namespace Keeps

theorem attempt {f : State → Option State} (hf : ∀ s, s.Inv → Every State.Inv (f s)) : Keeps (attempt f) := orStop hf

theorem hostStep : Keeps hostStep := by
  refine get fun s h => ?_
  split
  · exact pure
  · refine ite pure ?_
    split
    · exact set (Every.getD (State.Inv.bar4Read (h.withPkg h.pkg)) h)
    · exact set (Every.getD (State.Inv.bar4Write (h.withPkg h.pkg)) h)
    · exact bind (set (h.withPkg h.pkg)) fun _ => bind enqueueAt fun _ => pure

theorem hostArrives {a : HostAccess} : Keeps (hostArrives a) :=
  get fun _ _ => bind (modify fun _ h => h) fun _ => ite hostStep pure

theorem retentionLeave {a : Nat} : Keeps (retentionLeave a) :=
  get fun _ _ => ite (orStop fun _ h => State.Inv.select (h.withPkg h.pkg.setRetention)) pure

theorem emptyNext {k : Nat} : Keeps (emptyNext k) := by
  refine get fun _ _ => ?_
  split
  · exact pure
  · exact ite (modify fun _ h => h.withPkg h.pkg.wakeArrays) (orStop fun _ h => State.Inv.emptyArrays (h.withPkg h.pkg))

theorem clusterFailure {die c : Nat} {unreadable : List Nat} : Keeps (clusterFailure die c unreadable) := by
  refine ite pure (bind (modify fun _ h => h.withPkg (.logEvent h.pkg.setCtl)) fun _ => get fun _ _ =>
    bind (orStop fun _ h => ?_) fun _ => get fun _ _ => bind (modify fun _ h => h) fun _ => bind emptyNext fun _ =>
    orStop fun _ h => h.select)
  refine .foldl (fun _ g ho => .bind ho fun t h => ?_) (.some h) _
  split
  · exact .some h
  · exact .some h.unplace
  · exact h.killGang

theorem offreqWrite {a : Agent} {v : Dword} {plan : List (List Nat)} : Keeps (offreqWrite a v plan) := by
  refine get fun _ _ => ite pure (bind (modify fun _ h => h.withPkg h.pkg.startEvac) fun _ => bind (orStop fun _ h => ?_)
    fun _ => orStop fun _ h => h.settleEvac.select)
  refine .foldl (fun _ g ho => .bind ho fun t h => ?_) (.some h) _
  split
  · exact .some h
  · exact .ite h.killGang (.some (.ite h.unplace h.preemptGang))

theorem warmReset : Keeps warmReset := by
  refine bind (modify fun s h => ?_) fun _ => modify fun _ h => .foldl (fun _ _ h => h.settleEvac) h _
  exact State.Inv.tell (State.Inv.loadTenant ⟨h.1, Pkg.Inv.warm⟩)

theorem configure {die : Nat} {tids : List Nat} : Keeps (configure die tids) := by
  refine get fun _ _ => ite (bind (orStop fun _ h => ?_) fun _ => bind (modify fun _ h => ?_) fun _ => modify fun _ h => h)
    (modify fun _ h => h)
  · exact .foldl (fun _ _ ho => .bind ho fun _ h => h.emptyArrays) (.some h) _
  · exact .foldl (fun _ _ h => h.tenantReg) h _

theorem configNext : Keeps configNext := by
  refine get fun _ _ => ?_
  split
  · exact pure
  · exact ite (modify fun _ h => h.withPkg h.pkg.wakeArrays) (bind (modify fun _ h => h) fun _ => configure)

theorem tenantConfig {die : Nat} {tids : List Nat} : Keeps (tenantConfig die tids) :=
  get fun _ _ => bind (modify fun _ h => h) fun _ => ite configNext pure

end Keeps
end Sys2Proof.Machine
end

section
/-! SUPPORT. What keeps the memory form: atomics, vectors, permutes and the matrix unit. -/

namespace Sys2Proof.Machine

variable {α β : Type} {s : State}

theorem State.Inv.endElems (h : s.Inv) : s.endElems.Inv := h

theorem State.Inv.onTiles {f : Core → Core} (h : s.Inv) : (s.onTiles f).Inv := h

theorem State.Inv.endSlices (h : s.Inv) : s.endSlices.Inv := h

theorem State.Inv.acquireMask {n : Nat} (h : s.Inv) : (s.acquireMask n).Inv := h

namespace Keeps

/-! Atomics and reductions (R230 to R232) -/

section
variable {op : Nat} {d a b : BitVec 5} {w : BitVec 1} {o : AtomicOp} {elem : Bool} {seen time v n : Nat} {va val : Dword}

theorem issueFloat {floating : Bool} : Keeps (issueFloat floating) := ite (bind detCheck fun _ => setNdet) pure

theorem amo : Keeps (amo op d a b w) :=
  bind awaitPlaced fun _ => bind awaitRead fun _ => get fun _ _ => bind issueFloat fun _ => bind resolveAtomic fun _ =>
    get fun _ _ => ite (bind sendAtomic fun _ => modify fun _ h => h.retire)
      (get fun _ _ => bind atomicHere fun _ => bind writeX fun _ => retireWithFlags)

theorem reduce : Keeps (reduce o elem seen va v) :=
  bind resolveAtomic fun _ => bind noHost fun _ =>
    ite (bind atomicHere fun _ => bind (modify fun _ h => h.withPkg h.pkg.leaveReduced) fun _ => pure)
      (get fun _ h => bind await fun _ => bind (set h.armedWrite) fun _ => bind sendWrite fun _ => pure)

theorem red : Keeps (red op a b w) :=
  bind awaitRead fun _ => get fun _ _ => bind issueFloat fun _ => bind reduce fun _ => modify fun _ h => h.setFlags

theorem reduceOrdered {scope elem : Nat} : Keeps (reduceOrdered o scope val va elem time v) :=
  bind trapIf fun _ => get fun _ _ => bind resolve fun _ => bind noHost fun _ => get fun _ h => bind await fun _ =>
    bind await fun _ => set (State.Inv.send (h.withHart))

theorem redOrd {floating : Bool} {scope : BitVec 4} : Keeps (redOrd op floating d a b scope) :=
  bind awaitRead fun _ => get fun _ _ => reduceOrdered

theorem floatResult {r : Nat × Flags} : Keeps (floatResult d r) := bind raiseFlags fun _ => writeX

end

/-! Vector memory (R222 to R235) -/

section
variable {word op w seen n : Nat} {ok : Nat → Bool} {d a b : BitVec 5} {p e t : BitVec 3} {es : List Nat}
  {chk f : Nat → M Unit} {addr : Nat → Dword} {o : AtomicOp} {base time va : Dword}

theorem maskLogic {f : State → Mask} : Keeps (maskLogic word d f) := vecRun (modify fun _ h => h.setM)

theorem maskRead {f : Nat → Dword} : Keeps (maskRead word d a f) := bind vecIssue fun _ => modify fun _ h => h

theorem faultFirst (hf : ∀ e, Keeps (f e)) : Keeps (faultFirst f es) := by
  induction es with
  | nil => exact pure
  | cons e r ih =>
    refine ⟨fun s hs => ?_⟩
    have ends := (hf e).ends s hs
    unfold Machine.faultFirst
    rcases m : f e s with (_ | _ | _ | _ | _) | x <;> rw [m] at ends
    case ok => exact ih.ends x.2 ends
    all_goals exact ends

theorem vecFault {e : Nat} {t : Trap} : Keeps (vecFault e t) :=
  bind (modify fun _ h => h) fun _ => get fun _ _ =>
    ite pure (ite (bind (modify fun _ h => h) fun _ => raise) (modify fun _ h => h))

theorem goOn {e : Nat} {next : Dword} : Keeps (goOn e next) := bind (modify fun _ h => h) fun _ => again

theorem vecElems (hc : ∀ e, Keeps (chk e)) (hf : ∀ e, Keeps (f e)) : Keeps (vecElems chk f es) := by
  have all {l : List Nat} : Keeps (Machine.allOrNothing (Machine.faultFirst f l)) := allOrNothing (faultFirst hf)
  refine bind (faultFirst hc) fun bad => get fun _ _ => ?_
  split
  · refine bind all fun late => ?_
    cases late with
    | some late => exact pure
    | none => exact bind goOn fun _ => pure
  · exact bind all fun _ => pure

theorem vecEnd {r : Option (Nat × Trap)} : Keeps (vecEnd r) := by
  cases r with
  | none => exact modify fun _ h => h.endElems
  | some b => exact vecFault

theorem vecMemRun {body : M Unit} (h : Keeps body) : Keeps (vecMemRun word ok body) :=
  vecRun (bind awaitBuffer fun _ => get fun _ _ => ite h (allOrNothing h))

theorem vecMem {f : Nat → Nat → M Unit} (hc : ∀ e, Keeps (chk e)) (hf : ∀ seen e, Keeps (f seen e)) :
    Keeps (vecMem word ok p chk f) := vecMemRun (get fun _ _ => bind (vecElems hc (hf _)) fun _ => vecEnd)

theorem vecGather {f : Nat → Nat → M Unit} (hc : ∀ e, Keeps (chk e)) (hf : ∀ seen e, Keeps (f seen e)) :
    Keeps (vecGather word ok p chk f) :=
  vecMemRun (bind (modify fun _ h => .ite h h.acquireMask) fun _ => get fun _ _ => bind (vecElems hc (hf _)) fun _ => vecEnd)

theorem checkElem {want : Want} {f e : Nat} : Keeps (checkElem want f addr n e) := get fun _ _ => forM fun _ => precheck

theorem checkOutside {m : M Unit} (h : Keeps m) : Keeps (checkOutside va m) := by
  refine get fun _ _ => ?_
  split
  · exact pure
  · exact h

theorem checkTimed {want : Want} {f : Nat} : Keeps (checkTimed want f w va) :=
  bind trapIf fun _ => checkOutside (get fun _ _ => bind resolve fun _ => noHost)

theorem checkAtomic {free : Bool} : Keeps (checkAtomic o free va) :=
  bind trapIf fun _ => checkOutside (bind resolveAtomic fun _ => ite noHost pure)

theorem loadTo {dest : Dest} {put : Nat → State → State} (hp : ∀ v s, s.Inv → (put v s).Inv) :
    Keeps (loadTo seen va n dest put) := by
  refine bind leavingLoad fun ts => ?_
  cases ts with
  | nil => exact bind loadBytesOf fun _ => modify (hp _)
  | cons t ts => exact sendLoad

theorem loadElem {d e : Nat} : Keeps (loadElem d w addr seen e) := loadTo fun _ _ h => h.putElem

theorem storeElem {d e : Nat} : Keeps (storeElem d w addr seen e) := get fun _ _ => storeBytes

theorem loadNibble {d e : Nat} : Keeps (loadNibble d base seen e) := loadTo fun _ _ h => h.putElem

theorem storeNibble {d e : Nat} : Keeps (storeNibble d base seen e) := by
  refine get fun _ _ => get fun _ _ => bind resolve fun _ => get fun s h => ?_
  have armed := h.armedWrite (spent := true)
  generalize s.armedWrite true = sent at armed
  obtain ⟨t, rels⟩ := sent
  refine ite ?_ (bind awaitSent fun _ => ?_)
  all_goals
    exact bind (set armed) fun _ => ite sendWrite
      (bind await fun _ => bind awaitHome fun _ => bind checkRace fun _ => get fun _ _ => performWrite)

theorem vecLoad {src : List (BitVec 5 × Nat)} : Keeps (vecLoad word d e p src addr) :=
  vecGather (fun _ => checkElem) fun _ _ => loadElem

theorem vecStore {src : List (BitVec 5 × Nat)} : Keeps (vecStore word d e p src addr) :=
  vecMem (fun _ => checkElem) fun _ _ => storeElem

theorem vecLoadMasked : Keeps (vecLoadMasked word d e p base) :=
  ite (vecGather (fun _ => checkElem) fun _ _ => loadNibble) vecLoad

theorem vecStoreMasked : Keeps (vecStoreMasked word d e p base) :=
  ite (vecMem (fun _ => checkElem) fun _ _ => storeNibble) vecStore

theorem appendElems {d i : Nat} : Keeps (appendElems d w seen base i es) := by
  induction es generalizing i with
  | nil => exact pure
  | cons e r ih =>
    exact bind (allOrNothing storeElem) fun _ => get fun _ _ => ite (bind goOn fun _ => ih) ih

theorem vecAppend {ptr : Dword} : Keeps (vecAppend word d e p ptr) := by
  refine vecMemRun (get fun s h => ?_)
  extract_lets es bad
  have hbad t : Keeps (bad t) := bind (modify fun _ h => h.clearVstart) fun _ => raise
  split
  · exact modify fun _ h => h.clearVstart
  · exact bind appendElems fun _ => modify fun _ h => h.endElems
  · split
    · exact hbad _
    · exact bind atomic fun _ => ite (bind (set h) fun _ => hbad _) (bind appendElems fun _ => modify fun _ h => h.endElems)

theorem sendLoadElem {d e : Nat} : Keeps (sendLoadElem d w base time seen e) := bind trapIf fun _ => sendTimedLoad

theorem sendStoreElem {d e scope : Nat} : Keeps (sendStoreElem d w scope base time seen e) :=
  bind trapIf fun _ => get fun _ _ => bind resolve fun _ => bind noHost fun _ => get fun _ h => bind await fun _ =>
    set (State.Inv.send h.withHart)

theorem vecNdet : Keeps (vecNdet e es) := issueFloat

theorem amoElem {d e : Nat} : Keeps (amoElem o d addr seen e) :=
  get fun _ _ => bind resolveAtomic fun _ => get fun _ _ => ite (bind sendAtomic fun _ => pure)
    (bind atomicHere fun _ => bind (modify fun _ h => h.putElem) fun _ => pure)

theorem redElem {d e : Nat} : Keeps (redElem o d addr seen e) := get fun _ _ => reduce

theorem noteFlags {m : M Flags} (h : Keeps m) : Keeps (noteFlags m) := bind h fun _ => modify fun _ h => h

theorem atomicElems {free : Bool} {f : Nat → Nat → M Flags} (hf : ∀ seen e, Keeps (f seen e)) :
    Keeps (atomicElems o free addr f es) :=
  get fun _ _ => bind (vecElems (fun _ => checkAtomic) fun _ => noteFlags (hf _ _)) fun _ => get fun _ _ =>
    bind (modify fun _ h => h) fun _ => pure

theorem vecAmo : Keeps (vecAmo word op d b e p base) :=
  vecMemRun (get fun _ _ => bind vecNdet fun _ => bind (atomicElems fun _ _ => amoElem) fun _ => bind vecEnd fun _ =>
    get fun _ h => ite retireWithFlags (set h))

theorem vecRed : Keeps (vecRed word op d b e p base) :=
  vecMemRun (get fun _ _ => bind vecNdet fun _ => bind (atomicElems fun _ _ => redElem) fun _ => vecEnd)

theorem sendReduceElem {scope d e : Nat} : Keeps (sendReduceElem o scope d base time seen e) := get fun _ _ => reduceOrdered

/-! Element-wise instructions (R127 to R143) -/

theorem vecMap {d : Nat} {f : State → Nat → Nat} : Keeps (vecMap word ok p d w f) :=
  vecRun (modify fun _ h => h.putElems.clearVstart)

theorem vecTest {d : Nat} {f : State → Nat → Bool} : Keeps (vecTest word ok p d f) :=
  vecRun (modify fun _ h => h.putMaskBits.clearVstart)

theorem vecInt {f : Nat → Nat → Nat → Nat} : Keeps (vecInt word d a b p e f) := vecMap

theorem vecInt1 {f : Nat → Nat → Nat} : Keeps (vecInt1 word d a p e f) := vecMap

theorem vecCompare {f : Nat → Nat → Nat → Bool} : Keeps (vecCompare word d a b p e f) := vecTest

theorem vecIntX {x : BitVec 1} {shift : Bool} {f : Nat → Nat → Nat → Nat} : Keeps (vecIntX word d a b p e x shift f) := vecMap

theorem vecMerge : Keeps (vecMerge word d a b p e) := vecRun (modify fun _ h => h.putElems.clearVstart)

theorem vecEqX {x : BitVec 1} : Keeps (vecEqX word d a b p e x) := vecTest

theorem settleElems {put : State → List (Nat × Nat) → State} {rs : List ElemResult}
    (hp : ∀ s vs, s.Inv → (put s vs).Inv) : Keeps (settleElems put rs) := by
  refine get fun s h => ?_
  generalize cutAt s.fte rs = cut
  obtain ⟨below, at_⟩ := cut
  have hput : (put s (below.map fun r => (r.e, r.value))).Inv := hp s _ h
  cases at_ with
  | none => exact set hput
  | some r => exact bind (set hput) fun _ => fpEnabled

theorem vecMapF {d : Nat} {f : State → Nat → Nat × Flags} : Keeps (vecMapF word ok p d w f) :=
  vecRun (get fun _ _ => settleElems fun _ _ h => h.putElems)

theorem vecFloat {f : Fmt → Nat → Bool → Num → Num → Num → Nat × Flags} : Keeps (vecFloat word d a b p e f) := vecMapF

theorem vecFloat1 {f : Fmt → Nat → Bool → Num → Nat × Flags} : Keeps (vecFloat1 word d a p e f) := vecMapF

theorem vecFloatBits {f : Fmt → Nat → Nat → Nat} : Keeps (vecFloatBits word d a b p e f) := vecInt

theorem vecFloatBits1 {f : Fmt → Nat → Nat} : Keeps (vecFloatBits1 word d a p e f) := vecInt1

theorem vecFloatTest {nv : Bool} {f : Num → Num → Bool} : Keeps (vecFloatTest word d a b p e nv f) :=
  vecRun (get fun _ _ => settleElems fun _ _ h => h.putMaskBits)

theorem vecFloatX {f : Fmt → Nat → Bool → Num → Num → Num → Nat × Flags} : Keeps (vecFloatX word d a b p e f) := vecMapF

theorem vecConvert : Keeps (vecConvert word d a p e t) := vecMapF

theorem drawNdet : Keeps (drawNdet es) := get fun _ _ => ite (bind detCheck fun _ => setNdet) pure

theorem advanceRng : Keeps (advanceRng es n) := modify fun _ h => .ite h h.withHart

theorem vecConvertSr : Keeps (vecConvertSr word d a p e t) := by
  refine vecRun (get fun _ _ => bind drawNdet fun _ => ?_)
  extract_lets one
  exact bind (settleElems fun _ _ h => h.putElems) fun _ => advanceRng

theorem vecConvertPacked {dst src : Fmt} : Keeps (vecConvertPacked word d a p dst src) := vecMapF

theorem vecWideMul : Keeps (vecWideMul word d a b p e t) := vecMapF

theorem vecReduce {identity : Nat} {f : State → Nat → Nat → Flagged} : Keeps (vecReduce word d a p e identity f) :=
  vecRun (get fun _ h => bind (set h) fun _ => ite (modify fun _ h => h.putElem) fpEnabled)

theorem vecScan {heads : State → Nat → Bool} : Keeps (vecScan word d a p e heads) :=
  vecRun (get fun _ _ => settleElems fun _ _ h => h.putElems)

theorem vecPermute {d : Nat} {f : State → Nat → Nat} : Keeps (vecPermute word ok p d w f) :=
  vecRun (modify fun _ h => h.putElems.clearVstart)

theorem vecSqueeze : Keeps (vecSqueeze word d a p e) := vecRun (modify fun _ h => h.putElems.clearVstart)

theorem vecMoveX : Keeps (vecMoveX word d a b e) := bind vecIssue fun _ => modify fun _ h => h

theorem vecMoveV : Keeps (vecMoveV word d a b e) := vecRun (modify fun _ h => State.Inv.ite h.putElem h)

theorem vecRand : Keeps (vecRand word d p e) :=
  vecRun (get fun _ _ => bind drawNdet fun _ => bind (modify fun _ h => h.putElems) fun _ => advanceRng)

end

/-! The matrix unit (R144 to R165) -/

section
variable {word t n : Nat} {row : State → Nat → Option RowResult} {va : Dword} {cause : Nat} {aligned : Bool}

theorem accRun {body : M Unit} (h : Keeps body) : Keeps (accRun word body) :=
  get fun _ _ => ite (vecRun h) (bind needAcc fun _ => vecRun h)

theorem slices {is : List Nat} : Keeps (slices t row is) := by
  induction is with
  | nil => exact pure
  | cons i r ih =>
    refine get fun _ h => ?_
    split
    · exact ih
    · exact bind (set h) fun _ => ite (bind (set h) fun _ => ih) (bind raise fun _ => ih)

theorem sliced : Keeps (sliced word t row) :=
  get fun _ _ => get fun _ _ => get fun _ _ => bind await fun _ => accRun (bind (modify fun _ h => h.onTiles) fun _ => get fun _ _ =>
    bind slices fun _ => modify fun _ h => h.endSlices)

theorem outerInt {clamp : Bool} {t r c : BitVec 3} {a b f : BitVec 5} : Keeps (outerInt word clamp t a b r c f s) :=
  accRun (bind (modify fun _ h => h.onTiles) fun _ => slices)

theorem accMove {f : State → State} (hf : ∀ s, s.Inv → (f s).Inv) : Keeps (accMove word f) := accRun (modify hf)

theorem accPromote {t : BitVec 3} {y : BitVec 2} {d c x : BitVec 5} : Keeps (accPromote word t y d c x) :=
  accRun (get fun _ h => bind (set h) fun _ => ite (modify fun _ h => h.putElems) fpEnabled)

theorem accMemory {ready : M Bool} {body : Nat → List Vec → M Unit} (hr : Keeps ready) (hb : ∀ n rows, Keeps (body n rows)) :
    Keeps (accMemory word aligned cause va ready body) := by
  refine get fun _ _ => ?_
  split
  · exact hb _ _
  · exact bind needAcc fun _ => bind trapIf fun _ => bind hr fun _ => enterVdq

theorem rowMayTrap : Keeps (rowMayTrap va) := by
  refine get fun _ _ => ?_
  split
  · exact pure
  · exact bind resolve fun _ => get fun _ _ => pure

theorem rowsMayTrap {rows : List Dword} : Keeps (rowsMayTrap rows) := bind (mapM fun _ => rowMayTrap) fun _ => pure

theorem rowsReady {rows : List Dword} : Keeps (rowsReady rows) := bind awaitBuffer fun _ => rowsMayTrap

theorem foldlM {f : β → α → M β} (hf : ∀ b a, Keeps (f b a)) {b : β} {l : List α} : Keeps (l.foldlM f b) := by
  induction l generalizing b with
  | nil => exact pure
  | cons a r ih => exact bind (hf b a) fun _ => ih

theorem readRow {k : Nat} : Keeps (readRow k va n) := by
  refine get fun _ _ => foldlM fun row u => bind leavingLoad fun ts => ?_
  cases ts with
  | nil => exact bind loadBytesOf fun _ => pure
  | cons t ts => exact bind sendLoad fun _ => pure

theorem awaitRows : Keeps awaitRows := get fun _ _ => await

theorem accLoad {t : BitVec 3} : Keeps (accLoad word t va) :=
  accMemory rowsReady fun _ _ => ite (bind readRow fun _ => further) (bind awaitRows fun _ => modify fun _ h => h.onTiles)

theorem placeStores {store : Nat → Dword × Nat} {done : Nat} : Keeps (placeStores n store done) := by
  refine get fun _ _ => bind await fun _ => bind (modify fun _ h => ?_) fun _ => ite further pure
  exact .foldl (fun _ _ h => h.pushStore) h _

theorem accStore {t : BitVec 3} : Keeps (accStore word t va) := accMemory pure fun _ _ => get fun _ _ => placeStores

theorem accSave : Keeps (accSave word va) := accMemory pure fun _ _ => get fun _ _ => placeStores

theorem accRestore : Keeps (accRestore word va) := by
  refine accMemory (bind rowsReady fun _ => pure) fun _ _ => ite (bind readRow fun _ => further) (bind awaitRows fun _ =>
    ite (bind rowsMayTrap fun _ => bind (modify fun _ h => h) fun _ => ?_) ?_)
  all_goals exact ite (bind readRow fun _ => further) (modify fun _ h => h.onTiles)

end

end Keeps
end Sys2Proof.Machine
end

section
/-! SUPPORT. What keeps the memory form: traps, the forms of an instruction's meaning, and the meaning of a word. -/

namespace Sys2Proof.Machine

variable {s : State} {m : M Unit}

/-! ### The forms of a meaning -/

namespace OutInv

theorem doubleTrap {k : Trap} (h : s.Inv) : OutInv (doubleTrap k s) := by
  unfold Machine.doubleTrap
  extract_lets epc p
  have logged : ({ s with pkg := p } : State).Inv := h.withPkg h.pkg.logEvent
  clear_value p
  have ended := Every.bind (Q := State.Inv) (logged.endHartNow (id := s.h.ident))
    fun t h => h.killGang (id := t.h.gang) (entry := none)
  split
  · next t e => exact next (ended t e)
  · exact fault

/-- R378: an entry writes the frame, or the gang ends. -/
theorem takeTrap {k : Trap} (h : s.Inv) : OutInv (takeTrap k s) := by
  refine ite (doubleTrap h) (ite (next h) ?_)
  dsimp only
  split
  · exact fault
  · next t e => exact next (h.putDwords t e).withHart

theorem finish (hm : Keeps m) (h : s.Inv) : OutInv (finish m s) := by
  have ends := hm.ends s h
  unfold Machine.finish
  split <;> rename_i e <;> rw [e] at ends
  · exact next ends.retire
  · exact ite (next h) (takeTrap ends)
  · exact next h
  · exact next ends
  · exact next ends.retire
  · exact fault

theorem finishAt (hm : Keeps m) (h : s.Inv) : OutInv (finishAt m s) := by
  have ends := hm.ends s h
  unfold Machine.finishAt
  split <;> rename_i e <;> rw [e] at ends
  · exact next ends
  · exact ite (next h) (takeTrap ends)
  · exact next h
  · exact next ends
  · exact next ends.retire
  · exact fault

theorem mapNext {f : State → State} {o : Out} (hf : ∀ s, s.Inv → (f s).Inv) (h : OutInv o) : OutInv (mapNext f o) := by
  cases o with
  | next t => exact next (hf t (h t rfl))
  | fault f => exact fault
  | refused r => exact fun _ e => by cases e

/-- A computation at another core, after which this core is looked at again. -/
theorem focused {core : Nat} (hm : Keeps m) (h : s.Inv) :
    OutInv (match Machine.finishAt m (s.focus core) with | .next t => .next (t.focus s.core.id) | o => o) := by
  have answered := finishAt hm (h.focus (c := core))
  split
  · next t e => exact next (answered t e).focus
  · exact answered

theorem atCore {core : Nat} (hm : Keeps m) (h : s.Inv) : OutInv (s.atCore core m) := ite (next h) (focused hm h)

theorem result {d : BitVec 5} {v : Dword} (h : s.Inv) : OutInv (s.result d v) := next h.setX.retire

theorem resultLong {d : BitVec 5} {v : Dword} (h : s.Inv) : OutInv (s.resultLong d v) := next h.setX.jumpTo

theorem branch {taken : Bool} {i : BitVec 16} (h : s.Inv) : OutInv (s.branch taken i) := next h.jumpTo

theorem jumpRegister {d a : BitVec 5} {i : BitVec 16} (h : s.Inv) : OutInv (jumpRegister d a i s) :=
  ite (next h.setX.jumpTo) (takeTrap h)

theorem breakpoint (h : s.Inv) : OutInv (breakpoint s) := ite (next (h.withPkg h.pkg.debugHalt)) (takeTrap h)

section
variable {d a b : BitVec 5} {t : BitVec 1}

theorem floatOp {f : Fmt → Nat → Bool → Num → Num → Num → Nat × Flags} (h : s.Inv) : OutInv (floatOp d a b t f s) :=
  finish .floatResult h

theorem floatBits {f : Fmt → Nat → Nat → Nat} (h : s.Inv) : OutInv (floatBits d a b t f s) := result h

theorem floatCompare {nv : Bool} {f : Num → Num → Bool} (h : s.Inv) : OutInv (floatCompare d a b t nv f s) :=
  finish .floatResult h

theorem floatConvert {f : Nat → Bool → Dword → Nat × Flags} (h : s.Inv) : OutInv (floatConvert d a f s) :=
  finish .floatResult h

end

end OutInv

namespace Keeps

variable {word : Nat} {neg : Bool} {t r c : BitVec 3} {a b f : BitVec 5}

theorem outer : Keeps (outer word neg t a b r c f s) := sliced

theorem outerScaled : Keeps (outerScaled word neg t a b r c f s) := sliced

theorem outerSparse : Keeps (outerSparse word t a b r c f s) := sliced

end Keeps

/-! ### The meaning of a word, by its major opcode -/

namespace OutInv

variable {w v : Nat}

theorem runOp01 (h : s.Inv) : OutInv (runOp01 w s) := by
  unfold Machine.runOp01
  split
  iterate 34 exact result h
  exact next h

theorem runOp09 (h : s.Inv) : OutInv (runOp09 w s) := by
  unfold Machine.runOp09
  iterate 7 refine ite (result h) ?_
  exact next h

theorem runOp0A (h : s.Inv) : OutInv (runOp0A w s) := by
  unfold Machine.runOp0A
  split
  iterate 13 exact result h
  exact next h

theorem runOp0B (h : s.Inv) : OutInv (runOp0B w s) := by
  unfold Machine.runOp0B
  split
  iterate 5 exact floatOp h
  iterate 2 exact floatBits h
  iterate 2 exact floatOp h
  iterate 3 exact floatBits h
  exact next h

theorem runOp0C (h : s.Inv) : OutInv (runOp0C w s) := by
  unfold Machine.runOp0C
  iterate 3 refine ite (floatCompare h) ?_
  refine ite (floatBits h) ?_
  iterate 14 refine ite (floatConvert h) ?_
  exact next h

theorem runOp12 (h : s.Inv) : OutInv (runOp12 w s) := by
  refine ite (finish .loadPlain h) <| ite (finish .storePlain h) <| ite (finish .loadAcquire h) <| ite (finish .storeRelease h) <|
    ite (finish .fenceLoads h) <| ite (finish ?rel h) <| ite (finish ?both h) <| ite (finish ?both h) <|
    ite (finish .awaitBuffer h) <| ite (finish ?rfence h) <| ite (finish .storeTimed h) <| ite (finish .loadTimed h) (next h)
  case rel => exact Keeps.bind .awaitFence fun _ => .fenceRelease
  case both => exact Keeps.bind .awaitFence fun _ => .bind .fenceAcquire fun _ => .fenceRelease
  case rfence => exact Keeps.bind .awaitReductions fun _ => .modify fun _ h => h.releaseReductions

theorem runOp13 (h : s.Inv) : OutInv (runOp13 w s) := by
  unfold Machine.runOp13
  iterate 13 refine ite (finishAt .amo h) ?_
  iterate 11 refine ite (finish .red h) ?_
  iterate 4 refine ite (finish .redOrd h) ?_
  exact next h

theorem runOp16 (h : s.Inv) : OutInv (runOp16 w s) := by
  unfold Machine.runOp16
  split
  · exact finish .vecLoad h
  · exact finish .vecStore h
  · exact finish .vecLoad h
  · exact finish .vecStore h
  · exact finish .vecLoadMasked h
  · exact finish .vecStoreMasked h
  · exact finish .vecAppend h
  · exact finish (.vecGather (fun _ => .checkTimed) fun _ _ => .sendLoadElem) h
  iterate 16 exact finish (.vecMem (fun _ => .checkTimed) fun _ _ => .sendStoreElem) h
  · exact next h

theorem runOp17 (h : s.Inv) : OutInv (runOp17 w s) := by
  unfold Machine.runOp17
  split
  iterate 9 exact finishAt .vecAmo h
  iterate 8 exact finish .vecRed h
  exact finish (.vecMem (fun _ => .checkTimed) fun _ _ => .sendReduceElem) h

theorem runOp20 (h : s.Inv) : OutInv (runOp20 w s) := by
  unfold Machine.runOp20
  split
  iterate 19 exact finish .vecInt h
  iterate 4 exact finish .vecInt1 h
  iterate 6 exact finish .vecCompare h
  · exact finish .vecMerge h
  · exact next h

theorem runOp21 (h : s.Inv) : OutInv (runOp21 w s) := by
  unfold Machine.runOp21
  split
  iterate 4 exact finish .vecFloat h
  · exact finish .vecFloat1 h
  iterate 2 exact finish .vecFloatBits h
  iterate 3 exact finish .vecFloat h
  iterate 2 exact finish .vecFloatBits1 h
  · exact finish .vecFloatBits h
  iterate 4 exact finish .vecFloat1 h
  iterate 4 exact finish .vecFloatTest h
  · exact finish .vecFloatBits1 h
  · exact next h

theorem runOp22 (h : s.Inv) : OutInv (runOp22 w s) := by
  unfold Machine.runOp22
  split
  · exact finish .vecConvert h
  · exact finish .vecConvertSr h
  · exact ite (finish .vecConvertPacked h) (ite (finish .vecConvertPacked h) (next h))
  · exact finish .vecWideMul h
  · exact next h

theorem runOp23 (h : s.Inv) : OutInv (runOp23 w s) := by
  unfold Machine.runOp23
  split
  iterate 3 exact finish .vecPermute h
  iterate 7 exact finish .vecReduce h
  iterate 2 exact finish .vecScan h
  · exact finish .vecRand h
  · exact finish .vecMoveX h
  · exact finish .vecMoveV h
  · exact finish .vecMap h
  · exact finish .vecSqueeze h
  · exact finish .vecMap h
  · exact next h

theorem runOp24 (h : s.Inv) : OutInv (runOp24 w s) := by
  unfold Machine.runOp24
  split
  iterate 7 exact finish .maskLogic h
  iterate 3 exact finish .maskRead h
  exact next h

theorem runOp25 (h : s.Inv) : OutInv (runOp25 w s) := by
  unfold Machine.runOp25
  split
  iterate 12 exact finish .vecIntX h
  iterate 3 exact finish .vecFloatX h
  · exact finish .vecEqX h
  · exact next h

theorem runOp28 (h : s.Inv) : OutInv (runOp28 w s) := by
  unfold Machine.runOp28
  split
  · exact finish .outer h
  · exact finish .outer h
  · exact next h

theorem runOp29 (h : s.Inv) : OutInv (runOp29 w s) := by
  unfold Machine.runOp29
  split
  · exact finish .outerScaled h
  · exact finish .outerScaled h
  · exact next h

theorem runOp2A (h : s.Inv) : OutInv (runOp2A w s) := by
  unfold Machine.runOp2A
  split
  · exact finish .outerSparse h
  · exact finish .outerInt h
  · exact finish .outerInt h
  · exact next h

theorem runOp2B (h : s.Inv) : OutInv (runOp2B w s) := by
  unfold Machine.runOp2B
  split
  · exact finish (.accMove fun _ h => h.onTiles) h
  · exact finish (.accMove fun _ h => h.setV) h
  · exact finish (.accMove fun _ h => h.onTiles) h
  · exact finish .accPromote h
  · exact finish .accLoad h
  · exact finish .accStore h
  · exact finish (.accMove fun _ h => h.onTiles) h
  · exact finish .sliced h
  · exact finish .accSave h
  · exact finish .accRestore h
  · exact next h

theorem runOp30 (h : s.Inv) : OutInv (runOp30 w s) := by
  unfold Machine.runOp30
  split
  · exact finish (.allOrNothing .copy) h
  · exact finish (.allOrNothing .copy) h
  · exact finish .copy h
  · exact finish .copy h
  · exact finish (.allOrNothing .copy) h
  · exact finish (.allOrNothing .copy) h
  · exact finish .copy h
  · exact next h

theorem runOp31 (h : s.Inv) : OutInv (runOp31 w s) := by
  unfold Machine.runOp31
  split
  · exact finish .waitCounter h
  · exact finish .readCounter h
  · exact finish .setCounter h
  · exact finish (.allOrNothing .bindStream) h
  · exact finish .unbindStream h
  · exact finish (.allOrNothing .subscribe) h
  · exact ite (finish .unsubscribe h) (ite (finish .unpublish h) (next h))
  · exact finish .flushUpdates h
  · exact next h

theorem runOp32 (h : s.Inv) : OutInv (runOp32 w s) := by
  unfold Machine.runOp32
  split
  · exact finish .arriveLocal h
  · exact finish .waitLocal h
  · exact finish .arriveSpan h
  · exact finish .waitSpan h
  · exact finish .arriveGang h
  · exact finish .waitGang h
  · exact next h.retire.withHart
  · exact finish .receive h
  · exact finish (.allOrNothing .launch) h
  · exact finish (.allOrNothing .launchRemote) h
  · exact finish (.allOrNothing .joinBlock) h
  · exact finishAt .endHart h
  · exact next h.retire.preemptGang
  · exact next h

theorem runOp38 (h : s.Inv) : OutInv (runOp38 w s) := by
  unfold Machine.runOp38
  split
  · exact finish .readCsr h
  · exact finish .putCsr h
  · exact finish .changeCsr h
  · exact finish .changeCsr h
  · exact next (State.Inv.retire h.setX.withHart)
  · exact next (State.Inv.retire h.setX.withHart)
  · exact takeTrap h
  · exact finishAt .eretBody h
  · exact finish .fenceFetch h
  · exact finishAt .preemptSelf h
  · exact finish .killGangs h
  · exact finish .popFault h
  · exact finish .invalidate h
  · exact finish .invalidateHandles h
  · exact breakpoint h
  · exact finishAt .haltHart h
  · exact next h

theorem runOp3F (h : s.Inv) : OutInv (runOp3F w v s) := by
  unfold Machine.runOp3F
  split
  · exact resultLong h
  · exact resultLong h
  · exact next h.setX.jumpTo
  · exact next h

theorem runWord (h : s.Inv) : OutInv (runWord w v s) := by
  unfold Machine.runWord
  split
  · exact runOp01 h
  iterate 6 exact result h
  · exact ite (result h) (next h)
  · exact runOp09 h
  · exact runOp0A h
  · exact runOp0B h
  · exact runOp0C h
  · exact finish .loadPlain h
  · exact ite (finish .storePlain h) (next h)
  · exact runOp12 h
  · exact runOp13 h
  · exact finish .vecLoad h
  · exact finish .vecStore h
  · exact runOp16 h
  · exact runOp17 h
  iterate 6 exact branch h
  · exact next h.setX.jumpTo
  · exact jumpRegister h
  · exact runOp20 h
  · exact runOp21 h
  · exact runOp22 h
  · exact runOp23 h
  · exact runOp24 h
  · exact runOp25 h
  · exact runOp28 h
  · exact runOp29 h
  · exact runOp2A h
  · exact runOp2B h
  · exact runOp30 h
  · exact runOp31 h
  · exact runOp32 h
  · exact runOp38 h
  · exact runOp3F h
  · exact next h

end OutInv
end Sys2Proof.Machine
end

section
/-! SUPPORT. What keeps the memory form: every event of the catalogue. -/

namespace Sys2Proof.Machine

variable {s : State}

/-! ### Events -/

/-- An event, by the form of its meaning. -/
theorem OutInv.exec {i : Instr} (event : isEvent i = true) (h : s.Inv) : OutInv (exec i s) := by
  cases i
  case evCopyAccept => exact atCore (.allOrNothing .vdqHead) h
  case evPendingReserve => exact finishAt .reserveNext h
  case evGraphFrame => exact finishAt (.allOrNothing .graphFrame) h
  case evChunkComplete => exact finishAt (.allOrNothing .chunkComplete) h
  case evBatchTimeout => exact ite (next h) (focused .batchTimeout h)
  case evRead => exact finishAt (.allOrNothing .readMsg) h
  case evWrite => exact finishAt (.allOrNothing .writeMsg) h
  case evAtomic => exact finishAt (.allOrNothing .atomicMsg) h
  case evReduce => exact finishAt (.allOrNothing .reduceMsg) h
  case evResp => exact finishAt (.allOrNothing .respond) h
  case evJoinApply => exact finishAt (.allOrNothing .joinMsg) h
  case evSubscriptionUpdate => exact finishAt (.allOrNothing .updateMsg) h
  case evContribution => exact finishAt .contribution h
  case evSpanRelease => exact finishAt .spanRelease h
  case evTimedArrival => exact finishAt (.allOrNothing .timedArrival) h
  case evTimedEntryGrant => exact finishAt .entryGrant h
  case evTimedInstant => exact finishAt (.allOrNothing .timedInstant) h
  case evStoreFaultReport | evCopyErrorReport | evDeadlineReport | evUncorrectableReport | evPreemptNotice =>
    exact atCore .reportIf h
  case evStoreBufferDrain => exact atCore .drainStep h
  case evPreemptStop => exact ite (next h) (focused .preemptStop h)
  case evParkComplete => exact atCore .parkComplete h
  case evNoticeTimeout => exact finishAt .noticeTimeout h
  case evGangResume => exact finishAt .gangResume h
  case evSpanWaitExit => exact atCore .spanWaitExit h
  case evPauseExpiry => exact atCore .pauseExpiry h
  case evQueueEnqueue => exact finishAt .queueArrival h
  case evBadwrite => exact next (.ite (h.withPkg h.pkg) h)
  case evContRetry => exact finishAt .contRetry h
  case evRingDelivery => exact finishAt (.allOrNothing .ringDelivery) h
  case evResumeEntryMove => exact finishAt .resumeMove h
  case evRelockEnd => exact next h.relockEnds
  case evPowerControlTick => exact next h.powerTick
  case evTctlThrottleTick => exact next h.tctlTick
  case evDieOver105c => exact next h.over105
  case evEndOf105cAction => exact next h.end105
  case evThermalTrip => exact next h.thermalTrip
  case evHbmOver85c | evHbmOver95c | evTelemetryUpdate | evHaltOnBreak | evPortFailure | evStandbyPowerLoss =>
    exact next (h.withPkg h.pkg)
  case evPcapWrite => exact next h.pcapWrite
  case evTctlWrite => exact next h.tctlWrite
  case evStepmaxWrite => exact next h.stepmaxWrite
  case evPtpSync => exact next h.ptpSync
  case evSyncTimeout => exact next h.syncTimeout
  case evLaneRepair => exact next h.laneRepair
  case evDebugHaltEnd => exact finishAt .haltEnds h
  case evRegisterWrite => exact next h.registerWrite
  case evPrtEntryWrite => exact next h.prtWrite
  case evQcfgWrite => exact finishAt (.attempt fun _ h => h.qcfgWrite) h
  case evQrelWrite => exact finishAt (.attempt fun _ h => h.qrelWrite) h
  case evQpop => exact next h.qpop
  case evScfgWrite => exact next h.scfgWrite
  case evPreqWrite => exact finishAt (.attempt fun _ h => h.preqWrite) h
  case evMigrationEntryWrite => exact next h.migrationWrite
  case evMigrationPull => exact next h.migrationPull
  case evKeyctlWrite => exact next h.keyctlWrite
  case evKeydataWrite => exact next h.keydataWrite
  case evTrapBlockWrite => exact next h.trapBlockWrite
  case evHostBar4Read | evHostBar4Write => exact finishAt .hostArrives h
  case evRetentionEnter => exact next h.retentionEnter
  case evRetentionEntered => exact next h.retentionEntered
  case evRetentionLeave => exact finishAt .retentionLeave h
  case evDramScrub | evMscScrub => exact next h.scrub
  case evRemapReload => exact next h.remapReload
  case evRemapRebuildEnd => exact finishAt (.orStop fun _ h => h.rebuildEnd.selectAll) h
  case evRowSparing => exact next h.rowSparing
  case evClusterFailure => exact finishAt .clusterFailure h
  case evOffreqWrite => exact finishAt .offreqWrite h
  case evEvacBlockMove => exact next h.evacMove
  case evColdReset => exact next .coldReset
  case evRlenWrite => exact next h.rlenWrite
  case evWarmReset => exact finishAt .warmReset h
  case evTenantConfigRequest => exact finishAt .tenantConfig h
  case evImageCheck => exact next h.imageCheck
  case evSpdmRequest | evBlackBoxRead => exact next h.say
  case evIllegalInsn | evFetchFault => exact ite (takeTrap h) (next h)
  -- The rest are instructions, which have a word.
  all_goals simp [isEvent, encodeWord, enc1, enc2, enc3, enc4, enc5, enc6] at event

end Sys2Proof.Machine
end

section
/-! SUPPORT. What keeps the memory form: what the package does by itself, the turns of harts, the agenda, a step. -/

namespace Sys2Proof.Machine

variable {α : Type} {s : State} {p : Pkg}

/-! ### The VDQ -/

namespace OutInv

theorem stepHead {q : VdqInsn} {rest : List VdqEntry} (h : s.Inv) : OutInv (stepHead q rest s) := by
  have ran : OutInv (Machine.runWord q.word 0 (s.atHead q)) := runWord h.withHart
  unfold Machine.stepHead
  split
  · exact ite (takeTrap h.withHart) (next h)
  · split
    · next t e =>
      have ht := ran t e
      exact ite (next (h.owes ht.pkg)) (ite (next h) (next ht.withHart))
    · exact ran

theorem runHead {core : Nat} (h : s.Inv) : OutInv (runHead core s) := by
  refine ite (next h) ?_
  dsimp only
  split
  · exact mapNext (fun _ h => h.focus) (stepHead h.focus)
  · exact next h

end OutInv

/-! ### What the package does by itself -/

/-- Each of the events keeps the memory form. -/
def Sound (l : List (State → Out)) : Prop := ∀ f ∈ l, ∀ s : State, s.Inv → OutInv (f s)

namespace Sound

theorem nil : Sound [] := by simp [Sound]

theorem one {f : State → Out} (h : ∀ s : State, s.Inv → OutInv (f s)) : Sound [f] := by simpa [Sound]

theorem append {l k : List (State → Out)} (hl : Sound l) (hk : Sound k) : Sound (l ++ k) := fun f hf =>
  (List.mem_append.1 hf).elim (hl f) (hk f)

theorem ite {c : Prop} [Decidable c] {l k : List (State → Out)} (hl : Sound l) (hk : Sound k) : Sound (if c then l else k) := by
  split
  · exact hl
  · exact hk

theorem map {g : α → State → Out} {l : List α} (h : ∀ a, ∀ s : State, s.Inv → OutInv (g a s)) : Sound (l.map g) := by
  intro f hf
  obtain ⟨a, -, rfl⟩ := List.mem_map.1 hf
  exact h a

theorem filterMap {g : α → Option (State → Out)} {l : List α} (h : ∀ a, ∀ f ∈ g a, ∀ s : State, s.Inv → OutInv (f s)) :
    Sound (l.filterMap g) := by
  intro f hf
  obtain ⟨a, -, e⟩ := List.mem_filterMap.1 hf
  exact h a f e

theorem flatMap {g : α → List (State → Out)} {l : List α} (h : ∀ a, Sound (g a)) : Sound (l.flatMap g) := by
  intro f hf
  obtain ⟨a, -, e⟩ := List.mem_flatMap.1 hf
  exact h a f e

theorem mapIdx {g : Nat → α → State → Out} {l : List α} (h : ∀ k a, ∀ s : State, s.Inv → OutInv (g k a s)) :
    Sound (l.mapIdx g) := by
  intro f hf
  obtain ⟨k, hk, rfl⟩ := List.mem_mapIdx.1 hf
  exact h k l[k]

/-- An event of the catalogue. -/
theorem event {i : Instr} (e : isEvent i = true) (s : State) (h : s.Inv) : OutInv (exec i s) := .exec e h

theorem msg (k : Nat) (m : Msg) (s : State) (h : s.Inv) : OutInv (m.task k s) := by
  unfold Msg.task
  cases m.body with
  | read => exact event (i := .evRead k) rfl s h
  | write => exact event (i := .evWrite k) rfl s h
  | nibble => exact event (i := .evWrite k) rfl s h
  | atomic => exact event (i := .evAtomic k) rfl s h
  | reduce => exact event (i := .evReduce k) rfl s h
  | timed => exact event (i := .evTimedArrival k) rfl s h
  | join => exact event (i := .evJoinApply k) rfl s h
  | contribution => exact event (i := .evContribution k) rfl s h
  | release => exact event (i := .evSpanRelease k) rfl s h
  | update => exact event (i := .evSubscriptionUpdate k) rfl s h
  | launch => exact .finishAt (.allOrNothing .launchMsg) h

theorem coreTasks {e : Core × Hart} : Sound (s.coreTasks e) := by
  refine append (append (append (append (append (append ?drain ?stop) ?park) ?vdq) ?pause) ?exit) ?batch
  case drain => exact ite nil (one (event (i := .evStoreBufferDrain _) rfl))
  case stop => exact ite (one (event (i := .evPreemptStop _) rfl)) nil
  case park => exact ite (one (event (i := .evParkComplete _) rfl)) nil
  case vdq => exact ite nil (append (one (event (i := .evCopyAccept _) rfl)) (one fun _ h => .runHead h))
  case pause => exact ite (one (event (i := .evPauseExpiry _) rfl)) nil
  case exit => exact ite (one (event (i := .evSpanWaitExit _) rfl)) nil
  case batch => exact map fun _ => event (i := .evBatchTimeout _ _ _) rfl

theorem copyTasks {c : CopyRun} : Sound c.tasks := by
  refine append (append ?reserve ?frame) ?chunks
  case reserve => exact ite nil (one (event (i := .evPendingReserve _) rfl))
  case frame => exact ite (one (event (i := .evGraphFrame _) rfl)) nil
  case chunks => exact map fun _ => event (i := .evChunkComplete _ _) rfl

theorem retentionTasks : Sound p.retentionTasks := by
  refine append (append ?enter ?entered) ?leave
  case enter => exact ite nil (one fun _ h => .next h.enterIdle)
  case entered => exact ite (one fun _ h => .next h.enteredAll) nil
  case leave => exact map fun _ => event (i := .evRetentionLeave _) rfl

theorem waitingTasks : Sound p.waitingTasks := by
  refine append (append (append (append ?configs ?emptying) ?host) ?ends) ?batches
  case configs => exact ite nil (one fun _ h => .finishAt .configNext h)
  case emptying => exact map fun _ _ h => .finishAt .emptyNext h
  case host => exact ite nil (one fun _ h => .finishAt .hostStep h)
  case ends => exact ite nil (one fun _ h => .finishAt (.orStop fun _ h => h.retryEnds) h)
  case batches => exact flatMap fun _ => map fun _ _ h => .finishAt (.orStop fun _ h => h.flushBatches) h

theorem pkgTasks : Sound p.tasks := by
  unfold Pkg.tasks
  refine append (append (append (append (append (append (append (append (append (append (append (append (append (append
    (append (append ?relock ?net) ?resp) ?grant) ?instant) ?copies) ?ring) ?cont) ?notice) ?resume) ?pull) ?move) ?rebuild)
    ?timeout) ?sync) retentionTasks) waitingTasks
  case relock => exact map fun _ => event (i := .evRelockEnd _) rfl
  case net => exact mapIdx msg
  case resp => exact map fun _ => event (i := .evResp _) rfl
  case grant => exact map fun _ => event (i := .evTimedEntryGrant _) rfl
  case instant => exact map fun _ => event (i := .evTimedInstant _) rfl
  case copies => exact flatMap fun _ => copyTasks
  case ring => exact map fun _ => event (i := .evRingDelivery _) rfl
  case cont => exact map fun _ => event (i := .evContRetry _) rfl
  case notice => exact map fun _ => event (i := .evNoticeTimeout _) rfl
  case resume => exact map fun _ => event (i := .evGangResume _) rfl
  case pull =>
    refine filterMap fun _ f hf => ?_
    obtain ⟨_, -, rfl⟩ := Option.map_eq_some_iff.1 hf
    exact event (i := .evMigrationPull _ _) rfl
  case move => exact map fun _ => event (i := .evEvacBlockMove _) rfl
  case rebuild => exact map fun _ => event (i := .evRemapRebuildEnd _ _ _) rfl
  case timeout => exact ite (one (event (i := .evSyncTimeout) rfl)) nil
  case sync => exact ite (one fun _ h => .next h.masterSync) nil

theorem tasks : Sound s.tasks :=
  append (append (flatMap fun _ => coreTasks) pkgTasks) (map fun _ _ h => .finishAt (.orStop fun _ h => h.settleGang) h)

theorem firstEffect {l : List (State → Out)} (sound : Sound l) (h : s.Inv) : Every OutInv (firstEffect s l) := by
  induction l with
  | nil => exact .none
  | cons f r ih =>
    have answered := sound f List.mem_cons_self s h
    have later := ih fun g hg => sound g (List.mem_cons_of_mem f hg)
    unfold Machine.firstEffect
    split
    · next e => exact .ite later (.some (e ▸ answered))
    · exact .some answered

end Sound

theorem State.Inv.event (h : s.Inv) : Every OutInv s.event := .ite .none (Sound.tasks.firstEffect h)

/-! ### A hart's turn -/

theorem State.Inv.advance {t : Nat} (h : s.Inv) : (s.advance t).Inv := h.withPkg h.pkg.advance

theorem State.Inv.unretire (h : s.Inv) : s.unretire.Inv := h.withHart

theorem State.Inv.endRestart {w : Nat} {k : Hart} (h : s.Inv) : (s.endRestart w k).Inv := .ite h.withHart h

theorem State.Inv.atEdge (h : s.Inv) : s.atEdge.Inv := .ite h ⟨h.1, h.2⟩

namespace Keeps

theorem launchAnswer {pc addr : Dword} {code : Nat} : Keeps (launchAnswer pc addr code) :=
  bind (modify fun _ h => h.withHart) fun _ => ite pure (bind (modify fun _ h => h.unretire) fun _ => ite raise raise)

theorem accessAnswer {pc : Dword} : Keeps (accessAnswer pc) := by
  refine get fun s h => bind (set h.withHart) fun _ => ?_
  split
  · exact bind (modify fun _ h => h.unretire) fun _ => raise
  · exact bind (modify fun _ h => h.withHart) fun _ => raise
  · exact ite pure fpEnabled

theorem answer {k : Hart} : Every Keeps k.answer := by
  refine .ite .none ?_
  split
  · exact .some launchAnswer
  · exact .ite (.some accessAnswer) .none
  · exact .none

end Keeps

namespace OutInv

theorem issue (h : s.Inv) : OutInv (issue s) := by
  have fetched := Keeps.fetchPair.ends s h
  unfold Machine.issue
  split <;> rename_i e <;> rw [e] at fetched
  · exact finishAt ⟨fun _ _ => fetched⟩ h
  · have ht : State.Inv _ := fetched
    exact ite (next ht) (ite (mapNext (fun _ h => h.endRestart) (runWord ht)) (takeTrap ht))

theorem reportEdge {r : Report} (h : s.Inv) : OutInv (reportEdge r s) :=
  ite (issue h) (ite (next h) (finishAt .takeReport h))

theorem hartEdge (h : s.Inv) : OutInv (hartEdge s) := by
  refine ite (next h) ?_
  split
  · next e => exact finishAt (Keeps.answer _ e) h
  · exact reportEdge h
  · exact ite (issue h) (next h)

theorem turn (h : s.Inv) : OutInv (turn s) := by
  unfold Machine.turn
  split
  · exact next h.advance
  · exact mapNext (fun _ h => h.focus) (hartEdge h.advance.atEdge)

/-! ### The agenda -/

theorem passTime {n : Nat} (h : s.Inv) : OutInv (passTime n s) := by
  cases n with
  | zero => exact next h
  | succ k =>
    unfold Machine.passTime
    dsimp only
    split
    · next e => exact mapNext (fun _ h => h) (h.event _ e)
    · refine ite (next h) ?_
      split
      · exact next h.advance
      · exact next h.advance

theorem aheadOn {f : State → Out} (hf : ∀ s : State, s.Inv → OutInv (f s)) (h : s.Inv) : OutInv (aheadOn f s) :=
  mapNext (fun _ h => h.onCore fun _ h => h.withHart) (hf _ h.withHart)

end OutInv

theorem State.Inv.arrival {port : Nat} {m : Msg} (h : s.Inv) : (arrival port m s).Inv := by
  refine .ite (h.withPkg h.pkg) (h.withPkg (.ite (.replyTo ?_) ?_))
  all_goals exact .ite h.pkg.tenantDrop h.pkg

namespace OutInv

theorem performLive {a : Act} (h : s.Inv) : OutInv (performLive a s) := by
  cases a with
  | event i =>
    unfold Machine.performLive
    dsimp only
    split
    · next e => exact exec e h
    · exact next h
  | turn core => exact ite (next h) (turn h.focus)
  | ahead core => exact ite (next h) (aheadOn (fun _ h => turn h) h.focus)
  | queue core => exact ite (next h) (mapNext (fun _ h => h.focus) (aheadOn (fun _ h => runHead h) h.focus))
  | pass n => exact passTime h
  | arrive port m => exact next (.ite h.arrival h)
  | respond r => exact next (h.withPkg h.pkg)
  | ptp m => exact next h.ptpArrives
  | drop granule => exact next (h.withPkg h.pkg)
  | upset loc cached => exact next h.upset
  | upsetL1 core code loc => exact next (.ite (h.withPkg h.pkg) h)
  | refuseChunk copy chunk => exact finishAt .refuseChunk h
  | readPage by_ n => exact next h.pageRead
  | readRegister by_ off => exact next h.registerRead
  | laneErrors link k n => exact next h.laneErrors
  | readLane link k => exact next h.laneRead
  | dieZeroFails => exact next h.packageLost

theorem recovering {i : Instr} (h : s.Inv) : OutInv (if recovers i then Machine.exec i s else .next s) := by
  cases i
  case evColdReset => exact ite (exec rfl h) (next h)
  case evStandbyPowerLoss => exact ite (exec rfl h) (next h)
  all_goals exact next h

theorem perform {a : Act} (h : s.Inv) : OutInv (perform a s) := by
  unfold Machine.perform
  split
  · exact recovering h
  · exact passTime h
  · exact next h
  · exact performLive h

theorem step (h : s.Inv) : OutInv (step s) := by
  unfold Machine.step
  split
  · exact perform h
  · exact h.event.getD (turn h)

end OutInv

/-- Settles O59: each event of the catalogue and each word that a hart runs keeps the form, and a step is made of these,
of the package's own work and of the passing of time. -/
theorem stepKeepsInv : Obligations.StepKeepsInv := by
  unfold Obligations.StepKeepsInv
  intro s t h e
  exact OutInv.step h t e

end Sys2Proof.Machine
end

section
/-! SUPPORT. Accesses of the hart's own scratchpad, with nothing in their way (R49, R388), and addresses that resolve to
homes outside the scratchpads. -/

namespace Sys2Proof.Machine

/-! ### Checks that pass -/

/-- R215: an aligned access is not misaligned. -/
theorem trapIf_aligned {a n : Nat} (aligned : a % n = 0) (c : Nat) (v : Dword) (s : State) :
    Ends (trapIf (a % n != 0) c v) s () s := by
  rw [aligned]
  rfl

/-- R187: a location outside host memory takes timed accesses and reductions. -/
theorem noHost_inside {t : Target} (h : atHost t.loc = false) (f : Nat) (v : Dword) (s : State) :
    Ends (noHost t f v) s () s := by
  unfold noHost
  rw [h]
  rfl

/-! ### Harts on their cores -/

theorem mem_putCore {k : Core} {h : Hart} {l : List (Core × Hart)} {e : Core × Hart} (m : e ∈ putCore k h l) :
    e = (k, h) ∨ e ∈ l := by
  induction l with
  | nil => exact .inl (List.mem_singleton.mp m)
  | cons a l ih =>
    simp only [putCore] at m
    split at m
    · exact List.mem_cons.mp m
    · split at m
      · exact (List.mem_cons.mp m).imp_right (List.mem_cons_of_mem a)
      · rcases List.mem_cons.mp m with rfl | m
        · exact .inr (.head _)
        · exact (ih m).imp_right (List.mem_cons_of_mem a)

theorem self_mem_putCore (k : Core) (h : Hart) (l : List (Core × Hart)) : (k, h) ∈ putCore k h l := by
  induction l with
  | nil => exact .head _
  | cons a l ih =>
    simp only [putCore]
    split
    · exact .head _
    · split
      · exact .head _
      · exact .tail _ ih

/-- The hart of the state is found by its name, where no other core holds a hart of that name. -/
theorem hart?_here {s : State} (here : s.here) : s.hart? s.h.ident = some s.h := by
  obtain ⟨present, -, others⟩ := here
  let named (e : Core × Hart) : Bool := e.2.present && e.2.ident == s.h.ident
  have found : (s.cores.find? named).isSome :=
    List.find?_isSome.mpr ⟨_, self_mem_putCore s.core s.h s.rest, by simp [named, present]⟩
  obtain ⟨e, first⟩ := Option.isSome_iff_exists.mp found
  have isNamed : e.2.present = true ∧ e.2.ident = s.h.ident := by simpa [named] using List.find?_some first
  obtain rfl | other := mem_putCore (List.mem_of_find?_eq_some first)
  · simp only [State.hart?, named] at first ⊢
    rw [first]
  · exact absurd isNamed.2 ((others e other).2 isNamed.1)

/-- R273: a hart that publishes nothing forwards nothing. -/
theorem forwardSpot_unpublished {s : State} (here : s.here) (pubs : s.h.pubs = Vector.replicate 16 none) (off : Nat)
    (bs : List Byte) (poison : Bool) : s.forwardSpot s.h.ident (.priv s.h.ident off) bs poison = some s := by
  have none_published : s.h.pubs.toList.all Option.isNone = true := by
    rw [pubs]
    decide
  simp [State.forwardSpot, State.forward, hart?_here here, none_published]

/-! ### Locations of the scratchpads (R49) -/

theorem atHost_of_scratchpad {loc : Nat} (h : 2 ^ 64 ≤ loc) : atHost loc = false := by
  simp only [atHost, decide_eq_false (Nat.not_lt.mpr h), Bool.and_false]

theorem ownLoc_scratchpad (s : State) (va : Nat) : 2 ^ 64 ≤ s.ownLoc va := by
  simp only [State.ownLoc, privLoc]
  omega

/-- R362: no migration entry covers a scratchpad. -/
theorem pulled_scratchpad (s : State) {loc : Nat} (h : 2 ^ 64 ≤ loc) : s.pulled loc = s := by
  have free : s.pkg.pullOf loc = none := by
    unfold Pkg.pullOf
    rw [if_pos (by omega)]
  unfold State.pulled
  rw [pulledBy_of_free free, ite_self]

/-! ### The own scratchpad -/

/-- The target of an access at `va` of the hart's own scratchpad. -/
def State.ownTarget (s : State) (va : Nat) : Target := ⟨s.ownLoc va, false, some (.priv s.h.ident (va - windowBase))⟩

section
variable {s : State} {va n : Nat}

theorem touchPriv_owned {off : Nat} (h : tableGet s.core.tags (off / 4096) = some s.h.tag) : Ends (touchPriv off) s () s := by
  have owned : (tableGet s.core.tags (off / 4096) == some s.h.tag) = true := by
    rw [h]
    exact beq_self_eq_true _
  exact ends_get_bind (congrFun (if_pos owned) s)

/-- R49: an address of the scratchpad's window names its byte, whatever the gang's partition. -/
theorem windowOf_ownScratchpad (h : Hart) (g : Option Gang) (above : windowBase ≤ va) (below : va < windowBase + privateSize) :
    windowOf h g va = .spot (.priv h.ident (va - windowBase)) := by
  have inside : ¬(va < windowBase ∨ windowBase + 2 ^ 32 ≤ va) := by
    simp only [privateSize] at below
    omega
  rw [windowOf, if_neg inside, if_pos below]

variable (own : s.Own va n) (pos : 0 < n)
include own pos

theorem resolve_own (want : Want) (f : Nat) (v : Dword) : Ends (resolve s.who want f v va) s (s.ownTarget va) s := by
  obtain ⟨-, above, below, tag, -⟩ := own
  refine ends_get_bind ?_
  rw [windowOf_ownScratchpad _ _ above (by omega)]
  exact ends_bind (ends_bind (touchPriv_owned tag) rfl) rfl

end

section
variable {s : State} {va n : Nat} (own : s.Own va n)
include own

/-- R193: with no message on its way, an access of the hart passes none. -/
theorem ordered_own (seen dst loc k : Nat) : s.ordered s.h.ident seen dst loc k = true := by
  obtain ⟨-, -, -, -, -, mine, -⟩ := own
  have none_seen : s.mineOf s.h.ident seen = [] :=
    List.sublist_nil.mp (mine ▸ List.Sublist.filter (fun m : Msg => m.owner == s.h.ident) (List.take_sublist seen s.pkg.net))
  simp [State.ordered, none_seen]

theorem clearOf_own (loc k : Nat) : s.clearOf s.h.ident loc k = true := by
  obtain ⟨-, -, -, -, -, mine, -⟩ := own
  simp [State.clearOf, mine]

theorem buffer_own : s.h.sb = [] := by
  obtain ⟨-, -, -, -, sb, -⟩ := own
  exact sb

theorem awaitHome_own : Ends (awaitHome (s.ownLoc va) n) s () s := by
  obtain ⟨-, -, -, -, -, -, -, -, free, -⟩ := own
  exact (awaitHome_free free).trans (by rw [pulled_scratchpad s (ownLoc_scratchpad s va)])

theorem checkPoison_own (v : Dword) : Ends (checkPoison (s.ownLoc va) n v) s () s := by
  obtain ⟨-, -, -, -, -, -, -, -, -, clean⟩ := own
  exact checkPoison_clean clean v

end

/-! ### Homes outside the scratchpads -/

/-- A spot lies in a scratchpad. -/
theorem touch_scratchpad {p : Spot} {s u : State} {loc : Nat} (h : Ends (touch p) s loc u) : 2 ^ 64 ≤ loc := by
  cases p with
  | priv id off =>
    obtain ⟨⟨⟩, v, -, h⟩ := ends_of_bind h
    cases h
    simp only [privLoc]
    omega
  | part g off =>
    simp only [touch, Ends, run_get_bind] at h
    cases known : s.gang? g with
    | none =>
      rw [known] at h
      cases h
      simp only [clusLoc]
      omega
    | some g =>
      rw [known] at h
      obtain ⟨⟨⟩, v, -, h⟩ := ends_of_bind h
      cases h
      simp only [Gang.partLoc, clusLoc]
      omega

/-- The pulls of a walk leave the hart. -/
theorem pullWalk_h (s : State) (die : Nat) (w : Who) (va : Nat) : (s.pullWalk die w va).h = s.h := by
  have kept : Kept s (s.pullWalk die w va) := by
    unfold State.pullWalk
    split
    · refine Kept.foldl (fun s r => ?_) _ _
      cases r.2 with
      | none => exact Kept.rfl' s
      | some loc => exact kept_pulled s loc
    · exact Kept.rfl' s
  exact kept.1

theorem lookup_h (s : State) (w : Who) (va : Nat) : (s.lookup w va).2.h = s.h := by
  unfold State.lookup
  split
  · rfl
  · extract_lets
    split
    · rfl
    · split <;> exact pullWalk_h s _ w va

theorem translate_h (s : State) (w : Who) (want : Want) (va : Nat) : (s.translate w want va).2.h = s.h := by
  rcases translate_frame s w want va with same | same <;> rw [same]
  exact lookup_h s w va

/-- An access whose home lies outside the scratchpads leaves the hart as it resolves. -/
theorem resolve_h {s u : State} {w : Who} {want : Want} {f va : Nat} {v : Dword} {t : Target}
    (h : Ends (resolve w want f v va) s t u) (outside : t.loc < 2 ^ 63) : u.h = s.h := by
  simp only [Ends, resolve, run_get_bind] at h
  cases window : windowOf s.h (s.gang? s.h.gang) va with
  | spot p =>
    rw [window] at h
    obtain ⟨loc, x, touched, h⟩ := ends_of_bind h
    cases h
    exact absurd (touch_scratchpad touched) (by simp only at outside; omega)
  | hole =>
    rw [window] at h
    cases h
  | outside =>
    rw [window] at h
    obtain ⟨⟨⟩, x, walked, h⟩ := ends_of_bind h
    obtain rfl := awaitWalk_ends walked
    rw [← translate_h x w want va]
    generalize x.translate w want va = y at h ⊢
    obtain ⟨r, z⟩ := y
    simp only [Ends, run_set_bind] at h
    cases r with
    | error d => cases h
    | ok found =>
      obtain ⟨pa, e⟩ := found
      dsimp only at h
      cases place : z.pkg.place pa <;> rw [place] at h
      case remote loc package =>
        dsimp only at h
        cases route : z.pkg.route (dieOfCore z.core.id) package <;> rw [route] at h
        case some port =>
          dsimp only at h
          split at h <;> cases h
          rfl
        case none => cases h
      case nowhere => cases h
      case queue => cases h
      case host =>
        cases h
        rfl
      case dram =>
        cases h
        rfl

end Sys2Proof.Machine
end

section
/-! SUPPORT. Loads and atomics of the own scratchpad leave as messages where the core's number lies beyond the package's (R12,
R49, R188). -/

namespace Sys2Proof.Machine

/-- A hart on a core beyond those of the package (R12), with the base of its own scratchpad in X[1], where a first granule that
is its own holds a 1. -/
def farHart : State :=
  let s := Tests.at_ 1 windowBase
  { s with core := { s.core with id := 2000 }, mem := Memory.write [] (privLoc 2000 0) [1] }

/-- Nothing stands in the way of an access there, neither of a write. -/
theorem farHart_own : farHart.OwnWrite windowBase 8 := by
  unfold State.OwnWrite State.Own State.here
  decide +kernel

/-- A load, which completes, has sent a message. -/
theorem farHart_load_sends : Tests.goes (exec (.ldx 2 1 0 3) farHart) (fun t => t.pkg.net.length == 1) = true := by
  decide +kernel

theorem farHart_atomic_sends : Tests.goes (exec (.amoswap 2 1 0 1) farHart) (fun t => t.pkg.net.length == 1) = true := by
  decide +kernel

/-- A vector load has not written the first bit of its first element yet. -/
theorem farHart_vectorLoad_waits :
    Tests.goes (exec (.vld 2 1 0 2 0) farHart) (fun t => !fileBit t.h.v (1024 * 2)) = true := by
  decide +kernel

/-- Refutes O9: nothing in its hypotheses bounds the core's number, and a load from the own scratchpad of core 2000 leaves as a
message, since `homeOf` gives its home to a cluster of another die (R188). -/
theorem not_scalarLoadsComplete : ¬ Obligations.ScalarLoadsComplete := by
  unfold Obligations.ScalarLoadsComplete
  rintro ⟨loads, -⟩
  obtain ⟨own, -⟩ := loads 2 1 0 0 0 3 3 0 farHart farHart []
  obtain ⟨-, ldx, -⟩ := own (by decide +kernel)
  have sends := farHart_load_sends
  rw [ldx farHart_own.1] at sends
  exact absurd sends (by decide +kernel)

/-- Refutes O14: an atomic of the own scratchpad of core 2000 leaves as a message likewise. -/
theorem not_atomicsComplete : ¬ Obligations.AtomicsComplete := by
  unfold Obligations.AtomicsComplete
  rintro ⟨atomics, -⟩
  have rows : farHart.rowsRead := by
    unfold State.rowsRead
    decide +kernel
  obtain ⟨⟨own, -⟩, -⟩ := atomics 2 1 0 1 farHart farHart 0 0 (by decide +kernel) rows
  have sends := farHart_atomic_sends
  rw [own (by decide +kernel) farHart_own] at sends
  exact absurd sends (by decide +kernel)

/-- Refutes O39: the elements of a vector load from the own scratchpad of core 2000 leave as messages likewise, and the registers
stay 0 for the present, where memory holds a 1. -/
theorem not_vectorScratchpadIsAccessed : ¬ Obligations.VectorScratchpadIsAccessed := by
  unfold Obligations.VectorScratchpadIsAccessed
  rintro ⟨load, -⟩
  have groups : farHart.Groups 2 (widthOf 2) [] := by
    unfold State.Groups State.VecReady
    decide +kernel
  obtain ⟨t, completes, -, -, -, -, -, -, elements, -⟩ := load 2 1 0 2 0 farHart groups
    (by decide +kernel) (by decide +kernel) (by decide +kernel) (by decide +kernel) (by decide +kernel) (by decide +kernel)
    (by decide +kernel) (by decide +kernel) (by decide +kernel) (by decide +kernel) (by decide +kernel) (by decide +kernel)
    (by decide +kernel)
  have loaded : fileBit t.h.v (1024 * 2) = true :=
    (elements 0 (by decide +kernel) 0 (by decide +kernel)).trans (by decide +kernel)
  have waits := farHart_vectorLoad_waits
  rw [completes] at waits
  simp [Tests.goes, loaded] at waits

end Sys2Proof.Machine
end

section
/-! SUPPORT. Scalar stores enter the store buffer (R216, R218, R227, R228). -/

namespace Sys2Proof.Machine

section
variable {s : State} (room : s.h.sb.length < 32) (placed : s.h.placing = false) (va v : Dword) {n : Nat}
include room placed

/-- R227: an aligned release store enters the buffer. -/
theorem storeRelease_enters (scope : Nat) (aligned : va.toNat % n = 0) :
    Ends (storeRelease scope n va v) s () (s.pushStore va n v (.release scope)) :=
  ends_bind (trapIf_aligned aligned _ _ s) (queueStore_room room placed _ _ _ _)

/-- R228: an aligned timed store enters the buffer with its time, scope and guard. -/
theorem storeTimed_enters (scope : Nat) (time : Dword) (aligned : va.toNat % n = 0) :
    Ends (storeTimed scope n va time v) s ()
      (s.pushStore va n v (.timed scope time.toNat (guardOf s.h.tguard scope))) :=
  ends_bind (trapIf_aligned aligned _ _ s) (ends_get_bind (queueStore_room room placed _ _ _ _))

end

/-- R28: a store that enters the buffer changes no register. -/
theorem sameRegisters_pushStore (s : State) (va : Dword) (n : Nat) (v : Dword) (kind : StoreKind) :
    SameRegisters (s.pushStore va n v kind).h s.h := by
  simp [SameRegisters]

/-- Settles O11: each form is an entry of the store buffer, behind its check. -/
theorem scalarStoresComplete : Obligations.ScalarStoresComplete := by
  unfold Obligations.ScalarStoresComplete
  intro d a b sc o z h k s n aligned room placed
  refine ⟨finish_ok (queueStore_room room placed _ _ _ _), finish_ok (queueStore_room room placed _ _ _ _),
    fun al => finish_ok (storeRelease_enters room placed _ _ _ al),
    fun al => finish_ok (storeTimed_enters room placed _ _ _ _ al), fun kind => ?_⟩
  exact ⟨sameRegisters_pushStore s _ _ _ kind, rfl, rfl, rfl, _, congrArg (· ++ _) (Hart.atStore_sb s.h kind),
    rfl, rfl, rfl, rfl⟩

end Sys2Proof.Machine
end

section
/-! SUPPORT. Timed loads are sent to their homes (R228). -/

namespace Sys2Proof.Machine

/-- A timed load as its hart sends it from the state. -/
def State.timedLoad (s : State) (t : Target) (va : Dword) (n time : Nat) (dest : Dest) : Timed :=
  s.timed s.h.hartid s.h.instret.toNat s.issuedAt t va 0 time (s.loadGuard t.loc) (.load n dest s.pkg.tags) false []

/-- The state once it has been sent: the hart is owed its value. -/
def State.timedLoadSent (s : State) (t : Target) (va : Dword) (n time : Nat) (dest : Dest) : State :=
  { s with
    h := { s.h with pend := s.h.pend ++ [(s.pkg.tags, dest)] }
    pkg := { s.pkg with
      net := s.pkg.net ++
        [s.message (BitVec.ofNat 12 s.who.tid) (dstOf t.loc) va (.timed (s.timedLoad t va n time dest))]
      tags := s.pkg.tags + 1 } }

/-- R228: a timed load ends once its request is on its way; no other store of the buffer than a timed one overlaps it (R220). -/
theorem loadTimed_sends {s u : State} {t : Target} {va time : Dword} {n : Nat} {d : BitVec 5}
    (placed : s.h.placing = false) (aligned : va.toNat % n = 0)
    (apart : ∀ e ∈ s.h.sb, e.isTimed = true ∨ e.overlaps va.toNat n = false)
    (resolves : Ends (resolve s.who .load causeLoadFault va va.toNat) s t u) (inside : atHost t.loc = false)
    (clear : u.clearOf u.h.ident t.loc n = true) :
    Ends (loadTimed d n va time) s () (u.timedLoadSent t va n time.toNat (.x d.toNat)) := by
  have free : (!s.h.sb.any fun e => !e.isTimed && e.overlaps va.toNat n) = true := by
    simpa [or_iff_not_imp_left] using apart
  exact ends_bind (trapIf_aligned aligned _ _ s) (ends_bind (awaitPlaced_done placed) (ends_get_bind
    (ends_await_bind free (ends_bind resolves (ends_bind (noHost_inside inside _ _ u)
      (ends_get_bind (ends_await_bind clear rfl)))))))

/-- Settles O13: the request is on its way once the address resolves; in the own scratchpad it does, and leaves the state. -/
theorem timedLoadCompletes : Obligations.TimedLoadCompletes := by
  unfold Obligations.TimedLoadCompletes
  intro d a b y s n placed
  refine ⟨fun aligned own => ?_, fun u t aligned apart resolves inside clear => ?_⟩
  · have apart : ∀ e ∈ s.h.sb, e.isTimed = true ∨ e.overlaps (s.x a).toNat n = false := by
      simp [buffer_own own]
    have sends := loadTimed_sends (d := d) (time := s.x b) placed aligned apart
      (resolve_own own (Nat.two_pow_pos _) .load causeLoadFault (s.x a)) (atHost_of_scratchpad (ownLoc_scratchpad s _))
      (clearOf_own own _ _)
    exact ⟨_, _, finish_ok sends, rfl, rfl, rfl, rfl, rfl⟩
  · have home : atHost t.loc = false := by simpa [atHost] using inside
    exact ⟨_, _, finish_ok (loadTimed_sends placed aligned apart resolves home clear), rfl, rfl, rfl, rfl, rfl, rfl, rfl,
      _, rfl, rfl, rfl, rfl⟩

end Sys2Proof.Machine
end

section
/-! SUPPORT. Return-free and ordered reductions are performed in the own scratchpads, or sent to their homes (R231, R232). -/

namespace Sys2Proof.Machine

/-! ### Atomics of the own scratchpad (R201, R230) -/

section
variable {s : State} {o : AtomicOp} {va : Nat}

/-- R199: no fence has armed the hart, so its atomic releases nothing. -/
theorem armedWrite_unarmed (armed : s.h.armed = []) (spent : Bool) : s.armedWrite spent = (s, []) := by
  simp only [State.armedWrite, armed]

/-- An atomic reads the old value at its location and writes the new one there. -/
theorem atomicAt_scratchpad {loc : Nat} (h : 2 ^ 64 ≤ loc) (v e : Nat) :
    s.atomicAt o loc v e =
      (s.putBytes loc (bytesOf (o.width / 8) (o.apply (natOf (s.getBytes loc (o.width / 8))) v e).1),
        natOf (s.getBytes loc (o.width / 8)), (o.apply (natOf (s.getBytes loc (o.width / 8))) v e).2) := by
  unfold State.atomicAt
  rw [pulled_scratchpad s h]

variable (own : s.OwnWrite va (o.width / 8))
include own

theorem atomicHere_own (seen : Nat) (val : Dword) (v e : Nat) :
    Ends (atomicHere o seen val (s.ownTarget va) va v e) s
      (natOf (s.getBytes (s.ownLoc va) (o.width / 8)), (s.ownAtomic o va v e).2) (s.ownAtomicDone o va v e) := by
  obtain ⟨own, armed, -, pubs, here⟩ := own
  have buffer : (!(s.h.sb.any (·.overlaps va (o.width / 8))) && (!atHost (s.ownLoc va) || s.h.sb.isEmpty)) = true := by
    simp [buffer_own own]
  refine ends_get_bind (ends_await_bind buffer (ends_await_bind (ordered_own own seen _ _ _)
    (ends_bind (awaitHome_own own) (ends_bind (checkPoison_own own val) (ends_get_bind ?_)))))
  rw [armedWrite_unarmed armed]
  dsimp only
  rw [atomicAt_scratchpad (show 2 ^ 64 ≤ (s.ownTarget va).loc from ownLoc_scratchpad s va)]
  refine ends_bind (t := s.ownAtomicDone o va v e) rfl (ends_bind (a := ()) (t := s.ownAtomicDone o va v e) ?_ rfl)
  exact ends_orStop.mpr (forwardSpot_unpublished (s := s.ownAtomicDone o va v e) here pubs _ _ false)

end

/-! ### Reductions -/

/-- An aligned access of an atomic outside host memory is checked no further (R215, R231). -/
theorem resolveAtomic_ends {s u : State} {t : Target} {o : AtomicOp} {val : Dword} {va : Nat} (aligned : va % (o.width / 8) = 0)
    (resolves : Ends (resolve s.who .atomic causeAtomicFault val va) s t u) (inside : atHost t.loc = false) :
    Ends (resolveAtomic o val va) s t u := by
  have route : Ends (trapIf (atHost t.loc && !o.hostOk) causeAtomicFault val) u () u := by
    rw [inside]
    rfl
  exact ends_bind (trapIf_aligned aligned _ _ s) (ends_get_bind (ends_bind resolves (ends_bind route rfl)))

/-- The message that carries a reduction to its home; the hart of the state may have been armed by fences (R199). -/
def State.reduction (s : State) (t : Target) (o : AtomicOp) (va : Dword) (v : Nat) : Msg :=
  let u := (s.armedWrite false).1
  { u.message (BitVec.ofNat 12 u.who.tid) (dstOf t.loc) va (.reduce [⟨o, t.loc, v, va⟩]) with
    rels := (s.armedWrite false).2, race := t.race, spot := t.spot }

section
variable {s u : State} {o : AtomicOp} {va : Dword} (aligned : va.toNat % (o.width / 8) = 0)
include aligned

/-- R231: a reduction in the own scratchpad is performed, and left for the hart's rfence. -/
theorem reduce_own (own : s.OwnWrite va.toNat (o.width / 8)) (pos : 0 < o.width / 8) (seen v : Nat) :
    Ends (reduce o false seen va v) s (s.ownAtomic o va.toNat v 0).2 (s.ownReduceDone o va.toNat v) := by
  have inside : atHost (s.ownTarget va.toNat).loc = false := atHost_of_scratchpad (ownLoc_scratchpad s _)
  exact ends_bind (resolveAtomic_ends aligned (resolve_own own.1 pos .atomic causeAtomicFault va) inside)
    (ends_bind (noHost_inside inside _ _ _) (ends_bind (atomicHere_own own seen va v 0) rfl))

variable {t : Target} (resolves : Ends (resolve s.who .atomic causeAtomicFault va va.toNat) s t u)
  (apart : ∀ e ∈ u.h.sb, e.overlaps va.toNat (o.width / 8) = false) (inside : atHost t.loc = false)
include resolves apart inside

/-- R231: a reduction outside the scratchpads is sent as one message. -/
theorem reduce_sends (outside : t.spot = none) (seen v : Nat) :
    Ends (reduce o false seen va v) s 0 ((u.armedWrite false).1.send (u.reduction t o va v)) := by
  have free : (!(u.h.sb.any (·.overlaps va.toNat (o.width / 8)))) = true := by simpa using apart
  refine ends_bind (resolveAtomic_ends aligned resolves inside) (ends_bind (noHost_inside inside _ _ _) ?_)
  rw [outside]
  exact ends_get_bind (ends_await_bind free rfl)

/-- R232: an ordered reduction is sent to the home of its address, to be held there until its time. -/
theorem reduceOrdered_sends (clear : u.clearOf u.h.ident t.loc (o.width / 8) = true) (sc time v : Nat) :
    ∃ (m : Msg) (op : Timed), Ends (reduceOrdered o sc va va 0 time v) s ()
        { u with h := u.h.released, pkg := { u.pkg with net := u.pkg.net ++ [m] } } ∧
      m.body = .timed op ∧ op.body = .reduce o v ∧ op.time = time ∧ op.key = t.loc ∧ op.ordered = true := by
  have free : (!(u.h.sb.any (·.overlaps va.toNat (o.width / 8)))) = true := by simpa using apart
  exact ⟨_, _, ends_bind (trapIf_aligned aligned _ _ s) (ends_get_bind (ends_bind resolves
    (ends_bind (noHost_inside inside _ _ _) (ends_get_bind (ends_await_bind free (ends_await_bind clear rfl)))))),
    rfl, rfl, rfl, rfl, rfl⟩

end

/-! ### The instructions -/

/-- R106: a floating operation sets NDET, where DET does not forbid it. -/
theorem issueFloat_floating {s : State} {op : Nat} (w : BitVec 1) (h : 10 ≤ op) (det : bit s.h.fcsr 20 = false) :
    Ends (issueFloat (s.atomicOp op w).floating) s () s.ndet := by
  rw [show (s.atomicOp op w).floating = true from decide_eq_true h]
  exact ends_bind (detCheck_clear det) rfl

/-- An operation's width is a whole number of bytes. -/
theorem atomicOp_bytes_pos (s : State) (op : Nat) (w : BitVec 1) : 0 < (s.atomicOp op w).width / 8 := by
  rw [atomicOp_bytes]
  split <;> decide

section
variable {s : State} (rows : s.rowsRead)
include rows

/-- R231: a return-free reduction, issued in the state `u`, ends with its flags set. -/
theorem red_ends {u t : State} {op : Nat} {a b : BitVec 5} {w : BitVec 1} {fl : Flags}
    (issues : Ends (issueFloat (s.atomicOp op w).floating) s () u)
    (reduces : Ends (reduce (s.atomicOp op w) false s.seen (s.x a) (nread (s.x b) (s.atomicOp op w).width)) u fl t) :
    Ends (red op a b w) s () (t.setFlags fl) :=
  ends_bind (awaitRead_done rows) (ends_get_bind (ends_bind issues (ends_bind reduces rfl)))

theorem redOrd_ends {t : State} {op : Nat} {f : Bool} {d a b : BitVec 5} {sc : BitVec 4}
    (reduces : Ends (reduceOrdered ⟨op, f, 32, false, s.rm, s.sat⟩ sc.toNat (s.x a) (s.x a) 0 (s.x d).toNat
      (nread (s.x b) 32)) s () t) :
    Ends (redOrd op f d a b sc) s () t :=
  ends_bind (awaitRead_done rows) (ends_get_bind reduces)

end

/-- Settles O15: an instruction is its reduction, between the wait for rows and its flags; in the own scratchpad that is an
atomic performed at once, elsewhere a message. -/
theorem reductionsComplete : Obligations.ReductionsComplete := by
  unfold Obligations.ReductionsComplete
  refine ⟨fun d a b w sc s t fl => ?_, fun s u t o va v sc time aligned empty resolves outside => ?_⟩
  · intro n va v own int float ordered rows
    have issued (i : Instr) (op : Nat) (u : State) (issues : Ends (issueFloat (s.atomicOp op w).floating) s () u)
        (mine : s.OwnWrite va.toNat (n / 8) → u.OwnWrite va.toNat (n / 8)) (is : exec i s = finish (red op a b w) s) :
        own u i (s.atomicOp op w) ∧ (Ends (reduce (s.atomicOp op w) false s.seen va v) u fl t →
          exec i s = .next (t.setFlags fl).retire) := by
      exact ⟨fun aligned free => is.trans (finish_ok (red_ends rows issues
          (reduce_own aligned (mine free) (atomicOp_bytes_pos s op w) s.seen v))),
        fun reduces => is.trans (finish_ok (red_ends rows issues reduces))⟩
    have integer (i : Instr) (op : Nat) (below : op < 10) (is : exec i s = finish (red op a b w) s) : int i op :=
      issued i op s (issueFloat_integer w below) id is
    have floating (i : Instr) (op : Nat) (above : 10 ≤ op) (is : exec i s = finish (red op a b w) s) : float i op :=
      fun det => issued i op s.ndet (issueFloat_floating w above det) id is
    have timed (i : Instr) (op : Nat) (f : Bool) (is : exec i s = finish (redOrd op f d a b sc) s) : ordered i op f := by
      refine ⟨fun aligned mine => ?_, fun reduces => is.trans (finish_ok (redOrd_ends rows reduces))⟩
      have whole : va.toNat % (32 / 8) = 0 := aligned
      obtain ⟨m, x, sends, facts⟩ := reduceOrdered_sends (o := ⟨op, f, 32, false, s.rm, s.sat⟩) whole
        (resolve_own mine (by decide) .atomic causeAtomicFault va) (by simp [buffer_own mine])
        (atHost_of_scratchpad (ownLoc_scratchpad s _)) (clearOf_own mine _ _) sc.toNat (s.x d).toNat ((s.x b).toNat % 2 ^ 32)
      exact ⟨m, x, is.trans (finish_ok (redOrd_ends rows sends)), facts⟩
    exact ⟨integer _ 1 (by decide) rfl, integer _ 2 (by decide) rfl, integer _ 3 (by decide) rfl,
      integer _ 4 (by decide) rfl, integer _ 5 (by decide) rfl, integer _ 6 (by decide) rfl, integer _ 7 (by decide) rfl,
      integer _ 8 (by decide) rfl, floating _ 10 (by decide) rfl, floating _ 11 (by decide) rfl,
      floating _ 12 (by decide) rfl, timed _ 10 true rfl, timed _ 1 false rfl, timed _ 11 true rfl, timed _ 12 true rfl⟩
  · have inside : atHost t.loc = false := by
      simp only [atHost, decide_eq_false (Nat.not_le.mpr outside), Bool.false_and]
    have apart : ∀ e ∈ u.h.sb, e.overlaps va.toNat (o.width / 8) = false := by
      simp [resolve_h resolves outside, empty]
    have unwritten : (u.armedWrite false).1.pkg = u.pkg ∧ (u.armedWrite false).1.mem = u.mem := by
      unfold State.armedWrite
      split <;> exact ⟨rfl, rfl⟩
    refine ⟨fun noSpot => ⟨_, u.reduction t o va v, reduce_sends aligned resolves apart inside noSpot s.seen v,
      congrArg (fun p => p.net ++ _) unwritten.1, rfl, rfl, unwritten.2, rfl⟩, fun clear => ?_⟩
    obtain ⟨m, op, sends, body, op_eq, time_eq, key_eq, ordered_eq⟩ :=
      reduceOrdered_sends aligned resolves apart inside clear sc time v
    exact ⟨_, m, op, sends, rfl, body, op_eq, time_eq, key_eq, ordered_eq, rfl, by simp [SameRegisters]⟩

end Sys2Proof.Machine
end

section
/-! SUPPORT. Events of harts: stores that leave the buffer, pauses, pre-emption, parking and resuming (R218, R276, R332, R382 to
R387), and the traps of what a hart owes (R219, R251, R269, R380, R387, R396). -/

namespace Sys2Proof.Machine

/-! ### Meanings that choose -/

section
variable {α : Type} {m n : M α} {s t : State} {a : α} {c : Prop} [Decidable c]

theorem ends_if_pos (h : c) (runs : Ends m s a t) : Ends (if c then m else n) s a t := by
  rwa [if_pos h]

theorem ends_if_neg (h : ¬c) (runs : Ends n s a t) : Ends (if c then m else n) s a t := by
  rwa [if_neg h]

end

/-! ### Events of a core -/

section
variable {s u : State} {core : Nat} {m : M Unit} (awake : s.awake core)
include awake

theorem comes_of_awake :
    ¬(1536 ≤ core ∨ s.pkg.stopped (dieOfCore core) ∨ ¬(s.coreAt core).2.present ∨ s.areaWaits (s.coreAt core).2) := by
  obtain ⟨inside, runs, present, area⟩ := awake
  simp [inside, runs, present, area]

theorem atCore_ends (h : Ends m (s.focus core) () u) : s.atCore core m = .next (u.focus s.core.id) := by
  rw [State.atCore, if_neg (comes_of_awake awake), finishAt_ok h]

theorem atCore_traps {k : Trap} {x : State} (h : Traps m (s.focus core) k x) (free : x.entryWaits = false)
    (takes : takeTrap k x = .next u) : s.atCore core m = .next (u.focus s.core.id) := by
  rw [State.atCore, if_neg (comes_of_awake awake), finishAt_trap h free, takes]

end

/-! ### The store buffer (R218, R390) -/

section
variable {f u : State} {e : SbEntry} {rest : List SbEntry} (oldest : f.h.sb = e :: rest) (room : f.h.sfq.length < 8)
  (rows : f.h.rowsBefore e.instret = false)
include oldest room rows

/-- With room for a record, the oldest store's entry is tried. -/
theorem drainOne_leaves (h : Ends (drainEntry e) { f with h := { f.h with sb := rest } } () u) : Ends drainOne f () u := by
  refine ends_get_bind ?_
  have full : ¬8 ≤ f.h.sfq.length := Nat.not_le.mpr room
  simp only [oldest, full, rows, false_and, decide_false, Bool.or_self, Bool.false_eq_true, if_false]
  simp only [Ends, show drainEntry e { f with h := { f.h with sb := rest } } = _ from h]
  rfl

/-- One that faults becomes a record. -/
theorem drainOne_faults {k : Trap} (h : Traps (drainEntry e) { f with h := { f.h with sb := rest } } k u)
    (space : u.h.sfq.length < 8) :
    Ends drainOne f () { u with
      h := { u.h with sfq := u.h.sfq ++ [⟨e.va, e.pc, BitVec.ofNat 8 (2 ^ e.size - 1), BitVec.ofNat 8 k.cause⟩] } } := by
  refine ends_get_bind ?_
  have full : ¬8 ≤ f.h.sfq.length := Nat.not_le.mpr room
  simp only [oldest, full, rows, false_and, decide_false, Bool.or_self, Bool.false_eq_true, if_false]
  have kept : u.keepFault ⟨e.va, e.pc, maskOf e.size, BitVec.ofNat 8 k.cause⟩ = some { u with
      h := { u.h with sfq := u.h.sfq ++ [⟨e.va, e.pc, maskOf e.size, BitVec.ofNat 8 k.cause⟩] } } := if_pos space
  simp only [Ends, show drainEntry e { f with h := { f.h with sb := rest } } = _ from h]
  exact ends_bind rfl (ends_orStop.mpr kept)

end

/-- A hart that has not ended ends no gang as a store leaves. -/
theorem drainStep_ends {f u : State} (h : Ends drainOne f () u) (runs : u.h.status ≠ .exited) : Ends drainStep f () u := by
  refine ends_bind h (ends_get_bind ?_)
  rw [if_neg (by simpa using runs)]
  rfl

/-- R332: a pause that has one cycle left has run down. -/
theorem pauseExpiry_ends {f : State} (last : f.h.pauseLeft = 1) :
    Ends pauseExpiry f () { f with h := { f.h with pauseLeft := 0 } } := by
  simp [Ends, pauseExpiry, last]

/-! ### Parking (R383, R385, R387) -/

/-- R383: a hart that stops is parking, and its request is heeded. -/
theorem stopHart_leaves {f u : State} (h : Ends stopHart f () u) : u.h.status = .parking ∧ u.h.preempt = false := by
  obtain ⟨⟨⟩, x, -, h⟩ := ends_of_bind h
  cases h
  exact ⟨rfl, rfl⟩

theorem preemptStop_ends {f u : State} (asked : f.h.preempt = true) (report : f.h.report = some .park)
    (turn : f.turnDue f.h.ident = false) (h : Ends stopHart f () u) : Ends preemptStop f () u := by
  refine ends_get_bind ?_
  rw [asked, report, turn]
  exact h

/-- Some core still holds a hart of the gang. -/
theorem hartLeft_iff {cores : List (Core × Hart)} {gang : Nat} :
    (cores.any fun e => e.2.present && e.2.gang == gang) = true ↔ ∃ e ∈ cores, e.2.present = true ∧ e.2.gang = gang := by
  simp

section
variable {f x v u : State} {g : Gang} {rs : List SfRecord}

/-- The hart as it is saved when it parks, with the records of its save area behind those of its queue. -/
def Hart.parked (h : Hart) (rs : List SfRecord) : Hart := { h with preempt := false, sfq := h.sfq ++ rs }

/-- The state once a hart of gang `g` has been saved and its core is free. -/
def State.saved (v : State) (g : Gang) (h : Hart) : State :=
  (v.onGang g.id fun g => { g with saved := g.saved ++ [h] }).emptyCore v.core.id

variable (known : f.gang? f.h.gang = some g) (phase : g.phase = .parking) (empty : f.h.sb = [])
  (stopped : f.h.status = .parking ∨ f.h.status = .halted ∨ f.h.status = .exited)
  (flushes : f.flushBatches f.h.ident (fun _ _ => true) = some x)
  (records : x.savedFaults { x.h with preempt := false } = some rs)
  (saves : x.saveCsa (x.h.parked rs) 2 (x.owed (x.h.parked rs).ident) = some v)
include known phase empty stopped flushes records saves

/-- R385: a hart that has stopped is saved; the last one of its gang parks it. -/
theorem parkComplete_ends
    (last : Ends (if (v.saved g (x.h.parked rs)).cores.any (fun e => e.2.present && e.2.gang == g.id) then pure ()
      else gangParked g.id) (v.saved g (x.h.parked rs)) () u) :
    Ends parkComplete f () u := by
  have goes : ¬(g.phase != .parking || !(f.h.status == .parking || f.h.status == .halted || f.h.status == .exited) ||
      !f.h.sb.isEmpty) = true := by
    rcases stopped with h | h | h <;> simp [phase, empty, h]
  refine ends_get_bind ?_
  rw [known]
  refine ends_if_neg goes (ends_bind (ends_orStop.mpr flushes) (ends_get_bind ?_))
  show Ends (match x.savedFaults { x.h with preempt := false } with | some rs => _ | none => _ : M Unit) x () u
  rw [records]
  exact ends_bind (ends_orStop.mpr saves) (ends_bind (t := v.saved g (x.h.parked rs)) rfl (ends_get_bind last))

end

/-! ### Gangs (R382, R386, R387) -/

/-- A resident gang whose notice lies a time `d` or more back; for every `d`, since 20 microseconds are a numeral too large to
be unfolded. -/
theorem notice_passed {g : Gang} {t0 d now : Nat} (phase : g.phase = .resident) (noticed : g.noticeAt = some t0)
    (late : t0 + d ≤ now) : (g.phase == .resident && g.noticeAt.any fun t => decide (t + d ≤ now)) = true := by
  simp [phase, noticed, late]

section
variable {s u : State} {id : Nat} {g : Gang} (known : s.gang? id = some g)
include known

/-- R387: a gang that has not begun to park 20 microseconds after its notice is asked to. -/
theorem noticeTimeout_ends {t0 : Nat} (phase : g.phase = .resident) (noticed : g.noticeAt = some t0)
    (late : t0 + nanoseconds 20000 ≤ s.pkg.time) (clears : s.clearNotice id = some u) :
    Ends (noticeTimeout id) s () (u.preemptGang id) := by
  refine ends_get_bind ?_
  rw [known]
  exact ends_if_pos (notice_passed phase noticed late) (ends_bind (ends_orStop.mpr clears) rfl)

/-- R311: the entry of a parked gang moves to the list of another die. -/
theorem resumeMove_ends {die : Nat} (phase : g.phase = .parked) (inside : die < 4)
    (moves : (({ s with pkg := s.pkg.unreserve g.die id } : State).onGang id fun g => { g with die := die }).select die =
      some u) :
    Ends (resumeMove id die) s () u := by
  have goes : ¬(g.phase != .parked || decide (4 ≤ die)) = true := by
    simp [phase, Nat.not_le.mpr inside]
  refine ends_get_bind ?_
  rw [known]
  exact ends_if_neg goes (ends_orStop.mpr moves)

/-- R386: with every response come and no array asleep, the harts are loaded on the cores held for them. -/
theorem gangResume_ends (phase : g.phase = .resuming) (kept : g.discard = false)
    (runs : s.pkg.stopped (g.cluster / 48) = false) (settled : ∀ h ∈ g.saved, s.owed h.ident = 0 ∧ s.areaWaits h = false)
    (awake : s.pkg.retained (s.arraysAt g (g.saved.filterMap fun h => s.heldCore g.id (bits h.gidx 0 3))) = [])
    (loads : g.saved.foldl (fun (r : Option State) h => r.bind fun r =>
      match s.heldCore g.id (bits h.gidx 0 3) with
      | some c => r.resumeHart g c h
      | none => some r) (some s) = some u) :
    Ends (gangResume id) s () (u.onGang id fun g => { g with phase := .resident, saved := [] }) := by
  have goes : ¬(g.phase != .resuming || g.discard || g.saved.any s.areaWaits || s.pkg.stopped (g.cluster / 48) ||
      g.saved.any fun h => s.owed h.ident != 0) = true := by
    have areas : g.saved.any s.areaWaits = false := by
      simpa using fun h mem => (settled h mem).2
    have owed : (g.saved.any fun h => s.owed h.ident != 0) = false := by
      simpa using fun h mem => (settled h mem).1
    simp [phase, kept, runs, areas, owed]
  have arrays : ((g.saved.map fun h => (s.heldCore g.id (bits h.gidx 0 3), h)).filterMap (·.1)) =
      g.saved.filterMap fun h => s.heldCore g.id (bits h.gidx 0 3) := by
    rw [List.filterMap_map]
    rfl
  refine ends_get_bind ?_
  rw [known]
  refine ends_if_neg goes (ends_if_neg (by simp [arrays, awake]) (ends_bind (ends_orStop.mpr ?_) rfl))
  rw [List.foldl_map]
  exact loads

end

/-- R382: a pre-emption request leaves what its operation makes of the state. -/
theorem preqWrite_completes {a : Agent} {die : Nat} {v : Dword} {s t : State} (h : preqWrite a die v s = some t) :
    exec (.evPreqWrite a die v) s = .next t :=
  finishAt_ok (ends_orStop.mpr h)

/-! ### What is owed at a boundary (R380) -/

/-- A report that the event picks is taken. -/
theorem reportIf_traps {f x : State} {r : Report} {k : Trap} {picks : Report → Bool} (owed : f.h.report = some r)
    (picked : picks r = true) (takes : Traps (takeReport r) f k x) : Traps (reportIf picks) f k x := by
  refine traps_get_bind ?_
  rw [owed]
  simp only [picked, if_true]
  exact takes

/-- Settles O47: each event by the lemma about it. -/
theorem hartEventsComplete : Obligations.HartEventsComplete := by
  unfold Obligations.HartEventsComplete
  refine ⟨⟨fun core s u awake => ?_, fun id t0 g s u known phase noticed late clears =>
      finishAt_ok (noticeTimeout_ends known phase noticed late clears),
    fun id g s u known phase kept runs settled arrays loads =>
      finishAt_ok (gangResume_ends known phase kept runs settled arrays loads),
    fun id die g s t known phase inside moves => finishAt_ok (resumeMove_ends known phase inside moves),
    fun a die v s t inside => ?_⟩, fun core s u awake => ?_⟩
  · intro f
    refine ⟨?_, fun last => atCore_ends awake (pauseExpiry_ends last), fun asked report turn stops => ?_, ?_⟩
    · intro e rest oldest room runs rows x
      exact ⟨fun leaves same => atCore_ends awake (drainStep_ends (drainOne_leaves oldest room rows leaves) (same ▸ runs)),
        fun k faults same space =>
          atCore_ends awake (drainStep_ends (drainOne_faults oldest room rows faults space) (same ▸ runs))⟩
    · obtain ⟨inside, -⟩ := awake
      refine ⟨?_, stopHart_leaves stops⟩
      show execEvPreemptStop core s = _
      rw [execEvPreemptStop, if_neg (Nat.not_le.mpr inside), finishAt_ok (preemptStop_ends asked report turn stops)]
    · intro g x v rs known phase empty stopped flushes records h saves w
      have parks {u : State} := parkComplete_ends (u := u) known phase empty stopped flushes records saves
      refine ⟨fun others => atCore_ends awake (parks (ends_if_pos (hartLeft_iff.mpr others) rfl)),
        fun gone last => atCore_ends awake (parks (ends_if_neg (fun left => ?_) last))⟩
      obtain ⟨e, mem, present, same⟩ := hartLeft_iff.mp left
      exact gone e mem present same
  · intro named
    have refused (user : supervises a = false) : (!(supervises a) || decide (4 ≤ die)) = true := by
      simp [user]
    have served (may : supervises a = true) : ¬(!(supervises a) || decide (4 ≤ die)) = true := by
      simp [may, inside]
    exact ⟨fun user => preqWrite_completes (if_pos (refused user)),
      fun may now => preqWrite_completes ((if_neg (served may)).trans (if_neg (ne_true_of_eq_false now))),
      fun may later gives => preqWrite_completes ((if_neg (served may)).trans ((if_pos later).trans gives))⟩
  · intro f settled takes
    have taken {i : Instr} {picks : Report → Bool} {r : Report} {k : Trap} {x : State}
        (is : exec i s = s.atCore core (reportIf picks)) (owed : f.h.report = some r) (picked : picks r = true)
        (trap : Traps (takeReport r) f k x) (still : x.h.xSettled = true) (enters : takeTrap k x = .next u) :
        LeavesAt i s u :=
      is.trans (atCore_traps awake (reportIf_traps owed picked trap) (entryWaits_of_settled still) enters)
    exact ⟨fun r owed enters => taken rfl owed rfl rfl settled enters,
      fun v owed enters => taken rfl owed rfl rfl settled enters,
      fun v owed enters => taken rfl owed rfl rfl settled enters,
      fun v owed enters => taken rfl owed rfl rfl settled enters,
      fun v owed enters => taken rfl owed rfl rfl settled enters⟩

end Sys2Proof.Machine
end
